-- ==== Sys2Proof/Word.lean ====
section
/-!
DEFINITION. The word types of the module (R5, R6): a message word is 64 bits, a pigeonhole register 32 bits, a
memory cell one byte; and the small finite names of dies and units (R15, R19).
-/

namespace Sys2Proof

/-- A 64-bit word of a message, a descriptor or a record (R6). -/
abbrev Word := BitVec 64
/-- A 32-bit pigeonhole register (R413). -/
abbrev Half := BitVec 32
/-- One byte. -/
abbrev Byte := BitVec 8

/-- Compute die CD00 to CD15 (R15). -/
abbrev Die := Fin 16
/-- Control die CT0, CT1. -/
abbrev Ct := Fin 2
/-- Cabinet CAB0 to CAB15. -/
abbrev Cab := Fin 16
/-- HBM stack H00 to H31. -/
abbrev Stack := Fin 32
/-- Edge die ED0 to ED3. -/
abbrev Edge := Fin 4
/-- Physical cluster C0 to C8 of a die (R77). -/
abbrev Phys := Fin 9
/-- Session number: edge die in [12:11], slot in [10:0] (R382). -/
abbrev Sess := Fin 8192

/-- A number taken into a 64-bit word, its higher bits dropped. -/
abbrev word (n : Nat) : Word := BitVec.ofNat 64 n

end Sys2Proof
end

