-- ==== Sys2Proof/Machine/Types.lean ====
section
/-!
DEFINITION. The operand types of the commands (the rows of spec/opcode_table.json): where a request comes from, what an
Ilnil request carries, and what the outside world or an unmodelled medium (the SSD, a wire, the package) delivers with an
event. Plain data, all of it.
-/

namespace Sys2Proof

/-- Where an Ilnil request comes from: a pigeonhole or a tray of a control die (R410), or a tenant's session (R426). -/
inductive Src where
  | pigeon (ct : Ct) (n : Fin 32)
  | tray (ct : Ct) (n : Fin 56)
  | session (n : Sess)
  deriving DecidableEq, Repr

/-- An Ilnil request as it stands in its channel (R421): the header fields, header word 1 whole, and the payload words.
The opcode is the row's own. -/
structure Req where
  stream : Fin 4096
  mseq : BitVec 16
  kind : Fin 16
  length : BitVec 16
  word1 : Word
  payload : List Word
  deriving DecidableEq, Repr

/-- A projection of a shelf layer as the shelf program declares it (R228): number, K, N, whether it is adaptable. -/
structure ProjInfo where
  proj : Nat
  k : Nat
  n : Nat
  adaptable : Bool
  deriving DecidableEq, Repr

/-- One layer of the shelf image's layer table (R39, R70): its bytes, its projections, whether it has extra experts (R252). -/
structure LayerInfo where
  bytes : Nat
  projs : List ProjInfo
  xexperts : Bool
  deriving DecidableEq, Repr

/-- What the command processor takes from a shelf image read from the SSD: its bytes, their measurement (R36), which the mount forms,
its layer table (R39) and the facts of the shelf program that admission and runs use. The image's byte layout is Uhlip's. -/
structure ShelfImage where
  bytes : List Byte
  meas : BitVec 512
  layers : List LayerInfo
  context : Nat
  kvBytesPerToken : Nat
  rowBytes : Nat
  deriving DecidableEq, Repr

/-- A tensor that a program carries in its PROGRAM pages (R71): its length, its format code, its bytes. -/
structure TensorInfo where
  handle : BitVec 32
  bytes : Nat
  fmt : Nat
  data : List Byte
  deriving DecidableEq, Repr

/-- What a program image holds (R67, R70): header, signature verdict, measurement, descriptors (eight or twelve words each),
vector text and tensors, and of a run program the bytes of saved activations that a token leaves on a die (R272). The container's byte
layout is Uhlip's. -/
structure ProgramImage where
  programId : BitVec 32
  shelfMeas : BitVec 512
  sigOk : Bool
  meas : BitVec 512
  descs : List (List Word)
  text : List Word
  tensors : List TensorInfo
  savedBytes : Nat
  deriving DecidableEq, Repr

/-- The planes of one projection of a drawer (R231): A is K rows of r codes, B r rows of N codes, and their INT8 remainders. -/
structure FactorData where
  a : List (List Nat)
  b : List (List Nat)
  ar : List (List Nat)
  br : List (List Nat)
  deriving DecidableEq, Repr

/-- A decrypted drawer image (R229 to R231): sixteen header words, the projection and expert tables, the planes, and per
extra expert its BF16 codes and their remainders. -/
structure DrawerImage where
  header : List Word
  projTable : List (Word × Word)
  expertTable : List (Word × Word)
  factors : List FactorData
  experts : List (List Nat × List Nat)
  deriving DecidableEq, Repr

/-- A decrypted dataset as the intake reports it (R269): header word 0, whether every reserved field is zero, whether every
length stays within the object, and per sequence its LENGTH and its LOSS-token count (tokens after the first). -/
structure Dataset where
  word0 : Word
  rsvZero : Bool
  withinObject : Bool
  seqs : List (Nat × Nat)
  deriving DecidableEq, Repr

/-- A catalog object (R232 to R235): its index facts, whether every chunk's tag verifies, what decryption gives, and the
START_RUN words of the run that wrote it where the entry records them (R268). -/
structure CatObj where
  handle : Word
  version : BitVec 32
  tenant : BitVec 32
  bytes : Nat
  meas : BitVec 512
  tagsOk : Bool
  image : Option DrawerImage
  dataset : Option Dataset
  runWords : List Word
  deriving DecidableEq, Repr

/-- A serving request as its session carries it (R54): the drawer handle (0 for none), the row-tag value it names, the
prompt's rows and the tokens to deliver. -/
structure ServeReq where
  handle : Word
  rowTag : BitVec 16
  promptRows : Nat
  tokens : Nat
  deriving DecidableEq, Repr

/-- A weight operand as the stream unit delivers it (R88, R93): N columns of K element codes, per column the E8M0 codes of
its blocks of 32 along K, and the FP32 codes of INT8 channel scales (along N; along the new K when the operand is read
transposed, R92). -/
structure Weights where
  cols : List (List Nat)
  scales : List (List Nat)
  chan : List Nat
  deriving DecidableEq, Repr

/-- A bias vector: format code and N element codes (R182). -/
structure BiasOp where
  fmt : Nat
  codes : List Nat
  deriving DecidableEq, Repr

/-- An elementwise tensor: format code and rows of N element codes (R182). -/
structure ElemOp where
  fmt : Nat
  rows : List (List Nat)
  deriving DecidableEq, Repr

/-- The issue of a matrix-op descriptor on one die (R109): the eight words as the command processor filled them, the job it
belongs to, its index in the program, and the operands that the stream units and the output stage receive. -/
structure MatIssue where
  die : Die
  jobSeq : BitVec 32
  opIndex : BitVec 20
  words : List Word
  weights : Weights
  bias : BiasOp
  elems : ElemOp
  deriving DecidableEq, Repr

/-- The vector engine of one cluster (R79): die and physical cluster. -/
structure VUnit where
  die : Die
  cl : Phys
  deriving DecidableEq, Repr

/-- Fields of a class R vector instruction (R202). -/
structure RFields where
  type : Fin 8
  vd : Fin 32
  men : Bool
  ms : Fin 8
  zm : Bool
  va : Fin 32
  vb : Fin 32
  vc : Fin 32
  sr : Bool
  xf : Fin 8
  ba : Bool
  lane : Fin 512
  half : Bool
  deriving DecidableEq, Repr

/-- Fields of a class I vector instruction (R202). -/
structure IFields where
  type : Fin 8
  vd : Fin 32
  men : Bool
  ms : Fin 8
  zm : Bool
  imm : BitVec 32
  deriving DecidableEq, Repr

/-- Fields of a class M vector instruction (R202). -/
structure MFields where
  type : Fin 8
  vd : Fin 32
  men : Bool
  ms : Fin 8
  zm : Bool
  va : Fin 32
  as : Fin 8
  off : BitVec 16
  xf : Fin 8
  deriving DecidableEq, Repr

/-- Fields of a class T vector instruction (R202). -/
structure TFields where
  vd : Fin 32
  men : Bool
  ms : Fin 8
  zm : Bool
  va : Fin 32
  eng : Fin 8
  tile : Fin 8
  row : Fin 128
  c : Bool
  deriving DecidableEq, Repr

/-- A fill of a panel buffer (R88 to R92): which buffer, the projection, whether it is read transposed and in which stored format, the
index of the run's first panel in traversal order, and the panels, each with its part of the scales. -/
structure PanelFill where
  buffer : Fin 2
  layer : BitVec 16
  proj : BitVec 8
  trans : Bool
  fmt : Nat
  first : Nat
  panels : List Weights
  deriving DecidableEq, Repr

/-- The owner of work that a fault touched (R448): stream, job sequence, descriptor index and row tag; `request` names a
serving request by its index in the model's request table, `run` an adaptation run. -/
structure Touch where
  stream : Fin 4096
  jobSeq : BitVec 32
  opIndex : BitVec 20
  rowTag : BitVec 16
  request : Option Nat
  run : Option (BitVec 32)
  deriving DecidableEq, Repr

/-- A fault report as it reaches the command processor (R445, R446). -/
structure Report where
  cls : Nat
  severity : Fin 4
  block : Fin 16
  unit : Fin 64
  die : Die
  cab : Option Cab
  d2 : Word
  d3 : Word
  touched : List Touch
  deriving DecidableEq, Repr

/-- A junction sensor (R456): the block kind of R446, its unit and die, and the sensor's number. -/
structure Sensor where
  block : Fin 16
  unit : Fin 64
  die : Die
  sensor : BitVec 8
  deriving DecidableEq, Repr

/-- A frame received at an Ethernet port (R479, R480). `datagram` holds the UDP payload's bytes, `hash` the CRC-32 of
addresses and ports that the receive descriptor carries (R486). -/
structure Frame where
  bytes : Nat
  pause : Bool
  vlan : BitVec 12
  udp : Bool
  v6 : Bool
  dst : BitVec 128
  src : BitVec 128
  dstPort : BitVec 16
  srcPort : BitVec 16
  sumsOk : Bool
  fcsOk : Bool
  hash : BitVec 32
  content : List Byte
  datagram : List Byte
  deriving DecidableEq, Repr

/-- The acknowledgement fields that open every protected record (R482). -/
structure AckFields where
  next : Word
  map : Word
  deriving DecidableEq, Repr

/-- A protected record as it arrives (R385, R482): session, counter, whether its tag verifies, the source it came from,
its acknowledgement fields. -/
structure Record where
  session : Sess
  counter : Word
  tagOk : Bool
  src : BitVec 128
  srcPort : BitVec 16
  ack : AckFields
  deriving DecidableEq, Repr

/-- A block that wears or caches gloves (R379). -/
inductive GBlock where
  | cluster (die : Die) (cl : Phys)
  | controller (st : Stack)
  | edge (ed : Edge)
  deriving DecidableEq, Repr

/-- Who makes an HBM access (R345, R352): the SOURCE codes of the error record. -/
inductive MemSource where
  | engine | controlPlane | readModifyWrite | patrol | demand | supply
  deriving DecidableEq, Repr

/-- A gloved access's standing (R338): the glove id and the cabinet of the block that makes it. -/
structure Accessor where
  glove : BitVec 16
  cab : Cab
  source : MemSource
  touch : Touch
  deriving DecidableEq, Repr

/-- The scope of a reset (R439). -/
inductive Scope where
  | cluster (die : Die) (cl : Phys)
  | die (die : Die)
  | cabinet (cab : Cab) (keepShelf : Bool)
  deriving DecidableEq, Repr

/-- Who sends over the lattice (R23, R27): a compute die, an edge die or a control die. -/
inductive Node where
  | die (d : Die)
  | edge (e : Edge)
  | ct (c : Ct)
  deriving DecidableEq, Repr

/-- A lattice packet (R22, R23, R380): who sent it, where it goes, the cabinet it carries, the glove and bit 0 of the key
generation it was encrypted under (glove 0 for none), and what it carries: a shadow shard of a run, or other bytes. -/
structure Packet where
  src : Node
  dst : Die
  cls : Nat
  cab : Cab
  glove : BitVec 16
  genBit : Bool
  run : Option (BitVec 32)
  seqNo : Nat
  body : List Word
  deriving DecidableEq, Repr

/-- A boot image of one stage (R368, R369): measurement, SVN, stage number in its header, the SHAKE256 digest of its signer's
public key, whether the signature verifies under that key, and whether its header sets RAISE_SVN. -/
structure BootImage where
  stage : Nat
  meas : BitVec 512
  svn : BitVec 32
  keyId : BitVec 512
  verified : Bool
  raiseSvn : Bool
  deriving DecidableEq, Repr

/-- What a full start finds (R20, R357, R369, R436): clusters, stacks and edge dies that fail their tests, control dies
whose both slots fail (RECOVERY) or that are not at step 8 by START_LIMIT, rows and lanes found spare on a stack, with other numbers where
`spares` says so (rows, lanes, whether a bank has no spare row left), pages withdrawn; per
control die the images that verified in the slot that it started from, stages 1 to 8 (R368), the control dies that started from
their other slot (R369) and those whose start from a pending slot fails (R374); the reference clock present (R475), if any. -/
structure StartFacts where
  clock : Option (Fin 2)
  failedClusters : List (Die × Phys)
  failedStacks : List Stack
  failedEdges : List Edge
  recovery : List Ct
  slow : List Ct
  spareRows : Nat
  spareLanes : Nat
  spares : List (Stack × Nat × Nat × Bool)
  withdrawn : List (Stack × Nat)
  images : List (Ct × List BootImage)
  otherSlot : List Ct
  pendingFails : List Ct
  deriving DecidableEq, Repr

/-- A SPDM request's route (R392); on an edge die's connection with the MSG_ID of the request, which its answer repeats (R484). -/
inductive Route where
  | edge (ed : Edge) (session : Option Sess) (msgId : BitVec 32)
  | secure (ct : Ct)
  | management
  deriving DecidableEq, Repr

/-- A SESSION_INIT message (R382): its fields, whether SIG verifies, where it came from and its MSG_ID (R484). -/
structure SessionInit where
  tenant : BitVec 32
  cab : Cab
  nonce : BitVec 256
  ct : List Byte
  pk : List Byte
  sigOk : Bool
  src : BitVec 128
  srcPort : BitVec 16
  msgId : BitVec 32
  deriving DecidableEq, Repr

/-- What a SPDM request asks for (R391). -/
inductive SpdmAsk where
  | version
  | capabilities
  | algorithms
  | digests
  | certificate (slot : BitVec 8)
  | challenge (nonce : BitVec 256)
  | measurements (index : BitVec 8) (nonce : BitVec 256)
  | other (code : BitVec 8)
  deriving DecidableEq, Repr

/-- What the RoTP answers to a SPDM request (R391): DSP0274's message of the name, with the contents that the manual gives. -/
inductive SpdmAnswer where
  | version (major minor : Nat)
  | capabilities (cert chal measSigned keyEx psk encap : Bool)
  | algorithms (signature hash : String)
  | digests (slots : List (Nat × List Byte))
  | certificate (slot : Nat) (chain : List Byte)
  | challengeAuth (slot : Nat) (nonce : BitVec 256) (signature : List Byte)
  | measurements (index : Nat) (block : List Byte) (nonce : BitVec 256) (signature : List Byte)
  | unsupportedRequest (code : Nat)
  deriving DecidableEq, Repr

end Sys2Proof
end

