-- ==== Sys2Proof/Syntax.lean ====
section
/-!
DEFINITION. The commands of the module, one constructor per row of spec/opcode_table.json, in the table's order. An Ilnil
command carries its source and its request (R421); an event of the hardware carries what the event itself brings. The
docstring of a constructor names its row and the rule the table gives it.
-/

namespace Sys2Proof

inductive Instr where
  /-- QUERY_CAPS (R74). -/
  | queryCaps (src : Src) (req : Req)
  /-- RESYNC (R434). -/
  | resync (src : Src) (req : Req)
  /-- SET_EVENT_TRAY (R442). -/
  | setEventTray (src : Src) (req : Req)
  /-- TAKE_OVER (R431). -/
  | takeOver (src : Src) (req : Req)
  /-- CONFIGURE_CABINET (R69). -/
  | configureCabinet (src : Src) (req : Req)
  /-- MOUNT_SHELF (R40). -/
  | mountShelf (src : Src) (req : Req) (img : Option ShelfImage)
  /-- MOUNT_COMPLETE (R40). -/
  | mountComplete (cab : Cab)
  /-- UNMOUNT_SHELF (R41). -/
  | unmountShelf (src : Src) (req : Req)
  /-- SET_ADMISSION (R59). -/
  | setAdmission (src : Src) (req : Req)
  /-- LOAD_PROGRAM (R67). -/
  | loadProgram (src : Src) (req : Req) (img : Option ProgramImage)
  /-- CREATE_STREAM (R60). -/
  | createStream (src : Src) (req : Req)
  /-- DESTROY_STREAM (R65). -/
  | destroyStream (src : Src) (req : Req)
  /-- SUBMIT_JOB (R71). -/
  | submitJob (src : Src) (req : Req)
  /-- JOB_START (R85). -/
  | jobStart (stream : Fin 4096) (jobSeq : BitVec 32)
  /-- RESUME_STREAM (R178). -/
  | resumeStream (src : Src) (req : Req)
  /-- BIND_DRAWER (R238). -/
  | bindDrawer (src : Src) (req : Req)
  /-- UNBIND_DRAWER (R257). -/
  | unbindDrawer (src : Src) (req : Req)
  /-- PREFETCH_DRAWER (R244). -/
  | prefetchDrawer (src : Src) (req : Req)
  /-- EVICT_DRAWER (R248). -/
  | evictDrawer (src : Src) (req : Req)
  /-- DRAWER_STATUS (R259). -/
  | drawerStatus (src : Src) (req : Req)
  /-- SET_DRAWER_CACHE (R260). -/
  | setDrawerCache (src : Src) (req : Req)
  /-- SET_REMAKE_CONSENT (R261). -/
  | setRemakeConsent (src : Src) (req : Req)
  /-- CATALOG_DELIVER (R236). -/
  | catalogDeliver (src : Src) (req : Req) (obj : Option CatObj)
  /-- START_RUN (R263). -/
  | startRun (src : Src) (req : Req)
  /-- STOP_RUN (R291). -/
  | stopRun (src : Src) (req : Req)
  /-- END_RUN (R291). -/
  | endRun (src : Src) (req : Req)
  /-- PUBLISH_RUN (R290). -/
  | publishRun (src : Src) (req : Req)
  /-- RESUME_RUN (R291). -/
  | resumeRun (src : Src) (req : Req)
  /-- RUN_STATUS (R293). -/
  | runStatus (src : Src) (req : Req)
  /-- SET_RUN_RATE (R291). -/
  | setRunRate (src : Src) (req : Req)
  /-- CATALOG_STORED (R290). -/
  | catalogStored (src : Src) (req : Req)
  /-- SET_REDUCTION (R328). -/
  | setReduction (src : Src) (req : Req)
  /-- SET_THINNING (R323). -/
  | setThinning (src : Src) (req : Req)
  /-- REDUCTION_STATUS (R330). -/
  | reductionStatus (src : Src) (req : Req)
  /-- MEMORY_STATUS (R364). -/
  | memoryStatus (src : Src) (req : Req)
  /-- ATTEST (R393). -/
  | attest (src : Src) (req : Req)
  /-- ADD_TENANT (R381). -/
  | addTenant (src : Src) (req : Req)
  /-- REMOVE_TENANT (R390). -/
  | removeTenant (src : Src) (req : Req)
  /-- GLOVE_CLOSE (R390). -/
  | gloveClose (src : Src) (req : Req)
  /-- GLOVE_OPEN (R387). -/
  | gloveOpen (src : Src) (req : Req)
  /-- ROTATE_GLOVE (R388). -/
  | rotateGlove (src : Src) (req : Req)
  /-- GLOVE_STATUS (R404). -/
  | gloveStatus (src : Src) (req : Req)
  /-- CONSENT_INSTALL (R399). -/
  | consentInstall (src : Src) (req : Req) (sigOk : Bool)
  /-- CONSENT_REVOKE (R401). -/
  | consentRevoke (src : Src) (req : Req)
  /-- DEBUG_OPEN (R400). -/
  | debugOpen (src : Src) (req : Req)
  /-- DEBUG_CLOSE (R402). -/
  | debugClose (src : Src) (req : Req)
  /-- TELEMETRY_READ (R405). -/
  | telemetryRead (src : Src) (req : Req)
  /-- RESET_CLUSTER (R439). -/
  | resetCluster (src : Src) (req : Req)
  /-- RESET_DIE (R439). -/
  | resetDie (src : Src) (req : Req)
  /-- RESET_CABINET (R439). -/
  | resetCabinet (src : Src) (req : Req)
  /-- RESET_COMPLETE (R440). -/
  | resetComplete (scope : Scope)
  /-- SET_POLICY (R450). -/
  | setPolicy (src : Src) (req : Req)
  /-- ERROR_LOG_READ (R462). -/
  | errorLogRead (src : Src) (req : Req)
  /-- RESERVE_STATUS (R455). -/
  | reserveStatus (src : Src) (req : Req)
  /-- CLAIM (R458). -/
  | claim (src : Src) (req : Req)
  /-- RELEASE (R458). -/
  | release (src : Src) (req : Req)
  /-- SET_EDGE_ADDR (R488). -/
  | setEdgeAddr (src : Src) (req : Req)
  /-- SET_EDGE_RINGS (R488). -/
  | setEdgeRings (src : Src) (req : Req)
  /-- EDGE_STATUS (R489). -/
  | edgeStatus (src : Src) (req : Req)
  /-- UNDEFINED_OPCODE (R426). -/
  | undefinedOpcode (src : Src) (req : Req) (opcode : BitVec 16)
  /-- PIGEONHOLE_GO (R414). -/
  | pigeonholeGo (ct : Ct) (n : Fin 32) (v : Half)
  /-- PIGEONHOLE_DONE (R414). -/
  | pigeonholeDone (ct : Ct) (n : Fin 32) (v : Half)
  /-- WITHDRAW (R413). -/
  | withdraw (ct : Ct) (n : Fin 32) (v : Half)
  /-- PIGEONHOLE_OVERRUN_CLEAR (R414). -/
  | pigeonholeOverrunClear (ct : Ct) (n : Fin 32) (v : Half)
  /-- PIGEONHOLE_IRQ_EN (R412). -/
  | pigeonholeIrqEn (ct : Ct) (n : Fin 32) (v : Half)
  /-- DOORBELL (R417). -/
  | doorbell (ct : Ct) (n : Fin 56) (v : Word)
  /-- OUT_TAIL_WRITE (R417). -/
  | outTailWrite (ct : Ct) (n : Fin 56) (v : Word)
  /-- IN_HEAD_WRITE (R417). -/
  | inHeadWrite (ct : Ct) (n : Fin 56) (v : Word)
  /-- TRAY_OVERRUN_CLEAR (R416). -/
  | trayOverrunClear (ct : Ct) (n : Fin 56) (v : Word)
  /-- TRAY_IRQ_EN (R412). -/
  | trayIrqEn (ct : Ct) (n : Fin 56) (v : Word)
  /-- REGISTER_WRITE (R10). -/
  | registerWrite (core : Ct) (addr : BitVec 48) (size : Nat) (v : Word)
  /-- HELD_RESPONSE_WRITE (R420). -/
  | heldResponseWrite (src : Src)
  /-- JOURNAL_ENTRY (R430). -/
  | journalEntry
  /-- JOURNAL_ACK (R430). -/
  | journalAck
  /-- HEARTBEAT (R431). -/
  | heartbeat (ct : Ct)
  /-- HEARTBEAT_LOST (R431). -/
  | heartbeatLost (silent : Ct)
  /-- TAKE_OVER_COMPLETE (R431). -/
  | takeOverComplete
  /-- SERVING_REQUEST (R54). -/
  | servingRequest (session : Sess) (r : ServeReq)
  /-- ADMISSION_RETEST (R54). -/
  | admissionRetest (request : Nat)
  /-- FETCH_RESUME (R250). -/
  | fetchResume (fetch : BitVec 32)
  /-- FETCH_COMPLETE (R245). -/
  | fetchComplete (fetch : BitVec 32)
  /-- REMAKE_START (R255). -/
  | remakeStart (cab : Cab)
  /-- ADMIT_WAIT_EXPIRY (R57). -/
  | admitWaitExpiry (die : Die)
  /-- PASS_START (R57). -/
  | passStart (die : Die) (trans : Bool)
  /-- PANEL_BUFFER_FILL (R91). -/
  | panelBufferFill (u : VUnit) (f : PanelFill)
  /-- PASS_END (R49). -/
  | passEnd (die : Die) (tokens : List (Nat × BitVec 32))
  /-- BOUNDARY_ROWS_ARRIVAL (R51). -/
  | boundaryRowsArrival (die : Die)
  /-- TOKEN_IDS_ARRIVAL (R50). -/
  | tokenIdsArrival (die : Die)
  /-- SEGMENT_END (R52). -/
  | segmentEnd (die : Die)
  /-- SHELF_FWD (R111). -/
  | shelfFwd (m : MatIssue)
  /-- SHELF_BWD (R111). -/
  | shelfBwd (m : MatIssue)
  /-- SEQ_SCORE (R111). -/
  | seqScore (m : MatIssue)
  /-- SEQ_MIX (R111). -/
  | seqMix (m : MatIssue)
  /-- SLOT_GRAD (R111). -/
  | slotGrad (m : MatIssue)
  /-- DRAWER_MUL (R111). -/
  | drawerMul (m : MatIssue)
  /-- SCALE_PASS_2 (R137). -/
  | scalePass2 (die : Die) (stream : Fin 4096) (jobSeq : BitVec 32) (opIndex : BitVec 20)
  /-- VECTOR_DESCRIPTOR (R198). -/
  | vectorDescriptor (die : Die) (jobSeq : BitVec 32) (opIndex : BitVec 20) (words : List Word)
  /-- DESCRIPTOR_RETIRE (R188). -/
  | descriptorRetire (die : Die) (stream : Fin 4096) (jobSeq : BitVec 32) (opIndex : BitVec 20)
  /-- VADD (R204). -/
  | vadd (u : VUnit) (f : RFields)
  /-- VSUB (R204). -/
  | vsub (u : VUnit) (f : RFields)
  /-- VMUL (R204). -/
  | vmul (u : VUnit) (f : RFields)
  /-- VFMA (R204). -/
  | vfma (u : VUnit) (f : RFields)
  /-- VMIN (R204). -/
  | vmin (u : VUnit) (f : RFields)
  /-- VMAX (R204). -/
  | vmax (u : VUnit) (f : RFields)
  /-- VABS (R204). -/
  | vabs (u : VUnit) (f : RFields)
  /-- VNEG (R204). -/
  | vneg (u : VUnit) (f : RFields)
  /-- VDIV (R204). -/
  | vdiv (u : VUnit) (f : RFields)
  /-- VSQRT (R204). -/
  | vsqrt (u : VUnit) (f : RFields)
  /-- VEXP (R204). -/
  | vexp (u : VUnit) (f : RFields)
  /-- VDEXP (R204). -/
  | vdexp (u : VUnit) (f : RFields)
  /-- VMULDIV (R204). -/
  | vmuldiv (u : VUnit) (f : RFields)
  /-- VCMP (R204). -/
  | vcmp (u : VUnit) (f : RFields)
  /-- MAND (R204). -/
  | mand (u : VUnit) (f : RFields)
  /-- MOR (R204). -/
  | mor (u : VUnit) (f : RFields)
  /-- MNOT (R204). -/
  | mnot (u : VUnit) (f : RFields)
  /-- MRANGE (R204). -/
  | mrange (u : VUnit) (f : IFields)
  /-- VSEL (R204). -/
  | vsel (u : VUnit) (f : RFields)
  /-- VBCAST (R204). -/
  | vbcast (u : VUnit) (f : IFields)
  /-- VAND (R204). -/
  | vand (u : VUnit) (f : RFields)
  /-- VOR (R204). -/
  | vor (u : VUnit) (f : RFields)
  /-- VXOR (R204). -/
  | vxor (u : VUnit) (f : RFields)
  /-- VSHL (R204). -/
  | vshl (u : VUnit) (f : RFields)
  /-- VSHR (R204). -/
  | vshr (u : VUnit) (f : RFields)
  /-- VSRA (R204). -/
  | vsra (u : VUnit) (f : RFields)
  /-- VCVT (R207). -/
  | vcvt (u : VUnit) (f : RFields)
  /-- VRED (R208). -/
  | vred (u : VUnit) (f : RFields)
  /-- VSPLIT (R211). -/
  | vsplit (u : VUnit) (f : RFields)
  /-- VJOIN (R211). -/
  | vjoin (u : VUnit) (f : RFields)
  /-- VGETF (R213). -/
  | vgetf (u : VUnit) (f : RFields)
  /-- VLD (R204). -/
  | vld (u : VUnit) (f : MFields)
  /-- VST (R196). -/
  | vst (u : VUnit) (f : MFields)
  /-- VLDB (R204). -/
  | vldb (u : VUnit) (f : MFields)
  /-- VLDMX (R210). -/
  | vldmx (u : VUnit) (f : MFields)
  /-- VSTMX (R210). -/
  | vstmx (u : VUnit) (f : MFields)
  /-- VFBLD (R210). -/
  | vfbld (u : VUnit) (f : MFields)
  /-- VFBST (R210). -/
  | vfbst (u : VUnit) (f : MFields)
  /-- TLD (R209). -/
  | tld (u : VUnit) (f : TFields)
  /-- TST (R209). -/
  | tst (u : VUnit) (f : TFields)
  /-- CONTRIBUTION_READY (R301). -/
  | contributionReady (die : Die) (red : BitVec 24)
  /-- HATBAND_ITEM (R304). -/
  | hatbandItem (red : BitVec 24) (origin : Die)
  /-- DEADLINE (R317). -/
  | deadline (red : BitVec 24)
  /-- READY (R282). -/
  | ownerReady (run : BitVec 32) (die : Die)
  /-- COMMIT_POINT (R284). -/
  | commitPoint (run : BitVec 32)
  /-- HOP_BROKEN (R320). -/
  | hopBroken (hop : Fin 16)
  /-- LATTICE_PACKET (R23). -/
  | latticePacket (p : Packet)
  /-- SECTOR_READ (R345). -/
  | sectorRead (addr : BitVec 41) (a : Accessor) (err : List (Fin 73 × Byte)) (got : BitVec 41)
  /-- SECTOR_WRITE (R347). -/
  | sectorWrite (addr : BitVec 41) (a : Accessor) (off : Fin 64) (bytes : List Byte) (err : List (Fin 73 × Byte))
  /-- MERGE_FLUSH (R349). -/
  | mergeFlush (st : Stack) (sector : BitVec 30) (err : List (Fin 73 × Byte))
  /-- HBM_APERTURE_READ (R348). -/
  | hbmApertureRead (core : Ct) (addr : BitVec 48) (size : Nat)
  /-- HBM_APERTURE_WRITE (R348). -/
  | hbmApertureWrite (core : Ct) (addr : BitVec 48) (bytes : List Byte)
  /-- ALLOCATION_FILL (R339). -/
  | allocationFill (st : Stack) (page : Fin 32768)
  /-- SWEEP_STEP (R342). -/
  | sweepStep (st : Stack) (page : Fin 32768) (err : List (Fin 73 × Byte))
  /-- PATROL_SCRUB (R355). -/
  | patrolScrub (st : Stack) (sector : BitVec 30) (err : List (Fin 73 × Byte))
  /-- ON_DIE_READ (R334). -/
  | onDieRead (st : Stack) (count : BitVec 32)
  /-- GLOVE_CHANGE_ACK (R378). -/
  | gloveChangeAck (glove : BitVec 16)
  /-- GLOVE_INSTALLATION_ACK (R379). -/
  | gloveInstallationAck (glove : BitVec 16) (b : GBlock)
  /-- GLOVE_ERASURE_ACK (R379). -/
  | gloveErasureAck (glove : BitVec 16) (b : GBlock)
  /-- DRAIN_CONFIRM (R388). -/
  | drainConfirm (glove : BitVec 16) (b : GBlock)
  /-- FRAME_RECEIVE (R480). -/
  | frameReceive (ed : Edge) (f : Frame)
  /-- TX_RING_POLL (R487). -/
  | txRingPoll (ed : Edge) (ring : Fin 8)
  /-- SESSION_INIT (R382). -/
  | sessionInit (ed : Edge) (m : SessionInit)
  /-- DATA (R482). -/
  | dataRecord (r : Record) (msgs : List (List Word)) (rest : Nat)
  /-- ACK (R482). -/
  | ackRecord (r : Record)
  /-- CLOSE (R386). -/
  | closeRecord (r : Record)
  /-- RECORD_RESEND (R483). -/
  | recordResend (session : Sess) (counter : Word)
  /-- ACK_TIMER (R483). -/
  | ackTimer (session : Sess)
  /-- FRAGMENT_TIMEOUT (R484). -/
  | fragmentTimeout (ed : Edge) (msgId : BitVec 32)
  /-- GET_VERSION (R391). -/
  | getVersion (r : Route)
  /-- GET_CAPABILITIES (R391). -/
  | getCapabilities (r : Route)
  /-- NEGOTIATE_ALGORITHMS (R391). -/
  | negotiateAlgorithms (r : Route)
  /-- GET_DIGESTS (R391). -/
  | getDigests (r : Route)
  /-- GET_CERTIFICATE (R391). -/
  | getCertificate (r : Route) (slot : BitVec 8)
  /-- CHALLENGE (R391). -/
  | challenge (r : Route) (nonce : BitVec 256)
  /-- GET_MEASUREMENTS (R391). -/
  | getMeasurements (r : Route) (index : BitVec 8) (nonce : BitVec 256)
  /-- SPDM_UNSUPPORTED_REQUEST (R391). -/
  | spdmUnsupportedRequest (r : Route) (code : BitVec 8)
  /-- FAULT_REPORT (R451). -/
  | faultReport (r : Report)
  /-- LINK (R445). -/
  | linkEvent (block : Fin 16) (unit : Fin 64) (replays : BitVec 32) (down : Bool)
  /-- EDGE (R27). -/
  | edgeEvent (ed : Edge) (which : Fin 3)
  /-- THERMAL_WARN (R456). -/
  | thermalWarn (s : Sensor)
  /-- THERMAL_WARN_REPEAT (R456). -/
  | thermalWarnRepeat (s : Sensor)
  /-- THERMAL_TRIP (R456). -/
  | thermalTrip (s : Sensor)
  /-- GENERAL_TIMER_EXPIRY (R458). -/
  | generalTimerExpiry (die : Die) (timer : Fin 4)
  /-- TOKEN_IN_FORCE (R478). -/
  | tokenInForce (token : BitVec 256)
  /-- TOKEN_EXPIRY (R401). -/
  | tokenExpiry (token : BitVec 256)
  /-- POWER_WINDOW (R396). -/
  | powerWindow (endTime : Nat) (module : Nat) (cabs : List Nat)
  /-- TEMPERATURE_WINDOW (R396). -/
  | temperatureWindow (endTime : Nat) (temps : List Int)
  /-- COUNTER_SAMPLE (R396). -/
  | counterSample (time : Nat)
  /-- THROTTLE_STEP (R469). -/
  | throttleStep (mean : Nat)
  /-- THROTTLE_HELD (R470). -/
  | throttleHeld
  /-- BLADE_IN_RATING (R470). -/
  | bladeInRating
  /-- INPUT_TURN_ON (R471). -/
  | inputTurnOn
  /-- INPUT_TURN_OFF (R468). -/
  | inputTurnOff
  /-- OVERVOLTAGE (R468). -/
  | overvoltage
  /-- POWER (R468). -/
  | powerFault (blade : Fin 2)
  /-- MOD_RESET_N_ASSERT (R472). -/
  | modResetNAssert
  /-- MOD_RESET_N_RELEASE (R436). -/
  | modResetNRelease (f : StartFacts)
  /-- START_LIMIT (R437). -/
  | startLimit
  /-- REFCLK_SWITCH (R475). -/
  | refclkSwitch (retrained : List Edge)
  /-- PPS_IN (R493). -/
  | ppsIn
  /-- PTP_LOCK (R477). -/
  | ptpLock (grandmaster : Word)
  /-- HOLDOVER (R493). -/
  | holdover
  /-- POWER_LIMIT_WATTS (R470). -/
  | powerLimitWatts (watts : Nat)
  /-- ACTIVE_PREFERENCE (R437). -/
  | activePreference (ct : Ct)
  /-- START_LIMIT_SECONDS (R437). -/
  | startLimitSeconds (seconds : Nat)
  /-- OPERATOR_KEY_ID (R372). -/
  | operatorKeyId (keyId : BitVec 512)
  /-- CONTROL_DIE_POWER (R492). -/
  | controlDiePower (ct : Ct) (on : Bool)
  /-- CONTROL_DIE_RESET (R439). -/
  | controlDieReset (ct : Ct) (recovers : Bool)
  /-- UPDATE_SERVICE (R373). -/
  | updateService (ct : Ct) (images : List BootImage)
  /-- ACTIVATION_STORE_BLOCK_ZEROING (R108). -/
  | activationStoreBlockZeroing (die : Die) (blk : Fin 768)
  /-- LINK_UP (R489). -/
  | linkUp (ed : Edge)
  deriving DecidableEq, Repr

end Sys2Proof
end

