-- ==== Sys2Proof/Decode.lean ====
section
/-!
DEFINITION. Words of commands. The rows of spec/opcode_table.json give no bits: a command is a request, a register access or
an event, and no row is spelled by a word. So a table word spells no command.
-/

namespace Sys2Proof

/-- The command that a word spells by the table's bits: none, for the table gives no row any bits. -/
def decodeTableWord (_nbits _w : Nat) : Option Instr := none

end Sys2Proof
end

