-- ==== Sys2Proof/Config.lean ====
section
/-!
DEFINITION. The free values of the model: what the spec leaves open although the machine goes on. None of them has a body, so
nothing can be proved of their values. An argument named n is the model's own counter `freeCtr`, which makes each use fresh.
-/

namespace Sys2Proof.Config

/-- STAGE_ADDR of CATALOG_FETCH and CATALOG_STORE (R235, R290): the spec gives the agent some control-memory address. -/
opaque stageAddr : Nat → Word

/-- LOSS of a committed step (R293): the run program forms it; the spec does not state the arithmetic. -/
opaque runLoss : Nat → BitVec 32

/-- The token that a pass selects for a request (R50) where the event brings no id: which token results is not modelled. -/
opaque tokenId : Nat → BitVec 32

/-- VCVT between integer types of a value that the destination does not hold (R207 states no result): source type,
destination type, source code. -/
opaque intNarrow : Nat → Nat → Nat → Nat

/-- The value that VFBST's block holds for an inactive element without ZM (R203 gives it no byte of its own): use, element. -/
opaque fbHeld : Nat → Nat → BitVec 16

/-- The stored ciphertext of a sector (R341): XTS-AES-256 under keys from the RoTP's generator. Glove serial and key generation, which
name the key pair; the tweak; the plaintext's 512 bits. -/
opaque xts : Nat → Nat → BitVec 128 → BitVec 512 → BitVec 512

/-- The plaintext of a sector whose decoder took a wrong symbol for the error (R346). -/
opaque garbled : Nat → BitVec 512

/-- Output of the RoTP's random bit generator (R377). -/
opaque random : Nat → BitVec 256

/-- The unique device secret of 64 bytes in the fuses of both control dies, written at manufacture (R367). -/
opaque uds : BitVec 512

/-- RALUM_ROOT_ID, the digest of Ralum's firmware-signing public key, in the fuses of both control dies (R367). -/
opaque ralumRootId : BitVec 512

/-- The public key of ML-DSA-65 key generation from a 32-byte seed (R370): the same inputs give the same key pair. -/
opaque mlDsaPublic : List Byte → List Byte

/-- The certificate chain of R371 for an alias key: the spec does not state its bytes. -/
opaque certChain : BitVec 512 → List Byte

/-- SESSION_EK (R384), 1184 bytes, of the session key pair with a serial number. -/
opaque sessionEk : Nat → Nat

/-- ML-KEM-768 decapsulation (R383) under the session key pair with a serial number. -/
opaque kemSecret : Nat → List Byte → BitVec 256

/-- The ciphertext that encapsulates to RECIPIENT_EK (R400), 1088 bytes. -/
opaque encapsulation : Nat → Nat

/-- An ML-DSA-65 signature under the alias key (R391, R393), 3309 bytes. -/
opaque signature : Nat → Nat

/-- Mask ROM revision (R393). -/
opaque romId : BitVec 8

/-- The number of the start-up test that a unit failed (R445 TEST_FAIL): the spec numbers no tests. -/
opaque testNumber : Nat → BitVec 8

/-- SLOT_ID as the chassis straps it (R467). -/
opaque slotId : Fin 16

end Sys2Proof.Config
end

