-- ==== Sys2Proof/Machine/Codes.lean ====
section
/-!
DEFINITION. Completion codes (R13, R72, R119, R189, R262, R294, R331, R365, R406, R429, R463, R490), kinds of message,
states of a side (R419), fault classes (R445) and event opcodes (R427, R448).
-/

namespace Sys2Proof.Machine

namespace Code
abbrev ok : Nat := 0
abbrev unknownOpcode : Nat := 1
abbrev reservedNonzero : Nat := 2
abbrev badLength : Nat := 3
abbrev streamUnknown : Nat := 4
abbrev wrongStream : Nat := 5
abbrev wrongChannel : Nat := 6
abbrev channelUnsuited : Nat := 7
abbrev notActive : Nat := 8
abbrev sequenceInUse : Nat := 9
abbrev bufferInvalid : Nat := 10
abbrev bufferTooSmall : Nat := 11
abbrev resetAborted : Nat := 12
abbrev notStandby : Nat := 13
abbrev versionUnsupported : Nat := 40
abbrev shelfTooLarge : Nat := 41
abbrev spanInvalid : Nat := 42
abbrev cabinetBusy : Nat := 43
abbrev shelfMismatch : Nat := 44
abbrev mixedTenantRows : Nat := 45
abbrev rowTagInvalid : Nat := 46
abbrev streamLimit : Nat := 47
abbrev notOwner : Nat := 48
abbrev shelfUnmounted : Nat := 49
abbrev noShelf : Nat := 50
abbrev queueFull : Nat := 51
abbrev streamClosing : Nat := 52
abbrev dieInUse : Nat := 53
abbrev valueOutOfRange : Nat := 54
abbrev isolationFault : Nat := 55
abbrev programInvalid : Nat := 56
abbrev jobNoSpace : Nat := 57
abbrev descriptorInvalid : Nat := 60
abbrev tileNotOwned : Nat := 61
abbrev linesExceeded : Nat := 62
abbrev nanTrap : Nat := 70
abbrev cancelledAfterTrap : Nat := 71
abbrev streamNotHalted : Nat := 72
abbrev staleShelf : Nat := 80
abbrev slotTaken : Nat := 81
abbrev drawerTooLarge : Nat := 82
abbrev drawerInvalid : Nat := 83
abbrev drawerIntegrity : Nat := 84
abbrev drawerNotFound : Nat := 85
abbrev fetchFailed : Nat := 86
abbrev slotNotBound : Nat := 87
abbrev tableFull : Nat := 88
abbrev runNotFound : Nat := 90
abbrev runState : Nat := 91
abbrev runNoSpace : Nat := 92
abbrev runLimit : Nat := 93
abbrev datasetInvalid : Nat := 94
abbrev stepDiscarded : Nat := 95
abbrev storeFailed : Nat := 96
abbrev runStateLost : Nat := 97
abbrev reductionNotFound : Nat := 100
abbrev checksumMismatch : Nat := 101
abbrev nonfiniteSum : Nat := 102
abbrev hopBroken : Nat := 103
abbrev memberLost : Nat := 104
abbrev reductionAbandoned : Nat := 105
abbrev contributionDropped : Nat := 106
abbrev dataUncorrectable : Nat := 110
abbrev pageAccessFault : Nat := 111
abbrev shelfIncomplete : Nat := 112
abbrev denied : Nat := 120
abbrev tokenInvalid : Nat := 121
abbrev consentLimit : Nat := 122
abbrev rotationInProgress : Nat := 123
abbrev sessionLimit : Nat := 124
abbrev sessionAuthFailed : Nat := 125
abbrev tenantUnknown : Nat := 126
abbrev tenantBound : Nat := 127
abbrev gloveLimit : Nat := 128
abbrev updateRejected : Nat := 129
abbrev sessionExhausted : Nat := 130
abbrev gloveClosed : Nat := 131
abbrev noGlove : Nat := 132
abbrev busy : Nat := 140
abbrev notClaimed : Nat := 141
abbrev retriesExhausted : Nat := 142
abbrev thermalTripped : Nat := 143
abbrev addressInUse : Nat := 150
end Code

namespace Cls
abbrev memCorrected : Nat := 1
abbrev memUncorrectable : Nat := 2
abbrev memOnDie : Nat := 3
abbrev storeCorrected : Nat := 4
abbrev storeUncorrectable : Nat := 5
abbrev isolation : Nat := 6
abbrev placement : Nat := 7
abbrev logic : Nat := 8
abbrev testFail : Nat := 9
abbrev link : Nat := 10
abbrev hopBroken : Nat := 11
abbrev edge : Nat := 12
abbrev heartbeatLost : Nat := 13
abbrev thermalWarn : Nat := 14
abbrev thermalTrip : Nat := 15
abbrev power : Nat := 16
abbrev fieldFind : Nat := 17
abbrev softFuseFull : Nat := 18
abbrev shelfOperand : Nat := 19
abbrev firmware : Nat := 20
abbrev policyAction : Nat := 21
abbrev reserve : Nat := 22
end Cls

namespace Event
abbrev catalogFetch : Nat := 0x8001
abbrev catalogStore : Nat := 0x8002
abbrev contributionDropped : Nat := 0x8003
abbrev shelfOperand : Nat := 0x8004
abbrev takenOver : Nat := 0x8005
abbrev resetDone : Nat := 0x8006
abbrev fault : Nat := 0x8100
abbrev faultNotice : Nat := 0x8101
abbrev policyAction : Nat := 0x8102
abbrev reserveLow : Nat := 0x8103
abbrev thermalTripped : Nat := 0x8104
abbrev timer : Nat := 0x8105
end Event

end Sys2Proof.Machine
end

