-- ==== Sys2Proof/Machine/Bits.lean ====
section
/-!
DEFINITION. Bit fields of words (R5), little-endian byte order (R6), and small list helpers over the model's tables.
-/

namespace Sys2Proof.Machine

/-- Bits [hi:lo] of a number (R5). -/
def fieldOf (x hi lo : Nat) : Nat := (x >>> lo) % 2 ^ (hi + 1 - lo)

/-- Bits [hi:lo] of a word (R5). -/
def bits (w : Word) (hi lo : Nat) : Nat := fieldOf w.toNat hi lo

/-- Bit `n` of a word. -/
def bitAt (w : Word) (n : Nat) : Bool := w.toNat.testBit n

/-- Word `i` of a list of words, 0 beyond its end. -/
def wordAt (ws : List Word) (i : Nat) : Word := ws.getD i 0

/-- A value put at bit `lo` of a word. -/
def put (v lo : Nat) : Nat := v <<< lo

/-- A flag as a number. -/
def b2n (b : Bool) : Nat := if b then 1 else 0

/-- Signed reading of the low `n` bits. -/
def signed (n x : Nat) : Int :=
  let y := x % 2 ^ n
  if y < 2 ^ (n - 1) then (y : Int) else (y : Int) - (2 ^ n : Nat)

/-- Two's complement of an integer in `n` bits. -/
def unsigned (n : Nat) (x : Int) : Nat := (x % ((2 ^ n : Nat) : Int)).toNat

/-- The bytes of a number, least significant first (R6). -/
def leBytes : Nat → Nat → List Byte
  | 0, _ => []
  | n + 1, x => BitVec.ofNat 8 x :: leBytes n (x >>> 8)

/-- The number that bytes spell, least significant first (R6). -/
def ofLe : List Byte → Nat
  | [] => 0
  | b :: bs => b.toNat + 256 * ofLe bs

/-- The words that bytes spell, eight bytes a word, a short last word padded with zeros. -/
def bytesToWords : Nat → List Byte → List Word
  | 0, _ => []
  | _, [] => []
  | n + 1, bs => word (ofLe (bs.take 8)) :: bytesToWords n (bs.drop 8)

/-- The bytes of words, eight a word. -/
def wordsToBytes (ws : List Word) : List Byte := ws.flatMap fun w => leBytes 8 w.toNat

/-- A 512-bit value as eight words, byte 0 in the low byte of the first (R70). -/
def wide512 (ws : List Word) : BitVec 512 :=
  BitVec.ofNat 512 (ws.foldr (fun w acc => w.toNat + acc <<< 64) 0)

/-- The eight words of a 512-bit value. -/
def words512 (x : BitVec 512) : List Word := (List.range 8).map fun i => word (x.toNat >>> (64 * i))

/-- Saturating sum at `top`. -/
def satAdd (top a b : Nat) : Nat := min top (a + b)

/-- Ceiling of a quotient. -/
def cdiv (a b : Nat) : Nat := (a + b - 1) / b

/-- The number of set bits among the low `n`. -/
def popCount : Nat → Nat → Nat
  | 0, _ => 0
  | n + 1, x => x % 2 + popCount n (x / 2)

/-- Replace the first element that satisfies `p`; where none does, the list is unchanged. -/
def updFirst {α : Type} (p : α → Bool) (f : α → α) : List α → List α
  | [] => []
  | a :: as => if p a then f a :: as else a :: updFirst p f as

/-- Apply `f` at index `i`. -/
def updAt {α : Type} (i : Nat) (f : α → α) : List α → List α
  | [] => []
  | a :: as => match i with
    | 0 => f a :: as
    | j + 1 => a :: updAt j f as

/-- Put `v` under key `k` in an association list, replacing what is there. -/
def assocPut {κ α : Type} [DecidableEq κ] (k : κ) (v : α) : List (κ × α) → List (κ × α)
  | [] => [(k, v)]
  | (k', v') :: r => if k' = k then (k, v) :: r else (k', v') :: assocPut k v r

/-- The value under key `k`. -/
def assocGet {κ α : Type} [DecidableEq κ] (k : κ) : List (κ × α) → Option α
  | [] => none
  | (k', v') :: r => if k' = k then some v' else assocGet k r

/-- Insertion into a list sorted by `key`, after equal keys. -/
def insertBy {α : Type} (key : α → Nat) (a : α) : List α → List α
  | [] => [a]
  | b :: bs => if key b ≤ key a then b :: insertBy key a bs else a :: b :: bs

/-- Stable sort by `key`. -/
def sortBy {α : Type} (key : α → Nat) (l : List α) : List α := l.foldl (fun acc a => insertBy key a acc) []

/-- The element with the least key, the earliest on a tie. -/
def minBy {α : Type} (key : α → Nat) : List α → Option α
  | [] => none
  | a :: as => match minBy key as with
    | none => some a
    | some b => if key a ≤ key b then some a else some b

/-- The least number at or above `lo`, trying `n` of them, that `used` does not hold. -/
def firstFree (used : Nat → Bool) : Nat → Nat → Option Nat
  | 0, _ => none
  | n + 1, lo => if used lo then firstFree used n (lo + 1) else some lo

end Sys2Proof.Machine
end

