-- ==== Sys2Proof/Machine/State.lean ====
section
/-!
DEFINITION. The state of the TK9 module as plain data, one record per part of the module, the reasons a step can stop, and
the state right after a full reset (MOD_RESET_N low, input power in rating, no side started). Tables that are almost
everywhere empty (drawer slots, page entries, tiles, unit tags) list only what differs from the reset value.
-/

namespace Sys2Proof.Machine

/-- Byte-addressed memory in canonical form: addresses strictly rising, no listed byte zero (every RAM of the module reads
zero where nothing was written: control memory R408, filled HBM pages R335 R339, zeroed stores R102 R108). -/
abbrev Mem := List Host.Cell

/-- Who waits for a COMPLETION: the source, the MSEQ, the stream and the opcode of the request (R421, R423). -/
structure Reply where
  src : Src
  mseq : BitVec 16
  stream : Fin 4096
  opcode : BitVec 16
  deriving DecidableEq, Repr

/-- A message that a side has formed (R421): the channel it goes to, and its words, header included. -/
structure OutMsg where
  dest : Src
  words : List Word
  deriving DecidableEq, Repr

/-- A pigeonhole (R413). `status` is 0 IDLE, 1 POSTED, 2 TAKEN, 3 DONE; `held` are responses held by R420. -/
structure Pigeon where
  data : List Half
  status : Fin 4
  irqEn : Bool
  overrun : Bool
  done : Bool
  go : Bool
  held : List (List Word)
  deriving DecidableEq, Repr

/-- A tray (R416, R417). Indexes count modulo 128. `inbox` are whole messages taken off the OUT ring and not yet executed;
`held` are messages held by R420; `eventMseq` is the tray's event counter (R422); `rung` says that a DOORBELL was written that its
side has not yet heard, as it takes no messages (R419). -/
structure Tray where
  out : List Word
  inn : List Word
  outHead : Fin 128
  outTail : Fin 128
  inHead : Fin 128
  inTail : Fin 128
  irqEn : Bool
  overrun : Bool
  inbox : List (List Word)
  held : List (List Word)
  eventMseq : BitVec 16
  rung : Bool
  deriving DecidableEq, Repr

/-- A request as the journal holds it (R430, R432, R435). `phase` is 0 taken, 1 accepted, 2 completed; `byCt` is the
control die that took it; `resent` says that it has answered its one resend; `doneAt` orders completions. -/
structure JReq where
  mseq : BitVec 16
  opcode : BitVec 16
  stream : Fin 4096
  phase : Fin 3
  accepted : List Word
  completion : List (List Word)
  byCt : Ct
  resent : Bool
  doneAt : Nat
  deriving DecidableEq, Repr

/-- A 64-byte error log entry, eight words (R446). -/
abbrev LogEntry := List Word

/-- A soft fuse record (R359). -/
structure FuseRec where
  stack : Stack
  type : Nat
  pch : Nat
  bank : Nat
  row : Nat
  lane : Nat
  time : Nat
  deriving DecidableEq, Repr

/-- One stage's image as measured (R368, R393). -/
structure StageMeas where
  meas : BitVec 512
  svn : BitVec 32
  verified : Bool
  deriving DecidableEq, Repr

/-- A control die (R407 to R419, R446, R369 to R374). `side` is the code of R419; `logRead` the ENTRY_SEQ after the last entry
that was read (R435); `fusesLocked` the lock of the fuse read port, behind which the fuses of R367 are a fixed part of the die. -/
structure CtDie where
  side : Fin 8
  fusesLocked : Bool
  poweredDown : Bool
  reached8 : Bool
  pigeons : List Pigeon
  trays : List Tray
  mem : Mem
  log : List LogEntry
  logSeq : BitVec 32
  logRead : BitVec 32
  logWritten : Nat
  logOverwritten : Nat
  fuses : List FuseRec
  catalog : List CatObj
  curSlot : Fin 2
  running : List StageMeas
  pendingImgs : List BootImage
  svnMin : List (BitVec 32)
  opKeyNext : BitVec 512
  deriving DecidableEq, Repr

/-- A standing policy (R449, R450). -/
structure Policy where
  on : Bool
  threshold : Nat
  window : Nat
  deriving DecidableEq, Repr

/-- A claimed general timer (R458): its claiming stream, next expiry, period and expiry count. -/
structure TimerClaim where
  die : Die
  timer : Fin 4
  stream : Fin 4096
  due : Nat
  period : Nat
  armed : Bool
  count : Nat
  deriving DecidableEq, Repr

/-- Who holds the trace ring (R457): an operator stream's CLAIM, or a debug channel. -/
inductive TraceHolder where
  | stream (id : Fin 4096)
  | debug (chan : Nat)
  deriving DecidableEq, Repr

/-- A reset (R439 to R441), with the requests that complete with it; one that is not `started` waits for a reset within its
scope. -/
structure ResetJob where
  scope : Scope
  replies : List Reply
  words : List Word
  started : Bool
  deriving DecidableEq, Repr

/-- The command processor pair (R407, R425 to R435, R449 to R458). `jSent` are journaled outputs on their way to the
standby, `jAcked` those whose acknowledgement is on its way back (R430). -/
structure Cp where
  active : Ct
  takingOver : Option Ct
  takeOverReply : Option Reply
  failovers : Nat
  jSent : List OutMsg
  jAcked : List OutMsg
  chans : List (Nat × List JReq)
  heldCmds : List Reply
  eventTray : Fin 56
  backlog : List OutMsg
  eventsLost : Nat
  policies : List Policy
  history : List (Nat × Nat × Nat)
  traceRing : Option TraceHolder
  vcs : List (Option (BitVec 32))
  timers : List TimerClaim
  resets : List ResetJob
  reservesLow : List (Nat × Nat)
  tripped : Bool
  warm : List Sensor
  lastBeat : List Nat
  deriving DecidableEq, Repr

/-- Admission settings of a cabinet (R59). -/
structure Admission where
  target : Nat
  wait : Nat
  prefill : Nat
  bwd : Nat
  quota : Nat
  isOpen : Bool
  deriving DecidableEq, Repr

/-- Cabinet counters (R396). -/
structure Counters where
  passes : Nat
  rows : Nat
  tokens : Nat
  done : Nat
  fetches : Nat
  steps : Nat
  deriving DecidableEq, Repr

/-- A cabinet (R29, R37, R69, R393). `state` is CAB_STATE of R393; `split` the layers per position (R39); `mountReply` the
MOUNT_SHELF outstanding; `unmount` the CUT flag and the requests of an unmount in progress (R41). -/
structure Cabinet where
  dies : BitVec 16
  span : Nat
  state : Fin 8
  shelf : Option ShelfImage
  split : List Nat
  mountReply : Option Reply
  mountAsked : BitVec 512
  unmount : Option (Bool × List Reply)
  adm : Admission
  serving : Option (Fin 4096)
  cacheGib : Nat
  cacheReplies : List Reply
  counters : Counters
  deriving DecidableEq, Repr

/-- The owner mark of a 64-byte unit or a vector register (R102, R193): glove slot and row tag. -/
structure Mark where
  slot : Fin 64
  tag : BitVec 16
  deriving DecidableEq, Repr

/-- A tensor that a stream holds on a die (R71): its bytes and, beside its data, the scale words (R135) and the row
statistics (R186); of a tensor of the serving stream, the marks of its 64-byte units, as rows of several owners lie in it. `fmt`
is the format of the results that an output stage wrote last, none before. -/
structure Tensor where
  stream : Fin 4096
  handle : BitVec 32
  die : Die
  bytes : Nat
  glove : BitVec 16
  fmt : Option Nat
  data : Mem
  scaleWords : List (BitVec 32)
  stats : List (Nat × List Word)
  marks : List (Nat × Mark)
  pages : List (Stack × Fin 32768)
  deriving DecidableEq, Repr

/-- A stream (R60 to R65, R178). `owner` is 0 operator, 1 tenant, 2 serving; `closing` the DESTROY_STREAM requests. -/
structure Stream where
  id : Fin 4096
  cab : Cab
  owner : Fin 3
  tenant : BitVec 32
  minor : Nat
  nextSeq : BitVec 32
  halted : Bool
  isClosing : Bool
  closing : List Reply
  deriving DecidableEq, Repr

/-- A tensor binding of a job (R71). -/
structure Binding where
  handle : BitVec 32
  fresh : Bool
  release : Bool
  bytes : Nat
  deriving DecidableEq, Repr

/-- An unretired job (R71). `phase` is 0 waiting, 1 running, 2 stopped issuing (trapped or failed, waiting for issued
descriptors); `endCode` the completion code recorded so far; `record` the trap record (R176). `slotGen` is the SLOT_GEN of its drawer's
binding (R239), `pins` the span groups on which it holds a pin (R247). -/
structure Job where
  stream : Fin 4096
  seq : BitVec 32
  program : BitVec 32
  entry : Nat
  tiles : Nat
  count : Nat
  dies : BitVec 16
  slot : Option Nat
  slotGen : BitVec 16
  pins : List Die
  status : BitVec 32
  bindings : List Binding
  reply : Reply
  phase : Fin 3
  retired : Nat
  endCode : Nat
  record : List Word
  deriving DecidableEq, Repr

/-- A program loaded in a cabinet (R67). -/
structure Program where
  cab : Cab
  image : ProgramImage
  deriving DecidableEq, Repr

/-- A drawer-table slot that is not FREE (R237 to R240, R259); `run` names the run of a run slot (R264); `evictReplies` are
the evictions that wait, each with the dies it named and whether it unbinds (R248); `lastDies` the dies of the last residency (R292);
`known` says that `tenant` is the drawer's owner, which a bind of a handle that no index holds does not know yet. -/
structure Slot where
  cab : Cab
  slot : Nat
  gen : BitVec 16
  state : Fin 8
  handle : Word
  version : BitVec 32
  tenant : BitVec 32
  known : Bool
  rank : Nat
  experts : Nat
  sharePages : Nat
  lastCode : Nat
  lastUse : Nat
  run : Option (BitVec 32)
  unbind : Bool
  evictReplies : List (Reply × BitVec 16 × Bool)
  lastDies : BitVec 16
  image : Option DrawerImage
  deriving DecidableEq, Repr

/-- A residency of a slot on a span group, named by the group's lowest die (R241, R247). `state`: 0 fetching, 1 resident,
2 EVICT_PENDING. `image` is the drawer that its fetch brought, none before it ends. -/
structure Residency where
  cab : Cab
  slot : Nat
  group : Die
  state : Fin 3
  pins : Nat
  pages : Nat
  lastRead : Nat
  image : Option DrawerImage
  deriving DecidableEq, Repr

/-- A fetch (R245, R246). `step`: 0 queued behind four others, 1 waiting for the catalog, 3 waiting for pages, 4 pieces on
their way to the intakes. `order` is when it reached step 3. -/
structure Fetch where
  id : BitVec 32
  cab : Cab
  slot : Nat
  group : Die
  handle : Word
  version : BitVec 32
  step : Fin 8
  order : Nat
  dataset : Bool
  run : Option (BitVec 32)
  replies : List Reply
  deriving DecidableEq, Repr

/-- An extra-expert claim (R252). -/
structure XClaim where
  cab : Cab
  layer : Nat
  xslot : Nat
  slot : Nat
  deriving DecidableEq, Repr

/-- A standing remake consent (R255, R261). -/
structure RemakeConsent where
  tenant : BitVec 32
  cab : Cab
  dataset : Word
  maxSteps : Nat
  expiry : Nat
  deriving DecidableEq, Repr

/-- What the command processor told a tenant through its session of a drawer (R255): the slot's handle, the slot and the code of a remake
that failed, or STALE_SHELF of a drawer that needs re-making. -/
structure TenantNote where
  tenant : BitVec 32
  handle : Word
  cab : Cab
  slot : Nat
  code : Nat
  deriving DecidableEq, Repr

/-- A serving request (R54 to R56). `state` is 0 QUEUED, 1 ADMITTED, 2 SEATED, 3 DONE, 4 ENDED; `ready` rows wait for a seat
since `since`; `seq` its admission order; `inPass` says that rows of it are in a pass or on their way to the next die; `passedOver` that a
seating passed over its waiting rows (R45); `ended` is when it ended; `out` are the tokens delivered (R354); `record` is the trap record
that its tenant received (R177). -/
structure Request where
  id : Nat
  session : Sess
  tenant : BitVec 32
  cab : Cab
  ask : ServeReq
  state : Fin 5
  code : Nat
  group : Option Die
  slot : Option Nat
  placed : Nat
  delivered : Nat
  ready : Nat
  since : Nat
  seq : Nat
  kvPages : Nat
  inPass : Bool
  passedOver : Bool
  arrived : Nat
  admitted : Nat
  ended : Nat
  pinned : Bool
  out : List (BitVec 32)
  record : List Word
  deriving DecidableEq, Repr

/-- A row of a seating (R43, R44, R82): logical cluster, position in it, tag, kind (0 prefill, 1 decode, 2 adaptation
forward, 3 adaptation backward), its request or run, and of a run's row the dataset index of its sequence and the place of its token in it
(R288). `act` is the activation or the gradient that the row brought from the last die (R49, R52), none at the group's first. A row of
neither request nor run is one whose owner has left and which stays until its pass ends (R42). -/
structure SeatRow where
  cluster : Nat
  pos : Nat
  tag : BitVec 16
  kind : Fin 4
  glove : BitVec 16
  request : Option Nat
  run : Option (BitVec 32)
  seq : Nat
  token : Nat
  act : List Byte
  deriving DecidableEq, Repr

/-- A pass on a die or a seating waiting for it (R42, R51, R66, R100). `unseated` are indexes into `rows`; `tokens` the ids that
TOKEN_GREEDY selected for rows, by index into `rows` (R225); `mid` says that the seating waits between two segments of its pass (R52). -/
structure Pass where
  seating : BitVec 16
  trans : Bool
  rows : List SeatRow
  unseated : List Nat
  tokens : List (Nat × BitVec 32)
  started : Nat
  clips : Nat
  withheld : Bool
  mid : Bool
  deriving DecidableEq, Repr

/-- An activation store block that is not free (R106 to R108), with its bytes: of the rows of a seating that arrived, or of the saved
activations of a run (R107), whose bytes are its program's. -/
structure ABlock where
  blk : Fin 768
  zeroing : Bool
  cab : Cab
  glove : BitVec 16
  seating : BitVec 16
  saved : Option (BitVec 32)
  data : List Byte
  deriving DecidableEq, Repr

/-- The pass status that a die's last pass left (R92, R98, R100), and what the operator sees of it (R76): its seating, the row-done mask and the
number of unseated rows of each logical cluster, the values clipped, its rows, its start and end. -/
structure PassStatus where
  seating : BitVec 16
  rowDone : List Nat
  unseated : List Nat
  clips : Nat
  rows : Nat
  started : Nat
  ended : Nat
  deriving DecidableEq, Repr

/-- A compute die (R20, R77, R100). `clusters` holds per physical cluster 0 active, 1 spare, 2 failed or retired,
3 resetting; `map` the logical numbers' physical clusters; `nextMap` a map change due at the next pass boundary; `queue` the
descriptors of unretired jobs that have retired on the die; `packets` the lattice packets delivered to it, in order. `panelNext` is the
projection that the die's shared read is in, and the index of its next panel (R89, R90); `passStatus` the last pass's status; `again` are
rows that a pass of the die left unseated and that its next pass takes up (R100). -/
structure DieSt where
  present : Bool
  inService : Bool
  clusters : List (Fin 4)
  map : List Phys
  nextMap : Option (List Phys)
  pass : Option Pass
  arrived : List Pass
  onLink : List Pass
  again : List SeatRow
  tokensOnWay : List Nat
  seatIndex : Nat
  waitExpired : Bool
  segment : Nat
  lineFaults : Nat
  blocks : List ABlock
  suppliers : List Die
  queue : List (Fin 4096 × BitVec 32 × BitVec 20)
  packets : List Packet
  panelNext : Option (BitVec 16 × BitVec 8 × Bool × Nat)
  passStatus : Option PassStatus
  deriving DecidableEq, Repr

/-- A glove slot of a cluster that holds a glove (R103, R105), with its current key generation and the previous one while it is kept
(R388). -/
structure GSlot where
  idx : Fin 64
  glove : BitVec 16
  gen : BitVec 32
  prev : Option (BitVec 32)
  lastUse : Nat
  deriving DecidableEq, Repr

/-- A panel buffer (R91): 0 empty, 1 filled, 2 being read; `own` is the number of 64-byte sectors of what it holds that the cluster's own
stream unit read and placed on the panel bus (R90). -/
structure PanelBuf where
  state : Fin 3
  own : Nat
  fill : Option PanelFill
  deriving DecidableEq, Repr

/-- The cluster parts that are not engines (R79, R98, R101 to R103). `pieces` are the drawer pieces in the halves of the drawer lines, by
rank; `unitTags` list the marks of row-region units that were written. -/
structure ClusterSt where
  die : Die
  cl : Phys
  slots : List GSlot
  lines : List (BitVec 16)
  pieces : List ((Nat × Nat) × List (List Nat))
  bufs : List PanelBuf
  rowMem : Mem
  unitTags : List (Nat × Mark)
  deriving DecidableEq, Repr

/-- A physical accumulator tile that is granted or non-zero (R84 to R86, R160, R166): its owner tag, marks, and its
non-empty entries by row and column. `rowMarks` are the marks of the rows that wrote it (R194). -/
structure Tile where
  die : Die
  cl : Phys
  engine : Fin 8
  pt : Fin 8
  owner : Option (Fin 4096)
  pair : Bool
  sat : Bool
  entries : List ((Nat × Nat) × BitVec 42)
  rowMarks : List (Nat × Mark)
  deriving DecidableEq, Repr

/-- A tile grant: the physical tiles of a stream on an engine, in logical order (R85). -/
structure Grant where
  stream : Fin 4096
  die : Die
  cl : Phys
  engine : Fin 8
  tiles : List (Fin 8)
  deriving DecidableEq, Repr

/-- Conversion counters and status counts of a descriptor (R153, R188). -/
structure Counts where
  overflow : Nat
  crush : Nat
  crushedBlocks : Nat
  nanBlocks : Nat
  scaleClamped : Nat
  nanOutputs : Nat
  satTiles : Nat
  emptyRows : Nat
  strictFlags : Nat
  scaleCode : Nat
  busy : Nat
  deriving DecidableEq, Repr

/-- A trap of the NaN sentinel (R173, R174): its scope (a request or a run of the serving stream; both none for a stream's
own scope), the record of its first event (R176) and the number of its later events. -/
structure Trap where
  request : Option Nat
  run : Option (BitVec 32)
  record : List Word
  more : Nat
  deriving DecidableEq, Repr

/-- A matrix-op descriptor that has issued and not retired (R115, R136, R174, R188). `phase` is 1 while pass 1 of SCALE_SRC 1
has reported and pass 2 is due, 2 when it may retire. `skipped` are the rows, by logical cluster and position, that took no part as their
scope had trapped or ended. `traps` are the scopes in which the sentinel trapped; `isolation` says that the engines withheld its
results (R48). -/
structure Flight where
  die : Die
  stream : Fin 4096
  issue : MatIssue
  phase : Fin 3
  counts : Counts
  clusters : BitVec 8
  skipped : List (Nat × Nat)
  exps : List Int
  traps : List Trap
  isolation : Bool
  deriving DecidableEq, Repr

/-- What a store of a vector descriptor replaced, so that it can be withheld (R195): a 4 KiB allocation unit of the row region
with the marks of its 64 units, bytes of a tensor of the stream or of the program, an accumulator tile. -/
inductive Replaced where
  | rows (au : Nat) (bytes : List Byte) (marks : List Mark)
  | tensor (handle : BitVec 32) (off : Nat) (bytes : List Byte) (marks : List (Nat × Mark))
  | prog (handle : BitVec 32) (data : List Byte)
  | tile (t : Tile)
  deriving DecidableEq, Repr

/-- A vector engine (R190 to R200, R213). `pos` is the index of the next instruction of the body, `outer` and `inner` the
loop indexes; `cursors` the elements taken by the cursor instructions of each stream in this outer iteration, `fbBytes` the
bytes of FB16 blocks written or read so far; `flags` the STRICT sticky flags by register and element, zero where not listed; `undo` what the
descriptor's stores replaced, the last first (R195). Of a STRICT_DOT descriptor, `emitted` are its words as Uhlip emitted them,
`kDone` the elements of K in the segments that have run and `body` the library's text; `desc` is then the descriptor of the
segment (R220). `seed` is the seed of SR that a descriptor of a run's step takes (R288). -/
structure VEngine where
  u : VUnit
  regs : List (BitVec 4096)
  masks : List (BitVec 512)
  regMarks : List Mark
  maskMarks : List Mark
  flags : List ((Nat × Nat) × BitVec 8)
  desc : List Word
  jobSeq : BitVec 32
  opIndex : BitVec 20
  pos : Nat
  outer : Nat
  inner : Nat
  finished : Bool
  stopped : Bool
  isolation : Bool
  cursors : List Nat
  fbBytes : List Nat
  counts : Counts
  traps : List Trap
  undo : List Replaced
  emitted : List Word
  kDone : Nat
  body : List Word
  seed : Option Nat
  deriving DecidableEq, Repr

/-- A bucket's item on the hatband (R303): the header's sums, the elements in the running-sum format (two codes per element
in AF42_COMP), block scale, lift and sat for MXFP8; the member it goes to next; whether it waits there (ORDERED, R305). -/
structure Item where
  origin : Die
  nextHop : Die
  held : BitVec 16
  dropped : BitVec 16
  tokens : Nat
  droppedTokens : Nat
  cs : BitVec 42
  absSum : BitVec 42
  errAbs : BitVec 42
  lifts : Nat
  satBlocks : Nat
  elems : List Nat
  comps : List Nat
  blocks : List (Nat × Nat × Bool)
  waiting : Bool
  deriving DecidableEq, Repr

/-- A reduction: the descriptor of R302 and the record of R330, the members ready, queued and late, the items under way and
the owner's accumulator. `state` is 0 OPEN, 1 DONE, 2 FAILED, 3 ABANDONED; `era` 0 the step in flight, 1 the last committed
step, 2 the last discarded one (R330); `thinned` marks a factor bucket (R325). -/
structure Reduction where
  id : BitVec 24
  run : BitVec 32
  step : Nat
  position : Fin 4
  chain : List Die
  owner : Die
  descending : Bool
  ordered : Bool
  bcast : Bool
  wire : Fin 8
  firstParam : Nat
  elems : Nat
  deadline : Nat
  tauExp : Nat
  headroom : Nat
  state : Fin 4
  cause : Nat
  ready : BitVec 16
  queued : BitVec 16
  marked : BitVec 16
  late : BitVec 16
  due : Bool
  opened : Bool
  era : Fin 3
  thinned : Bool
  items : List Item
  acc : Option Item
  result : List (BitVec 42)
  r : BitVec 42
  openTime : Nat
  closeTime : Nat
  deriving DecidableEq, Repr

/-- What a run holds on one die of its group, per parameter index of the die's chain position (R274, R279, R281, R326);
`fwdRows` and `backRows` are the step's rows whose forward and backward passes have ended on the die; `counts` are the conversion counters of
the optimiser body that ran last on it (R152, R153). -/
structure RunDie where
  die : Die
  gbuf : List (Nat × BitVec 42)
  feedback : List (Nat × BitVec 42)
  feedbackNext : List (Nat × BitVec 42)
  tokens : Nat
  fwdRows : Nat
  backRows : Nat
  backwardDone : Bool
  isReady : Bool
  switched : Bool
  lost : Bool
  counts : Counts
  deriving DecidableEq, Repr

/-- Parameters of one shard in one copy: BF16 weight, remainder, m, v by parameter index (R279). -/
structure ParamState where
  position : Fin 4
  index : Nat
  w : BitVec 16
  r : BitVec 8
  m : BitVec 32
  v : BitVec 32
  deriving DecidableEq, Repr

/-- The reduction settings of a run (R328). -/
structure RedSettings where
  deadline : Nat
  tauExp : Nat
  wire : Fin 8
  headroom : Nat
  bucket : Nat
  deriving DecidableEq, Repr

/-- A sequence of the step in flight (R271, R273, R278): dataset index, rows, LOSS tokens, home group, the rows seated forward,
the rows whose forward passes have ended, and the rows seated backward; `redo` and `redoBack` are the tokens of rows that a pass left
unseated and that are seated again first (R100). -/
structure StepSeq where
  index : Nat
  rows : Nat
  loss : Nat
  home : Die
  placed : Nat
  forward : Nat
  back : Nat
  redo : List Nat
  redoBack : List Nat
  deriving DecidableEq, Repr

/-- An adaptation run (R263 to R294). `state` is the code of R266; `words` are the START_RUN words; `record` is the last trap
record that its tenant received (R177). -/
structure Run where
  id : BitVec 32
  tenant : BitVec 32
  stream : Fin 4096
  cab : Cab
  state : Fin 8
  source : Word
  sourceVersion : BitVec 32
  outHandle : Word
  dataset : Word
  program : BitVec 32
  seed : BitVec 32
  opt : Fin 4
  bounded : Bool
  ordered : Bool
  seqsPerStep : Nat
  maxSteps : Nat
  lr : BitVec 32
  lrNext : Option (BitVec 32)
  wd : BitVec 32
  beta1 : BitVec 32
  beta2 : BitVec 32
  eps : BitVec 32
  saveGib : Nat
  rank : Nat
  alpha : BitVec 16
  slot : Nat
  dies : BitVec 16
  vc : Option (Fin 8)
  epoch : BitVec 32
  cursor : Nat
  stepStart : Nat
  seqs : List (Nat × Nat)
  hasData : Bool
  inStep : Bool
  step : List StepSeq
  perDie : List RunDie
  current : List ParamState
  shadow : List ParamState
  retries : Nat
  consecutive : Nat
  skipped : Nat
  lastTokens : Nat
  droppedTokens : Nat
  loss : BitVec 32
  lastCode : Nat
  commitTime : Nat
  settings : RedSettings
  settingsNext : Option RedSettings
  thin : List (Nat × Nat × Nat)
  thinNext : List (Nat × Nat × Nat)
  noOffDie : Bool
  unmounted : Bool
  stopping : Bool
  remakeOf : Option Nat
  reply : Option Reply
  stopReply : Option Reply
  words : List Word
  shelfMeas : BitVec 512
  record : List Word
  deriving DecidableEq, Repr

/-- A published version that waits for CATALOG_STORED (R290): store id, what was stored, and the PUBLISH_RUN to answer, none
for a remake. -/
structure Store where
  id : BitVec 32
  handle : Word
  version : BitVec 32
  cab : Cab
  run : BitVec 32
  tenant : BitVec 32
  reply : Option Reply
  deriving DecidableEq, Repr

/-- A page entry that is not at its reset value (R336). -/
structure Page where
  stack : Stack
  page : Fin 32768
  keyGen : BitVec 32
  glove : BitVec 16
  cab : Cab
  kind : Fin 16
  sweep : Bool
  zeroing : Bool
  mark : Fin 32768
  ownerRef : BitVec 32
  deriving DecidableEq, Repr

/-- A merge buffer entry of a controller (R349), oldest first in the controller's list: the bytes its mask covers. -/
structure MergeEntry where
  stack : Stack
  sector : BitVec 30
  bytes : List (Fin 64 × Byte)
  glove : BitVec 16
  touch : List Touch
  deriving DecidableEq, Repr

/-- A stack and its controller (R340, R356 to R364). `bankOut` says that a bank has no spare row left (R453). `cache` are the gloves cached, with their last use; `finds` the symbol
positions recently corrected per pseudo-channel and row with their times (R358), `scrub` the sectors and symbols of demand
scrubs whose second read is due (R356). -/
structure StackSt where
  inService : Bool
  failed : Bool
  corrected : Nat
  uncorrectable : Nat
  mismatch : Nat
  onDie : Nat
  spareRows : Nat
  spareLanes : Nat
  spareRowsStart : Nat
  spareLanesStart : Nat
  bankOut : Bool
  patrolTime : Nat
  patrolNext : Nat
  cache : List (BitVec 16 × Nat)
  finds : List (Nat × Nat × Nat × Nat)
  scrub : List (Nat × Nat)
  keptOut : List (Fin 32768)
  deriving DecidableEq, Repr

/-- A glove (R375 to R379, R388, R404). `phase`: 0 none, 1 Make, 2 Install, 3 Sweep, 4 Drain, 5 Erase of the previous
generation, 6 closing (waiting for steps 1 to 3 of R390), 7 erasing the glove. `waiting` are the blocks whose
acknowledgement is due; `serial` tells the keys of gloves that had the same id apart. -/
structure Glove where
  id : BitVec 16
  kind : Fin 3
  cab : Cab
  tenant : BitVec 32
  gen : BitVec 32
  prevHeld : Bool
  phase : Fin 8
  serial : Nat
  standbyAcked : Bool
  waiting : List GBlock
  prevPages : Nat
  keyId : BitVec 512
  catalogKey : BitVec 256
  rotateTime : Nat
  replies : List Reply
  removing : Bool
  tokensIn : Nat
  tokensOut : Nat
  rowsSeated : Nat
  deriving DecidableEq, Repr

/-- A record sent on a session and not acknowledged (R483), with the acknowledgement fields that it carries. -/
structure SentRecord where
  counter : Nat
  close : Bool
  ackNext : Word
  ackMap : Word
  msgs : List (List Word)
  sends : Nat
  intervalUs : Nat
  deriving DecidableEq, Repr

/-- An open session (R382 to R387, R481 to R485). `seen` are the accepted DATA and CLOSE counters within the window of 64;
`answer` is the SESSION_ACCEPT that opened it; `served` are the token ids that reached it, with their requests (R50). -/
structure Session where
  n : Sess
  tenant : BitVec 32
  cab : Cab
  nonce : BitVec 256
  ct : List Byte
  keyId : BitVec 512
  answer : List Byte
  opened : Nat
  draining : Bool
  rxHigh : Option Nat
  seen : List Nat
  rxNext : Nat
  ackHigh : Option Nat
  txNext : Nat
  txAckNext : Nat
  unacked : List SentRecord
  toSend : List (List Word)
  inbox : List (List Word)
  ackDue : Bool
  discarded : Nat
  src : BitVec 128
  srcPort : BitVec 16
  eventMseq : BitVec 16
  served : List (Nat × BitVec 32)
  deriving DecidableEq, Repr

/-- A consent token (R399). `phase` is 0 pending, 1 in force. -/
structure Token where
  id : BitVec 256
  cab : Nat
  scope : BitVec 16
  tenant : BitVec 32
  notBefore : Nat
  expiry : Nat
  phase : Fin 2
  deriving DecidableEq, Repr

/-- A debug channel (R400, R401). -/
structure DebugChan where
  id : Nat
  token : BitVec 256
  scope : BitVec 16
  buffer : Nat
  bytes : Nat
  ended : Bool
  deriving DecidableEq, Repr

/-- The root-of-trust processors (R367 to R402): glove table, tenant entries, sessions, tokens, identity. `transition` is
STATE of R393 (0 NORMAL, 1 UPDATING, 2 STARTING); `spdmHeld` are the requests that wait for a restarting RoTP (R394). -/
structure Rot where
  gloves : List Glove
  freed : List (BitVec 16)
  nextNew : Nat
  tenants : List (BitVec 32 × BitVec 512)
  sessions : List Session
  tokens : List Token
  assemblies : List (Fin 4096 × List Byte)
  debugChans : List DebugChan
  nextDebug : Nat
  transition : Fin 3
  opKey : BitVec 512
  pendingCt : Ct
  ekOwner : Nat
  ekSerial : Nat
  bootCount : BitVec 32
  spdmOut : List (Route × SpdmAnswer)
  spdmHeld : List (Route × SpdmAsk)
  deriving DecidableEq, Repr

/-- A session address of an edge die (R488). -/
structure EAddr where
  v6 : Bool
  enable : Bool
  vlan : BitVec 12
  frameMax : Nat
  addr : BitVec 128
  deriving DecidableEq, Repr

/-- A receive (0 to 7) or transmit (8 to 15) ring (R486, R488). -/
structure ERing where
  installed : Bool
  base : Nat
  count : Nat
  irq : Bool
  copyBad : Bool
  nextDesc : Nat
  deriving DecidableEq, Repr

/-- Fragments of an unprotected message held (R484). -/
structure Frag where
  msgId : BitVec 32
  total : Nat
  got : List Nat
  deriving DecidableEq, Repr

/-- What an edge die sends on its port (R481, R487): an unprotected message to an address and port, a protected record with
its acknowledgement fields and Ilnil messages, an operator frame. -/
inductive EdgeOut where
  | plain (dst : BitVec 128) (port : BitVec 16) (type : Nat) (msgId : BitVec 32) (bytes : List Byte)
  | record (session : Sess) (type : Nat) (counter : Word) (ackNext ackMap : Word) (msgs : List (List Word))
      (dst : BitVec 128) (port : BitVec 16)
  | frame (ring : Fin 8) (bytes : List Byte)
  deriving DecidableEq, Repr

/-- An edge die (R27, R479 to R489). `ringIrqs` are rings whose interrupt source was raised (R487), `out` what the port sent. -/
structure EdgeSt where
  inService : Bool
  linkUp : Bool
  pmd : Fin 3
  attach : BitVec 2
  addrs : List EAddr
  rings : List ERing
  fecCorrected : Nat
  fecUncorrected : Nat
  rxFrames : Nat
  rxNoDesc : Nat
  discarded : Nat
  txFrames : Nat
  frags : List Frag
  ringIrqs : List Nat
  out : List EdgeOut
  deriving DecidableEq, Repr

/-- Power, pins, clocks and the management controller's settings (R437, R467 to R478, R492, R493). `ptp` is 0 not yet
locked, 1 locked, 2 holdover; `stepTo` and `stepBy` are the time to which module time stepped and by how much; `choice` is the control die that the management controller reported as chosen in place of the
preferred one (R437). -/
structure Power where
  inputOn : Bool
  lockedOff : Bool
  dataRails : Bool
  pwrOk : Bool
  resetLow : Bool
  thermTripN : Bool
  bladeFault : List Bool
  limit : Nat
  throttle : Nat
  refclk : Fin 2
  ptp : Fin 3
  ppsSeen : Bool
  stepTo : Nat
  stepBy : Nat
  started : Bool
  preferred : Ct
  startLimit : Nat
  choice : Option Ct
  slotId : Fin 16
  mcLog : List (List Nat)
  deriving DecidableEq, Repr

/-- The coarsened telemetry last made available (R396, R405). -/
structure Telemetry where
  powerTime : Nat
  modulePower : Nat
  cabPower : List Nat
  tempTime : Nat
  temps : List Nat
  countTime : Nat
  counts : List (List Nat)
  deriving DecidableEq, Repr

/-- What the last SECTOR_READ or SECTOR_WRITE ended with (R338, R345): completion code and the bytes served. -/
structure SectorAnswer where
  code : Nat
  data : List Byte
  deriving DecidableEq, Repr

/-- The outcome of the last access of a core: whether it raised an access fault, and the data a read returned. -/
structure Bus where
  core : Ct
  fault : Bool
  data : List Byte
  deriving DecidableEq, Repr

/-- The state of the module. `pending` is the queue of the commands that wait, first in, first out; `freeCtr` is the
model's own counter that makes each free value a fresh one. -/
structure State where
  pending : List Instr
  now : Nat
  freeCtr : Nat
  cts : List CtDie
  cp : Cp
  cabs : List Cabinet
  streams : List Stream
  jobs : List Job
  tensors : List Tensor
  programs : List Program
  slots : List Slot
  slotGens : List ((Nat × Nat) × BitVec 16)
  residencies : List Residency
  fetches : List Fetch
  nextFetch : BitVec 32
  fetchOrder : Nat
  xclaims : List XClaim
  consents : List RemakeConsent
  remakeQ : List (Cab × Nat)
  notes : List TenantNote
  requests : List Request
  nextRequest : Nat
  useClock : Nat
  dies : List DieSt
  clusters : List ClusterSt
  tiles : List Tile
  grants : List Grant
  flights : List Flight
  vengines : List VEngine
  runs : List Run
  nextRun : BitVec 32
  reductions : List Reduction
  nextRed : BitVec 24
  nextStore : BitVec 32
  versions : List (Word × BitVec 32)
  stores : List Store
  hopsBroken : BitVec 16
  hopOrder : List (BitVec 24 × Die × Die)
  pages : List Page
  mem : Mem
  merges : List MergeEntry
  hbm : List StackSt
  rot : Rot
  edges : List EdgeSt
  power : Power
  telem : Telemetry
  bus : Bus
  sector : SectorAnswer
  deriving DecidableEq, Repr

/-- The reasons a step could stop with a fault. No meaning of this model raises one: whatever the spec calls a fault is
reported by the module and the module goes on (R443), which is a next state. -/
inductive Fault where
  /-- Raised by nobody; safe. -/
  | none
  deriving DecidableEq, Repr

/-- The reasons a step is refused. -/
inductive Refusal where
  /-- The command of that mnemonic has no meaning in the model yet; raised by its arm of exec only; safe. -/
  | notModelled (mnemonic : String)
  deriving DecidableEq, Repr

/-- A pigeonhole after reset (R413). -/
def Pigeon.reset : Pigeon :=
  { data := List.replicate 16 0, status := 0, irqEn := false, overrun := false, done := false, go := false, held := [] }

/-- A tray after reset (R416, R422). -/
def Tray.reset : Tray :=
  { out := List.replicate 64 0, inn := List.replicate 64 0, outHead := 0, outTail := 0, inHead := 0, inTail := 0,
    irqEn := false, overrun := false, inbox := [], held := [], eventMseq := 0, rung := false }

/-- A control die after a full reset: SIDE STARTING (R413, R416, R438), memory zero (R408), no image measured yet. -/
def CtDie.reset : CtDie :=
  { side := 2, fusesLocked := false, poweredDown := false, reached8 := false, pigeons := List.replicate 32 Pigeon.reset,
    trays := List.replicate 56 Tray.reset, mem := [], log := [], logSeq := 0, logRead := 0, logWritten := 0, logOverwritten := 0,
    fuses := [], catalog := [], curSlot := 0, running := List.replicate 9 { meas := 0, svn := 0, verified := false },
    pendingImgs := [], svnMin := List.replicate 9 0, opKeyNext := 0 }

/-- A policy after a full start (R449): OFF. -/
def Policy.reset : Policy := { on := false, threshold := 0, window := 0 }

/-- The command processor pair after a full reset. -/
def Cp.reset : Cp :=
  { active := 0, takingOver := .none, takeOverReply := .none, failovers := 0, jSent := [], jAcked := [],
    chans := [], heldCmds := [], eventTray := 0, backlog := [], eventsLost := 0, policies := List.replicate 9 Policy.reset,
    history := [], traceRing := .none, vcs := List.replicate 8 .none, timers := [], resets := [], reservesLow := [],
    tripped := false, warm := [], lastBeat := [0, 0] }

/-- Admission settings after reset (R59). -/
def Admission.reset : Admission :=
  { target := 288, wait := 250, prefill := 1024, bwd := 4000, quota := 256, isOpen := true }

/-- Cabinet counters at zero. -/
def Counters.reset : Counters := { passes := 0, rows := 0, tokens := 0, done := 0, fetches := 0, steps := 0 }

/-- A cabinet after a full reset: unconfigured (R436), settings of R59, drawer cache 8 GiB (R260). -/
def Cabinet.reset : Cabinet :=
  { dies := 0, span := 0, state := 0, shelf := .none, split := [], mountReply := .none, mountAsked := 0,
    unmount := .none,
    adm := Admission.reset, serving := .none, cacheGib := 8, cacheReplies := [],
    counters := Counters.reset }

/-- Stream 0, the module stream, which exists from start-up and belongs to the operator (R60). -/
def Stream.module : Stream :=
  { id := 0, cab := 0, owner := 0, tenant := 0, minor := 0, nextSeq := 0, halted := false, isClosing := false, closing := [] }

/-- A compute die before its start-up tests: nothing present, nothing in service. -/
def DieSt.reset : DieSt :=
  { present := false, inService := false, clusters := List.replicate 9 2, map := [], nextMap := .none, pass := .none,
    arrived := [], onLink := [], again := [], tokensOnWay := [], seatIndex := 0, waitExpired := false, segment := 0, lineFaults := 0,
    blocks := [], suppliers := [], queue := [], packets := [], panelNext := .none, passStatus := .none }

/-- The counts of a descriptor when it issues (R153); SCALE_CODE reads 0x7F unless chosen (R188). -/
def Counts.zero : Counts :=
  { overflow := 0, crush := 0, crushedBlocks := 0, nanBlocks := 0, scaleClamped := 0, nanOutputs := 0, satTiles := 0,
    emptyRows := 0, strictFlags := 0, scaleCode := 0x7f, busy := 0 }

/-- A vector engine that holds no descriptor: registers, masks and flags zero with the neutral mark (R190 to R193), as each
descriptor finds them (R192). -/
def VEngine.reset (u : VUnit) : VEngine :=
  { u := u, regs := List.replicate 32 0, masks := List.replicate 8 0, regMarks := List.replicate 32 ⟨0, 0xffff⟩,
    maskMarks := List.replicate 8 ⟨0, 0xffff⟩, flags := [], desc := [], jobSeq := 0, opIndex := 0,
    pos := 0, outer := 0, inner := 0, finished := false, stopped := false, isolation := false, cursors := List.replicate 8 0,
    fbBytes := List.replicate 8 0, counts := Counts.zero, traps := [], undo := [], emitted := [], kDone := 0, body := [], seed := none }

/-- The vector engines of the module, one a physical cluster (R79). -/
def allVengines : List VEngine :=
  (List.finRange 16).flatMap fun d => (List.finRange 9).map fun c => VEngine.reset ⟨d, c⟩

/-- A stack before its training (R436 step 6). -/
def StackSt.reset : StackSt :=
  { inService := false, failed := false, corrected := 0, uncorrectable := 0, mismatch := 0, onDie := 0, spareRows := 0,
    spareLanes := 0, spareRowsStart := 0, spareLanesStart := 0, bankOut := false, patrolTime := 0, patrolNext := 0, cache := [], finds := [], scrub := [],
    keptOut := [] }

/-- The root-of-trust processors after a full reset: no glove, no tenant entry, no session, no token (R377, R439). -/
def Rot.reset : Rot :=
  { gloves := [], freed := [], nextNew := 0x100, tenants := [], sessions := [], tokens := [], assemblies := [], debugChans := [],
    nextDebug := 1, transition := 2, opKey := 0, pendingCt := 0, ekOwner := 2, ekSerial := 0, bootCount := 0, spdmOut := [], spdmHeld := [] }

/-- A session address that is disabled. -/
def EAddr.reset : EAddr := { v6 := false, enable := false, vlan := 0, frameMax := 1518, addr := 0 }

/-- A ring that is not installed. -/
def ERing.reset : ERing := { installed := false, base := 0, count := 0, irq := false, copyBad := false, nextDesc := 0 }

/-- An edge die before its training. -/
def EdgeSt.reset : EdgeSt :=
  { inService := false, linkUp := false, pmd := 0, attach := 0, addrs := List.replicate 4 EAddr.reset,
    rings := List.replicate 16 ERing.reset, fecCorrected := 0, fecUncorrected := 0, rxFrames := 0, rxNoDesc := 0,
    discarded := 0, txFrames := 0, frags := [], ringIrqs := [], out := [] }

/-- Power after a full reset: input in rating, MOD_RESET_N low, control rails up, data-plane rails off (R471, R472),
POWER_LIMIT 10,000 W (R470), CT0 preferred, START_LIMIT 30 s (R437), REFCLK0 (R475). -/
def Power.reset : Power :=
  { inputOn := true, lockedOff := false, dataRails := false, pwrOk := true, resetLow := true, thermTripN := true,
    bladeFault := [false, false], limit := 10000, throttle := 0, refclk := 0, ptp := 0, ppsSeen := false, stepTo := 0, stepBy := 0, started := false,
    preferred := 0, startLimit := 30, choice := none, slotId := 0, mcLog := [] }

/-- No telemetry window has ended. -/
def Telemetry.reset : Telemetry :=
  { powerTime := 0, modulePower := 0, cabPower := List.replicate 16 0, tempTime := 0, temps := List.replicate 24 0,
    countTime := 0, counts := List.replicate 16 (List.replicate 6 0) }

/-- The module right after a full reset, with MOD_RESET_N still low: nothing started, no command waiting. -/
def State.reset : State :=
  { pending := [], now := 0, freeCtr := 0, cts := [CtDie.reset, CtDie.reset], cp := Cp.reset,
    cabs := List.replicate 16 Cabinet.reset, streams := [Stream.module], jobs := [], tensors := [], programs := [],
    slots := [], slotGens := [], residencies := [], fetches := [], nextFetch := 0, fetchOrder := 0, xclaims := [],
    consents := [], remakeQ := [], notes := [], requests := [], nextRequest := 0, useClock := 0, dies := List.replicate 16 DieSt.reset,
    clusters := [], tiles := [], grants := [], flights := [], vengines := allVengines, runs := [], nextRun := 1, reductions := [],
    nextRed := 0, nextStore := 0, versions := [], stores := [], hopsBroken := 0, hopOrder := [], pages := [], mem := [], merges := [],
    hbm := List.replicate 32 StackSt.reset, rot := Rot.reset, edges := List.replicate 4 EdgeSt.reset,
    power := Power.reset, telem := Telemetry.reset, bus := { core := 0, fault := false, data := [] },
    sector := { code := 0, data := [] } }

end Sys2Proof.Machine
end

