-- ==== Sys2Proof/Machine/Memory.lean ====
section
/-!
DEFINITION. Byte-addressed memory: a list of (address, byte) pairs with strictly rising addresses and no zero byte; an
address that is not listed reads zero (R102, R108, R335, R408).
-/

namespace Sys2Proof.Machine

/-- The byte at an address; 0 where none is listed. -/
def Mem.get (a : Nat) : Mem → Byte
  | [] => 0
  | (k, b) :: m => if k = a then b else Mem.get a m

/-- Memory with byte `b` at address `a`. -/
def Mem.set (a : Nat) (b : Byte) : Mem → Mem
  | [] => if b = 0 then [] else [(a, b)]
  | (k, c) :: m =>
    if k < a then (k, c) :: Mem.set a b m
    else if k = a then (if b = 0 then m else (a, b) :: m)
    else (if b = 0 then (k, c) :: m else (a, b) :: (k, c) :: m)

/-- The canonical form: addresses strictly rising from above `lo`, no byte zero. -/
def Mem.wfFrom : Option Nat → Mem → Bool
  | _, [] => true
  | lo, (k, b) :: m => (match lo with | none => true | some l => decide (l < k)) && b != 0 && Mem.wfFrom (some k) m

/-- The canonical form holds. -/
def Mem.wf (m : Mem) : Bool := Mem.wfFrom none m

/-- The `n` bytes from address `a`. -/
def Mem.read (m : Mem) : Nat → Nat → List Byte
  | _, 0 => []
  | a, n + 1 => Mem.get a m :: Mem.read m (a + 1) n

/-- Memory with bytes written from address `a`. -/
def Mem.write (m : Mem) : Nat → List Byte → Mem
  | _, [] => m
  | a, b :: bs => Mem.write (Mem.set a b m) (a + 1) bs

/-- The number that `n` bytes at `a` spell, least significant first (R6). -/
def Mem.num (m : Mem) (a n : Nat) : Nat := ofLe (m.read a n)

/-- Memory with `n` bytes of a number at `a`. -/
def Mem.putNum (m : Mem) (a n x : Nat) : Mem := m.write a (leBytes n x)

/-- Memory with every byte of [a, a + n) zero. -/
def Mem.zero (m : Mem) (a n : Nat) : Mem := m.filter fun c => decide (c.1 < a) || decide (a + n ≤ c.1)

/-- The listed bytes of [a, a + n), moved to start at 0. -/
def Mem.slice (m : Mem) (a n : Nat) : Mem :=
  (m.filter fun c => decide (a ≤ c.1) && decide (c.1 < a + n)).map fun c => (c.1 - a, c.2)

end Sys2Proof.Machine
end

