-- ==== Sys2Proof/Machine/Ops.lean ====
section
/-!
DEFINITION. The shared operations of the control plane: access to the parts of State, messages and their channels
(R410 to R428), the journal (R430, R432), the checks that every Ilnil command passes (R411 to R426, R429), the error log
and its routes (R446 to R448).
-/

namespace Sys2Proof.Machine

/-- What a meaning answers. -/
abbrev Out := Host.Outcome State Fault Refusal

/-! ## Parts of State -/

def State.ct (s : State) (c : Ct) : CtDie := s.cts.getD c.val CtDie.reset
def State.modCt (s : State) (c : Ct) (f : CtDie → CtDie) : State := { s with cts := updAt c.val f s.cts }
def State.cab (s : State) (c : Cab) : Cabinet := s.cabs.getD c.val Cabinet.reset
def State.modCab (s : State) (c : Cab) (f : Cabinet → Cabinet) : State := { s with cabs := updAt c.val f s.cabs }
def State.die (s : State) (d : Die) : DieSt := s.dies.getD d.val DieSt.reset
def State.modDie (s : State) (d : Die) (f : DieSt → DieSt) : State := { s with dies := updAt d.val f s.dies }
def State.stk (s : State) (h : Stack) : StackSt := s.hbm.getD h.val StackSt.reset
def State.modStk (s : State) (h : Stack) (f : StackSt → StackSt) : State := { s with hbm := updAt h.val f s.hbm }
def State.edge (s : State) (e : Edge) : EdgeSt := s.edges.getD e.val EdgeSt.reset
def State.modEdge (s : State) (e : Edge) (f : EdgeSt → EdgeSt) : State := { s with edges := updAt e.val f s.edges }
def State.modCp (s : State) (f : Cp → Cp) : State := { s with cp := f s.cp }
def State.modRot (s : State) (f : Rot → Rot) : State := { s with rot := f s.rot }
def State.modPower (s : State) (f : Power → Power) : State := { s with power := f s.power }

/-- A stream in use (R60). -/
def State.stream? (s : State) (i : Nat) : Option Stream := s.streams.find? fun x => x.id.val == i
def State.modStream (s : State) (i : Nat) (f : Stream → Stream) : State :=
  { s with streams := updFirst (fun x => x.id.val == i) f s.streams }
def State.session? (s : State) (n : Nat) : Option Session := s.rot.sessions.find? fun x => x.n.val == n
def State.modSession (s : State) (n : Nat) (f : Session → Session) : State :=
  s.modRot fun r => { r with sessions := updFirst (fun x => x.n.val == n) f r.sessions }
def State.glove? (s : State) (g : Nat) : Option Glove := s.rot.gloves.find? fun x => x.id.toNat == g
def State.modGlove (s : State) (g : Nat) (f : Glove → Glove) : State :=
  s.modRot fun r => { r with gloves := updFirst (fun x => x.id.toNat == g) f r.gloves }
/-- A tenant's glove (R376): one serves every cabinet. -/
def State.tenantGlove? (s : State) (t : BitVec 32) : Option Glove :=
  s.rot.gloves.find? fun x => x.kind.val == 2 && x.tenant == t
def State.run? (s : State) (i : BitVec 32) : Option Run := s.runs.find? fun x => x.id == i
def State.modRun (s : State) (i : BitVec 32) (f : Run → Run) : State :=
  { s with runs := updFirst (fun x => x.id == i) f s.runs }
def State.job? (s : State) (st : Fin 4096) (q : BitVec 32) : Option Job :=
  s.jobs.find? fun j => j.stream == st && j.seq == q
def State.modJob (s : State) (st : Fin 4096) (q : BitVec 32) (f : Job → Job) : State :=
  { s with jobs := updFirst (fun j => j.stream == st && j.seq == q) f s.jobs }
def State.slot? (s : State) (c : Cab) (n : Nat) : Option Slot := s.slots.find? fun x => x.cab == c && x.slot == n
def State.modSlot (s : State) (c : Cab) (n : Nat) (f : Slot → Slot) : State :=
  { s with slots := updFirst (fun x => x.cab == c && x.slot == n) f s.slots }
def State.request? (s : State) (i : Nat) : Option Request := s.requests.find? fun x => x.id == i
def State.modRequest (s : State) (i : Nat) (f : Request → Request) : State :=
  { s with requests := updFirst (fun x => x.id == i) f s.requests }
def State.cluster? (s : State) (d : Die) (c : Phys) : Option ClusterSt :=
  s.clusters.find? fun x => x.die == d && x.cl == c

/-- A cluster in which nothing was written yet. -/
def ClusterSt.fresh (d : Die) (c : Phys) : ClusterSt :=
  { die := d, cl := c, slots := [], lines := [], pieces := [], bufs := [⟨0, 0, .none⟩, ⟨0, 0, .none⟩], rowMem := [], unitTags := [] }
def State.cluster (s : State) (d : Die) (c : Phys) : ClusterSt := (s.cluster? d c).getD (ClusterSt.fresh d c)
/-- Change a cluster; one that is not listed is listed first. -/
def State.modCluster (s : State) (d : Die) (c : Phys) (f : ClusterSt → ClusterSt) : State :=
  match s.cluster? d c with
  | some _ => { s with clusters := updFirst (fun x => x.die == d && x.cl == c) f s.clusters }
  | none => { s with clusters := s.clusters ++ [f (ClusterSt.fresh d c)] }

/-- Bit `n` of a die bitmap. -/
def hasDie (m : BitVec 16) (d : Nat) : Bool := m.getLsbD d
/-- The dies of a bitmap, ascending. -/
def diesOf (m : BitVec 16) : List Die := (List.finRange 16).filter fun d => hasDie m d.val
/-- The bitmap of some dies. -/
def mapOf (l : List Die) : BitVec 16 := l.foldl (fun a d => a ||| BitVec.ofNat 16 (1 <<< d.val)) 0
/-- The lowest die of the span group of `d` (R37). -/
def groupOf (span : Nat) (d : Die) : Die := Fin.ofNat 16 (if span = 0 then d.val else d.val / span * span)
/-- The dies of the span group whose lowest die is `g` (R37). -/
def groupDies (span : Nat) (g : Die) : List Die := (List.range span).map fun i => Fin.ofNat 16 (g.val + i)
/-- The span groups of a cabinet, by their lowest dies. -/
def Cabinet.groups (c : Cabinet) : List Die := (diesOf c.dies).filter fun d => groupOf c.span d == d
/-- The cabinet that a die belongs to. -/
def State.cabOfDie (s : State) (d : Die) : Option Cab :=
  (List.finRange 16).find? fun c => hasDie (s.cab c).dies d.val

/-- A fresh use number for least-recently-used orders. -/
def State.tick (s : State) : Nat × State := (s.useClock + 1, { s with useClock := s.useClock + 1 })
/-- A fresh argument for a free value of Config. -/
def State.fresh (s : State) : Nat × State := (s.freeCtr, { s with freeCtr := s.freeCtr + 1 })

/-! ## Messages (R421, R424) -/

namespace Kind
abbrev request : Nat := 0
abbrev accepted : Nat := 1
abbrev completion : Nat := 2
abbrev event : Nat := 3
end Kind

/-- Header word 0 (R421). -/
def header0 (opcode mseq stream kind len : Nat) : Word :=
  word (put opcode 48 + put mseq 32 + put stream 20 + put kind 16 + len)

/-- Header word 1 (R421). -/
def header1 (jobSeq code : Nat) (more : Bool) (part : Nat) : Word :=
  word (put jobSeq 32 + put code 16 + put (b2n more) 15 + part)

/-- The parts of a response (R424): 62 payload words each, at most 256, MORE set in all but the last. -/
def msgParts (opcode mseq stream kind jobSeq code : Nat) : Nat → Nat → List Word → List (List Word)
  | 0, _, _ => []
  | n + 1, part, ws =>
    let now := ws.take 62
    let rest := ws.drop 62
    (header0 opcode mseq stream kind (8 * now.length) :: header1 jobSeq code (!rest.isEmpty) part :: now) ::
      (if rest.isEmpty then [] else msgParts opcode mseq stream kind jobSeq code n (part + 1) rest)

/-- REPLAYED (R421, R432). -/
def replayed : List Word → List Word
  | w0 :: w1 :: r => w0 :: (w1 ||| word (1 <<< 14)) :: r
  | l => l

/-- A message's KIND (R421). -/
def msgKind (ws : List Word) : Nat := bits (wordAt ws 0) 19 16

/-- The channel number of R410 and R435; sessions are numbered from 4096. -/
def chanKey : Src → Nat
  | .pigeon _ n => n.val
  | .tray _ n => 64 + n.val
  | .session n => 4096 + n.val

/-- Secure channels (R410). -/
def secureSrc : Src → Bool
  | .pigeon _ n => decide (24 ≤ n.val)
  | .tray _ n => decide (48 ≤ n.val)
  | .session _ => false

/-- The same logical channel on another control die (R410). -/
def srcOn (c : Ct) : Src → Src
  | .pigeon _ n => .pigeon c n
  | .tray _ n => .tray c n
  | .session n => .session n

/-- The control die of a source; the active one for a session. -/
def State.ctOf (s : State) : Src → Ct
  | .pigeon c _ => c
  | .tray c _ => c
  | .session _ => s.cp.active

def otherCt (c : Ct) : Ct := if c = 0 then 1 else 0

/-- The two 32-bit halves of words, low half first (R413). -/
def halves (ws : List Word) : List Half := ws.flatMap fun (w : Word) => [w.setWidth 32, (w >>> 32).setWidth 32]

/-- Free words of a tray's IN ring (R417). -/
def Tray.room (t : Tray) : Nat := 64 - (t.inTail.val + 128 - t.inHead.val) % 128

/-- Words written into a ring from a count modulo 128 (R418). -/
def ringWrite : List Word → Nat → List Word → List Word
  | ring, _, [] => ring
  | ring, i, w :: ws => ringWrite (updAt (i % 64) (fun _ => w) ring) (i + 1) ws

/-- The `n` words of a ring from a count modulo 128. -/
def ringRead (ring : List Word) (i : Nat) : Nat → List Word
  | 0 => []
  | n + 1 => wordAt ring (i % 64) :: ringRead ring (i + 1) n

/-- A whole message into the IN ring. -/
def Tray.push (t : Tray) (ws : List Word) : Tray :=
  { t with inn := ringWrite t.inn t.inTail.val ws, inTail := Fin.ofNat 128 (t.inTail.val + ws.length) }

/-- A message for a tray: into the ring, or held behind what is held (R420). -/
def Tray.give (t : Tray) (ws : List Word) : Tray :=
  if t.held.isEmpty && decide (ws.length ≤ t.room) then t.push ws else { t with held := t.held ++ [ws] }

/-- A response into DATA0 to DATA15, zero beyond its length, DONE set, GO cleared (R413, R414). -/
def Pigeon.fill (p : Pigeon) (ws : List Word) : Pigeon :=
  { p with data := (halves ws ++ List.replicate 16 0).take 16, status := 3, done := true, go := false }

/-- A response for a pigeonhole: written, or held while DONE is set (R420). -/
def Pigeon.give (p : Pigeon) (ws : List Word) : Pigeon :=
  if p.done || !p.held.isEmpty then { p with held := p.held ++ [ws] } else p.fill ws

/-! ### Records of a session (R482, R483) -/

/-- ACK_MAP (R482): bit n for counter ACK_NEXT + 1 + n received. -/
def Session.ackMap (x : Session) : Word :=
  word (((List.range 64).map fun i => b2n (x.seen.contains (x.rxNext + 1 + i)) <<< i).sum)

/-- The edge die of a session (R382). -/
def edgeOf (n : Sess) : Edge := Fin.ofNat 4 (n.val / 2048)

/-- A protected record sent to where the tenant's last verified record came from (R485), with the acknowledgement fields of
that moment. -/
def State.sendRecord (s : State) (x : Session) (type counter : Nat) (msgs : List (List Word)) : State :=
  let rec_ : EdgeOut := .record x.n type (word counter) (word x.rxNext) x.ackMap msgs x.src x.srcPort
  let s := s.modEdge (edgeOf x.n) fun e => { e with out := e.out ++ [rec_], txFrames := e.txFrames + 1 }
  s.modSession x.n.val fun y => { y with ackDue := false }

/-- Messages that wait are sent, one a DATA record, while fewer than 64 records are unacknowledged (R483). -/
def State.sendWaiting (s : State) (n : Nat) : Nat → State
  | 0 => s
  | fuel + 1 =>
    match s.session? n with
    | none => s
    | some x => match x.toSend with
      | [] => s
      | m :: rest =>
        if 64 ≤ x.unacked.length || 2 ^ 48 ≤ x.txNext then s
        else
          let sent : SentRecord := { counter := x.txNext, close := false, ackNext := word x.rxNext, ackMap := x.ackMap,
                                     msgs := [m], sends := 1, intervalUs := 200 }
          ((s.sendRecord x 0x10 x.txNext [m]).modSession n fun y =>
            { y with toSend := rest, unacked := y.unacked ++ [sent], txNext := y.txNext + 1 }).sendWaiting n fuel

/-- A message written to a channel or a session. -/
def State.deliver (s : State) (o : OutMsg) : State :=
  match o.dest with
  | .pigeon c n => s.modCt c fun x => { x with pigeons := updAt n.val (fun p => p.give o.words) x.pigeons }
  | .tray c n => s.modCt c fun x => { x with trays := updAt n.val (fun t => t.give o.words) x.trays }
  | .session n => (s.modSession n.val fun x => { x with toSend := x.toSend ++ [o.words] }).sendWaiting n.val 64

/-- The side of a control die (R419). -/
def State.side (s : State) (c : Ct) : Nat := (s.ct c).side.val

/-- The active command processor runs (R419), and no take-over is under way (R431). -/
def State.cpRuns (s : State) : Bool := s.side s.cp.active == 0 && s.cp.takingOver.isNone

/-- A standby follows the active command processor (R407, R431). -/
def State.hasStandby (s : State) : Bool := s.cpRuns && s.side (otherCt s.cp.active) == 1

/-- A journaled output (R430): written at once without a standby, else after the standby's acknowledgement; while no
command processor is active it waits (R433). -/
def State.emit (s : State) (o : OutMsg) : State :=
  if !s.cpRuns then s.modCp fun c => { c with backlog := c.backlog ++ [o] }
  else if s.hasStandby then s.modCp fun c => { c with jSent := c.jSent ++ [o] }
  else s.deliver { o with dest := srcOn s.cp.active o.dest }

/-! ## The journal's requests (R430, R432) -/

def State.chan (s : State) (k : Nat) : List JReq := (assocGet k s.cp.chans).getD []

/-- The last 1024 requests of a channel, and older ones still unanswered. -/
def trimChan (l : List JReq) : List JReq :=
  (l.take (l.length - 1024)).filter (fun j => j.phase != 2) ++ l.drop (l.length - 1024)

def State.setChan (s : State) (k : Nat) (l : List JReq) : State :=
  s.modCp fun c => { c with chans := insertBy Prod.fst (k, trimChan l) (c.chans.filter fun p => p.1 != k) }

/-- The unanswered request of a channel with an MSEQ. -/
def State.openReq? (s : State) (k : Nat) (mseq : BitVec 16) : Option JReq :=
  (s.chan k).find? fun j => j.mseq == mseq && j.phase != 2

def State.modReq (s : State) (k : Nat) (mseq : BitVec 16) (f : JReq → JReq) : State :=
  s.setChan k (updFirst (fun j => j.mseq == mseq && j.phase != 2) f (s.chan k))

/-- The taking of a request (R430). -/
def State.jTake (s : State) (r : Reply) : State :=
  s.setChan (chanKey r.src) (s.chan (chanKey r.src) ++
    [{ mseq := r.mseq, opcode := r.opcode, stream := r.stream, phase := 0, accepted := [], completion := [],
       byCt := s.cp.active, resent := false, doneAt := 0 }])

/-- Messages sent in order. -/
def State.emitAll (s : State) (d : Src) (ms : List (List Word)) : State :=
  ms.foldl (fun s m => s.emit { dest := d, words := m }) s

/-- The messages of a response. -/
def Reply.msgs (r : Reply) (kind jobSeq code : Nat) (payload : List Word) : List (List Word) :=
  msgParts r.opcode.toNat r.mseq.toNat r.stream.val kind jobSeq code 256 0 payload

/-- ACCEPTED (R423). -/
def State.accept (s : State) (r : Reply) (jobSeq : Nat) : State :=
  let ms := r.msgs Kind.accepted jobSeq Code.ok []
  (s.modReq (chanKey r.src) r.mseq fun j => { j with phase := 1, accepted := ms.headD [] }).emitAll r.src ms

/-- COMPLETION with a job sequence (R423). A request that the journal does not hold was taken by the standby, which
answers on its own channel (R431); of a session it can only be one that has closed. -/
def State.finish (s : State) (r : Reply) (jobSeq code : Nat) (payload : List Word) : State :=
  let ms := r.msgs Kind.completion jobSeq code payload
  if (s.openReq? (chanKey r.src) r.mseq).isSome then
    let (t, s) := s.tick
    (s.modReq (chanKey r.src) r.mseq fun j => { j with phase := 2, completion := ms, doneAt := t }).emitAll r.src ms
  else match r.src with
    | .session _ => s
    | _ => ms.foldl (fun s m => s.deliver { dest := r.src, words := m }) s

/-- COMPLETION (R423). -/
def State.complete (s : State) (r : Reply) (code : Nat) (payload : List Word) : State := s.finish r 0 code payload

/-- The same COMPLETION for several requests. -/
def State.completeAll (s : State) (rs : List Reply) (code : Nat) (payload : List Word) : State :=
  rs.foldl (fun s r => s.complete r code payload) s

/-- A COMPLETION that leaves the journal as it is (R422). -/
def State.refuseRaw (s : State) (r : Reply) (code : Nat) : State :=
  (r.msgs Kind.completion 0 code []).foldl (fun s m =>
    if s.side (s.ctOf r.src) = 1 then s.deliver { dest := r.src, words := m } else s.emit { dest := r.src, words := m }) s

/-! ## Events (R422, R427) -/

/-- Events not yet written to a ring, those of CATALOG_FETCH and CATALOG_STORE or the others. -/
def State.pendingEvents (s : State) (catalog : Bool) : Nat :=
  let isEv (w : List Word) : Bool :=
    msgKind w == Kind.event &&
      ((bits (wordAt w 0) 63 48 == Event.catalogFetch || bits (wordAt w 0) 63 48 == Event.catalogStore) == catalog)
  let inTrays := ((s.ct s.cp.active).trays.map fun t => (t.held.filter isEv).length).sum
  let inQueues := ((s.cp.jSent ++ s.cp.jAcked ++ s.cp.backlog).filter fun o =>
    isEv o.words && (match o.dest with | .session _ => false | _ => true)).length
  inTrays + inQueues

/-- An event on the event tray (R427), numbered by the tray's counter (R422). Of the 65,536 backlog entries 4096 are
reserved for the catalog events; any other event that finds no entry is discarded and counted. -/
def State.postEvent (s : State) (opcode stream : Nat) (payload : List Word) : State :=
  if opcode != Event.catalogFetch && opcode != Event.catalogStore && decide (61440 ≤ s.pendingEvents false) then
    s.modCp fun c => { c with eventsLost := satAdd (2 ^ 32 - 1) c.eventsLost 1 }
  else
    let t := s.cp.eventTray
    let m := ((s.ct s.cp.active).trays.getD t.val Tray.reset).eventMseq
    let s := s.modCt s.cp.active fun x =>
      { x with trays := updAt t.val (fun y => { y with eventMseq := y.eventMseq + 1 }) x.trays }
    s.emit { dest := .tray s.cp.active t,
             words := header0 opcode m.toNat stream Kind.event (8 * payload.length) :: 0 :: payload }

/-- An event inside a session (R426). -/
def State.postSession (s : State) (n : Nat) (opcode stream : Nat) (payload : List Word) : State :=
  match s.session? n with
  | none => s
  | some x =>
    let m := x.eventMseq
    (s.modSession n fun y => { y with eventMseq := y.eventMseq + 1 }).emit
      { dest := .session x.n, words := header0 opcode m.toNat stream Kind.event (8 * payload.length) :: 0 :: payload }

/-- The open sessions of a tenant, lowest number first. -/
def State.tenantSessions (s : State) (t : BitVec 32) : List Session :=
  sortBy (fun x : Session => x.n.val) (s.rot.sessions.filter fun x => x.tenant == t)

/-- An event of a stream (R426, R427): through a session of its tenant, or on the event tray. -/
def State.postStream (s : State) (opcode : Nat) (st : Fin 4096) (payload : List Word) : State :=
  match s.stream? st.val with
  | some x =>
    if x.owner = 1 then
      match s.tenantSessions x.tenant with
      | y :: _ => s.postSession y.n.val opcode st.val payload
      | [] => s
    else s.postEvent opcode st.val payload
  | none => s.postEvent opcode st.val payload

/-- An event for a tenant outside any stream of its own: through its lowest open session. -/
def State.postTenant (s : State) (t : BitVec 32) (opcode stream : Nat) (payload : List Word) : State :=
  match s.tenantSessions t with
  | y :: _ => s.postSession y.n.val opcode stream payload
  | [] => s

/-! ## Taking a request (R411 to R426) -/

/-- The streams that a command accepts (R68, R402, R442, …). -/
inductive StreamRule where
  | zero | zeroOrTenant | own | zeroOrOwn | tenant | session
  deriving DecidableEq, Repr

/-- A row of the command tables: opcode, LENGTH bounds, streams, pigeonhole suitability (R415), whether a secure channel
accepts it (R411), whether it is a data-plane command (R456), reserved bits of its first payload words (R12), and the word
whose bits [63:60] name a cabinet (R441). -/
structure CmdInfo where
  opcode : Nat
  lenMin : Nat
  lenMax : Nat
  rule : StreamRule
  hole : Bool
  secure : Bool
  data : Bool
  rsv : List (List (Nat × Nat))
  cabWord : Option Nat
  deriving DecidableEq, Repr

/-- Reserved bits [hi:lo] of the payload words hold zero (R12). -/
def rsvOk : List (List (Nat × Nat)) → List Word → Bool
  | f :: fs, w :: ws => (f.all fun p => bits w p.1 p.2 == 0) && rsvOk fs ws
  | _, _ => true

/-- LENGTH fits the channel and is whole words (R418, R421). -/
def frameOk (src : Src) (len : Nat) : Bool :=
  len % 8 == 0 && decide (len ≤ match src with | .pigeon _ _ => 48 | _ => 496)

/-- Faults of a request's header (R421, R424, R429): a code, or none. -/
def headerCode (src : Src) (req : Req) : Option Nat :=
  let l := req.length.toNat
  if !frameOk src l || l != 8 * req.payload.length then some Code.badLength
  else if bitAt req.word1 15 then some Code.badLength
  else if req.kind != 0 || req.word1 != 0 then some Code.reservedNonzero
  else none

/-- Where a mailbox command's stream stands (R426). -/
def State.boxStreamCode (s : State) (rule : StreamRule) (st : Fin 4096) : Option Nat :=
  if rule = .session then some Code.wrongChannel
  else match s.stream? st.val with
    | none => some Code.streamUnknown
    | some x =>
      if st.val != 0 && x.owner == 1 then some Code.wrongChannel
      else
        let ok := match rule with
          | .zero => st.val == 0
          | .zeroOrTenant => st.val == 0
          | .own => st.val != 0
          | .zeroOrOwn => true
          | .tenant => false
          | .session => false
        if ok then none else some Code.wrongStream

/-- Where a session command's stream stands (R387, R390, R426). -/
def State.sessStreamCode (s : State) (x : Session) (info : CmdInfo) (st : Fin 4096) : Option Nat :=
  if x.draining then some Code.gloveClosed
  else if (s.tenantGlove? x.tenant).isNone && info.rule != .session then some Code.noGlove
  else if st.val = 0 then (if info.rule = .session then none else some Code.wrongStream)
  else match s.stream? st.val with
    | none => some Code.streamUnknown
    | some y =>
      if y.owner != 1 || y.tenant != x.tenant then some Code.streamUnknown
      else if info.rule = .zero || info.rule = .session then some Code.wrongStream
      else none

/-- The code with which a command's channel, length, stream and reserved fields refuse it, or none. -/
def State.routeCode (s : State) (info : CmdInfo) (src : Src) (req : Req) : Option Nat :=
  if secureSrc src && !info.secure then some Code.wrongChannel
  else if (match src with | .pigeon _ _ => !info.hole | _ => false) then some Code.channelUnsuited
  else
    let sc := match src with
      | .session n => match s.session? n.val with
        | some x => s.sessStreamCode x info req.stream
        | none => some Code.streamUnknown
      | _ => s.boxStreamCode info.rule req.stream
    match sc with
    | some c => some c
    | none =>
      if info.data && s.cp.tripped then some Code.thermalTripped
      else if req.length.toNat < info.lenMin || info.lenMax < req.length.toNat then some Code.badLength
      else if !rsvOk info.rsv req.payload then some Code.reservedNonzero
      else none

/-- The words of a request as its channel carries them. -/
def reqWords (opcode : Nat) (q : Req) : List Word :=
  header0 opcode q.mseq.toNat q.stream.val q.kind.val q.length.toNat :: q.word1 :: q.payload

/-- The side of a control die takes messages (R419): one that is being taken over from does not (R431). -/
def State.listens (s : State) (c : Ct) : Bool :=
  decide (s.side c ≤ 1) && !(s.cp.takingOver.isSome && c == s.cp.active)

/-- The side of a source takes messages; a session's requests reach the active command processor. -/
def State.takes (s : State) : Src → Bool
  | .session n => s.cpRuns && (s.session? n.val).isSome
  | .pigeon c _ => s.listens c
  | .tray c _ => s.listens c

/-- The request leaves its channel: a posted pigeonhole message, which stands in as many registers as it is long (R413), becomes
TAKEN (R414); the first message of a tray's or a session's inbox is removed (R425). A request whose channel holds none arrives and is taken in this step. None: another
message stands before it, or the pigeonhole holds another message. -/
def State.takeFrom (s : State) (src : Src) (ws : List Word) : Option State :=
  match src with
  | .pigeon c n =>
    let p := (s.ct c).pigeons.getD n.val Pigeon.reset
    let regs := (halves ws).take 16
    if p.status = 1 && p.data.take regs.length != regs then none
    else if p.status.val ≤ 1 then
      some (s.modCt c fun x => { x with pigeons := updAt n.val (fun p =>
        { p with data := regs ++ p.data.drop regs.length, status := 2, go := true }) x.pigeons })
    else none
  | .tray c n =>
    match ((s.ct c).trays.getD n.val Tray.reset).inbox with
    | [] => some s
    | m :: _ =>
      if m = ws then
        some (s.modCt c fun x => { x with trays := updAt n.val (fun t => { t with inbox := t.inbox.drop 1 }) x.trays })
      else none
  | .session n =>
    match s.session? n.val with
    | none => none
    | some x => match x.inbox with
      | [] => some s
      | m :: _ => if m = ws then some (s.modSession n.val fun y => { y with inbox := y.inbox.drop 1 }) else none

/-- A resend's answer (R432), or none where the request is no resend. -/
def State.resend (s : State) (r : Reply) : Option State :=
  match ((s.chan (chanKey r.src)).filter fun j => j.mseq == r.mseq).getLast? with
  | none => none
  | some j =>
    if j.byCt != s.cp.active && !j.resent then
      if j.opcode != r.opcode || j.stream != r.stream then some (s.refuseRaw r Code.sequenceInUse)
      else
        let s := s.setChan (chanKey r.src)
          (((s.chan (chanKey r.src)).reverse |> updFirst (fun x => x.mseq == r.mseq) fun x => { x with resent := true }).reverse)
        some (match j.phase with
          | 2 => s.emitAll r.src (j.completion.map replayed)
          | 1 => s.emitAll r.src [replayed j.accepted]
          | _ => s)
    else if j.phase != 2 then some (s.refuseRaw r Code.sequenceInUse)
    else none

/-- A cabinet reset is in progress (R395, R441). -/
def State.resetting (s : State) (c : Cab) : Bool := (s.cab c).state == 5

/-- A command's body on the request that was taken, once every check of the command tables passed. A command that names a
cabinet in RESETTING is held (R441); its row, issued again after the reset, executes it. -/
def State.runBody (s : State) (info : CmdInfo) (r : Reply) (ws : List Word) (body : Reply → List Word → State → State) :
    State :=
  match info.cabWord with
  | none => body r ws s
  | some i =>
    if s.resetting (Fin.ofNat 16 (bits (wordAt ws i) 63 60)) then
      s.modCp fun c => { c with heldCmds := if c.heldCmds.contains r then c.heldCmds else c.heldCmds ++ [r] }
    else body r ws (s.modCp fun c => { c with heldCmds := c.heldCmds.filter fun x => x != r })

/-- The active command processor's side of a request that has left its channel (R421 to R432). -/
def State.runActive (s : State) (info : CmdInfo) (src : Src) (req : Req) (r : Reply)
    (body : Reply → List Word → State → State) : State :=
  match headerCode src req with
  | some c => if (s.openReq? (chanKey src) r.mseq).isSome then s.refuseRaw r c else (s.jTake r).complete r c []
  | none =>
    match s.resend r with
    | some s' => s'
    | none =>
      let s := s.jTake r
      match s.routeCode info src req with
      | some c => s.complete r c []
      | none => s.runBody info r req.payload body

/-- The standby's side (R431): QUERY_CAPS, RESYNC and TAKE_OVER are answered, every other request ends with NOT_ACTIVE. -/
def State.runStandby (s : State) (info : CmdInfo) (src : Src) (req : Req) (r : Reply)
    (body : Reply → List Word → State → State) : State :=
  match headerCode src req with
  | some c => s.refuseRaw r c
  | none =>
    if (s.openReq? (chanKey src) r.mseq).isSome then s.refuseRaw r Code.sequenceInUse
    else if info.opcode = 1 || info.opcode = 2 || info.opcode = 4 then
      match s.routeCode info src req with
      | some c => s.refuseRaw r c
      | none => body r req.payload s
    else s.refuseRaw r Code.notActive

/-- A request of an Ilnil command: taken where its side takes messages (R419), refused by the first check it fails, else
executed by `body`. -/
def State.ilnil (s : State) (info : CmdInfo) (src : Src) (req : Req) (body : Reply → List Word → State → State) : State :=
  let r : Reply := { src := src, mseq := req.mseq, stream := req.stream, opcode := BitVec.ofNat 16 info.opcode }
  if !s.takes src then s
  else if s.cp.heldCmds.contains r then s.runBody info r req.payload body
  else match s.takeFrom src (reqWords info.opcode req) with
    | none => s
    | some s' =>
      if s'.side (s'.ctOf src) = 1 then s'.runStandby info src req r body else s'.runActive info src req r body

/-- A control-memory buffer (R428): its offset in the active die's memory, when it starts on a 64-byte boundary and lies
wholly within that memory. -/
def State.buffer? (s : State) (src : Src) (addr len : Nat) : Option Nat :=
  let c := s.ctOf src
  let own := decide (addr < 0x20_0000_0000)
  let peer := decide (0x40_0000_0000 ≤ addr) && decide (addr < 0x60_0000_0000)
  let die := if own then some c else if peer then some (otherCt c) else none
  let off := if own then addr else addr - 0x40_0000_0000
  if die = some s.cp.active && off % 64 == 0 && decide (off + len ≤ 0x20_0000_0000) then some off else none

/-- Bytes written into the active die's control memory. -/
def State.writeCtl (s : State) (off : Nat) (bs : List Byte) : State :=
  s.modCt s.cp.active fun x => { x with mem := x.mem.write off bs }

/-! ## The error log (R446 to R448) -/

/-- A control die that writes its log (R446). -/
def State.ctServes (s : State) (c : Ct) : Bool := (s.ct c).reached8 && (s.ct c).side.val ≤ 2

/-- The entry of a report, ENTRY_SEQ zero (R446). -/
def reportEntry (r : Report) (now policy action : Nat) : LogEntry :=
  let w0 := put r.cls 56 + put r.severity.val 54 + put r.block.val 50 + put r.unit.val 44 + put r.die.val 40 +
    (match r.cab with | some c => put c.val 36 + put 1 35 | none => 0)
  [word w0, word now, r.d2, r.d3, 0, word (put policy 56 + put action 48), 0, 0]

/-- A time stamp on the scale of module time after its step (R477, R478): intervals are counted in local clock cycles. -/
def State.stamp (s : State) (t : Nat) : Nat := if t < s.power.stepTo then t + s.power.stepBy else t

/-- An entry into which a CORRECTED report folds (R447): the same CLASS, BLOCK, UNIT, DIE and DETAIL, less than 1 s old. -/
def foldsInto (e x : LogEntry) (stamp : Nat → Nat) (now : Nat) : Bool :=
  bits (wordAt x 0) 63 56 == bits (wordAt e 0) 63 56 && bits (wordAt x 0) 53 40 == bits (wordAt e 0) 53 40 &&
    wordAt x 2 == wordAt e 2 && wordAt x 3 == wordAt e 3 && decide (now < stamp (wordAt x 1).toNat + 1000000000)

/-- REPEAT one higher, saturating (R446). -/
def bumpRepeat (x : LogEntry) : LogEntry :=
  updAt 4 (fun w => word (put (satAdd (2 ^ 32 - 1) (bits w 63 32) 1) 32)) x

/-- The newest entry into which `e` folds, with its repeat bumped. -/
def foldLog (e : LogEntry) (stamp : Nat → Nat) (now : Nat) (l : List LogEntry) : Option (List LogEntry) :=
  if l.any fun x => foldsInto e x stamp now then some ((updFirst (fun x => foldsInto e x stamp now) bumpRepeat l.reverse).reverse)
  else none

/-- One control die's log after a report, and whether a new entry was written. -/
def CtDie.logOne (x : CtDie) (e : LogEntry) (stamp : Nat → Nat) (now : Nat) (corrected : Bool) : CtDie × Bool :=
  match (if corrected then foldLog e stamp now x.log else none) with
  | some l => ({ x with log := l }, false)
  | none =>
    let e := updAt 0 (fun w => w + word x.logSeq.toNat) e
    let unread := decide (x.log.length = 4096) && decide ((x.logSeq - 4096 - x.logRead).toNat < 2 ^ 31)
    ({ x with log := (x.log ++ [e]).drop (x.log.length + 1 - 4096), logSeq := x.logSeq + 1,
              logWritten := satAdd (2 ^ 32 - 1) x.logWritten 1,
              logOverwritten := if unread then satAdd (2 ^ 32 - 1) x.logOverwritten 1 else x.logOverwritten },
     true)

/-- The FAULT_NOTICE of one owner (R448). -/
def State.noticeOne (s : State) (e : LogEntry) (t : Touch) : State :=
  let pay := e.take 4 ++ [word (put t.jobSeq.toNat 32 + put t.stream.val 20 + t.opIndex.toNat), word (put t.rowTag.toNat 48)]
  match t.request with
  | some q => match s.request? q with
    | some x => s.postSession x.session.val Event.faultNotice t.stream.val pay
    | none => s
  | none => match t.run with
    | some i => match s.run? i with
      | some x => if x.remakeOf.isSome then s.postTenant x.tenant Event.faultNotice 0 pay
                  else s.postStream Event.faultNotice x.stream pay
      | none => s
    | none => s.postStream Event.faultNotice t.stream pay

/-- Every route of a report but the policies (R446 to R448): both logs, the FAULT event or the report's own event, the
FAULT_NOTICE of each owner touched, the management controller's feed. -/
def State.logReport (s : State) (r : Report) (policy action : Nat) : State :=
  let e := reportEntry r s.now policy action
  let step := fun (acc : State × Bool) (c : Ct) =>
    if acc.1.ctServes c then
      let (x, w) := (acc.1.ct c).logOne e s.stamp s.now (r.severity == 0)
      (acc.1.modCt c fun _ => x, acc.2 || w)
    else acc
  let (s, written) := [(0 : Ct), 1].foldl step (s, false)
  let seq := ((s.ct s.cp.active).logSeq - 1).toNat
  let e6 := (updAt 0 (fun w => w + word seq) e).take 6
  let s := if written then s.modPower fun p =>
      { p with mcLog := p.mcLog ++ [[r.cls, r.severity.val, r.block.val, r.unit.val, r.die.val, s.now]] } else s
  let s := if r.cls = Cls.policyAction then s.postEvent Event.policyAction 0 e6
    else if r.cls = Cls.thermalTrip then s.postEvent Event.thermalTripped 0 e6
    else if r.severity = 0 then s else s.postEvent Event.fault 0 e6
  r.touched.dedup.foldl (fun s t => s.noticeOne e6 t) s

end Sys2Proof.Machine
end

