-- ==== Sys2Proof/Machine/Shake.lean ====
section
/-!
DEFINITION. SHAKE256 (FIPS 202), which R368, R376, R383, R393 and R399 name: the permutation Keccak-f[1600] over 25 lanes of 64
bits, rate 136 bytes, domain byte 0x1F.
-/

namespace Sys2Proof.Machine

/-- Lane (x, y) of the state, x + 5y in the list. -/
def lane (a : List Word) (i : Nat) : Word := a.getD i 0

/-- Rotation offsets of step rho, by x + 5y. -/
def rhoOffsets : List Nat :=
  [0, 1, 62, 28, 27, 36, 44, 6, 55, 20, 3, 10, 43, 25, 39, 41, 45, 15, 21, 8, 18, 2, 61, 56, 14]

/-- Round constants of step iota. -/
def iotaConstants : List Nat :=
  [0x0000000000000001, 0x0000000000008082, 0x800000000000808a, 0x8000000080008000, 0x000000000000808b, 0x0000000080000001,
   0x8000000080008081, 0x8000000000008009, 0x000000000000008a, 0x0000000000000088, 0x0000000080008009, 0x000000008000000a,
   0x000000008000808b, 0x800000000000008b, 0x8000000000008089, 0x8000000000008003, 0x8000000000008002, 0x8000000000000080,
   0x000000000000800a, 0x800000008000000a, 0x8000000080008081, 0x8000000000008080, 0x0000000080000001, 0x8000000080008008]

/-- Step theta. -/
def keccakTheta (a : List Word) : List Word :=
  let c := (List.range 5).map fun x => lane a x ^^^ lane a (x + 5) ^^^ lane a (x + 10) ^^^ lane a (x + 15) ^^^ lane a (x + 20)
  let d := (List.range 5).map fun x => lane c ((x + 4) % 5) ^^^ (lane c ((x + 1) % 5)).rotateLeft 1
  (List.range 25).map fun i => lane a i ^^^ lane d (i % 5)

/-- Steps rho and pi: lane (x, y) of the result is lane (x + 3y, x) of the argument, rotated. -/
def keccakRhoPi (a : List Word) : List Word :=
  (List.range 25).map fun i =>
    let j := (i % 5 + 3 * (i / 5)) % 5 + 5 * (i % 5)
    (lane a j).rotateLeft (rhoOffsets.getD j 0)

/-- Step chi. -/
def keccakChi (a : List Word) : List Word :=
  (List.range 25).map fun i =>
    let row := 5 * (i / 5)
    lane a i ^^^ (~~~(lane a (row + (i + 1) % 5)) &&& lane a (row + (i + 2) % 5))

/-- Keccak-f[1600]. -/
def keccakF (a : List Word) : List Word :=
  iotaConstants.foldl (fun a rc => updAt 0 (fun w => w ^^^ word rc) (keccakChi (keccakRhoPi (keccakTheta a)))) a

/-- Blocks of 136 bytes taken into the state. -/
def absorb : Nat → List Word → List Byte → List Word
  | 0, a, _ => a
  | n + 1, a, bs =>
    let blk := bytesToWords 17 (bs.take 136)
    absorb n (keccakF ((List.range 25).map fun i => lane a i ^^^ wordAt blk i)) (bs.drop 136)

/-- Blocks of 136 bytes taken out of the state. -/
def squeeze : Nat → List Word → List Byte
  | 0, _ => []
  | n + 1, a => wordsToBytes (a.take 17) ++ squeeze n (keccakF a)

/-- The message padded to whole blocks: domain and padding bits. -/
def shakePad (bs : List Byte) : List Byte :=
  let n := 136 - bs.length % 136
  bs ++ if n = 1 then [0x9f] else [0x1f] ++ List.replicate (n - 2) 0 ++ [0x80]

/-- SHAKE256 of a message, `n` bytes. -/
def shake256 (bs : List Byte) (n : Nat) : List Byte :=
  let p := shakePad bs
  (squeeze (cdiv n 136) (absorb (p.length / 136) (List.replicate 25 0) p)).take n

/-- The bytes of an ASCII string without terminator (R370). -/
def ascii (s : String) : List Byte := s.toList.map fun c => BitVec.ofNat 8 c.toNat

/-- A digest of 64 bytes, byte 0 in the low bits. -/
def digest512 (bs : List Byte) : BitVec 512 := BitVec.ofNat 512 (ofLe (shake256 bs 64))

end Sys2Proof.Machine
end

