-- ==== Sys2Proof/Machine/Identity.lean ====
section
/-!
DEFINITION. The identities of the RoTP (R367, R370): what follows from the unique device secret in the fuses and the measured stages.
-/

namespace Sys2Proof.Machine

/-- The bytes of a 512-bit value. -/
def bytes512 (x : BitVec 512) : List Byte := leBytes 64 x.toNat
def bytes256 (x : BitVec 256) : List Byte := leBytes 32 x.toNat
def zeroBytes (n : Nat) : List Byte := List.replicate n 0

/-- cdi0, which the mask ROM derives from the UDS (R370). -/
def cdi0 : List Byte := shake256 (ascii "tk9-cdi0" ++ bytes512 Config.uds) 64

/-- The public key of the device identity (R370), and DEVICE_ID, its digest (R393). -/
def devidPk : List Byte := Config.mlDsaPublic (shake256 (ascii "tk9-devid" ++ cdi0) 32)
def deviceId : BitVec 512 := digest512 devidPk

/-- k_link of the link between the two control dies (R370, R378): both hold the same UDS, so both derive the same. -/
def kLink : List Byte := shake256 (ascii "tk9-link" ++ cdi0) 32

/-- The chain of R370 over the measurements of stages 1 to 7. -/
def cdiOf (meas : List (BitVec 512)) : List Byte :=
  meas.foldl (fun cdi m => shake256 (ascii "tk9-cdi" ++ cdi ++ bytes512 m) 64) cdi0

/-- The alias public key of a control die (R370), and ALIAS_ID, its digest (R393). The control die's number enters as one byte. -/
def aliasPk (meas : List (BitVec 512)) (ct : Nat) : List Byte :=
  Config.mlDsaPublic (shake256 (ascii "tk9-alias" ++ cdiOf meas ++ leBytes 1 ct) 32)
def State.aliasOf (s : State) (ct : Ct) : BitVec 512 :=
  digest512 (aliasPk (((s.ct ct).running.drop 1).take 7 |>.map StageMeas.meas) ct.val)

end Sys2Proof.Machine
end

