-- ==== Sys2Proof/Machine/Num.lean ====
section
/-!
DEFINITION. Exact values and roundings (R120 to R131, R139 to R144, R159): scalar formats, AF42, nearest-even and seeded
stochastic rounding, narrowing, correctly rounded quotient, square root and exponential.
-/

namespace Sys2Proof.Machine

/-- A value as arithmetic sees it: NaN, an infinity, or ± m × 2^e exactly (a zero keeps its sign, R122). -/
inductive FV where
  | nan
  | inf (neg : Bool)
  | fin (neg : Bool) (m : Nat) (e : Int)
  deriving DecidableEq, Repr

/-- A floating-point format (R125, R130): exponent bits, fraction bits, bias, and how its top exponent is used:
0 infinities and NaNs, 1 E4M3 (one NaN code), 2 finite values only. -/
structure Fmt where
  eb : Nat
  fb : Nat
  bias : Int
  special : Nat
  deriving DecidableEq, Repr

def fFP32 : Fmt := ⟨8, 23, 127, 0⟩
def fFP16 : Fmt := ⟨5, 10, 15, 0⟩
def fBF16 : Fmt := ⟨8, 7, 127, 0⟩
def fE4M3 : Fmt := ⟨4, 3, 7, 1⟩
def fE5M2 : Fmt := ⟨5, 2, 15, 0⟩
def fE3M2 : Fmt := ⟨3, 2, 3, 2⟩
def fE2M3 : Fmt := ⟨2, 3, 1, 2⟩
def fE2M1 : Fmt := ⟨2, 1, 1, 2⟩
def fAF42 : Fmt := ⟨11, 30, 1023, 0⟩
/-- The chunk register's format (R163): 23 fraction bits. -/
def fC24 : Fmt := ⟨11, 23, 1023, 0⟩

/-- The format of a format code (R110) whose elements are floating point; MX codes give their element type (R130). -/
def fmtOf (code : Nat) : Fmt :=
  match code with
  | 0 => fFP32 | 1 => fFP16 | 2 => fBF16 | 3 => fE4M3 | 4 => fE5M2 | 5 => fE4M3 | 6 => fE5M2
  | 7 => fE3M2 | 8 => fE2M3 | 9 => fE2M1 | _ => fAF42

/-- MX formats: codes 5 to 10 (R110). -/
def isMx (code : Nat) : Bool := 5 ≤ code && code ≤ 10

/-- Bits of one element in each format code. -/
def elemBits (code : Nat) : Nat :=
  match code with
  | 0 => 32 | 1 => 16 | 2 => 16 | 7 => 6 | 8 => 6 | 9 => 4 | 12 => 64 | _ => 8

/-- The sign of a value; NaN counts as positive. -/
def FV.neg : FV → Bool
  | .nan => false
  | .inf s => s
  | .fin s _ _ => s

def FV.isNan : FV → Bool
  | .nan => true
  | _ => false

def FV.isInf : FV → Bool
  | .inf _ => true
  | _ => false

def FV.isFin : FV → Bool
  | .fin _ _ _ => true
  | _ => false

def FV.isZero : FV → Bool
  | .fin _ m _ => m == 0
  | _ => false

/-- The value with sign `s`. -/
def FV.withSign (s : Bool) : FV → FV
  | .nan => .nan
  | .inf _ => .inf s
  | .fin _ m e => .fin s m e

/-- The negated value. -/
def FV.negate (x : FV) : FV := x.withSign (!x.neg)

def FV.zero : FV := .fin false 0 0
def FV.one : FV := .fin false 1 0

/-- The value that a code of format F denotes (R125, R126, R130). -/
def Fmt.dec (F : Fmt) (code : Nat) : FV :=
  let s := code.testBit (F.eb + F.fb)
  let ex := (code >>> F.fb) % 2 ^ F.eb
  let fr := code % 2 ^ F.fb
  if ex = 0 then .fin s fr (1 - F.bias - F.fb)
  else if F.special = 0 && ex = 2 ^ F.eb - 1 then (if fr = 0 then .inf s else .nan)
  else if F.special = 1 && ex = 2 ^ F.eb - 1 && fr = 2 ^ F.fb - 1 then .nan
  else .fin s (2 ^ F.fb + fr) (ex - F.bias - F.fb)

/-- m × 2^k for m a natural number and k ≥ 0, as a natural number; 0 shift below. -/
def shl (m : Nat) (k : Int) : Nat := m <<< k.toNat

/-- Floor of log₂ of num ÷ den × 2^e, for num and den positive. -/
def floorLog2 (num den : Nat) (e : Int) : Int :=
  let l : Int := (Nat.log2 num : Int) - (Nat.log2 den : Int)
  let ge := if l ≥ 0 then den <<< l.toNat ≤ num else den ≤ num <<< (-l).toNat
  (if ge then l else l - 1) + e

/-- How a discarded part rounds: to nearest, ties to even (R143), or up when the random bits lie below the top sixteen
discarded bits (R144). -/
inductive RMode where
  | nearest
  | stochastic (r : Nat)
  deriving DecidableEq, Repr

/-- The result of rounding: m × 2^u, and whether it differs from the exact value. -/
structure Rounded where
  m : Nat
  u : Int
  inexact : Bool
  deriving DecidableEq, Repr

/-- num ÷ den × 2^k rounded to an integer, and whether that is inexact. -/
def roundQuot (mode : RMode) (num den : Nat) (k : Int) : Nat × Bool :=
  let n := if k ≥ 0 then num <<< k.toNat else num
  let d := if k ≥ 0 then den else den <<< (-k).toNat
  let q := n / d
  let r := n % d
  let up := match mode with
    | .nearest => decide (2 * r > d) || (2 * r == d && q % 2 == 1)
    | .stochastic rb => decide (rb < (r <<< 16) / d)
  (if up then q + 1 else q, r != 0)

/-- num ÷ den × 2^e rounded to `p` significant bits with the least exponent `emin` of a normal value, exponent unbounded
above (R139, R143). -/
def roundTo (mode : RMode) (p : Nat) (emin : Int) (num den : Nat) (e : Int) : Rounded :=
  if num = 0 then ⟨0, emin - (p - 1 : Nat), false⟩
  else
    let E := floorLog2 num den e
    let u := max E emin - (p - 1 : Nat)
    let (q, ix) := roundQuot mode num den (e - u)
    if q = 2 ^ p then ⟨2 ^ (p - 1), u + 1, ix⟩ else ⟨q, u, ix⟩

/-- The largest finite value of F as m × 2^e (R125, R130). -/
def Fmt.maxFin (F : Fmt) : Nat × Int :=
  if F.special = 0 then (2 ^ (F.fb + 1) - 1, (2 ^ F.eb - 2 : Nat) - F.bias - F.fb)
  else if F.special = 1 then (2 ^ (F.fb + 1) - 2, (2 ^ F.eb - 1 : Nat) - F.bias - F.fb)
  else (2 ^ (F.fb + 1) - 1, (2 ^ F.eb - 1 : Nat) - F.bias - F.fb)

/-- m₁ × 2^e₁ ≤ m₂ × 2^e₂. -/
def leMag (m1 : Nat) (e1 : Int) (m2 : Nat) (e2 : Int) : Bool :=
  if e1 ≤ e2 then decide (m1 ≤ m2 <<< (e2 - e1).toNat) else decide (m1 <<< (e1 - e2).toNat ≤ m2)

/-- The code of ± m × 2^u in F, m below 2^(fb+1) and u at least the subnormal spacing, within F's range. -/
def Fmt.enc (F : Fmt) (s : Bool) (m : Nat) (u : Int) : Nat :=
  b2n s <<< (F.eb + F.fb) +
    (if m < 2 ^ F.fb then m else ((u + F.bias + F.fb).toNat <<< F.fb) + (m - 2 ^ F.fb))

def Fmt.signBit (F : Fmt) (s : Bool) : Nat := b2n s <<< (F.eb + F.fb)

/-- The code of the largest finite value with sign `s`. -/
def Fmt.maxCode (F : Fmt) (s : Bool) : Nat := F.enc s F.maxFin.1 F.maxFin.2

/-- The code of an infinity (formats of kind 0). -/
def Fmt.infCode (F : Fmt) (s : Bool) : Nat := F.signBit s + ((2 ^ F.eb - 1) <<< F.fb)

/-- The canonical NaN (R125): the quiet bit alone in IEEE-like formats, all ones in E4M3. -/
def Fmt.nanCode (F : Fmt) : Nat :=
  if F.special = 1 then 2 ^ (F.eb + F.fb) - 1
  else ((2 ^ F.eb - 1) <<< F.fb) + 2 ^ (F.fb - 1)

/-- Rounding of num ÷ den × 2^e into F with an unbounded exponent, then whether it overflows (R139). -/
def Fmt.round (F : Fmt) (mode : RMode) (num den : Nat) (e : Int) : Rounded × Bool :=
  let r := roundTo mode (F.fb + 1) (1 - F.bias) num den e
  (r, !(leMag r.m r.u F.maxFin.1 F.maxFin.2))

/-- An IEEE rounding with an infinity on overflow (R205, R308): the code. -/
def Fmt.roundInf (F : Fmt) (s : Bool) (num den : Nat) (e : Int) : Nat :=
  let (r, o) := F.round .nearest num den e
  if o then F.infCode s else F.enc s r.m r.u

/-- A value rounded into F with infinities on overflow, NaN canonical. -/
def Fmt.ofFV (F : Fmt) : FV → Nat
  | .nan => F.nanCode
  | .inf s => F.infCode s
  | .fin s m e => F.roundInf s m 1 e

/-- round_af42 (R159): the AF42 code, and whether it saturated. -/
def af42Of (s : Bool) (num den : Nat) (e : Int) : Nat × Bool :=
  let (r, o) := fAF42.round .nearest num den e
  if o then (fAF42.maxCode s, true) else (fAF42.enc s r.m r.u, false)

/-- round_af42 of an exact value (R159). -/
def roundAF (x : FV) : Nat × Bool :=
  match x with
  | .nan => (fAF42.nanCode, false)
  | .inf s => (fAF42.infCode s, false)
  | .fin s m e => af42Of s m 1 e

/-- round_c24 (R163). -/
def roundC24 (x : FV) : Nat × Bool :=
  match x with
  | .nan => (fC24.nanCode, false)
  | .inf s => (fC24.infCode s, false)
  | .fin s m e =>
    let (r, o) := fC24.round .nearest m 1 e
    if o then (fC24.maxCode s, true) else (fC24.enc s r.m r.u, false)

/-- The value of an AF42 code. -/
def af (c : Nat) : FV := fAF42.dec c

/-- AF42 code of a value that AF42 holds exactly (R120). -/
def afExact (x : FV) : Nat := (roundAF x).1

/-- The exact product (R154, R155). -/
def FV.mul : FV → FV → FV
  | .nan, _ => .nan
  | _, .nan => .nan
  | .inf s, .inf t => .inf (s != t)
  | .inf s, .fin t m _ => if m = 0 then .nan else .inf (s != t)
  | .fin s m _, .inf t => if m = 0 then .nan else .inf (s != t)
  | .fin s m e, .fin t n f => .fin (s != t) (m * n) (e + f)

/-- An invalid product, ∞ × 0 (R155). -/
def FV.mulInvalid : FV → FV → Bool
  | .inf _, .fin _ m _ => m == 0
  | .fin _ m _, .inf _ => m == 0
  | _, _ => false

/-- The exact sum; +0 for an exact zero sum unless both are −0 (R159). -/
def FV.add : FV → FV → FV
  | .nan, _ => .nan
  | _, .nan => .nan
  | .inf s, .inf t => if s = t then .inf s else .nan
  | .inf s, .fin _ _ _ => .inf s
  | .fin _ _ _, .inf t => .inf t
  | .fin s m e, .fin t n f =>
    if m = 0 && n = 0 then .fin (s && t) 0 0
    else
      let g := min e f
      let a : Int := (if s then -1 else 1) * (m <<< (e - g).toNat : Nat)
      let b : Int := (if t then -1 else 1) * (n <<< (f - g).toNat : Nat)
      let c := a + b
      if c = 0 then .fin false 0 0 else .fin (decide (c < 0)) c.natAbs g

/-- Infinities of opposite sign (R157, R169). -/
def FV.addInvalid : FV → FV → Bool
  | .inf s, .inf t => s != t
  | _, _ => false

def FV.sub (x y : FV) : FV := x.add y.negate

/-- Magnitude comparison a ≤ b of two non-NaN values. -/
def FV.leAbs : FV → FV → Bool
  | .fin _ m e, .fin _ n f => leMag m e n f
  | _, .inf _ => true
  | _, _ => false

/-- Order of two non-NaN values with −0 below +0 (R185, R204): strictly below. -/
def FV.ltTotal (a b : FV) : Bool :=
  match a.neg, b.neg with
  | true, false => true
  | false, true => false
  | false, false => a.leAbs b && !(b.leAbs a)
  | true, true => b.leAbs a && !(a.leAbs b)

/-- Numeric equality: zeros of either sign are equal, NaN equals nothing. -/
def FV.eqv (a b : FV) : Bool :=
  match a, b with
  | .nan, _ => false
  | _, .nan => false
  | _, _ => (a.isZero && b.isZero) || (a.neg == b.neg && a.leAbs b && b.leAbs a)

/-- Numeric a < b. -/
def FV.lt (a b : FV) : Bool :=
  match a, b with
  | .nan, _ => false
  | _, .nan => false
  | _, _ => !(a.isZero && b.isZero) && a.ltTotal b

/-- The larger of two values, −0 below +0; NaN when either is NaN (R185, R204). -/
def FV.max (a b : FV) : FV :=
  if a.isNan || b.isNan then .nan else if a.ltTotal b then b else a

/-- The smaller of two values, −0 below +0; NaN when either is NaN. -/
def FV.min (a b : FV) : FV :=
  if a.isNan || b.isNan then .nan else if b.ltTotal a then b else a

/-- sr_bits of R144: sixteen random bits of a seed and an element index, all arithmetic modulo 2³². -/
def srBits (seed i : Nat) : Nat :=
  let M := 2 ^ 32
  let h := (seed % M) ^^^ (i * 0x9e3779b1 % M)
  let h := h ^^^ (h >>> 16)
  let h := h * 0x85ebca6b % M
  let h := h ^^^ (h >>> 13)
  let h := h * 0xc2b2ae35 % M
  let h := h ^^^ (h >>> 16)
  h >>> 16

/-- The rounding of an element under SR with a seed and an index, or to nearest. -/
def rmode (sr : Option Nat) (i : Nat) : RMode :=
  match sr with
  | none => .nearest
  | some seed => .stochastic (srBits seed (i % 2 ^ 32))

/-- An integer square root by halving the interval, `fuel` bits of result. -/
def isqrt : Nat → Nat → Nat → Nat
  | 0, _, acc => acc
  | n + 1, x, acc =>
    let t := acc + 2 ^ n
    if t * t ≤ x then isqrt n x t else isqrt n x acc

/-- √(m × 2^e) as (num, e') with a sticky lowest bit below 128 significant bits, for m > 0. -/
def sqrtSticky (m : Nat) (e : Int) : Nat × Int :=
  let odd := e % 2
  let m1 := if odd = 1 then 2 * m else m
  let e1 := if odd = 1 then e - 1 else e
  let k : Nat := 130
  let x := m1 <<< (2 * k)
  let r := isqrt (Nat.log2 x / 2 + 2) x 0
  (2 * r + (if r * r = x then 0 else 1), e1 / 2 - k - 1)

/-- Fixed-point Taylor sum of e^r, r in units of 2^-P, from term `t` at index `i`. -/
def expTaylor (P r : Nat) : Nat → Nat → Nat → Nat → Nat
  | 0, _, _, acc => acc
  | n + 1, i, t, acc =>
    let t' := ((t * r) >>> P) / i
    if t' = 0 then acc else expTaylor P r n (i + 1) t' (acc + t')

/-- `k` squarings in units of 2^-P. -/
def sqTimes (P : Nat) : Nat → Nat → Nat
  | 0, y => y
  | k + 1, y => sqTimes P k ((y * y) >>> P)

/-- e^(m × 2^e) for m × 2^e > 0 below 4096, in units of 2^-320, to better than 280 significant bits. -/
def expFix (m : Nat) (e : Int) : Nat :=
  let P : Nat := 320
  let k : Nat := 20
  let sh : Int := e + (P : Int) - (k : Int)
  let r := if sh ≥ 0 then m <<< sh.toNat else m >>> (-sh).toNat
  let one := 1 <<< P
  sqTimes P k (expTaylor P r 80 1 one one)

/-- e^x as num ÷ den for finite x, where it is neither far above nor far below every format's range; beyond, a value that
rounds as e^x does: 2^5000 above, 2^-5000 below, and 1 + sticky for a tiny x. -/
def expRat (s : Bool) (m : Nat) (e : Int) : Nat × Nat :=
  if m = 0 then (1, 1)
  else
    let E := floorLog2 m 1 e
    if E ≥ 12 then (if s then (1, 1 <<< 5000) else (1 <<< 5000, 1))
    else if E < -100 then (if s then ((1 <<< 100) - 1, 1 <<< 100) else ((1 <<< 100) + 1, 1 <<< 100))
    else if s then (1 <<< 320, expFix m e) else (expFix m e, 1 <<< 320)

/-- exp_af42 (R185): e^x correctly rounded to AF42, e^(−∞) = +0. -/
def expAF (x : FV) : Nat :=
  match x with
  | .nan => fAF42.nanCode
  | .inf true => 0
  | .inf false => fAF42.infCode false
  | .fin s m e =>
    let (n, d) := expRat s m e
    (af42Of false n d 0).1

/-- d(s, m) of R185 on AF42 codes. -/
def dCorr (s m : Nat) : Nat :=
  let a := af s
  let b := af m
  if a.isNan || b.isNan then fAF42.nanCode
  else if a = .inf true then 0
  else if a = .inf false && b = .inf false then afExact .one
  else expAF (af (roundAF (a.sub b)).1)

end Sys2Proof.Machine
end

