-- ==== Sys2Proof/Machine/Convert.lean ====
section
/-!
DEFINITION. Conversions (R120 to R153): element values of every format, packed rows (R132, R495), narrowing with its counts
(R133 to R140), seeded stochastic rounding (R144), scales taken from the tensor (R136), FB16 blocks (R145 to R149), weights
with a remainder plane (R151, R152).
-/

namespace Sys2Proof.Machine

/-! ## Reading elements -/

/-- The value of an E8M0 scale code (R131). -/
def scaleVal (s : Nat) : FV := if s = 0xff then .nan else .fin false 1 ((s : Int) - 127)

/-- An integer as an exact value. -/
def intVal (z : Int) : FV := .fin (decide (z < 0)) z.natAbs 0

/-- The value of an element code of a format code of R110, without its scale (R125 to R130). -/
def elemVal (fmt code : Nat) : FV :=
  if fmt = 10 then (match intVal (signed 8 code) with | .fin s m e => .fin s m (e - 6) | v => v)
  else if fmt = 11 then intVal (signed 8 code)
  else (fmtOf fmt).dec code

/-- An MX element times its block scale (R131). -/
def mxVal (fmt code scale : Nat) : FV :=
  if scale = 0xff then .nan else (elemVal fmt code).mul (scaleVal scale)

/-- The largest exponent of an MX element type (R130). -/
def emax (fmt : Nat) : Int :=
  match fmt with
  | 5 => 8 | 6 => 15 | 7 => 4 | 8 => 2 | 9 => 2 | _ => 0

/-- Bytes of `n` packed elements (R132). -/
def packedBytes (fmt n : Nat) : Nat := cdiv (n * elemBits fmt) 8

/-- A multiple of 64 (R132, R231). -/
def pad64 (n : Nat) : Nat := cdiv n 64 * 64

/-- Bytes of a row of `n` elements as it lies in a tensor: the packed codes padded to 64 bytes, and for an MX format one
scale byte per block, padded (R132, R495). -/
def rowBytes (fmt n : Nat) : Nat := pad64 (packedBytes fmt n) + (if isMx fmt then pad64 (cdiv n 32) else 0)

/-- Element code `i` of packed codes (R132). -/
def codeAt (fmt packed i : Nat) : Nat := (packed >>> (i * elemBits fmt)) % 2 ^ elemBits fmt

/-- Codes packed least significant first (R132). -/
def packCodes (fmt : Nat) : List Nat → Nat
  | [] => 0
  | c :: cs => c % 2 ^ elemBits fmt + packCodes fmt cs <<< elemBits fmt

/-- A row as it lies in a tensor (R132). -/
def rowOut (fmt : Nat) (codes scales : List Nat) : List Byte :=
  leBytes (pad64 (packedBytes fmt codes.length)) (packCodes fmt codes) ++
    (if isMx fmt then leBytes (pad64 (cdiv codes.length 32)) (scales.foldr (fun c a => c + a <<< 8) 0) else [])

/-! ## Rounding elements -/

/-- A finite value rounded to an integer, ties to even (R143), as magnitude. -/
def roundInt (mode : RMode) (m : Nat) (e : Int) : Nat := (roundQuot mode m 1 e).1

/-- Element `q` of an MX block rounded into its type: the code (R133, R143, R144), a value above the largest taken to it. -/
def roundElem (fmt : Nat) (mode : RMode) (s : Bool) (m : Nat) (e : Int) : Nat :=
  if fmt = 10 then
    let n := min 127 (roundInt mode m (e + 6))
    unsigned 8 (if s then -(n : Int) else n)
  else
    let F := fmtOf fmt
    let (r, o) := F.round mode m 1 e
    if o then F.maxCode s else F.enc s r.m r.u

/-- The largest element of an MX type with a sign (R133). -/
def elemMaxCode (fmt : Nat) (s : Bool) : Nat :=
  if fmt = 10 then unsigned 8 (if s then -127 else 127) else (fmtOf fmt).maxCode s

/-- An element code is a zero of either sign. -/
def codeIsZero (fmt code : Nat) : Bool := (elemVal fmt code).isZero

/-- Saturating counts of R153. -/
def Counts.addOverflow (k : Counts) (n : Nat) : Counts := { k with overflow := satAdd (2 ^ 32 - 1) k.overflow n }
def Counts.addCrush (k : Counts) (n : Nat) : Counts :=
  if n = 0 then k
  else { k with crush := satAdd (2 ^ 32 - 1) k.crush n, crushedBlocks := satAdd (2 ^ 32 - 1) k.crushedBlocks 1 }
def Counts.addNanBlock (k : Counts) : Counts := { k with nanBlocks := satAdd (2 ^ 32 - 1) k.nanBlocks 1 }
def Counts.addClamped (k : Counts) : Counts := { k with scaleClamped := satAdd (2 ^ 32 - 1) k.scaleClamped 1 }
def Counts.addNan (k : Counts) (n : Nat) : Counts := { k with nanOutputs := satAdd (2 ^ 32 - 1) k.nanOutputs n }

/-- Every field of two descriptors' counts added, saturating (R188). -/
def Counts.sum (a b : Counts) : Counts :=
  let t := satAdd (2 ^ 32 - 1)
  { overflow := t a.overflow b.overflow, crush := t a.crush b.crush, crushedBlocks := t a.crushedBlocks b.crushedBlocks,
    nanBlocks := t a.nanBlocks b.nanBlocks, scaleClamped := t a.scaleClamped b.scaleClamped,
    nanOutputs := t a.nanOutputs b.nanOutputs, satTiles := satAdd 0xffff a.satTiles b.satTiles,
    emptyRows := satAdd 0xffff a.emptyRows b.emptyRows, strictFlags := a.strictFlags ||| b.strictFlags,
    scaleCode := b.scaleCode, busy := t a.busy b.busy }

/-- ⌊log₂⌋ of a magnitude; an infinity counts as 1024 (R133). -/
def magLog2 : FV → Int
  | .fin _ m e => if m = 0 then 0 else floorLog2 m 1 e
  | _ => 1024

/-- The greater magnitude. -/
def maxMag (a b : FV) : FV := if a.leAbs b then b else a

/-- What one element of a block becomes: its code, overflows counted, crushes, whether it makes the block a NaN block. -/
structure MxElem where
  code : Nat
  ovf : Nat
  crush : Nat
  nanBlock : Bool
  deriving DecidableEq, Repr

/-- big of R133. -/
def mxBig (fmt : Nat) (inf : Bool) (s counted : Bool) : MxElem :=
  let n := b2n counted
  if !inf then ⟨elemMaxCode fmt s, n, 0, false⟩
  else if fmt = 6 then ⟨fE5M2.infCode s, n, 0, false⟩
  else ⟨0, n, 0, true⟩

/-- One element of R133 with block exponent `e`; `inf` is OVF. -/
def mxElem (fmt : Nat) (inf : Bool) (e : Int) (mode : RMode) (v : FV) : MxElem :=
  match v with
  | .nan => ⟨0, 0, 0, true⟩
  | .inf s => mxBig fmt inf s (!inf)
  | .fin s m x =>
    if m != 0 && decide (emax fmt + 1 ≤ floorLog2 m 1 (x - e)) then mxBig fmt inf s true
    else
      let c := roundElem fmt mode s m (x - e)
      ⟨c, 0, b2n (m != 0 && codeIsZero fmt c), false⟩

/-- mx_convert (R133): a block's scale and codes; `idx` gives the element index of R144. -/
def mxConvert (fmt : Nat) (inf : Bool) (sr : Option Nat) (idx : Nat → Nat) (v : List FV) (k : Counts) :
    Nat × List Nat × Counts :=
  let zeros := v.map fun _ => 0
  if v.any FV.isNan then (0xff, zeros, k.addNanBlock)
  else
    let m := v.foldl maxMag FV.zero
    if m.isZero then (0, zeros, k)
    else
      let e0 := magLog2 m - emax fmt
      let k := if e0 < -127 || e0 > 127 then k.addClamped else k
      let e := max (-127) (min 127 e0)
      let rs := v.zipIdx.map fun p => mxElem fmt inf e (rmode sr (idx p.2)) p.1
      let k := k.addOverflow (rs.map MxElem.ovf).sum
      if rs.any MxElem.nanBlock then (0xff, zeros, k.addNanBlock)
      else ((e + 127).toNat, rs.map MxElem.code, k.addCrush (rs.map MxElem.crush).sum)

/-- A row's values in blocks of 32 (R132). -/
def mxRow (fmt : Nat) (inf : Bool) (sr : Option Nat) (idx : Nat → Nat) : Nat → Nat → List FV → Counts →
    List Nat × List Nat × Counts
  | 0, _, _, k => ([], [], k)
  | _, _, [], k => ([], [], k)
  | n + 1, i, v, k =>
    let (s, c, k) := mxConvert fmt inf sr (fun j => idx (i + j)) (v.take 32) k
    let k := if s = 0xff then k.addNan (v.take 32).length else k
    let (cs, ss, k) := mxRow fmt inf sr idx n (i + 32) (v.drop 32) k
    (c ++ cs, s :: ss, k)

/-- INT8 of a value: ties to even, ±127 (R129, R140). -/
def narrowInt8 (inf : Bool) (v : FV) (k : Counts) : Nat × Counts :=
  match v with
  | .nan => (0, k.addNan 1)
  | .inf s => (unsigned 8 (if s then -127 else 127), if inf then k else k.addOverflow 1)
  | .fin s m e =>
    let n := roundInt .nearest m e
    (unsigned 8 (if s then -(min 127 n : Nat) else (min 127 n : Nat)), if n > 127 then k.addOverflow 1 else k)

/-- A scalar floating-point format: the code of R140 and the counts of R139. -/
def narrowFloat (F : Fmt) (inf : Bool) (mode : RMode) (v : FV) (k : Counts) : Nat × Counts :=
  match v with
  | .nan => (F.nanCode, k.addNan 1)
  | .inf s =>
    if !inf then (F.maxCode s, k.addOverflow 1)
    else if F.special = 1 then (F.nanCode, k.addNan 1) else (F.infCode s, k)
  | .fin s m e =>
    let (r, o) := F.round mode m 1 e
    if !o then (F.enc s r.m r.u, k)
    else
      let k := k.addOverflow 1
      if !inf then (F.maxCode s, k) else if F.special = 1 then (F.nanCode, k.addNan 1) else (F.infCode s, k)

/-- One scalar element of a format code (R140); AF42 is written as held. -/
def narrow1 (fmt : Nat) (inf : Bool) (mode : RMode) (v : FV) (k : Counts) : Nat × Counts :=
  if fmt = 11 then narrowInt8 inf v k
  else if fmt = 12 then ((roundAF v).1, if v.isNan then k.addNan 1 else k)
  else narrowFloat (fmtOf fmt) inf mode v k

/-- round_bf16 (R143): the code, and the overflow counted. -/
def roundBf16 (v : FV) (k : Counts) : Nat × Counts :=
  match v with
  | .nan => (fBF16.nanCode, k)
  | .inf s => (fBF16.infCode s, k)
  | .fin s m e =>
    let (r, o) := fBF16.round .nearest m 1 e
    if o then (fBF16.maxCode s, k.addOverflow 1) else (fBF16.enc s r.m r.u, k)

/-! ## Scales taken from the tensor (R136) -/

/-- The largest finite value of a SCALE_SRC 1 format: 448, 57,344 or 127, as m × 2^e. -/
def maxFinite (fmt : Nat) : Nat × Int := if fmt = 11 then (127, 0) else (fmtOf fmt).maxFin

/-- The smallest integer e such that m × 2^x ≤ max_finite × 2^e. -/
def scaleExp (fmt m : Nat) (x : Int) : Int :=
  let (f, fe) := maxFinite fmt
  let e0 : Int := x + (Nat.log2 m : Int) - (fe + (Nat.log2 f : Int))
  if leMag m x f (fe + e0) then e0 else e0 + 1

/-- tensor_scale (R136), and the clamp counted. -/
def tensorScale (fmt : Nat) (ys : List FV) (k : Counts) : Int × Counts :=
  let m := (ys.filter fun y => !y.isNan).foldl maxMag FV.zero
  match m with
  | .fin _ 0 _ => (0, k)
  | .fin _ m x =>
    let e := scaleExp fmt m x
    (max (-127) (min 127 e), if e < -127 || e > 127 then k.addClamped else k)
  | _ => (127, k.addClamped)

/-- A value divided by 2^e, exactly. -/
def divPow2 (v : FV) (e : Int) : FV :=
  match v with
  | .fin s m x => .fin s m (x - e)
  | v => v

/-! ## FB16 (R145 to R149) -/

def bfExp (c : Nat) : Nat := (c >>> 7) % 256
def bfFrac (c : Nat) : Nat := c % 128
def bfSign (c : Nat) : Nat := (c >>> 15) % 2

/-- The number of bits that a value needs. -/
def bitLen (x : Nat) : Nat := if x = 0 then 0 else Nat.log2 x + 1

/-- EMAX of a block (R145). -/
def fbEmax (v : List Nat) : Nat := v.foldl (fun a c => max a (bfExp c)) 0

/-- Records concatenated, least significant first: width and value of each. -/
def joinBits : List (Nat × Nat) → Nat
  | [] => 0
  | (w, x) :: r => x % 2 ^ w + joinBits r <<< w

/-- The magnitude code of BOUNDED mode (R147): |x| ÷ 2^(E−7), E = max(EMAX, 1) − 127. -/
def fbMag (em c : Nat) : Nat :=
  match fBF16.dec c with
  | .fin _ m e => roundInt .nearest m (e - ((max em 1 : Nat) - 127 - 7))
  | _ => 0

/-- The bits of a masked block (R145): header, masks, records. -/
def fbMasked (mode w em : Nat) (v : List Nat) (isZero : Nat → Bool) (rec_ : Nat → Nat × Nat) : Nat :=
  let zm := (v.zipIdx.map fun p => b2n (isZero p.1) <<< p.2).sum
  let sg := (v.zipIdx.map fun p => bfSign p.1 <<< p.2).sum
  put w 2 + put em 6 + put mode 14 + put zm 16 + put sg 48 + put (joinBits ((v.filter fun c => !isZero c).map rec_)) 80

/-- An FB16 block: its bits before padding, and the units it fills (R145 to R148). `bounded` is the request. -/
def fbEncode (bounded : Bool) (v : List Nat) : Nat × Nat :=
  let em := fbEmax v
  let raw := (joinBits (v.map fun c => (16, c)) <<< 16, 16 + 16 * v.length)
  let special := v.any fun c => bfExp c == 255
  let out :=
    if bounded then
      if special then raw
      else
        let z := (v.filter fun c => fbMag em c != 0).length
        (fbMasked 2 0 em v (fun c => fbMag em c == 0) (fun c => (8, fbMag em c)), 80 + 8 * z)
    else
      let isZ := fun c => c % 2 ^ 15 == 0
      let live := v.filter fun c => !isZ c
      let w := live.foldl (fun a c => max a (bitLen (em - bfExp c))) 0
      let size := 80 + live.length * (w + 7)
      if size < raw.2 then
        (fbMasked 1 w em v isZ (fun c => (w + 7, (em - bfExp c) + bfFrac c <<< w)), size)
      else raw
  (out.1, cdiv out.2 16)

/-- The bytes of an FB16 block. -/
def fbBytesOf (bounded : Bool) (v : List Nat) : List Byte :=
  let (b, u) := fbEncode bounded v
  leBytes (2 * u) b

/-- BOUNDED and LOSSLESS elements read in order: masks, then records from bit `pos`. -/
def fbElems (mode w em zm sg bits_ : Nat) : Nat → Nat → Nat → List Nat
  | 0, _, _ => []
  | n + 1, j, pos =>
    let s := (sg >>> j) % 2
    if (zm >>> j) % 2 = 1 then put s 15 :: fbElems mode w em zm sg bits_ n (j + 1) pos
    else if mode = 1 then
      let d := (bits_ >>> pos) % 2 ^ w
      let f := (bits_ >>> (pos + w)) % 128
      (put s 15 + put ((em + 256 - d) % 256) 7 + f) :: fbElems mode w em zm sg bits_ n (j + 1) (pos + w + 7)
    else
      let m := (bits_ >>> pos) % 256
      fBF16.roundInf (s == 1) m 1 ((max em 1 : Nat) - 127 - 7) :: fbElems mode w em zm sg bits_ n (j + 1) (pos + 8)

/-- A block of `n` elements read from its bits (R145 to R147): the BF16 codes and the bytes it takes; none for a block that
is a data error. -/
def fbDecode (n bits_ : Nat) : Option (List Nat × Nat) :=
  let w := (bits_ >>> 2) % 16
  let em := (bits_ >>> 6) % 256
  let mode := (bits_ >>> 14) % 4
  let zm := (bits_ >>> 16) % 2 ^ 32
  let sg := (bits_ >>> 48) % 2 ^ 32
  if bits_ % 4 != 0 || mode = 3 || w > 8 then none
  else if mode = 0 then some ((List.range n).map (fun i => (bits_ >>> (16 + 16 * i)) % 2 ^ 16), 2 * (n + 1))
  else
    let z := ((List.range n).filter fun j => (zm >>> j) % 2 == 0).length
    some (fbElems mode w em zm sg bits_ n 0 80, 2 * cdiv (80 + z * (if mode = 1 then w + 7 else 8)) 16)

/-! ## Weights with a remainder plane (R151, R152) -/

/-- ulp of a BF16 code as a power of two (R151). -/
def bfUlpExp (w : Nat) : Int := (max (bfExp w) 1 : Nat) - 134

/-- The value of a weight and its remainder (R151). -/
def joinWR (w r : Nat) : FV :=
  let z := signed 8 r
  (fBF16.dec w).add (.fin (decide (z < 0)) z.natAbs (bfUlpExp w - 8))

/-- A finite value rounded to an integer, ties to even. -/
def roundSigned : FV → Int
  | .fin s m e => let n := roundInt .nearest m e; if s then -(n : Int) else n
  | _ => 0

/-- (t − w) × 256 ÷ ulp(w), rounded. -/
def splitRem (t : FV) (w : Nat) : Int := roundSigned (divPow2 (t.sub (fBF16.dec w)) (bfUlpExp w - 8))

/-- The next BF16 value above a finite one. -/
def nextUp (w : Nat) : Nat := if bfSign w = 1 then (if w = 0x8000 then 1 else w - 1) else w + 1

/-- split (R152): BF16 weight, INT8 remainder code, counts. -/
def splitW (t : FV) (k : Counts) : Nat × Nat × Counts :=
  match t with
  | .nan => (0x7fc0, 0, k)
  | .inf s => (fBF16.infCode s, 0, k)
  | t =>
    let (w, k) := roundBf16 t k
    let q := splitRem t w
    let (w, q) := if q > 127 && w % 2 ^ 15 != 0x7f7f then (nextUp w, splitRem t (nextUp w)) else (w, q)
    (w, unsigned 8 (max (-128) (min 127 q)), k)

end Sys2Proof.Machine
end

