-- ==== Sys2Proof/Machine/Dot.lean ====
section
/-!
DEFINITION. What a matrix engine computes for one row and one column: products, groups and their sums (R154 to R157), the
three accumulation modes (R159 to R163), the side path (R94), the output stage's steps (R180), row statistics (R184, R185),
and the NaN event that each entry records first (R172, R175).
-/

namespace Sys2Proof.Machine

/-- An operand element: its code and its value, scales included (R154). -/
structure Elem where
  code : Nat
  v : FV
  deriving DecidableEq, Repr

/-- A NaN event of an entry (R172, R176): K group (0xF_FFFF outside the groups), cause, operand codes, the entry before. -/
structure Ev where
  group : Nat
  cause : Nat
  a : Nat
  b : Nat
  acc : Nat
  deriving DecidableEq, Repr

/-- K_GROUP of events outside the groups (R176). -/
def noGroup : Nat := 0xfffff

/-- An entry while it accumulates: sum, error of COMPENSATED, chunk register, whether a rounding saturated in the tile or in
its partner, the first NaN event. -/
structure Entry where
  s : Option Nat
  c : Nat
  ch : Option Nat
  sat : Bool
  satC : Bool
  ev : Option Ev
  deriving DecidableEq, Repr

/-- An empty entry (R160). -/
def Entry.empty : Entry := ⟨none, 0, none, false, false, none⟩

/-- The first event among the products of a group (R175): cause and codes. -/
def prodEvent : List (Elem × Elem) → Option (Nat × Nat × Nat)
  | [] => none
  | (a, b) :: r =>
    if a.v.isNan then some (1, a.code, b.code)
    else if b.v.isNan then some (2, a.code, b.code)
    else if a.v.mulInvalid b.v then some (3, a.code, b.code)
    else prodEvent r

/-- The event of a group (R175): its first product event, else both infinities, with the codes at the first infinite product. -/
def groupEvent (ps : List (Elem × Elem)) : Option (Nat × Nat × Nat) :=
  match prodEvent ps with
  | some e => some e
  | none =>
    let infs := ps.filter fun p => (p.1.v.mul p.2.v).isInf
    if infs.any (fun p => (p.1.v.mul p.2.v).neg) && infs.any (fun p => !(p.1.v.mul p.2.v).neg) then
      infs.head?.map fun p => (4, p.1.code, p.2.code)
    else none

/-- Exact sum of products (R157). -/
def sumExact : List FV → FV
  | [] => FV.zero
  | v :: vs => vs.foldl FV.add v

/-- The value of an entry as it reads (R160, R162). -/
def Entry.read (comp : Bool) (e : Entry) : Nat :=
  match e.s with
  | none => 0
  | some s => if comp then (roundAF ((af s).add (af e.c))).1 else s

/-- An entry as the output stage drains it: its value, whether the rounding of COMPENSATED's sum saturated (R166), the entry's first event,
which an invalid sum may be (R172). -/
structure Drain where
  code : Nat
  sat : Bool
  ev : Option Ev
  deriving DecidableEq, Repr

/-- The drain of an entry (R162, R180). -/
def Entry.drain (comp : Bool) (e : Entry) : Drain :=
  match e.s with
  | none => ⟨0, false, e.ev⟩
  | some s =>
    if comp then
      let (r, o) := roundAF ((af s).add (af e.c))
      ⟨r, o, match e.ev with
        | some x => some x
        | none => if (af s).addInvalid (af e.c) then some ⟨noGroup, 8, 0, 0, s⟩ else none⟩
    else ⟨s, false, e.ev⟩

/-- plain_add (R161), and whether it was an invalid operation. -/
def plainAdd (e : Entry) (g : FV) : Entry × Bool :=
  match e.s with
  | none => let (r, o) := roundAF g; ({ e with s := some r, sat := e.sat || o }, false)
  | some s => let (r, o) := roundAF ((af s).add g); ({ e with s := some r, sat := e.sat || o }, (af s).addInvalid g)

/-- comp_add (R162). -/
def compAdd (e : Entry) (g : FV) : Entry × Bool :=
  let (hi, o1) := roundAF g
  let (lo, o2) := if g.isFin then roundAF (g.sub (af hi)) else (0, false)
  match e.s with
  | none => ({ e with s := some hi, c := lo, sat := e.sat || o1, satC := e.satC || o2 }, false)
  | some s =>
    let (t, o3) := roundAF ((af s).add (af hi))
    let er := if (af t).isFin && (af s).isFin && (af hi).isFin then ((af s).add (af hi)).sub (af t) else FV.zero
    let (x, o4) := roundAF (er.add (af lo))
    let (c, o5) := roundAF ((af e.c).add (af x))
    ({ e with s := some t, c := c, sat := e.sat || o1 || o3, satC := e.satC || o2 || o4 || o5 }, (af s).addInvalid (af hi))

/-- chunk_add (R163); `last` closes the run. -/
def chunkAdd (e : Entry) (g : FV) (last : Bool) : Entry × Bool :=
  let (ch, o, i) := match e.ch with
    | none => let (r, o) := roundC24 g; (r, o, false)
    | some c => let (r, o) := roundC24 ((fC24.dec c).add g); (r, o, (fC24.dec c).addInvalid g)
  let e := { e with ch := some ch, sat := e.sat || o }
  if last then
    let (e', i') := plainAdd e (fC24.dec ch)
    ({ e' with ch := none }, i || i')
  else (e, i)

/-- A group enters the accumulator (mode: ACC of R109), recording the entry's first NaN event. -/
def addGroup (mode g : Nat) (last : Bool) (ps : List (Elem × Elem)) (e : Entry) : Entry :=
  let before := e.read (mode == 1)
  let G := sumExact (ps.map fun p => p.1.v.mul p.2.v)
  let (e', inv) := match mode with
    | 1 => compAdd e G
    | 2 => chunkAdd e G last
    | _ => plainAdd e G
  match e.ev with
  | some _ => e'
  | none =>
    match groupEvent ps with
    | some (c, a, b) => { e' with ev := some ⟨g, c, a, b, before⟩ }
    | none => if inv then { e' with ev := some ⟨g, 5, 0, 0, before⟩ } else e'

/-- dot_group_order (R161): groups of `W` in ascending order, runs of `L` elements (R163). -/
def dotGroups (mode W L : Nat) : Nat → Nat → List (Elem × Elem) → Entry → Entry
  | 0, _, _, e => e
  | n + 1, g, ps, e =>
    if ps.isEmpty then e
    else
      let rest := ps.drop W
      let last := rest.isEmpty || (g + 1) * W % L == 0
      dotGroups mode W L n (g + 1) rest (addGroup mode g last (ps.take W) e)

/-- A dot product of a row and a column, from an entry. -/
def dotGroupOrder (mode W L : Nat) (x w : List Elem) (e : Entry) : Entry :=
  dotGroups mode W L x.length 0 (x.zip w) e

/-! ## The side path (R94, R96) -/

/-- What stage one leaves for a row: ub of each rank, the first event, the overflows of round_bf16. -/
structure StageOne where
  ub : List Nat
  ev : Option Ev
  overflow : Nat
  deriving DecidableEq, Repr

/-- The earlier of two events by K group (R175); of two in one group the first. -/
def firstEv (a b : Option Ev) : Option Ev :=
  match a, b with
  | some x, some y => if y.group < x.group then some y else some x
  | some x, none => some x
  | none, y => y

/-- Stage one for a row `x`, the scale α and the first factor's columns, one per rank. -/
def stageOne (W : Nat) (alpha : Nat) (x : List Elem) (cols : List (List Nat)) : StageOne :=
  let a := fBF16.dec alpha
  cols.foldl (fun acc col =>
    let e := dotGroupOrder 0 W (16 * x.length + 16) x (col.map fun c => ⟨c, fBF16.dec c⟩) Entry.empty
    let u := af (e.read false)
    let p := a.mul u
    let (r, k) := roundBf16 p Counts.zero
    let ev := match e.ev with
      | some v => some { v with cause := 6, a := 0, b := 0, acc := 0 }
      | none => if p.isNan then some ⟨noGroup, 6, 0, 0, 0⟩ else none
    { ub := acc.ub ++ [r], ev := firstEv acc.ev ev, overflow := acc.overflow + k.overflow }) ⟨[], none, 0⟩

/-- Stage two for one column: the term s, and whether it met a NaN or an invalid operation of its own. -/
def stageTwo (ub col : List Nat) : FV × Bool :=
  (ub.zip col).foldl (fun acc p =>
    let t := (fBF16.dec p.1).mul (fBF16.dec p.2)
    (af (roundAF (acc.1.add t)).1, acc.2 || t.isNan || acc.1.addInvalid t)) (FV.zero, false)

/-- An entry before a K group of a descriptor, as it reads (R176); `g` beyond the groups: after them all. -/
def entryBefore (mode W L : Nat) (x w : List Elem) (e : Entry) (g : Nat) : Nat :=
  (dotGroups mode W L (min g x.length) 0 (x.zip w) e).read (mode == 1)

/-- The side-path term enters the entry (R94, R162, R163); an event of stage one in an earlier K group than the entry's own comes
first (R175), with the entry as it was before that group, `at_`. -/
def addSide (mode : Nat) (s1 : StageOne) (col : List Nat) (at_ : Nat → Nat) (e : Entry) : Entry :=
  let before := e.read (mode == 1)
  let (s, bad) := stageTwo s1.ub col
  let (e', inv) := if mode = 1 then compAdd e s else plainAdd e s
  match e.ev with
  | some w =>
    match s1.ev with
    | some v => if w.cause != 9 && decide (v.group < w.group) then { e' with ev := some { v with acc := at_ v.group } } else e'
    | none => e'
  | none =>
    match s1.ev with
    | some v => { e' with ev := some { v with acc := at_ v.group } }
    | none =>
      if bad then { e' with ev := some ⟨noGroup, 6, 0, 0, before⟩ }
      else if inv then { e' with ev := some ⟨noGroup, 5, 0, 0, before⟩ } else e'

/-! ## The output stage (R180) -/

/-- What the output stage applies to one entry: channel scale code, scale, bias and elementwise operands. -/
structure OutOps where
  chan : Option Nat
  scale : Option FV
  bias : Option Elem
  ewOp : Nat
  ew : Option Elem
  deriving DecidableEq, Repr

/-- A value under way in the output stage: whether a rounding saturated, the entry's first event, the entry as read. -/
structure OutVal where
  y : FV
  sat : Bool
  ev : Option Ev
  acc : Nat
  deriving DecidableEq, Repr

/-- One step: y becomes one rounding of `r`; an operand that is NaN has cause `cause`, an invalid operation cause 8. -/
def OutVal.apply (o : OutVal) (r : FV) (nanOperand inv : Bool) (cause code : Nat) : OutVal :=
  let (c, s) := roundAF r
  let ev := match o.ev with
    | some e => some e
    | none =>
      if nanOperand then some ⟨noGroup, cause, 0, code, o.acc⟩
      else if inv then some ⟨noGroup, 8, 0, code, o.acc⟩ else none
  { o with y := af c, sat := o.sat || s, ev := ev }

/-- The steps of R180 before the row statistics. -/
def outputSteps (ops : OutOps) (acc : Nat) (ev : Option Ev) : OutVal :=
  let o : OutVal := ⟨af acc, false, ev, acc⟩
  let o := match ops.chan with
    | some c => let v := fFP32.dec c; o.apply (o.y.mul v) v.isNan (o.y.mulInvalid v) 2 c
    | none => o
  let o := match ops.scale with
    | some v => o.apply (o.y.mul v) false (o.y.mulInvalid v) 8 0
    | none => o
  let o := match ops.bias with
    | some b => o.apply (o.y.add b.v) b.v.isNan (o.y.addInvalid b.v) 7 b.code
    | none => o
  match ops.ew, ops.ewOp with
  | some e, 1 => o.apply (o.y.add e.v) e.v.isNan (o.y.addInvalid e.v) 7 e.code
  | some e, 2 => o.apply (o.y.mul e.v) e.v.isNan (o.y.mulInvalid e.v) 7 e.code
  | _, _ => o

/-! ## Row statistics (R184, R185) -/

/-- Row statistics while they form; AF42 codes. -/
structure RowStats where
  m : Nat
  l : Nat
  kinf : Nat
  nanRow : Bool
  blockMax : List Nat
  deriving DecidableEq, Repr

/-- −∞ in AF42. -/
def afNegInf : Nat := fAF42.infCode true

def RowStats.start : RowStats := ⟨afNegInf, 0, 0, false, []⟩

/-- The maximum of two AF42 codes, −0 below +0 (R185, R204). -/
def afMax (a b : Nat) : Nat := afExact ((af a).max (af b))

/-- Rounded sum of AF42 codes. -/
def afAdd (a b : Nat) : Nat := (roundAF ((af a).add (af b))).1

/-- Rounded product of AF42 codes. -/
def afMul (a b : Nat) : Nat := (roundAF ((af a).mul (af b))).1

/-- One column block of the running softmax (R185): the numerators written and the statistics. -/
def softBlock (st : RowStats) (ys : List Nat) : List Nat × RowStats :=
  let nanRow := st.nanRow || ys.any fun y => (af y).isNan
  let mb := if nanRow then fAF42.nanCode else ys.foldl afMax st.m
  let cf := dCorr st.m mb
  let ps := ys.map fun y => dCorr y mb
  let bs := ps.foldl afAdd 0
  let kinf := ys.foldl (fun k y => if af y = .inf false then min (k + 1) 0xffffffff else k) st.kinf
  (ps, { m := mb, l := afAdd (afMul st.l cf) bs, kinf := kinf, nanRow := nanRow, blockMax := st.blockMax ++ [mb] })

/-- The running softmax over a row's column blocks of 128 (R184, R185). -/
def softRow : Nat → List Nat → RowStats → List Nat × RowStats
  | 0, _, st => ([], st)
  | n + 1, ys, st =>
    if ys.isEmpty then ([], st)
    else
      let (p, st) := softBlock st (ys.take 128)
      let (ps, st) := softRow n (ys.drop 128) st
      (p ++ ps, st)

/-- The statistics record of a row (R186): words M, L, flags, reserved, and the block maxima; whether EMPTY is set. -/
def statsWords (rowMax rowSum : Bool) (st : RowStats) : List Word × Bool :=
  let both := rowMax && rowSum
  let empty := both && st.m == afNegInf
  let infRow := both && st.m == fAF42.infCode false
  let flags := if both then put st.kinf 32 + 4 * b2n st.nanRow + 2 * b2n infRow + b2n empty else 0
  let ws := [word (if rowMax then st.m else 0), word (if rowSum then st.l else 0), word flags, 0] ++
    (if both then st.blockMax.map word else [])
  (ws ++ List.replicate ((8 - ws.length % 8) % 8) 0, empty)

/-- The statistics of a row's values: what is written, the record, EMPTY, the columns at which the sum of ROW_SUM met an
invalid operation. -/
def rowStatistics (rowMax rowSum : Bool) (ys : List Nat) : List Nat × List Word × Bool × List Nat :=
  if rowMax && rowSum then
    let (ps, st) := softRow ys.length ys RowStats.start
    let (w, e) := statsWords true true st
    (ps, w, e, [])
  else
    let m := ys.foldl afMax afNegInf
    let (l, bad) := ys.zipIdx.foldl (fun (acc : Nat × List Nat) p =>
      (afAdd acc.1 p.1, if (af acc.1).addInvalid (af p.1) then acc.2 ++ [p.2] else acc.2)) (0, [])
    let (w, _) := statsWords rowMax rowSum { RowStats.start with m := m, l := l }
    (ys, w, false, if rowSum then bad else [])

end Sys2Proof.Machine
end

