-- ==== Sys2Proof/Machine/Arith.lean ====
section
/-!
DEFINITION. Arithmetic of the vector engine's float types (R190, R205, R206): exact results as fractions, their rounding into
F32, F16, BF16 and W with the flags of R170, NaN propagation of STRICT (R169); and the optimiser steps of R223 and R224.
-/

namespace Sys2Proof.Machine

/-- The format of a float element type: F32, F16, BF16, W (R190). -/
def vFmt (ty : Nat) : Fmt :=
  match ty with
  | 0 => fFP32
  | 1 => fFP16
  | 2 => fBF16
  | _ => fAF42

/-- An exact result: NaN, an infinity, or ± num ÷ den × 2^e. -/
inductive XV where
  | nan
  | inf (neg : Bool)
  | frac (neg : Bool) (num den : Nat) (e : Int)
  deriving DecidableEq, Repr

def FV.exact : FV → XV
  | .nan => .nan
  | .inf s => .inf s
  | .fin s m e => .frac s m 1 e

/-- a ÷ b; division of a finite value by zero is an infinity (R213, DZ). -/
def FV.quot (a b : FV) : XV :=
  match a, b with
  | .nan, _ => .nan
  | _, .nan => .nan
  | .inf _, .inf _ => .nan
  | .inf s, .fin t _ _ => .inf (s != t)
  | .fin s _ _, .inf t => .frac (s != t) 0 1 0
  | .fin s m e, .fin t n f => if n = 0 then (if m = 0 then .nan else .inf (s != t)) else .frac (s != t) m n (e - f)

/-- Finite nonzero ÷ zero. -/
def FV.divByZero (a b : FV) : Bool := b.isZero && a.isFin && !a.isZero

/-- 0 ÷ 0 and ∞ ÷ ∞. -/
def FV.quotInvalid (a b : FV) : Bool := (a.isZero && b.isZero) || (a.isInf && b.isInf)

/-- √a; a zero keeps its sign. -/
def FV.root : FV → XV
  | .nan => .nan
  | .inf s => if s then .nan else .inf false
  | .fin s m e =>
    if m = 0 then .frac s 0 1 0 else if s then .nan
    else
      let (n, x) := sqrtSticky m e
      .frac false n 1 x

def FV.rootInvalid : FV → Bool
  | .inf s => s
  | .fin s m _ => s && m != 0
  | .nan => false

/-- e^a; e^(−∞) = +0. -/
def FV.expo : FV → XV
  | .nan => .nan
  | .inf s => if s then .frac false 0 1 0 else .inf false
  | .fin s m e =>
    let (n, d) := expRat s m e
    .frac false n d 0

/-- Flags of R170. -/
def flagNX : Nat := 1
def flagUF : Nat := 2
def flagOF : Nat := 4
def flagDZ : Nat := 8
def flagNV : Nat := 16

/-- A nonzero fraction that rounds below the least normal value with the exponent unbounded (R170). -/
def Fmt.tiny (F : Fmt) (mode : RMode) (num den : Nat) (e : Int) : Bool :=
  if num = 0 then false
  else
    let r := roundTo mode (F.fb + 1) (-100000) num den e
    !(leMag (2 ^ F.fb) (1 - F.bias - F.fb) r.m r.u)

/-- The code of an exact result in a type, and the flags of its rounding (R205). -/
def roundX (ty : Nat) (mode : RMode) (x : XV) : Nat × Nat :=
  let F := vFmt ty
  match x with
  | .nan => (F.nanCode, 0)
  | .inf s => (F.infCode s, 0)
  | .frac s num den e =>
    if ty = 3 then ((af42Of s num den e).1, 0)
    else
      let (r, o) := F.round mode num den e
      if o then (F.infCode s, flagOF + flagNX)
      else (F.enc s r.m r.u, if r.inexact then flagNX + (if F.tiny mode num den e then flagUF else 0) else 0)

/-- A NaN code of F whose quiet bit is clear. -/
def Fmt.signalling (F : Fmt) (code : Nat) : Bool := (F.dec code).isNan && !code.testBit (F.fb - 1)

/-- A NaN of F quieted and converted to G (R169). -/
def nanConv (F G : Fmt) (code : Nat) : Nat :=
  let fr := code % 2 ^ F.fb
  let f := if F.fb ≥ G.fb then fr >>> (F.fb - G.fb) else fr <<< (G.fb - F.fb)
  G.signBit (code.testBit (F.eb + F.fb)) + ((2 ^ G.eb - 1) <<< G.fb) + (f ||| 2 ^ (G.fb - 1))

/-- An operand of an arithmetic instruction: its type and code. -/
structure VNum where
  ty : Nat
  code : Nat
  deriving DecidableEq, Repr

/-- Bits of an element (R190). -/
def vElemBits (ty : Nat) : Nat := match ty with | 0 => 32 | 1 => 16 | 2 => 16 | 3 => 64 | 4 => 32 | 5 => 16 | _ => 8

/-- An integer type (R190). -/
def isInt (ty : Nat) : Bool := decide (4 ≤ ty)

def VNum.int (x : VNum) : Int := signed (vElemBits x.ty) x.code
def VNum.val (x : VNum) : FV := if isInt x.ty then intVal x.int else (vFmt x.ty).dec x.code
def VNum.signalling (x : VNum) : Bool := !isInt x.ty && (vFmt x.ty).signalling x.code

/-- A result: code, flags of R170, whether the operation was invalid on operands that are no NaN. -/
structure VRes where
  code : Nat
  flags : Nat
  inval : Bool
  deriving DecidableEq, Repr

/-- One float operation (R205): `ops` are the operands in the order in which a NaN of theirs counts as the first (R169). -/
def floatOp (strict : Bool) (ty : Nat) (mode : RMode) (ops : List VNum) (x : XV) (inval dz : Bool) : VRes :=
  let F := vFmt ty
  match ops.find? fun o => o.val.isNan with
  | some o =>
    if strict && ty != 3 then
      ⟨nanConv (vFmt o.ty) F o.code, if inval || ops.any VNum.signalling then flagNV else 0, false⟩
    else ⟨F.nanCode, 0, false⟩
  | none =>
    if inval then ⟨F.nanCode, flagNV, true⟩
    else
      let (c, f) := roundX ty mode x
      ⟨c, f + (if dz then flagDZ else 0), false⟩

/-! ## Optimiser steps (R223, R224) -/

def afSub (a b : Nat) : Nat := (roundAF ((af a).sub (af b))).1
def afDiv (a b : Nat) : Nat := (roundX 3 .nearest ((af a).quot (af b))).1
def afSqrt (a : Nat) : Nat := (roundX 3 .nearest (af a).root).1

/-- An FP32 code as the AF42 code of its value. -/
def f32AF (c : Nat) : Nat := afExact (fFP32.dec c)

/-- round_f32 of an AF42 code. -/
def afF32 (c : Nat) : Nat := fFP32.ofFV (af c)

/-- The parameter block of R223, FP32 codes. -/
structure Hyper where
  lr : Nat
  b1 : Nat
  ob1 : Nat
  b2 : Nat
  ob2 : Nat
  eps : Nat
  wd : Nat
  c1 : Nat
  c2 : Nat
  mu : Nat
  deriving DecidableEq, Repr

/-- b^t exactly. -/
def FV.pow (x : FV) (t : Nat) : FV :=
  match x with
  | .fin s m e => .fin (s && t % 2 == 1) (m ^ t) (e * t)
  | v => v

/-- 1 − b, rounded to FP32. -/
def oneMinus (b : Nat) : Nat := fFP32.ofFV (FV.one.sub (fFP32.dec b))

/-- 1 ÷ (1 − bᵗ), rounded to FP32. -/
def biasCorr (b t : Nat) : Nat := (roundX 0 .nearest (FV.one.quot (FV.one.sub ((fFP32.dec b).pow t)))).1

/-- The parameter block that the command processor fills for step `t` (R223, R280). -/
def hyperOf (lr wd b1 b2 eps t : Nat) : Hyper :=
  { lr := lr, b1 := b1, ob1 := oneMinus b1, b2 := b2, ob2 := oneMinus b2, eps := eps, wd := wd, c1 := biasCorr b1 t,
    c2 := biasCorr b2 t, mu := b1 }

/-- A parameter's update: FP32 state codes and the value t of R224. -/
structure Updated where
  m : Nat
  v : Nat
  t : Nat
  deriving DecidableEq, Repr

/-- ADAMW (R224) on AF42 codes: x the joined weight, g the gradient. -/
def adamStep (h : Hyper) (x g m v : Nat) : Updated :=
  let k := f32AF
  let m1 := afAdd (afMul (k h.b1) (k m)) (afMul (k h.ob1) (k g))
  let v1 := afAdd (afMul (k h.b2) (k v)) (afMul (k h.ob2) (afMul (k g) (k g)))
  let den := afAdd (afSqrt (afMul v1 (k h.c2))) (k h.eps)
  let u := afDiv (afMul m1 (k h.c1)) den
  { m := afF32 m1, v := afF32 v1, t := afSub x (afMul (k h.lr) (afAdd u (afMul (k h.wd) x))) }

/-- SGD_MOMENTUM (R224). -/
def sgdStep (h : Hyper) (x g m : Nat) : Updated :=
  let k := f32AF
  let q := afAdd (k g) (afMul (k h.wd) x)
  let m1 := afAdd (afMul (k h.mu) (k m)) q
  { m := afF32 m1, v := 0, t := afSub x (afMul (k h.lr) m1) }

end Sys2Proof.Machine
end

