-- ==== Sys2Proof/Machine/Sums.lean ====
section
/-!
DEFINITION. The arithmetic of hatband reductions: items and their running-sum formats (R303, R308, R309), block-scaled sums
(R312 to R314), checksums (R315, R316), and the bases of low-rank thinning (R324).
-/

namespace Sys2Proof.Machine

/-- The magnitude of a value. -/
def FV.abs (x : FV) : FV := x.withSign false

/-- The exact sum of values. -/
def sumAll (l : List FV) : FV := l.foldl FV.add FV.zero

/-- |x − y|. -/
def gap (x y : FV) : FV := (x.sub y).abs

/-- The element type of a block-scaled running sum as a format code of R110. -/
def wireFmt (wire : Nat) : Nat := if wire = 3 then 5 else 6

/-- Block-scaled formats (R308). -/
def wireMx (wire : Nat) : Bool := decide (3 ≤ wire)

/-- H of R313: HEADROOM 7 is automatic. -/
def headroomOf (h d : Nat) : Nat := if h = 7 then min (bitLen (d - 1)) 4 else h

/-- A block of a running sum: codes, scale, lift, SAT, the exact sum of its roundings' magnitudes, whether it was lifted. -/
structure MxBlock where
  codes : List Nat
  scale : Nat
  lift : Nat
  sat : Bool
  err : FV
  lifted : Bool
  deriving DecidableEq, Repr

/-- Elements of a block rounded at exponent `e`, clipped above the largest element (R314). -/
def mxRound (fmt : Nat) (e : Int) (y : List FV) : List Nat × Bool × FV :=
  let big := (elemVal fmt (elemMaxCode fmt false)).mul (.fin false 1 e)
  let one := fun (v : FV) =>
    if v.abs.leAbs big then
      let c := match divPow2 v e with
        | .fin s m x => roundElem fmt .nearest s m x
        | _ => 0
      (c, false, gap v ((elemVal fmt c).mul (.fin false 1 e)))
    else (elemMaxCode fmt v.neg, true, FV.zero)
  let rs := y.map one
  (rs.map fun r => r.1, rs.any fun r => r.2.1, sumAll (rs.map fun r => r.2.2))

/-- A new block (R313). -/
def mxStart (fmt h : Nat) (y : List FV) : MxBlock :=
  let zeros := y.map fun _ => 0
  if y.any FV.isNan then ⟨zeros, 0xff, 0, false, FV.zero, false⟩
  else
    let m := y.foldl maxMag FV.zero
    if m.isZero then ⟨zeros, 0, 0, false, FV.zero, false⟩
    else
      let e := max (-127) (min 127 (magLog2 m - emax fmt + h))
      let (c, s, r) := mxRound fmt e y
      ⟨c, (e + 127).toNat, 0, s, r, false⟩

/-- The lift of an addition (R314): at most four, the cumulative lift at most 15, the exponent at most 127. -/
def mxLift (fmt : Nat) (e : Int) (lift : Nat) (y : List FV) : Nat → Nat → Nat
  | 0, l => l
  | n + 1, l =>
    let big := (elemVal fmt (elemMaxCode fmt false)).mul (.fin false 1 (e + l))
    if lift + l < 15 && decide (e + l < 127) && y.any fun v => !(v.abs.leAbs big) then mxLift fmt e lift y n (l + 1) else l

/-- mx_add (R314): a block's codes, scale, lift and SAT with addends. -/
def mxAdd (fmt h : Nat) (codes : List Nat) (b : Nat × Nat × Bool) (x : List FV) : MxBlock :=
  let y := (codes.map fun c => mxVal fmt c b.1).zipWith FV.add x
  let zeros := y.map fun _ => 0
  if y.any FV.isNan then ⟨zeros, 0xff, b.2.1, b.2.2, FV.zero, false⟩
  else if y.all FV.isZero then ⟨zeros, 0, 0, false, FV.zero, false⟩
  else if b.1 = 0 && codes.all fun c => codeIsZero fmt c then mxStart fmt h y
  else
    let e : Int := (b.1 : Int) - 127
    let l := mxLift fmt e b.2.1 y 4 0
    let (c, s, r) := mxRound fmt (e + l) y
    ⟨c, b.1 + l, b.2.1 + l, b.2.2 || s, r, decide (0 < l)⟩

/-- Lists cut in blocks of 32. -/
def blocks32 {α : Type} : Nat → List α → List (List α)
  | 0, _ => []
  | n + 1, l => if l.isEmpty then [] else l.take 32 :: blocks32 n (l.drop 32)

/-- The values of an item's elements, widened exactly (R306, R309). -/
def itemVals (wire : Nat) (x : Item) : List FV :=
  if wireMx wire then
    ((blocks32 x.elems.length x.elems).zip x.blocks).flatMap fun p => p.1.map fun c => mxVal (wireFmt wire) c p.2.1
  else if wire = 2 then x.elems.map fFP32.dec
  else x.elems.map af

/-- A drop marker (R303, R318). -/
def dropMarker (d : Die) (tokens : Nat) : Item :=
  { origin := d, nextHop := d, held := 0, dropped := mapOf [d], tokens := 0, droppedTokens := tokens, cs := 0, absSum := 0,
    errAbs := 0, lifts := 0, satBlocks := 0, elems := [], comps := [], blocks := [], waiting := false }

/-- Elements formed by an addition or a new item: codes, errors, blocks, the exact sum of the roundings, blocks lifted. -/
structure Formed where
  elems : List Nat
  comps : List Nat
  blocks : List (Nat × Nat × Bool)
  err : FV
  lifts : Nat
  deriving DecidableEq, Repr

def formBlocks (bs : List MxBlock) : Formed :=
  { elems := bs.flatMap MxBlock.codes, comps := [], blocks := bs.map fun b => (b.scale, b.lift, b.sat),
    err := sumAll (bs.map MxBlock.err), lifts := (bs.filter MxBlock.lifted).length }

/-- round_f32 of values, and the sum of the roundings. -/
def formF32 (y : List FV) : Formed :=
  let c := y.map fun v => fFP32.ofFV v
  { elems := c, comps := [], blocks := [], err := sumAll (y.zipWith (fun v k => gap v (fFP32.dec k)) c), lifts := 0 }

/-- round_af42 of values, and the sum of the roundings. -/
def formAF (y : List FV) : Formed :=
  let c := y.map fun v => (roundAF v).1
  { elems := c, comps := [], blocks := [], err := sumAll (y.zipWith (fun v k => gap v (af k)) c), lifts := 0 }

/-- new_item's elements (R309, R313). -/
def formNew (wire h : Nat) (x : List FV) : Formed :=
  if wireMx wire then formBlocks ((blocks32 x.length x).map (mxStart (wireFmt wire) h))
  else if wire = 2 then formF32 x
  else { formAF x with comps := if wire = 1 then x.map fun _ => 0 else [] }

/-- merge of AF42_COMP on one element (R309): sum, error, the sum of the roundings of the error. -/
def mergeComp (s1 c1 s2 c2 : Nat) : Nat × Nat × FV :=
  let t := (roundAF ((af s1).add (af s2))).1
  let e := if (af s1).isFin && (af s2).isFin && (af t).isFin then ((af s1).add (af s2)).sub (af t) else FV.zero
  let x := (af c2).add e
  let r := (roundAF x).1
  let y := (af c1).add (af r)
  let c := (roundAF y).1
  (t, c, (gap x (af r)).add (gap y (af c)))

/-- The elements of an item with addends: the addends' values, and in AF42_COMP their codes and errors (R309, R314). -/
def formAdd (wire h : Nat) (x : Item) (vals : List FV) (s2 c2 : List Nat) : Formed :=
  if wireMx wire then
    formBlocks ((((blocks32 x.elems.length x.elems).zip x.blocks).zip (blocks32 vals.length vals)).map fun p =>
      mxAdd (wireFmt wire) h p.1.1 p.1.2 p.2)
  else if wire = 2 then formF32 ((itemVals 2 x).zipWith FV.add vals)
  else if wire = 1 then
    let rs := ((x.elems.zip x.comps).zip (s2.zip c2)).map fun p => mergeComp p.1.1 p.1.2 p.2.1 p.2.2
    { elems := rs.map fun r => r.1, comps := rs.map fun r => r.2.1, blocks := [],
      err := sumAll (rs.map fun r => r.2.2), lifts := 0 }
  else formAF ((itemVals 0 x).zipWith FV.add vals)

/-- Rounded sum of two AF42 containers' values. -/
def af42Add (a b : BitVec 42) : BitVec 42 := BitVec.ofNat 42 (afAdd a.toNat b.toNat)

/-- An item with formed elements. -/
def Item.withForm (x : Item) (f : Formed) : Item :=
  { x with elems := f.elems, comps := f.comps, blocks := f.blocks,
           errAbs := BitVec.ofNat 42 (roundAF ((af x.errAbs.toNat).add f.err)).1,
           lifts := satAdd (2 ^ 32 - 1) x.lifts f.lifts,
           satBlocks := min (2 ^ 32 - 1) (f.blocks.filter fun b => b.2.2).length }

/-- new_item (R304, R309, R315): a member's contribution `x` (AF42 codes) and token count. -/
def newItem (wire h : Nat) (d : Die) (x : List Nat) (tokens : Nat) : Item :=
  let v := x.map af
  { dropMarker d 0 with
    held := mapOf [d]
    dropped := 0
    tokens := tokens
    cs := BitVec.ofNat 42 (roundAF (sumAll v)).1
    absSum := BitVec.ofNat 42 (roundAF (sumAll (v.map FV.abs))).1 } |>.withForm (formNew wire h v)

/-- The header of two items combined (R309). -/
def Item.header (x y : Item) : Item :=
  { x with held := x.held ||| y.held, dropped := x.dropped ||| y.dropped,
           tokens := satAdd (2 ^ 32 - 1) x.tokens y.tokens,
           droppedTokens := satAdd (2 ^ 32 - 1) x.droppedTokens y.droppedTokens,
           cs := af42Add x.cs y.cs, absSum := af42Add x.absSum y.absSum }

/-- add of a member's contribution to an item (R304, R305, R309); a drop marker takes it as a new item would. -/
def addContribution (wire h : Nat) (x : Item) (d : Die) (c : List Nat) (tokens : Nat) : Item :=
  let y := newItem wire h d c tokens
  if x.elems.isEmpty then
    { x.header y with elems := y.elems, comps := y.comps, blocks := y.blocks, errAbs := y.errAbs, satBlocks := y.satBlocks }
  else (x.header y).withForm (formAdd wire h x (c.map af) c (c.map fun _ => 0))

/-- In a block merge the block with the larger scale is added to, with the larger LIFT (R314). -/
def mergeBlocks (wire h : Nat) (x y : Item) : Formed :=
  let bs := ((blocks32 x.elems.length x.elems).zip x.blocks).zip ((blocks32 y.elems.length y.elems).zip y.blocks)
  formBlocks (bs.map fun p =>
    let (a, b) := if p.1.2.1 ≥ p.2.2.1 then (p.1, p.2) else (p.2, p.1)
    let lift := max a.2.2.1 b.2.2.1
    let r := mxAdd (wireFmt wire) h a.1 (a.2.1, lift, a.2.2.2 || b.2.2.2) (b.1.map fun c => mxVal (wireFmt wire) c b.2.1)
    r)

/-- Two items merged at the owner (R304, R309). -/
def mergeItems (wire h : Nat) (x y : Item) : Item :=
  let z := x.header y
  if y.elems.isEmpty then z
  else if x.elems.isEmpty then
    { z with elems := y.elems, comps := y.comps, blocks := y.blocks, errAbs := y.errAbs, lifts := y.lifts,
             satBlocks := y.satBlocks }
  else
    let f := if wireMx wire then mergeBlocks wire h x y else formAdd wire h x (itemVals wire y) y.elems y.comps
    let err := ((af x.errAbs.toNat).add (af y.errAbs.toNat)).add f.err
    { { z with lifts := satAdd (2 ^ 32 - 1) x.lifts y.lifts }.withForm f with errAbs := BitVec.ofNat 42 (roundAF err).1 }

/-- The elements that the owner hands on (R306), AF42 codes; the item with the final read of s + c in its ERR_ABS (R309). -/
def handOn (wire elems : Nat) (x : Item) : List Nat × Item :=
  if x.elems.isEmpty then (List.replicate elems 0, x)
  else if wire = 1 then
    let f := formAF ((x.elems.zip x.comps).map fun p => (af p.1).add (af p.2))
    (f.elems, { x with errAbs := BitVec.ofNat 42 (roundAF ((af x.errAbs.toNat).add f.err)).1 })
  else ((itemVals wire x).map afExact, x)

/-- a ≤ b for finite values. -/
def FV.le (a b : FV) : Bool := a.lt b || a.eqv b

/-- The check of R316: R, and the code of a failure. -/
def checkSum (tau : Nat) (out : List Nat) (x : Item) : Nat × Option Nat :=
  let r := (roundAF (sumAll (out.map af))).1
  let R := af r
  let C := af x.cs.toNat
  let A := af x.absSum.toNat
  let E := af x.errAbs.toNat
  if !(R.isFin && C.isFin && A.isFin && E.isFin) then (r, some 102)
  else if (gap R C).le ((A.mul (.fin false 1 (-(tau : Int)))).add E) then (r, none)
  else (r, some 101)

/-- basis of R324: entry (k, j) is −1. -/
def basisNeg (n q sd k j : Nat) : Bool :=
  let t := n / q
  let o := srBits sd n % t
  (decide (0x8000 ≤ srBits sd k)) != (popCount 32 (k &&& (o + j * t)) % 2 == 1)

/-- A value with the sign that the basis gives. -/
def signedBy (neg : Bool) (v : FV) : FV := if neg then v.negate else v

end Sys2Proof.Machine
end

