-- ==== Sys2Proof/Machine/Caps.lean ====
section
/-!
DEFINITION. The capability record (R74), the reserves and their report (R453, R455), QUERY_CAPS and RESERVE_STATUS.
-/

namespace Sys2Proof.Machine

/-- A bitmap of `n` units that satisfy `p`. -/
def bitmap (n : Nat) (p : Nat → Bool) : Nat := ((List.range n).map fun i => b2n (p i) <<< i).sum

/-- The logical clusters of a die as they will stand at its next pass boundary (R78). -/
def DieSt.mapNow (d : DieSt) : List Phys := d.nextMap.getD d.map

/-- The spare of a die (R20): a cluster that is not retired and holds no logical number. -/
def DieSt.spare? (d : DieSt) : Option Phys :=
  (List.finRange 9).find? fun c =>
    (d.clusters.getD c.val 2 == 1 || (d.clusters.getD c.val 2 == 3 && !d.mapNow.contains c)) && !d.mapNow.contains c

/-! ## Resets in progress (R439 to R441) -/

/-- A scope lies within another: a cluster in its die, a die in its cabinet, a cabinet in itself; a reset that keeps the shelf lies
within one that does not. -/
def State.scopeWithin (s : State) (a b : Scope) : Bool :=
  match a, b with
  | .cluster d c, .cluster e k => d == e && c == k
  | .cluster d _, .die e => d == e
  | .cluster d _, .cabinet k _ => hasDie (s.cab k).dies d.val
  | .die d, .die e => d == e
  | .die d, .cabinet k _ => hasDie (s.cab k).dies d.val
  | .cabinet c keep, .cabinet k keep' => c == k && (keep || !keep')
  | _, _ => false

/-- The reset in progress that a scope lies within. -/
def State.covering (s : State) (a : Scope) : Option ResetJob :=
  s.cp.resets.find? fun r => r.started && s.scopeWithin a r.scope

/-- A cluster, or a whole die, lies in the scope of a reset in progress (R440). -/
def State.scopeHolds (s : State) (d : Die) (c : Phys) : Bool := (s.covering (.cluster d c)).isSome
def State.resetHolds (s : State) (d : Die) : Bool := (s.covering (.die d)).isSome

/-- Active clusters of dies in service. -/
def State.activeClusters (s : State) : Nat := ((s.dies.filter fun d => d.inService).map fun d => d.mapNow.length).sum

def State.stacksInService (s : State) : Nat := bitmap 32 fun i => (s.hbm.getD i StackSt.reset).inService

def State.ctInService (s : State) : Nat := bitmap 2 fun i => s.ctServes (Fin.ofNat 2 i)

def State.diesInService (s : State) : Nat := bitmap 16 fun i => (s.dies.getD i DieSt.reset).inService

def State.noSpare (s : State) : Nat := bitmap 16 fun i => (s.dies.getD i DieSt.reset).spare?.isNone

def State.edgesInService (s : State) : Nat := bitmap 4 fun i => (s.edges.getD i EdgeSt.reset).inService

/-- FP8_TFLOPS of `n` active clusters (R31, R74): 8 engines, 16,384 MACs, two operations, 1.3 GHz, truncated. -/
def tflops (n : Nat) : Nat := n * 3407872 / 10000

/-- HBM_GBPS (R74): 2560 for each stack in service of a die in service. -/
def State.hbmGbps (s : State) : Nat :=
  2560 * ((List.range 32).filter fun i =>
    (s.hbm.getD i StackSt.reset).inService && (s.dies.getD (i / 2) DieSt.reset).inService).length

/-- The capability record (R74). -/
def State.caps (s : State) : List Word :=
  [ word (put 1 56 + put 0 48 + put 0xb0 40 + 0x00093216),
    word (put (bitmap 16 fun i => (s.dies.getD i DieSt.reset).present) 48 + put s.diesInService 32 + put s.noSpare 16 +
      put s.edgesInService 12 + put s.ctInService 10 + put s.cp.active.val 8 + put 9 4 + 8),
    word (put s.stacksInService 32 + put 64 16 + s.activeClusters),
    word (put 4096 48 + put 32 40 + put 64 32 + put 16384 16 + put 64 8 + 7),
    word (put 96 48 + put 512 32 + put (2048 * popCount 4 s.edgesInService) 16 + put 16 8 + 8),
    word (put 3 36 + put 0xf 32 + 0x3fff),
    word (put s.hbmGbps 32 + tflops s.activeClusters),
    word (put 4096 48) ]

/-- Compute dies out of service (R34). -/
def State.retiredDies (s : State) : Nat := 16 - popCount 16 s.diesInService

/-- Free soft fuse records of the active control die (R359). -/
def State.softFuseFree (s : State) : Nat := 4096 - (s.ct s.cp.active).fuses.length

/-- Levels of a stack's spare rows and lanes (R453): 0, 1 low, 2 exhausted; rows are exhausted when one bank has none left. -/
def StackSt.rowLevel (h : StackSt) : Nat :=
  if !h.inService then 0 else if h.bankOut then 2 else if 4 * h.spareRows ≤ h.spareRowsStart then 1 else 0
def StackSt.laneLevel (h : StackSt) : Nat :=
  if !h.inService then 0 else if h.spareLanes = 0 then 2 else if h.spareLanes ≤ 1 then 1 else 0

/-- The RESERVE_STATUS record (R455). -/
def State.reserveWords (s : State) : List Word :=
  [ word (put (4 - s.retiredDies) 60 + put s.noSpare 44 + put (0xffff - s.diesInService) 28 + put s.ctInService 26 +
      put (b2n (decide (5 ≤ s.retiredDies))) 25),
    word (put s.stacksInService 32 + put s.softFuseFree 16 +
      (s.hbm.filter fun h => h.rowLevel != 0 || h.laneLevel != 0).length),
    word (put s.activeClusters 32 + tflops s.activeClusters),
    word s.now ]

/-- Every reserve of R453 by a number of its own, with its level: dies' spares 0–15, the die reserve 16, stacks' rows 32–63
and lanes 64–95, soft fuse records 96, stacks in service 97, control dies 98. -/
def State.reserveLevels (s : State) : List (Nat × Nat) :=
  ((List.range 16).map fun i => (i, if (s.dies.getD i DieSt.reset).spare?.isNone then 2 else 0)) ++
    [(16, if 5 ≤ s.retiredDies then 2 else if 3 ≤ s.retiredDies then 1 else 0)] ++
    ((List.range 32).map fun i => (32 + i, (s.hbm.getD i StackSt.reset).rowLevel)) ++
    ((List.range 32).map fun i => (64 + i, (s.hbm.getD i StackSt.reset).laneLevel)) ++
    [(96, if s.softFuseFree = 0 then 2 else if s.softFuseFree ≤ 256 then 1 else 0),
     (97, if popCount 32 s.stacksInService ≤ 30 then 1 else 0),
     (98, if popCount 2 s.ctInService ≤ 1 then 1 else 0)]

/-- The report of a reserve (R445): CORRECTED, or DEGRADED when exhausted. -/
def reserveReport (id level : Nat) (w0 : Word) : Report :=
  { cls := Cls.reserve, severity := if level = 2 then 2 else 0,
    block := if id ≤ 16 then 0 else if id < 96 then 5 else if id = 97 then 5 else 10,
    unit := if 32 ≤ id ∧ id < 96 then Fin.ofNat 64 (id % 32) else 0, die := if id < 16 then Fin.ofNat 16 id else 0,
    cab := none, d2 := w0, d3 := 0, touched := [] }

/-- RESERVE_LOW for each reserve that has become low or exhausted since the last look (R453). -/
def State.checkReserves (s : State) : State :=
  let now := s.reserveLevels
  let old := s.cp.reservesLow
  let news := now.filter fun p => decide ((assocGet p.1 old).getD 0 < p.2)
  let s := s.modCp fun c => { c with reservesLow := now.filter fun p => p.2 != 0 }
  news.foldl (fun s p =>
    (s.logReport (reserveReport p.1 p.2 (wordAt s.reserveWords 0)) 0xff 0).postEvent Event.reserveLow 0 s.reserveWords) s

def infoQueryCaps : CmdInfo := ⟨0x0001, 0, 0, .zero, false, false, false, [], none⟩

/-- QUERY_CAPS (R74): the capability record, by either command processor (R431). -/
def execQueryCaps (src : Src) (req : Req) (s : State) : Out :=
  .next (s.ilnil infoQueryCaps src req fun r _ s => s.complete r Code.ok s.caps)

def infoReserveStatus : CmdInfo := ⟨0x0082, 0, 0, .zero, true, false, false, [], none⟩

/-- RESERVE_STATUS (R455). -/
def execReserveStatus (src : Src) (req : Req) (s : State) : Out :=
  .next (s.ilnil infoReserveStatus src req fun r _ s => s.complete r Code.ok s.reserveWords)

end Sys2Proof.Machine
end

