-- ==== Sys2Proof/Machine/Gloves.lean ====
section
/-!
DEFINITION. The glove table's phases (R378, R379, R388 to R390): which blocks hold a glove, how a rotation and an erasure go
on when nothing more is waited for, and the close of a session that carried GLOVE_CLOSE.
-/

namespace Sys2Proof.Machine

/-- The blocks that wear or cache a glove (R379): clusters, controllers, and the edge dies of its tenant's sessions (R380). -/
def State.wearers (s : State) (g : Glove) : List GBlock :=
  ((s.clusters.filter fun x => x.slots.any fun k => k.glove == g.id).map fun x => GBlock.cluster x.die x.cl) ++
    ((List.finRange 32).filter fun h => (s.stk h).cache.any fun p => p.1 == g.id).map GBlock.controller ++
    (if g.kind = 2 then
      ((List.finRange 4).filter fun e => s.rot.sessions.any fun x => x.tenant == g.tenant && edgeOf x.n == e).map GBlock.edge
    else [])

/-- A session's slot erased, after a close record where the module closes it (R386): what the journal holds for it goes, but for
requests that are still unanswered. -/
def State.dropSession (s : State) (n : Nat) (tell : Bool) : State :=
  match s.session? n with
  | none => s
  | some x =>
    let s := if tell && (s.edge (edgeOf x.n)).inService then s.sendRecord x 0x12 x.txNext [] else s
    let other := fun (o : OutMsg) => o.dest != .session x.n
    let s := s.setChan (chanKey (.session x.n)) ((s.chan (chanKey (.session x.n))).filter fun j => j.phase != 2)
    let s := s.modCp fun c =>
      { c with jSent := c.jSent.filter other, jAcked := c.jAcked.filter other, backlog := c.backlog.filter other }
    s.modRot fun r => { r with sessions := r.sessions.filter fun y => y.n.val != n }

/-- A message for a session that the journal still holds. -/
def State.owesSession (s : State) (n : Nat) : Bool :=
  (s.cp.jSent ++ s.cp.jAcked ++ s.cp.backlog).any fun o => match o.dest with | .session k => k.val == n | _ => false

/-- A session that carried GLOVE_CLOSE closes once it has carried its COMPLETION (R390). -/
def State.settleDraining (s : State) : State :=
  (s.rot.sessions.filter fun x => x.draining && (s.tenantGlove? x.tenant).isNone && x.toSend.isEmpty &&
      !s.owesSession x.n.val).foldl (fun (s : State) x => s.dropSession x.n.val true) s

/-- A glove gone from a block (R379). -/
def State.unwear (s : State) (g : BitVec 16) (b : GBlock) : State :=
  match b with
  | .cluster d c =>
    let bare : ClusterSt → ClusterSt := fun k =>
      if k.die == d && k.cl == c then { k with slots := k.slots.filter fun x => x.glove != g } else k
    { s with clusters := s.clusters.map bare }
  | .controller h => s.modStk h fun x => { x with cache := x.cache.filter fun p => p.1 != g }
  | .edge _ => s

/-- A glove erased from both tables (R375, R390): its id is free, the commands that waited complete, REMOVE_TENANT's entry goes. -/
def State.eraseGlove (s : State) (g : Glove) : State :=
  let s := (s.wearers g).foldl (fun (s : State) b => s.unwear g.id b) s
  let s := s.modRot fun r =>
    { r with gloves := r.gloves.filter fun x => x.id != g.id,
             freed := if g.kind = 2 then r.freed ++ [g.id] else r.freed,
             tenants := if g.removing then r.tenants.filter fun p => p.1 != g.tenant else r.tenants }
  (s.completeAll g.replies Code.ok []).settleDraining

/-- A shelf glove erased with its shelf (R375): a rotation of it that was under way ends. -/
def State.discardGlove (s : State) (id : BitVec 16) : State :=
  match s.glove? id.toNat with
  | none => s
  | some g => ({ g with replies := [] } |> s.eraseGlove).completeAll g.replies Code.gloveClosed []

/-- The generations of a glove in the cluster slots that hold it (R103). -/
def State.wearGens (s : State) (g : BitVec 16) (gen : BitVec 32) (prev : Option (BitVec 32)) : State :=
  let one : GSlot → GSlot := fun k => if k.glove = g then { k with gen := gen, prev := prev } else k
  let all : ClusterSt → ClusterSt := fun x => { x with slots := x.slots.map one }
  { s with clusters := s.clusters.map all }

/-- Advance (R388): the next generation is current, PREV_PAGES counts the pages left behind; every block holds both by then. -/
def State.advanceGlove (s : State) (g : Glove) : State :=
  let n := (s.pages.filter fun p => p.glove == g.id && p.kind != 0 && p.keyGen == g.gen).length
  let s := s.wearGens g.id (g.gen + 1) (some g.gen)
  s.modGlove g.id.toNat fun x => { x with gen := x.gen + 1, prevHeld := true, prevPages := n, phase := 3, rotateTime := s.now }

/-- A glove goes on to its next phase while nothing is waited for (R388): Advance after Install, Drain once PREV_PAGES is 0,
Erase after Drain, the end of the rotation after Erase, the end of the glove after its erasure. -/
def State.gloveStep (s : State) (id : BitVec 16) : Nat → State
  | 0 => s
  | fuel + 1 =>
    match s.glove? id.toNat with
    | none => s
    | some g =>
      if !g.waiting.isEmpty then s
      else if g.phase = 2 then (s.advanceGlove g).gloveStep id fuel
      else if g.phase = 3 && g.prevPages = 0 then
        (s.modGlove id.toNat fun x => { x with phase := 4, waiting := s.wearers g }).gloveStep id fuel
      else if g.phase = 4 then
        (s.modGlove id.toNat fun x => { x with phase := 5, waiting := s.wearers g }).gloveStep id fuel
      else if g.phase = 5 then
        ((s.wearGens id g.gen none).modGlove id.toNat fun x => { x with phase := 0, prevHeld := false, replies := [] }).completeAll
          g.replies Code.ok []
      else if g.phase = 7 then s.eraseGlove g
      else s

/-- Install (R388): every block that wears or caches the glove is to hold both generations. -/
def State.installGlove (s : State) (id : BitVec 16) : State :=
  match s.glove? id.toNat with
  | none => s
  | some g => (s.modGlove id.toNat fun x => { x with phase := 2, waiting := s.wearers g }).gloveStep id 6

/-- The erasure of a glove from every block and then from both tables begins (R390 step 4). -/
def State.beginErase (s : State) (id : BitVec 16) : State :=
  match s.glove? id.toNat with
  | none => s
  | some g => (s.modGlove id.toNat fun x => { x with phase := 7, waiting := s.wearers g }).gloveStep id 2

/-- Rotations whose PREV_PAGES has reached 0 go on (R388). -/
def State.settleSweeps (s : State) : State :=
  (s.rot.gloves.filter fun g => g.phase == 3 && g.prevPages == 0).foldl (fun (s : State) g => s.gloveStep g.id 6) s

/-- Blocks that reset or left service owe no acknowledgement any more (R379, R389). -/
def State.blocksGone (s : State) (p : GBlock → Bool) : State :=
  let ids := s.rot.gloves.map Glove.id
  let s := s.modRot fun r =>
    { r with gloves := r.gloves.map fun (g : Glove) => { g with waiting := g.waiting.filter fun b => !p b } }
  ids.foldl (fun (s : State) i => s.gloveStep i 6) s

end Sys2Proof.Machine
end

