-- ==== Sys2Proof/Machine/Pages.lean ====
section
/-!
DEFINITION. Pages of the stacks: their entries (R336, R337), allocation and release by the command processor (R339), the
choice of free pages, and the counts that MEMORY_STATUS gives (R364).
-/

namespace Sys2Proof.Machine

namespace PKind
abbrev free : Fin 16 := 0
abbrev shelf : Fin 16 := 1
abbrev program : Fin 16 := 2
abbrev drawer : Fin 16 := 3
abbrev kv : Fin 16 := 4
abbrev saved : Fin 16 := 5
abbrev run : Fin 16 := 6
abbrev tensor : Fin 16 := 7
abbrev operator : Fin 16 := 8
abbrev withdrawn : Fin 16 := 9
end PKind

/-- A page entry at its reset value (R336). -/
def Page.reset (st : Stack) (p : Fin 32768) : Page :=
  { stack := st, page := p, keyGen := 0, glove := 0, cab := 0, kind := 0, sweep := false, zeroing := false, mark := 0,
    ownerRef := 0 }

/-- The two words of a page entry (R336). -/
def Page.words (x : Page) : Word × Word :=
  (word (put x.keyGen.toNat 32 + put x.glove.toNat 16 + put x.cab.val 12 + put x.kind.val 8 + put (b2n x.sweep) 7 + put (b2n x.zeroing) 6),
   word (put x.mark.val 49 + x.ownerRef.toNat))

/-- The entry of a page. -/
def State.page (s : State) (st : Stack) (p : Fin 32768) : Page :=
  (s.pages.find? fun x => x.stack == st && x.page == p).getD (Page.reset st p)

/-- A page entry written; one at its reset value is not listed. -/
def State.setPage (s : State) (x : Page) : State :=
  let rest := s.pages.filter fun y => !(y.stack == x.stack && y.page == x.page)
  { s with pages := if x = Page.reset x.stack x.page then rest else rest ++ [x] }

/-- The stacks of a die, lower number first (R332). -/
def stacksOf (d : Die) : List Stack := [Fin.ofNat 32 (2 * d.val), Fin.ofNat 32 (2 * d.val + 1)]

/-- The die of a stack. -/
def dieOf (h : Stack) : Die := Fin.ofNat 16 (h.val / 2)

/-- Pages of a stack that may not be allocated: in use, withdrawn, or kept out by a find (R358). -/
def State.takenPages (s : State) (h : Stack) : List Nat :=
  ((s.pages.filter fun x => x.stack == h && x.kind != 0).map fun x => x.page.val) ++
    (((s.stk h).keptOut.filter fun p => (s.page h p).kind == 0).map Fin.val)

/-- Pages that the command processor can allocate on a stack; none on a stack out of service (R360). -/
def State.freeOn (s : State) (h : Stack) : Nat :=
  if (s.stk h).inService then 32768 - (s.takenPages h).length else 0

def State.freeOnDie (s : State) (d : Die) : Nat := ((stacksOf d).map s.freeOn).sum

/-- The `n` lowest numbers from `lo` that `used` does not hold, looking at `fuel` numbers. -/
def lowestFree (used : List Nat) : Nat → Nat → Nat → List Nat
  | 0, _, _ => []
  | _, 0, _ => []
  | n + 1, fuel + 1, lo =>
    if used.contains lo then lowestFree used (n + 1) fuel (lo + 1) else lo :: lowestFree used n fuel (lo + 1)

/-- The generation that an allocation takes: its glove's current one (R336). -/
def State.gloveGen (s : State) (g : BitVec 16) : BitVec 32 := ((s.glove? g.toNat).map fun x => x.gen).getD 0

/-- `n` pages of one stack allocated (R339): the lowest-numbered free ones, ZEROING until the fill ends. -/
def State.allocOn (s : State) (h : Stack) (n : Nat) (kind : Fin 16) (g : BitVec 16) (c : Cab) (owner : BitVec 32) :
    State × List (Stack × Fin 32768) :=
  let nums := lowestFree (s.takenPages h) n 32768 0
  let mk : Nat → Page := fun p =>
    { stack := h, page := Fin.ofNat 32768 p, keyGen := s.gloveGen g, glove := g, cab := c, kind := kind, sweep := false,
      zeroing := true, mark := 0, ownerRef := owner }
  ({ s with pages := (s.pages.filter fun x => !(x.stack == h && nums.contains x.page.val)) ++ nums.map mk },
   nums.map fun p => (h, Fin.ofNat 32768 p))

/-- How `n` pages fall on a die's two stacks: page by page in turn, even pages in the lower-numbered (R39, R242), and the
rest of a stack that runs short on the other. -/
def splitPages (n freeA freeB : Nat) : Nat × Nat :=
  let a := min freeA (max (n - freeB) ((n + 1) / 2))
  (a, n - a)

/-- `n` pages of a die; none changed when too few are free. -/
def State.alloc? (s : State) (d : Die) (n : Nat) (kind : Fin 16) (g : BitVec 16) (c : Cab) (owner : BitVec 32) :
    Option (State × List (Stack × Fin 32768)) :=
  if s.freeOnDie d < n then none
  else
    let h0 : Stack := Fin.ofNat 32 (2 * d.val)
    let h1 : Stack := Fin.ofNat 32 (2 * d.val + 1)
    let (a, b) := splitPages n (s.freeOn h0) (s.freeOn h1)
    let (s1, l0) := s.allocOn h0 a kind g c owner
    let (s2, l1) := s1.allocOn h1 b kind g c owner
    some (s2, l0 ++ l1)

/-- Pages released that satisfy `p` (R339): the entry returns to FREE; a page of a rotation's previous generation lowers
PREV_PAGES by 1 (R388). The sectors stay as they are; what they hold is under a glove that no longer names the page. -/
def State.freePages (s : State) (p : Page → Bool) : State :=
  let gone := s.pages.filter fun x => x.kind != 0 && x.kind != PKind.withdrawn && p x
  let lower := fun (g : Glove) =>
    let n := (gone.filter fun x => x.glove == g.id && x.keyGen + 1 == g.gen).length
    if g.prevHeld then { g with prevPages := g.prevPages - n } else g
  let s := { s with pages := s.pages.filter fun x => !(x.kind != 0 && x.kind != PKind.withdrawn && p x),
                    rot := { s.rot with gloves := s.rot.gloves.map lower } }
  s.settleSweeps

/-- Two lists in turn, and the rest of the longer. -/
def inTurn {α : Type} : List α → List α → List α
  | a :: as, b :: bs => a :: b :: inTurn as bs
  | [], bs => bs
  | as, [] => as

/-- Pages of a die that satisfy `p`, in the order in which a portion lies in them: page by page in turn on the two stacks, the lower first
(R39, R242). -/
def State.turnPages (s : State) (d : Die) (p : Page → Bool) : List Page :=
  let on := fun (h : Stack) => sortBy (fun (x : Page) => x.page.val) (s.pages.filter fun x => x.stack == h && p x)
  match stacksOf d with
  | [a, b] => inTurn (on a) (on b)
  | _ => []

/-- The first address of a page (R332, R333). -/
def Page.base (p : Page) : Nat := p.stack.val * 2 ^ 36 + p.page.val * 2 ^ 21

/-- Bytes written through whole pages, in order, what is left of the last page zero; the write takes the place of the pages' fill. -/
def State.fillPages (s : State) : List Page → List Byte → State
  | [], _ => s
  | p :: ps, bs =>
    let s := ({ s with mem := (s.mem.zero p.base 0x200000).write p.base (bs.take 0x200000) } : State).setPage { p with zeroing := false }
    s.fillPages ps (bs.drop 0x200000)

/-- Pages of a byte count (R242). -/
def pagesFor (bytes : Nat) : Nat := cdiv bytes 0x200000

/-- Page allocation on several dies at once: all or none. -/
def State.allocAll? (s : State) (req : List (Die × Nat)) (kind : Fin 16) (g : BitVec 16) (c : Cab) (owner : BitVec 32) :
    Option State :=
  req.foldl (fun acc p => acc.bind fun s => (s.alloc? p.1 p.2 kind g c owner).map Prod.fst) (some s)

/-- Pages WITHDRAWN or kept from allocation (R364). -/
def State.withdrawnOn (s : State) (h : Stack) : Nat :=
  (s.pages.filter fun x => x.stack == h && x.kind == PKind.withdrawn).length +
    ((s.stk h).keptOut.filter fun p => (s.page h p).kind != PKind.withdrawn).length

/-- Pages of KIND FREE (R364). -/
def State.freeKind (s : State) (h : Stack) : Nat :=
  32768 - (s.pages.filter fun x => x.stack == h && x.kind != 0).length

/-- The dies that supply shelf pages to a die that lost a stack (R361): those named that are in service. -/
def State.suppliersOf (s : State) (d : Die) : List Die := (s.die d).suppliers.filter fun x => (s.die x).inService

/-- A stack's die receives shelf pages for it (R361). -/
def State.supplied (s : State) (h : Stack) : Bool := (s.stk h).failed && !(s.suppliersOf (dieOf h)).isEmpty

/-- A stack's copy is read for another die's failed stack of the same parity (R39, R361). -/
def State.supplying (s : State) (h : Stack) : Bool :=
  (List.finRange 16).any fun d =>
    (s.suppliersOf d).contains (dieOf h) && (s.stk (Fin.ofNat 32 (2 * d.val + h.val % 2))).failed

/-- The MEMORY_STATUS record (R364). -/
def State.memoryWords (s : State) (h : Stack) : List Word :=
  let x := s.stk h
  let cap := fun n => min n (2 ^ 32 - 1)
  [ word (put (cap x.corrected) 32 + cap x.uncorrectable), word (put (cap x.mismatch) 32 + cap x.onDie),
    word (put (min x.spareRows 0xffff) 48 + put (min x.spareLanes 0xff) 40 + put (s.withdrawnOn h) 24 +
      put (s.freeKind h) 8 + b2n x.inService + 2 * b2n (s.supplying h) + 4 * b2n (s.supplied h)),
    word x.patrolTime ]

def infoMemoryStatus : CmdInfo := ⟨0x0050, 8, 8, .zeroOrTenant, true, false, true, [[(58, 0)]], none⟩

/-- MEMORY_STATUS (R364). -/
def execMemoryStatus (src : Src) (req : Req) (s : State) : Out :=
  .next (s.ilnil infoMemoryStatus src req fun r ws s =>
    s.complete r Code.ok (s.memoryWords (Fin.ofNat 32 (bits (wordAt ws 0) 63 59))))

end Sys2Proof.Machine
end

