-- ==== Sys2Proof/Machine/Residency.lean ====
section
/-!
DEFINITION. The drawer table (R237 to R240), residencies and their pins (R241, R247 to R249), extra-expert claims (R252,
R253).
-/

namespace Sys2Proof.Machine

namespace SState
abbrev free : Fin 8 := 0
abbrev bound : Fin 8 := 1
abbrev evictPending : Fin 8 := 2
abbrev retiring : Fin 8 := 3
abbrev stale : Fin 8 := 4
abbrev failed : Fin 8 := 5
abbrev remaking : Fin 8 := 6
end SState

def State.residency? (s : State) (c : Cab) (n : Nat) (g : Die) : Option Residency :=
  s.residencies.find? fun x => x.cab == c && x.slot == n && x.group == g
def State.modResidency (s : State) (c : Cab) (n : Nat) (g : Die) (f : Residency → Residency) : State :=
  { s with residencies := updFirst (fun x => x.cab == c && x.slot == n && x.group == g) f s.residencies }
/-- A residency whose fetch has ended: one in EVICT_PENDING may still be on its way (R240, R259). -/
def Residency.complete (r : Residency) : Bool := r.state == 1 || (r.state == 2 && r.image.isSome)
/-- The residencies of a slot. -/
def State.residenciesOf (s : State) (c : Cab) (n : Nat) : List Residency :=
  s.residencies.filter fun x => x.cab == c && x.slot == n
/-- A fetch of the slot is in progress. -/
def State.fetching (s : State) (c : Cab) (n : Nat) : Bool :=
  s.fetches.any fun f => f.cab == c && f.slot == n && !f.dataset
/-- The pins of a slot over all its residencies. -/
def State.pinsOf (s : State) (c : Cab) (n : Nat) : Nat := ((s.residenciesOf c n).map Residency.pins).sum
/-- The span-group dies of a cabinet's group. -/
def State.groupOfCab (s : State) (c : Cab) (g : Die) : List Die := groupDies (s.cab c).span g

/-- The claims of a slot that has neither residency nor fetch are released (R253). -/
def State.dropClaims (s : State) (c : Cab) (n : Nat) : State :=
  if (s.residenciesOf c n).isEmpty && !s.fetching c n then
    { s with xclaims := s.xclaims.filter fun x => !(x.cab == c && x.slot == n) }
  else s

/-- Commands that wait for fetches that ended (R244): with a failure at once, with OK once no other fetch keeps them. -/
def State.answerFetch (s : State) (rs : List Reply) (code : Nat) : State :=
  rs.dedup.foldl (fun s r =>
    if code = Code.ok && s.fetches.any fun f => f.replies.contains r then s
    else
      ({ s with fetches := s.fetches.map fun f => { f with replies := f.replies.filter fun x => x != r } } : State).complete
        r code []) s

/-- A residency released: its pages freed, the residency gone (R248). -/
def State.releaseResidency (s : State) (c : Cab) (n : Nat) (g : Die) : State :=
  let ds := s.groupOfCab c g
  let s := match s.residency? c n g with
    | some r => if !r.complete then s else s.modSlot c n fun x => { x with lastDies := mapOf ds }
    | none => s
  let s := s.freePages fun x =>
    x.kind == PKind.drawer && x.cab == c && x.ownerRef == BitVec.ofNat 32 n && ds.contains (dieOf x.stack)
  let s := { s with residencies := s.residencies.filter fun x => !(x.cab == c && x.slot == n && x.group == g) }
  s.dropClaims c n

/-- The SLOT_GEN that a slot last had (R239). -/
def State.slotGen (s : State) (c : Cab) (n : Nat) : BitVec 16 := (assocGet (c.val, n) s.slotGens).getD 0

/-- The drawer table without a slot: its residencies released, its fetches gone, its binding gone (R240). -/
def State.freeSlot (s : State) (c : Cab) (n : Nat) : State :=
  let gone := s.fetches.filter fun f => f.cab == c && f.slot == n && !f.dataset
  let s := { s with fetches := s.fetches.filter fun f => !(f.cab == c && f.slot == n && !f.dataset) }
  let s := (s.residenciesOf c n).foldl (fun s r => s.releaseResidency c n r.group) s
  let s := s.freePages fun x => x.kind == PKind.drawer && x.cab == c && x.ownerRef == BitVec.ofNat 32 n
  let rs := ((s.slot? c n).map Slot.evictReplies).getD []
  let s := ({ s with slots := s.slots.filter fun x => !(x.cab == c && x.slot == n) } : State).dropClaims c n
  let s := s.completeAll (rs.map Prod.fst) Code.ok []
  s.answerFetch (gone.flatMap Fetch.replies) Code.slotNotBound

/-- An explicit eviction completes when none of the residencies it named is in EVICT_PENDING any more (R248), one that unbinds when the slot
is freed: once no residency of the slot is in EVICT_PENDING and none that was pinned meanwhile holds a pin (R249). A slot in EVICT_PENDING
that is not to be unbound then returns to BOUND. -/
def State.settleEvict (s : State) (c : Cab) (n : Nat) : State :=
  match s.slot? c n with
  | none => s
  | some x =>
    let left := (s.residenciesOf c n).filter fun r => r.state == 2
    let waits := fun (p : Reply × BitVec 16 × Bool) =>
      p.2.2 || left.any fun r => (s.groupOfCab c r.group).any fun d => hasDie p.2.1 d.val
    if (x.unbind || x.state = SState.retiring) && left.isEmpty && s.pinsOf c n = 0 then s.freeSlot c n
    else
      let s := s.modSlot c n fun y =>
        { y with state := if left.isEmpty && !y.unbind && y.state == SState.evictPending then SState.bound else y.state,
                 evictReplies := y.evictReplies.filter waits }
      s.completeAll ((x.evictReplies.filter fun p => !waits p).map Prod.fst) Code.ok []

/-- DRAWER pages held on a die for a cabinet. -/
def State.drawerPages (s : State) (c : Cab) (d : Die) : Nat :=
  (s.pages.filter fun x => x.kind == PKind.drawer && x.cab == c && dieOf x.stack == d).length

/-- SET_DRAWER_CACHE completes once the pages fit on every die (R260). -/
def State.settleCache (s : State) (c : Cab) : State :=
  let rs := (s.cab c).cacheReplies
  if !rs.isEmpty && (diesOf (s.cab c).dies).all fun d => decide (s.drawerPages c d ≤ 512 * (s.cab c).cacheGib) then
    (s.modCab c fun x => { x with cacheReplies := [] }).completeAll rs Code.ok []
  else s

/-- A pin more (R247). -/
def State.pin (s : State) (c : Cab) (n : Nat) (g : Die) : State :=
  s.modResidency c n g fun r => { r with pins := r.pins + 1 }

/-- A residency named by an eviction: released at once at pin count zero with the fetch that still brings it, else in EVICT_PENDING
(R248). -/
def State.evictOne (s : State) (c : Cab) (n : Nat) (g : Die) : State :=
  match s.residency? c n g with
  | none => s
  | some r =>
    if r.pins = 0 then
      let mine := fun (f : Fetch) => f.cab == c && f.slot == n && f.group == g && !f.dataset
      let gone := s.fetches.filter mine
      let s := { s with fetches := s.fetches.filter fun f => !mine f }
      (s.answerFetch (gone.flatMap Fetch.replies) Code.slotNotBound).releaseResidency c n g
    else s.modResidency c n g fun r => { r with state := 2 }

/-- A pin less (R247): a residency in EVICT_PENDING is released at zero (R248), a slot in RETIRING is freed (R256). -/
def State.unpin (s : State) (c : Cab) (n : Nat) (g : Die) : State :=
  let s := s.modResidency c n g fun r => { r with pins := r.pins - 1 }
  match s.residency? c n g with
  | some r =>
    let s := if r.state = 2 && r.pins = 0 then s.evictOne c n g else s
    (s.settleEvict c n).settleCache c
  | none => s

/-- A pin count at its maximum, 24 bits (R247). -/
def Residency.full (r : Residency) : Bool := decide (0xffffff ≤ r.pins)

/-- A request or a run names the slot (R238). -/
def State.named (s : State) (c : Cab) (n : Nat) : Bool :=
  ((s.slot? c n).bind Slot.run).isSome ||
    s.requests.any (fun q => q.cab == c && q.slot == some n && decide (q.state.val ≤ 2)) ||
    s.jobs.any (fun j => j.slot == some n && (match s.stream? j.stream.val with | some x => x.cab == c | none => false))

/-- The slot that R238 frees when none is free: BOUND, no pin, no residency being fetched, named by nothing, least recently
used. -/
def State.victimSlot (s : State) (c : Cab) : Option Slot :=
  minBy Slot.lastUse (s.slots.filter fun x =>
    x.cab == c && x.state == SState.bound && decide (s.pinsOf c x.slot = 0) && !s.fetching c x.slot && !s.named c x.slot)

/-- The slot that a bind takes (R238), the state with it free; none when no slot qualifies. -/
def State.takeSlot (s : State) (c : Cab) : Option (Nat × State) :=
  match firstFree (fun n => (s.slot? c n).isSome) 16384 0 with
  | some n => some (n, s)
  | none => (s.victimSlot c).map fun x => (x.slot, s.freeSlot c x.slot)

/-- The owner of a slot's drawer, where it is known. -/
def Slot.owner? (x : Slot) : Option (BitVec 32) := if x.known then some x.tenant else none

/-- A slot bound (R239): SLOT_GEN one higher. -/
def State.bindSlot (s : State) (c : Cab) (n : Nat) (handle : Word) (version : BitVec 32) (owner : Option (BitVec 32))
    (run : Option (BitVec 32)) : State :=
  let g := s.slotGen c n + 1
  let (t, s) := s.tick
  { s with
    slotGens := assocPut (c.val, n) g s.slotGens
    slots := s.slots ++ [{ cab := c, slot := n, gen := g, state := SState.bound, handle := handle, version := version,
                           tenant := owner.getD 0, known := owner.isSome, rank := 0, experts := 0, sharePages := 0, lastCode := 0, lastUse := t,
                           run := run, unbind := false, evictReplies := [], lastDies := 0, image := none }] }

/-- A use of a slot, for R238's order. -/
def State.touchSlot (s : State) (c : Cab) (n : Nat) : State :=
  let (t, s) := s.tick
  s.modSlot c n fun x => { x with lastUse := t }

/-- The catalog index of the active control die (R234). -/
def State.catalog (s : State) : List CatObj := (s.ct s.cp.active).catalog

/-- Bytes of namespace 2 (R494). -/
def namespace2 : Nat := 1000000000000

/-- Objects dropped, least recently used first, until the cache fits (R234). An object's index facts go with it: the rule does not say that
the index outlives the object (DESIGN CHOICE, assumption 90). -/
def trimCatalog : List CatObj → List CatObj
  | [] => []
  | o :: l => if ((o :: l).map CatObj.bytes).sum ≤ namespace2 then o :: l else trimCatalog l

/-- An object written to the active control die's cache. A catalog entry is immutable (R232): one that the cache holds stays as it is, unless
what stands there failed its tags and so never was the entry (R233, R235). -/
def State.cacheObj (s : State) (o : CatObj) : State :=
  s.modCt s.cp.active fun x =>
    let same := fun (y : CatObj) => y.handle == o.handle && y.version == o.version
    let kept := (x.catalog.find? fun y => same y && y.tagsOk).getD o
    { x with catalog := trimCatalog ((x.catalog.filter fun y => !same y) ++ [kept]) }

/-- The version to which a handle resolves (R232): the highest whose measurement is the mounted shelf's, else the highest. -/
def State.resolve (s : State) (c : Cab) (handle : Word) : Option CatObj :=
  let all := s.catalog.filter fun o => o.handle == handle
  let fit := all.filter fun o => some o.meas == (s.cab c).shelf.map ShelfImage.meas
  let best := fun (l : List CatObj) => minBy (fun o => 2 ^ 32 - o.version.toNat) l
  match best fit with
  | some o => some o
  | none => best all

/-- The slot of a cabinet to which admission resolves a handle: the one that is not RETIRING (R256). -/
def State.slotOf (s : State) (c : Cab) (handle : Word) : Option Slot :=
  s.slots.find? fun x => x.cab == c && x.handle == handle && x.run.isNone && x.state != SState.retiring && handle != 0

/-- The owner of a handle, from the index or from a slot. -/
def State.ownerOf (s : State) (handle : Word) : Option (BitVec 32) :=
  match s.catalog.find? fun o => o.handle == handle with
  | some o => some o.tenant
  | none => (s.slots.find? fun x => x.handle == handle && x.run.isNone && x.known).map Slot.tenant

/-- The layers that position `p` of a split holds: first and last + 1 (R39). -/
def layersAt (split : List Nat) (p : Nat) : Nat × Nat := ((split.take p).sum, (split.take (p + 1)).sum)

/-- The position of a die in its span group (R37). -/
def posOf (span : Nat) (d : Die) : Nat := if span = 0 then 0 else d.val % span

/-- Bytes of a drawer's serving share on layers [lo, hi) (R241): the padded BF16 planes of its projections there, and the
BF16 two thirds of its extra experts there (R231). -/
def shareBytes (img : DrawerImage) (lo hi : Nat) : Nat :=
  let r := bits (wordAt img.header 0) 55 48
  let inLayers := fun (w : Word) => decide (lo ≤ bits w 63 48) && decide (bits w 63 48 < hi)
  ((img.projTable.filter fun p => inLayers p.1).map fun p =>
      pad64 (2 * bits p.1 39 20 * r) + pad64 (2 * r * bits p.1 19 0)).sum +
    ((img.expertTable.filter fun p => inLayers p.1).map fun p => bits p.1 31 0 * 2 / 3).sum

/-- The bytes of a plane of 16-bit codes, padded to a multiple of 64 (R231). -/
def planeBytes (rows : List (List Nat)) : List Byte :=
  let b := rows.flatten.flatMap fun x => leBytes 2 x
  b ++ List.replicate (pad64 b.length - b.length) 0

/-- A drawer's serving share on layers [lo, hi) as bytes (R241): in image order, the BF16 planes of its projections, then the BF16 planes of
its extra experts. -/
def shareData (img : DrawerImage) (lo hi : Nat) : List Byte :=
  let inLayers := fun (w : Word) => decide (lo ≤ bits w 63 48) && decide (bits w 63 48 < hi)
  (((img.projTable.zip img.factors).filter fun p => inLayers p.1.1).flatMap fun p => planeBytes p.2.a ++ planeBytes p.2.b) ++
    ((img.expertTable.zip img.experts).filter fun p => inLayers p.1.1).flatMap fun p => p.2.1.flatMap fun x => leBytes 2 x

/-- The serving share written into the pages reserved on each die of the group (R245 step 10), the rest of the last page zero (R242). -/
def State.writeShare (s : State) (c : Cab) (n : Nat) (g : Die) (img : DrawerImage) : State :=
  (s.groupOfCab c g).foldl (fun (s : State) d =>
    let (lo, hi) := layersAt (s.cab c).split (posOf (s.cab c).span d)
    s.fillPages (s.turnPages d fun p => p.kind == PKind.drawer && p.cab == c && p.ownerRef == BitVec.ofNat 32 n) (shareData img lo hi)) s

/-- Pages of the serving share on a die (R242). -/
def State.sharePagesOn (s : State) (c : Cab) (img : DrawerImage) (d : Die) : Nat :=
  let (lo, hi) := layersAt (s.cab c).split (posOf (s.cab c).span d)
  pagesFor (shareBytes img lo hi)

end Sys2Proof.Machine
end

