-- ==== Sys2Proof/Machine/Work.lean ====
section
/-!
DEFINITION. The work that the command processor holds: serving requests and their ends (R54 to R56), the shelf's release
(R41), tile grants (R85, R86), tensors (R71), and the end of jobs and streams (R63, R65, R71).
-/

namespace Sys2Proof.Machine

/-! ## Requests -/

namespace RState
abbrev queued : Fin 5 := 0
abbrev admitted : Fin 5 := 1
abbrev seated : Fin 5 := 2
abbrev done : Fin 5 := 3
abbrev ended : Fin 5 := 4
end RState

/-- A request that is admitted and has not finished (R55). -/
def Request.live (q : Request) : Bool := q.state == RState.admitted || q.state == RState.seated

/-- Admitted requests or running steps in a cabinet. -/
def State.liveIn (s : State) (c : Cab) : Bool := s.requests.any fun q => q.cab == c && q.live

/-- A run whose step may be in flight, so that an unmount waits for it. -/
def Run.busy (r : Run) : Bool := r.state == 0 || r.state == 1 || r.state == 2 || r.state == 4

/-- The shelf's release (R41): its pages and programs, every residency, fetch and claim (R253, R254), the serving stream and
the shelf glove (R375) go; UNMOUNT_SHELF completes. -/
def State.releaseShelf (s : State) (c : Cab) : State :=
  let x := s.cab c
  let gone := s.fetches.filter fun f => f.cab == c
  let s := { s with fetches := s.fetches.filter fun f => f.cab != c }
  let s := s.answerFetch (gone.flatMap Fetch.replies) Code.noShelf
  let s := (s.residencies.filter fun r => r.cab == c).foldl (fun s r => s.releaseResidency c r.slot r.group) s
  let s := (s.slots.filter fun y => y.cab == c).foldl (fun (s : State) y => s.settleEvict c y.slot) s
  let empty : DieSt → DieSt := fun d => { d with arrived := [], onLink := [], again := [], tokensOnWay := [], panelNext := none }
  let s := (diesOf x.dies).foldl (fun (s : State) d => s.modDie d empty) s
  let s := { s with xclaims := s.xclaims.filter fun y => y.cab != c,
                    programs := s.programs.filter fun p => p.cab != c,
                    streams := s.streams.filter fun t => some t.id != x.serving }
  let s := s.freePages fun p => (p.kind == PKind.shelf || p.kind == PKind.program) && p.cab == c
  let s := s.discardGlove (BitVec.ofNat 16 (0x10 + c.val))
  let s := s.modCab c fun y =>
    { y with state := 1, shelf := none, split := [], serving := none, unmount := none, mountReply := none }
  match x.unmount with
  | some (_, rs) => s.completeAll rs Code.ok []
  | none => s

/-- A seating of a cabinet has not yet finished the pass that it is in (R41, R42). -/
def State.passesIn (s : State) (c : Cab) : Bool :=
  (diesOf (s.cab c).dies).any fun d => (s.die d).pass.isSome || (s.die d).arrived.any Pass.mid

/-- A cabinet whose unmount waits for nothing more releases its shelf (R41). -/
def State.settleUnmount (s : State) (c : Cab) : State :=
  if (s.cab c).state = 4 && !s.liveIn c && !s.passesIn c && !(s.runs.any fun r => r.cab == c && r.busy) then s.releaseShelf c else s

/-- A request ends or completes (R55, R56, R247): its key-value pages are freed and its pin drops. -/
def State.closeRequest (s : State) (i : Nat) (st : Fin 5) (code : Nat) : State :=
  match s.request? i with
  | none => s
  | some q =>
    if q.state = RState.done || q.state = RState.ended then s
    else
      let s := s.modRequest i fun q =>
        { q with state := st, code := code, ready := 0, inPass := false, passedOver := false, pinned := false, kvPages := 0, ended := s.now }
      let s := s.freePages fun x => x.kind == PKind.kv && x.ownerRef == BitVec.ofNat 32 i
      let s := if st = RState.done then
          s.modCab q.cab fun c => { c with counters := { c.counters with done := c.counters.done + 1 } }
        else s
      let s := match q.pinned, q.slot, q.group with
        | true, some n, some g => s.unpin q.cab n g
        | _, _, _ => s
      s.settleUnmount q.cab

/-- A request ends with a code (R55). -/
def State.endRequest (s : State) (i : Nat) (code : Nat) : State := s.closeRequest i RState.ended code

/-- Every request that satisfies `p` and has not finished ends with a code. -/
def State.endRequests (s : State) (p : Request → Bool) (code : Nat) : State :=
  (s.requests.filter fun q => decide (q.state.val ≤ 2) && p q).foldl (fun s q => s.endRequest q.id code) s

/-! ## Tiles and grants -/

def State.tile? (s : State) (d : Die) (c : Phys) (e pt : Fin 8) : Option Tile :=
  s.tiles.find? fun t => t.die == d && t.cl == c && t.engine == e && t.pt == pt

/-- A tile with no owner and every entry empty. -/
def Tile.fresh (d : Die) (c : Phys) (e pt : Fin 8) : Tile :=
  { die := d, cl := c, engine := e, pt := pt, owner := none, pair := false, sat := false, entries := [], rowMarks := [] }

def State.tile (s : State) (d : Die) (c : Phys) (e pt : Fin 8) : Tile := (s.tile? d c e pt).getD (Tile.fresh d c e pt)

/-- A tile written; one that holds nothing and belongs to nobody is not listed. -/
def State.setTile (s : State) (t : Tile) : State :=
  let rest := s.tiles.filter fun u => !(u.die == t.die && u.cl == t.cl && u.engine == t.engine && u.pt == t.pt)
  { s with tiles := if t = Tile.fresh t.die t.cl t.engine t.pt then rest else rest ++ [t] }

def State.grant? (s : State) (st : Fin 4096) (d : Die) (c : Phys) (e : Fin 8) : Option Grant :=
  s.grants.find? fun g => g.stream == st && g.die == d && g.cl == c && g.engine == e

/-- Physical tiles of an engine in no stream's grant. R85 does not say which free tiles a grant takes: the model takes them lowest
number first (DESIGN CHOICE, assumption 77). -/
def State.freeTiles (s : State) (d : Die) (c : Phys) (e : Fin 8) : List (Fin 8) :=
  let held := (s.grants.filter fun g => g.die == d && g.cl == c && g.engine == e).flatMap Grant.tiles
  (List.finRange 8).filter fun p => !held.contains p

/-- The tiles of a job on one engine (R85): what the stream holds, and the difference, all of it or none. Each tile
newly granted is zeroed and tagged (R86). -/
def State.grantOne? (s : State) (st : Fin 4096) (n : Nat) (d : Die) (c : Phys) (e : Fin 8) : Option State :=
  let have_ := ((s.grant? st d c e).map Grant.tiles).getD []
  if n ≤ have_.length then some s
  else
    let more := (s.freeTiles d c e).take (n - have_.length)
    if have_.length + more.length < n then none
    else
      let s := more.foldl (fun s p => s.setTile { Tile.fresh d c e p with owner := some st }) s
      let rest := s.grants.filter fun g => !(g.stream == st && g.die == d && g.cl == c && g.engine == e)
      some { s with grants := rest ++ [{ stream := st, die := d, cl := c, engine := e, tiles := have_ ++ more }] }

/-- A grant ends as a whole (R85): its tiles are zeroed and untagged (R86). -/
def State.endGrant (s : State) (g : Grant) : State :=
  let s := g.tiles.foldl (fun s p => s.setTile (Tile.fresh g.die g.cl g.engine p)) s
  { s with grants := s.grants.filter fun x => x != g }

/-! ## Tensors -/

def State.tensor? (s : State) (st : Fin 4096) (h : BitVec 32) (d : Die) : Option Tensor :=
  s.tensors.find? fun t => t.stream == st && t.handle == h && t.die == d
def State.modTensor (s : State) (st : Fin 4096) (h : BitVec 32) (d : Die) (f : Tensor → Tensor) : State :=
  { s with tensors := updFirst (fun t => t.stream == st && t.handle == h && t.die == d) f s.tensors }

/-- Tensors that satisfy `p` are released with their pages (R71, R339). -/
def State.freeTensors (s : State) (p : Tensor → Bool) : State :=
  let gone := (s.tensors.filter p).flatMap Tensor.pages
  let s := s.freePages fun x => gone.contains (x.stack, x.page)
  { s with tensors := s.tensors.filter fun t => !p t }

/-- The glove of a stream's owner (R71): the tenant's, or the operator's (R375). -/
def State.streamGlove (s : State) (x : Stream) : BitVec 16 :=
  if x.owner = 1 then ((s.tenantGlove? x.tenant).map Glove.id).getD 0 else 1

/-! ## Ends of jobs and streams -/

/-- A glove that closes (R390): once the tenant has no stream left its slots are unbound, its pages released, and the glove
is erased. -/
def State.settleClose (s : State) (t : BitVec 32) : State :=
  match s.tenantGlove? t with
  | none => s
  | some g =>
    if g.phase != 6 || s.streams.any fun x => x.owner == 1 && x.tenant == t then s
    else
      let s := (s.slots.filter fun x => x.tenant == t).foldl (fun (s : State) x => s.freeSlot x.cab x.slot) s
      (s.freePages fun p => p.glove == g.id).beginErase g.id

/-- The stream is released (R65): its tiles, its tensors, its claims (R457), the pieces of a token (R403), its DESTROY_STREAM requests complete. -/
def State.releaseStream (s : State) (i : Fin 4096) : State :=
  let t := s.stream? i.val
  let rs := (t.map Stream.closing).getD []
  let s := (s.grants.filter fun g => g.stream == i).foldl (fun s g => s.endGrant g) s
  let s := s.freeTensors fun t => t.stream == i
  let s := { s with streams := s.streams.filter fun x => x.id != i,
                    rot := { s.rot with assemblies := s.rot.assemblies.filter fun p => p.1 != i } }
  let s := s.modCp fun c =>
    { c with timers := c.timers.filter fun t => t.stream != i,
             traceRing := if c.traceRing = some (.stream i) then none else c.traceRing }
  let s := s.completeAll rs Code.ok []
  match t with
  | some x => if x.owner = 1 then s.settleClose x.tenant else s
  | none => s

/-- DESTROY_STREAM completes once every job has retired (R65). -/
def State.settleStream (s : State) (i : Fin 4096) : State :=
  match s.stream? i.val with
  | some x => if x.isClosing && !(s.jobs.any fun j => j.stream == i) then s.releaseStream i else s
  | none => s

/-- The program of a job. -/
def State.jobProgram? (s : State) (j : Job) : Option ProgramImage :=
  (s.stream? j.stream.val).bind fun x =>
    (s.programs.find? fun p => p.cab == x.cab && p.image.programId == j.program).map Program.image

/-- The descriptors of a job, in program order (R71). -/
def State.jobDescs (s : State) (j : Job) : List (List Word) :=
  match s.jobProgram? j with
  | some p => (p.descs.drop j.entry).take j.count
  | none => []

/-- The vector text of a job's program. -/
def State.jobText (s : State) (j : Job) : List Word := ((s.jobProgram? j).map ProgramImage.text).getD []

/-- A descriptor of matrix kind has eight words, of vector kind twelve (R109, R198). -/
def isMatrix (d : List Word) : Bool := d.length == 8

/-- The body of a vector descriptor in the program's text (R198); none of it for a library body, which lies beyond any text. -/
def bodyWords (text d : List Word) : List Word := (text.drop (bits (wordAt d 1) 63 44)).take (bits (wordAt d 1) 43 36 + 1)

/-- The matrix engines of a cluster whose tiles a descriptor uses, as a mask: those that a matrix descriptor names (R109), those
that the TLD and TST of a vector body name (R202). -/
def tileEngines (text d : List Word) : Nat :=
  if isMatrix d then bits (wordAt d 1) 15 8
  else ((bodyWords text d).filter fun w => bits w 63 56 == 0x38 || bits w 63 56 == 0x39).foldl
    (fun m w => m ||| 1 <<< bits w 37 35) 0

/-- The engines whose tiles a job uses, on each die by its map (R85): of each descriptor, those it names in the clusters that it
names. -/
def State.jobEngines (s : State) (j : Job) : List (Die × Phys × Fin 8) :=
  let uses := (s.jobDescs j).map fun d => (bits (wordAt d 1) 7 0, tileEngines (s.jobText j) d)
  (diesOf j.dies).flatMap fun d =>
    let m := (s.die d).map
    (List.range m.length).flatMap fun l =>
      ((List.finRange 8).filter fun e => uses.any fun u => u.1.testBit l && u.2.testBit e.val).map fun e => (d, m.getD l 0, e)

/-- Grants of a stream on engines that no unretired job of it uses end (R85); a halted stream keeps its grants (R179). -/
def State.settleGrants (s : State) (st : Fin 4096) : State :=
  if ((s.stream? st.val).map fun x => x.halted && !x.isClosing).getD false then s else
  let used := (s.jobs.filter fun j => j.stream == st).flatMap fun j => s.jobEngines j
  (s.grants.filter fun g => g.stream == st && !used.contains (g.die, g.cl, g.engine)).foldl (fun s g => s.endGrant g) s

/-- The span groups that hold a die of a job (R71). -/
def State.jobGroups (s : State) (c : Cab) (m : BitVec 16) : List Die :=
  ((diesOf m).map fun d => groupOf (s.cab c).span d).dedup

/-- A vector engine that held a descriptor of a job that has ended holds none. -/
def VEngine.drop (st : Fin 4096) (q : BitVec 32) (v : VEngine) : VEngine :=
  if bits (wordAt v.desc 0) 23 12 == st.val && v.jobSeq == q then { v with desc := [], emitted := [], body := [], undo := [] } else v

/-- A job retires with a code (R63, R71): its COMPLETION carries the trap record when it ended with NAN_TRAP (R177);
tensors with RELEASE go, its pins drop, grants that no job needs end, a closing stream may be released. -/
def State.endJob (s : State) (st : Fin 4096) (q : BitVec 32) (code : Nat) : State :=
  match s.job? st q with
  | none => s
  | some j =>
    let cab := ((s.stream? st.val).map Stream.cab).getD 0
    let purge : DieSt → DieSt := fun d => { d with queue := d.queue.filter fun x => !(x.1 == st && x.2.1 == q) }
    let s := { s with jobs := s.jobs.filter fun x => !(x.stream == st && x.seq == q),
                      flights := s.flights.filter fun f => !(f.stream == st && f.issue.jobSeq == q),
                      vengines := s.vengines.map (VEngine.drop st q),
                      dies := s.dies.map purge }
    let s := s.finish j.reply q.toNat code (if code = Code.nanTrap then j.record else [])
    let s := s.freeTensors fun t =>
      t.stream == st && j.bindings.any fun b => b.release && b.handle == t.handle
    let s := match j.slot with
      | some n => j.pins.foldl (fun (s : State) g => s.unpin cab n g) s
      | none => s
    (s.settleGrants st).settleStream st

/-- Every job that satisfies `p` ends with a code, in sequence order. -/
def State.endJobs (s : State) (p : Job → Bool) (code : Nat) : State :=
  (s.jobs.filter p).foldl (fun s j => s.endJob j.stream j.seq code) s

end Sys2Proof.Machine
end

