-- ==== Sys2Proof/Machine/RunBase.lean ====
section
/-!
DEFINITION. Adaptation runs: their chains and parameters (R265, R279), fresh drawers (R267), placement (R278), buckets and
descriptors of a step (R299 to R302), the start of a step, its discard and re-run (R285, R449), its commit (R283, R284).
-/

namespace Sys2Proof.Machine

namespace RunSt
abbrev starting : Fin 8 := 0
abbrev running : Fin 8 := 1
abbrev committing : Fin 8 := 2
abbrev trapped : Fin 8 := 3
abbrev stopping : Fin 8 := 4
abbrev stopped : Fin 8 := 5
abbrev done : Fin 8 := 6
abbrev failed : Fin 8 := 7
end RunSt

/-- The dies in hatband order (R24). -/
def ringOrder : List Die := [0, 1, 2, 3, 7, 6, 5, 4, 8, 9, 10, 11, 15, 14, 13, 12]

/-- The place of a die on the ring. -/
def ringPos (d : Die) : Nat := (ringOrder.idxOf d)

def State.spanOf (s : State) (r : Run) : Nat := (s.cab r.cab).span
/-- The span groups of a run, by their lowest dies (R265). -/
def State.runGroups (s : State) (r : Run) : List Die := (diesOf r.dies).filter fun d => groupOf (s.spanOf r) d == d
/-- The chain at a position, in hatband order (R265). -/
def State.chainOf (s : State) (r : Run) (p : Nat) : List Die :=
  ringOrder.filter fun d => hasDie r.dies d.val && posOf (s.spanOf r) d == p
/-- The layers at a position of a cabinet's shelf. -/
def State.layersOf (s : State) (c : Cab) (p : Nat) : Nat × Nat := layersAt (s.cab c).split p

/-! ## Policies (R449, R496) -/

def State.policy (s : State) (n : Nat) : Policy := s.cp.policies.getD (n - 1) Policy.reset

/-- POLICY_ACTION (R445, R496): severity DEGRADED for the actions that take a block out of service. -/
def State.policyAct (s : State) (policy object : Nat) : State :=
  let out := policy = 1 || policy = 2 || policy = 6 || policy = 9
  s.logReport { cls := Cls.policyAction, severity := if out then 2 else 1, block := 11, unit := 0, die := 0, cab := none,
                d2 := word (put policy 56 + put policy 48 + object), d3 := 0, touched := [] } policy policy

/-! ## Parameters (R279) -/

/-- The parameters of one projection, A plane then B plane, each with its remainder. -/
def factorParams (f : FactorData) : List (Nat × Nat) :=
  (f.a.flatten.zip f.ar.flatten) ++ (f.b.flatten.zip f.br.flatten)

/-- A table entry lies on layers [lo, hi). -/
def inLayers (lo hi : Nat) (w : Word) : Bool := decide (lo ≤ bits w 63 48) && decide (bits w 63 48 < hi)

/-- The parameters of a drawer on layers [lo, hi), in the order of R279. -/
def imgParams (img : DrawerImage) (lo hi : Nat) : List (Nat × Nat) :=
  (((img.projTable.zip img.factors).filter fun p => inLayers lo hi p.1.1).flatMap fun p => factorParams p.2) ++
    (((img.expertTable.zip img.experts).filter fun p => inLayers lo hi p.1.1).flatMap fun p => p.2.1.zip p.2.2)

/-- The initial state of a run's parameters: the source's weights and remainders, optimiser state +0 (R279). -/
def State.initParams (s : State) (c : Cab) (img : DrawerImage) : List ParamState :=
  (List.range (s.cab c).span).flatMap fun p =>
    let (lo, hi) := s.layersOf c p
    (imgParams img lo hi).zipIdx.map fun x =>
      { position := Fin.ofNat 4 p, index := x.2, w := BitVec.ofNat 16 x.1.1, r := BitVec.ofNat 8 x.1.2, m := 0, v := 0 }

/-- The parameters of a position, by index. -/
def paramsAt (ps : List ParamState) (p : Nat) : List ParamState :=
  sortBy ParamState.index (ps.filter fun x => x.position.val == p)

/-- A list cut into rows of `n`. -/
def cutRows {α : Type} (n : Nat) : Nat → List α → List (List α)
  | 0, _ => []
  | k + 1, l => l.take n :: cutRows n k (l.drop n)

/-- Header and tables of an image with given contents, its data sections one after another from 0x1_0000 (R229 to R231). -/
def layoutImage (rank alpha epoch : Nat) (handle : Word) (tenant version : Nat) (meas : BitVec 512)
    (projs : List (Nat × Nat × Nat × Nat)) (factors : List FactorData) (xp : List (Nat × Nat × Nat))
    (experts : List (List Nat × List Nat)) : DrawerImage :=
  let dataOf := fun (k n : Nat) => pad64 (2 * k * rank) + pad64 (2 * rank * n) + pad64 (k * rank) + pad64 (rank * n)
  let t := projs.foldl (fun (acc : Nat × List (Word × Word)) p =>
    (acc.1 + dataOf p.2.2.1 p.2.2.2,
     acc.2 ++ [(word (put p.1 48 + put p.2.1 40 + put p.2.2.1 20 + p.2.2.2), word acc.1)])) (0x10000, [])
  let x := xp.foldl (fun (acc : Nat × List (Word × Word)) p =>
    (acc.1 + pad64 p.2.2, acc.2 ++ [(word (put p.1 48 + put p.2.1 42 + p.2.2), word acc.1)])) (t.1, [])
  { header := [word (put 1 56 + put rank 48 + put xp.length 40 + projs.length), handle, word (put tenant 32 + version),
               word x.1, word (put alpha 48), word (put epoch 32), 0, 0] ++ words512 meas,
    projTable := t.2, expertTable := x.2, factors := factors, experts := experts }

/-- ⌈log₂⌉. -/
def ceilLog2 (n : Nat) : Nat := bitLen (n - 1)

/-- The A plane of a fresh drawer's projection `e` (R267). -/
def freshA (seed e k r : Nat) : List (List (Nat × Nat)) :=
  let sh : Nat := ceilLog2 k / 2
  let sd := seed ^^^ (e * 0x9e3779b1 % 2 ^ 32)
  (List.range k).map fun i => (List.range r).map fun j =>
    let h : Int := (srBits sd ((i * r + j) % 2 ^ 32) : Int) - 32768
    let (w, q, _) := splitW (.fin (decide (h < 0)) h.natAbs (-15 - (sh : Int))) Counts.zero
    (w, q)

/-- The adaptable projections of a shelf: layer, projection, K, N (R228). -/
def adaptable (sh : ShelfImage) : List (Nat × Nat × Nat × Nat) :=
  sh.layers.zipIdx.flatMap fun l => (l.1.projs.filter ProjInfo.adaptable).map fun p => (l.2, p.proj, p.k, p.n)

/-- A fresh drawer (R267). -/
def freshImage (sh : ShelfImage) (rank alpha seed : Nat) (tenant : Nat) : DrawerImage :=
  let ps := adaptable sh
  let fs := ps.zipIdx.map fun p =>
    let a := freshA seed p.2 p.1.2.2.1 rank
    let zs := List.replicate rank (List.replicate p.1.2.2.2 0)
    ({ a := a.map fun r => r.map Prod.fst, b := zs, ar := a.map fun r => r.map Prod.snd, br := zs } : FactorData)
  layoutImage rank alpha 0 0 tenant 0 sh.meas ps fs [] []

/-- The projection entries and experts of an image in the form `layoutImage` takes. -/
def projsOf (img : DrawerImage) : List (Nat × Nat × Nat × Nat) :=
  img.projTable.map fun p => (bits p.1 63 48, bits p.1 47 40, bits p.1 39 20, bits p.1 19 0)
def expertsOf (img : DrawerImage) : List (Nat × Nat × Nat) :=
  img.expertTable.map fun p => (bits p.1 63 48, bits p.1 47 42, bits p.1 31 0)

def rankOf (img : DrawerImage) : Nat := bits (wordAt img.header 0) 55 48
def alphaOf (img : DrawerImage) : Nat := bits (wordAt img.header 4) 63 48

/-- Parameters of table entry `i` that precede it on its own position (R279). -/
def paramBase (img : DrawerImage) (lo hi i : Nat) : Nat :=
  (((projsOf img).take i).filter fun p => decide (lo ≤ p.1) && decide (p.1 < hi)).map
    (fun p => rankOf img * (p.2.2.1 + p.2.2.2)) |>.sum

/-- The factors of an image with a run's parameters put in (R279, R290). -/
def State.withParams (s : State) (c : Cab) (img : DrawerImage) (ps : List ParamState) : DrawerImage :=
  let r := rankOf img
  let span := (s.cab c).span
  let posFor := fun (l : Nat) => ((List.range span).find? fun p =>
    let b := s.layersOf c p
    decide (b.1 ≤ l) && decide (l < b.2)).getD 0
  let fs := (projsOf img).zipIdx.map fun x =>
    let (l, _, k, n) := x.1
    let p := posFor l
    let (lo, hi) := s.layersOf c p
    let mine := (paramsAt ps p).drop (paramBase img lo hi x.2)
    let a := cutRows r k (mine.take (k * r))
    let b := cutRows n r ((mine.drop (k * r)).take (r * n))
    let w := fun (rows : List (List ParamState)) => rows.map fun q => q.map fun y => y.w.toNat
    let rem := fun (rows : List (List ParamState)) => rows.map fun q => q.map fun y => y.r.toNat
    ({ a := w a, b := w b, ar := rem a, br := rem b } : FactorData)
  let xs := (img.expertTable.zip img.experts).zipIdx.map fun x =>
    let p := posFor (bits x.1.1.1 63 48)
    let (lo, hi) := s.layersOf c p
    let before := ((img.expertTable.zip img.experts).take x.2).filter fun y => inLayers lo hi y.1.1
    let base := paramBase img lo hi img.projTable.length + (before.map fun y => y.2.1.length).sum
    let mine := ((paramsAt ps p).drop base).take x.1.2.1.length
    (mine.map fun y => y.w.toNat, mine.map fun y => y.r.toNat)
  { img with factors := fs, experts := xs }

/-- Parameters on each position of an image: P of R279 per position. -/
def State.paramCount (s : State) (c : Cab) (img : DrawerImage) (p : Nat) : Nat :=
  let (lo, hi) := s.layersOf c p
  (((projsOf img).filter fun x => decide (lo ≤ x.1) && decide (x.1 < hi)).map
      fun x => rankOf img * (x.2.2.1 + x.2.2.2)).sum +
    (((expertsOf img).filter fun x => decide (lo ≤ x.1) && decide (x.1 < hi)).map fun x => x.2.2 / 3).sum

/-- Shard `d` of P parameters among D owners: first index and the one past the last (R279). -/
def shardOf (P D d : Nat) : Nat × Nat := (P * d / D, P * (d + 1) / D)

/-- Bytes of R289 per die: residencies, gradient buffer, own shard and replica. -/
def runBytes (P shard : Nat) (adamw : Bool) : Nat :=
  let per := if adamw then 9 else 5
  2 * pagesFor (2 * P) * 0x200000 + 8 * P + 2 * (2 * per * shard)

/-- A run's layer is thinned: q of R323, 0 for none. Later settings of a layer replace earlier ones. -/
def thinAt (thin : List (Nat × Nat × Nat)) (layer : Nat) : Nat :=
  ((thin.filter fun t => decide (t.1 ≤ layer) && decide (layer ≤ t.2.1)).getLast?.map fun t => t.2.2).getD 0

/-- Pages for the feedback of thinned parameters on a die at position `p` (R326). -/
def State.thinPages (s : State) (r : Run) (img : DrawerImage) (p : Nat) : Nat :=
  let (lo, hi) := s.layersOf r.cab p
  if (s.runGroups r).length ≤ 1 then 0
  else pagesFor (16 * ((projsOf img).filter fun x =>
    decide (lo ≤ x.1) && decide (x.1 < hi) && thinAt r.thinNext x.1 != 0).foldl (fun a x => a + rankOf img * (x.2.2.1 + x.2.2.2)) 0)

/-- Pages of a run on each die of its group: RUN pages, then SAVED pages for the spill (R289). -/
def State.runPages (s : State) (r : Run) (img : DrawerImage) : List (Die × Nat) :=
  (diesOf r.dies).map fun d =>
    let p := posOf (s.spanOf r) d
    let P := s.paramCount r.cab img p
    let D := (s.chainOf r p).length
    (d, pagesFor (runBytes P (cdiv P D) (r.opt.val == 0)) + s.thinPages r img p)

/-- The run's state allocated (R289), or none when a die lacks the space. -/
def State.allocRun? (s : State) (r : Run) (img : DrawerImage) : Option State :=
  let g := ((s.tenantGlove? r.tenant).map Glove.id).getD 0
  (s.allocAll? (s.runPages r img) PKind.run g r.cab r.id).bind fun s =>
    s.allocAll? ((diesOf r.dies).map fun d => (d, 512 * r.saveGib)) PKind.saved g r.cab r.id

/-- The RUN and SAVED pages of a run are released. -/
def State.freeRunPages (s : State) (id : BitVec 32) : State :=
  s.freePages fun x => (x.kind == PKind.run || x.kind == PKind.saved) && x.ownerRef == id

/-! ## Buckets (R299 to R302) -/

/-- The indexes of a position's parameters that belong to thinned projections (R299, R323). -/
def State.thinnedAt (s : State) (r : Run) (img : DrawerImage) (p : Nat) : List (Nat × Nat) :=
  let (lo, hi) := s.layersOf r.cab p
  (projsOf img).zipIdx.filterMap fun x =>
    if decide (lo ≤ x.1.1) && decide (x.1.1 < hi) && thinAt r.thin x.1.1 != 0 then
      some (paramBase img lo hi x.2, paramBase img lo hi x.2 + rankOf img * (x.1.2.2.1 + x.1.2.2.2))
    else none

/-- The parameter indexes of shard `d` that travel unthinned, ascending (R299). -/
def State.shardParams (s : State) (r : Run) (img : DrawerImage) (p d : Nat) : List Nat :=
  let D := (s.chainOf r p).length
  let (lo, hi) := shardOf (s.paramCount r.cab img p) D d
  let thin := if D ≤ 1 then [] else s.thinnedAt r img p
  ((List.range (hi - lo)).map fun i => lo + i).filter fun i =>
    !(thin.any fun t => decide (t.1 ≤ i) && decide (i < t.2))

/-- The factors of a position's thinned projections in projection-table order: entry, q, elements of P and of Q (R325). -/
def State.factorList (s : State) (r : Run) (img : DrawerImage) (p : Nat) : List (Nat × Nat × Nat × Nat) :=
  let (lo, hi) := s.layersOf r.cab p
  (projsOf img).zipIdx.filterMap fun x =>
    let q := thinAt r.thin x.1.1
    if decide (lo ≤ x.1.1) && decide (x.1.1 < hi) && q != 0 then some (x.2, q, q * rankOf img, rankOf img * q) else none

/-- Runs of `b` elements: first place and length of each. -/
def cutBuckets (b n : Nat) : List (Nat × Nat) :=
  if b = 0 then [] else (List.range (cdiv n b)).map fun k => (k * b, min b (n - k * b))

/-- The chain order of a bucket (R299): from the member after its owner, in its direction, to the owner. -/
def chainOrder (chain : List Die) (owner : Nat) (descending : Bool) : List Die :=
  let D := chain.length
  (List.range D).map fun i =>
    chain.getD ((if descending then owner + (D - 1 - i) else owner + 1 + i) % D) 0

/-- A reduction as its descriptor makes it (R302). -/
def State.mkReduction (s : State) (r : Run) (p : Nat) (chain : List Die) (owner k first elems : Nat) (bcast : Bool) :
    Reduction :=
  let desc := k % 2 == 1
  { id := s.nextRed, run := r.id, step := r.epoch.toNat + 1, position := Fin.ofNat 4 p,
    chain := chainOrder chain owner desc, owner := chain.getD owner 0, descending := desc, ordered := r.ordered,
    bcast := bcast, wire := r.settings.wire, firstParam := first, elems := elems, deadline := r.settings.deadline,
    tauExp := r.settings.tauExp, headroom := headroomOf r.settings.headroom chain.length, state := 0, cause := 0,
    ready := 0, queued := 0, marked := 0, late := 0, due := false, opened := false, era := 0, thinned := bcast,
    items := [], acc := none, result := [], r := 0, openTime := 0, closeTime := 0 }

/-- The next reduction id, skipping live ones (R300). -/
def State.bumpRed (s : State) : State :=
  let live := fun (n : Nat) => s.reductions.any fun x => x.id == BitVec.ofNat 24 n && x.state == 0
  let n := (firstFree (fun n => live (n % 2 ^ 24)) (s.reductions.length + 1) (s.nextRed.toNat + 1)).getD (s.nextRed.toNat + 1)
  { s with nextRed := BitVec.ofNat 24 n }

/-- Reductions added in order (R300). -/
def State.addReduction (s : State) (r : Run) (p : Nat) (chain : List Die) (owner k first elems : Nat) (bcast : Bool) :
    State :=
  let x := s.mkReduction r p chain owner k first elems bcast
  ({ s with reductions := s.reductions ++ [x] } : State).bumpRed

/-- Hops broken on the ring (R320). -/
def State.brokenHops (s : State) : Nat := popCount 16 s.hopsBroken.toNat

/-- Members of a reduction lie on one unbroken arc of a ring with its broken hops (R320). -/
def State.oneArc (s : State) (chain : List Die) : Bool :=
  let ps := chain.map ringPos
  let reach := fun (a b : Nat) => (List.range ((b + 16 - a) % 16)).all fun i => !s.hopsBroken.getLsbD ((a + i) % 16)
  ps.all fun a => ps.all fun b => reach a b || reach b a

/-- A descriptor reaches the stages of its members while each holds fewer than 1024 open ones (R298); it fails when it opens
if its members lie on separate arcs (R320). -/
def State.openReductions (s : State) : State :=
  let openAt := fun (l : List Reduction) (d : Die) =>
    (l.filter fun x => x.opened && x.state == 0 && x.chain.contains d).length
  let rs := s.reductions.foldl (fun (acc : List Reduction) x =>
    if !x.opened && x.state == 0 && x.chain.all (fun d => decide (openAt acc d + openAt (s.reductions.drop acc.length) d < 1024))
    then acc ++ [{ x with opened := true }] else acc ++ [x]) []
  let bad := fun (x : Reduction) =>
    x.opened && x.state == 0 && decide (2 ≤ s.brokenHops) && decide (1 < x.chain.length) && !s.oneArc x.chain
  { s with reductions := rs.map fun x =>
      if bad x then { x with state := 2, cause := Code.hopBroken, closeTime := s.now } else x }

/-- The reductions of a step (R299, R300, R325): per position the shards' buckets, then the factor buckets. -/
def State.makeReductions (s : State) (r : Run) (img : DrawerImage) : State :=
  let perPos := fun (s : State) (p : Nat) =>
    let chain := s.chainOf r p
    let D := chain.length
    let s := (List.range D).foldl (fun s d =>
      let ps := s.shardParams r img p d
      (cutBuckets r.settings.bucket ps.length).zipIdx.foldl (fun s b =>
        s.addReduction r p chain d b.2 (ps.getD b.1.1 0) b.1.2 false) s) s
    if D ≤ 1 then s
    else
      let n := ((s.factorList r img p).map fun f => f.2.2.1 + f.2.2.2).sum
      (cutBuckets r.settings.bucket n).zipIdx.foldl (fun s b => s.addReduction r p chain (b.2 % D) b.2 b.1.1 b.1.2 true) s
  ((List.range (s.spanOf r)).foldl perPos s).openReductions

/-! ## Ends and publication -/

/-- What END_RUN releases (R264, R291): the run's pages, its slot with its residencies, its virtual channel, its reductions.
A slot that the run was re-making and did not bind anew returns to STALE (R255). -/
def State.releaseRun (s : State) (id : BitVec 32) : State :=
  match s.run? id with
  | none => s
  | some r =>
    let s := s.freeRunPages id
    let s := match s.slot? r.cab r.slot with
      | some x => if x.run = some id then s.freeSlot r.cab r.slot else s
      | none => s
    let s := match r.remakeOf with
      | some n => s.modSlot r.cab n fun x => if x.state = SState.remaking then { x with state := SState.stale } else x
      | none => s
    let s := s.modCp fun c => { c with vcs := c.vcs.map fun v => if v = some id then none else v }
    { s with runs := s.runs.filter fun x => x.id != id, fetches := s.fetches.filter fun f => f.run != some id,
             reductions := s.reductions.filter fun x => x.run != id }

/-- A tenant is told of one of its drawers through its session (R255); in what form no rule says, so the note itself is kept
(assumption 29). -/
def State.tell (s : State) (c : Cab) (n code : Nat) : State :=
  match s.slot? c n with
  | some x => { s with notes := s.notes ++ [{ tenant := x.tenant, handle := x.handle, cab := c, slot := n, code := code }] }
  | none => s

/-- A remake ends without a new version (R255): its slot is STALE again, the code is reported to the tenant, the run is released. -/
def State.remakeFail (s : State) (id : BitVec 32) (code : Nat) : State :=
  match (s.run? id).bind fun r => r.remakeOf.map fun n => (r.cab, n) with
  | some (c, n) => (s.tell c n code).releaseRun id
  | none => s

/-- The highest version of a handle that the module knows (R290). -/
def State.knownVersion (s : State) (h : Word) : Nat :=
  let a := (s.catalog.filter fun o => o.handle == h).map fun o => o.version.toNat
  let b := (s.slots.filter fun x => x.handle == h && x.run.isNone).map fun x => x.version.toNat
  (a ++ b ++ [((assocGet h s.versions).getD 0).toNat]).foldl max 0

/-- The image that a run publishes (R290): its latest committed epoch. -/
def runImage (r : Run) (img : DrawerImage) (version : Nat) : DrawerImage :=
  layoutImage (rankOf img) (alphaOf img) r.epoch.toNat r.outHandle r.tenant.toNat version r.shelfMeas (projsOf img)
    img.factors (expertsOf img) img.experts

/-- Bytes of an object's ciphertext, its tags included (R233). -/
def cipherBytes (n : Nat) : Nat := n + 16 * cdiv n 65536

/-- The latest committed epoch written to the catalog cache, and CATALOG_STORE (R290). -/
def State.publish (s : State) (r : Run) (reply : Option Reply) : State :=
  match (s.slot? r.cab r.slot).bind Slot.image with
  | none => s
  | some img =>
    let v := s.knownVersion r.outHandle + 1
    let out := runImage r img v
    let n := (wordAt out.header 3).toNat
    let v' : BitVec 32 := BitVec.ofNat 32 v
    let o : CatObj := { handle := r.outHandle, version := v', tenant := r.tenant, bytes := n, meas := r.shelfMeas,
                        tagsOk := true, image := some out, dataset := none, runWords := r.words }
    let id := s.nextStore
    let st : Store := { id := id, handle := r.outHandle, version := v', cab := r.cab, run := r.id, tenant := r.tenant,
                        reply := reply }
    let s := { s.cacheObj o with nextStore := id + 1, versions := assocPut r.outHandle v' s.versions, stores := s.stores ++ [st] }
    let (k, s) := s.fresh
    s.postEvent Event.catalogStore 0
      [r.outHandle, word (put v 32 + id.toNat), Config.stageAddr k, word (cipherBytes n)]

/-- A remake that is DONE (R255): what it committed is published; without a commit it has failed. -/
def State.remakeDone (s : State) (id : BitVec 32) : State :=
  match s.run? id with
  | some r =>
    if r.remakeOf.isNone || r.state != RunSt.done then s
    else if r.epoch = 0 then s.remakeFail id r.lastCode else s.publish r none
  | none => s

/-! ## Steps -/

/-- Bytes of saved activations that a token of a run leaves on each die of its home group (R272). -/
def State.savedBytes (s : State) (r : Run) : Nat :=
  ((s.programs.find? fun p => p.cab == r.cab && p.image.programId == r.program).map fun p => p.image.savedBytes).getD 0

/-- Bytes of saved activations that a die can hold of a run: the activation store and the spill pages (R107, R272). -/
def Run.saveRoom (r : Run) : Nat := 768 * 2 ^ 20 + r.saveGib * 2 ^ 30

/-- A sequence that is skipped (R270): LENGTH 0, above the shelf's context, or with more saved activations than the run can hold. -/
def State.skipSeq (s : State) (r : Run) (q : Nat × Nat) : Bool :=
  q.1 == 0 || decide ((((s.cab r.cab).shelf.map ShelfImage.context).getD 0) < q.1) || decide (r.saveRoom < q.1 * s.savedBytes r)

/-- The sequences that a step takes from the cursor (R270): those taken with their index, the new cursor, those skipped. -/
def State.takeSeqs (s : State) (r : Run) : Nat → Nat → Nat → List (Nat × Nat × Nat) → List (Nat × Nat × Nat) × Nat × Nat
  | 0, cur, sk, acc => (acc, cur, sk)
  | n + 1, cur, sk, acc =>
    if acc.length = r.seqsPerStep then (acc, cur, sk)
    else match r.seqs[cur]? with
      | none => (acc, cur, sk)
      | some q =>
        if s.skipSeq r q then s.takeSeqs r n (cur + 1) (sk + 1) acc
        else s.takeSeqs r n (cur + 1) sk (acc ++ [(cur, q.1, q.2)])

/-- Placement (R278): each sequence to the group with the fewest rows, the lowest on a tie. -/
def placeSeqs (groups : List Die) (qs : List (Nat × Nat × Nat)) : List StepSeq :=
  qs.foldl (fun (acc : List StepSeq) q =>
    let rows := fun (g : Die) => ((acc.filter fun x => x.home == g).map StepSeq.rows).sum
    acc ++ [{ index := q.1, rows := q.2.1, loss := q.2.2, home := (minBy rows groups).getD 0, placed := 0,
              forward := 0, back := 0, redo := [], redoBack := [] }]) []

/-- The seed of SR in descriptors of a run's step (R288), for the sequence with a dataset index. -/
def Run.stepSeed (r : Run) (q : Nat) : Nat :=
  (r.seed.toNat ^^^ ((r.epoch.toNat + 1) * 0x9e3779b1 % 2 ^ 32)) ^^^ (q * 0x85ebca6b % 2 ^ 32)

/-- The seed of SR for rows of a run, or for an owned descriptor of its slot that holds no sequence's rows: that of the step's first
sequence (R288). -/
def State.srSeed (s : State) (run : Option (BitVec 32)) (seq : Option Nat) : Option Nat :=
  match run.bind s.run? with
  | some r => if r.inStep then (seq.or (r.step.head?.map StepSeq.index)).map r.stepSeed else none
  | none => none

/-- What the run's dies hold at the start of a step: gradient buffers empty, token counts of their groups (R274, R275). -/
def State.stepDies (s : State) (r : Run) (step : List StepSeq) : List RunDie :=
  (diesOf r.dies).map fun d =>
    let old := r.perDie.find? fun x => x.die == d
    { die := d, gbuf := [], feedback := (old.map RunDie.feedback).getD [], feedbackNext := [],
      tokens := ((step.filter fun q => q.home == groupOf (s.spanOf r) d).map StepSeq.loss).sum, fwdRows := 0, backRows := 0, backwardDone := false,
      isReady := false, switched := true, lost := (old.map RunDie.lost).getD false, counts := (old.map RunDie.counts).getD Counts.zero }

/-- The groups whose residencies the step's rows use (R247). -/
def stepGroups (r : Run) : List Die := (r.step.map StepSeq.home).dedup

/-- NO_OFF_DIE (R282): a chain of one die in a cabinet that has no other die in service. -/
def State.noOffDie (s : State) (r : Run) : Bool :=
  decide ((s.runGroups r).length ≤ 1) && decide (((diesOf (s.cab r.cab).dies).filter fun d => (s.die d).inService).length ≤ 1)

/-- A step starts (R266, R270, R271, R276, R278): steps without a LOSS token are passed over; at the dataset's end the run is
DONE. -/
def State.startStep (s : State) (id : BitVec 32) : Nat → State
  | 0 => s
  | n + 1 =>
    match s.run? id with
    | none => s
    | some r =>
      if r.state != RunSt.running || r.inStep then s
      else
        let (qs, cur, sk) := s.takeSeqs r r.seqs.length r.cursor 0 []
        let skipped := satAdd (2 ^ 32 - 1) r.skipped sk
        if qs.isEmpty then
          (s.modRun id fun r => { r with cursor := cur, skipped := skipped, state := RunSt.done }).remakeDone id
        else if (qs.map fun q => q.2.2).sum = 0 then
          (s.modRun id fun r => { r with cursor := cur, skipped := skipped }).startStep id n
        else
          let r' := { r with
            settings := r.settingsNext.getD r.settings
            settingsNext := none
            thin := r.thinNext
            lr := r.lrNext.getD r.lr
            lrNext := none
            stepStart := r.cursor
            cursor := cur
            skipped := skipped
            step := placeSeqs (s.runGroups r) qs
            inStep := true
            noOffDie := s.noOffDie r
            shadow := [] }
          let r' := { r' with perDie := s.stepDies r r'.step }
          let s := s.modRun id fun _ => r'
          let s := (stepGroups r').foldl (fun (s : State) g => s.pin r.cab r.slot g) s
          match (s.slot? r.cab r.slot).bind Slot.image with
          | some img => s.makeReductions r' img
          | none => s

/-- Fuel of `startStep`: a step takes at least one sequence. -/
def State.beginStep (s : State) (id : BitVec 32) : State :=
  s.startStep id (((s.run? id).map fun r => r.seqs.length).getD 0 + 1)

/-- Pins of the step drop (R247). -/
def State.unpinStep (s : State) (r : Run) : State :=
  (stepGroups r).foldl (fun (s : State) g => s.unpin r.cab r.slot g) s

/-- Reductions of a step that ends (R322, R330): open ones are ABANDONED, records of the last discarded step are replaced. -/
def State.abandon (s : State) (id : BitVec 32) : State :=
  let mine := fun (x : Reduction) => x.run == id && x.era == 0
  ({ s with
    reductions := (s.reductions.filter fun x => !(x.run == id && x.era == 2 && s.reductions.any mine)).map fun x =>
      if mine x then
        { x with era := 2, items := [], state := if x.state = 0 then 3 else x.state,
                 cause := if x.state = 0 then Code.reductionAbandoned else x.cause,
                 closeTime := if x.state = 0 then s.now else x.closeTime }
      else x } : State).openReductions

/-- Rows whose work has ended leave their seatings (R42): between passes at once, a seating that is left without rows with them; from a pass
under way when it ends, as rows of nobody until then. -/
def State.leaveRows (s : State) (p : SeatRow → Bool) : State :=
  let ghost : SeatRow → SeatRow := fun r => if p r then { r with request := none, run := none } else r
  let stay : Pass → Pass := fun q => { q with rows := q.rows.map ghost }
  let between := fun (l : List Pass) =>
    (l.map fun (q : Pass) => if q.mid then stay q else { q with rows := q.rows.filter fun r => !p r }).filter fun q => !q.rows.isEmpty
  let one : DieSt → DieSt := fun x =>
    { x with pass := x.pass.map stay, arrived := between x.arrived, onLink := between x.onLink, again := x.again.filter fun r => !p r }
  { s with dies := s.dies.map one }

/-- Blocks of a run's saved activations are given up: each is zeroed before it is allocated again (R108). -/
def State.dropSaved (s : State) (id : BitVec 32) : State :=
  let zero : ABlock → ABlock := fun b => if b.saved == some id then { b with zeroing := true, saved := none } else b
  let one : DieSt → DieSt := fun x => { x with blocks := x.blocks.map zero }
  { s with dies := s.dies.map one }

/-- The rows of a run leave every seating (R285): what their passes would still form is dropped, with the step's saved activations. -/
def State.dropRows (s : State) (id : BitVec 32) : State := (s.leaveRows fun r => r.run == some id).dropSaved id

/-- The step in flight is discarded (R285): nothing of it stays, the cursor returns, the discard is counted, its tenant is told
STEP_DISCARDED (R294). -/
def State.discardStep (s : State) (id : BitVec 32) (cause : Nat) (st : Fin 8) : State :=
  match s.run? id with
  | none => s
  | some r =>
    let s := (((s.abandon id).unpinStep r).dropRows id).tell r.cab r.slot Code.stepDiscarded
    s.modRun id fun r =>
      { r with state := st, inStep := false, cursor := r.stepStart, step := [], shadow := [],
               perDie := r.perDie.map fun d =>
                 { d with gbuf := [], feedbackNext := [], tokens := 0, isReady := false, switched := true },
               retries := satAdd 0xffff r.retries 1, consecutive := r.consecutive + 1, lastCode := cause }

/-- A request to stop that waits completes in STOPPED (R291). -/
def State.completeStop (s : State) (id : BitVec 32) : State :=
  match (s.run? id).bind Run.stopReply with
  | some q => (s.modRun id fun r => { r with stopReply := none, stopping := false }).complete q Code.ok []
  | none => s.modRun id fun r => { r with stopping := false }

/-- What START_RUN returns (R291, R239): the run id in [63:32], the run slot in [31:16] with its SLOT_GEN in [15:0] (assumption 30). -/
def State.runWord (s : State) (id : BitVec 32) (r : Run) : Word :=
  word (put id.toNat 32 + put r.slot 16 + (s.slotGen r.cab r.slot).toNat)

/-- The run fails (R266): its state is kept; a remake returns its slot to STALE (R255, R240). START_RUN that waits completes. -/
def State.runFail (s : State) (id : BitVec 32) (code : Nat) : State :=
  match s.run? id with
  | none => s
  | some r =>
    let s := if r.inStep then s.discardStep id code RunSt.failed else s
    let s := s.modRun id fun r => { r with state := RunSt.failed, lastCode := code, reply := none, inStep := false }
    let s := match r.reply with
      | some q => s.complete q code [s.runWord id r]
      | none => s
    ((s.completeStop id).remakeFail id code).settleUnmount r.cab

/-- After a discard other than by trap or STOP_RUN (R285, R449 STEP_RERUN): the step runs again, or the run stops. -/
def State.rerunStep (s : State) (id : BitVec 32) : State :=
  match s.run? id with
  | none => s
  | some r =>
    if (s.policy 7).on then
      if (s.policy 7).threshold ≤ r.consecutive then s.runFail id Code.retriesExhausted
      else ((s.modRun id fun r => { r with state := RunSt.running }).policyAct 7 id.toNat).beginStep id
    else (s.modRun id fun r => { r with state := RunSt.stopped }).settleUnmount r.cab

/-- A step in flight is discarded for a cause, then stopped, or run again (R285). -/
def State.dropStep (s : State) (id : BitVec 32) (cause : Nat) : State :=
  match s.run? id with
  | none => s
  | some r =>
    if !r.inStep || (r.state = RunSt.committing && r.epoch.toNat ≥ 1 && r.perDie.any fun d => !d.switched) then s
    else if r.state = RunSt.stopping || r.stopping then
      ((s.discardStep id cause RunSt.stopped).completeStop id).settleUnmount r.cab
    else (s.discardStep id cause RunSt.running).rerunStep id

/-- Data of a run's step is lost (R353): every reduction of the step on the run is FAILED with DATA_UNCORRECTABLE, and the step is
discarded. -/
def State.loseStep (s : State) (id : BitVec 32) : State :=
  let fail : Reduction → Reduction := fun x =>
    if x.run == id && x.era == 0 then { x with state := 2, cause := Code.dataUncorrectable, items := [], acc := none, closeTime := s.now }
    else x
  ({ s with reductions := s.reductions.map fail } : State).dropStep id Code.dataUncorrectable

/-- T_b of a step's buckets (R276, R293). -/
def State.stepReds (s : State) (id : BitVec 32) : List Reduction := s.reductions.filter fun x => x.run == id && x.era == 0

/-- Tokens that a closed bucket received and dropped. -/
def Reduction.tokens (x : Reduction) : Nat := (x.acc.map Item.tokens).getD 0
def Reduction.droppedTokens (x : Reduction) : Nat := (x.acc.map Item.droppedTokens).getD 0

/-- The commit point (R283): the epoch rises, the step's records become those of the last committed step, every die of the
group has yet to switch. -/
def State.commitPoint (s : State) (id : BitVec 32) : State :=
  let reds := s.stepReds id
  let (n, s) := s.fresh
  let keep := s.reductions.filter fun x => !(x.run == id && x.era == 1)
  let s := match s.run? id with
    | some r => s.modCab r.cab fun c => { c with counters := { c.counters with steps := c.counters.steps + 1 } }
    | none => s
  let s := { s with reductions := keep.map fun (x : Reduction) => if x.run == id && x.era == 0 then { x with era := 1 } else x }
  s.modRun id fun r =>
    { r with epoch := r.epoch + 1, commitTime := s.now, consecutive := 0,
             lastTokens := ((minBy Reduction.tokens reds).map Reduction.tokens).getD 0,
             droppedTokens := (reds.map Reduction.droppedTokens).foldl max 0, loss := Config.runLoss n,
             perDie := r.perDie.map fun d => { d with switched := false } }

/-- Every die has switched (R283): the shadow is current, pins drop, the run goes on, ends or stops. -/
def State.finishCommit (s : State) (id : BitVec 32) : State :=
  match s.run? id with
  | none => s
  | some r =>
    let cur := r.shadow
    let s := s.unpinStep r
    let s := match (s.slot? r.cab r.slot).bind Slot.image with
      | some img => s.modSlot r.cab r.slot fun x => { x with image := some (s.withParams r.cab img cur) }
      | none => s
    let ends := r.epoch = 0xffffffff || (r.maxSteps != 0 && decide (r.maxSteps ≤ r.epoch.toNat)) ||
      decide (r.seqs.length ≤ r.cursor)
    let next := if r.stopping then RunSt.stopped else if ends then RunSt.done else RunSt.running
    let s := s.modRun id fun r =>
      { r with state := next, inStep := false, step := [], current := cur, shadow := [],
               perDie := r.perDie.map fun d =>
                 { d with feedback := d.feedbackNext, feedbackNext := [], gbuf := [], isReady := false } }
    if r.stopping then (s.completeStop id).settleUnmount r.cab
    else if next = RunSt.running then s.beginStep id else (s.remakeDone id).settleUnmount r.cab

/-- A die of the group starts a pass after the commit point (R283). -/
def State.switchDie (s : State) (id : BitVec 32) (d : Die) : State :=
  match s.run? id with
  | none => s
  | some r =>
    if r.state = RunSt.committing && r.perDie.any fun x => x.die == d && !x.switched then
      let s := s.modRun id fun r =>
        { r with perDie := r.perDie.map fun x => if x.die = d then { x with switched := true } else x }
      if (((s.run? id).map fun r => r.perDie.all RunDie.switched).getD false) then s.finishCommit id else s
    else s

/-- START_RUN's last part (R266, R267, R289): once the source and the dataset have arrived, epoch 0 is put in place. -/
def State.settleStart (s : State) (id : BitVec 32) : State :=
  match s.run? id with
  | none => s
  | some r =>
    if r.state != RunSt.starting || !r.hasData || s.fetches.any fun f => f.run == some id then s
    else match (s.slot? r.cab r.slot).bind Slot.image with
      | none => s
      | some img =>
        let have_ := s.pages.any fun x => x.kind == PKind.run && x.ownerRef == id
        match (if have_ then some s else s.allocRun? r img) with
        | none =>
          let s := match r.remakeOf with
            | some n => s.tell r.cab n Code.runNoSpace
            | none => s
          let s := s.releaseRun id
          match r.reply with
          | some q => s.complete q Code.runNoSpace []
          | none => s
        | some s =>
          let groups := s.runGroups r
          let s := groups.foldl (fun (s : State) g =>
            match s.residency? r.cab r.slot g with
            | some _ => s.modResidency r.cab r.slot g fun x => { x with state := 1 }
            | none => { s with residencies := s.residencies ++
                [{ cab := r.cab, slot := r.slot, group := g, state := 1, pins := 0, pages := 0, lastRead := 0, image := none }] }) s
          let s := s.modRun id fun r =>
            { r with state := RunSt.running, current := s.initParams r.cab img, noOffDie := s.noOffDie r, reply := none,
                     perDie := s.stepDies r [] }
          let s := match r.reply with
            | some q => s.complete q Code.ok [s.runWord id r]
            | none => s
          s.beginStep id

/-- An unmount moves a run to STOPPED at its last committed epoch (R41, R266); it cannot be resumed. -/
def State.stopRunFor (s : State) (id : BitVec 32) (code : Nat) : State :=
  match s.run? id with
  | none => s
  | some r =>
    if r.state = RunSt.stopped || r.state = RunSt.done || r.state = RunSt.failed then
      s.modRun id fun r => { r with unmounted := true }
    else
      let s := if r.state = RunSt.committing && r.perDie.any fun d => !d.switched then
          (s.modRun id fun r => { r with stopping := true }).finishCommit id
        else if r.inStep then s.discardStep id code RunSt.stopped else s
      let s := { s with fetches := s.fetches.filter fun f => f.run != some id }
      let s := s.modRun id fun r =>
        { r with state := RunSt.stopped, lastCode := code, unmounted := true, inStep := false, reply := none,
                 stopping := false }
      let s := match r.reply with
        | some q => s.complete q code [s.runWord id r]
        | none => s
      (s.completeStop id).remakeFail id code

end Sys2Proof.Machine
end

