-- ==== Sys2Proof/Machine/Fetch.lean ====
section
/-!
DEFINITION. Fetches of drawers and datasets (R244 to R246, R250, R269), the checks of the intake (R245), extra-expert claims
(R252), evictions for room (R250), remakes queued (R255), and the admission of serving requests (R54, R243, R247, R249).
-/

namespace Sys2Proof.Machine

namespace FStep
abbrev queued : Fin 8 := 0
abbrev catalog : Fin 8 := 1
abbrev pages : Fin 8 := 3
abbrev pieces : Fin 8 := 4
end FStep

def State.fetch? (s : State) (id : BitVec 32) : Option Fetch := s.fetches.find? fun f => f.id == id
def State.modFetch (s : State) (id : BitVec 32) (f : Fetch → Fetch) : State :=
  { s with fetches := updFirst (fun x => x.id == id) f s.fetches }

/-- The version that a fetch seeks: its own, or for a drawer that a request or a command named by handle the one that its slot has been
bound to meanwhile, since a slot binds one version (R237, R256). -/
def State.fetchVersion (s : State) (f : Fetch) : BitVec 32 :=
  if f.version != 0 || f.dataset || f.run.isSome then f.version else ((s.slot? f.cab f.slot).map Slot.version).getD 0

/-- The catalog object of a fetch (R234): of the version sought, or by R232 where none is. -/
def State.objOf (s : State) (f : Fetch) : Option CatObj :=
  let v := s.fetchVersion f
  if v = 0 then s.resolve f.cab f.handle else s.catalog.find? fun o => o.handle == f.handle && o.version == v

/-- 512 MiB (R227). -/
def maxImage : Nat := 0x20000000

/-! ## Checks of the intake (R245 steps 6 to 8) -/

/-- Reserved fields of the header, tables included (R229, R230). -/
def headerRsvOk (img : DrawerImage) : Bool :=
  let h := wordAt img.header
  bits (h 0) 39 32 == 0 && bits (h 4) 47 0 == 0 && bits (h 5) 31 0 == 0 && h 6 == 0 && h 7 == 0 &&
    img.expertTable.all fun p => bits p.1 41 32 == 0

/-- Step 6 (R245): layout, owner, handle, version (from 1), length, reserved fields. -/
def identityCode (img : DrawerImage) (o : CatObj) (owner : BitVec 32) (handle : Word) : Option Nat :=
  let h := wordAt img.header
  if bits (h 0) 63 56 != 1 || bits (h 2) 63 32 != owner.toNat || h 1 != handle || bits (h 2) 31 0 != o.version.toNat ||
      bits (h 2) 31 0 == 0 || !headerRsvOk img then some Code.drawerInvalid
  else if maxImage < (h 3).toNat then some Code.drawerTooLarge
  else if (h 3).toNat != o.bytes then some Code.drawerInvalid else none

/-- Strictly rising keys. -/
def rising : List Nat → Bool
  | a :: b :: r => decide (a < b) && rising (b :: r)
  | _ => true

/-- The bytes of a projection's four planes (R231). -/
def projBytes (k r n : Nat) : Nat := pad64 (2 * k * r) + pad64 (2 * r * n) + pad64 (k * r) + pad64 (r * n)

/-- Header and tables end at or below 0x1_0000, and every data section lies between there and the image's end (R229, R230). -/
def sectionsOk (img : DrawerImage) : Bool :=
  let total := (wordAt img.header 3).toNat
  let r := bits (wordAt img.header 0) 55 48
  decide (128 + 16 * (img.projTable.length + img.expertTable.length) ≤ 0x10000) &&
    (img.projTable.all fun p => decide (p.2.toNat + projBytes (bits p.1 39 20) r (bits p.1 19 0) ≤ total)) &&
    (img.expertTable.all fun p => decide (p.2.toNat + bits p.1 31 0 ≤ total)) &&
    (img.projTable ++ img.expertTable).all fun p => decide (0x10000 ≤ p.2.toNat) && p.2.toNat % 64 == 0

/-- Step 8 (R245): rank, scale, counts, ordering, every projection and layer against the shelf program (R228, R230, R252). -/
def fitsShelf (img : DrawerImage) (sh : ShelfImage) : Bool :=
  let h := wordAt img.header
  let rank := bits (h 0) 55 48
  let xs := img.expertTable.map fun p => (bits p.1 63 48, bits p.1 47 42)
  decide (1 ≤ rank) && decide (rank ≤ 64) && (fBF16.dec (alphaOf img)).isFin &&
    bits (h 0) 47 40 == img.expertTable.length && decide (img.expertTable.length ≤ 4) &&
    bits (h 0) 31 0 == img.projTable.length && decide (1 ≤ img.projTable.length) &&
    rising (img.projTable.map fun p => bits p.1 63 40) &&
    (projsOf img).all (fun p => (adaptable sh).contains p) &&
    decide xs.Nodup && xs.all (fun x => ((sh.layers[x.1]?).map LayerInfo.xexperts).getD false) && sectionsOk img

/-- Step 9 (R252): every slot named is free or the slot's own. -/
def State.claimsFree (s : State) (c : Cab) (n : Nat) (img : DrawerImage) : Bool :=
  (expertsOf img).all fun x => !(s.xclaims.any fun k => k.cab == c && k.layer == x.1 && k.xslot == x.2.1 && k.slot != n)

/-- The claims of a drawer, all at once (R252). -/
def State.claim (s : State) (c : Cab) (n : Nat) (img : DrawerImage) : State :=
  let new := (expertsOf img).map fun x => ({ cab := c, layer := x.1, xslot := x.2.1, slot := n } : XClaim)
  { s with xclaims := s.xclaims ++ new.filter fun x => !s.xclaims.contains x }

/-- The owner against which a fetched image is checked: the index's, or the slot's. -/
def State.fetchOwner (s : State) (f : Fetch) (o : CatObj) : BitVec 32 :=
  match s.slot? f.cab f.slot with
  | some x => x.owner?.getD o.tenant
  | none => o.tenant

/-- The code with which the intake refuses an object (R245 steps 5 to 9), or none. A remake's source omits step 7 (R268). -/
def State.intakeCode (s : State) (f : Fetch) (o : CatObj) (remake : Bool) : Option Nat :=
  if !o.tagsOk then some Code.drawerIntegrity
  else match o.image, (s.cab f.cab).shelf with
    | some img, some sh =>
      match identityCode img o (s.fetchOwner f o) f.handle with
      | some c => some c
      | none =>
        if !remake && wide512 ((img.header.drop 8).take 8) != sh.meas then some Code.staleShelf
        else if !fitsShelf img sh then some Code.drawerInvalid
        else if !s.claimsFree f.cab f.slot img then some Code.slotTaken else none
    | _, _ => some Code.drawerInvalid

/-! ## Room (R242, R250, R260) -/

/-- Residencies that may be evicted for room on a die (R250). -/
def State.victimsOn (s : State) (c : Cab) (d : Die) : List Residency :=
  let g := groupOf (s.cab c).span d
  sortBy Residency.lastRead (sortBy Residency.slot (s.residencies.filter fun x =>
    x.cab == c && x.group == g && x.pins == 0 && x.state == 1 && ((s.slot? c x.slot).bind Slot.run).isNone))

/-- Pages wanted on a die fit: free pages and the cache's size. -/
def State.roomOn (s : State) (c : Cab) (d : Die) (n : Nat) : Bool :=
  decide (n ≤ s.freeOnDie d) && decide (s.drawerPages c d + n ≤ 512 * (s.cab c).cacheGib)

/-- Evictions in order until the pages fit (R250); the state is unchanged where they never do. -/
def State.makeRoom (s : State) (c : Cab) (d : Die) (n : Nat) : Option State :=
  let (s', ok) := (s.victimsOn c d).foldl (fun (acc : State × Bool) x =>
    if acc.2 then acc
    else
      let s := (acc.1.releaseResidency c x.slot x.group).settleEvict c x.slot
      (s, s.roomOn c d n)) (s, s.roomOn c d n)
  if ok then some s' else none

/-- Step 3 on every die of the group (R245): all its pages, or none. -/
def State.reserve? (s : State) (c : Cab) (n : Nat) (g : Die) (img : DrawerImage) (glove : BitVec 16) : Option State :=
  let req := (s.groupOfCab c g).map fun d => (d, s.sharePagesOn c img d)
  (req.foldl (fun (acc : Option State) p => acc.bind fun s => s.makeRoom c p.1 p.2) (some s)).bind fun s =>
    s.allocAll? req PKind.drawer glove c (BitVec.ofNat 32 n)

/-! ## The course of a fetch -/

/-- A residency while it is fetched (R241, R244). -/
def State.addResidency (s : State) (c : Cab) (n : Nat) (g : Die) : State :=
  match s.residency? c n g with
  | some _ => s
  | none => { s with residencies := s.residencies ++
      [{ cab := c, slot := n, group := g, state := 0, pins := 0, pages := 0, lastRead := 0, image := none }] }

/-- Consent to remake a stale slot (R255, R261). -/
def State.consentFor (s : State) (t : BitVec 32) (c : Cab) : Option RemakeConsent :=
  s.consents.find? fun k => k.tenant == t && k.cab == c && decide (s.now < k.expiry)

/-- A load failed (R245): pages released, no residency, the slot in STALE or FAILED, requests naming it end, commands that
waited complete with the code; a stale slot under consent joins the remake queue, and of one without its tenant is told (R255). -/
def State.loadFailed (s : State) (f : Fetch) (code : Nat) : State :=
  let s := { s with fetches := s.fetches.filter fun x => x.id != f.id }
  let s := s.answerFetch f.replies code
  if f.dataset then (match f.run with | some i => s.runFail i code | none => s)
  else match f.run with
    | some i => (s.releaseResidency f.cab f.slot f.group).runFail i code
    | none =>
      let st := if code = Code.staleShelf then SState.stale else SState.failed
      let ds := mapOf (s.groupOfCab f.cab f.group)
      let s := s.modSlot f.cab f.slot fun x =>
        { x with state := if x.state = SState.bound || x.state = SState.evictPending then st else x.state, lastCode := code,
                 lastDies := if x.lastDies = 0 then ds else x.lastDies }
      let s := s.endRequests (fun q => q.cab == f.cab && q.slot == some f.slot) code
      let waits := fun (j : Job) => j.phase == 0 && j.slot == some f.slot &&
        (match s.stream? j.stream.val with | some y => y.cab == f.cab | none => false)
      let s := s.endJobs waits code
      let s := s.releaseResidency f.cab f.slot f.group
      let s := s.settleEvict f.cab f.slot
      match s.slot? f.cab f.slot with
      | some x =>
        if x.state != SState.stale then s
        else if (s.consentFor x.tenant f.cab).isSome then { s with remakeQ := s.remakeQ ++ [(f.cab, f.slot)] }
        else s.tell f.cab f.slot code
      | none => s

/-- Fetches of the group that have passed step 0. -/
def State.runningFetches (s : State) (c : Cab) (g : Die) : Nat :=
  (s.fetches.filter fun f => f.cab == c && f.group == g && f.step != FStep.queued).length

/-- A fetch goes on from the object in the catalog cache (R245 steps 2 and 3). -/
def State.fromCache (s : State) (f : Fetch) (o : CatObj) : State :=
  if maxImage < o.bytes then s.loadFailed f Code.drawerTooLarge
  else
    let s := s.modSlot f.cab f.slot fun x =>
      if f.dataset || x.run.isSome then x else { x with version := o.version, tenant := x.owner?.getD o.tenant, known := true }
    if f.dataset || f.run.isSome then s.modFetch f.id fun x => { x with step := FStep.pieces, version := o.version }
    else
      let ahead := s.fetches.any fun x =>
        x.step == FStep.pages && x.cab == f.cab && x.group == f.group && decide (x.order < f.order) && x.id != f.id
      let glove := ((s.tenantGlove? o.tenant).map Glove.id).getD 0
      let waiting := ahead && f.step == FStep.pages
      let blocked := f.step != FStep.pages && s.fetches.any fun x =>
        x.step == FStep.pages && x.cab == f.cab && x.group == f.group
      match (if waiting || blocked || !(s.cab f.cab).cacheReplies.isEmpty then none
             else match o.image with
               | some img => s.reserve? f.cab f.slot f.group img glove
               | none => some s) with
      | some s => s.modFetch f.id fun x => { x with step := FStep.pieces, version := o.version }
      | none =>
        let (n, s) := (s.fetchOrder + 1, { s with fetchOrder := s.fetchOrder + 1 })
        s.modFetch f.id fun x =>
          { x with step := FStep.pages, version := o.version, order := if x.step = FStep.pages then x.order else n }

/-- An object of the cache used: it stands last in the order in which the cache evicts (R234). -/
def State.useObj (s : State) (o : CatObj) : State :=
  s.modCt s.cp.active fun x => { x with catalog := (x.catalog.filter fun y => y != o) ++ [o] }

/-- A fetch begins (R245 step 1): from the local cache, or by CATALOG_FETCH (R235). -/
def State.runFetch (s : State) (id : BitVec 32) : State :=
  match s.fetch? id with
  | none => s
  | some f =>
    match s.objOf f with
    | some o => (s.useObj o).fromCache f o
    | none =>
      let (n, s) := s.fresh
      let v := s.fetchVersion f
      let s := s.modFetch id fun x => { x with step := FStep.catalog, version := v }
      s.postEvent Event.catalogFetch 0 [f.handle, word (put v.toNat 32 + id.toNat), Config.stageAddr n]

/-- A fetch asked for (R244, R246): at most four per span group run, others wait in order; a fetch of the same slot to the
same group is joined. -/
def State.startFetch (s : State) (c : Cab) (n : Nat) (g : Die) (handle : Word) (version : BitVec 32) (run : Option (BitVec 32))
    (dataset : Bool) (replies : List Reply) : State :=
  match s.fetches.find? fun f => f.cab == c && f.slot == n && f.group == g && f.dataset == dataset with
  | some f => s.modFetch f.id fun x => { x with replies := x.replies ++ replies }
  | none =>
    let id := s.nextFetch
    let busy := decide (4 ≤ s.runningFetches c g) ||
      s.fetches.any fun f => f.cab == c && f.group == g && f.step == FStep.queued
    let f : Fetch := { id := id, cab := c, slot := n, group := g, handle := handle, version := version,
                       step := if busy then FStep.queued else FStep.catalog, order := 0, dataset := dataset, run := run,
                       replies := replies }
    let s := { s with fetches := s.fetches ++ [f], nextFetch := id + 1 }
    let s := if dataset || run.isSome then s else s.addResidency c n g
    if busy then s else s.runFetch id

/-- Queued fetches of a group take the places that became free (R246). -/
def State.promote (s : State) (c : Cab) (g : Die) : Nat → State
  | 0 => s
  | n + 1 =>
    if 4 ≤ s.runningFetches c g then s
    else match s.fetches.find? fun f => f.cab == c && f.group == g && f.step == FStep.queued with
      | some f => ((s.modFetch f.id fun x => { x with step := FStep.catalog }).runFetch f.id).promote c g n
      | none => s

/-- Fetches of every group of a cabinet take the places that became free (R246). -/
def State.promoteAll (s : State) (c : Cab) : State := (s.cab c).groups.foldl (fun (s : State) g => s.promote c g 4) s

/-- What the intake reports of a dataset (R269), or the code that fails the run (R270). -/
def datasetCode (o : CatObj) (tenant : BitVec 32) : Option Nat :=
  if !o.tagsOk then some Code.drawerIntegrity
  else match o.dataset with
    | none => some Code.datasetInvalid
    | some d =>
      if o.tenant != tenant then some Code.notOwner
      else if bits d.word0 63 56 != 2 || bits d.word0 55 32 != 0 || !d.rsvZero || !d.withinObject ||
          bits d.word0 31 0 != d.seqs.length then some Code.datasetInvalid
      else none

/-- The last steps of a dataset's fetch. -/
def State.datasetArrived (s : State) (f : Fetch) (o : CatObj) (id : BitVec 32) : State :=
  match s.run? id with
  | none => { s with fetches := s.fetches.filter fun x => x.id != f.id }
  | some r =>
    match datasetCode o r.tenant with
    | some c => s.loadFailed f c
    | none =>
      let s := { s with fetches := s.fetches.filter fun x => x.id != f.id }
      let seqs := (o.dataset.map Dataset.seqs).getD []
      (s.modRun id fun r => { r with seqs := seqs, hasData := true }).settleStart id

/-- A fetch ends (R245 steps 5 to 11). -/
def State.fetchArrived (s : State) (f : Fetch) (o : CatObj) : State :=
  match f.dataset, f.run with
  | true, some id => s.datasetArrived f o id
  | true, none => { s with fetches := s.fetches.filter fun x => x.id != f.id }
  | false, run =>
    let remake := match run with
      | some id => ((s.run? id).bind Run.remakeOf).isSome
      | none => false
    match s.intakeCode f o remake with
    | some c => s.loadFailed f c
    | none =>
      let img := o.image
      let share := match img with
        | some i => ((s.groupOfCab f.cab f.group).map fun d => s.sharePagesOn f.cab i d).foldl max 0
        | none => 0
      let s := match img, run with
        | some i, none => (s.claim f.cab f.slot i).writeShare f.cab f.slot f.group i
        | some i, some _ => s.claim f.cab f.slot i
        | none, _ => s
      let s := s.modSlot f.cab f.slot fun x =>
        { x with image := img, rank := (img.map rankOf).getD 0, experts := (img.map fun i => i.expertTable.length).getD 0,
                 sharePages := max x.sharePages share }
      let s := { s with fetches := s.fetches.filter fun x => x.id != f.id }
      let s := s.modResidency f.cab f.slot f.group fun x =>
        { x with state := if x.state = 0 then 1 else x.state, pages := share, image := img }
      let s := s.answerFetch f.replies Code.ok
      match run with
      | some id => s.settleStart id
      | none => s

/-! ## Admission (R54 to R57, R243, R247, R249) -/

/-- Pages of a request's key-value cache on one die: its whole length (R54, R58). -/
def State.kvPagesFor (s : State) (c : Cab) (q : ServeReq) : Nat :=
  pagesFor ((q.promptRows + q.tokens) * (((s.cab c).shelf.map ShelfImage.kvBytesPerToken).getD 0))

/-- A span group accepts seatings: its dies are in service and each can complete a pass (R34, R363). -/
def State.groupServes (s : State) (c : Cab) (g : Die) : Bool :=
  (s.groupOfCab c g).all fun d =>
    (s.die d).inService && ((stacksOf d).all fun h => (s.stk h).inService || !(s.suppliersOf d).isEmpty)

/-- Whether a group has room for a request (R54): pages of its cache on each die. -/
def State.groupHasRoom (s : State) (c : Cab) (g : Die) (q : ServeReq) : Bool :=
  (s.groupOfCab c g).all fun d => decide (s.kvPagesFor c q ≤ s.freeOnDie d)

/-- Free pages of a group's drawer caches (R243). -/
def State.cacheFree (s : State) (c : Cab) (g : Die) : Nat :=
  ((s.groupOfCab c g).map fun d => 512 * (s.cab c).cacheGib - s.drawerPages c d).sum

/-- The group chosen for a request with slot `n` (R243): resident, then being fetched, then most free cache pages. -/
def State.chooseGroup (s : State) (c : Cab) (n : Option Nat) (q : ServeReq) : Option Die :=
  let ok := ((s.cab c).groups.filter fun g => s.groupServes c g && s.groupHasRoom c g q).filter fun g =>
    match n with
    | some n => ((s.residency? c n g).map fun r => r.state != 2).getD true
    | none => true
  let held := fun (st : Fin 3) => ok.filter fun g =>
    match n with | some n => ((s.residency? c n g).map fun r => r.state == st).getD false | none => false
  match held 1 ++ held 0 with
  | g :: _ => some g
  | [] => minBy (fun g => 2 ^ 40 - s.cacheFree c g) ok

/-- A tenant's admitted requests of a cabinet (R59). -/
def State.admittedOf (s : State) (c : Cab) (t : BitVec 32) : Nat :=
  (s.requests.filter fun q => q.cab == c && q.tenant == t && q.live).length

/-- A residency pinned for a request, and fetched where it is neither there nor on its way (R244, R247). -/
def State.holdDrawer (s : State) (c : Cab) (k : Nat) (g : Die) : State :=
  match s.residency? c k g, s.slot? c k with
  | some r, some x =>
    let s := s.pin c k g
    if r.state = 0 && !(s.fetches.any fun f => f.cab == c && f.slot == k && f.group == g && !f.dataset) then
      s.startFetch c k g x.handle x.version none false []
    else s
  | none, some x => ((s.addResidency c k g).pin c k g).startFetch c k g x.handle x.version none false []
  | _, none => s

/-- A pin count at its maximum, at which admission waits (R247). -/
def State.pinsFull (s : State) (q : Request) (g : Die) : Bool :=
  match q.slot with
  | some k => ((s.residency? q.cab k g).map Residency.full).getD false
  | none => false

/-- A request is admitted to a group (R54, R244): pinned, its cache allocated, its drawer's fetch started, its prompt ready. -/
def State.admitTo (s : State) (q : Request) (g : Die) : State :=
  if s.pinsFull q g then s else
  let n := s.kvPagesFor q.cab q.ask
  let glove := ((s.tenantGlove? q.tenant).map Glove.id).getD 0
  match s.allocAll? ((s.groupOfCab q.cab g).map fun d => (d, n)) PKind.kv glove q.cab (BitVec.ofNat 32 q.id) with
  | none => s
  | some s =>
    let (t, s) := s.tick
    let s := s.modRequest q.id fun q =>
      { q with state := RState.admitted, group := some g, ready := q.ask.promptRows + q.delivered, since := s.now, seq := t,
               kvPages := n, admitted := s.now, pinned := q.slot.isSome }
    match q.slot with
    | none => s
    | some k =>
      (s.touchSlot q.cab k).holdDrawer q.cab k g

/-- The slot of a request's drawer: bound automatically where it has none (R238); none when no slot can be had. -/
def State.slotForRequest (s : State) (c : Cab) (handle : Word) : Option (Nat × State) :=
  match s.slotOf c handle with
  | some x => some (x.slot, s)
  | none => (s.takeSlot c).map fun p =>
    let o := s.resolve c handle
    (p.1, p.2.bindSlot c p.1 handle ((o.map CatObj.version).getD 0) (o.map CatObj.tenant) none)

/-- Admission is open to a tenant in a cabinet (R54, R59). -/
def State.admits? (s : State) (c : Cab) (t : BitVec 32) : Bool :=
  let x := s.cab c
  x.state == 3 && x.adm.isOpen && decide (s.admittedOf c t < x.adm.quota)

/-- A waiting request is tested (R54, R55, R238, R240, R249): its handle is bound where no slot binds it; it ends with its slot's code, is
admitted, or goes on waiting. -/
def State.tryAdmit (s : State) (i : Nat) : State :=
  match s.request? i with
  | none => s
  | some q =>
    if q.state != RState.queued then s
    else if q.ask.handle = 0 then
      match (if s.admits? q.cab q.tenant then s.chooseGroup q.cab none q.ask else none) with
      | some g => s.admitTo q g
      | none => s
    else match s.slotForRequest q.cab q.ask.handle with
      | none => s
      | some (n, s) =>
        match s.slot? q.cab n with
        | none => s
        | some x =>
          let s := s.modRequest i fun q => { q with slot := some n }
          if x.owner?.any fun t => t != q.tenant then s.endRequest i Code.notOwner
          else if x.state = SState.stale then s.endRequest i Code.staleShelf
          else if x.state = SState.failed then s.endRequest i x.lastCode
          else if x.state != SState.bound && x.state != SState.evictPending then s
          else match (if s.admits? q.cab q.tenant then s.chooseGroup q.cab (some n) q.ask else none) with
            | some g => s.admitTo { q with slot := some n } g
            | none => s

/-- A live request that lost its drawer (R353) pins and fetches it again. -/
def State.repin (s : State) (i : Nat) : State :=
  match s.request? i with
  | none => s
  | some q => match q.slot, q.group with
    | some k, some g =>
      if !q.live || q.pinned || (s.residency? q.cab k g).any fun r => r.state == 2 then s
      else (s.modRequest i fun q => { q with pinned := true }).holdDrawer q.cab k g
    | _, _ => s

/-- A drawer piece that cannot be read (R353): the requests' pins drop, the residency is evicted, and once it is gone the
requests wait for a new fetch. -/
def State.refetch (s : State) (c : Cab) (k : Nat) (g : Die) : State :=
  let qs := s.requests.filter fun q => q.cab == c && q.slot == some k && q.group == some g && q.live && q.pinned
  let s := qs.foldl (fun (s : State) q => (s.modRequest q.id fun q => { q with pinned := false }).unpin c k g) s
  let s := s.evictOne c k g
  qs.foldl (fun (s : State) q => s.repin q.id) s

end Sys2Proof.Machine
end

