-- ==== Sys2Proof/Machine/Lattice.lean ====
section
/-!
DEFINITION. The lattice (R21, R22, R27): its 24 links, the fixed route of a packet, and the attachments of the edge and control dies.
-/

namespace Sys2Proof.Machine

/-- Lattice row and column of a compute die (R21). -/
def latticeRow (d : Die) : Nat := d.val / 4
def latticeCol (d : Die) : Nat := d.val % 4

/-- Lattice hops between two dies of the 4 × 4 mesh (R21, R361). -/
def latticeHops (a b : Die) : Nat :=
  let dist := fun (x y : Nat) => if x ≤ y then y - x else x - y
  dist (latticeRow a) (latticeRow b) + dist (latticeCol a) (latticeCol b)

/-- The lattice links (R21): one for each pair of dies that are adjacent in a row or in a column, the lower die first. Link n of a
report is the n-th of this list; the spec numbers the links 0 to 23 and names no order (DESIGN CHOICE, assumption 76). -/
def latticeLinks : List (Die × Die) :=
  (List.finRange 16).flatMap fun a => ((List.finRange 16).filter fun b => decide (a < b) && latticeHops a b == 1).map fun b => (a, b)

/-- The numbers passed on the way from `x` to `y`, `x` left out. -/
def walk (x y : Nat) : List Nat :=
  if x ≤ y then (List.range (y - x)).map fun i => x + 1 + i else (List.range (x - y)).map fun i => x - 1 - i

/-- The dies that a packet passes from `a` to `b`, both included (R22): first along the row of `a` to the column of `b`, then along
that column. -/
def latticeRoute (a b : Die) : List Die :=
  a :: ((walk (latticeCol a) (latticeCol b)).map fun c => Fin.ofNat 16 (4 * latticeRow a + c)) ++
    (walk (latticeRow a) (latticeRow b)).map fun r => Fin.ofNat 16 (4 * r + latticeCol b)

/-- The two compute dies to which an edge die is attached (R27), attachment 1 first. -/
def edgeDies (e : Edge) : List Die :=
  match e.val with
  | 0 => [1, 2]
  | 1 => [7, 11]
  | 2 => [13, 14]
  | _ => [4, 8]

/-- The two compute dies to which a control die is attached (R27). -/
def controlDies (c : Ct) : List Die := if c.val = 0 then [0, 12] else [3, 15]

/-- The attachment with the shorter route to `d`; of two routes of one length the first attachment's (assumption 76). -/
def nearest (l : List Die) (d : Die) : Option Die :=
  l.foldl (fun (best : Option Die) x => match best with
    | some y => if latticeHops x d < latticeHops y d then some x else best
    | none => some x) none

/-- The attachments of an edge die that are up. -/
def State.upDies (s : State) (e : Edge) : List Die :=
  ((edgeDies e).zipIdx.filter fun x => (s.edge e).attach.getLsbD x.2).map Prod.fst

/-- The compute die at which a sender's packets to `d` enter the lattice (R27): its own die, or the nearer of the attachments that are
up; none where an edge die has lost both. -/
def State.entryDie (s : State) (n : Node) (d : Die) : Option Die :=
  match n with
  | .die x => some x
  | .edge e => nearest (s.upDies e) d
  | .ct c => nearest (controlDies c) d

/-- The route of a packet through the lattice (R22, R27); empty where it cannot be sent. -/
def State.packetRoute (s : State) (n : Node) (d : Die) : List Die :=
  match s.entryDie n d with
  | some x => latticeRoute x d
  | none => []

end Sys2Proof.Machine
end

