-- ==== Sys2Proof/Machine/Policy.lean ====
section
/-!
DEFINITION. What happens when a cluster, a die or a stack is lost or reset (R78, R286, R287, R321, R360 to R363, R440), and
the standing policies that act on reports (R443, R449, R451, R497).
-/

namespace Sys2Proof.Machine

/-! ## Work that loses its place -/

/-- Rows of a pass wait again (R440): each request's rows are ready for the die's next pass. -/
def State.rejoin (s : State) (p : Pass) : State :=
  { s with requests := s.requests.map fun q =>
      let n := (p.rows.filter fun r => r.request == some q.id).length
      if n = 0 || q.state = RState.done || q.state = RState.ended then q
      else { q with ready := q.ready + n, placed := q.placed - n, since := s.now, inPass := false } }

/-- A stream is some cabinet's serving stream (R61). -/
def State.isServing (s : State) (st : Nat) : Bool := ((s.stream? st).map Stream.owner) == some 2

/-- The serving stream's descriptors on a die stop. -/
def State.stopServing (s : State) (d : Die) : State :=
  { s with flights := s.flights.filter fun f => !(f.die == d && s.isServing f.stream.val)
           vengines := s.vengines.map fun v =>
             if v.u.die == d && !v.desc.isEmpty && s.isServing (bits (wordAt v.desc 0) 23 12) then VEngine.reset v.u else v }

/-- The seatings of a die are cut: its pass, and those waiting at it or on their way to it. -/
def State.cutDie (s : State) (d : Die) : State :=
  let x := s.die d
  let loose : Pass := { seating := 0, trans := false, rows := x.again, unseated := [], tokens := [], started := 0, clips := 0,
                        withheld := false, mid := false }
  let s := ((x.pass.toList ++ x.arrived ++ x.onLink ++ [loose]).foldl State.rejoin s).stopServing d
  s.modDie d fun x => { x with pass := none, arrived := [], onLink := [], again := [], tokensOnWay := [], waitExpired := false, segment := 0,
                               panelNext := none }

/-- Rows of a die's pass that satisfy `p` are unseated: they end without a result and run again in the die's next pass (R100). -/
def State.unseat (s : State) (d : Die) (p : SeatRow → Bool) : State :=
  let mark : Pass → Pass := fun x =>
    { x with unseated := (x.unseated ++ (x.rows.zipIdx.filter fun r => p r.1).map Prod.snd).dedup }
  s.modDie d fun x => { x with pass := x.pass.map mark }

/-- Issued descriptors without a cluster; one that is left without any stops. -/
def State.stopOn (s : State) (d : Die) (l : Nat) : State :=
  let mk : Flight → Flight := fun f =>
    if f.die = d then { f with clusters := f.clusters &&& ~~~(BitVec.ofNat 8 (1 <<< l)) } else f
  { s with flights := (s.flights.map mk).filter fun f => !(f.die == d && f.clusters == 0) }

/-- Every seating of the span groups that hold a die. -/
def State.cutGroup (s : State) (d : Die) : State :=
  match s.cabOfDie d with
  | none => s.cutDie d
  | some c => (s.groupOfCab c (groupOf (s.cab c).span d)).foldl State.cutDie s

/-- What a cluster reset clears (R86, R439): store, slots, lines, buffers, tile entries and SAT, vector engine. -/
def State.clearCluster (s : State) (d : Die) (c : Phys) : State :=
  { s with
    clusters := s.clusters.filter fun x => !(x.die == d && x.cl == c)
    tiles := s.tiles.map fun t =>
      if t.die == d && t.cl == c then { t with entries := [], sat := false, pair := false, rowMarks := [] } else t
    vengines := s.vengines.map fun v => if v.u.die == d && v.u.cl == c then VEngine.reset v.u else v }

/-- The logical number of a physical cluster. -/
def State.logicalOf (s : State) (d : Die) (c : Phys) : Option Nat :=
  let i := (s.die d).map.idxOf c
  if i < (s.die d).map.length then some i else none

/-- A job has an unretired descriptor on a cluster (R440). -/
def State.jobOnCluster (s : State) (j : Job) (d : Die) (c : Phys) : Bool :=
  (s.flights.any fun f => f.stream == j.stream && f.issue.jobSeq == j.seq && f.die == d &&
      (match s.logicalOf d c with | some l => (bits (wordAt f.issue.words 1) 7 0).testBit l | none => false)) ||
    s.vengines.any fun v => !v.desc.isEmpty && v.u.die == d && v.u.cl == c && v.jobSeq == j.seq && !v.finished &&
      bits (wordAt v.desc 0) 23 12 == j.stream.val

/-- Jobs with an unretired descriptor on a cluster end with RESET_ABORTED (R440). -/
def State.abortCluster (s : State) (d : Die) (c : Phys) : State :=
  s.endJobs (fun j => decide (1 ≤ j.phase.val) && s.jobOnCluster j d c) Code.resetAborted

/-- The work of a cluster stops (R78, R440): jobs with a descriptor there end, its rows of the pass under way run again, and what it holds
is cleared. -/
def State.loseCluster (s : State) (d : Die) (c : Phys) : State :=
  let s := s.abortCluster d c
  let s := match s.logicalOf d c with
    | some l => (s.unseat d fun r => r.cluster == l).stopOn d l
    | none => s
  s.clearCluster d c

/-- Steps in flight of runs whose group holds a die are discarded for a cause (R285, R287). -/
def State.dropSteps (s : State) (d : Die) (cause : Nat) : State :=
  (s.runs.filter fun r => hasDie r.dies d.val && r.inStep).foldl (fun s r => s.dropStep r.id cause) s

/-- Open reductions of which a die is a member fail with MEMBER_LOST (R321). -/
def State.memberLost (s : State) (d : Die) : State :=
  { s with reductions := s.reductions.map fun x =>
      if x.state = 0 && x.era = 0 && x.chain.contains d then
        { x with state := 2, cause := Code.memberLost, items := [], acc := none, closeTime := s.now }
      else x }

/-! ## Regrouping (R286, R287) -/

/-- The span groups of a run's cabinet, outside the run, whose dies are all in service and in no reset. -/
def State.substitutes (s : State) (r : Run) : List Die :=
  (s.cab r.cab).groups.filter fun g =>
    !hasDie r.dies g.val && (s.groupOfCab r.cab g).all fun d => (s.die d).inService && !s.resetHolds d

/-- A run's group without the span group of a die, or with another in its place (R287): none where neither is possible. -/
def State.newGroup (s : State) (r : Run) (d : Die) : Option (BitVec 16) :=
  let bad := groupOf (s.spanOf r) d
  let keep := (diesOf r.dies).filter fun x => groupOf (s.spanOf r) x != bad
  match s.substitutes r with
  | g :: _ => some (mapOf (keep ++ s.groupOfCab r.cab g))
  | [] => if keep.isEmpty then none else some (mapOf keep)

/-- The replica of an owner (R282). -/
def State.replicaOf (s : State) (r : Run) (p : Nat) (owner : Die) : Option Die :=
  let chain := s.chainOf r p
  if chain.length ≤ 1 then
    ((List.range 15).map fun i => ringOrder.getD ((ringPos owner + 1 + i) % 16) 0).find? fun d =>
      hasDie (s.cab r.cab).dies d.val && (s.die d).inService
  else some (chain.getD ((chain.idxOf owner + 1) % chain.length) 0)

/-- Both copies of a shard are lost (R286). -/
def State.stateLost (s : State) (r : Run) : Bool :=
  let isLost := fun (d : Die) => r.perDie.any fun x => x.die == d && x.lost
  (List.range (s.spanOf r)).any fun p => (s.chainOf r p).any fun d =>
    isLost d && (match s.replicaOf r p d with | some q => isLost q | none => true)

/-- A run's pages on the dies of its present group (R287, R289). -/
def State.moveRun (s : State) (r : Run) (dies : BitVec 16) : Option State :=
  let s := s.freeRunPages r.id
  let s := { s with residencies := s.residencies.filter fun x => !(x.cab == r.cab && x.slot == r.slot) }
  let r' := { r with dies := dies }
  let s := s.modRun r.id fun r => { r with dies := dies }
  let mk : Die → Residency := fun g =>
    { cab := r.cab, slot := r.slot, group := g, state := 1, pins := 0, pages := 0, lastRead := 0, image := none }
  let s := { s with residencies := s.residencies ++ (s.runGroups r').map mk }
  match (s.slot? r.cab r.slot).bind Slot.image with
  | some img => s.allocRun? r' img
  | none => some s

/-- RUN_REGROUP (R287, R449): the group is changed, copies are rebuilt, feedback starts anew (R326). -/
def State.regroup (s : State) (id : BitVec 32) (d : Die) : State :=
  match s.run? id with
  | none => s
  | some r =>
    if !hasDie r.dies d.val || decide (6 ≤ r.state.val) || r.unmounted then s
    else if s.stateLost r then s.runFail id Code.runStateLost
    else if !(s.policy 8).on then s.runFail id Code.memberLost
    else match (s.newGroup r d).bind fun m => (s.moveRun r m).map fun s' => (m, s') with
      | none => s.runFail id Code.memberLost
      | some (m, s) =>
        let s := s.modRun id fun r =>
          { r with perDie := (diesOf m).map fun x =>
              { die := x, gbuf := [], feedback := [], feedbackNext := [], tokens := 0, fwdRows := 0, backRows := 0, backwardDone := false,
                isReady := false, switched := true, lost := false, counts := Counts.zero } }
        (s.policyAct 8 (put m.toNat 32 + id.toNat)).beginStep id

/-- Runs of a group that lost a die (R285, R287): the step is discarded, the group is changed, the step runs again; of a stopped run the
group is changed, so that no chain holds the die (R26). -/
def State.runsLoseDie (s : State) (d : Die) : State :=
  (s.runs.filter fun r => hasDie r.dies d.val && decide (r.state.val ≤ 5)).foldl (fun s r =>
    let s := if r.inStep then s.discardStep r.id Code.memberLost
        (if r.stopping then RunSt.stopped else RunSt.running) else s
    if r.stopping then s.completeStop r.id else s.regroup r.id d) s

/-! ## Serving work of a lost group (R449 SEATING_MIGRATE) -/

/-- A request is admitted anew (R243, R354): pages and pin given back, its tokens to be run again. -/
def State.requeue (s : State) (q : Request) : State :=
  let s := s.freePages fun x => x.kind == PKind.kv && x.ownerRef == BitVec.ofNat 32 q.id
  let s := s.modRequest q.id fun q =>
    { q with state := RState.queued, group := none, placed := 0, ready := 0, inPass := false, pinned := false, kvPages := 0 }
  let s := match q.pinned, q.slot, q.group with
    | true, some n, some g => s.unpin q.cab n g
    | _, _, _ => s
  s.tryAdmit q.id

/-- A span group can no longer pass (R363, R449 SEATING_MIGRATE): its requests are re-admitted elsewhere, or end. -/
def State.migrate (s : State) (c : Cab) (g : Die) (code : Nat) : State :=
  let qs := s.requests.filter fun q => q.cab == c && q.group == some g && q.live
  if qs.isEmpty then s
  else if (s.policy 3).on then
    (qs.foldl State.requeue s).policyAct 3 (put c.val 44 + put (mapOf (s.groupOfCab c g)).toNat 28)
  else qs.foldl (fun s q => s.endRequest q.id code) s

/-! ## Retirements (R78, R452, R454, R497) -/

/-- The physical clusters of a die that stand as active, ascending (R77). -/
def DieSt.ascending (d : DieSt) (drop : Phys) : List Phys :=
  sortBy Fin.val (d.mapNow.filter fun c => c != drop)

/-- A new cluster map, which takes effect between passes (R77, R78): at once on a die without a pass, else at the next pass boundary. -/
def DieSt.remap (x : DieSt) (m : List Phys) : DieSt :=
  if x.pass.isSome then { x with nextMap := some m } else { x with map := m, nextMap := none }

/-- A cluster is retired (R78, R449, R454, R497): its rows of the pass under way run again; the spare takes its number after a reset, or the
map is made again. -/
def State.retireCluster (s : State) (d : Die) (c : Phys) : State :=
  let x := s.die d
  if !x.inService || x.clusters.getD c.val 2 = 2 then s
  else if !x.mapNow.contains c then
    (s.modDie d fun x => { x with clusters := updAt c.val (fun _ => 2) x.clusters }).policyAct 1
      (put d.val 44 + put c.val 40 + put 0xf 36)
  else
    let s := (s.loseCluster d c).modDie d fun x => { x with clusters := updAt c.val (fun _ => 2) x.clusters }
    let s := match x.spare? with
      | some sp =>
        let s := s.modDie d fun y =>
          { y.remap (x.mapNow.map fun k => if k = c then sp else k) with clusters := updAt sp.val (fun _ => 3) y.clusters }
        let s := s.clearCluster d sp
        let job : ResetJob :=
          { scope := .cluster d sp, replies := [], words := [word (put d.val 60 + put sp.val 56)], started := true }
        let more := if (s.covering job.scope).isSome then [] else [job]
        (s.modCp fun k => { k with resets := k.resets ++ more }).policyAct 1
          (put d.val 44 + put c.val 40 + put sp.val 36)
      | none =>
        (s.modDie d fun y => y.remap (x.ascending c)).policyAct 1
          (put d.val 44 + put c.val 40 + put 0xf 36)
    (s.dropSteps d Code.resetAborted).checkReserves

/-- A die is retired (R321, R449, R452): its clusters stop; what R20 says of its spare stays. -/
def State.retireDie (s : State) (d : Die) : State :=
  if !(s.die d).inService then s
  else
    let s := s.cutGroup d
    let s := s.modDie d fun x =>
      { x with inService := false, map := [], nextMap := none,
               clusters := x.clusters.zipIdx.map fun k => if k.1 = 3 && (x.mapNow.map Fin.val).contains k.2 then 0 else k.1 }
    let s := s.policyAct 2 (put d.val 44)
    let s := s.endJobs (fun j => hasDie j.dies d.val) Code.resetAborted
    let s := (List.finRange 9).foldl (fun s c => s.clearCluster d c) s
    let s := (s.memberLost d).runsLoseDie d
    let s := match s.cabOfDie d with
      | some c => s.migrate c (groupOf (s.cab c).span d) Code.resetAborted
      | none => s
    s.checkReserves

/-- Suppliers for a die that lost a stack (R361). -/
def State.supplierList (s : State) (d : Die) : List Die :=
  match s.cabOfDie d with
  | none => []
  | some c =>
    match (s.cab c).shelf with
    | none => []
    | some sh =>
      let same := fun (x : Die) => match s.cabOfDie x with
        | some k => ((s.cab k).shelf.map ShelfImage.meas) == some sh.meas && posOf (s.cab k).span x == posOf (s.cab c).span d &&
            (s.cab k).span == (s.cab c).span
        | none => false
      let all := (List.finRange 16).filter fun x =>
        x != d && (s.die x).inService && same x && (stacksOf x).all fun h => (s.stk h).inService
      (sortBy (fun x => latticeHops d x) all).take 3

/-- Pages of a stack are lost (R360): their owners still name them, a sweep has nothing left to do in them (R388); runs that kept
state there are marked (R286). -/
def State.loseStack (s : State) (h : Stack) : State :=
  let d := dieOf h
  let lower := fun (g : Glove) =>
    let n := (s.pages.filter fun x => x.stack == h && x.glove == g.id && x.keyGen + 1 == g.gen).length
    if g.prevHeld then { g with prevPages := g.prevPages - n } else g
  let swept := fun (p : Page) =>
    if p.stack == h && p.kind != PKind.withdrawn then { p with keyGen := s.gloveGen p.glove, sweep := false, mark := 0, zeroing := false }
    else p
  let s := { s with pages := s.pages.map swept, rot := { s.rot with gloves := s.rot.gloves.map lower },
                    merges := s.merges.filter fun m => m.stack != h,
                    runs := s.runs.map fun (r : Run) =>
                      { r with perDie := r.perDie.map fun (x : RunDie) => if x.die == d then { x with lost := true } else x } }
  ((s.modStk h fun x => { x with inService := false, failed := true, cache := [] }).blocksGone fun b => b == .controller h).settleSweeps

/-- STACK_RETIRE (R360, R361, R363, R449). -/
def State.retireStack (s : State) (h : Stack) : State :=
  if !(s.stk h).inService then s
  else
    let d := dieOf h
    let s := s.loseStack h
    let s := s.modDie d fun x => { x with suppliers := s.supplierList d }
    let s := s.policyAct 6 (put h.val 43)
    let s := (s.runs.filter fun r => hasDie r.dies d.val && decide (r.state.val ≤ 4)).foldl (fun s r =>
      let s := s.dropStep r.id Code.dataUncorrectable
      if s.stateLost r then s.runFail r.id Code.runStateLost
      else s.modRun r.id fun r => { r with perDie := r.perDie.map fun x => if x.die = d then { x with lost := false } else x }) s
    let s := match s.cabOfDie d with
      | some c =>
        if (s.die d).suppliers.isEmpty && (s.cab c).shelf.isSome then
          (s.cutGroup d).migrate c (groupOf (s.cab c).span d) Code.shelfIncomplete
        else s
      | none => s
    s.checkReserves

/-! ## Reports (R446, R449, R451, R497) -/

/-- The physical cluster that a report names: blocks 1 to 4 (R446). -/
def clusterOf (r : Report) : Option Phys :=
  if 1 ≤ r.block.val && r.block.val ≤ 4 && r.unit.val < 9 then some (Fin.ofNat 9 r.unit.val) else none

/-- The block of a report has been retired (R451). -/
def State.retiredBlock (s : State) (r : Report) : Bool :=
  match clusterOf r with
  | some c => !(s.die r.die).inService || (s.die r.die).clusters.getD c.val 2 == 2
  | none =>
    if r.block = 0 || r.block = 6 then !(s.die r.die).inService
    else if r.block = 5 then !(s.stk (Fin.ofNat 32 r.unit.val)).inService
    else false

/-- Reports of an object that count for a policy within its window (R449). -/
def State.countOf (s : State) (policy object : Nat) : Nat :=
  (s.cp.history.filter fun h => h.1 == policy && h.2.1 == object &&
    decide (s.now ≤ s.stamp h.2.2 + (s.policy policy).window * 1000000)).length

def State.note (s : State) (policy object : Nat) : State :=
  s.modCp fun c => { c with history := c.history ++ [(policy, object, s.now)] }

/-- CLUSTER_RETIRE (R449, R497). -/
def State.policyCluster (s : State) (r : Report) : State :=
  match clusterOf r with
  | none => s
  | some c =>
    let object := 16 * r.die.val + c.val
    let s := if r.cls = Cls.storeCorrected then s.note 1 object else s
    let due := decide (r.cls = Cls.storeCorrected) && decide ((s.policy 1).threshold ≤ s.countOf 1 object) ||
      r.cls = Cls.logic || r.cls = Cls.storeUncorrectable
    if (s.policy 1).on && due then s.retireCluster r.die c else s

/-- A cluster report that names the spare (R497). -/
def State.ofSpare (s : State) (r : Report) : Bool :=
  match clusterOf r with
  | some c => !(s.die r.die).mapNow.contains c
  | none => false

/-- DIE_RETIRE (R449): CONTAINED reports of the die, a die reported failed, too few clusters left. -/
def State.policyDie (s : State) (r : Report) (spare lostCluster : Bool) : State :=
  let ofDie := (decide (r.block.val ≤ 4) || r.block = 6) && !spare
  let s := if r.severity = 1 && ofDie then s.note 2 r.die.val else s
  let x := s.die r.die
  let due := (r.severity = 1 && ofDie && decide ((s.policy 2).threshold ≤ s.countOf 2 r.die.val)) ||
    (r.cls = Cls.testFail && r.block = 0) ||
    (lostCluster && !spare && x.inService && x.spare?.isNone && decide (x.mapNow.length < 7))
  if (s.policy 2).on && due then s.retireDie r.die else s

/-- STACK_RETIRE (R449). -/
def State.policyStack (s : State) (r : Report) : State :=
  if r.block != 5 then s
  else
    let s := if r.cls = Cls.memUncorrectable then s.note 6 r.unit.val else s
    let due := (r.cls = Cls.memUncorrectable && decide ((s.policy 6).threshold ≤ s.countOf 6 r.unit.val)) ||
      (r.cls = Cls.testFail && r.severity == 2)
    if (s.policy 6).on && due then s.retireStack (Fin.ofNat 32 r.unit.val) else s

/-- A fault report is taken (R446, R451): its routes, then the policies it triggers in ascending code. -/
def State.report (s : State) (r : Report) : State :=
  let gone := s.retiredBlock r
  let spare := s.ofSpare r
  let s := s.logReport r 0xff 0
  if gone then s
  else
    let s' := s.policyCluster r
    let lost := match clusterOf r with
      | some c => (s.die r.die).clusters.getD c.val 2 != (s'.die r.die).clusters.getD c.val 2
      | none => false
    (s'.policyDie r spare lost).policyStack r

/-- An isolation report (R445): CHECK, the block that found it. -/
def State.isolation (s : State) (check : Nat) (block : Fin 16) (unit : Fin 64) (die : Die) (cab : Option Cab)
    (touched : List Touch) : State :=
  s.report { cls := Cls.isolation, severity := 1, block := block, unit := unit, die := die, cab := cab,
             d2 := word (put check 56), d3 := 0, touched := touched }

end Sys2Proof.Machine
end

