-- ==== Sys2Proof/Machine/Hatband.lean ====
section
/-!
DEFINITION. The hatband's events (R295 to R322), low-rank thinning (R323 to R326), the optimiser step of a shard (R276, R280),
READY, and the commit point (R282 to R284).
-/

namespace Sys2Proof.Machine

/-! ## Contributions (R301, R324) -/

/-- What a run holds on a die. -/
def Run.onDie (r : Run) (d : Die) : Option RunDie := r.perDie.find? fun x => x.die == d

/-- An entry of the gradient buffer, an empty one read as +0 (R301). -/
def RunDie.grad (x : RunDie) (i : Nat) : Nat := ((assocGet i x.gbuf).getD 0).toNat

/-- A gradient with the committed feedback (R324). -/
def RunDie.gradFed (x : RunDie) (i : Nat) : Nat :=
  match assocGet i x.feedback with
  | none => x.grad i
  | some f => afAdd (x.grad i) f.toNat

/-- The shape of a thinned projection at a position: first parameter index, K, N, rank, q, and the seed of its step (R324). -/
structure Thin where
  base : Nat
  k : Nat
  n : Nat
  r : Nat
  q : Nat
  seed : Nat
  deriving DecidableEq, Repr

/-- The thinned projections of a position for step `step`, in table order (R324, R325). -/
def State.thins (s : State) (r : Run) (img : DrawerImage) (p step : Nat) : List Thin :=
  let (lo, hi) := s.layersOf r.cab p
  (s.factorList r img p).filterMap fun f => (projsOf img)[f.1]?.map fun x =>
    { base := paramBase img lo hi f.1, k := x.2.2.1, n := x.2.2.2, r := rankOf img, q := f.2.1,
      seed := (r.seed.toNat ^^^ (step * 0xc2b2ae35 % 2 ^ 32)) ^^^ (f.1 * 0x9e3779b1 % 2 ^ 32) }

/-- u of R324: the sign of entry (i, j) of the basis over K, then over N. -/
def Thin.u (t : Thin) (i j : Nat) : Bool := basisNeg t.k t.q t.seed i j
def Thin.v (t : Thin) (i j : Nat) : Bool := basisNeg t.n t.q (t.seed ^^^ 1) i j

/-- The parameter indexes of the two planes (R279). -/
def Thin.ia (t : Thin) (k c : Nat) : Nat := t.base + k * t.r + c
def Thin.ib (t : Thin) (c n : Nat) : Nat := t.base + t.k * t.r + c * t.n + n

/-- An exact signed sum rounded once to AF42. -/
def signedSum (l : List (Bool × Nat)) : Nat := (roundAF (sumAll (l.map fun p => signedBy p.1 (af p.2)))).1

/-- Factor P, q × r, then factor Q, r × q, of a die's gradients (R324). -/
def Thin.factors (t : Thin) (x : RunDie) : List Nat :=
  ((List.range t.q).flatMap fun j => (List.range t.r).map fun c =>
      signedSum ((List.range t.k).map fun k => (t.u k j, x.gradFed (t.ia k c)))) ++
    ((List.range t.r).flatMap fun c => (List.range t.q).map fun j =>
      signedSum ((List.range t.n).map fun n => (t.v n j, x.gradFed (t.ib c n))))

/-- x ÷ n for a power of two, exactly. -/
def overPow (n : Nat) (x : FV) : FV := divPow2 x (Nat.log2 n : Int)

/-- What factors give back for parameter index `i` of a thinned projection (R324): Σ ± factor ÷ length, exactly. -/
def Thin.back (t : Thin) (fs : List Nat) (i : Nat) : FV :=
  let o := i - t.base
  if o < t.k * t.r then
    overPow t.k (sumAll ((List.range t.q).map fun j => signedBy (t.u (o / t.r) j) (af (fs.getD (j * t.r + o % t.r) 0))))
  else
    let o := o - t.k * t.r
    let c := o / t.n
    overPow t.n (sumAll ((List.range t.q).map fun j =>
      signedBy (t.v (o % t.n) j) (af (fs.getD (t.q * t.r + c * t.q + j) 0))))

/-- Parameters of a thinned projection. -/
def Thin.size (t : Thin) : Nat := t.r * (t.k + t.n)
/-- Elements of its factors. -/
def Thin.width (t : Thin) : Nat := 2 * t.q * t.r

/-- The image in a run's slot. -/
def State.runSlotImage (s : State) (r : Run) : Option DrawerImage := (s.slot? r.cab r.slot).bind Slot.image

/-- The parameters of an unthinned bucket, ascending (R299). -/
def State.bucketParams (s : State) (r : Run) (img : DrawerImage) (x : Reduction) : List Nat :=
  let owner := (s.chainOf r x.position.val).idxOf x.owner
  ((s.shardParams r img x.position.val owner).filter fun i => decide (x.firstParam ≤ i)).take x.elems

/-- A die's contribution to a bucket (R301): AF42 codes. -/
def State.contribution (s : State) (r : Run) (img : DrawerImage) (x : Reduction) (d : RunDie) : List Nat :=
  if x.thinned then
    (((s.thins r img x.position.val x.step).flatMap fun t => t.factors d).drop x.firstParam).take x.elems
  else (s.bucketParams r img x).map d.grad

/-- The die holds a sequence of the step. -/
def State.holdsSeq (s : State) (r : Run) (d : Die) : Bool := r.step.any fun q => q.home == groupOf (s.spanOf r) d

/-- A transposed segment of the step has started on a die of the group (R301). -/
def State.backStarted (s : State) (r : Run) : Bool :=
  r.perDie.any (fun x => decide (0 < x.backRows)) ||
    (diesOf r.dies).any fun d => match (s.die d).pass with
      | some p => p.trans && p.rows.any fun w => w.run == some r.id
      | none => false

/-- The conditions of R301 for a die's contribution. -/
def State.contributes (s : State) (r : Run) (d : RunDie) : Bool :=
  if s.holdsSeq r d.die then d.backwardDone else s.backStarted r

/-! ## What travels (R302, R303) -/

/-- The reduction descriptor of a bucket (R302), four words; the virtual channel is the run's. -/
def State.redDescriptor (s : State) (x : Reduction) : List Word :=
  let vc := (((s.run? x.run).bind Run.vc).map Fin.val).getD 0
  [ word (put x.id.toNat 40 + put vc 37 + put x.position.val 35 + x.run.toNat),
    word (put (mapOf x.chain).toNat 48 + put x.owner.val 44 + put (x.chain.headD 0).val 40 + put (b2n x.descending) 39 +
      put (b2n x.ordered) 38 + put (b2n x.bcast) 37 + put x.wire.val 34 + x.step),
    word (put x.firstParam 24 + x.elems), word (put x.deadline 32 + put x.tauExp 26 + put x.headroom 23) ]

/-- The header of an item (R303), eight words; on the result lap of a broadcast bucket with RESULT, and FAILED where its check failed. -/
def Item.headerWords (i : Item) (id : BitVec 24) (result failed : Bool) : List Word :=
  [ word (put id.toNat 40 + put i.held.toNat 24 + put i.dropped.toNat 8 + put (b2n result) 7 + put (b2n failed) 6),
    word (put i.tokens 32 + i.droppedTokens), word i.cs.toNat, word i.absSum.toNat, word i.errAbs.toNat,
    word (put i.lifts 32 + i.satBlocks), 0, 0 ]

/-- The header on a broadcast bucket's result lap (R325). -/
def Reduction.resultHeader (x : Reduction) : List Word :=
  match x.acc with
  | none => []
  | some i => i.headerWords x.id true (x.state == 2)

/-! ## Items on their way (R304, R305) -/

/-- The member after `d` in the chain order. -/
def Reduction.next (x : Reduction) (d : Die) : Die := x.chain.getD (x.chain.idxOf d + 1) x.owner

/-- Bit of a die. -/
def dieBit (d : Die) : BitVec 16 := mapOf [d]

/-- Combine an item with the owner's accumulator (R304). -/
def Reduction.take (x : Reduction) (i : Item) : Reduction :=
  { x with acc := some (match x.acc with
      | none => i
      | some a => mergeItems x.wire.val x.headroom a i) }

/-- The owner's check once every member is held or dropped (R306, R316); the step's time is `now`. -/
def Reduction.settle (x : Reduction) (now : Nat) : Reduction :=
  match x.acc with
  | none => x
  | some a =>
    if x.state != 0 || (a.held ||| a.dropped) != mapOf x.chain then x
    else
      let (out, a) := handOn x.wire.val x.elems a
      let (r, bad) := checkSum x.tauExp out a
      { x with acc := some a, result := out.map fun c => BitVec.ofNat 42 c, r := BitVec.ofNat 42 r, items := [],
               state := if bad.isSome then 2 else 1, cause := bad.getD 0, closeTime := now }

/-- An item sent on from member `d`. -/
def Reduction.send (x : Reduction) (d : Die) (i : Item) : Reduction :=
  { x with items := x.items ++ [{ i with nextHop := x.next d, waiting := false }] }

/-- An item that has met member `d`: to the owner's accumulator, or on. -/
def Reduction.pass (x : Reduction) (d : Die) (i : Item) (now : Nat) : Reduction :=
  if d = x.owner then (x.take i).settle now else x.send d i

/-- An item of the same virtual channel and direction is on the first hop from `d` (R296, R304). -/
def State.portBusy (s : State) (x : Reduction) (d : Die) : Bool :=
  s.reductions.any fun y => y.run == x.run && y.descending == x.descending && y.state == 0 &&
    y.items.any fun i => !i.waiting && y.chain.contains d && decide (y.chain.idxOf d + 1 < y.chain.length) &&
      i.nextHop == y.next d

def State.modRed (s : State) (id : BitVec 24) (f : Reduction → Reduction) : State :=
  { s with reductions := updFirst (fun x => x.id == id && x.era == 0) f s.reductions }

/-- The reduction of a step in flight with an id. -/
def State.red? (s : State) (id : BitVec 24) : Option Reduction := s.reductions.find? fun x => x.id == id && x.era == 0

/-- The order in which items left on the legs that they are on (R296), brought up to date: those that arrived or were lost go, those that
have left since are added. An item is its reduction, its origin and the member that it goes to. -/
def State.trackItems (s : State) : State :=
  let now := (s.reductions.filter fun x => x.era == 0 && x.state == 0).flatMap fun x =>
    (x.items.filter fun i => !i.waiting).map fun i => (x.id, i.origin, i.nextHop)
  { s with hopOrder := (s.hopOrder.filter fun k => now.contains k) ++ now.filter fun k => !s.hopOrder.contains k }

/-- The hops of the ring from die `a` to die `b` in a direction; hop h leaves the h-th die of R24. -/
def hopsBetween (descending : Bool) (a b : Die) : List Nat :=
  let i := ringPos a
  let j := ringPos b
  if descending then (List.range ((i + 16 - j) % 16)).map fun k => (i + 15 - k) % 16
  else (List.range ((j + 16 - i) % 16)).map fun k => (i + k) % 16

/-- The member from which an item comes. -/
def Reduction.prev (x : Reduction) (d : Die) : Die := x.chain.getD (x.chain.idxOf d - 1) d

/-- The hops that an item takes to its next member: in its direction, or the other way round broken hops. -/
def State.itemHops (s : State) (x : Reduction) (i : Item) : List Nat :=
  let a := x.prev i.nextHop
  let way := hopsBetween x.descending a i.nextHop
  if way.any fun h => s.hopsBroken.getLsbD h then hopsBetween (!x.descending) a i.nextHop else way

/-- An item would overtake another of its virtual channel and direction (R296): one that left the same member before it and does not go
further is still on its way. -/
def State.overtakes (s : State) (x : Reduction) (i : Item) : Bool :=
  (s.hopOrder.takeWhile fun k => k != (x.id, i.origin, i.nextHop)).any fun k => match s.red? k.1 with
    | none => false
    | some y => y.run == x.run && y.descending == x.descending && y.state == 0 && y.prev k.2.2 == x.prev i.nextHop &&
        y.items.any fun j => j.origin == k.2.1 && j.nextHop == k.2.2 && !j.waiting &&
          decide ((s.itemHops y j).length ≤ (s.itemHops x i).length)

/-- The contribution of die `d` to a bucket as a new item. -/
def State.itemOf (s : State) (x : Reduction) (d : Die) : Option Item :=
  match s.run? x.run with
  | none => none
  | some r => match s.runSlotImage r, r.onDie d with
    | some img, some y => some (newItem x.wire.val x.headroom d (s.contribution r img x y) y.tokens)
    | _, _ => none

/-- The send queues of a member, head by head while its port is free (R304): the queue of a direction is in ascending id. -/
def State.pump (s : State) (id : BitVec 24) (d : Die) : State :=
  match s.red? id with
  | none => s
  | some x =>
    if s.portBusy x d then s
    else
      let mine := s.reductions.filter fun y => y.run == x.run && y.descending == x.descending && y.state == 0 &&
        y.era == 0 && hasDie y.queued d.val
      match minBy (fun (y : Reduction) => y.id.toNat) mine with
      | none => s
      | some y => match s.itemOf y d with
        | some i => s.modRed y.id fun z => ({ z with queued := z.queued &&& ~~~dieBit d } : Reduction).send d i
        | none => s

/-- Member `d`'s contribution added to an item that meets it (R304, R305). -/
def State.addAt (s : State) (x : Reduction) (d : Die) (i : Item) : Item :=
  match s.run? x.run with
  | none => i
  | some r => match s.runSlotImage r, r.onDie d with
    | some img, some y => addContribution x.wire.val x.headroom i d (s.contribution r img x y) y.tokens
    | _, _ => i

/-- Tokens of a die in the step. -/
def State.tokensOf (s : State) (x : Reduction) (d : Die) : Nat :=
  (((s.run? x.run).bind fun r => r.onDie d).map RunDie.tokens).getD 0

/-- mark_dropped (R305). -/
def State.markItem (s : State) (x : Reduction) (d : Die) (i : Item) : Item := i.header (dropMarker d (s.tokensOf x d))

/-- T_b of the bucket is 0 (R276, R318). -/
def Reduction.noTokens (x : Reduction) : Bool := x.state == 1 && x.tokens == 0

/-- After a change of a reduction: a failed one, or one with T_b 0, discards the step (R285). -/
def State.afterRed (s : State) (id : BitVec 24) : State :=
  match s.red? id with
  | none => s
  | some x =>
    if x.state = 2 then s.dropStep x.run x.cause
    else if x.noTokens then s.dropStep x.run Code.contributionDropped else s.openReductions

/-- A bucket of a chain of one die closes at once, unchecked (R301). -/
def State.closeAlone (s : State) (x : Reduction) (i : Item) (codes : List Nat) : State :=
  s.modRed x.id fun y =>
    { y with acc := some i, result := codes.map fun c => BitVec.ofNat 42 c, state := 1, ready := y.ready ||| dieBit x.owner,
             openTime := s.now, closeTime := s.now }

/-- A ready contribution enters the reduction (R304, R305). -/
def State.enter (s : State) (x : Reduction) (d : Die) (i : Item) : State :=
  if x.ordered then
    if x.chain.head? = some d then s.modRed x.id fun y => y.send d i
    else match x.items.find? fun z => z.waiting && z.nextHop == d with
      | none => s
      | some z =>
        let w := s.addAt x d z
        s.modRed x.id fun y => ({ y with items := y.items.filter fun k => k != z } : Reduction).pass d w s.now
  else if d = x.owner then s.modRed x.id fun y => (y.take i).settle s.now
  else (s.modRed x.id fun y => { y with queued := y.queued ||| dieBit d }).pump x.id d

/-- CONTRIBUTION_READY (R26, R301, R304, R305, R317, R318): the contribution enters the reduction; a dropped member's is discarded
and recorded in LATE; the stage of a retired die adds nothing. -/
def execContributionReady (die : Die) (red : BitVec 24) (s : State) : Out :=
  .next (match s.reductions.find? fun x => x.id == red && decide (x.era.val ≤ 1) with
    | none => s
    | some x =>
      match s.run? x.run with
      | none => s
      | some r => match r.onDie die with
        | none => s
        | some y =>
          if !(s.die die).inService then s
          else if x.state = 2 && x.era = 0 && r.inStep then s.dropStep r.id x.cause
          else if !x.opened || !x.chain.contains die || hasDie x.ready die.val || !s.contributes r y then s
          else if hasDie x.marked die.val then
            { s with reductions := updFirst (fun z => z == x) (fun z => { z with late := z.late ||| dieBit die }) s.reductions }
          else if x.state != 0 || x.era != 0 then s
          else match s.itemOf x die, s.runSlotImage r with
            | some i, some img =>
              if x.chain.length ≤ 1 then s.closeAlone x i (s.contribution r img x y) |>.afterRed x.id
              else
                let s := s.modRed x.id fun z =>
                  { z with ready := z.ready ||| dieBit die, openTime := if z.ready = 0 then s.now else z.openTime }
                ((s.enter x die i).afterRed x.id).trackItems
            | _, _ => s)

/-- HATBAND_ITEM (R296, R304, R305): the item of a bucket that started at `origin` reaches the member it goes to; one that another item of its
channel is ahead of cannot. -/
def execHatbandItem (red : BitVec 24) (origin : Die) (s : State) : Out :=
  .next (match s.red? red with
    | none => s
    | some x =>
      match x.items.find? fun i => i.origin == origin && !i.waiting with
      | none => s
      | some i => if s.overtakes x i then s else
        let m := i.nextHop
        let x0 : Reduction := { x with items := x.items.filter fun k => k != i }
        let s :=
          if x.state != 0 then s
          else if x.ordered then
            if hasDie x.ready m.val then
              let w := s.addAt x m i
              s.modRed red fun _ => x0.pass m w s.now
            else if hasDie x.marked m.val then
              let w := s.markItem x m i
              s.modRed red fun _ => x0.pass m w s.now
            else s.modRed red fun _ => { x0 with items := x0.items ++ [{ i with waiting := true }] }
          else if hasDie x.queued m.val then
            let w := s.addAt x m i
            s.modRed red fun _ => ({ x0 with queued := x0.queued &&& ~~~dieBit m } : Reduction).pass m w s.now
          else s.modRed red fun _ => x0.pass m i s.now
        ((s.pump red (x.prev m)).afterRed red).trackItems)

/-- One member dropped at the deadline (R317, R318). -/
def State.dropMember (s : State) (id : BitVec 24) (d : Die) : State :=
  match s.red? id with
  | none => s
  | some x =>
    let mk := dropMarker d (s.tokensOf x d)
    if x.ordered then
      if x.chain.head? = some d then s.modRed id fun y => y.send d mk
      else match x.items.find? fun z => z.waiting && z.nextHop == d with
        | none => s
        | some z => s.modRed id fun y =>
            ({ y with items := y.items.filter fun k => k != z } : Reduction).pass d (s.markItem x d z) s.now
    else s.modRed id fun y => y.pass d mk s.now

/-- CONTRIBUTION_DROPPED (R319): with the token count to the tenant, without it to the operator. -/
def State.reportDrop (s : State) (x : Reduction) (m : BitVec 16) (tokens : Nat) : State :=
  match s.run? x.run with
  | none => s
  | some r =>
    let pay := [word (put r.id.toNat 32 + x.step), word (put x.id.toNat 40 + put m.toNat 24)]
    let s := if r.remakeOf.isSome then s.postTenant r.tenant Event.contributionDropped 0 (pay ++ [word tokens])
      else s.postStream Event.contributionDropped r.stream (pay ++ [word tokens])
    s.postEvent Event.contributionDropped 0 pay

/-- DEADLINE (R317 to R319): every member that is not ready is dropped. -/
def execDeadline (red : BitVec 24) (s : State) : Out :=
  .next (match s.red? red with
    | none => s
    | some x =>
      if x.state != 0 || x.due || x.ready = 0 || decide (x.chain.length ≤ 1) then s
      else
        let gone := x.chain.filter fun d => !hasDie x.ready d.val
        let s := s.modRed red fun y => { y with due := true, marked := mapOf gone }
        if gone.isEmpty then s
        else
          let tokens := (gone.map fun d => s.tokensOf x d).sum
          let s := gone.foldl (fun s d => s.dropMember red d) s
          ((s.reportDrop x (mapOf gone) tokens).afterRed red).trackItems)

/-! ## The optimiser step of a shard (R276, R280) -/

/-- S and T_b of the parameters of a shard: index, reduced sum, tokens (R276, R325). -/
def State.reducedOf (s : State) (r : Run) (img : DrawerImage) (p : Nat) (owner : Die) : List (Nat × Nat × Nat) :=
  let reds := (s.stepReds r.id).filter fun x => x.position.val == p
  let plain := (reds.filter fun x => !x.thinned && x.owner == owner).flatMap fun x =>
    ((s.bucketParams r img x).zip x.result).map fun y => (y.1, y.2.toNat, x.tokens)
  let fac := sortBy Reduction.firstParam (reds.filter fun x => x.thinned)
  let sums := fac.flatMap fun x => x.result.map BitVec.toNat
  let chain := s.chainOf r p
  let (lo, hi) := shardOf (s.paramCount r.cab img p) chain.length (chain.idxOf owner)
  let step := (fac.head?.map Reduction.step).getD 0
  let walk := (s.thins r img p step).foldl (fun (acc : Nat × List (Nat × Nat × Nat)) t =>
    let fs := sums.drop acc.1
    let tok := ((fac.find? fun x => decide (x.firstParam ≤ acc.1) && decide (acc.1 < x.firstParam + x.elems)).map
      Reduction.tokens).getD 0
    let mine := ((List.range t.size).map fun o => t.base + o).filter fun i => decide (lo ≤ i) && decide (i < hi)
    (acc.1 + t.width, acc.2 ++ mine.map fun i => (i, (roundAF (t.back fs i)).1, tok))) (0, [])
  plain ++ (if chain.length ≤ 1 then [] else walk.2)

/-- round_f32(S ÷ T_b) (R276). -/
def gradF32 (sum tokens : Nat) : Nat := (roundX 0 .nearest ((af sum).quot (.fin false tokens 0))).1

/-- One parameter's new state (R224, R280, R281), and the body's conversion counters with what its split counts (R152, R153). -/
def updateParam (adamw : Bool) (h : Hyper) (k : Counts) (x : ParamState) (g : Nat) : ParamState × Counts :=
  let j := afExact (joinWR x.w.toNat x.r.toNat)
  let u := if adamw then adamStep h j g x.m.toNat x.v.toNat else sgdStep h j g x.m.toNat
  let (w, r, k) := splitW (af u.t) k
  ({ x with w := BitVec.ofNat 16 w, r := BitVec.ofNat 8 r, m := BitVec.ofNat 32 u.m, v := BitVec.ofNat 32 u.v }, k)

/-- The shadow state that an owner writes (R280 to R282), and the counters of its optimiser body. -/
def State.shadowOf (s : State) (r : Run) (img : DrawerImage) (d : Die) : List ParamState × Counts :=
  let p := posOf (s.spanOf r) d
  let h := hyperOf r.lr.toNat r.wd.toNat r.beta1.toNat r.beta2.toNat r.eps.toNat (r.epoch.toNat + 1)
  let cur := paramsAt r.current p
  (s.reducedOf r img p d).foldl (fun (acc : List ParamState × Counts) x =>
    match cur.find? fun y => y.index == x.1 with
    | some y =>
      let n := updateParam (r.opt == 0) h acc.2 y (gradF32 x.2.1 x.2.2)
      (acc.1 ++ [n.1], n.2)
    | none => acc) ([], Counts.zero)

/-- Every bucket of the owner's shard has been reduced (R280): its own buckets, and the factor buckets of its chain. -/
def State.shardReduced (s : State) (r : Run) (d : Die) : Bool :=
  let p := posOf (s.spanOf r) d
  (s.stepReds r.id).all fun x => x.position.val != p || !(x.thinned || x.owner == d) || x.state == 1

/-- The feedback that a die keeps after a step (R324, R325): a die dropped from a factor bucket keeps its whole gradient for
the projections of that bucket. -/
def State.feedbackOf (s : State) (r : Run) (img : DrawerImage) (x : RunDie) : List (Nat × BitVec 42) :=
  let p := posOf (s.spanOf r) x.die
  let fac := (s.stepReds r.id).filter fun y => y.position.val == p && y.thinned
  let step := (fac.head?.map Reduction.step).getD 0
  let lost := fun (a b : Nat) => fac.any fun y =>
    hasDie y.marked x.die.val && decide (y.firstParam < b) && decide (a < y.firstParam + y.elems)
  if (s.chainOf r p).length ≤ 1 then []
  else ((s.thins r img p step).foldl (fun (acc : Nat × List (Nat × BitVec 42)) t =>
    let fs := t.factors x
    let half := t.q * t.r
    let one := fun (o : Nat) =>
      let i := t.base + o
      let m := x.gradFed i
      let whole := if o < t.k * t.r then lost acc.1 (acc.1 + half) else lost (acc.1 + half) (acc.1 + 2 * half)
      (i, BitVec.ofNat 42 (if whole then m else (roundAF ((af m).sub (t.back fs i))).1))
    (acc.1 + t.width, acc.2 ++ (List.range t.size).map one)) (0, [])).2

/-- The commit point with the feedback that it makes current (R283, R326). -/
def State.commitStep (s : State) (id : BitVec 32) : State :=
  match s.run? id with
  | none => s
  | some r =>
    let s := match s.runSlotImage r with
      | some img =>
        let keep : RunDie → RunDie := fun x => { x with feedbackNext := s.feedbackOf r img x }
        s.modRun id fun y => { y with perDie := r.perDie.map keep }
      | none => s
    s.commitPoint id

/-- READY (R282, R283): an owner has written its shadow shard and gathered. Once every owner has, the epoch goes to the
standby; without a standby the step is committed at once. -/
def execOwnerReady (run : BitVec 32) (die : Die) (s : State) : Out :=
  .next (match s.run? run with
    | none => s
    | some r =>
      if !r.inStep || (r.state != RunSt.running && r.state != RunSt.stopping) || !s.shardReduced r die then s
      else match r.onDie die, s.runSlotImage r with
        | some x, some img =>
          if x.isReady then s
          else
            let new := s.shadowOf r img die
            let s := s.modRun run fun r =>
              { r with shadow := r.shadow ++ new.1,
                       perDie := r.perDie.map fun y => if y.die = die then { y with isReady := true, counts := new.2 } else y }
            if ((s.run? run).map fun r => r.perDie.all RunDie.isReady).getD false then
              let s := s.modRun run fun r =>
                { r with state := RunSt.committing, stopping := r.stopping || r.state == RunSt.stopping }
              if s.hasStandby then s else s.commitStep run
            else s
        | _, _ => s)

/-- COMMIT_POINT (R283, R284): the standby has acknowledged the new epoch. -/
def execCommitPoint (run : BitVec 32) (s : State) : Out :=
  .next (match s.run? run with
    | none => s
    | some r =>
      if r.inStep && r.state == RunSt.committing && r.perDie.all RunDie.switched then s.commitStep run else s)

/-! ## Broken hops (R320) -/

/-- HOP_BROKEN (R320, R445): the report; items on the hop are lost and their reductions fail, and steps with a failed
reduction are discarded (R285). -/
def execHopBroken (hop : Fin 16) (s : State) : Out :=
  .next (
    let lost := fun (x : Reduction) => x.state == 0 && x.era == 0 && x.items.any fun i => !i.waiting && (s.itemHops x i).contains hop.val
    let fail := fun (x : Reduction) =>
      if lost x then { x with state := 2, cause := Code.hopBroken, items := [], acc := none, closeTime := s.now } else x
    let s := { s with
      hopsBroken := s.hopsBroken ||| BitVec.ofNat 16 (1 <<< hop.val)
      reductions := s.reductions.map fail }
    let s := s.report { cls := Cls.hopBroken, severity := 2, block := 8, unit := Fin.ofNat 64 hop.val,
                        die := ringOrder.getD hop.val 0, cab := none, d2 := word (put hop.val 56), d3 := 0, touched := [] }
    let s := s.openReductions
    (s.reductions.filter fun x => x.era == 0 && x.state == 2 && x.cause == Code.hopBroken).foldl (fun s x =>
      s.dropStep x.run Code.hopBroken) s)

end Sys2Proof.Machine
end

