-- ==== Sys2Proof/Machine/Cabinets.lean ====
section
/-!
DEFINITION. Cabinets and shelves (R29, R36 to R41, R69), gloves worn by clusters (R103, R105), admission settings (R59), programs (R67, R70), and the creation and
destruction of streams (R60, R61, R65, R73).
-/

namespace Sys2Proof.Machine

/-- The cabinet in bits [63:60] of a word. -/
def cabOf (w : Word) : Cab := Fin.ofNat 16 (bits w 63 60)

/-- A setting's range. -/
def within (lo hi x : Nat) : Bool := decide (lo ≤ x) && decide (x ≤ hi)

/-! ## The row region's marks (R102) -/

/-- The neutral mark (R193). -/
def Mark.neutral : Mark := ⟨0, 0xffff⟩

/-- The mark of a 64-byte unit of the row region (R102). -/
def ClusterSt.mark (x : ClusterSt) (u : Nat) : Mark := (assocGet u x.unitTags).getD Mark.neutral

/-- The mark of a unit set; the neutral mark is not listed. -/
def putMark (u : Nat) (m : Mark) (l : List (Nat × Mark)) : List (Nat × Mark) :=
  if m = Mark.neutral then l.filter fun x => x.1 != u else assocPut u m l

/-- 64-byte units that hold bytes [a, a + n). -/
def unitsOf (a n : Nat) : List Nat := if n = 0 then [] else (List.range ((a + n - 1) / 64 + 1 - a / 64)).map fun i => a / 64 + i

/-- A unit of the row region is about to be written with a mark (R102): when the glove slot changes, its 4 KiB allocation unit
is zeroed and retagged. -/
def ClusterSt.claimUnit (x : ClusterSt) (u : Nat) (m : Mark) : ClusterSt :=
  if (x.mark u).slot = m.slot then { x with unitTags := putMark u m x.unitTags }
  else
    let first := u / 64 * 64
    { x with rowMem := x.rowMem.zero (64 * first) 4096,
             unitTags := (List.range 64).foldl (fun l i => putMark (first + i) m l) x.unitTags }

/-! ## Gloves worn by clusters (R103, R105) -/

/-- The gloves of the rows that the pass under way has in a cluster (R105). -/
def State.glovesIn (s : State) (d : Die) (c : Phys) : List (BitVec 16) :=
  match s.logicalOf d c, (s.die d).pass with
  | some l, some p => (p.rows.filter fun r => r.cluster == l).map SeatRow.glove
  | _, _ => []

/-- A cluster slot's glove is worn for tile values (R104). -/
def State.slotHasTiles (s : State) (d : Die) (c : Phys) (i : Fin 64) : Bool :=
  s.tiles.any fun t => t.die == d && t.cl == c && !t.entries.isEmpty && t.rowMarks.any fun m => m.2.slot == i

/-- The slot whose glove gives way (R104, R105): of those that the pass under way does not use, first of those that hold no tile values,
the least recently used. -/
def State.slotToReplace (s : State) (d : Die) (c : Phys) : Fin 64 :=
  let all := (s.cluster d c).slots.filter fun k => k.idx != 0
  let unused := all.filter fun k => !(s.glovesIn d c).contains k.glove
  let idle := unused.filter fun k => !s.slotHasTiles d c k.idx
  ((minBy GSlot.lastUse (if !idle.isEmpty then idle else if !unused.isEmpty then unused else all)).map GSlot.idx).getD 1

/-- A slot that changes hands leaves no unit with its tag behind: a cluster that no longer wears a glove holds no row of its tenant (R104;
DEDUCED, assumption 93). -/
def ClusterSt.forget (x : ClusterSt) (i : Fin 64) : ClusterSt :=
  let gone := x.unitTags.filter fun u => u.2.slot == i
  { x with rowMem := gone.foldl (fun (m : Mem) u => m.zero (64 * u.1) 64) x.rowMem,
           unitTags := x.unitTags.filter fun u => u.2.slot != i }

/-- A glove installed into a cluster slot with its generations (R103): slot 0 for the cabinet's shelf glove, else the slot that holds it, a
free one of 1 to 63, or one whose glove gives way. -/
def State.wear (s : State) (d : Die) (c : Phys) (g : BitVec 16) : State :=
  let (t, s) := s.tick
  let x := s.cluster d c
  let isShelf := decide (0x10 ≤ g.toNat) && decide (g.toNat ≤ 0x1f)
  let free := firstFree (fun i => x.slots.any fun k => k.idx.val == i) 63 1
  let idx : Fin 64 :=
    if isShelf then 0
    else match x.slots.find? fun k => k.glove == g with
      | some k => k.idx
      | none => match free with
        | some i => Fin.ofNat 64 i
        | none => s.slotToReplace d c
  let held := x.slots.any fun k => k.idx == idx && k.glove == g
  let gen := s.gloveGen g
  let prev := if ((s.glove? g.toNat).map Glove.prevHeld).getD false then some (gen - 1) else none
  s.modCluster d c fun x =>
    let x := if held then x else x.forget idx
    { x with slots := (x.slots.filter fun k => k.idx != idx) ++ [{ idx := idx, glove := g, gen := gen, prev := prev, lastUse := t }] }

/-- The slot of a cluster that holds a glove; 0 where none does. -/
def State.gloveSlot (s : State) (d : Die) (c : Phys) (g : BitVec 16) : Fin 64 :=
  (((s.cluster d c).slots.find? fun k => k.glove == g).map GSlot.idx).getD 0

/-! ## Cabinets -/

/-- CONFIGURE_CABINET's refusals (R37, R69, R70). -/
def State.configureCode (s : State) (c : Cab) (span : Nat) (m : BitVec 16) : Option Nat :=
  let ds := diesOf m
  if 1 < (s.cab c).state.val then some Code.cabinetBusy
  else if ds.isEmpty then none
  else if span != 1 && span != 2 && span != 4 then some Code.spanInvalid
  else if ds.any fun d => match s.cabOfDie d with | some k => k != c | none => false then some Code.dieInUse
  else if ds.all fun d => (groupDies span (groupOf span d)).all fun x => hasDie m x.val then none
  else some Code.spanInvalid

def infoConfigureCabinet : CmdInfo := ⟨0x0010, 8, 8, .zero, true, false, true, [[(39, 0)]], some 0⟩

/-- CONFIGURE_CABINET (R69, R70). -/
def execConfigureCabinet (src : Src) (req : Req) (s : State) : Out :=
  .next (s.ilnil infoConfigureCabinet src req fun r ws s =>
    let w := wordAt ws 0
    let c := cabOf w
    let m : BitVec 16 := BitVec.ofNat 16 (bits w 55 40)
    match s.configureCode c (bits w 59 56) m with
    | some k => s.complete r k []
    | none =>
      (s.modCab c fun x =>
        if m = 0 then { x with dies := 0, span := 0, state := 0 }
        else { x with dies := m, span := bits w 59 56, state := 1 }).complete r Code.ok [])

/-! ## Shelves -/

/-- 96 GiB (R38). -/
def portionMax : Nat := 96 * 2 ^ 30

/-- Bytes of namespace 1 (R494). -/
def namespace1 : Nat := 6680000000000

/-- Every cut of `n` layers into `k` runs of at least one layer, run 0 longest first, then run 1, and so on (R39). -/
def layerCuts : Nat → Nat → List (List Nat)
  | 0, n => if n = 0 then [[]] else []
  | k + 1, n => (List.range n).reverse.flatMap fun i => (layerCuts k (n - (i + 1))).map fun l => (i + 1) :: l

/-- Bytes of each run of a cut. -/
def cutBytes : List Nat → List Nat → List Nat
  | [], _ => []
  | k :: ks, sizes => (sizes.take k).sum :: cutBytes ks (sizes.drop k)

/-- The cut of R39: every portion within the limit, the largest portion smallest, ties by the longest run 0, then run 1. -/
def splitShelf (sizes : List Nat) (span : Nat) : Option (List Nat) :=
  minBy (fun k => (cutBytes k sizes).foldl max 0)
    ((layerCuts span sizes.length).filter fun k => (cutBytes k sizes).all fun b => decide (b ≤ portionMax))

/-- The shelf glove's id (R375). -/
def shelfGlove (c : Cab) : BitVec 16 := BitVec.ofNat 16 (0x10 + c.val)

/-- A glove as it is made: generation 1, no rotation (R375). -/
def madeGlove (id : BitVec 16) (kind : Fin 3) (c : Cab) (tenant : BitVec 32) (keyId : BitVec 512) (serial : Nat) : Glove :=
  { id := id, kind := kind, cab := c, tenant := tenant, gen := 1, prevHeld := false, phase := 0, serial := serial, standbyAcked := true,
    waiting := [], prevPages := 0, keyId := keyId, catalogKey := 0, rotateTime := 0, replies := [], removing := false,
    tokensIn := 0, tokensOut := 0, rowsSeated := 0 }

/-- Pages that each die of a cabinet needs for a split shelf (R39, R40). -/
def State.shelfPages (s : State) (c : Cab) (img : ShelfImage) (cut : List Nat) : List (Die × Nat) :=
  (diesOf (s.cab c).dies).map fun d =>
    (d, pagesFor ((cutBytes cut (img.layers.map LayerInfo.bytes)).getD (posOf (s.cab c).span d) 0))

/-- The mount ends without a shelf (R40). -/
def State.endMount (s : State) (c : Cab) (code : Nat) : State :=
  let rs := (s.cab c).mountReply.toList
  let s := s.freePages fun p => p.kind == PKind.shelf && p.cab == c
  let s := s.discardGlove (shelfGlove c)
  (s.modCab c fun x => { x with state := 1, shelf := none, split := [], mountReply := none }).completeAll rs code []

/-- MOUNT_SHELF's refusals before the image is read (R38, R41, R70). -/
def State.mountCode (s : State) (c : Cab) (offset len : Nat) : Option Nat :=
  let x := s.cab c
  if x.dies = 0 then some Code.valueOutOfRange
  else if x.state.val != 1 then some Code.cabinetBusy
  else if offset % 4096 != 0 || decide (namespace1 < offset + len) then some Code.valueOutOfRange
  else if x.span * portionMax < len then some Code.shelfTooLarge
  else none

/-- The bytes of a shelf's layers, one run of the cut after another (R39). The image begins with its layer table; the layers are taken as
what follows it, in order (DESIGN CHOICE, assumption 94). -/
def shelfPortion (i : ShelfImage) (cut : List Nat) (p : Nat) : List Byte :=
  let sizes := i.layers.map LayerInfo.bytes
  let (lo, hi) := layersAt cut p
  ((i.bytes.drop (i.bytes.length - sizes.sum + (sizes.take lo).sum)).take (((sizes.take hi).drop lo).sum))

/-- Every die of a cabinet holds its portion of the shelf (R39, R40). -/
def State.writeShelf (s : State) (c : Cab) (i : ShelfImage) : State :=
  let x := s.cab c
  (diesOf x.dies).foldl (fun (s : State) d =>
    s.fillPages (s.turnPages d fun p => p.kind == PKind.shelf && p.cab == c) (shelfPortion i x.split (posOf x.span d))) s

/-- A mount that passed its checks: the shelf glove is made (R375), the image is measured (R36), its pages are allocated (R40). -/
def State.startMount (s : State) (r : Reply) (c : Cab) (img : Option ShelfImage) (meas : BitVec 512) : State :=
  let g := shelfGlove c
  let (k, s) := s.fresh
  let made : Glove := { madeGlove g 1 c 0 0 k with standbyAcked := !s.hasStandby }
  let s := s.modRot fun t => { t with gloves := t.gloves.filter (fun x => x.id != g) ++ [made] }
  let begun := fun (s : State) (cut : List Nat) =>
    (s.modCab c fun x =>
      { x with state := 2, shelf := img.map fun i => { i with meas := digest512 i.bytes }, split := cut,
               mountReply := some r, mountAsked := meas }).accept r 0
  match img with
  | none => begun s []
  | some i =>
    match splitShelf (i.layers.map LayerInfo.bytes) (s.cab c).span with
    | none => s.endMount c Code.shelfTooLarge |>.complete r Code.shelfTooLarge []
    | some cut =>
      match s.allocAll? (s.shelfPages c i cut) PKind.shelf g c 0 with
      | none => s.endMount c Code.shelfTooLarge |>.complete r Code.shelfTooLarge []
      | some s => begun s cut

def infoMountShelf : CmdInfo := ⟨0x0011, 88, 88, .zero, false, false, true, [[(59, 0)]], some 0⟩

/-- MOUNT_SHELF (R40, R41): during an unmount it waits; its row, issued again after the release, executes it. -/
def execMountShelf (src : Src) (req : Req) (img : Option ShelfImage) (s : State) : Out :=
  .next (s.ilnil infoMountShelf src req fun r ws s =>
    let c := cabOf (wordAt ws 0)
    if (s.cab c).state = 4 then s.modCp fun k => { k with heldCmds := k.heldCmds ++ [r] }
    else match s.mountCode c (wordAt ws 1).toNat (wordAt ws 2).toNat with
      | some k => s.complete r k []
      | none => s.startMount r c img (wide512 ((ws.drop 3).take 8)))

/-- The serving stream of a cabinet (R61). -/
def servingStream (id : Nat) (c : Cab) : Stream :=
  { id := Fin.ofNat 4096 id, cab := c, owner := 2, tenant := 0, minor := 0, nextSeq := 0, halted := false,
    isClosing := false, closing := [] }

/-- The lowest stream id from 1 that is free (R60). -/
def State.freeStream (s : State) : Option Nat := firstFree (fun n => (s.stream? n).isSome) 4095 1

/-- MOUNT_COMPLETE (R40, R61, R103): a measurement that differs ends the mount; else every span group holds the copy, the shelf glove is worn
by every active cluster and the serving stream is created; the standby's acknowledgement of the glove (R378) has come by then. -/
def execMountComplete (cab : Cab) (s : State) : Out :=
  let x := s.cab cab
  .next (
    if x.state != 2 then s
    else if x.shelf.map ShelfImage.meas != some x.mountAsked then s.endMount cab Code.shelfMismatch
    else match s.freeStream with
      | none => s.endMount cab Code.streamLimit
      | some n =>
        let s := { s with streams := s.streams ++ [servingStream n cab] }
        let s := match x.shelf with | some i => s.writeShelf cab i | none => s
        let s := s.modGlove (shelfGlove cab).toNat fun g => { g with standbyAcked := true }
        let s := (diesOf x.dies).foldl (fun (s : State) d => (s.die d).map.foldl (fun (s : State) k => s.wear d k (shelfGlove cab)) s) s
        (s.modCab cab fun y => { y with state := 3, serving := some (Fin.ofNat 4096 n), mountReply := none }).completeAll
          x.mountReply.toList Code.ok [word (put n 52)])

/-- A request has rows in a pass under way in a cabinet. -/
def State.passing (s : State) (c : Cab) (i : Nat) : Bool :=
  (diesOf (s.cab c).dies).any fun d => (s.die d).pass.any fun p => p.rows.any fun r => r.request == some i

/-- An unmount begins, or joins one that is under way (R41): in CUT mode the admitted requests that are in no pass end. -/
def State.unmountBegin (s : State) (c : Cab) (cut : Bool) (rs : List Reply) (code : Nat) : State :=
  let old := (s.cab c).unmount
  let cut' := cut || (old.map Prod.fst).getD false
  let s := s.modCab c fun x => { x with state := 4, unmount := some (cut', (old.map Prod.snd).getD [] ++ rs) }
  let s := (s.runs.filter fun r => r.cab == c).foldl (fun s r => s.stopRunFor r.id code) s
  let s := if cut' then s.endRequests (fun q => q.cab == c && q.live && !s.passing c q.id) Code.shelfUnmounted else s
  s.settleUnmount c

def infoUnmountShelf : CmdInfo := ⟨0x0012, 8, 8, .zero, false, false, true, [[(58, 0)]], some 0⟩

/-- UNMOUNT_SHELF (R41). -/
def execUnmountShelf (src : Src) (req : Req) (s : State) : Out :=
  .next (s.ilnil infoUnmountShelf src req fun r ws s =>
    let c := cabOf (wordAt ws 0)
    if (s.cab c).state != 3 && (s.cab c).state != 4 then s.complete r Code.noShelf []
    else (s.accept r 0).unmountBegin c (bitAt (wordAt ws 0) 59) [r] Code.shelfUnmounted)

/-! ## Admission settings -/

/-- The settings that SET_ADMISSION's words spell (R70). -/
def admissionOf (w0 w1 : Word) : Admission :=
  { target := bits w0 58 46, wait := bits w0 45 32, prefill := bits w0 31 19, bwd := bits w1 63 49, quota := bits w1 48 33,
    isOpen := bitAt w0 59 }

/-- The ranges of R59. -/
def admissionOk (a : Admission) : Bool :=
  within 1 4096 a.target && decide (a.wait ≤ 10000) && within 128 4096 a.prefill && a.prefill % 128 == 0 &&
    within 500 20000 a.bwd && within 1 65535 a.quota

def infoSetAdmission : CmdInfo := ⟨0x0013, 16, 16, .zero, true, false, true, [[(18, 0)], [(32, 0)]], some 0⟩

/-- SET_ADMISSION (R59): every later pass start reads the settings installed here. -/
def execSetAdmission (src : Src) (req : Req) (s : State) : Out :=
  .next (s.ilnil infoSetAdmission src req fun r ws s =>
    let a := admissionOf (wordAt ws 0) (wordAt ws 1)
    if admissionOk a then (s.modCab (cabOf (wordAt ws 0)) fun x => { x with adm := a }).complete r Code.ok []
    else s.complete r Code.valueOutOfRange [])

/-! ## Programs -/

/-- What LOAD_PROGRAM does once its buffer is accepted (R67, R70): the image's header, signature and shelf, then its pages
on every die of the cabinet. -/
def State.placeProgram (s : State) (r : Reply) (c : Cab) (id : BitVec 32) (off len : Nat) (img : Option ProgramImage) : State :=
  let bytes := (s.ct s.cp.active).mem.read off len
  let s := s.accept r 0
  match img with
  | none => s.complete r Code.programInvalid []
  | some i =>
    if i.programId != id || !i.sigOk then s.complete r Code.programInvalid []
    else if some i.shelfMeas != (s.cab c).shelf.map ShelfImage.meas then s.complete r Code.shelfMismatch []
    else match s.allocAll? ((diesOf (s.cab c).dies).map fun d => (d, pagesFor len)) PKind.program (shelfGlove c) c id with
      | none => s.complete r Code.jobNoSpace []
      | some s =>
        let s := (diesOf (s.cab c).dies).foldl (fun (s : State) d =>
          s.fillPages (s.turnPages d fun p => p.kind == PKind.program && p.cab == c && p.ownerRef == id) bytes) s
        ({ s with programs := s.programs ++ [{ cab := c, image := i }] } : State).complete r Code.ok []

def infoLoadProgram : CmdInfo := ⟨0x0014, 24, 24, .zero, false, false, true, [[(59, 32)]], some 0⟩

/-- LOAD_PROGRAM (R67, R70). -/
def execLoadProgram (src : Src) (req : Req) (img : Option ProgramImage) (s : State) : Out :=
  .next (s.ilnil infoLoadProgram src req fun r ws s =>
    let c := cabOf (wordAt ws 0)
    let id : BitVec 32 := BitVec.ofNat 32 (bits (wordAt ws 0) 31 0)
    let len := (wordAt ws 2).toNat
    if (s.cab c).state != 3 && (s.cab c).state != 4 then s.complete r Code.noShelf []
    else match s.buffer? r.src (wordAt ws 1).toNat len with
      | none => s.complete r Code.bufferInvalid []
      | some off =>
        if s.programs.any fun p => p.cab == c && p.image.programId == id then s.complete r Code.valueOutOfRange []
        else s.placeProgram r c id off len img)

/-! ## Streams -/

/-- CREATE_STREAM's refusals (R70, R73). -/
def State.createCode (s : State) (w : Word) : Option Nat :=
  let t : BitVec 32 := BitVec.ofNat 32 (bits w 31 0)
  if bits w 57 50 != 1 || bits w 49 42 != 0 then some Code.versionUnsupported
  else if 2 ≤ bits w 59 58 then some Code.valueOutOfRange
  else if bits w 59 58 = 0 then (if t = 0 then none else some Code.valueOutOfRange)
  else if s.rot.tenants.any fun p => p.1 == t then none else some Code.tenantUnknown

def infoCreateStream : CmdInfo := ⟨0x0020, 8, 8, .zero, true, false, true, [[(41, 32)]], some 0⟩

/-- CREATE_STREAM (R60, R73). -/
def execCreateStream (src : Src) (req : Req) (s : State) : Out :=
  .next (s.ilnil infoCreateStream src req fun r ws s =>
    let w := wordAt ws 0
    match s.createCode w with
    | some k => s.complete r k []
    | none => match s.freeStream with
      | none => s.complete r Code.streamLimit []
      | some n =>
        let x : Stream := { servingStream n (cabOf w) with
                            owner := Fin.ofNat 3 (bits w 59 58), tenant := BitVec.ofNat 32 (bits w 31 0),
                            minor := bits w 49 42 }
        ({ s with streams := s.streams ++ [x] } : State).complete r Code.ok [word (put n 52)])

def infoDestroyStream : CmdInfo := ⟨0x0021, 8, 8, .zero, false, false, true, [[(51, 0)]], none⟩

/-- DESTROY_STREAM (R65, R179): the stream takes no job any more and goes once every accepted job has retired; a halted
stream's queued jobs are cancelled. -/
def execDestroyStream (src : Src) (req : Req) (s : State) : Out :=
  .next (s.ilnil infoDestroyStream src req fun r ws s =>
    let n := bits (wordAt ws 0) 63 52
    match s.stream? n with
    | none => s.complete r Code.streamUnknown []
    | some x =>
      if n = 0 || x.owner = 2 then s.complete r Code.wrongStream []
      else
        let s := (s.accept r 0).modStream n fun y => { y with isClosing := true, closing := y.closing ++ [r] }
        let s := if x.halted then s.endJobs (fun j => j.stream == x.id && j.phase == 0) Code.cancelledAfterTrap else s
        s.settleStream x.id)

end Sys2Proof.Machine
end

