-- ==== Sys2Proof/Machine/Desc.lean ====
section
/-!
DEFINITION. Descriptors: the fields of a matrix-op descriptor (R109) and of a vector descriptor (R198), and the faults for
which the command processor refuses a job at acceptance (R12, R81 to R83, R87, R110 to R113, R137, R141, R142, R183, R201).
-/

namespace Sys2Proof.Machine

/-- The fields of a matrix-op descriptor (R109). -/
structure MDesc where
  op : Nat
  fmtA : Nat
  fmtB : Nat
  fmtOut : Nat
  acc : Nat
  group : Nat
  chunk : Nat
  inf : Bool
  sent : Bool
  sr : Bool
  side : Bool
  trans : Bool
  first : Bool
  last : Bool
  stream : Nat
  rowAddr : Nat
  rowCount : Nat
  rowStride : Nat
  tileMask : Nat
  engineMask : Nat
  clusterMask : Nat
  bsrc : Nat
  layer : Nat
  proj : Nat
  bTensor : Nat
  eTensor : Nat
  k : Nat
  n : Nat
  ewOp : Nat
  scale : Nat
  scaleSrc : Nat
  rowSum : Bool
  rowMax : Bool
  bias : Nat
  owner : Nat
  seq : Nat
  seed : Nat
  out : Nat
  deriving DecidableEq, Repr

/-- The fields read from the eight words (R109). -/
def mdesc (ws : List Word) : MDesc :=
  let w := wordAt ws
  { op := bits (w 0) 63 56, fmtA := bits (w 0) 55 52, fmtB := bits (w 0) 51 48, fmtOut := bits (w 0) 47 44,
    acc := bits (w 0) 43 42, group := bits (w 0) 41 40, chunk := bits (w 0) 39 36, inf := bitAt (w 0) 35,
    sent := bitAt (w 0) 34, sr := bitAt (w 0) 33, side := bitAt (w 0) 32, trans := bitAt (w 0) 31,
    first := bitAt (w 0) 30, last := bitAt (w 0) 29, stream := bits (w 0) 23 12,
    rowAddr := bits (w 1) 63 44, rowCount := bits (w 1) 43 34, rowStride := bits (w 1) 33 24,
    tileMask := bits (w 1) 23 16, engineMask := bits (w 1) 15 8, clusterMask := bits (w 1) 7 0,
    bsrc := bits (w 2) 63 62, layer := bits (w 2) 47 32, proj := bits (w 2) 31 24,
    bTensor := bits (w 3) 63 32, eTensor := bits (w 3) 31 0,
    k := bits (w 4) 63 44, n := bits (w 4) 43 24, ewOp := bits (w 4) 23 20,
    scale := bits (w 5) 63 48, scaleSrc := bits (w 5) 47 44, rowSum := bitAt (w 5) 43, rowMax := bitAt (w 5) 42,
    bias := bits (w 5) 31 0, owner := bits (w 6) 63 48, seq := bits (w 6) 47 24,
    seed := bits (w 7) 63 32, out := bits (w 7) 31 0 }

/-- Reserved fields of a matrix-op descriptor; those that the command processor fills are zero as emitted. -/
def mdescRsvOk (ws : List Word) : Bool :=
  let w := wordAt ws
  bits (w 0) 28 24 == 0 && bits (w 0) 11 0 == 0 && bits (w 2) 61 48 == 0 && bits (w 2) 23 0 == 0 && bits (w 4) 19 0 == 0 &&
    bits (w 5) 41 32 == 0 && bits (w 6) 23 0 == 0

/-- Pair mode (R82). -/
def MDesc.pair (d : MDesc) : Bool := d.engineMask == 0xff

/-- The engine of solo mode (R82). -/
def MDesc.engine (d : MDesc) : Nat := Nat.log2 d.engineMask

/-- Rows that each engine holds (R113). -/
def MDesc.rowsPer (d : MDesc) : Nat := if d.pair then cdiv d.rowCount 2 else d.rowCount

/-- Output columns of one column block (R82, R112). -/
def MDesc.blockCols (d : MDesc) : Nat := if d.pair then 512 else 128

/-- Column blocks of the engine's share of N. -/
def MDesc.blocks (d : MDesc) : Nat := cdiv d.n d.blockCols

/-- Tiles of a tile set (R113). -/
def MDesc.setSize (d : MDesc) : Nat := cdiv d.rowsPer 128 * (if d.acc = 1 then 2 else 1)

/-- Elements of an adder-tree group (R156). -/
def MDesc.width (d : MDesc) : Nat := 4 <<< d.group

/-- FP8 and narrower float formats, MX or not (R81). -/
def isNarrowFloat (f : Nat) : Bool := decide (3 ≤ f) && decide (f ≤ 9)
def isInteger (f : Nat) : Bool := f == 10 || f == 11

/-- K elements per row per cycle of an operand pair (R81); 0 where the pair is refused. -/
def kPerCycle (a b : Nat) : Nat :=
  if 12 ≤ a || 12 ≤ b then 0
  else if a = 9 && b = 9 then 256
  else if isInteger a && isInteger b then 128
  else if isInteger a || isInteger b then 0
  else if a = 0 || b = 0 then 8
  else if a = 1 || a = 2 || b = 1 || b = 2 then 64
  else 128

/-- The weight format of a pair: transposed panels of MX formats and INT8 are BF16 (R92). -/
def MDesc.fmtW (d : MDesc) : Nat := if d.trans && (isMx d.fmtB || d.fmtB = 11) then 2 else d.fmtB

/-- What an OP's row of R111 allows. -/
def opRowOk (d : MDesc) : Bool :=
  let stats := d.rowMax || d.rowSum
  let solo := !d.pair
  match d.op with
  | 1 => d.bsrc == 0 && !d.trans && d.pair && !stats
  | 2 => d.bsrc == 0 && d.trans && d.pair && !stats
  | 3 => d.bsrc == 2 && d.proj == 0 && solo && !d.side && (!stats || d.engineMask == 1)
  | 4 => d.bsrc == 2 && d.proj == 1 && solo && !d.side && !stats
  | 5 => d.bsrc == 1 && !d.side && !stats
  | 6 => d.bsrc == 1 && !d.side && !stats
  | _ => false

/-- The last 64-byte unit of the row operand (R112): with the scale bytes of MX rows; with the channel scales of INT8. -/
def MDesc.lastUnit (d : MDesc) : Nat :=
  if d.fmtA = 11 then d.rowAddr + d.rowCount * d.rowStride + cdiv d.k 16 - 1
  else d.rowAddr + (d.rowCount - 1) * d.rowStride + cdiv (rowBytes d.fmtA d.k) 64 - 1

/-- The cases of R87, R112 and R113. -/
def MDesc.breaks112 (d : MDesc) : Bool :=
  let owned := decide (3 ≤ d.op)
  let pairs := (List.range 4).all fun i => d.tileMask.testBit (2 * i) == d.tileMask.testBit (2 * i + 1)
  let sets := if d.side && decide (1 < d.blocks) then 2 else 1
  !opRowOk d || decide (12 ≤ d.fmtA) || decide (12 ≤ d.fmtB) || decide (13 ≤ d.fmtOut) || d.acc = 3 || d.group = 3 ||
    d.bsrc = 3 || kPerCycle d.fmtA d.fmtW = 0 || (owned && d.owner = 0xffff) || (!owned && d.owner != 0xffff) ||
    (d.chunk != 0 && d.acc != 2) || (d.seed != 0 && !d.sr) || d.rowCount = 0 || decide (512 < d.rowCount) ||
    (d.pair && decide (256 < cdiv d.rowCount 2)) || d.rowStride = 0 || decide (d.rowAddr < 0x20000) ||
    decide (0x5ffff < d.lastUnit) || (d.bTensor != 0 && d.bsrc != 1) || (d.bsrc = 1 && (d.layer != 0 || d.proj != 0)) ||
    !(d.pair || popCount 8 d.engineMask == 1) || d.k = 0 || d.n = 0 ||
    ((!d.first || !d.last) && decide (1 < d.blocks)) || decide (popCount 8 d.tileMask < sets * d.setSize) ||
    (d.acc = 1 && !pairs)

/-- SCALE_SRC that an output format allows, and SR (R141). -/
def scaleAllowed (fmt src : Nat) : Bool :=
  if isMx fmt then src == 2
  else if fmt = 3 || fmt = 4 || fmt = 11 then src == 0 || src == 1 || src == 3
  else src == 0 || src == 3
def srAllowed (fmt : Nat) : Bool := fmt == 3 || fmt == 4 || isMx fmt

/-- The cases of R142 and R137. -/
def MDesc.breaks142 (d : MDesc) : Bool :=
  !scaleAllowed d.fmtOut d.scaleSrc || (d.sr && !srAllowed d.fmtOut) ||
    (d.scaleSrc = 1 && decide (popCount 8 d.tileMask < d.blocks * d.setSize))

/-- The cases of R181 and R183, tensors apart. -/
def MDesc.breaks183 (d : MDesc) : Bool :=
  (d.scaleSrc = 0 && !(fBF16.dec d.scale).isFin) || (d.scaleSrc != 0 && d.scale != 0) || (d.scaleSrc = 3 && d.fmtB != 11) ||
    decide (3 ≤ d.ewOp) || (d.ewOp != 0 && d.eTensor = 0) || (d.ewOp = 0 && d.eTensor != 0) ||
    ((d.rowMax || d.rowSum) && d.out = 0)

/-- A matrix-op descriptor is refused, whatever the die (R112, R142, R183). -/
def MDesc.invalid (d : MDesc) : Bool := d.breaks112 || d.breaks142 || d.breaks183

/-- Tensor handles that a matrix-op descriptor names. -/
def MDesc.handles (d : MDesc) : List Nat := [d.bTensor, d.eTensor, d.bias, d.out].filter fun h => h != 0

/-! ## Vector descriptors -/

/-- The fields of a vector descriptor (R198). -/
structure VDesc where
  op : Nat
  rowElems : Nat
  inf : Bool
  sent : Bool
  sr : Bool
  strict : Bool
  akind : Nat
  stream : Nat
  ounit : Nat
  bodyStart : Nat
  bodyLen : Nat
  inner : Nat
  outer : Nat
  clusterMask : Nat
  owner : Nat
  seq : Nat
  trowI : Nat
  trowO : Nat
  seed : Nat
  opro : Nat
  pro : Nat
  epi : Nat
  oepi : Nat
  streams : List Word
  deriving DecidableEq, Repr

/-- The fields read from the twelve words (R198). -/
def vdesc (ws : List Word) : VDesc :=
  let w := wordAt ws
  { op := bits (w 0) 63 56, rowElems := bits (w 0) 55 36, inf := bitAt (w 0) 35, sent := bitAt (w 0) 34,
    sr := bitAt (w 0) 33, strict := bitAt (w 0) 32, akind := bits (w 0) 31 24, stream := bits (w 0) 23 12,
    ounit := bits (w 0) 7 0, bodyStart := bits (w 1) 63 44, bodyLen := bits (w 1) 43 36 + 1, inner := bits (w 1) 35 20,
    outer := bits (w 1) 19 8, clusterMask := bits (w 1) 7 0, owner := bits (w 2) 63 48, seq := bits (w 2) 47 24,
    trowI := bits (w 2) 23 16, trowO := bits (w 2) 15 8, seed := bits (w 3) 63 32, opro := bits (w 3) 31 26,
    pro := bits (w 3) 25 20, epi := bits (w 3) 19 14, oepi := bits (w 3) 13 8,
    streams := (ws.drop 4).take 8 }

/-- Reserved fields of a vector descriptor. -/
def vdescRsvOk (ws : List Word) : Bool :=
  let w := wordAt ws
  bits (w 0) 11 8 == 0 && bits (w 2) 7 0 == 0 && bits (w 3) 7 0 == 0

def VDesc.isTensor (d : VDesc) (n : Nat) : Bool := d.akind.testBit n
def VDesc.base (d : VDesc) (n : Nat) : Nat := bits (wordAt d.streams n) 63 32
def VDesc.istride (d : VDesc) (n : Nat) : Int := signed 16 (bits (wordAt d.streams n) 31 16)
/-- Advance per outer iteration in 64-byte units (R200). -/
def VDesc.ostride (d : VDesc) (n : Nat) : Int :=
  signed 16 (bits (wordAt d.streams n) 15 0) * (if d.ounit.testBit n then 1 else 64)

/-- The effective unit less BASE of a memory instruction (R200). -/
def VDesc.unitOff (d : VDesc) (n : Nat) (off : Int) (i o : Nat) : Int := off + i * d.istride n + o * d.ostride n

/-- Sections of the body (R199): the instructions run in an iteration. -/
def VDesc.mainLen (d : VDesc) : Nat := d.bodyLen - (d.opro + d.pro + d.epi + d.oepi)

/-- The tensor handles of a vector descriptor's streams. -/
def VDesc.handles (d : VDesc) : List Nat :=
  ((List.range 8).filter fun n => d.isTensor n && d.base n != 0).map d.base

/-- A library body's index (R198). -/
def VDesc.library (d : VDesc) : Bool := decide (0xf0000 ≤ d.bodyStart)

/-- Bodies of the library (R219). -/
def libraryBodies : List Nat := [0xf0001, 0xf0002, 0xf0003, 0xf0010, 0xf0011, 0xf0020, 0xf0030, 0xf0031]

/-- The cases of R201 that the descriptor's own fields decide. -/
def VDesc.breaks201 (d : VDesc) (textLen : Nat) : Bool :=
  d.op != 0x10 || (if d.library then !libraryBodies.contains d.bodyStart else decide (textLen < d.bodyStart + d.bodyLen)) ||
    decide (d.bodyLen < d.opro + d.pro + d.epi + d.oepi) || d.inner = 0 || d.outer = 0 || (d.seed != 0 && !d.sr)

end Sys2Proof.Machine
end

