-- ==== Sys2Proof/Machine/VCode.lean ====
section
/-!
DEFINITION. The words of a vector program (R202 to R204): their fields, their reserved fields, the types that an opcode
allows, and the checks of a descriptor's body at acceptance (R197, R199 to R201, R210).
-/

namespace Sys2Proof.Machine

/-- The four class layouts of R202. -/
inductive VClass where
  | r | i | m | t
  deriving DecidableEq, Repr

/-- A row of the opcode table (R204): class, the TYPE values allowed, which of VB, VC, XF and HALF it uses, whether its
destination or its first source is a mask. -/
structure VOp where
  opc : Nat
  cls : VClass
  lo : Nat
  hi : Nat
  vb : Bool
  vc : Bool
  xf : Bool
  half : Bool
  maskDst : Bool
  maskSrc : Bool
  deriving DecidableEq, Repr

/-- The opcode table of R204. -/
def vops : List VOp :=
  [⟨0x01, .r, 0, 6, true, false, true, true, false, false⟩, ⟨0x02, .r, 0, 6, true, false, true, true, false, false⟩,
   ⟨0x03, .r, 0, 6, true, false, true, true, false, false⟩, ⟨0x04, .r, 0, 3, true, true, true, true, false, false⟩,
   ⟨0x05, .r, 0, 6, true, false, true, true, false, false⟩, ⟨0x06, .r, 0, 6, true, false, true, true, false, false⟩,
   ⟨0x07, .r, 0, 6, false, false, true, true, false, false⟩, ⟨0x08, .r, 0, 6, false, false, true, true, false, false⟩,
   ⟨0x09, .r, 0, 3, true, false, true, true, false, false⟩, ⟨0x0a, .r, 0, 3, false, false, true, true, false, false⟩,
   ⟨0x0b, .r, 0, 3, false, false, true, true, false, false⟩, ⟨0x0c, .r, 3, 3, true, false, true, true, false, false⟩,
   ⟨0x0d, .r, 0, 3, true, true, true, true, false, false⟩, ⟨0x10, .r, 0, 6, true, false, true, false, true, false⟩] ++
  [⟨0x11, .r, 0, 6, true, false, false, false, true, true⟩, ⟨0x12, .r, 0, 6, true, false, false, false, true, true⟩,
   ⟨0x13, .r, 0, 6, false, false, false, false, true, true⟩, ⟨0x14, .i, 0, 6, false, false, false, false, true, false⟩,
   ⟨0x15, .r, 0, 6, true, true, false, false, false, false⟩, ⟨0x16, .i, 0, 6, false, false, false, false, false, false⟩,
   ⟨0x18, .r, 4, 6, true, false, false, false, false, false⟩, ⟨0x19, .r, 4, 6, true, false, false, false, false, false⟩,
   ⟨0x1a, .r, 4, 6, true, false, false, false, false, false⟩, ⟨0x1b, .r, 4, 6, true, false, false, false, false, false⟩,
   ⟨0x1c, .r, 4, 6, true, false, false, false, false, false⟩, ⟨0x1d, .r, 4, 6, true, false, false, false, false, false⟩] ++
  [⟨0x20, .r, 0, 6, false, false, true, true, false, false⟩, ⟨0x21, .r, 0, 6, false, false, true, false, false, false⟩,
   ⟨0x22, .r, 3, 3, false, false, false, true, false, false⟩, ⟨0x23, .r, 3, 3, true, false, false, true, false, false⟩,
   ⟨0x28, .r, 6, 6, false, false, true, false, false, false⟩, ⟨0x30, .m, 0, 6, false, false, false, false, false, false⟩,
   ⟨0x31, .m, 0, 6, false, false, false, false, false, false⟩, ⟨0x32, .m, 0, 6, false, false, false, false, false, false⟩,
   ⟨0x33, .m, 3, 3, false, false, true, false, false, false⟩, ⟨0x34, .m, 0, 3, false, false, true, false, false, false⟩,
   ⟨0x35, .m, 2, 2, false, false, false, false, false, false⟩, ⟨0x36, .m, 2, 2, false, false, true, false, false, false⟩,
   ⟨0x38, .t, 3, 3, false, false, false, false, false, false⟩, ⟨0x39, .t, 3, 3, false, false, false, false, false, false⟩]

/-- The table row of a word, or none where its opcode is reserved. -/
def vopOf (w : Word) : Option VOp := vops.find? fun o => o.opc == bits w 63 56

def vType (w : Word) : Nat := bits w 55 53
def vVD (w : Word) : Nat := bits w 52 48
def vVA (w : Word) : Nat := bits w 42 38
def vVB (w : Word) : Nat := bits w 37 33
def vVC (w : Word) : Nat := bits w 32 28
def vXF (o : VOp) (w : Word) : Nat := if o.cls = .m then bits w 18 16 else bits w 26 24
def vAS (w : Word) : Nat := bits w 37 35
/-- OFF, signed (R202). -/
def vOFF (w : Word) : Int := signed 16 (bits w 34 19)

/-- A store takes its register from VA. -/
def isStore (opc : Nat) : Bool := opc == 0x31 || opc == 0x34 || opc == 0x36 || opc == 0x39
def isCursor (opc : Nat) : Bool := decide (0x33 ≤ opc) && decide (opc ≤ 0x36)

/-- Fields that the class or the opcode does not use hold zero (R12, R202): a mask operation and VGETF read no element of VA, so
BA and LANE are not theirs; VSEL's VC names a mask in three bits, and it rounds nothing. -/
def vRsvOk (w : Word) : Bool :=
  match vopOf w with
  | none => true
  | some o =>
    (!o.maskDst || bits w 52 51 == 0) &&
      match o.cls with
      | .r => bits w 12 0 == 0 && (o.vb || vVB w == 0) && (o.vc || vVC w == 0) && (o.xf || bits w 26 24 == 0) &&
          (o.half || !bitAt w 13) &&
          (!o.maskSrc || (bits w 42 41 == 0 && bits w 37 36 == 0)) &&
          (!(o.maskSrc || o.opc == 0x28) || bits w 23 14 == 0) &&
          (o.opc != 0x15 || (bits w 32 31 == 0 && !bitAt w 27))
      | .i => bits w 42 32 == 0
      | .m => bits w 15 0 == 0 && (o.xf || bits w 18 16 == 0) &&
          (if isStore o.opc then vVD w == 0 else vVA w == 0)
      | .t => bits w 23 0 == 0 && (if isStore o.opc then vVD w == 0 else vVA w == 0)

/-- The source type of an instruction: XF where it names one other than 7 (R202, R206, R213). -/
def vSrcType (o : VOp) (w : Word) : Nat :=
  if (o.opc = 0x20 || o.opc = 0x28 || o.opc ≤ 0x0d) && bits w 26 24 != 7 then bits w 26 24 else vType w

/-- Reserved opcodes and types, types that the table forbids, odd registers in W operands (R201). -/
def vFormOk (w : Word) : Bool :=
  match vopOf w with
  | none => false
  | some o =>
    let ty := vType w
    let st := vSrcType o w
    let even := fun (n : Nat) => n % 2 == 0
    let stx := o.opc == 0x34
    within o.lo o.hi ty && (!stx || ty == 0 || ty == 3) && decide (st < 7) &&
      (ty != 3 || o.maskDst || o.opc == 0x22 || isStore o.opc || even (vVD w)) &&
      (!(o.cls == .r && !o.maskSrc) || o.opc == 0x23 || st != 3 || (even (vVA w) && (!o.vb || even (vVB w)))) &&
      (o.opc != 0x04 && o.opc != 0x0d || ty != 3 || even (vVC w)) &&
      (!isStore o.opc || ty != 3 || even (vVA w)) &&
      (o.opc != 0x21 || decide (bits w 26 24 ≤ 4)) && (o.opc != 0x34 && o.opc != 0x33 || decide (bits w 18 16 ≤ 5)) &&
      (o.opc != 0x36 || decide (bits w 18 16 ≤ 1))
where
  within (lo hi x : Nat) : Bool := decide (lo ≤ x) && decide (x ≤ hi)

/-- The SR bit is allowed only with word 0 SR and on a float destination (R201, R207). -/
def vSrOk (d : VDesc) (w : Word) : Bool :=
  match vopOf w with
  | some o => !(o.cls == .r && bitAt w 27) || (d.sr && decide (vType w ≤ 2) && o.opc != 0x22 && !o.maskDst)
  | none => true

/-- Where an instruction stands in the body (R199): the iterations of which it is part, as the least and greatest inner and
outer indexes. -/
def VDesc.reach (d : VDesc) (k : Nat) : Nat × Nat × Nat × Nat :=
  if k < d.opro then (0, 0, 0, 0)
  else if k < d.opro + d.pro then (0, 0, 0, d.outer - 1)
  else if k < d.opro + d.pro + d.mainLen then (0, d.inner - 1, 0, d.outer - 1)
  else if k < d.bodyLen - d.oepi then (d.inner - 1, d.inner - 1, 0, d.outer - 1)
  else (d.inner - 1, d.inner - 1, d.outer - 1, d.outer - 1)

/-- Bytes of an element of a vector type (R190). -/
def vBytes (ty : Nat) : Nat := match ty with | 0 => 4 | 1 => 2 | 2 => 2 | 3 => 8 | 4 => 4 | 5 => 2 | _ => 1

/-- Bytes of the longest FB16 row of `n` elements that an encoder writes: its count, a RAW block of every 32 (R145, R148, R149). -/
def fbRowBytes (n : Nat) : Nat := pad64 (4 + 2 * cdiv n 32 + 2 * n)

/-- The first byte, relative to the stream's base, and the bytes that a memory instruction reaches in an iteration; of an FB16
row, whose length the data set, the longest (R149). -/
def VDesc.span (d : VDesc) (w : Word) (i o : Nat) : Int × Nat :=
  let opc := bits w 63 56
  let n := vAS w
  if opc = 0x32 then (64 * d.unitOff n 0 i o + vOFF w * vBytes (vType w), vBytes (vType w))
  else if isCursor opc then
    let fmt := bits w 18 16 + 5
    (64 * (vOFF w + o * d.ostride n), if opc ≤ 0x34 then rowBytes fmt d.rowElems else fbRowBytes d.rowElems)
  else (64 * d.unitOff n (vOFF w) i o, if vType w = 3 then 1024 else 512)

/-- A memory instruction stays in its row region or tensor at every corner of its iterations (R201). `len` is the tensor's
length, none where the handle names no tensor. -/
def VDesc.memOk (d : VDesc) (len : Nat → Option Nat) (w : Word) (k : Nat) : Bool :=
  let n := vAS w
  let (i0, i1, o0, o1) := d.reach k
  d.base n != 0 &&
    ([(i0, o0), (i0, o1), (i1, o0), (i1, o1)].all fun p =>
      let (a, b) := d.span w p.1 p.2
      if d.isTensor n then
        match len (d.base n) with
        | some l => decide (0 ≤ a) && decide (a + b ≤ l)
        | none => false
      else
        let x : Int := 64 * d.base n + a
        decide (64 * 0x20000 ≤ x) && decide (x + b ≤ 64 * 0x60000))

/-- The last logical tile that a tile instruction reaches (R200): with C also the partner (R209). -/
def VDesc.lastTile (d : VDesc) (w : Word) (k : Nat) : Nat :=
  let (_, i1, _, o1) := d.reach k
  bits w 34 32 + (bits w 31 25 + i1 * d.trowI + o1 * d.trowO) / 128 + b2n (bitAt w 24)

/-- A tile instruction stays within logical tile 7 (R200, R201); with C its tile is even (R209). -/
def VDesc.tileOk (d : VDesc) (w : Word) (k : Nat) : Bool :=
  decide (d.lastTile w k ≤ 7) && (!bitAt w 24 || bits w 34 32 % 2 == 0)

/-- The cursor instructions of a stream run in each outer iteration in the number that R210 requires. One in the OPRO or OEPI
section belongs to no outer iteration (R199), so its body never runs them in that number. -/
def VDesc.cursorOk (d : VDesc) (body : List Word) : Bool :=
  (List.range 8).all fun n =>
    let right := fun (p : Nat → Bool) (want : Nat) =>
      let mine := body.zipIdx.filter fun x => vAS x.1 == n && p (bits x.1 63 56)
      let outside := mine.any fun x => decide (x.2 < d.opro) || decide (d.bodyLen - d.oepi ≤ x.2)
      let runs := (mine.map fun x =>
        if d.opro + d.pro ≤ x.2 && x.2 < d.opro + d.pro + d.mainLen then d.inner else 1).sum
      mine.isEmpty || (!outside && runs == want)
    right (fun o => o == 0x33 || o == 0x34) (cdiv d.rowElems 128) &&
      right (fun o => o == 0x35 || o == 0x36) (cdiv d.rowElems 256)

/-- One instruction of a body passes R201. -/
def VDesc.wordOk (d : VDesc) (len : Nat → Option Nat) (w : Word) (k : Nat) : Bool :=
  vFormOk w && vSrOk d w &&
    match vopOf w with
    | some o => (o.cls != .m || d.memOk len w k) && (o.cls != .t || d.tileOk w k) && (!isCursor o.opc || d.rowElems != 0)
    | none => false

/-- A vector descriptor of a program with text `text` passes R197 and R201 on dies of at least `clusters` clusters; `tenant`
says which handles are tenant tensors. -/
def VDesc.ok (d : VDesc) (text : List Word) (len : Nat → Option Nat) (tenant : Nat → Bool) (clusters : Nat) : Bool :=
  let body := if d.library then [] else (text.drop d.bodyStart).take d.bodyLen
  !d.breaks201 text.length && decide (d.clusterMask < 2 ^ clusters) && (d.owner != 0xffff || !d.handles.any tenant) &&
    (body.zipIdx.all fun p => d.wordOk len p.1 p.2) && d.cursorOk body

/-- Reserved fields of a vector descriptor and of its body (R12). -/
def VDesc.rsvOk (d : VDesc) (ws text : List Word) : Bool :=
  vdescRsvOk ws && (d.library || ((text.drop d.bodyStart).take d.bodyLen).all vRsvOk)

end Sys2Proof.Machine
end

