-- ==== Sys2Proof/Machine/Extents.lean ====
section
/-!
DEFINITION. What a descriptor names: the issue queues it takes (R114, R215), its tiles (R115, R200), and the bytes of the row
region and of tensors that it reads and writes (R200, R201, R217).
-/

namespace Sys2Proof.Machine

/-- The logical clusters that a descriptor names. -/
def descClusters (ws : List Word) : List Nat := (List.range 8).filter fun l => (bits (wordAt ws 1) 7 0).testBit l

/-! ## Library bodies (R219, R220) -/

/-- The operands of a STRICT_DOT descriptor as emitted (DESIGN CHOICE, assumption 86): stream 0 row `a`, 1 the rows of `b`, 2 the
results, 4 the flag tensor where asked for; stream 3, whose BASE is 0, holds the destination type in [17:16] and N in [15:0];
ROW_ELEMS is K. -/
structure StrictAsk where
  k : Nat
  n : Nat
  ty : Nat
  flags : Bool
  deriving DecidableEq, Repr

def strictAsk (ws : List Word) : StrictAsk :=
  let d := vdesc ws
  let w := wordAt d.streams 3
  { k := d.rowElems, n := bits w 15 0, ty := bits w 17 16, flags := d.base 4 != 0 }

/-- First units of STRICT_DOT's staged operands in the row region: `a`, the results, the starting accumulators, the rows of `b`, the
flags; and the unit after them (assumption 86). -/
def strictA : Nat := 0x20000
def strictResults : Nat := 0x20080
def strictStart : Nat := 0x200e0
def strictB : Nat := 0x20140
def strictFlags : Nat := 0x50200
def strictEnd : Nat := 0x50260

/-- The streams that a library body reads or writes (assumption 86), those that it writes first. -/
def libStreams (ws : List Word) : List Nat × List Nat :=
  match (vdesc ws).bodyStart with
  | 0xf0001 => (if (strictAsk ws).flags then [2, 4] else [2], [0, 1])
  | 0xf0010 => ([1, 2, 3, 4, 5], [0])
  | 0xf0011 => ([1, 2, 3, 4], [0])
  | _ => ([1], [0])

/-- A library body's descriptor holds what the body needs (R201): its streams, its rows' length, of STRICT_DOT 1 to 1536 columns and a
destination type. `len` gives the length of a tensor that the job names. -/
def libOk (ws : List Word) (len : Nat → Option Nat) : Bool :=
  let d := vdesc ws
  let (outs, ins) := libStreams ws
  d.rowElems != 0 && (outs ++ ins).all (fun n => d.base n != 0 && (!d.isTensor n || (len (d.base n)).isSome)) &&
    (d.bodyStart != 0xf0001 || (decide (1 ≤ (strictAsk ws).n) && decide ((strictAsk ws).n ≤ 1536) && decide ((strictAsk ws).ty ≤ 2)))

/-! ## Queues and tiles -/

/-- The issue queues that a descriptor takes: of each cluster that it names, those of its matrix engines (`some`), or the vector
engine's (`none`). -/
def descQueues (ws : List Word) : List (Nat × Option Nat) :=
  (descClusters ws).flatMap fun l =>
    if isMatrix ws then ((List.range 8).filter fun e => (bits (wordAt ws 1) 15 8).testBit e).map fun e => (l, some e)
    else [(l, none)]

/-- Two descriptors name a cluster together. -/
def shareCluster (a b : List Word) : Bool := (descClusters a).any (descClusters b).contains

/-- The logical tiles of an engine that a descriptor names, as a mask: TILE_MASK; those that the TLD and TST of its body
reach in any iteration (R200); of ATTN_RESCALE, whose tiles the statistics set, all. -/
def tilesNamed (text ws : List Word) (e : Nat) : Nat :=
  if isMatrix ws then (if (bits (wordAt ws 1) 15 8).testBit e then bits (wordAt ws 1) 23 16 else 0)
  else if (vdesc ws).bodyStart = 0xf0003 then 0xff
  else
    ((bodyWords text ws).zipIdx.filter fun w => (bits w.1 63 56 == 0x38 || bits w.1 63 56 == 0x39) && bits w.1 37 35 == e).foldl
      (fun m w => (List.range 8).foldl (fun m t =>
        if bits w.1 34 32 ≤ t && t ≤ (vdesc ws).lastTile w.1 w.2 then m ||| 1 <<< t else m) m) 0

/-- Two descriptors name a tile together (R115). -/
def shareTile (text a b : List Word) : Bool :=
  shareCluster a b && (List.range 8).any fun e => tilesNamed text a e &&& tilesNamed text b e != 0

/-- Bytes that a descriptor may reach: of the row region (key 0) or of the tensor with that handle. -/
structure Extent where
  key : Nat
  first : Int
  bytes : Nat
  deriving DecidableEq, Repr

/-- Two extents meet in a 4 KiB allocation unit (R217). -/
def Extent.meets (a b : Extent) : Bool :=
  a.key == b.key && a.bytes != 0 && b.bytes != 0 && decide (a.first / 4096 ≤ (b.first + (b.bytes : Int) - 1) / 4096) &&
    decide (b.first / 4096 ≤ (a.first + (a.bytes : Int) - 1) / 4096)

/-- A whole tensor. -/
def wholeTensor (h : Nat) : List Extent := if h = 0 then [] else [⟨h, 0, 2 ^ 37⟩]

/-- The extent of a memory instruction over its iterations: from its least corner to the end of its greatest (R201). -/
def VDesc.extent (d : VDesc) (w : Word) (k : Nat) : Extent :=
  let n := vAS w
  let (i0, i1, o0, o1) := d.reach k
  let cs := [(i0, o0), (i0, o1), (i1, o0), (i1, o1)].map fun p => d.span w p.1 p.2
  let lo := cs.foldl (fun a c => min a c.1) (cs.headD (0, 0)).1
  let hi := cs.foldl (fun a c => max a (c.1 + (c.2 : Int))) lo
  ⟨if d.isTensor n then d.base n else 0, (if d.isTensor n then 0 else (64 * d.base n : Nat)) + lo, (hi - lo).toNat⟩

/-- The extents of a library body's streams: a tensor whole, rows of the row region as far as FP32 elements or an FB16 row can
reach; of STRICT_DOT also its staged operands. -/
def libExtents (ws : List Word) (ns : List Nat) : List Extent :=
  let d := vdesc ws
  let stage : List Extent := if d.bodyStart = 0xf0001 then [⟨0, (64 * strictA : Nat), 64 * (strictEnd - strictA)⟩] else []
  stage ++ ns.flatMap fun n =>
    if d.isTensor n then wholeTensor (d.base n)
    else
      let last := 64 * (((d.outer - 1 : Nat) : Int) * d.ostride n)
      let len := pad64 (4 * d.rowElems + 4 + 2 * cdiv d.rowElems 32) + 4 * d.outer
      [⟨0, (64 * d.base n : Nat) + min 0 last, last.natAbs + len⟩]

/-- What a descriptor reads or writes: a matrix op its row operand and its tensors, a vector body by its memory instructions, a
library body the streams that it names. -/
def descAccesses (text ws : List Word) : List Extent :=
  if isMatrix ws then
    let d := mdesc ws
    ⟨0, (64 * d.rowAddr : Nat), 64 * (d.lastUnit + 1 - d.rowAddr)⟩ :: d.handles.flatMap wholeTensor
  else
    let d := vdesc ws
    if d.library then libExtents ws ((libStreams ws).1 ++ (libStreams ws).2)
    else ((bodyWords text ws).zipIdx.filter fun w => within 0x30 0x36 (bits w.1 63 56)).map fun w => d.extent w.1 w.2
where
  within (lo hi x : Nat) : Bool := decide (lo ≤ x) && decide (x ≤ hi)

/-- What a descriptor writes. -/
def descWrites (text ws : List Word) : List Extent :=
  if isMatrix ws then wholeTensor (mdesc ws).out
  else
    let d := vdesc ws
    if d.library then libExtents ws (libStreams ws).1
    else ((bodyWords text ws).zipIdx.filter fun w => isStore (bits w.1 63 56) && bits w.1 63 56 != 0x39).map fun w => d.extent w.1 w.2

end Sys2Proof.Machine
end

