-- ==== Sys2Proof/Machine/Jobs.lean ====
section
/-!
DEFINITION. Jobs (R63, R64, R71, R85): their acceptance with every refusal, their start, and RESUME_STREAM (R178).
-/

namespace Sys2Proof.Machine

/-- What SUBMIT_JOB's words 0 to 3 spell (R71). -/
structure JobAsk where
  program : BitVec 32
  entry : Nat
  tiles : Nat
  count : Nat
  dies : BitVec 16
  handle : Word
  status : BitVec 32
  bindings : List (BitVec 32 × Nat × Bool × Nat)
  deriving DecidableEq, Repr

/-- The bindings in a payload's words from word 4: handle, MODE, RELEASE, BYTES. -/
def bindingsOf : Nat → List Word → List (BitVec 32 × Nat × Bool × Nat)
  | 0, _ => []
  | n + 1, ws =>
    let w := wordAt ws 0
    (BitVec.ofNat 32 (bits w 63 32), bits w 31 30, bitAt w 29, (wordAt ws 1).toNat) :: bindingsOf n (ws.drop 2)

/-- The fields of SUBMIT_JOB (R71). -/
def jobAsk (ws : List Word) : JobAsk :=
  let w := wordAt ws
  { program := BitVec.ofNat 32 (bits (w 0) 63 32), entry := bits (w 0) 31 12, tiles := bits (w 0) 11 8,
    count := bits (w 1) 63 44, dies := BitVec.ofNat 16 (bits (w 1) 43 28), handle := w 2,
    status := BitVec.ofNat 32 (bits (w 3) 63 32), bindings := bindingsOf (bits (w 1) 27 22) (ws.drop 4) }

/-- Reserved fields of SUBMIT_JOB (R71). -/
def jobRsvOk (ws : List Word) : Bool :=
  let w := wordAt ws
  bits (w 0) 7 0 == 0 && bits (w 1) 21 0 == 0 && bits (w 3) 31 0 == 0 &&
    (List.range (bits (w 1) 27 22)).all fun b => bits (w (4 + 2 * b)) 28 0 == 0

/-- A tensor size that MODE 1 allows (R71). -/
def newBytesOk (n : Nat) : Bool := n != 0 && n % 64 == 0 && decide (n ≤ 2 ^ 36)

/-- The size of a tensor that a stream holds. -/
def State.heldBytes (s : State) (st : Fin 4096) (h : BitVec 32) : Option Nat :=
  (s.tensors.find? fun t => t.stream == st && t.handle == h).map Tensor.bytes

/-- The size that a handle has for a job: its binding's. -/
def State.boundBytes (s : State) (st : Fin 4096) (a : JobAsk) (h : BitVec 32) : Option Nat :=
  match a.bindings.find? fun b => b.1 == h with
  | some b => if b.2.1 = 1 then some b.2.2.2 else s.heldBytes st h
  | none => none

/-- A binding is in order (R71): MODE 0 names a tensor held, MODE 1 a new one; no handle is zero or bound twice. -/
def State.bindingOk (s : State) (st : Fin 4096) (a : JobAsk) (b : BitVec 32 × Nat × Bool × Nat) : Bool :=
  let held := (s.heldBytes st b.1).isSome
  b.1 != 0 && (a.bindings.filter fun x => x.1 == b.1).length == 1 &&
    (if b.2.1 = 0 then held && b.2.2.2 == 0 else b.2.1 == 1 && !held && newBytesOk b.2.2.2)

def State.program? (s : State) (c : Cab) (id : BitVec 32) : Option Program :=
  s.programs.find? fun p => p.cab == c && p.image.programId == id

/-- The cases of R71 that end with VALUE_OUT_OF_RANGE. -/
def State.jobRange (s : State) (x : Stream) (a : JobAsk) : Bool :=
  let ds := diesOf a.dies
  match s.program? x.cab a.program with
  | none => false
  | some p =>
    (a.bindings.all fun b => s.bindingOk x.id a b) && a.count != 0 && decide (a.entry + a.count ≤ p.image.descs.length) &&
      decide (a.tiles ≤ 8) && !ds.isEmpty && ds.all (fun d => hasDie (s.cab x.cab).dies d.val) &&
      (match s.boundBytes x.id a a.status with | some n => decide (64 * a.count ≤ n) | none => false)

/-- The descriptors that a job runs, OWNER_SLOT of the owned ones filled (R71). -/
def fillOwner (slot : Nat) (ws : List Word) : List Word :=
  let put_ := fun (i : Nat) => updAt i (fun w => word (bits w 47 0 + put slot 48)) ws
  if isMatrix ws then (if 3 ≤ bits (wordAt ws 0) 63 56 then put_ 6 else ws)
  else if bits (wordAt ws 2) 63 48 != 0xffff then put_ 2 else ws

/-- A descriptor is owned (R71). -/
def isOwned (ws : List Word) : Bool :=
  if isMatrix ws then decide (3 ≤ bits (wordAt ws 0) 63 56) else bits (wordAt ws 2) 63 48 != 0xffff

/-- The lowest number of logical clusters on the job's dies. -/
def State.clustersOf (s : State) (m : BitVec 16) : Nat :=
  ((diesOf m).map fun d => (s.die d).map.length).foldl min 9

/-- A handle names a program tensor or a bound one. -/
def State.handleOk (s : State) (st : Fin 4096) (p : ProgramImage) (a : JobAsk) (h : Nat) : Bool :=
  (p.tensors.any fun t => t.handle.toNat == h) || (s.boundBytes st a (BitVec.ofNat 32 h)).isSome

/-- The length of a handle's tensor. -/
def State.handleBytes (s : State) (st : Fin 4096) (p : ProgramImage) (a : JobAsk) (h : Nat) : Option Nat :=
  match p.tensors.find? fun t => t.handle.toNat == h with
  | some t => some t.bytes
  | none => s.boundBytes st a (BitVec.ofNat 32 h)

/-- A tensor of `bytes` bytes holds `rows` rows of `n` elements of a format: in the row layout of R132, or a vector without its padding. -/
def shapeIs (fmt rows n bytes : Nat) : Bool :=
  bytes == rows * rowBytes fmt n || (rows == 1 && bytes == packedBytes fmt n)

/-- The bias and elementwise tensors have a format and a shape of R182 (R183): a program's tensor its own format, a bound one, whose format
the output stage that fills it gives, the size of an allowed one. -/
def operandsOk (p : ProgramImage) (bytes : Nat → Option Nat) (d : MDesc) : Bool :=
  let ok := fun (h lim rows : Nat) => h == 0 || match p.tensors.find? fun t => t.handle.toNat == h with
    | some t => decide (t.fmt ≤ lim) && shapeIs t.fmt rows d.n t.bytes
    | none => (bytes h).any fun n => (List.range (lim + 1)).any fun f => shapeIs f rows d.n n
  ok d.bias 2 1 && ok d.eTensor 4 (d.rowCount * popCount 8 d.clusterMask)

/-- One descriptor of a job passes R87, R112, R142, R183, R197 and R201, and names only its tiles and tensors. -/
def State.descOk (s : State) (x : Stream) (p : ProgramImage) (a : JobAsk) (ws : List Word) : Bool :=
  let n := s.clustersOf a.dies
  if isMatrix ws then
    let d := mdesc ws
    !d.invalid && decide (d.clusterMask < 2 ^ n) && decide (d.tileMask < 2 ^ a.tiles) &&
      d.handles.all (s.handleOk x.id p a) && operandsOk p (s.handleBytes x.id p a) d
  else
    let d := vdesc ws
    let tenant := fun (h : Nat) => x.owner == 1 && !(p.tensors.any fun t => t.handle.toNat == h)
    d.ok p.text (s.handleBytes x.id p a) tenant n && d.handles.all (s.handleOk x.id p a) &&
      (!d.library || libOk ws (s.handleBytes x.id p a))

/-- Reserved fields of a descriptor (R12). -/
def descRsvOk (p : ProgramImage) (ws : List Word) : Bool :=
  if isMatrix ws then mdescRsvOk ws else (vdesc ws).rsvOk ws p.text

/-- The slot that a job's DRAWER_HANDLE resolves to, or the code that refuses it (R62, R71). -/
def State.jobSlot (s : State) (x : Stream) (handle : Word) : Nat ⊕ Option Nat :=
  if handle = 0 then .inr none
  else if x.owner != 1 then .inl Code.notOwner
  else
    let hits := s.slots.filter fun y => y.cab == x.cab && y.handle == handle && y.run.isNone
    if hits.any (fun y => y.owner?.any fun t => t != x.tenant) || (s.ownerOf handle).any (fun t => t != x.tenant) then
      .inl Code.notOwner
    else match hits.find? fun y => y.state == SState.bound with
      | some y => .inr (some y.slot)
      | none => .inl Code.slotNotBound

/-- The marks of the row operand's units on a cluster. -/
def State.rowMarksOf (s : State) (d : Die) (c : Phys) (m : MDesc) : List Mark :=
  ((s.cluster d c).unitTags.filter fun u => decide (m.rowAddr ≤ u.1) && decide (u.1 ≤ m.lastUnit)).map Prod.snd

/-- The rows that a cross-row operation names stand in the cluster store of a die of the job under more than one tag (R48). -/
def State.mixesRows (s : State) (a : JobAsk) (ws : List Word) : Bool :=
  let m := mdesc ws
  isMatrix ws && decide (3 ≤ m.op) && decide (m.op ≤ 5) &&
    (diesOf a.dies).any fun d => ((s.die d).map.zipIdx.filter fun c => m.clusterMask.testBit c.2).any fun c =>
      decide (1 < ((s.rowMarksOf d c.1 m).filter fun k => k != ⟨0, 0xffff⟩).dedup.length)

/-- MIXED_TENANT_ROWS (R46, R48): a descriptor of the job is a cross-row operation over rows of more than one tag. The command
processor judges rows that stand in the store when it accepts the job: those that an unretired job of the stream, or an earlier
descriptor `before` of the same job, may still write are left to the check at execution (assumption 79). -/
def State.mixedRows (s : State) (x : Stream) (text : List Word) (a : JobAsk) : List (List Word) → List (List Word) → Bool
  | _, [] => false
  | before, w :: ws =>
    (!(s.jobs.any fun j => j.stream == x.id) &&
      !(before.any fun e => shareCluster e w && ((descAccesses text w).head?.map fun r => (descWrites text e).any r.meets).getD false) &&
      s.mixesRows a w) || s.mixedRows x text a (w :: before) ws

/-- Pages of a job's new tensors on each of its dies. -/
def newPages (a : JobAsk) : Nat := ((a.bindings.filter fun b => b.2.1 == 1).map fun b => pagesFor b.2.2.2).sum

/-- SUBMIT_JOB's refusals once stream and lengths are in order (R12, R61, R64, R65, R71). -/
def State.jobCode (s : State) (x : Stream) (a : JobAsk) : Option Nat :=
  if x.owner = 2 then some Code.notOwner
  else if x.isClosing then some Code.streamClosing
  else if 65536 ≤ (s.jobs.filter fun j => j.stream == x.id).length then some Code.queueFull
  else if (s.cab x.cab).state != 3 && (s.cab x.cab).state != 4 then some Code.noShelf
  else if !s.jobRange x a then some Code.valueOutOfRange
  else match s.program? x.cab a.program with
    | none => some Code.valueOutOfRange
    | some p =>
      let raw := (p.image.descs.drop a.entry).take a.count
      let ds := raw.map (fillOwner (match s.jobSlot x a.handle with | .inr (some n) => n | _ => 0))
      if !(raw.all fun d => descRsvOk p.image d) then some Code.reservedNonzero
      else if !(raw.all fun d => s.descOk x p.image a d) then some Code.descriptorInvalid
      else if a.handle = 0 && raw.any isOwned then some Code.descriptorInvalid
      else match s.jobSlot x a.handle with
        | .inl c => some c
        | .inr _ =>
          if s.mixedRows x p.image.text a [] ds then some Code.mixedTenantRows
          else if (diesOf a.dies).any fun d => decide (s.freeOnDie d < newPages a) then some Code.jobNoSpace else none

/-- A new tensor on one die (R71). -/
def State.newTensor (s : State) (x : Stream) (h : BitVec 32) (bytes : Nat) (d : Die) : State :=
  let kind := if x.owner = 1 then PKind.tensor else PKind.operator
  match s.alloc? d (pagesFor bytes) kind (s.streamGlove x) x.cab (BitVec.ofNat 32 x.id.val) with
  | none => s
  | some (s, ps) =>
    { s with tensors := s.tensors ++ [{ stream := x.id, handle := h, die := d, bytes := bytes, glove := s.streamGlove x,
                                        data := [], fmt := none, scaleWords := [], stats := [], marks := [], pages := ps }] }

/-- The drawer of a job pinned on a span group, fetched where it is not resident (R71, R247). A residency in EVICT_PENDING or with the highest
pin count takes no pin (R247, R249): the job then waits with it. -/
def State.pinJob (s : State) (st : Fin 4096) (q : BitVec 32) (c : Cab) (n : Nat) (g : Die) : State :=
  match s.slot? c n, s.job? st q with
  | some x, some j =>
    let held := s.residency? c n g
    if j.pins.contains g || held.any fun r => r.state == 2 || r.full then s
    else
      let s := ((s.addResidency c n g).pin c n g).modJob st q fun j => { j with pins := j.pins ++ [g] }
      if held.any Residency.complete then s else s.startFetch c n g x.handle x.version none false []
  | _, _ => s

/-- The drawer of a job pinned on every span group that holds a die of it. -/
def State.pinAll (s : State) (c : Cab) (j : Job) : State :=
  match j.slot with
  | none => s
  | some n => (s.jobGroups c j.dies).foldl (fun (s : State) g => s.pinJob j.stream j.seq c n g) s

/-- A job accepted (R63, R71): its sequence number, its new tensors, its pins. -/
def State.acceptJob (s : State) (r : Reply) (x : Stream) (a : JobAsk) : State :=
  let slot := match s.jobSlot x a.handle with | .inr n => n | .inl _ => none
  let new := a.bindings.filter fun b => b.2.1 == 1
  let s := new.foldl (fun s b => (diesOf a.dies).foldl (fun s d => s.newTensor x b.1 b.2.2.2 d) s) s
  let mk : (BitVec 32 × Nat × Bool × Nat) → Binding := fun b =>
    { handle := b.1, fresh := b.2.1 == 1, release := b.2.2.1, bytes := b.2.2.2 }
  let j : Job := { stream := x.id, seq := x.nextSeq, program := a.program, entry := a.entry, tiles := a.tiles,
                   count := a.count, dies := a.dies, slot := slot, slotGen := (slot.map (s.slotGen x.cab)).getD 0, pins := [], status := a.status, bindings := a.bindings.map mk,
                   reply := r, phase := 0, retired := 0, endCode := 0, record := [] }
  let s := ({ s with jobs := s.jobs ++ [j] } : State).modStream x.id.val fun y => { y with nextSeq := y.nextSeq + 1 }
  let s := s.accept r x.nextSeq.toNat
  match slot with
  | none => s
  | some n => (s.touchSlot x.cab n).pinAll x.cab j

def infoSubmitJob : CmdInfo := ⟨0x0022, 32, 480, .own, false, false, true, [], none⟩

/-- SUBMIT_JOB (R71). -/
def execSubmitJob (src : Src) (req : Req) (s : State) : Out :=
  .next (s.ilnil infoSubmitJob src req fun r ws s =>
    match s.stream? r.stream.val with
    | none => s.complete r Code.streamUnknown []
    | some x =>
      if ws.length != 4 + 2 * bits (wordAt ws 1) 27 22 then s.complete r Code.badLength []
      else if !jobRsvOk ws then s.complete r Code.reservedNonzero []
      else match s.jobCode x (jobAsk ws) with
        | some c => s.complete r c []
        | none => s.acceptJob r x (jobAsk ws))

/-- No earlier job of the stream is unretired (R63). -/
def State.firstOf (s : State) (j : Job) : Bool :=
  (s.jobs.find? fun x => x.stream == j.stream) == some j

/-- The fetches that a job waits for have completed (R71). -/
def State.fetched (s : State) (c : Cab) (j : Job) : Bool :=
  match j.slot with
  | none => true
  | some n => (s.jobGroups c j.dies).all fun g => j.pins.contains g && (s.residency? c n g).any Residency.complete

/-- The binding that a job's drawer had at its acceptance is gone (R239). -/
def State.unboundFor (s : State) (c : Cab) (j : Job) : Bool :=
  j.slot.any fun n => (s.slot? c n).isNone || s.slotGen c n != j.slotGen

/-- The tiles of a job on every engine it uses, all or none (R85). -/
def State.grantJob? (s : State) (j : Job) : Option State :=
  (s.jobEngines j).foldl (fun (acc : Option State) p => acc.bind fun s => s.grantOne? j.stream j.tiles p.1 p.2.1 p.2.2)
    (some s)

/-- JOB_START (R63, R71, R85): a job at the head of its stream starts when its drawer is resident and its tiles are granted;
else it goes on waiting. A job whose program went with the shelf ends with NO_SHELF, one whose drawer was unbound before its pin could be
had with SLOT_NOT_BOUND. -/
def execJobStart (stream : Fin 4096) (jobSeq : BitVec 32) (s : State) : Out :=
  .next (match s.job? stream jobSeq, s.stream? stream.val with
    | some j, some x =>
      if j.phase != 0 || x.halted || !s.firstOf j || (diesOf j.dies).any s.resetHolds || (s.jobEngines j).any fun p => s.scopeHolds p.1 p.2.1 then s
      else if (s.program? x.cab j.program).isNone then s.endJob stream jobSeq Code.noShelf
      else if s.unboundFor x.cab j then s.endJob stream jobSeq Code.slotNotBound
      else
        let s := s.pinAll x.cab j
        match s.job? stream jobSeq with
        | none => s
        | some j =>
          if !s.fetched x.cab j then s
          else match s.grantJob? j with
            | some s => s.modJob stream jobSeq fun j => { j with phase := 1 }
            | none => s
    | _, _ => s)

def infoResumeStream : CmdInfo := ⟨0x0023, 8, 8, .own, true, false, true, [[(63, 1)]], none⟩

/-- RESUME_STREAM (R178): the halt ends; with FLUSH every queued job is cancelled. -/
def execResumeStream (src : Src) (req : Req) (s : State) : Out :=
  .next (s.ilnil infoResumeStream src req fun r ws s =>
    match s.stream? r.stream.val with
    | none => s.complete r Code.streamUnknown []
    | some x =>
      if !x.halted then s.complete r Code.streamNotHalted []
      else
        let s := s.modStream x.id.val fun y => { y with halted := false }
        let s := if bitAt (wordAt ws 0) 0 then s.endJobs (fun j => j.stream == x.id && j.phase == 0) Code.cancelledAfterTrap
          else s
        (s.settleGrants x.id).complete r Code.ok [])

end Sys2Proof.Machine
end

