-- ==== Sys2Proof/Machine/Serving.lean ====
section
/-!
DEFINITION. Serving: requests (R54 to R56), seatings and their rows (R42 to R45, R57, R58, R98, R100), passes and transposed segments with their hand-over (R49 to R53, R271, R273), activation store blocks (R106 to
R108).
-/

namespace Sys2Proof.Machine

/-! ## Requests (R54, R55) -/

/-- A row tag that no row may carry (R16). -/
def badTag (t : BitVec 16) : Bool := decide (0x4000 ≤ t.toNat) && t != 0xffff

/-- The code with which a request ends at once, or none (R16, R387, R390). -/
def State.requestCode (s : State) (x : Session) (r : ServeReq) : Option Nat :=
  if x.draining then some Code.gloveClosed
  else if (s.tenantGlove? x.tenant).isNone then some Code.noGlove
  else if badTag r.rowTag then some Code.rowTagInvalid
  else if s.cp.tripped then some Code.thermalTripped else none

/-- SERVING_REQUEST (R54, R55): the request arrives, and is admitted, held in QUEUED, or ended. -/
def execServingRequest (session : Sess) (r : ServeReq) (s : State) : Out :=
  .next (match s.session? session.val with
    | none => s
    | some x =>
      let id := s.nextRequest
      let q : Request :=
        { id := id, session := session, tenant := x.tenant, cab := x.cab, ask := r, state := RState.queued, code := 0,
          group := none, slot := none, placed := 0, delivered := 0, ready := 0, since := s.now, seq := 0, kvPages := 0,
          inPass := false, passedOver := false, arrived := s.now, admitted := 0, ended := 0, pinned := false, out := [],
          record := [] }
      let s := { s with requests := s.requests ++ [q], nextRequest := id + 1 }
      match s.requestCode x r with
      | some c => s.endRequest id c
      | none =>
        let s := match s.tenantGlove? x.tenant with
          | some g => s.modGlove g.id.toNat fun g => { g with tokensIn := g.tokensIn + r.promptRows }
          | none => s
        s.tryAdmit id)

/-- ADMISSION_RETEST (R54, R353): a waiting request is tested, and one whose drawer was evicted asks for it again. -/
def execAdmissionRetest (request : Nat) (s : State) : Out := .next ((s.tryAdmit request).repin request)

/-! ## Filling a seating (R44, R45, R271) -/

/-- A cluster while a seating is filled: its rows and the distinct slots among them. -/
structure Bench where
  rows : Nat
  tags : List (BitVec 16)
  deriving DecidableEq, Repr

/-- A cluster that can take a row with a tag: room, and the tag already there or fewer than 32 distinct slots (R44). -/
def Bench.takes (b : Bench) (t : BitVec 16) : Bool :=
  decide (b.rows < 512) && (t == 0xffff || b.tags.contains t || decide (b.tags.length < 32))

/-- The cluster for rows of a tag: one that holds the tag, else the one with fewest rows (R45). -/
def pickBench (bs : List Bench) (t : BitVec 16) : Option Nat :=
  let ok := bs.zipIdx.filter fun p => p.1.takes t
  match ok.find? fun p => t != 0xffff && p.1.tags.contains t with
  | some p => some p.2
  | none => (minBy (fun (p : Bench × Nat) => p.1.rows) ok).map Prod.snd

/-- The maker of a seat row: its cluster and position. -/
def seatAt (proto : SeatRow) (c p : Nat) : SeatRow := { proto with cluster := c, pos := p }

/-- Up to `n` rows of one tag placed: the rows and the clusters after them. -/
def placeRows (proto : SeatRow) : Nat → Nat → List Bench → List SeatRow → List Bench × List SeatRow
  | 0, _, bs, acc => (bs, acc)
  | fuel + 1, n, bs, acc =>
    if n = 0 then (bs, acc)
    else match pickBench bs proto.tag with
      | none => (bs, acc)
      | some c =>
        let b := bs.getD c ⟨0, []⟩
        let m := min n (512 - b.rows)
        let b' : Bench :=
          { rows := b.rows + m,
            tags := if proto.tag = 0xffff || b.tags.contains proto.tag then b.tags else b.tags ++ [proto.tag] }
        placeRows proto fuel (n - m) (updAt c (fun _ => b') bs) (acc ++ (List.range m).map fun i => seatAt proto c (b.rows + i))

/-- Rows that may be seated in one pass for a request (R58): a chunk of the prompt, or the next token. -/
def chunkOf (prefill : Nat) (q : Request) : Nat := min q.ready (if q.delivered = 0 || 1 < q.ready then prefill else 1)

/-- The row of a request, its place apart. -/
def State.requestRow (s : State) (q : Request) : SeatRow :=
  { cluster := 0, pos := 0, tag := match q.slot with | some n => BitVec.ofNat 16 n | none => 0xffff,
    kind := if 1 < q.ready || q.placed < q.ask.promptRows then 0 else 1,
    glove := ((s.tenantGlove? q.tenant).map Glove.id).getD 0, request := some q.id, run := none, seq := 0, token := 0,
    act := [] }

/-- The row of a run's sequence, its place apart. -/
def State.runRow (s : State) (r : Run) (seq : Nat) (back : Bool) : SeatRow :=
  { cluster := 0, pos := 0, tag := BitVec.ofNat 16 r.slot, kind := if back then 3 else 2,
    glove := ((s.tenantGlove? r.tenant).map Glove.id).getD 0, request := none, run := some r.id, seq := seq, token := 0,
    act := [] }

/-- The tokens of the next `m` rows that a sequence seats forward, in token order (R271); those of rows to be seated again come first. -/
def StepSeq.nextForward (q : StepSeq) (m : Nat) : List Nat :=
  (q.redo ++ (List.range m).map fun i => q.placed + q.redo.length + i).take m

/-- The tokens of the next `m` rows that a sequence seats backward: the last of those left, from the last chunk to the first (R273). -/
def StepSeq.nextBackward (q : StepSeq) (m : Nat) : List Nat :=
  let k := m - q.redoBack.length
  q.redoBack.take m ++ (List.range k).map fun i => q.rows - (q.back + q.redoBack.length) - k + i

/-- Rows with the tokens that they hold. -/
def withTokens (rows : List SeatRow) (tokens : List Nat) : List SeatRow :=
  (rows.zip tokens).map fun p => { p.1 with token := p.2 }

/-- The drawer of a request is resident on its group, so that its rows may join (R244). -/
def State.drawerReady (s : State) (q : Request) : Bool :=
  match q.slot, q.group with
  | some n, some g => q.pinned && (s.residency? q.cab n g).any Residency.complete
  | none, _ => true
  | _, none => false

/-- A tenant's glove may be installed: the standby has acknowledged its making (R378). -/
def State.gloveKnown (s : State) (t : BitVec 32) : Bool := ((s.tenantGlove? t).map Glove.standbyAcked).getD false

/-- Requests with rows that wait for a seat on a group: first those that the last seating passed over, then in admission order (R45). -/
def State.waitingReqs (s : State) (c : Cab) (g : Die) : List Request :=
  let all := sortBy Request.seq (s.requests.filter fun q =>
    q.cab == c && q.group == some g && q.live && decide (0 < q.ready) && s.drawerReady q && s.gloveKnown q.tenant)
  all.filter Request.passedOver ++ all.filter fun q => !q.passedOver

/-- Waiting requests of which a seating that starts takes fewer rows than a pass may take are passed over; the others keep no such place
(R45). -/
def State.markPassed (s : State) (c : Cab) (g : Die) (rows : List SeatRow) : State :=
  let ids := (s.waitingReqs c g).map Request.id
  let upd : Request → Request := fun q =>
    if ids.contains q.id then
      { q with passedOver := decide ((rows.filter fun r => r.request == some q.id).length < chunkOf (s.cab c).adm.prefill q) }
    else q
  { s with requests := s.requests.map upd }

/-- A step may seat rows (R271): it is running, and every die of the group has switched. -/
def Run.seats (r : Run) : Bool :=
  r.inStep && (r.state == RunSt.running || r.state == RunSt.stopping) && r.perDie.all RunDie.switched

/-- Bytes of saved activations for which a sequence holds space on each die of its home group: from its first chunk, until its backward
passes read them (R272). -/
def State.savedOf (s : State) (r : Run) (q : StepSeq) : Nat := if q.placed = 0 then 0 else (q.rows - q.back) * s.savedBytes r

/-- The sequences of a run's step on a group that may be seated (R272): those that have begun, and in order those for whose saved
activations there is room; one that must wait holds back the later ones. -/
def State.roomySeqs (s : State) (r : Run) (g : Die) : List StepSeq :=
  let mine := r.step.filter fun q => q.home == g
  (mine.foldl (fun (acc : List StepSeq × Nat × Bool) q =>
    if acc.2.2 then acc
    else if q.placed != 0 then (acc.1 ++ [q], acc.2.1, false)
    else
      let n := acc.2.1 + q.rows * s.savedBytes r
      if r.saveRoom < n then (acc.1, acc.2.1, true) else (acc.1 ++ [q], n, false)) ([], (mine.map (s.savedOf r)).sum, false)).1

/-- The sequences of a group's step with forward rows to seat: run, sequence, rows in the next chunk (R271). -/
def State.forwardChunks (s : State) (c : Cab) (g : Die) : List (Run × StepSeq × Nat) :=
  (s.runs.filter fun r => r.cab == c && r.seats).flatMap fun r =>
    ((s.roomySeqs r g).filter fun q => decide (q.placed < q.rows)).map fun q =>
      (r, q, min (s.cab c).adm.prefill (q.rows - q.placed))

/-- A group's next sequence with backward rows to seat, in dataset order, from the last chunk to the first (R273): its
forward passes have ended. -/
def State.backwardChunk (s : State) (c : Cab) (g : Die) : Option (Run × StepSeq × Nat) :=
  ((s.runs.filter fun r => r.cab == c && r.seats).flatMap fun r =>
    (r.step.filter fun q => q.home == g && q.forward == q.rows && decide (q.back < q.rows)).map fun q =>
      let n := (s.cab c).adm.prefill
      (r, q, min (q.rows - q.back) (if q.back = 0 && q.rows % n != 0 then q.rows % n else n))).head?

/-- Logical clusters that every die of a group has. -/
def State.groupClusters (s : State) (c : Cab) (g : Die) : Nat :=
  ((s.groupOfCab c g).map fun d => (s.die d).map.length).foldl min 9

/-- Empty clusters for a group's seating. -/
def State.benches (s : State) (c : Cab) (g : Die) : List Bench := List.replicate (s.groupClusters c g) ⟨0, []⟩

/-- The forward seating that a group's waiting rows fill (R44, R45, R53). -/
def State.fillForward (s : State) (c : Cab) (g : Die) : List SeatRow :=
  let (bs, rows) := (s.waitingReqs c g).foldl (fun (acc : List Bench × List SeatRow) q =>
    placeRows (s.requestRow q) 16 (chunkOf (s.cab c).adm.prefill q) acc.1 acc.2) (s.benches c g, [])
  ((s.forwardChunks c g).foldl (fun (acc : List Bench × List SeatRow) x =>
    let (bs, l) := placeRows (s.runRow x.1 x.2.1.index false) 16 x.2.2 acc.1 []
    (bs, acc.2 ++ withTokens l (x.2.1.nextForward l.length))) (bs, rows)).2

/-- The transposed seating of a group (R52, R273). -/
def State.fillBackward (s : State) (c : Cab) (g : Die) : List SeatRow :=
  match s.backwardChunk c g with
  | none => []
  | some x =>
    let l := (placeRows (s.runRow x.1 x.2.1.index true) 16 x.2.2 (s.benches c g) []).2
    withTokens l (x.2.1.nextBackward l.length)

/-! ## Drawer lines (R98, R100) -/

/-- The distinct drawer slots of a cluster's rows, in order of first appearance by position. -/
def slotOrder (rows : List SeatRow) (c : Nat) : List (BitVec 16) :=
  ((sortBy SeatRow.pos (rows.filter fun r => r.cluster == c)).foldl (fun (acc : List (BitVec 16)) r =>
    if r.tag = 0xffff || badTag r.tag || acc.contains r.tag then acc else acc ++ [r.tag]) [])

/-- Rows without a line: of a 33rd or later slot, or with an invalid tag. -/
def unseatedRows (rows : List SeatRow) : List Nat :=
  (rows.zipIdx.filter fun p =>
    badTag p.1.tag || (p.1.tag != 0xffff && !((slotOrder rows p.1.cluster).take 32).contains p.1.tag)).map Prod.snd

/-- The owner of a row's work, for reports. -/
def SeatRow.touch (r : SeatRow) : Touch :=
  { stream := 0, jobSeq := 0, opIndex := 0, rowTag := r.tag, request := r.request, run := r.run }

/-- Placement reports of a pass, one a cluster and code (R100, R445). -/
def State.reportPlacement (s : State) (d : Die) (cab : Cab) (p : Pass) : State :=
  let bad := p.unseated.filterMap fun i => p.rows[i]?
  (List.range 9).foldl (fun s c =>
    [(62, bad.filter fun r => r.cluster == c && !badTag r.tag), (46, bad.filter fun r => r.cluster == c && badTag r.tag)].foldl
      (fun (s : State) x =>
        if x.2.isEmpty then s
        else s.report { cls := Cls.placement, severity := 1, block := 1,
                        unit := Fin.ofNat 64 ((s.die d).map.getD c 0).val, die := d, cab := some cab,
                        d2 := word (put c 48 + put x.2.length 32 + put x.1 24), d3 := 0,
                        touched := x.2.map SeatRow.touch }) s) s

/-! ## Starting a pass -/

/-- The rows of a pass in their requests and runs (R55, R271, R273). -/
def State.seatRows (s : State) (rows : List SeatRow) : State :=
  let count := fun (p : SeatRow → Bool) => (rows.filter p).length
  let seat : Request → Request := fun q =>
    let n := count fun r => r.request == some q.id
    if n = 0 then q
    else { q with ready := q.ready - n, placed := q.placed + n, state := RState.seated, inPass := true }
  let put_ : BitVec 32 → StepSeq → StepSeq := fun id q =>
    let mine := fun (k : Fin 4) => (rows.filter fun r => r.run == some id && r.seq == q.index && r.kind == k).map SeatRow.token
    { q with placed := q.placed + (mine 2).length, back := q.back + (mine 3).length,
             redo := q.redo.filter fun t => !(mine 2).contains t,
             redoBack := q.redoBack.filter fun t => !(mine 3).contains t }
  { s with requests := s.requests.map seat,
           runs := s.runs.map fun (r : Run) => { r with step := r.step.map (put_ r.id) } }

/-- Counters of a pass start (R396, R404), and the uses of its drawers (R250). -/
def State.countPass (s : State) (c : Cab) (g : Die) (rows : List SeatRow) : State :=
  let s := s.modCab c fun x =>
    { x with counters := { x.counters with passes := x.counters.passes + 1, rows := x.counters.rows + rows.length } }
  let s := (rows.map SeatRow.glove).dedup.foldl (fun (s : State) gl =>
    s.modGlove gl.toNat fun x => { x with rowsSeated := x.rowsSeated + (rows.filter fun r => r.glove == gl).length }) s
  ((rows.map SeatRow.tag).dedup.filter fun t => t != 0xffff).foldl (fun (s : State) t =>
    let (u, s) := s.tick
    (s.modResidency c t.toNat g fun r => { r with lastRead := u }).touchSlot c t.toNat) s

/-- The clusters of a die as the rows of a seating fill them: a row more takes the place after the last. -/
def benchesOf (n : Nat) (rows : List SeatRow) : List Bench :=
  (List.range n).map fun c =>
    let mine := rows.filter fun r => r.cluster == c
    { rows := (mine.map fun r => r.pos + 1).foldl max 0, tags := (mine.map SeatRow.tag).dedup.filter fun t => t != 0xffff }

/-- The rows that a die's last pass left unseated join the seating that begins next in their direction, where R44 allows (R100): the rows
that join, and those that go on waiting. -/
def joinAgain (n : Nat) (trans : Bool) (rows again : List SeatRow) : List SeatRow × List SeatRow :=
  again.foldl (fun (acc : List SeatRow × List SeatRow) r =>
    if (r.kind == 3) != trans then (acc.1, acc.2 ++ [r])
    else match (placeRows r 1 1 (benchesOf n acc.1) []).2 with
      | [] => (acc.1, acc.2 ++ [r])
      | l => (acc.1 ++ l, acc.2)) (rows, [])

/-- Where the activation of the row at a position of a cluster stands at a pass's start and end: the rules do not say; the model takes the
row region from its first unit, position by position, each in whole units (DESIGN CHOICE, assumption 92). -/
def State.actPlace (s : State) (c : Cab) (pos : Nat) : Nat × Nat :=
  let n := ((s.cab c).shelf.map ShelfImage.rowBytes).getD 0
  (64 * (0x20000 + pos * cdiv n 64), n)

/-- The activation of a seating row on a die. -/
def State.actOf (s : State) (d : Die) (c : Cab) (r : SeatRow) : List Byte :=
  match (s.die d).map[r.cluster]? with
  | some k => let p := s.actPlace c r.pos; (s.cluster d k).rowMem.read p.1 p.2
  | none => []

/-- A row that came with an activation finds it in its cluster's row region, under its owner's mark (R49, R52, R102, R104). -/
def State.putAct (s : State) (d : Die) (c : Cab) (r : SeatRow) : State :=
  match (s.die d).map[r.cluster]?, r.act with
  | some _, [] => s
  | none, _ => s
  | some k, bs =>
    let a := (s.actPlace c r.pos).1
    let m : Mark := ⟨s.gloveSlot d k r.glove, r.tag⟩
    s.modCluster d k fun x =>
      let x := (unitsOf a bs.length).foldl (fun (x : ClusterSt) u => x.claimUnit u m) x
      { x with rowMem := x.rowMem.write a bs }

/-- A pass begins on a die, or the next segment of one (R52, R78, R98, R100, R105): the map change that was due, the rows to be seated again,
the gloves, the activations that the rows bring, empty panel buffers, the lines, the placement check. Rows of a logical cluster that the
die no longer has are unseated (R77). -/
def State.beginPass (s : State) (d : Die) (c : Cab) (p : Pass) : State :=
  let m := (s.die d).mapNow
  let fresh := !p.mid
  let (rows, again) := if p.mid then (p.rows, (s.die d).again) else joinAgain m.length p.trans p.rows (s.die d).again
  let lost := (rows.zipIdx.filter fun r => decide (m.length ≤ r.1.cluster)).map Prod.snd
  let p := { p with rows := rows, started := if p.mid then p.started else s.now, mid := false,
                    unseated := (p.unseated ++ unseatedRows rows ++ lost).dedup }
  let s := s.modDie d fun x => { x with map := m, nextMap := none, pass := some p, again := again, waitExpired := false,
                                        segment := if p.trans then (s.cab c).adm.bwd else x.segment, panelNext := none }
  let s := m.zipIdx.foldl (fun (s : State) k =>
    let mine := p.rows.filter fun r => r.cluster == k.2
    let s := (((mine.map SeatRow.glove).dedup.filter fun g => g != 0)).foldl (fun (s : State) g => s.wear d k.1 g)
      (s.wear d k.1 (shelfGlove c))
    s.modCluster d k.1 fun x =>
      { x with lines := (slotOrder p.rows k.2).take 32, pieces := [], bufs := [⟨0, 0, none⟩, ⟨0, 0, none⟩] }) s
  let s := if fresh then p.rows.foldl (fun (s : State) r => s.putAct d c r) s else s
  s.reportPlacement d c { p with unseated := unseatedRows p.rows }

/-- The index that a die gives its next seating (R66). -/
def State.newSeating (s : State) (d : Die) : BitVec 16 := BitVec.ofNat 16 (put d.val 12 + (s.die d).seatIndex % 4096)

/-- A new seating fills from waiting rows and its pass begins. -/
def State.startNew (s : State) (d : Die) (c : Cab) (g : Die) (trans : Bool) (rows : List SeatRow) : State :=
  let p : Pass := { seating := s.newSeating d, trans := trans, rows := rows, unseated := [], tokens := [], started := s.now, clips := 0,
                    withheld := false, mid := false }
  let s := ((if trans then s else s.markPassed c g rows).seatRows rows).modDie d fun x => { x with seatIndex := (x.seatIndex + 1) % 4096 }
  (s.countPass c g rows).beginPass d c p

/-- A seating that waits at the die begins its pass there (R51, R52). -/
def State.startArrived (s : State) (d : Die) (c : Cab) (p : Pass) : State :=
  (s.modDie d fun x => { x with arrived := x.arrived.erase p }).beginPass d c p

/-- Serving rows wait for a seat on a die (R53): at position 0, or in a seating that has arrived. -/
def State.servingWaits (s : State) (d : Die) (c : Cab) (g : Die) : Bool :=
  (d == g && !(s.waitingReqs c g).isEmpty) ||
    (s.die d).arrived.any fun p => !p.trans && p.rows.any fun r => r.request.isSome

/-- Every die of a run's group switches at its next pass start (R283). -/
def State.switchRuns (s : State) (d : Die) : State :=
  (s.runs.filter fun r => hasDie r.dies d.val).foldl (fun (s : State) r => s.switchDie r.id d) s

/-- The unmount of the cabinet cuts requests (R41). -/
def State.cutting (s : State) (c : Cab) : Bool := ((s.cab c).unmount.map Prod.fst).getD false

/-- The seatings of a group in one direction that are in flight (R51). -/
def State.inFlight (s : State) (c : Cab) (g : Die) (trans : Bool) : Nat :=
  ((s.groupOfCab c g).map fun d =>
    (((s.die d).pass.toList ++ (s.die d).arrived ++ (s.die d).onLink).filter fun p => p.trans == trans).length).sum

/-- PASS_START (R57, R51 to R53, R98): a die without a pass starts a forward pass, or with `trans` a transposed segment; a span group keeps
up to one seating a position in flight. A die whose runs have a commit to switch to does so here, whether or not it has rows. A shelf
that is being unmounted with CUT sees seatings finish the pass that they are in and no other (R41). -/
def execPassStart (die : Die) (trans : Bool) (s : State) : Out :=
  .next (match s.cabOfDie die with
    | none => s
    | some c =>
      let x := s.cab c
      let g := groupOf x.span die
      if (s.die die).pass.isSome || (x.state != 3 && x.state != 4) || !s.groupServes c g || (s.die die).mapNow.any (s.scopeHolds die) then s
      else
        let s := s.switchRuns die
        let cut := s.cutting c
        let waiting := (s.die die).arrived.find? fun p => p.trans == trans && (p.mid || !cut)
        let first := if trans then posOf x.span die + 1 == x.span else die == g
        if trans && s.servingWaits die c g then s
        else match waiting with
          | some p => s.startArrived die c p
          | none =>
            if cut then s
            else if !first then
              if (s.die die).again.any fun r => (r.kind == 3) == trans then s.startNew die c g trans [] else s
            else if x.span ≤ s.inFlight c g trans then s
            else if trans then
              let rows := s.fillBackward c g
              if rows.isEmpty then s else s.startNew die c g true rows
            else
              let rows := s.fillForward c g
              if rows.isEmpty || !(decide (x.adm.target ≤ rows.length) || (s.die die).waitExpired) then s
              else s.startNew die c g false rows)

/-- ADMIT_WAIT_EXPIRY (R57): the oldest waiting row of a die has waited ADMIT_WAIT. -/
def execAdmitWaitExpiry (die : Die) (s : State) : Out :=
  .next (match s.cabOfDie die with
    | none => s
    | some c =>
      if groupOf (s.cab c).span die != die || (s.fillForward c die).isEmpty then s
      else s.modDie die fun x => { x with waitExpired := true })

/-! ## Ending a pass -/

/-- Rows of a request or of a sequence in flight on a group: in passes, waiting seatings and links. -/
def State.groupRows (s : State) (c : Cab) (g : Die) : List SeatRow :=
  (s.groupOfCab c g).flatMap fun d =>
    ((s.die d).pass.toList ++ (s.die d).arrived ++ (s.die d).onLink).flatMap Pass.rows ++ (s.die d).again

/-- Rows that did not complete on the die at which their seating is filled are taken back, to be seated in its next pass (R100, R353). -/
def State.reseat (s : State) (rows : List SeatRow) : State :=
  let count := fun (p : SeatRow → Bool) => (rows.filter p).length
  let back : Request → Request := fun q =>
    let n := count fun r => r.request == some q.id
    if n = 0 || q.state == RState.done || q.state == RState.ended then q
    else { q with ready := q.ready + n, placed := q.placed - n, since := s.now, inPass := false }
  let put_ : BitVec 32 → StepSeq → StepSeq := fun id q =>
    let mine := fun (k : Fin 4) => (rows.filter fun r => r.run == some id && r.seq == q.index && r.kind == k).map SeatRow.token
    { q with placed := q.placed - (mine 2).length, back := q.back - (mine 3).length,
             redo := q.redo ++ mine 2, redoBack := q.redoBack ++ mine 3 }
  { s with requests := s.requests.map back,
           runs := s.runs.map fun (r : Run) => { r with step := r.step.map (put_ r.id) } }

/-- Blocks that hold a seating's rows are released: each is zeroed before it is allocated again (R108). -/
def State.freeBlocks (s : State) (d : Die) (seating : BitVec 16) : State :=
  let zero : ABlock → ABlock := fun b =>
    if b.saved.isNone && b.seating == seating && !b.zeroing then { b with zeroing := true } else b
  s.modDie d fun x => { x with blocks := x.blocks.map zero }

/-- Blocks of the activation store in use or being zeroed (R106, R108). -/
def State.usedBlocks (s : State) (d : Die) : List Nat := (s.die d).blocks.map fun b => b.blk.val

/-- The blocks that the rows of a seating need on arrival (R106, R107): by owner's glove, the number and the rows' bytes. -/
def State.rowBlocks (s : State) (c : Cab) (p : Pass) : List (BitVec 16 × Nat × List Byte) :=
  let bytes := ((s.cab c).shelf.map ShelfImage.rowBytes).getD 0
  (p.rows.map SeatRow.glove).dedup.map fun g =>
    let mine := p.rows.filter fun r => r.glove == g
    (g, cdiv (mine.length * bytes) 0x100000, mine.flatMap SeatRow.act)

/-- Blocks allocated, tagged with cabinet and glove (R106). -/
def State.takeBlocks (s : State) (d : Die) (c : Cab) (g : BitVec 16) (n : Nat) (seating : BitVec 16) (saved : Option (BitVec 32))
    (data : List Byte) : State :=
  let mk : Nat × Nat → ABlock := fun i =>
    { blk := Fin.ofNat 768 i.1, zeroing := false, cab := c, glove := g, seating := seating, saved := saved,
      data := (data.drop (0x100000 * i.2)).take 0x100000 }
  s.modDie d fun x => { x with blocks := x.blocks ++ ((lowestFree (s.usedBlocks d) n 768 0).filter fun i => decide (i < 768)).zipIdx.map mk }

/-- The rows of a seating that arrives at a span boundary are held in blocks (R107). -/
def State.holdRows (s : State) (d : Die) (c : Cab) (p : Pass) : State :=
  (s.rowBlocks c p).foldl (fun (s : State) b => s.takeBlocks d c b.1 b.2.1 p.seating none b.2.2) s

/-- Blocks of saved activations that make room spill to HBM, oldest first (R107, R272): each is zeroed before it is allocated again. -/
def State.spillSaved (s : State) (d : Die) (n : Nat) : State :=
  let old := (((s.die d).blocks.filter fun b => b.saved.isSome).take n).map ABlock.blk
  let zero : ABlock → ABlock := fun b => if old.contains b.blk then { b with zeroing := true, saved := none } else b
  s.modDie d fun x => { x with blocks := x.blocks.map zero }

/-- The saved activations of a run on a die (R107, R272): what its forward passes have saved and its backward passes have not read lies in
blocks while there are free ones, else in spill pages; the newest blocks, which the backward passes read first, are given up first. -/
def State.settleSaved (s : State) (d : Die) (r : Run) : State :=
  match r.perDie.find? fun x => x.die == d with
  | none => s
  | some x =>
    let want := cdiv ((x.fwdRows - x.backRows) * s.savedBytes r) 0x100000
    let held := (s.die d).blocks.filter fun b => b.saved == some r.id
    if held.length < want then
      s.takeBlocks d r.cab (((s.tenantGlove? r.tenant).map Glove.id).getD 0) (want - held.length) 0 (some r.id) []
    else
      let gone := (held.drop want).map ABlock.blk
      let zero : ABlock → ABlock := fun b => if gone.contains b.blk then { b with zeroing := true, saved := none } else b
      s.modDie d fun x => { x with blocks := x.blocks.map zero }

/-- The rows of requests and runs that still go on. -/
def State.liveRows (s : State) (rows : List SeatRow) : List SeatRow :=
  rows.filter fun r =>
    (r.request.isSome || r.run.isSome) && (match r.request with | some i => ((s.request? i).map Request.live).getD false | none => true) &&
      (match r.run with | some i => ((s.run? i).map fun x => x.inStep && (x.step.any fun q => q.index == r.seq)).getD false
                        | none => true)

/-- A token is delivered to a request whose rows have all passed: to its session, and on its way to position 0 (R50, R55). -/
def State.deliverToken (s : State) (c : Cab) (g : Die) (i : Nat) (token : BitVec 32) : State :=
  match s.request? i with
  | none => s
  | some q =>
    let s := s.modCab c fun x => { x with counters := { x.counters with tokens := x.counters.tokens + 1 } }
    let s := match s.tenantGlove? q.tenant with
      | some gl => s.modGlove gl.id.toNat fun x => { x with tokensOut := x.tokensOut + 1 }
      | none => s
    let s := s.modSession q.session.val fun x => { x with served := x.served ++ [(i, token)] }
    let s := s.modRequest i fun q => { q with delivered := q.delivered + 1, out := q.out ++ [token] }
    if q.ask.tokens ≤ q.delivered + 1 then s.closeRequest i RState.done Code.ok
    else s.modDie g fun x => { x with tokensOnWay := x.tokensOnWay ++ [i] }

/-- What the end of a pass at the last position does for each request in it (R50). -/
def State.requestsPassed (s : State) (c : Cab) (g : Die) (p : Pass) (tokens : List (Nat × BitVec 32)) : State :=
  (p.rows.filterMap SeatRow.request).dedup.foldl (fun (s : State) i =>
    match s.request? i with
    | none => s
    | some q =>
      if !q.live || (s.groupRows c g).any fun r => r.request == some i then s
      else
        let s := s.modRequest i fun q => { q with inPass := false }
        if q.ready = 0 then
          let (n, s) := s.fresh
          s.deliverToken c g i ((assocGet i tokens).getD (Config.tokenId n))
        else s) s

/-- The requests of a pass that has ended, and that an unmount with CUT ends as they have not finished (R41). -/
def State.cutRequests (s : State) (c : Cab) (p : Pass) : State :=
  if !s.cutting c then s
  else (p.rows.filterMap SeatRow.request).dedup.foldl (fun (s : State) i =>
    if s.passing c i then s else s.endRequest i Code.shelfUnmounted) s

/-- Rows of runs whose forward passes have ended (R271). -/
def State.runsPassed (s : State) (p : Pass) : State :=
  let put_ : BitVec 32 → StepSeq → StepSeq := fun id q =>
    { q with forward := q.forward + (p.rows.filter fun r => r.run == some id && r.seq == q.index && r.kind == 2).length }
  { s with runs := s.runs.map fun (r : Run) => { r with step := r.step.map (put_ r.id) } }

/-- Backward rows that a die has passed; with the last of them its backward pass for the step is complete (R301). -/
def State.backPassed (s : State) (d : Die) (p : Pass) : State :=
  let upd : Run → Run := fun r =>
    let n := (p.rows.filter fun w => w.run == some r.id && w.kind == 3).length
    let all := ((r.step.filter fun q => q.home == groupOf (s.spanOf r) d).map StepSeq.rows).sum
    let one : RunDie → RunDie := fun x =>
      if x.die = d then { x with backRows := x.backRows + n, backwardDone := decide (0 < all) && decide (all ≤ x.backRows + n) }
      else x
    if n = 0 then r else { r with perDie := r.perDie.map one }
  { s with runs := s.runs.map upd }

/-- Rows of runs that a die has passed forward, and the saved activations that its pass leaves or reads (R272). -/
def State.savePassed (s : State) (d : Die) (p : Pass) : State :=
  let n := fun (id : BitVec 32) => (p.rows.filter fun w => w.run == some id && w.kind == 2).length
  let upd : Run → Run := fun r =>
    let one : RunDie → RunDie := fun x => if x.die = d then { x with fwdRows := x.fwdRows + n r.id } else x
    if n r.id = 0 then r else { r with perDie := r.perDie.map one }
  let s := { s with runs := s.runs.map upd }
  (s.runs.filter fun r => p.rows.any fun w => w.run == some r.id).foldl (fun (s : State) r => s.settleSaved d r) s

/-- The rows of a pass handed with their activations or gradients to the die at another position of the group, over the lattice (R49,
R52). -/
def State.handOver (s : State) (d : Die) (p : Pass) : State :=
  if p.rows.isEmpty then s else s.modDie d fun x => { x with onLink := x.onLink ++ [p] }

/-- The bits of a mask. -/
def maskOf (ns : List Nat) : Nat := ns.foldl (fun m n => m ||| 1 <<< n) 0

/-- The status that a pass leaves (R76, R92, R98, R100): by logical cluster the row-done mask and the number of unseated rows, for which a
cluster with too many slots reports LINES_EXCEEDED. -/
def statusOf (p : Pass) (now : Nat) : PassStatus :=
  let in_ := fun (l : Nat) (lost : Bool) =>
    (p.rows.zipIdx.filter fun r => r.1.cluster == l && (p.withheld || p.unseated.contains r.2) == lost).map fun r => r.1.pos
  { seating := p.seating, rowDone := (List.range 8).map fun l => maskOf (in_ l false),
    unseated := (List.range 8).map fun l => (in_ l true).length, clips := p.clips, rows := p.rows.length, started := p.started,
    ended := now }

/-- Rows that a pass left unseated run again in the die's next pass (R100, R353): at the position where seatings are filled as waiting rows of
their requests and sequences, at another as rows that the die's next seating takes up. -/
def State.runAgain (s : State) (d : Die) (first : Bool) (rows : List SeatRow) : State :=
  if first then s.reseat rows
  else s.modDie d fun x => { x with again := x.again ++ s.liveRows rows }

/-- The ids that TOKEN_GREEDY selected for the last rows of requests in a pass (R50, R225). -/
def Pass.chosen (p : Pass) : List (Nat × BitVec 32) :=
  p.tokens.filterMap fun t => match (p.rows[t.1]?).bind SeatRow.request with
    | some i => if (p.rows.zipIdx.any fun r => decide (t.1 < r.2) && r.1.request == some i) then none else some (i, t.2)
    | none => none

/-- PASS_END (R41, R49, R50, R52, R77, R100, R353): the pass has streamed every layer held on the die. `tokens` are the ids that bodies of
the shelf program other than TOKEN_GREEDY selected, by request. -/
def execPassEnd (die : Die) (tokens : List (Nat × BitVec 32)) (s : State) : Out :=
  .next (match s.cabOfDie die, (s.die die).pass with
    | some c, some p =>
      let x := s.cab c
      let g := groupOf x.span die
      let pos := posOf x.span die
      let lost := if p.withheld then p.rows else p.unseated.filterMap fun i => p.rows[i]?
      let mine := fun (r : SeatRow) => { r with act := s.actOf die c r }
      let kept := if p.withheld then [] else (p.rows.zipIdx.filter fun r => !p.unseated.contains r.2).map fun r => mine r.1
      let s := (s.modDie die fun y => { y with pass := none, segment := if p.trans then 0 else y.segment, map := y.mapNow, nextMap := none,
                                               panelNext := none, passStatus := some (statusOf p s.now) }).freeBlocks die p.seating
      let s := s.runAgain die (if p.trans then pos + 1 == x.span else pos == 0) lost
      let q : Pass := { p with rows := s.liveRows kept, unseated := [], tokens := [], withheld := false, clips := 0, mid := false }
      let s := if p.trans then s.backPassed die q else s
      let s := (s.savePassed die q)
      let last := if p.trans then pos == 0 else pos + 1 == x.span
      let s := if last && !p.trans then (s.requestsPassed c g q (p.chosen ++ tokens)).runsPassed q else s
      let s := s.cutRequests c p
      let s := if last then s
        else s.handOver (Fin.ofNat 16 (if p.trans then die.val - 1 else die.val + 1)) { q with rows := s.liveRows q.rows }
      s.settleUnmount c
    | _, _ => s)

/-- BOUNDARY_ROWS_ARRIVAL (R49, R51, R107): the oldest seating on its way to a die arrives in the activation store. Where too few blocks are
free, saved activations spill to make room, and the seating arrives once the blocks have been zeroed. -/
def execBoundaryRowsArrival (die : Die) (s : State) : Out :=
  .next (match s.cabOfDie die, (s.die die).onLink with
    | some c, p :: rest =>
      let need := ((s.rowBlocks c p).map fun b => b.2.1).sum
      let free := 768 - (s.usedBlocks die).length
      if free < need then s.spillSaved die (need - free)
      else (s.modDie die fun x => { x with onLink := rest, arrived := x.arrived ++ [p] }).holdRows die c p
    | _, _ => s)

/-- TOKEN_IDS_ARRIVAL (R50): each sequence whose token id reaches position 0 has its next row ready. -/
def execTokenIdsArrival (die : Die) (s : State) : Out :=
  .next (
    let ids := (s.die die).tokensOnWay
    let s' := s.modDie die fun x => { x with tokensOnWay := [] }
    ids.foldl (fun (s : State) i => s.modRequest i fun q =>
      if q.live then { q with ready := q.ready + 1, since := s.now } else q) s')

/-- SEGMENT_END (R52, R53): a transposed segment ends between layers; the pass waits for its next segment. -/
def execSegmentEnd (die : Die) (s : State) : Out :=
  .next (match (s.die die).pass with
    | some p =>
      if p.trans then s.modDie die fun x => { x with pass := none, arrived := { p with mid := true } :: x.arrived, segment := 0 } else s
    | none => s)

/-- ACTIVATION_STORE_BLOCK_ZEROING (R108): the zeroing of a released block ends. -/
def execActivationStoreBlockZeroing (die : Die) (blk : Fin 768) (s : State) : Out :=
  .next (s.modDie die fun x => { x with blocks := x.blocks.filter fun b => !(b.blk == blk && b.zeroing) })

end Sys2Proof.Machine
end

