-- ==== Sys2Proof/Machine/Engine.lean ====
section
/-!
DEFINITION. What matrix and vector descriptors share: when one may issue (R63, R71, R77, R114, R115), the scopes of the NaN
sentinel and the end of a job that it, or a fault, has stopped (R173, R174, R177), and the status record of a descriptor that
retires (R188).
-/

namespace Sys2Proof.Machine

/-- A descriptor that may issue: its cabinet, its stream, its job, or the pass whose seating it serves. -/
structure Issue where
  cab : Cab
  st : Fin 4096
  job : Option Job
  pass : Option Pass
  deriving DecidableEq, Repr

/-- STREAM of a descriptor (R109, R198). -/
def descStream (ws : List Word) : Fin 4096 := Fin.ofNat 4096 (bits (wordAt ws 0) 23 12)

/-- A descriptor without the fields that the command processor fills at issue: STREAM and SEQ (R109, R198). -/
def unfilled (ws : List Word) : List Word :=
  let clear := fun (hi lo : Nat) (w : Word) => word (w.toNat - put (bits w hi lo) lo)
  let ws := updAt 0 (clear 23 12) ws
  if isMatrix ws then updAt 6 (clear 47 24) ws else updAt 2 (clear 47 24) ws

/-- The descriptor of a job at an index of its program, OWNER_SLOT filled (R71). -/
def State.descAt (s : State) (j : Job) (op : Nat) : Option (List Word) :=
  ((s.jobDescs j)[op - j.entry]?).map (fillOwner (j.slot.getD 0))

/-- An engine still holds a descriptor of a job. -/
def VEngine.holds (v : VEngine) (st : Fin 4096) (q : BitVec 32) : Bool :=
  !v.desc.isEmpty && descStream v.desc == st && v.jobSeq == q

/-- A descriptor has issued on a die and its job has not retired. -/
def State.issued (s : State) (d : Die) (st : Fin 4096) (q : BitVec 32) (op : BitVec 20) : Bool :=
  (s.flights.any fun f => f.die == d && f.stream == st && f.issue.jobSeq == q && f.issue.opIndex == op) ||
    (s.vengines.any fun v => v.u.die == d && v.holds st q && v.opIndex == op) || (s.die d).queue.contains (st, q, op)

/-! ## Program order and hazards within a stream (R114, R115, R215, R217) -/

/-- The descriptors of a running job that wait in the issue queue of an engine on a die, in program order: 32 at most for a
matrix engine (R114), 16 for a vector engine (R215). -/
def State.issueQueue (s : State) (d : Die) (j : Job) (at_ : Nat × Option Nat) : List Nat :=
  (((List.range j.count).map fun i => j.entry + i).filter fun op =>
    !s.issued d j.stream j.seq (BitVec.ofNat 20 op) &&
      (descQueues (((s.jobDescs j)[op - j.entry]?).getD [])).contains at_).take (if at_.2.isSome then 32 else 16)

/-- A descriptor is at the head of every issue queue that it takes: none of its stream before it on those engines still waits
(R114, R215). -/
def State.atHead (s : State) (d : Die) (j : Job) (op : Nat) (ws : List Word) : Bool :=
  (descQueues ws).all fun q => (s.issueQueue d j q).head? == some op

/-- The earlier descriptors of a job that have not retired on a die. -/
def State.unretiredBefore (s : State) (d : Die) (j : Job) (op : Nat) : List (List Word) :=
  (((s.jobDescs j).zipIdx.filter fun w =>
    decide (j.entry + w.2 < op) && !(s.die d).queue.contains (j.stream, j.seq, BitVec.ofNat 20 (j.entry + w.2)))).map Prod.fst

/-- A matrix descriptor of a job waits (R115, R217): an earlier one of its stream that has not retired names one of its tiles, or
writes what it reads or writes on a cluster of both. -/
def State.orderWaits (s : State) (d : Die) (j : Job) (op : Nat) (ws : List Word) : Bool :=
  let text := s.jobText j
  (s.unretiredBefore d j op).any fun e =>
    shareTile text e ws || (shareCluster e ws && (descAccesses text ws).any fun a => (descWrites text e).any a.meets)

/-- The clusters that a descriptor names on a die: logical and physical number. -/
def State.namedClusters (s : State) (die : Die) (mask : Nat) : List (Nat × Phys) :=
  ((s.die die).map.zipIdx.filter fun p => mask.testBit p.2).map fun p => (p.2, p.1)

/-- A descriptor may issue on a die: it is one of a running job's, not issued there before and at the head of its queues (R114,
R215), or it belongs to the serving stream during a pass in the direction `trans` (none: any). Which ready descriptor an engine
takes next among several streams' is the order in which the issue commands come (assumption 78). -/
def State.issue? (s : State) (d : Die) (q : BitVec 32) (op : BitVec 20) (ws : List Word) (mask : Nat)
    (trans : Option Bool) : Option Issue :=
  let st := descStream ws
  match s.cabOfDie d with
  | none => none
  | some c =>
    if !(s.die d).inService || s.resetHolds d || (s.namedClusters d mask).any fun k => s.scopeHolds d k.2 then none
    else if (s.cab c).serving = some st then
      match (s.die d).pass with
      | some p => if trans = none || trans = some p.trans then some ⟨c, st, none, some p⟩ else none
      | none => none
    else match s.job? st q with
      | some j =>
        if j.phase = 1 && hasDie j.dies d.val && decide (j.entry ≤ op.toNat) && !s.issued d st q op &&
            (s.descAt j op.toNat).map unfilled == some (unfilled ws) && s.atHead d j op.toNat ws then some ⟨c, st, some j, none⟩
        else none
      | none => none

/-- Work of a job or of a seat row, for reports (R448). -/
def Issue.touch (x : Issue) (q : BitVec 32) (op : BitVec 20) (tag : BitVec 16) (request : Option Nat)
    (run : Option (BitVec 32)) : Touch :=
  { stream := x.st, jobSeq := q, opIndex := op, rowTag := tag, request := request, run := run }

/-- A cluster wears a glove; one that it holds stays where it is (R104). -/
def State.wearOnce (s : State) (d : Die) (c : Phys) (g : BitVec 16) : State :=
  if (s.cluster d c).slots.any fun k => k.glove == g then s else s.wear d c g

/-- The clusters of a tenant's descriptor wear its glove (R104). -/
def State.wearFor (s : State) (x : Issue) (die : Die) (cs : List (Nat × Phys)) : State :=
  match x.job, s.stream? x.st.val with
  | some _, some y =>
    if y.owner = 1 then cs.foldl (fun (s : State) c => s.wearOnce die c.2 (s.streamGlove y)) s else s
  | _, _ => s

/-! ## The end of a job that was stopped -/

/-- A stopped job ends once every descriptor of it that issued has retired (R174): with NAN_TRAP its stream halts. -/
def State.settleJob (s : State) (st : Fin 4096) (q : BitVec 32) : State :=
  match s.job? st q with
  | none => s
  | some j =>
    if j.phase != 2 || (s.flights.any fun f => f.stream == st && f.issue.jobSeq == q) || s.vengines.any fun v => v.holds st q
    then s
    else
      let s := if j.endCode = Code.nanTrap then s.modStream st.val fun x => { x with halted := true } else s
      s.endJob st q j.endCode

/-- A job stops issuing with a code and a trap record; the first such code stands. -/
def State.stopJob (s : State) (st : Fin 4096) (q : BitVec 32) (code : Nat) (record : List Word) : State :=
  s.modJob st q fun j => if j.phase = 2 then j else { j with phase := 2, endCode := code, record := record }

/-! ## Traps (R173 to R177) -/

/-- Word 7 of a trap record: NAN_COUNT (R176). -/
def Trap.words (t : Trap) : List Word := updAt 7 (fun _ => word (put (min t.more 0xffff) 48)) t.record

/-- A trap taken into a list of traps: of its scope's traps the first stands and counts the later events (R175). -/
def addTrap (l : List Trap) (t : Trap) : List Trap :=
  if l.any fun x => x.request == t.request && x.run == t.run then
    updFirst (fun x => x.request == t.request && x.run == t.run) (fun x => { x with more := x.more + 1 + t.more }) l
  else l ++ [t]

/-- NAN_COUNT of a record raised, saturating (R175). -/
def countMore (n : Nat) (ws : List Word) : List Word :=
  updAt 7 (fun w => word (put (min (bits w 63 48 + n) 0xffff) 48)) ws

/-- New NaN events of a descriptor of a tenant's or the operator's stream: the first traps, and no further descriptor of the job
issues; later ones count until the trap takes effect (R174, R175). -/
def State.trapJob (s : State) (x : Issue) (q : BitVec 32) (ts : List Trap) : State :=
  match x.job with
  | none => s
  | some _ => ts.foldl (fun (s : State) t =>
      if ((s.job? x.st q).map fun j => j.phase == 2 && j.endCode == Code.nanTrap).getD false then
        s.modJob x.st q fun j => { j with record := countMore (t.more + 1) j.record }
      else s.stopJob x.st q Code.nanTrap t.words) s

/-- SHELF_OPERAND (R177, R445): a NaN weight of the shelf, without row or tenant data. -/
def State.shelfOperand (s : State) (c : Cab) (d : Die) (cl : Phys) (layer proj : Nat) : State :=
  let place := word (put layer 48 + put proj 40)
  let s := s.report { cls := Cls.shelfOperand, severity := 1, block := 2, unit := Fin.ofNat 64 cl.val, die := d,
                      cab := some c, d2 := place, d3 := 0, touched := [] }
  s.postEvent Event.shelfOperand 0 [word (put c.val 60), place]

/-- A trap of a serving scope takes effect (R174): a request ends, a run's step is discarded. -/
def State.trapServing (s : State) (t : Trap) : State :=
  match t.request with
  | some i =>
    if ((s.request? i).map Request.live).getD false then
      (s.modRequest i fun r => { r with record := t.words }).endRequest i Code.nanTrap
    else s
  | none => match t.run with
    | some i => match s.run? i with
      | some r =>
        if r.inStep then
          (s.modRun i fun r => { r with record := t.words }).discardStep i Code.nanTrap RunSt.trapped
        else s
      | none => s
    | none => s

/-! ## The status record (R188) -/

/-- The eight words of a status record. -/
def statusWords (st : Fin 4096) (q : BitVec 32) (op : BitVec 20) (k : Counts) (clusters now : Nat) : List Word :=
  [word (put q.toNat 32 + put st.val 20 + op.toNat), word (put k.overflow 32 + k.crush),
   word (put k.crushedBlocks 32 + k.nanBlocks), word (put k.scaleClamped 32 + k.nanOutputs),
   word (put k.satTiles 48 + put k.emptyRows 32 + put clusters 24 + put k.strictFlags 8 + k.scaleCode), word now,
   word (put k.busy 32), 0]

/-- Bytes into a tensor, as far as they lie within it. -/
def Tensor.write (t : Tensor) (off : Nat) (bs : List Byte) : Tensor :=
  { t with data := t.data.write off (bs.take (t.bytes - off)) }

/-- A descriptor of a job has retired on a die: its status record is written (R188) and the job goes on, or ends (R63, R71). -/
def State.retireDesc (s : State) (d : Die) (st : Fin 4096) (q : BitVec 32) (op : BitVec 20) (k : Counts) (clusters : Nat) :
    State :=
  match s.job? st q with
  | none => s
  | some j =>
    let rec_ := wordsToBytes (statusWords st q op k clusters s.now)
    let s := s.modTensor st j.status d fun t => t.write (64 * (op.toNat - j.entry)) rec_
    let s := s.modDie d fun x => { x with queue := x.queue ++ [(st, q, op)] }
    let s := s.modJob st q fun j => { j with retired := j.retired + 1 }
    if j.phase = 2 then s.settleJob st q
    else if j.count * (diesOf j.dies).length ≤ j.retired + 1 then s.endJob st q Code.ok
    else s

end Sys2Proof.Machine
end

