-- ==== Sys2Proof/Machine/Drawers.lean ====
section
/-!
DEFINITION. The drawer commands (R257 to R261), CATALOG_DELIVER (R235, R236), and the events of a fetch (R245, R250).
-/

namespace Sys2Proof.Machine

/-- The tenant of a request's stream; none for the operator. -/
def State.tenantOf (s : State) (r : Reply) : Option (BitVec 32) :=
  match s.stream? r.stream.val with
  | some x => if x.owner = 1 then some x.tenant else none
  | none => none

/-- A tenant stream names another tenant's object (R62, R257); an owner that is not yet known is nobody else's. -/
def State.foreign (s : State) (r : Reply) (owner : Option (BitVec 32)) : Bool :=
  match s.tenantOf r with
  | some t => owner.any fun o => o != t
  | none => false

/-- The fields of R258. -/
def slotField (ws : List Word) : Nat := bits (wordAt ws 1) 59 44
def diesField (ws : List Word) : BitVec 16 := BitVec.ofNat 16 (bits (wordAt ws 1) 43 28)

/-- The slot that a command names, or the code that refuses it (R257, R258). -/
def State.namedSlot (s : State) (r : Reply) (ws : List Word) : Nat ⊕ Slot :=
  match s.slot? (cabOf (wordAt ws 1)) (slotField ws) with
  | none => .inl Code.slotNotBound
  | some x => if s.foreign r x.owner? then .inl Code.notOwner else .inr x

/-- Dies outside a cabinet. -/
def State.outside (s : State) (c : Cab) (m : BitVec 16) : Bool := (diesOf m).any fun d => !hasDie (s.cab c).dies d.val

/-- The answer of BIND_DRAWER: SLOT in [63:48], SLOT_GEN in [47:32]. -/
def bindWord (x : Slot) : Word := word (put x.slot 48 + put x.gen.toNat 32)

def State.bound (s : State) (r : Reply) (c : Cab) (n : Nat) : State :=
  s.complete r Code.ok (((s.slot? c n).map bindWord).toList)

/-- A new version of a handle takes a new slot and the old one retires (R256). -/
def State.rebind (s : State) (c : Cab) (old : Slot) (version : BitVec 32) (owner : Option (BitVec 32)) : Option (Nat × State) :=
  (s.takeSlot c).map fun p =>
    let s := p.2.modSlot c old.slot fun x => { x with state := SState.retiring }
    let s := s.bindSlot c p.1 old.handle version (owner.orElse fun _ => old.owner?) none
    (p.1, s.settleEvict c old.slot)

/-- BIND_DRAWER of a handle (R238, R256). -/
def State.bindHandle (s : State) (r : Reply) (c : Cab) (handle : Word) (asked : BitVec 32) : State :=
  let o := s.resolve c handle
  let owner := (s.ownerOf handle).orElse fun _ => s.tenantOf r
  match s.slotOf c handle with
  | some x =>
    let known := (o.map CatObj.version).getD 0
    let v := if asked != 0 then asked else if x.version < known then known else x.version
    if v = x.version then s.bound r c x.slot
    else if v < x.version then s.complete r Code.valueOutOfRange []
    else match s.rebind c x v owner with
      | some (n, s) => s.bound r c n
      | none => s.complete r Code.tableFull []
  | none =>
    match s.takeSlot c with
    | none => s.complete r Code.tableFull []
    | some (n, s) =>
      (s.bindSlot c n handle (if asked = 0 then (o.map CatObj.version).getD 0 else asked) owner none).bound r c n

def infoBindDrawer : CmdInfo := ⟨0x0030, 24, 24, .zeroOrTenant, true, false, true, [[], [(59, 0)], [(31, 0)]], some 1⟩

/-- BIND_DRAWER (R238, R257). -/
def execBindDrawer (src : Src) (req : Req) (s : State) : Out :=
  .next (s.ilnil infoBindDrawer src req fun r ws s =>
    let h := wordAt ws 0
    if h = 0 then s.complete r Code.valueOutOfRange []
    else if s.foreign r (s.ownerOf h) then s.complete r Code.notOwner []
    else s.bindHandle r (cabOf (wordAt ws 1)) h (BitVec.ofNat 32 (bits (wordAt ws 2) 63 32)))

/-- Residencies of a slot evicted (R248): those on span groups with a die of `m`, all of them for an unbind. The command
completes at once, or when the last of them is released; fetches that waited behind those that went take their places (R246). -/
def State.evictSlot (s : State) (r : Reply) (x : Slot) (m : BitVec 16) (unbind : Bool) : State :=
  let c := x.cab
  let n := x.slot
  let mine := fun (g : Die) => unbind || (s.groupOfCab c g).any fun d => hasDie m d.val
  let s := ((s.residenciesOf c n).filter fun y => mine y.group).foldl (fun (s : State) y => s.evictOne c n y.group) s
  let open_ := (s.residenciesOf c n).any fun y => y.state == 2 && mine y.group
  let s := if open_ then
      s.modSlot c n fun y =>
        { y with state := if y.state = SState.bound then SState.evictPending else y.state, unbind := y.unbind || unbind,
                 evictReplies := y.evictReplies ++ [(r, m, unbind)] }
    else if unbind then (s.freeSlot c n).complete r Code.ok []
    else (s.complete r Code.ok []).settleCache c
  s.promoteAll c

def infoUnbindDrawer : CmdInfo :=
  ⟨0x0031, 24, 24, .zeroOrTenant, false, false, true, [[(63, 0)], [(43, 0)], [(63, 0)]], some 1⟩

/-- UNBIND_DRAWER (R257). -/
def execUnbindDrawer (src : Src) (req : Req) (s : State) : Out :=
  .next (s.ilnil infoUnbindDrawer src req fun r ws s =>
    match s.namedSlot r ws with
    | .inl k => s.complete r k []
    | .inr x =>
      if x.state = SState.remaking || x.run.isSome then s.complete r Code.slotNotBound []
      else (s.accept r 0).evictSlot r x 0 true)

/-- The code with which a slot's state refuses a prefetch (R258). -/
def prefetchCode (x : Slot) : Option Nat :=
  if x.state = SState.stale || x.state = SState.failed then some x.lastCode
  else if x.state = SState.remaking || x.state = SState.retiring || x.run.isSome then some Code.slotNotBound else none

def infoPrefetchDrawer : CmdInfo :=
  ⟨0x0032, 24, 24, .zeroOrTenant, false, false, true, [[(63, 0)], [(27, 0)], [(63, 0)]], some 1⟩

/-- PREFETCH_DRAWER (R244): a fetch to each span group named on which the drawer is not resident, without a pin. The command
completes with the fetches' outcome. -/
def execPrefetchDrawer (src : Src) (req : Req) (s : State) : Out :=
  .next (s.ilnil infoPrefetchDrawer src req fun r ws s =>
    match s.namedSlot r ws with
    | .inl k => s.complete r k []
    | .inr x =>
      let m := diesField ws
      if s.outside x.cab m then s.complete r Code.valueOutOfRange []
      else match prefetchCode x with
        | some k => s.complete r k []
        | none =>
          let gs := ((s.cab x.cab).groups.filter fun g => (s.groupOfCab x.cab g).any fun d => hasDie m d.val).filter fun g =>
            ((s.residency? x.cab x.slot g).map fun y => y.state == 0).getD true
          let s := s.accept r 0
          if gs.isEmpty then s.complete r Code.ok []
          else gs.foldl (fun (s : State) g =>
            if (s.slot? x.cab x.slot).any fun y => (prefetchCode y).isNone then
              s.startFetch x.cab x.slot g x.handle x.version none false [r]
            else s) s)

def infoEvictDrawer : CmdInfo :=
  ⟨0x0033, 24, 24, .zeroOrTenant, false, false, true, [[(63, 0)], [(26, 0)], [(63, 0)]], some 1⟩

/-- EVICT_DRAWER (R248). -/
def execEvictDrawer (src : Src) (req : Req) (s : State) : Out :=
  .next (s.ilnil infoEvictDrawer src req fun r ws s =>
    match s.namedSlot r ws with
    | .inl k => s.complete r k []
    | .inr x =>
      if s.outside x.cab (diesField ws) then s.complete r Code.valueOutOfRange []
      else if x.run.isSome || (x.state = SState.remaking && bitAt (wordAt ws 1) 27) then s.complete r Code.slotNotBound []
      else (s.accept r 0).evictSlot r x (diesField ws) (bitAt (wordAt ws 1) 27))

/-- The dies of a slot's residencies that satisfy `p`. -/
def State.residentDies (s : State) (x : Slot) (p : Residency → Bool) : Nat :=
  (mapOf (((s.residenciesOf x.cab x.slot).filter p).flatMap fun r => s.groupOfCab x.cab r.group)).toNat

/-- The DRAWER_STATUS record (R259, R264): counts are withheld on stream 0. -/
def State.drawerWords (s : State) (x : Slot) (tenant : Bool) : List Word :=
  let pins := if tenant then min (s.pinsOf x.cab x.slot) 0xffffff else 0
  let fetching := (mapOf ((s.fetches.filter fun f => f.cab == x.cab && f.slot == x.slot && !f.dataset).flatMap fun f =>
    s.groupOfCab x.cab f.group)).toNat
  [ x.handle, word (put x.tenant.toNat 32 + x.version.toNat),
    word (put x.state.val 60 + put x.gen.toNat 44 + put (x.rank % 256) 36 + put (x.experts % 16) 32 +
      put (s.residentDies x Residency.complete) 16 + s.residentDies x fun r => decide (0 < r.pins)),
    word (put pins 40 + put fetching 24 + put (min x.sharePages 0xffff) 8 + x.lastCode % 256) ]

/-- The record of a slot that is FREE (R259). -/
def State.freeWords (s : State) (c : Cab) (n : Nat) : List Word := [0, 0, word (put (s.slotGen c n).toNat 44), 0]

def infoDrawerStatus : CmdInfo :=
  ⟨0x0034, 24, 24, .zeroOrTenant, true, false, true, [[(63, 0)], [(43, 0)], [(63, 0)]], some 1⟩

/-- DRAWER_STATUS (R259). A command that names a slot in FREE ends with SLOT_NOT_BOUND (R258). -/
def execDrawerStatus (src : Src) (req : Req) (s : State) : Out :=
  .next (s.ilnil infoDrawerStatus src req fun r ws s =>
    match s.namedSlot r ws with
    | .inl k => s.complete r k []
    | .inr x => s.complete r Code.ok (s.drawerWords x (s.tenantOf r).isSome))

/-- Residencies evicted until a die's DRAWER pages fit (R250, R260). -/
def State.shrinkCache (s : State) (c : Cab) (d : Die) : State :=
  (s.victimsOn c d).foldl (fun s x =>
    if s.drawerPages c d ≤ 512 * (s.cab c).cacheGib then s
    else (s.releaseResidency c x.slot x.group).settleEvict c x.slot) s

def infoSetDrawerCache : CmdInfo := ⟨0x0035, 8, 8, .zero, false, false, true, [[(51, 0)]], some 0⟩

/-- SET_DRAWER_CACHE (R260). -/
def execSetDrawerCache (src : Src) (req : Req) (s : State) : Out :=
  .next (s.ilnil infoSetDrawerCache src req fun r ws s =>
    let c := cabOf (wordAt ws 0)
    let n := bits (wordAt ws 0) 59 52
    let ds := diesOf (s.cab c).dies
    if !within 1 64 n || ds.any fun d => decide (s.drawerPages c d + s.freeOnDie d < 512 * n) then
      s.complete r Code.valueOutOfRange []
    else
      let s := (s.accept r 0).modCab c fun x => { x with cacheGib := n, cacheReplies := x.cacheReplies ++ [r] }
      (ds.foldl (fun (s : State) d => s.shrinkCache c d) s).settleCache c)

def infoSetRemakeConsent : CmdInfo := ⟨0x0036, 24, 24, .tenant, true, false, true, [[], [(59, 32)]], some 1⟩

/-- SET_REMAKE_CONSENT (R255, R261). -/
def execSetRemakeConsent (src : Src) (req : Req) (s : State) : Out :=
  .next (s.ilnil infoSetRemakeConsent src req fun r ws s =>
    let c := cabOf (wordAt ws 1)
    let t := (s.tenantOf r).getD 0
    let x := (wordAt ws 2).toNat
    let rest := s.consents.filter fun k => !(k.tenant == t && k.cab == c)
    if x ≤ s.now then ({ s with consents := rest } : State).complete r Code.ok []
    else if bits (wordAt ws 1) 31 0 = 0 then s.complete r Code.valueOutOfRange []
    else if s.foreign r (s.ownerOf (wordAt ws 0)) then s.complete r Code.notOwner []
    else
      let k : RemakeConsent := { tenant := t, cab := c, dataset := wordAt ws 0, maxSteps := bits (wordAt ws 1) 31 0, expiry := x }
      ({ s with consents := rest ++ [k] } : State).complete r Code.ok [])

/-! ## The catalog -/

/-- What the agent staged, as the intake will find it: an object of another handle, version or length, or none, fails its tags
(R233, R235). -/
def stagedObj (f : Fetch) (len : Nat) : Option CatObj → CatObj
  | some o =>
    { o with tagsOk := o.tagsOk && o.handle == f.handle && (f.version == 0 || o.version == f.version) && len == cipherBytes o.bytes,
             handle := f.handle, version := if f.version = 0 then o.version else f.version }
  | none => { handle := f.handle, version := f.version, tenant := 0, bytes := len, meas := 0, tagsOk := false, image := none,
              dataset := none, runWords := [] }

/-- Fetches of a group that were queued take places that became free (R246). -/
def State.nextFetches (s : State) (f : Fetch) : State := s.promote f.cab f.group 4

def infoCatalogDeliver : CmdInfo := ⟨0x0037, 16, 16, .zero, true, false, false, [[(55, 32)]], none⟩

/-- CATALOG_DELIVER (R235, R236). -/
def execCatalogDeliver (src : Src) (req : Req) (obj : Option CatObj) (s : State) : Out :=
  .next (s.ilnil infoCatalogDeliver src req fun r ws s =>
    let w := wordAt ws 0
    let res := bits w 63 56
    match s.fetch? (BitVec.ofNat 32 (bits w 31 0)) with
    | none => s.complete r Code.valueOutOfRange []
    | some f =>
      if f.step != FStep.catalog || 2 < res || (res != 0 && wordAt ws 1 != 0) then s.complete r Code.valueOutOfRange []
      else
        let s := s.complete r Code.ok []
        if res = 0 then
          let o := stagedObj f (wordAt ws 1).toNat obj
          let s := s.cacheObj o
          let v := s.fetchVersion f
          match s.objOf f with
          | some k => (s.fromCache f k).nextFetches f
          | none => (if v = 0 || v = o.version then s.fromCache f o else s.runFetch f.id).nextFetches f
        else (s.loadFailed f (if res = 1 then Code.drawerNotFound else Code.fetchFailed)).nextFetches f)

/-- FETCH_RESUME (R246, R250): a fetch that waits for pages tries again; queued fetches take the places of fetches that went. -/
def execFetchResume (fetch : BitVec 32) (s : State) : Out :=
  .next (match s.fetch? fetch with
    | none => s
    | some f =>
      if f.step = FStep.queued then s.nextFetches f
      else if f.step != FStep.pages then s
      else match s.objOf f with
        | some o => (s.fromCache f o).nextFetches f
        | none => s.runFetch fetch)

/-- FETCH_COMPLETE (R245 steps 4 to 11): the intakes have checked every piece and written the serving share. -/
def execFetchComplete (fetch : BitVec 32) (s : State) : Out :=
  .next (match s.fetch? fetch with
    | none => s
    | some f =>
      if f.step != FStep.pieces then s
      else match s.objOf f with
        | none => s.runFetch fetch
        | some o =>
          let s := if f.dataset then s
            else s.modCab f.cab fun c => { c with counters := { c.counters with fetches := c.counters.fetches + 1 } }
          (s.fetchArrived f o).nextFetches f)

end Sys2Proof.Machine
end

