-- ==== Sys2Proof/Machine/Hbm.lean ====
section
/-!
DEFINITION. HBM sectors (R332 to R359): the sector code, page access, glove caches, reads and writes, the merge buffer, what an
error withholds, scrubbing, finds and soft fuse records, the aperture, the allocation fill and the re-encryption sweep. A
sector's contents are held as the plaintext that its page's glove decrypts; the stored ciphertext is Config.xts of it.
-/

namespace Sys2Proof.Machine

/-! ## The sector code (R344, R345) -/

/-- A product in GF(2^8) with polynomial x^8 + x^4 + x^3 + x^2 + 1, over the low `n` bits of `b`. -/
def gfMulLow : Nat → Nat → Nat → Nat
  | 0, _, _ => 0
  | n + 1, a, b =>
    (if b % 2 = 1 then a else 0) ^^^ gfMulLow n (if 256 ≤ 2 * a then (2 * a) ^^^ 0x11d else 2 * a) (b / 2)

/-- A product in GF(2^8) (R344). -/
def gfMul (a b : Nat) : Nat := gfMulLow 8 a b

/-- A power of α = 0x02. -/
def gfPow : Nat → Nat
  | 0 => 1
  | n + 1 => gfMul 2 (gfPow n)

/-- The power of x at which a symbol of the codeword stands: 0 to 63 data, 64 to 67 check, 68 to 72 address (R344). -/
def symDegree (k : Nat) : Nat := if k < 64 then k + 4 else if k < 68 then k - 64 else k

/-- Syndrome `i` of an error pattern. -/
def syndrome (err : List (Nat × Nat)) (i : Nat) : Nat :=
  err.foldl (fun acc e => acc ^^^ gfMul e.2 (gfPow (i * symDegree e.1))) 0

/-! The generator polynomial g(x) = (x + 1)(x + α)(x + α²)(x + α³), coefficients of x³, x², x, 1 below the leading 1. -/

/-- A polynomial, lowest coefficient first, times (x + r). -/
def polyTimes (p : List Nat) (r : Nat) : List Nat := (p ++ [0]).zipWith (fun a b => gfMul a r ^^^ b) (0 :: p)

/-- g(x) (R344), lowest coefficient first. -/
def genPoly : List Nat := [gfPow 0, gfPow 1, gfPow 2, gfPow 3].foldl polyTimes [1]

/-- One step of the division by g(x): the remainder so far with the next lower coefficient. -/
def rsStep (rem : List Nat) (c : Nat) : List Nat :=
  let top := rem.getD 3 0
  (List.range 4).map fun i => (if i = 0 then c else rem.getD (i - 1) 0) ^^^ gfMul top (genPoly.getD i 0)

/-- The address word's symbols A0 to A4 (R344). -/
def addrSymbols (addr : Nat) : List Nat := (List.range 5).map fun j => addr / 64 % 2 ^ 35 / 256 ^ j % 256

/-- The four check symbols c0 to c3 of a sector's stored bytes at an address (R344): M(x) mod g(x). -/
def checkSymbols (data : List Byte) (addr : Nat) : List Nat :=
  ([0, 0, 0, 0] ++ (data.take 64).map BitVec.toNat ++ addrSymbols addr).reverse.foldl rsStep [0, 0, 0, 0]

/-- The codeword that a sector's bytes and address make (R344): each symbol with its position, 0 to 63 data, 64 to 67 check, 68 to 72
address. -/
def codeword (data : List Byte) (addr : Nat) : List (Nat × Nat) :=
  ((data.take 64).map BitVec.toNat ++ checkSymbols data addr ++ addrSymbols addr).zipIdx.map fun p => (p.2, p.1)

/-- What the decoder finds (R345). -/
inductive SecClass where
  | clean
  | corrected (sym : Nat)
  | mismatch
  | uncorrectable
  deriving DecidableEq, Repr

/-- The decoder's outcome from four syndromes (R345): no error, one error at a position, or more. -/
def classify (s0 s1 s2 s3 : Nat) : SecClass :=
  if s0 = 0 && s1 = 0 && s2 = 0 && s3 = 0 then .clean
  else
    let fits := fun (k : Nat) =>
      let x := gfPow (symDegree k)
      s0 != 0 && s1 == gfMul s0 x && s2 == gfMul s1 x && s3 == gfMul s2 x
    match (List.range 73).find? fits with
    | some k => if k < 68 then .corrected k else .mismatch
    | none => .uncorrectable

/-- The error pattern of a read: the symbols in error, and the address symbols in which the address read, `got`, differs from
the address meant (R344, R346). -/
def errorOf (err : List (Fin 73 × Byte)) (addr got : Nat) : List (Nat × Nat) :=
  let d := (addr / 64) ^^^ (got / 64)
  (err.map fun e => (e.1.val, e.2.toNat)) ++ (List.range 5).map fun j => (68 + j, d / 256 ^ j % 256)

def decodeSector (e : List (Nat × Nat)) : SecClass := classify (syndrome e 0) (syndrome e 1) (syndrome e 2) (syndrome e 3)

/-- The error that stands at a symbol in all. -/
def errorAt (e : List (Nat × Nat)) (k : Nat) : Nat := (e.filter fun x => x.1 == k).foldl (fun acc x => acc ^^^ x.2) 0

/-- What is served is the sector's data: no error remains in a data symbol, and the address read was the address meant. -/
def servesTrue (e : List (Nat × Nat)) (c : SecClass) : Bool :=
  let fixed := match c with | .corrected k => e ++ [(k, syndrome e 0)] | _ => e
  (List.range 64).all (fun k => errorAt fixed k == 0) && (List.range 5).all fun j => errorAt e (68 + j) == 0

/-! ## Addresses and access (R332, R336, R338) -/

/-- The stack of a physical address (R332). -/
def stackOf (addr : Nat) : Stack := Fin.ofNat 32 (addr / 2 ^ 36)
/-- The page of a physical address within its stack (R333). -/
def pageOf (addr : Nat) : Fin 32768 := Fin.ofNat 32768 (addr / 2 ^ 21)
/-- The first byte of a sector of a stack. -/
def sectorAddr (h : Stack) (sector : Nat) : Nat := h.val * 2 ^ 36 + sector * 64
/-- The sector of a stack that holds an address. -/
def sectorOf (addr : Nat) : BitVec 30 := BitVec.ofNat 30 (addr / 64)

/-- The key generation of a sector (R342). -/
def Page.genOf (p : Page) (addr : Nat) : BitVec 32 :=
  if p.sweep && decide (addr / 64 % 32768 < p.mark.val) then p.keyGen + 1 else p.keyGen

/-- A page that holds an allocation. -/
def Page.allocated (p : Page) : Bool := p.kind != PKind.free && p.kind != PKind.withdrawn

/-- A gloved access is served (R338); the command processor reads plaintext from PROGRAM and OPERATOR pages only (R348), and no
engine writes to a shelf page (R36). -/
def Page.serves (p : Page) (a : Accessor) (write : Bool) : Bool :=
  p.allocated && p.glove == a.glove && p.cab == a.cab &&
    (a.source != .controlPlane || write || p.kind == PKind.program || p.kind == PKind.operator) &&
    (a.source != .engine || !write || p.kind != PKind.shelf)

/-- A controller's glove cache (R340): a glove that is there is used; one that is absent is installed, in place of the least
recently used one among those without a sweep in progress. None: the glove cannot be installed now. -/
def State.useGlove (s : State) (h : Stack) (g : BitVec 16) : Option State :=
  let (t, s) := s.tick
  let x := s.stk h
  if x.cache.any fun p => p.1 == g then
    some (s.modStk h fun x => { x with cache := x.cache.map fun p => if p.1 = g then (g, t) else p })
  else match s.glove? g.toNat with
    | none => none
    | some y =>
      if !y.standbyAcked || y.phase = 7 then none
      else if x.cache.length < 4096 then some (s.modStk h fun x => { x with cache := x.cache ++ [(g, t)] })
      else
        let busy := fun (i : BitVec 16) => s.pages.any fun p => p.stack == h && p.glove == i && p.sweep
        match minBy Prod.snd (x.cache.filter fun p => !busy p.1) with
        | some v => some (s.modStk h fun x => { x with cache := x.cache.filter (fun p => p.1 != v.1) ++ [(g, t)] })
        | none => none

/-! ## Records and counters (R352, R364) -/

/-- SOURCE (R352). -/
def sourceCode : MemSource → Nat
  | .engine => 0
  | .controlPlane => 1
  | .readModifyWrite => 2
  | .patrol => 3
  | .demand => 4
  | .supply => 5

/-- CLASS of an outcome (R352). -/
def SecClass.code : SecClass → Nat
  | .clean => 0
  | .corrected _ => 0
  | .uncorrectable => 1
  | .mismatch => 2

/-- Words 0 and 1 of the record (R352). -/
def memRecord (addr : Nat) (p : Page) (cls src sym : Nat) : Word × Word :=
  (word (put (addr / 2 ^ 36) 59 + put cls 56 + put src 52 + put p.kind.val 48 + put p.cab.val 44 + put sym 32),
   word (put (addr / 64) 29))

/-- The report of a read that found an error (R445). -/
def memReport (addr : Nat) (p : Page) (c : SecClass) (src : Nat) (touched : List Touch) : Report :=
  let sym := match c with | .corrected k => k | _ => 0xff
  let w := memRecord addr p c.code src sym
  { cls := match c with | .corrected _ => Cls.memCorrected | _ => Cls.memUncorrectable,
    severity := match c with | .corrected _ => 0 | _ => 1, block := 5, unit := Fin.ofNat 64 (stackOf addr).val,
    die := dieOf (stackOf addr), cab := if p.allocated then some p.cab else none, d2 := w.1, d3 := w.2, touched := touched }

/-- MEMORY_STATUS's counters (R364). -/
def State.countMem (s : State) (h : Stack) (c : SecClass) : State :=
  let up := fun n => satAdd (2 ^ 32 - 1) n 1
  s.modStk h fun x => match c with
    | .clean => x
    | .corrected _ => { x with corrected := up x.corrected }
    | .uncorrectable => { x with uncorrectable := up x.uncorrectable }
    | .mismatch => { x with mismatch := up x.mismatch }

/-! ## What an error withholds (R353) -/

/-- The owner named by an access, if any. -/
def accOwner (a : Accessor) : List Touch :=
  if a.source = .controlPlane || (a.touch.stream = 0 && a.touch.jobSeq = 0 && a.touch.request.isNone && a.touch.run.isNone) then []
  else [a.touch]

/-- A request's rows leave every seating of its group. -/
def State.dropRequestRows (s : State) (i : Nat) : State :=
  let s := s.leaveRows fun r => r.request == some i
  let one : DieSt → DieSt := fun x => { x with tokensOnWay := x.tokensOnWay.filter fun k => k != i }
  { s with dies := s.dies.map one }

/-- OBJECT of a page (R496). -/
def pageObject (h : Stack) (p : Fin 32768) : Nat := put (dieOf h).val 44 + put (h.val % 2) 43 + put p.val 28

/-- KV_REBUILD (R354, R449): the cache's pages are freed, new ones allocated, the sequence's tokens run again. -/
def State.rebuildKv (s : State) (i : Nat) (object : Nat) : State :=
  match s.request? i with
  | none => s
  | some q => match q.group with
    | none => s
    | some g =>
      let s := s.freePages fun x => x.kind == PKind.kv && x.ownerRef == BitVec.ofNat 32 i
      let n := s.kvPagesFor q.cab q.ask
      let glove := ((s.tenantGlove? q.tenant).map Glove.id).getD 0
      match s.allocAll? ((s.groupOfCab q.cab g).map fun d => (d, n)) PKind.kv glove q.cab (BitVec.ofNat 32 i) with
      | none => s.endRequest i Code.dataUncorrectable
      | some s =>
        ((s.dropRequestRows i).modRequest i fun q =>
          { q with placed := 0, ready := q.ask.promptRows + q.delivered, since := s.now, inPass := false, kvPages := n }).policyAct 4 object

/-- Another copy of a shelf page stands at the same span position (R449). -/
def State.otherCopy (s : State) (d : Die) : Bool := !(s.supplierList d).isEmpty

/-- SHELF_REWRITE (R449): the page takes its contents from the other copy, page for page in the order of the portion (R39). -/
def State.rewriteShelf (s : State) (d : Die) (p : Page) : State :=
  let portion := fun (x : Die) => s.turnPages x fun q => q.kind == PKind.shelf
  let k := (portion d).findIdx fun q => q.stack == p.stack && q.page == p.page
  match (s.supplierList d).head?.bind fun e => (portion e)[k]? with
  | some q => { s with mem := (s.mem.slice q.base 0x200000).foldl (fun m c => m.set (p.base + c.1) c.2) (s.mem.zero p.base 0x200000) }
  | none => s

/-- What follows an uncorrectable read of a page (R353), for one operation of die `d` that read it. -/
def State.withhold (s : State) (d : Die) (h : Stack) (p : Page) (t : Touch) : State :=
  let object := pageObject h p.page
  if p.kind = PKind.shelf then
    let mark : Pass → Pass := fun x => { x with withheld := true }
    let s := s.modDie d fun x => { x with pass := x.pass.map mark }
    if (s.policy 5).on && (s.stk h).inService && s.otherCopy d then (s.rewriteShelf d p).policyAct 5 object else s
  else if p.kind = PKind.drawer then
    let n := p.ownerRef.toNat
    (s.unseat d fun r => r.tag.toNat == n).refetch p.cab n (groupOf (s.cab p.cab).span d)
  else if p.kind = PKind.kv then
    let i := t.request.getD p.ownerRef.toNat
    let s := s.unseat d fun r => r.request == some i
    if (s.policy 4).on then s.rebuildKv i object else s.endRequest i Code.dataUncorrectable
  else if p.kind = PKind.saved || p.kind = PKind.run then
    s.loseStep (t.run.getD p.ownerRef)
  else (s.stopJob t.stream t.jobSeq Code.dataUncorrectable []).settleJob t.stream t.jobSeq

/-- The dies whose pass reads a shelf page when a controller serves it (R353, R361): the stack's own die, or for a supply to another die
those to which this page comes from here, missing page k from supplier k mod n. -/
def State.shelfReaders (s : State) (h : Stack) (p : Page) (src : MemSource) : List Die :=
  if src = .supply then
    let mine := sortBy (fun (x : Page) => x.page.val) (s.pages.filter fun x => x.stack == h && x.kind == PKind.shelf)
    let k := mine.findIdx fun x => x.page == p.page
    (List.finRange 16).filter fun d =>
      let from_ := s.suppliersOf d
      (s.stk (Fin.ofNat 32 (2 * d.val + h.val % 2))).failed && from_[k % from_.length]? == some (dieOf h)
  else [dieOf h]

/-- An error found by a read (R345, R350 to R353): counted, reported, results withheld, then STACK_RETIRE. Patrol withholds nothing; a
read-modify-write, a sweep or a demand scrub only from the operations whose bytes it holds. -/
def State.memError (s : State) (addr : Nat) (p : Page) (c : SecClass) (src : MemSource) (touched : List Touch) : State :=
  let h := stackOf addr
  let s := s.countMem h c
  let r := memReport addr p c (sourceCode src) touched
  match c with
  | .clean => s
  | .corrected _ => s.logReport r 0xff 0
  | _ =>
    let serving := (s.stk h).inService
    let streams := src = .engine || src = .supply
    let readers := if p.kind = PKind.shelf && streams then s.shelfReaders h p src else []
    let notices := if readers.isEmpty then touched
      else readers.flatMap fun d => (((s.die d).pass.map Pass.rows).getD []).map SeatRow.touch
    let s := s.logReport { r with touched := notices } 0xff 0
    let none_ : Touch := { stream := 0, jobSeq := 0, opIndex := 0, rowTag := 0xffff, request := none, run := none }
    let s :=
      if src = .patrol then s
      else if p.kind = PKind.shelf then readers.foldl (fun (s : State) d => s.withhold d h p none_) s
      else if touched.isEmpty && streams then s.withhold (dieOf h) h p none_
      else touched.foldl (fun (s : State) t => s.withhold (dieOf h) h p t) s
    if serving then s.policyStack r else s

/-! ## Finds and soft fuse records (R356 to R359) -/

/-- Row, bank, pseudo-channel of an address (R333). -/
def rowOf (addr : Nat) : Nat := addr / 2 ^ 22 % 16384
def bankOf (addr : Nat) : Nat := addr / 2 ^ 16 % 64
def pchOf (addr : Nat) : Nat := addr / 2 ^ 6 % 64

/-- The 16 bytes of a record (R359) as two words. -/
def FuseRec.words (f : FuseRec) : Word × Word :=
  (word (f.stack.val + put f.type 8 + put f.pch 16 + put f.bank 24 + put f.row 32 + put f.lane 48), word f.time)

/-- A find (R356, R358, R359): a record in both control dies' soft fuse maps, its page out of allocation. -/
def State.find (s : State) (f : FuseRec) (page : Option (Fin 32768)) : State :=
  let same := fun (x : FuseRec) => x.stack == f.stack && x.type == f.type && x.pch == f.pch && x.bank == f.bank && x.row == f.row &&
    x.lane == f.lane
  let known := (s.ct s.cp.active).fuses.any same
  let full := decide (4096 ≤ (s.ct s.cp.active).fuses.length)
  let add : CtDie → CtDie := fun c =>
    if c.fuses.any same || 4096 ≤ c.fuses.length then c else { c with fuses := c.fuses ++ [f] }
  let s := { s with cts := s.cts.map add }
  let s := match page with
    | some p => s.modStk f.stack fun x => if x.keptOut.contains p then x else { x with keptOut := x.keptOut ++ [p] }
    | none => s
  if known then s
  else
    (s.logReport { cls := if full then Cls.softFuseFull else Cls.fieldFind, severity := 0, block := 5,
                   unit := Fin.ofNat 64 f.stack.val, die := dieOf f.stack, cab := none, d2 := f.words.1, d3 := f.words.2,
                   touched := [] } 0xff 0).checkReserves

/-- A correction noted for lane finds (R358): sixteen distinct rows of a pseudo-channel with the same symbol within 1 s. -/
def State.noteCorrection (s : State) (addr sym : Nat) : State :=
  let h := stackOf addr
  let pch := pchOf addr
  let s := s.modStk h fun x =>
    { x with finds := (x.finds.filter fun e => decide (s.now < e.2.2.2 + 1000000000)) ++ [(pch, rowOf addr, sym, s.now)] }
  let rows := ((s.stk h).finds.filter fun e => e.1 == pch && e.2.2.1 == sym).map fun e => e.2.1
  if 16 ≤ rows.dedup.length then
    s.find { stack := h, type := 2, pch := pch, bank := 0, row := 0, lane := sym, time := s.now } none
  else s

/-- A corrected sector written back (R356); the second read is due. What the decoder took for the data stands from then on. -/
def State.scrub (s : State) (addr sym : Nat) (trueData : Bool) (n : Nat) : State :=
  let base := addr / 64 * 64
  let s := if trueData then s else { s with mem := s.mem.write base (leBytes 64 (Config.garbled n).toNat) }
  let sector := addr / 64 % 2 ^ 30
  (s.modStk (stackOf addr) fun x => { x with scrub := (x.scrub.filter fun q => q.1 != sector) ++ [(sector, sym)] }).noteCorrection addr sym

/-! ## Reading a sector -/

/-- A read's outcome: none where nothing may be served, else the sector's 64 bytes. -/
def State.decodeRead (s : State) (addr : Nat) (p : Page) (e : List (Nat × Nat)) (src : MemSource) (touched : List Touch) :
    Option (List Byte) × State :=
  let c := decodeSector e
  let ok := servesTrue e c
  let (n, s) := s.fresh
  let s := s.memError addr p c src touched
  match c with
  | .uncorrectable => (none, s)
  | .mismatch => (none, s)
  | .clean => (some (if ok then s.mem.read (addr / 64 * 64) 64 else leBytes 64 (Config.garbled n).toNat), s)
  | .corrected k =>
    let s := s.scrub addr k ok n
    (some (s.mem.read (addr / 64 * 64) 64), s)

/-! ## The merge buffer (R349, R350) -/

def State.merge? (s : State) (h : Stack) (sector : BitVec 30) : Option MergeEntry :=
  s.merges.find? fun m => m.stack == h && m.sector == sector
def State.dropMerge (s : State) (h : Stack) (sector : BitVec 30) : State :=
  { s with merges := s.merges.filter fun m => !(m.stack == h && m.sector == sector) }

/-- Bytes written at their places in a sector. -/
def putBytes (m : Mem) (base : Nat) (bs : List (Fin 64 × Byte)) : Mem := bs.foldl (fun m b => m.set (base + b.1.val) b.2) m

/-- A hardware read-modify-write (R347, R350): an error in its read writes nothing. -/
def State.modifySector (s : State) (addr : Nat) (bs : List (Fin 64 × Byte)) (err : List (Fin 73 × Byte)) (touched : List Touch) :
    Bool × State :=
  match s.decodeRead addr (s.page (stackOf addr) (pageOf addr)) (errorOf err addr addr) .readModifyWrite touched with
  | (none, s) => (false, s)
  | (some _, s) => (true, { s with mem := putBytes s.mem (addr / 64 * 64) bs })

/-- A merge entry flushed (R349): a full mask writes the sector, a partial one reads, modifies and writes. -/
def State.flush (s : State) (m : MergeEntry) (err : List (Fin 73 × Byte)) : State :=
  let s := s.dropMerge m.stack m.sector
  let addr := sectorAddr m.stack m.sector.toNat
  if 64 ≤ (m.bytes.map Prod.fst).dedup.length then { s with mem := putBytes s.mem addr m.bytes }
  else (s.modifySector addr m.bytes err m.touch).2

/-- The merge entry of a sector flushed, if there is one. -/
def State.flushSector (s : State) (h : Stack) (sector : BitVec 30) (err : List (Fin 73 × Byte)) : State :=
  match s.merge? h sector with
  | some m => s.flush m err
  | none => s

/-- A narrow write gathered (R349): into its sector's entry, else a new one, the oldest flushed when all 64 are in use. -/
def State.gather (s : State) (h : Stack) (sector : BitVec 30) (bs : List (Fin 64 × Byte)) (g : BitVec 16) (t : List Touch)
    (err : List (Fin 73 × Byte)) : State :=
  match s.merge? h sector with
  | some m =>
    let m' : MergeEntry := { m with bytes := bs.foldl (fun l b => assocPut b.1 b.2 l) m.bytes, touch := (m.touch ++ t).dedup }
    let s := { s with merges := s.merges.map fun x => if x.stack == h && x.sector == sector then m' else x }
    if 64 ≤ m'.bytes.length then s.flush m' err else s
  | none =>
    let mine := s.merges.filter fun m => m.stack == h
    let s := match mine with
      | old :: _ => if 64 ≤ mine.length then s.flush old err else s
      | [] => s
    { s with merges := s.merges ++ [{ stack := h, sector := sector, bytes := bs, glove := g, touch := t }] }

/-! ## The commands on sectors -/

/-- The operation that made a refused access ends (R338). -/
def State.endAccess (s : State) (t : Touch) : State :=
  match t.request, t.run with
  | some i, _ => s.endRequest i Code.pageAccessFault
  | none, some id => s.dropStep id Code.pageAccessFault
  | none, none => (s.stopJob t.stream t.jobSeq Code.pageAccessFault []).settleJob t.stream t.jobSeq

/-- A refused access (R338): nothing served or written, an isolation report, the operation ends. -/
def State.refuseAccess (s : State) (h : Stack) (cab : Option Cab) (touched : List Touch) : State :=
  let s := s.isolation 4 5 (Fin.ofNat 64 h.val) (dieOf h) cab touched
  let s := touched.foldl (fun (s : State) t => s.endAccess t) s
  { s with sector := { code := Code.pageAccessFault, data := [] } }

/-- The second read of a demand scrub (R356): the same symbol again in error is a row find. -/
def State.demandRead (s : State) (addr : Nat) (a : Accessor) (e : List (Nat × Nat)) : State :=
  let h := stackOf addr
  match (s.stk h).scrub.find? fun q => q.1 == addr / 64 % 2 ^ 30 with
  | none => s
  | some (sector, sym) =>
    let s := s.modStk h fun x => { x with scrub := x.scrub.filter fun q => q.1 != sector }
    let c := decodeSector e
    let s := s.memError addr (s.page h (pageOf addr)) c .demand (accOwner a)
    if c = .corrected sym then
      s.find { stack := h, type := 1, pch := pchOf addr, bank := bankOf addr, row := rowOf addr, lane := 0xff, time := s.now }
        (some (pageOf addr))
    else s

/-- The gloves under which a controller sends a page that it supplies (R362): the shelf gloves of the cabinets of the dies that receive it,
whose shelf measurements are equal to its own, installed into it. None: one cannot be installed now. -/
def State.supplyGloves (s : State) (h : Stack) (p : Page) (src : MemSource) : Option State :=
  if src = .supply && p.kind = PKind.shelf then
    let to_ := ((s.shelfReaders h p src).filterMap s.cabOfDie).dedup.filter fun c =>
      c != p.cab && (s.cab c).shelf.map ShelfImage.meas == (s.cab p.cab).shelf.map ShelfImage.meas
    to_.foldl (fun (acc : Option State) c => acc.bind fun s => s.useGlove h (shelfGlove c)) (some s)
  else some s

/-- SECTOR_READ (R338, R340, R343, R345, R349, R356, R362): `err` are the symbols in error, `got` the address that the stack read. -/
def execSectorRead (addr : BitVec 41) (a : Accessor) (err : List (Fin 73 × Byte)) (got : BitVec 41) (s : State) : Out :=
  .next (
    let n := addr.toNat
    let h := stackOf n
    let p := s.page h (pageOf n)
    let e := errorOf err n got.toNat
    if a.source = .demand then (if (s.stk h).inService then s.demandRead n a e else s)
    else if a.source = .patrol || a.source = .readModifyWrite then s
    else if !(s.stk h).inService then
      if (s.stk h).failed then
        { s.memError n p .uncorrectable a.source (accOwner a) with sector := { code := Code.dataUncorrectable, data := [] } }
      else s
    else if p.zeroing then s
    else if !p.serves a false then s.refuseAccess h (if p.allocated then some p.cab else none) (accOwner a)
    else match (s.useGlove h a.glove).bind fun s => s.supplyGloves h p a.source with
      | none => s
      | some s =>
        let s := s.flushSector h (sectorOf n) err
        match s.decodeRead n p e a.source (accOwner a) with
        | (none, s) => { s with sector := { code := Code.dataUncorrectable, data := [] } }
        | (some bs, s) => { s with sector := { code := 0, data := bs } })

/-- SECTOR_WRITE (R338, R347 to R350): a whole sector at once, a narrower write of the control plane by read-modify-write, of
an engine or stream unit into the merge buffer. -/
def execSectorWrite (addr : BitVec 41) (a : Accessor) (off : Fin 64) (bytes : List Byte) (err : List (Fin 73 × Byte))
    (s : State) : Out :=
  .next (
    let base := addr.toNat / 64 * 64
    let h := stackOf base
    let p := s.page h (pageOf base)
    let bs := bytes.zipIdx.map fun (b : Byte × Nat) => ((Fin.ofNat 64 (off.val + b.2) : Fin 64), b.1)
    if bytes.isEmpty || 64 < off.val + bytes.length || !(s.stk h).inService || p.zeroing then s
    else if !p.serves a true then s.refuseAccess h (if p.allocated then some p.cab else none) (accOwner a)
    else match s.useGlove h a.glove with
      | none => s
      | some s =>
        let done : SectorAnswer := { code := 0, data := [] }
        if bytes.length = 64 then
          let s := s.dropMerge h (sectorOf base)
          { s with mem := s.mem.write base bytes, sector := done }
        else if a.source = .controlPlane then
          let s := s.flushSector h (sectorOf base) []
          match s.modifySector base bs err (accOwner a) with
          | (false, s) => { s with sector := { code := Code.dataUncorrectable, data := [] } }
          | (true, s) => { s with sector := done }
        else { s.gather h (sectorOf base) bs a.glove (accOwner a) err with sector := done })

/-- MERGE_FLUSH (R349): 256 cycles after an entry's first write. -/
def execMergeFlush (st : Stack) (sector : BitVec 30) (err : List (Fin 73 × Byte)) (s : State) : Out :=
  .next (if (s.stk st).inService then s.flushSector st sector err else s)

/-- ALLOCATION_FILL (R339): the fill of a page with zeros ends. -/
def execAllocationFill (st : Stack) (page : Fin 32768) (s : State) : Out :=
  .next (
    let p := s.page st page
    if !p.zeroing then s
    else
      let s := s.setPage { p with zeroing := false }
      { s with mem := s.mem.zero (st.val * 2 ^ 36 + page.val * 2 ^ 21) (2 ^ 21),
               merges := s.merges.filter fun m => !(m.stack == st && m.sector.toNat / 32768 == page.val) })

/-- SWEEP_STEP (R342, R343, R388): the sector at SWEEP_MARK moves to the next generation; with the last one the page is done. -/
def execSweepStep (st : Stack) (page : Fin 32768) (err : List (Fin 73 × Byte)) (s : State) : Out :=
  .next (
    let p := s.page st page
    let due := match s.glove? p.glove.toNat with
      | some g => g.phase == 3 && g.prevHeld && p.keyGen + 1 == g.gen
      | none => false
    if !p.allocated || p.zeroing || !due || !(s.stk st).inService then s
    else
      let addr := st.val * 2 ^ 36 + page.val * 2 ^ 21 + p.mark.val * 64
      let s := s.flushSector st (sectorOf addr) []
      let s := (s.decodeRead addr p (errorOf err addr addr) .readModifyWrite []).2
      let p := s.page st page
      if p.mark.val < 32767 then s.setPage { p with sweep := true, mark := p.mark + 1 }
      else
        let s := s.setPage { p with sweep := false, mark := 0, keyGen := p.keyGen + 1 }
        (s.modGlove p.glove.toNat fun g => { g with prevPages := g.prevPages - 1 }).settleSweeps)

/-- The page after `p` in ascending order that patrol does not skip (R355); `fuel` pages are looked at. -/
def State.patrolFrom (s : State) (h : Stack) : Nat → Nat → Nat
  | 0, p => p
  | fuel + 1, p => if (s.page h (Fin.ofNat 32768 p)).kind = PKind.withdrawn && p < 32768 then s.patrolFrom h fuel (p + 1) else p

/-- The sector that patrol reads next, WITHDRAWN pages skipped; 2^30 at the end of a pass. -/
def State.patrolSector (s : State) (h : Stack) (n : Nat) : Nat :=
  let q := s.patrolFrom h 32768 (n / 32768)
  if q = n / 32768 then n else q * 32768

/-- PATROL_SCRUB (R355): the next sector in ascending order; a correctable one is written back, another is reported. -/
def execPatrolScrub (st : Stack) (sector : BitVec 30) (err : List (Fin 73 × Byte)) (s : State) : Out :=
  .next (
    let due := s.patrolSector st (s.stk st).patrolNext % 2 ^ 30
    if !(s.stk st).inService || sector.toNat != due then s
    else
      let addr := sectorAddr st sector.toNat
      let s := (s.decodeRead addr (s.page st (pageOf addr)) (errorOf err addr addr) .patrol []).2
      let next := s.patrolSector st (due + 1)
      s.modStk st fun x =>
        if 2 ^ 30 ≤ next then { x with patrolNext := 0, patrolTime := s.now } else { x with patrolNext := next })

/-- ON_DIE_READ (R334, R352): the counts that the stack's own code reports, each second. -/
def execOnDieRead (st : Stack) (count : BitVec 32) (s : State) : Out :=
  .next (
    if !(s.stk st).inService || count = 0 then s
    else
      let s := s.modStk st fun x => { x with onDie := satAdd (2 ^ 32 - 1) x.onDie count.toNat }
      let w := word (put st.val 59 + put 3 56 + put 0xff 32)
      s.logReport { cls := Cls.memOnDie, severity := 0, block := 5, unit := Fin.ofNat 64 st.val, die := dieOf st, cab := none,
                    d2 := w, d3 := word count.toNat, touched := [] } 0xff 0)

/-! ## The aperture (R348) -/

/-- Physical HBM address of an aperture address (R348): 2 TiB from 0x0100_0000_0000. DESIGN CHOICE: the map of R408 lets the
aperture end at 0x011F_FFFF_FFFF, which holds two of the 32 stacks; the span that R348 states is taken (assumption 17). -/
def apertureOf (addr : Nat) (n : Nat) : Option Nat :=
  if 0x0100_0000_0000 ≤ addr && decide (addr + n ≤ 0x0300_0000_0000) then some (addr - 0x0100_0000_0000) else none

/-- The tweak of a sector (R341): bits [34:0] hold physical address [40:6], bits [95:64] the key generation. -/
def tweakOf (gen : BitVec 32) (addr : Nat) : BitVec 128 := BitVec.ofNat 128 (put gen.toNat 64 + addr / 64 % 2 ^ 35)

/-- The stored ciphertext of a sector (R341). -/
def State.cipher (s : State) (p : Page) (addr : Nat) : List Byte :=
  let serial := ((s.glove? p.glove.toNat).map Glove.serial).getD 0
  let gen := p.genOf addr
  leBytes 64 (Config.xts serial gen.toNat (tweakOf gen addr) (BitVec.ofNat 512 (s.mem.num (addr / 64 * 64) 64))).toNat

/-- A core's access ended. -/
def State.onBus (s : State) (core : Ct) (fault : Bool) (data : List Byte) : State :=
  { s with bus := { core := core, fault := fault, data := data } }

/-- The sectors that an access touches. -/
def sectorsOf (addr n : Nat) : List Nat := (List.range (cdiv (addr % 64 + n) 64)).map fun i => (addr / 64 + i) * 64

/-- HBM_APERTURE_READ (R338, R348): plaintext of OPERATOR pages, stored ciphertext of other allocated pages; pages that are FREE
or WITHDRAWN are refused. -/
def execHbmApertureRead (core : Ct) (addr : BitVec 48) (size : Nat) (s : State) : Out :=
  .next (
    if !(s.ct core).reached8 then s
    else match apertureOf addr.toNat size with
      | none => s.onBus core true []
      | some a =>
        let secs := sectorsOf a size
        let pg := fun (s : State) (x : Nat) => s.page (stackOf x) (pageOf x)
        if secs.any fun x => !(s.stk (stackOf x)).inService then
          let s := (secs.filter fun x => !(s.stk (stackOf x)).inService && (s.stk (stackOf x)).failed).foldl
            (fun (s : State) x => s.memError x (pg s x) .uncorrectable .controlPlane []) s
          s.onBus core true []
        else match secs.find? fun x => !(pg s x).allocated with
          | some x =>
            ((s.isolation 4 5 (Fin.ofNat 64 (stackOf x).val) (dieOf (stackOf x)) none []).onBus core true [])
          | none =>
            if secs.any fun x => (pg s x).zeroing then s
            else
              let s := secs.foldl (fun (s : State) x => s.flushSector (stackOf x) (sectorOf x) []) s
              let all := secs.flatMap fun x => if (pg s x).kind = PKind.operator then s.mem.read x 64 else s.cipher (pg s x) x
              s.onBus core false ((all.drop (a % 64)).take size))

/-- A core's write through the aperture (R348): only to OPERATOR pages; any other write writes nothing and faults. -/
def State.apertureWrite (s : State) (core : Ct) (addr : Nat) (bytes : List Byte) : State :=
  match apertureOf addr bytes.length with
  | none => s.onBus core true []
  | some a =>
    let secs := sectorsOf a bytes.length
    let pg := fun (x : Nat) => s.page (stackOf x) (pageOf x)
    if secs.any fun x => (pg x).kind != PKind.operator || !(s.stk (stackOf x)).inService then s.onBus core true []
    else if secs.any fun x => (pg x).zeroing then s
    else
      let s := secs.foldl (fun (s : State) x => s.flushSector (stackOf x) (sectorOf x) []) s
      ({ s with mem := s.mem.write a bytes } : State).onBus core false []

/-- HBM_APERTURE_WRITE (R348). -/
def execHbmApertureWrite (core : Ct) (addr : BitVec 48) (bytes : List Byte) (s : State) : Out :=
  .next (if (s.ct core).reached8 then s.apertureWrite core addr.toNat bytes else s)

end Sys2Proof.Machine
end

