-- ==== Sys2Proof/Machine/Runs.lean ====
section
/-!
DEFINITION. The run commands (R263 to R268, R290 to R294), the reduction commands (R323, R327 to R330), and the start of a
remake (R255, R268).
-/

namespace Sys2Proof.Machine

/-! ## START_RUN -/

/-- An FP32 code is finite and not below zero. -/
def f32NonNeg (c : Nat) : Bool := match fFP32.dec c with | .fin n m _ => !n || m == 0 | _ => false
/-- An FP32 code lies in [0, 1). -/
def f32Below1 (c : Nat) : Bool := f32NonNeg c && (fFP32.dec c).lt (.fin false 1 0)
/-- An FP32 code is finite and above zero. -/
def f32Pos (c : Nat) : Bool := match fFP32.dec c with | .fin n m _ => !n && m != 0 | _ => false

/-- The ranges of R292 that words alone decide. -/
def runWordsOk (ws : List Word) : Bool :=
  let w := wordAt ws
  let fresh := w 0 == 0
  let adamw := bits (w 4) 35 34 == 0
  (!fresh || bits (w 1) 63 32 == 0) && w 2 != 0 &&
    (if fresh then within 1 64 (bits (w 4) 43 36) && (fBF16.dec (bits (w 4) 15 0)).isFin
     else bits (w 4) 43 36 == 0 && bits (w 4) 15 0 == 0) &&
    decide (bits (w 4) 35 34 ≤ 1) && bits (w 4) 31 16 != 0 && f32NonNeg (bits (w 6) 63 32) && f32NonNeg (bits (w 6) 31 0) &&
    f32Below1 (bits (w 7) 63 32) && (if adamw then f32Below1 (bits (w 7) 31 0) else bits (w 7) 31 0 == 0) &&
    (if adamw then f32Pos (bits (w 8) 63 32) else bits (w 8) 63 32 == 0) && within 1 64 (bits (w 8) 31 16)

/-- A bitmap names whole span groups of a cabinet, one or more (R265), with no retired die, which could form no step (DEDUCED, assumption
30). -/
def State.wholeGroups (s : State) (c : Cab) (m : BitVec 16) : Bool :=
  m != 0 && (diesOf m).all fun d =>
    hasDie (s.cab c).dies d.val && (s.die d).inService && (s.groupOfCab c (groupOf (s.cab c).span d)).all fun x => hasDie m x.val

/-- A handle that belongs to another tenant (R62, R292). -/
def State.othersHandle (s : State) (t : BitVec 32) (h : Word) : Bool :=
  h != 0 && (s.ownerOf h).any fun o => o != t

/-- The virtual channel that a run of two or more span groups claims: the lowest free one (R265). -/
def State.freeVc (s : State) : Option Nat := firstFree (fun n => (s.cp.vcs.getD n none).isSome) 8 0

/-- The runs that R263 counts: those in states other than STOPPED, DONE and FAILED. -/
def State.openRuns (s : State) : Nat :=
  (s.runs.filter fun x => !(x.state == RunSt.stopped || x.state == RunSt.done || x.state == RunSt.failed)).length

/-- START_RUN's refusals in the order of R292's table, then those of R265 and R294. -/
def State.runCode (s : State) (t : BitVec 32) (ws : List Word) : Option Nat :=
  let w := wordAt ws
  let c := cabOf (w 4)
  let m : BitVec 16 := BitVec.ofNat 16 (bits (w 4) 59 44)
  if s.othersHandle t (w 0) || s.othersHandle t (w 2) || s.othersHandle t (w 3) then some Code.notOwner
  else if (s.cab c).state != 3 then some Code.noShelf
  else if !s.wholeGroups c m then some Code.spanInvalid
  else if !(s.programs.any fun p => p.cab == c && p.image.programId.toNat == bits (w 5) 63 32) then some Code.descriptorInvalid
  else if !runWordsOk ws then some Code.valueOutOfRange
  else if 1024 ≤ s.openRuns then some Code.runLimit
  else if decide (1 < ((diesOf m).filter fun d => groupOf (s.cab c).span d == d).length) && s.freeVc.isNone then some Code.busy
  else none

/-- The defaults of R328. -/
def RedSettings.start : RedSettings := { deadline := 2000, tauExp := 20, wire := 0, headroom := 7, bucket := 1048576 }

/-- A run as START_RUN's words make it (R263, R266). -/
def runOf (id : BitVec 32) (t : BitVec 32) (stream : Fin 4096) (ws : List Word) (slot : Nat) (vc : Option (Fin 8))
    (meas : BitVec 512) (remakeOf : Option Nat) (reply : Option Reply) : Run :=
  let w := wordAt ws
  let hi := fun (i : Nat) => BitVec.ofNat 32 (bits (w i) 63 32)
  let lo := fun (i : Nat) => BitVec.ofNat 32 (bits (w i) 31 0)
  { id := id, tenant := t, stream := stream, cab := cabOf (w 4), state := RunSt.starting, source := w 0, sourceVersion := hi 1,
    outHandle := w 2, dataset := w 3, program := hi 5, seed := lo 1, opt := Fin.ofNat 4 (bits (w 4) 35 34),
    bounded := bitAt (w 4) 33, ordered := bitAt (w 4) 32, seqsPerStep := bits (w 4) 31 16, maxSteps := bits (w 5) 31 0,
    lr := hi 6, lrNext := none, wd := lo 6, beta1 := hi 7, beta2 := lo 7, eps := hi 8, saveGib := bits (w 8) 31 16,
    rank := bits (w 4) 43 36, alpha := BitVec.ofNat 16 (bits (w 4) 15 0), slot := slot,
    dies := BitVec.ofNat 16 (bits (w 4) 59 44), vc := vc, epoch := 0, cursor := 0, stepStart := 0, seqs := [],
    hasData := false, inStep := false, step := [], perDie := [], current := [], shadow := [], retries := 0, consecutive := 0,
    skipped := 0, lastTokens := 0, droppedTokens := 0, loss := 0, lastCode := 0, commitTime := 0,
    settings := RedSettings.start, settingsNext := none, thin := [], thinNext := [], noOffDie := false, unmounted := false,
    stopping := false, remakeOf := remakeOf, reply := reply, stopReply := none, words := ws, shelfMeas := meas,
    record := [] }

/-- A run's source: the fetches of a source drawer to each of its span groups, or the fresh drawer put in place (R267). -/
def State.sourceRun (s : State) (r : Run) (sh : ShelfImage) : State :=
  if r.source = 0 then
    let img := freshImage sh r.rank r.alpha.toNat r.seed.toNat r.tenant.toNat
    s.modSlot r.cab r.slot fun x => { x with image := some img, rank := r.rank }
  else
    let v := if r.sourceVersion = 0 then ((s.resolve r.cab r.source).map CatObj.version).getD 0 else r.sourceVersion
    (s.runGroups r).foldl (fun (s : State) g =>
      if (s.run? r.id).isSome then s.startFetch r.cab r.slot g r.source v (some r.id) false [] else s) s

/-- The dataset's fetch to the group's lowest span group (R269). -/
def State.fetchDataset (s : State) (r : Run) : State :=
  match s.run? r.id, s.runGroups r with
  | some _, g :: _ => s.startFetch r.cab r.slot g r.dataset 0 (some r.id) true []
  | _, _ => s

/-- A run created (R263 to R267, R289): slot, channel, space of a fresh drawer, source and dataset fetches; or the code that
refuses it. -/
def State.createRun (s : State) (t : BitVec 32) (stream : Fin 4096) (ws : List Word) (remakeOf : Option Nat)
    (reply : Option Reply) : Nat ⊕ State :=
  let c := cabOf (wordAt ws 4)
  match (s.cab c).shelf, s.takeSlot c with
  | some sh, some (n, s0) =>
    let id := s0.nextRun
    let big := decide (1 < ((diesOf (BitVec.ofNat 16 (bits (wordAt ws 4) 59 44))).filter fun d =>
      groupOf (s0.cab c).span d == d).length)
    let vc := if big then s0.freeVc.map fun v => Fin.ofNat 8 v else none
    let s1 := s0.bindSlot c n 0 0 t (some id)
    let s1 := match vc with
      | some v => s1.modCp fun k => { k with vcs := updAt v.val (fun _ => some id) k.vcs }
      | none => s1
    let r := runOf id t stream ws n vc sh.meas remakeOf reply
    let s1 := { s1 with nextRun := id + 1, runs := s1.runs ++ [r] }
    let room := if r.source = 0 then s1.allocRun? r (freshImage sh r.rank r.alpha.toNat r.seed.toNat r.tenant.toNat)
      else some s1
    match room with
    | none => .inl Code.runNoSpace
    | some s2 =>
      let s2 := match reply with | some q => s2.accept q 0 | none => s2
      .inr ((s2.sourceRun r sh).fetchDataset r)
  | none, _ => .inl Code.noShelf
  | some _, none => .inl Code.tableFull

def infoStartRun : CmdInfo :=
  ⟨0x0040, 72, 72, .tenant, false, false, true, [[], [], [], [], [], [], [], [], [(15, 0)]], some 4⟩

/-- START_RUN (R263, R292). -/
def execStartRun (src : Src) (req : Req) (s : State) : Out :=
  .next (s.ilnil infoStartRun src req fun r ws s =>
    let t := (s.tenantOf r).getD 0
    match s.runCode t ws with
    | some k => s.complete r k []
    | none => match s.createRun t r.stream ws none (some r) with
      | .inl k => s.complete r k []
      | .inr s' => s')

/-! ## Commands on a run -/

/-- The run that word 0 names, or the code that refuses the command (R291). -/
def State.namedRun (s : State) (r : Reply) (ws : List Word) (states : List (Fin 8)) : Nat ⊕ Run :=
  match s.run? (BitVec.ofNat 32 (bits (wordAt ws 0) 63 32)) with
  | none => .inl Code.runNotFound
  | some x =>
    if s.foreign r x.tenant then .inl Code.notOwner
    else if states.contains x.state then .inr x else .inl Code.runState

/-- The step in flight still precedes its commit point (R284). -/
def Run.uncommitted (r : Run) : Bool := r.inStep && (r.state != RunSt.committing || r.perDie.all RunDie.switched)

/-- A run enters STOPPED (R291). -/
def State.stopNow (s : State) (id : BitVec 32) : State :=
  ((s.modRun id fun x => { x with state := RunSt.stopped }).completeStop id)

def infoStopRun : CmdInfo := ⟨0x0041, 8, 8, .tenant, false, false, true, [[(31, 1)]], none⟩

/-- STOP_RUN (R291): the step in flight commits first, or with ABORT is discarded. -/
def execStopRun (src : Src) (req : Req) (s : State) : Out :=
  .next (s.ilnil infoStopRun src req fun r ws s =>
    match s.namedRun r ws [RunSt.running, RunSt.committing, RunSt.trapped] with
    | .inl k => s.complete r k []
    | .inr x =>
      let s := (s.accept r 0).modRun x.id fun y => { y with stopReply := some r, stopping := true }
      if !x.inStep then s.stopNow x.id
      else if bitAt (wordAt ws 0) 0 && x.uncommitted then
        (s.discardStep x.id Code.stepDiscarded RunSt.stopped).completeStop x.id
      else s.modRun x.id fun y => { y with state := if y.state = RunSt.running then RunSt.stopping else y.state })

def infoEndRun : CmdInfo := ⟨0x0042, 8, 8, .tenant, true, false, true, [[(31, 0)]], none⟩

/-- END_RUN (R291). -/
def execEndRun (src : Src) (req : Req) (s : State) : Out :=
  .next (s.ilnil infoEndRun src req fun r ws s =>
    match s.namedRun r ws [RunSt.stopped, RunSt.done, RunSt.failed] with
    | .inl k => s.complete r k []
    | .inr x => ((s.releaseRun x.id).promoteAll x.cab).complete r Code.ok [])

def infoPublishRun : CmdInfo := ⟨0x0043, 8, 8, .tenant, false, false, true, [[(31, 0)]], none⟩

/-- PUBLISH_RUN (R290). -/
def execPublishRun (src : Src) (req : Req) (s : State) : Out :=
  .next (s.ilnil infoPublishRun src req fun r ws s =>
    match s.namedRun r ws [RunSt.running, RunSt.stopped, RunSt.done, RunSt.failed] with
    | .inl k => s.complete r k []
    | .inr x =>
      if x.lastCode = Code.runStateLost then s.complete r Code.runStateLost []
      else if ((s.slot? x.cab x.slot).bind Slot.image).isNone then s.complete r Code.runState []
      else (s.accept r 0).publish x (some r))

def infoResumeRun : CmdInfo := ⟨0x0044, 8, 8, .tenant, true, false, true, [[(31, 1)]], none⟩

/-- RESUME_RUN (R291). A STOPPED run comes back only while fewer than 1024 are open, as R263 holds no more (DEDUCED, assumption 30). -/
def execResumeRun (src : Src) (req : Req) (s : State) : Out :=
  .next (s.ilnil infoResumeRun src req fun r ws s =>
    match s.namedRun r ws [RunSt.trapped, RunSt.stopped] with
    | .inl k => s.complete r k []
    | .inr x =>
      if x.unmounted then s.complete r Code.runState []
      else if x.state = RunSt.stopped ∧ 1024 ≤ s.openRuns then s.complete r Code.runLimit []
      else
        let (cur, sk) := if bitAt (wordAt ws 0) 0 then (s.takeSeqs x x.seqs.length x.cursor 0 []).2 else (x.cursor, 0)
        let s := s.modRun x.id fun y =>
          { y with state := RunSt.running, cursor := cur, skipped := satAdd (2 ^ 32 - 1) y.skipped sk, consecutive := 0 }
        (s.complete r Code.ok []).beginStep x.id)

/-- The RUN_STATUS record (R293); fields of the tenant read 0 on stream 0. -/
def runWordsOf (x : Run) (tenant : Bool) : List Word :=
  let t := fun (n : Nat) => if tenant then n else 0
  [ word (put x.id.toNat 32 + put x.state.val 28 + put x.opt.val 26 + put (b2n x.ordered) 25 + put (b2n x.noOffDie) 24 +
      put x.slot 8 + x.lastCode % 256),
    word (put x.epoch.toNat 32 + put (min x.retries 0xffff) 16 + x.dies.toNat), word (t x.cursor),
    word (put (t x.lastTokens) 32 + t x.droppedTokens), word (put (t x.loss.toNat) 32 + t x.skipped),
    word (match x.vc with | some v => put v.val 61 + put 1 60 | none => 0), word x.commitTime, 0 ]

def infoRunStatus : CmdInfo := ⟨0x0045, 8, 8, .zeroOrTenant, false, false, true, [[(31, 0)]], none⟩

/-- RUN_STATUS (R293). -/
def execRunStatus (src : Src) (req : Req) (s : State) : Out :=
  .next (s.ilnil infoRunStatus src req fun r ws s =>
    match s.namedRun r ws [0, 1, 2, 3, 4, 5, 6, 7] with
    | .inl k => s.complete r k []
    | .inr x => s.complete r Code.ok (runWordsOf x (s.tenantOf r).isSome))

def infoSetRunRate : CmdInfo := ⟨0x0046, 8, 8, .tenant, true, false, true, [], none⟩

/-- SET_RUN_RATE (R291, R292). -/
def execSetRunRate (src : Src) (req : Req) (s : State) : Out :=
  .next (s.ilnil infoSetRunRate src req fun r ws s =>
    match s.namedRun r ws [RunSt.running, RunSt.stopped] with
    | .inl k => s.complete r k []
    | .inr x =>
      let lr := bits (wordAt ws 0) 31 0
      if !f32NonNeg lr then s.complete r Code.valueOutOfRange []
      else (s.modRun x.id fun y => { y with lrNext := some (BitVec.ofNat 32 lr) }).complete r Code.ok [])

/-! ## CATALOG_STORED -/

/-- A version that was stored is bound (R256, R290): in every cabinet where an older one is bound, and in the run's cabinet. Where no slot is
free or can be freed the version stays unbound there, for which the rules give no outcome (DESIGN CHOICE, assumption 90). -/
def State.bindStored (s : State) (x : Store) : State :=
  (List.finRange 16).foldl (fun (s : State) c =>
    match s.slotOf c x.handle with
    | some old =>
      if old.version < x.version then
        match s.rebind c old x.version (some x.tenant) with
        | some (_, s) => s
        | none => s
      else s
    | none =>
      if c = x.cab then
        match s.takeSlot c with
        | some (n, s) => s.bindSlot c n x.handle x.version (some x.tenant) none
        | none => s
      else s) s

def infoCatalogStored : CmdInfo := ⟨0x0047, 8, 8, .zero, true, false, false, [[(55, 32)]], none⟩

/-- CATALOG_STORED (R290). -/
def execCatalogStored (src : Src) (req : Req) (s : State) : Out :=
  .next (s.ilnil infoCatalogStored src req fun r ws s =>
    let res := bits (wordAt ws 0) 63 56
    match s.stores.find? fun x => x.id.toNat == bits (wordAt ws 0) 31 0 with
    | none => s.complete r Code.valueOutOfRange []
    | some x =>
      if res != 0 && res != 2 then s.complete r Code.valueOutOfRange []
      else
        let s := ({ s with stores := s.stores.filter fun y => y.id != x.id } : State).complete r Code.ok []
        if res = 0 then
          let s := s.bindStored x
          match x.reply with
          | some q => s.complete q Code.ok []
          | none => s.releaseRun x.run
        else
          let s := s.modCt s.cp.active fun k =>
            { k with catalog := k.catalog.filter fun o => !(o.handle == x.handle && o.version == x.version) }
          match x.reply with
          | some q => s.complete q Code.storeFailed []
          | none => s.remakeFail x.run Code.storeFailed)

/-! ## Reductions -/

/-- The settings of R328 that words spell, or none where one is out of range. -/
def redSettingsOf (ws : List Word) : Option RedSettings :=
  let w := wordAt ws 1
  let dl := bits (wordAt ws 0) 31 0
  let h := bits w 54 52
  let b := bits w 51 28
  if within 100 1000000 dl && within 8 24 (bits w 63 58) && decide (bits w 57 55 ≤ 4) && (decide (h ≤ 4) || h == 7) &&
      within 4096 4194304 b && b % 4096 == 0 then
    some { deadline := dl, tauExp := bits w 63 58, wire := Fin.ofNat 8 (bits w 57 55), headroom := h, bucket := b }
  else none

def infoSetReduction : CmdInfo := ⟨0x0048, 16, 16, .tenant, true, false, true, [[], [(27, 0)]], none⟩

/-- SET_REDUCTION (R327, R328). -/
def execSetReduction (src : Src) (req : Req) (s : State) : Out :=
  .next (s.ilnil infoSetReduction src req fun r ws s =>
    match s.namedRun r ws [RunSt.running, RunSt.stopped] with
    | .inl k => s.complete r k []
    | .inr x => match redSettingsOf ws with
      | none => s.complete r Code.valueOutOfRange []
      | some t => (s.modRun x.id fun y => { y with settingsNext := some t }).complete r Code.ok [])

/-- A power of two. -/
def isPow2 (n : Nat) : Bool := n != 0 && 2 ^ Nat.log2 n == n

/-- SET_THINNING's range refusals (R323, R329). -/
def State.thinOk (s : State) (x : Run) (first last q : Nat) : Bool :=
  let layers := (((s.cab x.cab).shelf.map fun k => k.layers.length).getD 0)
  let ps := (((s.slot? x.cab x.slot).bind Slot.image).map projsOf).getD []
  decide (q ≤ 4) && decide (first ≤ last) && decide (last < layers) &&
    ps.all fun p => !(decide (first ≤ p.1) && decide (p.1 ≤ last)) || (isPow2 p.2.2.1 && isPow2 p.2.2.2)

/-- The pages that a thinning setting adds on each die (R326). -/
def State.morePages (s : State) (x y : Run) : List (Die × Nat) :=
  match (s.slot? x.cab x.slot).bind Slot.image with
  | none => []
  | some img => (diesOf x.dies).map fun d =>
    let p := posOf (s.spanOf x) d
    (d, s.thinPages y img p - s.thinPages x img p)

def infoSetThinning : CmdInfo := ⟨0x0049, 16, 16, .tenant, true, false, true, [[(31, 0)], [(27, 0)]], none⟩

/-- SET_THINNING (R323, R326, R329). -/
def execSetThinning (src : Src) (req : Req) (s : State) : Out :=
  .next (s.ilnil infoSetThinning src req fun r ws s =>
    match s.namedRun r ws [RunSt.running, RunSt.stopped] with
    | .inl k => s.complete r k []
    | .inr x =>
      let w := wordAt ws 1
      let q := bits w 31 28
      if !s.thinOk x (bits w 63 48) (bits w 47 32) q then s.complete r Code.valueOutOfRange []
      else
        let y := { x with thinNext := x.thinNext ++ [(bits w 63 48, bits w 47 32, if q = 0 then 0 else 1 <<< (q - 1))] }
        let g := ((s.tenantGlove? x.tenant).map Glove.id).getD 0
        match s.allocAll? (s.morePages x y) PKind.run g x.cab x.id with
        | none => s.complete r Code.runNoSpace []
        | some s => (s.modRun x.id fun _ => y).complete r Code.ok [])

/-- The REDUCTION_STATUS record (R330); words 2 to 7 read 0 on stream 0. -/
def redWords (x : Reduction) (tenant : Bool) : List Word :=
  let a := x.acc
  let t := fun (n : Nat) => word (if tenant then n else 0)
  let f := fun (g : Item → Nat) => (a.map g).getD 0
  [ word (put x.id.toNat 40 + put x.state.val 36 + put (x.cause % 256) 28 + put x.owner.val 24 +
      put (x.chain.headD 0).val 20 + put (b2n x.ordered) 19 + put x.wire.val 16 + (mapOf x.chain).toNat),
    word (put (f fun i => i.held.toNat) 48 + put (f fun i => i.dropped.toNat) 32 + put x.late.toNat 16),
    t (put x.tokens 32 + x.droppedTokens), t x.r.toNat, t (f fun i => i.cs.toNat), t (f fun i => i.absSum.toNat),
    t (f fun i => i.errAbs.toNat), t (put (f Item.lifts) 32 + f Item.satBlocks), word x.openTime,
    word (if x.state = 0 then 0 else x.closeTime) ]

def infoReductionStatus : CmdInfo := ⟨0x004a, 8, 8, .zeroOrTenant, false, false, true, [[(7, 0)]], none⟩

/-- REDUCTION_STATUS (R330). -/
def execReductionStatus (src : Src) (req : Req) (s : State) : Out :=
  .next (s.ilnil infoReductionStatus src req fun r ws s =>
    match s.namedRun r ws [0, 1, 2, 3, 4, 5, 6, 7] with
    | .inl k => s.complete r k []
    | .inr x =>
      match s.reductions.find? fun y => y.run == x.id && y.id.toNat == bits (wordAt ws 0) 31 8 with
      | none => s.complete r Code.reductionNotFound []
      | some y => s.complete r Code.ok (redWords y (s.tenantOf r).isSome))

/-! ## Remakes -/

/-- The words of R292's defaults: SOURCE, versions, handles, cabinet, dies and program are put in by the remake. -/
def defaultRun : List Word :=
  [0, 0, 0, 0, word (put 1 32 + put 64 16), 0, word (put 0x38800000 32), word (put 0x3f666666 32 + 0x3f7fbe77),
   word (put 0x32000000 32 + put 8 16)]

/-- A remake's START_RUN words (R268, R292): the recorded ones, or the defaults. -/
def State.remakeWords (s : State) (c : Cab) (x : Slot) (k : RemakeConsent) : List Word :=
  let o := s.catalog.find? fun o => o.handle == x.handle && o.version == x.version
  let old := (o.map CatObj.runWords).getD []
  let ws := if old.length = 9 then old else defaultRun
  let w4 := wordAt ws 4
  let m : BitVec 16 := BitVec.ofNat 16 (bits w4 59 44)
  let dies := if s.wholeGroups c m then m else x.lastDies
  let has := s.programs.any fun p => p.cab == c && p.image.programId.toNat == bits (wordAt ws 5) 63 32
  let prog := if has then bits (wordAt ws 5) 63 32
    else ((minBy id ((s.programs.filter fun p => p.cab == c).map fun p => p.image.programId.toNat)).getD 0)
  [x.handle, word (put x.version.toNat 32 + bits (wordAt ws 1) 31 0), x.handle, k.dataset,
   word (put c.val 60 + put dies.toNat 44 + put (bits w4 35 32) 32 + put (bits w4 31 16) 16),
   word (put prog 32 + k.maxSteps), wordAt ws 6, wordAt ws 7, wordAt ws 8]

/-- REMAKE_START (R255, R268): the first slot of the cabinet's remake queue; a slot that is no longer STALE or has no consent
leaves the queue. -/
def execRemakeStart (cab : Cab) (s : State) : Out :=
  .next (
    if (s.cab cab).state != 3 then s
    else match s.remakeQ.find? fun p => p.1 == cab with
      | none => s
      | some p =>
        let s := { s with remakeQ := s.remakeQ.eraseP fun q => q == p }
        match s.slot? cab p.2 with
        | none => s
        | some x =>
          match s.consentFor x.tenant cab with
          | none => s
          | some k =>
            if x.state != SState.stale then s
            else
              let ws := s.remakeWords cab x k
              let out : Nat ⊕ State := match s.runCode x.tenant ws with
                | some c => .inl c
                | none => s.createRun x.tenant 0 ws (some p.2) none
              match out with
              | .inl c => s.tell cab p.2 c
              | .inr s' => s'.modSlot cab p.2 fun y => if y.state = SState.stale then { y with state := SState.remaking } else y)

end Sys2Proof.Machine
end

