-- ==== Sys2Proof/Machine/Mailbox.lean ====
section
/-!
DEFINITION. Mailboxes and the physical map of the cores (R408 to R420), the journal and heartbeats between the command
processors, the take-over (R430 to R433), SET_EVENT_TRAY, TAKE_OVER and requests with an undefined opcode (R426, R442).
-/

namespace Sys2Proof.Machine

/-! ## Pigeonholes (R413, R414) -/

/-- A control die whose registers a core can reach: powered and out of reset (R472, R492). -/
def State.ctLives (s : State) (c : Ct) : Bool := s.power.pwrOk && !s.power.resetLow && !(s.ct c).poweredDown

def State.modPigeon (s : State) (c : Ct) (n : Fin 32) (f : Pigeon → Pigeon) : State :=
  s.modCt c fun x => { x with pigeons := updAt n.val f x.pigeons }
def State.modTray (s : State) (c : Ct) (n : Fin 56) (f : Tray → Tray) : State :=
  s.modCt c fun x => { x with trays := updAt n.val f x.trays }

/-- One write to CTRL, in the order of R414: OVERRUN, IRQ_EN, DONE, WITHDRAW, GO. -/
def Pigeon.ctrl (p : Pigeon) (v : Nat) : Pigeon :=
  let p := if v.testBit 2 then { p with overrun := false } else p
  let p := { p with irqEn := v.testBit 3 }
  let p := if v.testBit 1 && p.done then { p with done := false, status := if p.status = 3 then 0 else p.status } else p
  let p := if v.testBit 4 && p.status = 1 then { p with go := false, status := 0 } else p
  if v.testBit 0 then (if p.status = 0 then { p with status := 1, go := true } else { p with overrun := true }) else p

/-- A write to DATA`k` (R413): ignored with OVERRUN while STATUS is not IDLE. -/
def Pigeon.setData (p : Pigeon) (k : Nat) (v : Half) : Pigeon :=
  if p.status = 0 then { p with data := updAt k (fun _ => v) p.data } else { p with overrun := true }

/-- A CTRL write by a core, with bits forced to 1. -/
def State.pigeonCtrl (s : State) (c : Ct) (n : Fin 32) (v : Nat) : State :=
  if s.ctLives c then s.modPigeon c n fun p => p.ctrl v else s

/-- PIGEONHOLE_GO (R414): a CTRL write with GO set. -/
def execPigeonholeGo (ct : Ct) (n : Fin 32) (v : Half) (s : State) : Out := .next (s.pigeonCtrl ct n (v.toNat ||| 1))

/-- PIGEONHOLE_DONE (R414): a CTRL write with DONE set. -/
def execPigeonholeDone (ct : Ct) (n : Fin 32) (v : Half) (s : State) : Out := .next (s.pigeonCtrl ct n (v.toNat ||| 2))

/-- WITHDRAW (R413): a CTRL write with WITHDRAW set. -/
def execWithdraw (ct : Ct) (n : Fin 32) (v : Half) (s : State) : Out := .next (s.pigeonCtrl ct n (v.toNat ||| 16))

/-- PIGEONHOLE_OVERRUN_CLEAR (R414): a CTRL write with OVERRUN set. -/
def execPigeonholeOverrunClear (ct : Ct) (n : Fin 32) (v : Half) (s : State) : Out :=
  .next (s.pigeonCtrl ct n (v.toNat ||| 4))

/-- PIGEONHOLE_IRQ_EN (R412, R414): a CTRL write; IRQ_EN takes the value written. -/
def execPigeonholeIrqEn (ct : Ct) (n : Fin 32) (v : Half) (s : State) : Out := .next (s.pigeonCtrl ct n v.toNat)

/-- CTRL as it reads (R413). -/
def State.pigeonCtrlWord (s : State) (c : Ct) (n : Fin 32) : Half :=
  let p := (s.ct c).pigeons.getD n.val Pigeon.reset
  BitVec.ofNat 32 (put (s.side c) 28 + put p.status.val 8 + put (b2n p.irqEn) 3 + put (b2n p.overrun) 2 + put (b2n p.done) 1 +
    b2n p.go)

/-- CTRL of a tray as it reads (R416). -/
def State.trayCtrlWord (s : State) (c : Ct) (n : Fin 56) : Word :=
  let t := (s.ct c).trays.getD n.val Tray.reset
  word (put (s.side c) 28 + put (b2n t.irqEn) 3 + put (b2n t.overrun) 2 + put (b2n (t.inTail != t.inHead)) 1)

/-- A register of a pigeonhole as a core reads it (R10, R413), by its offset: DATA and CTRL; WITHDRAW, a WO field, and every reserved
address read zero. -/
def State.pigeonRead (s : State) (c : Ct) (n : Fin 32) (off : Nat) : Half :=
  if off < 0x40 then ((s.ct c).pigeons.getD n.val Pigeon.reset).data.getD (off / 4) 0
  else if off = 0x40 then s.pigeonCtrlWord c n
  else 0

/-- A register of a tray as a core reads it (R10, R416), by its offset: ring words, indexes and CTRL; DOORBELL, a WO register, and every
reserved address read zero. -/
def State.trayRead (s : State) (c : Ct) (n : Fin 56) (off : Nat) : Word :=
  let t := (s.ct c).trays.getD n.val Tray.reset
  if off < 0x200 then t.out.getD (off / 8) 0
  else if off < 0x400 then t.inn.getD ((off - 0x200) / 8) 0
  else if off = 0x400 then word t.outHead.val
  else if off = 0x408 then word t.outTail.val
  else if off = 0x410 then word t.inHead.val
  else if off = 0x418 then word t.inTail.val
  else if off = 0x428 then s.trayCtrlWord c n
  else 0

/-- A read of a mailbox window (R10, R410, R413, R416), `off` from the window's base: none for an access fault, else the value. A
64-bit read of a pigeonhole is two 32-bit reads, the lower address first. -/
def State.windowRead (s : State) (c : Ct) (off size : Nat) : Option Nat :=
  if off < 0x2000 then
    let one := fun (r : Nat) => (s.pigeonRead c (Fin.ofNat 32 (off / 0x100)) r).toNat
    let r := off % 0x100
    if size = 4 && off % 4 = 0 then some (one r)
    else if size = 8 && off % 8 = 0 then some (one r + put (one (r + 4)) 32)
    else none
  else if 0x10000 ≤ off && off < 0x48000 then
    if size != 8 || off % 8 != 0 then none
    else some (s.trayRead c (Fin.ofNat 56 ((off - 0x10000) / 0x1000)) (off % 0x1000)).toNat
  else some 0

/-- The interrupt source of a pigeonhole or tray is asserted (R412). -/
def State.pigeonIrq (s : State) (c : Ct) (n : Fin 32) : Bool :=
  let p := (s.ct c).pigeons.getD n.val Pigeon.reset
  p.irqEn && p.status = 3
def State.trayIrq (s : State) (c : Ct) (n : Fin 56) : Bool :=
  let t := (s.ct c).trays.getD n.val Tray.reset
  t.irqEn && t.inTail != t.inHead

/-! ## Trays (R416 to R418) -/

/-- Whole messages taken from the OUT ring (R417, R418): one whose LENGTH is bad is taken as its header alone, and every word
up to OUT_TAIL is discarded with it. -/
def Tray.take : Nat → Tray → Tray
  | 0, t => t
  | fuel + 1, t =>
    let n := (t.outTail.val + 128 - t.outHead.val) % 128
    if n < 2 then t
    else
      let hd := ringRead t.out t.outHead.val 2
      let len := bits (wordAt hd 0) 15 0
      if len % 8 != 0 || 496 < len then { t with inbox := t.inbox ++ [hd], outHead := t.outTail }
      else
        let k := 2 + len / 8
        if n < k then t
        else Tray.take fuel { t with inbox := t.inbox ++ [ringRead t.out t.outHead.val k],
                                     outHead := Fin.ofNat 128 (t.outHead.val + k) }

/-- DOORBELL (R417, R419): a side that takes no message hears it once it does. -/
def State.ring (s : State) (c : Ct) (n : Fin 56) : State :=
  if !s.ctLives c then s
  else if s.listens c then s.modTray c n (Tray.take 64)
  else s.modTray c n fun t => { t with rung := true }

/-- The doorbells that waited for a side (R419). -/
def State.hear (s : State) (c : Ct) : State :=
  s.modCt c fun x => { x with trays := x.trays.map fun t => if t.rung then Tray.take 64 { t with rung := false } else t }

/-- A write to OUT_TAIL (R417). -/
def Tray.setOutTail (t : Tray) (v : Nat) : Tray :=
  let i : Fin 128 := Fin.ofNat 128 v
  if 64 < (i.val + 128 - t.outHead.val) % 128 then { t with overrun := true } else { t with outTail := i }

/-- A write to IN_HEAD (R417). -/
def Tray.setInHead (t : Tray) (v : Nat) : Tray :=
  let i : Fin 128 := Fin.ofNat 128 v
  if (t.inTail.val + 128 - t.inHead.val) % 128 < (i.val + 128 - t.inHead.val) % 128 then { t with overrun := true }
  else { t with inHead := i }

/-- A write to a tray's CTRL (R416). -/
def Tray.ctrl (t : Tray) (v : Nat) : Tray :=
  { t with overrun := t.overrun && !v.testBit 2, irqEn := v.testBit 3 }

/-- A tray register written by a core. -/
def State.trayWrite (s : State) (c : Ct) (n : Fin 56) (f : Tray → Tray) : State := if s.ctLives c then s.modTray c n f else s

/-- DOORBELL (R417). -/
def execDoorbell (ct : Ct) (n : Fin 56) (_v : Word) (s : State) : Out := .next (s.ring ct n)

/-- OUT_TAIL_WRITE (R417). -/
def execOutTailWrite (ct : Ct) (n : Fin 56) (v : Word) (s : State) : Out :=
  .next (s.trayWrite ct n fun t => t.setOutTail v.toNat)

/-- IN_HEAD_WRITE (R417). -/
def execInHeadWrite (ct : Ct) (n : Fin 56) (v : Word) (s : State) : Out :=
  .next (s.trayWrite ct n fun t => t.setInHead v.toNat)

/-- TRAY_OVERRUN_CLEAR (R416): a CTRL write with OVERRUN set. -/
def execTrayOverrunClear (ct : Ct) (n : Fin 56) (v : Word) (s : State) : Out :=
  .next (s.trayWrite ct n fun t => t.ctrl (v.toNat ||| 4))

/-- TRAY_IRQ_EN (R412, R416): a CTRL write. -/
def execTrayIrqEn (ct : Ct) (n : Fin 56) (v : Word) (s : State) : Out := .next (s.trayWrite ct n fun t => t.ctrl v.toNat)

/-! ## The physical map (R408, R410) -/

/-- A write into a mailbox window (R410, R413, R416), `off` from the window's base: whether it faults, and the state. -/
def State.windowWrite (s : State) (c : Ct) (off size : Nat) (v : Nat) : Bool × State :=
  if off < 0x2000 then
    let n : Fin 32 := Fin.ofNat 32 (off / 0x100)
    let one := fun (s : State) (r v : Nat) =>
      if r < 0x40 then s.modPigeon c n fun p => p.setData (r / 4) (BitVec.ofNat 32 v)
      else if r = 0x40 then s.modPigeon c n fun p => p.ctrl v
      else s
    let r := off % 0x100
    if size = 4 && off % 4 = 0 then (false, one s r (v % 2 ^ 32))
    else if size = 8 && off % 8 = 0 then (false, one (one s r (v % 2 ^ 32)) (r + 4) (v / 2 ^ 32))
    else (true, s)
  else if 0x10000 ≤ off && off < 0x48000 then
    let n : Fin 56 := Fin.ofNat 56 ((off - 0x10000) / 0x1000)
    let r := off % 0x1000
    if size != 8 || off % 8 != 0 then (true, s)
    else
      (false,
        if r < 0x200 then s.modTray c n fun t => { t with out := updAt (r / 8) (fun _ => word v) t.out }
        else if r = 0x408 then s.modTray c n fun t => t.setOutTail v
        else if r = 0x410 then s.modTray c n fun t => t.setInHead v
        else if r = 0x420 then s.ring c n
        else if r = 0x428 then s.modTray c n fun t => t.ctrl v
        else s)
  else (false, s)

/-- REGISTER_WRITE (R10, R408): a write of 1, 2, 4 or 8 bytes by a core anywhere in its physical map. -/
def execRegisterWrite (core : Ct) (addr : BitVec 48) (size : Nat) (v : Word) (s : State) : Out :=
  .next (
    let a := addr.toNat
    let bs := leBytes size v.toNat
    let fault := s.onBus core true []
    let okay := fun (s : State) => s.onBus core false []
    let memory := fun (c : Ct) (off : Nat) => okay (s.modCt c fun x => { x with mem := x.mem.write off bs })
    let window := fun (c : Ct) (off : Nat) =>
      if !s.ctLives c then fault
      else match s.windowWrite c off size v.toNat with
        | (true, _) => fault
        | (false, s) => okay s
    if !(s.ct core).reached8 || !s.ctLives core then s
    else if size != 1 && size != 2 && size != 4 && size != 8 then fault
    else if a + size ≤ 0x20_0000_0000 then memory core a
    else if 0x40_0000_0000 ≤ a && a + size ≤ 0x60_0000_0000 then
      (if s.ctLives (otherCt core) then memory (otherCt core) (a - 0x40_0000_0000) else fault)
    else if 0x80_0000_0000 ≤ a && a + size ≤ 0x90_0000_0000 then okay s
    else if 0xf0_0000_0000 ≤ a && a + size ≤ 0xf0_0010_0000 then window core (a - 0xf0_0000_0000)
    else if 0xf0_0010_0000 ≤ a && a + size ≤ 0xf0_0020_0000 then window (otherCt core) (a - 0xf0_0010_0000)
    else s.apertureWrite core a bs)

/-! ## Held responses (R420) -/

/-- Held messages of a tray, in order, while they fit. -/
def Tray.release : Nat → Tray → Tray
  | 0, t => t
  | fuel + 1, t => match t.held with
    | [] => t
    | m :: rest => if m.length ≤ t.room then Tray.release fuel ({ t with held := rest }.push m) else t

/-- HELD_RESPONSE_WRITE (R420): what a channel holds is written once room appears. -/
def execHeldResponseWrite (src : Src) (s : State) : Out :=
  .next (match src with
    | .pigeon c n => s.modPigeon c n fun p => match p.held with
        | m :: rest => if p.done || p.status != 0 then p else { p with held := rest }.fill m
        | [] => p
    | .tray c n => s.modTray c n (Tray.release 64)
    | .session n => s.sendWaiting n.val 64)

/-! ## The journal (R430) -/

/-- JOURNAL_ENTRY (R430): the standby applies the oldest entry and acknowledges it. -/
def execJournalEntry (s : State) : Out :=
  .next (match s.cp.jSent with
    | o :: rest =>
      if s.hasStandby then s.modCp fun c => { c with jSent := rest, jAcked := c.jAcked ++ [o] } else s
    | [] => s)

/-- JOURNAL_ACK (R430): the active command processor acts on the entry. -/
def execJournalAck (s : State) : Out :=
  .next (match s.cp.jAcked with
    | o :: rest =>
      if s.hasStandby then
        ((s.modCp fun c => { c with jAcked := rest }).deliver { o with dest := srcOn s.cp.active o.dest }).settleDraining
      else s
    | [] => s)

/-! ## Heartbeats and the take-over (R431 to R433) -/

/-- HEARTBEAT (R431). -/
def execHeartbeat (ct : Ct) (s : State) : Out :=
  .next (if s.side ct ≤ 1 then s.modCp fun c => { c with lastBeat := updAt ct.val (fun _ => s.now) c.lastBeat } else s)

/-- Every output in the journal written to the channels of a control die, in order. -/
def State.flushJournal (s : State) (c : Ct) : State :=
  let all := s.cp.jAcked ++ s.cp.jSent
  all.foldl (fun (s : State) o => s.deliver { o with dest := srcOn c o.dest }) (s.modCp fun k => { k with jSent := [], jAcked := [] })

/-- Changes of the glove table no longer wait for a standby (R378). -/
def State.tableAlone (s : State) : State :=
  let mk : Glove → Glove := fun g => { g with standbyAcked := true }
  let s := s.modRot fun r => { r with gloves := r.gloves.map mk }
  (s.rot.gloves.filter fun g => g.phase == 1).foldl (fun (s : State) g => s.installGlove g.id) s

/-- The standby begins to take over (R431): its channels read STARTING. -/
def State.beginTakeOver (s : State) (c : Ct) (r : Option Reply) : State :=
  (s.modCt c fun x => { x with side := 2 }).modCp fun k => { k with takingOver := some c, takeOverReply := r }

/-- HEARTBEAT_LOST (R431, R445, R449): the silent die reads DEAD, the loss is reported, and the FAILOVER policy may act. -/
def execHeartbeatLost (silent : Ct) (s : State) : Out :=
  .next (
    let other := otherCt silent
    if 3 < s.side silent || (!(s.ct silent).reached8 && s.side silent != 3) || 1 < s.side other then s
    else
      let s := s.modCt silent fun x => { x with side := 5 }
      let s := if s.cp.takingOver = some silent then s.modCp fun k => { k with takingOver := none, takeOverReply := none } else s
      let s := s.logReport { cls := Cls.heartbeatLost, severity := 2, block := 10, unit := Fin.ofNat 64 silent.val, die := 0,
                             cab := none, d2 := word (put silent.val 56), d3 := 0, touched := [] } 0xff 0
      let s := s.checkReserves
      if silent = s.cp.active then
        if (s.policy 9).on then (s.policyAct 9 (put other.val 44 + put silent.val 40)).beginTakeOver other none else s
      else (s.flushJournal s.cp.active).settleDraining.tableAlone)

/-- The step of a run that had not reached its commit point (R284) is discarded by the command processor that takes over. -/
def State.dropUncommitted (s : State) : State :=
  (s.runs.filter fun r => r.state == RunSt.committing).foldl (fun (s : State) r => s.dropStep r.id Code.stepDiscarded) s

/-! ## SET_EVENT_TRAY, TAKE_OVER, undefined opcodes -/

def infoSetEventTray : CmdInfo := ⟨0x0003, 8, 8, .zero, true, false, false, [[(57, 0)]], none⟩

/-- SET_EVENT_TRAY (R427, R442). -/
def execSetEventTray (src : Src) (req : Req) (s : State) : Out :=
  .next (s.ilnil infoSetEventTray src req fun r ws s =>
    let n := bits (wordAt ws 0) 63 58
    if 47 < n then s.complete r Code.valueOutOfRange []
    else (s.modCp fun c => { c with eventTray := Fin.ofNat 56 n }).complete r Code.ok [])

def infoTakeOver : CmdInfo := ⟨0x0004, 8, 8, .zero, true, false, false, [[(63, 0)]], none⟩

/-- TAKE_OVER (R431): the standby begins to take over; the former active command processor completes its journal entries and
takes no further request. On the active one it ends with NOT_STANDBY. -/
def execTakeOver (src : Src) (req : Req) (s : State) : Out :=
  .next (s.ilnil infoTakeOver src req fun r _ s =>
    let c := s.ctOf r.src
    if s.side c = 1 then
      let s := if s.cpRuns then s.flushJournal s.cp.active else s
      s.beginTakeOver c (some r)
    else s.complete r Code.notStandby [])

/-- The opcodes that the command tables of the manual define. -/
def definedOpcodes : List Nat :=
  [0x01, 0x02, 0x03, 0x04] ++ (List.range 5).map (0x10 + ·) ++ (List.range 4).map (0x20 + ·) ++ (List.range 8).map (0x30 + ·) ++
    (List.range 11).map (0x40 + ·) ++ [0x50] ++ (List.range 12).map (0x60 + ·) ++ [0x70, 0x71, 0x72] ++
    (List.range 5).map (0x80 + ·) ++ [0x90, 0x91, 0x92]

/-- UNDEFINED_OPCODE (R411, R426): no command table defines the opcode. -/
def execUndefinedOpcode (src : Src) (req : Req) (opcode : BitVec 16) (s : State) : Out :=
  .next (
    let r : Reply := { src := src, mseq := req.mseq, stream := req.stream, opcode := opcode }
    let info : CmdInfo := ⟨opcode.toNat, 0, 496, .zeroOrOwn, true, false, false, [], none⟩
    if definedOpcodes.contains opcode.toNat || !s.takes src then s
    else match s.takeFrom src (reqWords opcode.toNat req) with
      | none => s
      | some s =>
        if s.side (s.ctOf src) = 1 then s.runStandby info src req r fun _ _ s => s
        else match headerCode src req with
          | some c => if (s.openReq? (chanKey src) r.mseq).isSome then s.refuseRaw r c else (s.jTake r).complete r c []
          | none => match s.resend r with
            | some s' => s'
            | none => (s.jTake r).complete r (if secureSrc src then Code.wrongChannel else Code.unknownOpcode) [])

end Sys2Proof.Machine
end

