-- ==== Sys2Proof/Machine/Resync.lean ====
section
/-!
DEFINITION. RESYNC (R434, R435): the summary of the command processor's state.
-/

namespace Sys2Proof.Machine

/-- Whose summary it is: everything on stream 0, else a tenant's own. -/
abbrev Whose := Option (BitVec 32)

/-- A stream that the summary covers. -/
def coversStream (t : Whose) (x : Stream) : Bool :=
  match t with | none => true | some i => x.owner == 1 && x.tenant == i
def coversTenant (t : Whose) (i : BitVec 32) : Bool :=
  match t with | none => true | some j => i == j

/-- Bound slots and open runs, that is runs not ended by END_RUN, of a cabinet (R435). -/
def State.boundIn (s : State) (t : Whose) (c : Cab) : Nat :=
  (s.slots.filter fun x => x.cab == c && coversTenant t x.tenant).length
def State.openIn (s : State) (t : Whose) (c : Cab) : Nat :=
  (s.runs.filter fun r => r.cab == c && coversTenant t r.tenant).length

/-- A cabinet's entry. -/
def State.cabEntry (s : State) (t : Whose) (c : Cab) : List Word :=
  let x := s.cab c
  let serving := (x.serving.map Fin.val).getD 0
  [ word (put c.val 60 + put x.state.val 56 + put x.dies.toNat 40 + put x.span 36 + put serving 24),
    word (put (s.gloveGen (BitVec.ofNat 16 (0x10 + c.val))).toNat 32 + put (min (s.boundIn t c) 0xffff) 16 +
      min (s.openIn t c) 0xffff) ]

/-- The cabinets of a summary: all, or those where the tenant has a stream, a bound slot or an open run. -/
def State.cabEntries (s : State) (t : Whose) : List (List Word) :=
  ((List.finRange 16).filter fun c => t.isNone || (s.streams.any fun x => x.cab == c && coversStream t x) ||
      s.boundIn t c != 0 || s.openIn t c != 0).map fun c => s.cabEntry t c

/-- A stream's entry: STATE 0 OPEN, 1 HALTED, 2 CLOSING. -/
def State.streamEntry (s : State) (x : Stream) : List Word :=
  let st := if x.halted then 1 else if x.isClosing then 2 else 0
  let left := (s.jobs.filter fun j => j.stream == x.id).length
  [ word (put x.id.val 52 + put st 48 + put x.cab.val 44 + put x.owner.val 42 + put (min left 0x1ffff) 24),
    word (put (if x.owner = 1 then x.tenant.toNat else 0) 32 + x.nextSeq.toNat) ]

/-- The tenant of a channel number: none for a mailbox. -/
def State.keyTenant (s : State) (k : Nat) : Whose := if k < 4096 then none else (s.session? (k - 4096)).map Session.tenant

/-- The journal's requests of a channel without the RESYNC itself (R434). -/
def ownOut (own : Reply) (k : Nat) (l : List JReq) : List JReq :=
  if k = chanKey own.src then l.filter fun j => !(j.mseq == own.mseq && j.phase != 2) else l

/-- The outstanding commands; SUBMIT_JOB does not appear. -/
def State.outEntries (s : State) (t : Whose) (own : Reply) : List (List Word) :=
  (s.cp.chans.filter fun p => if t.isNone then decide (p.1 < 4096) else decide (4096 ≤ p.1) && s.keyTenant p.1 == t).flatMap
    fun p => ((ownOut own p.1 p.2).filter fun j => j.phase != 2 && j.opcode != 0x22).map fun j =>
      [ word (put j.opcode.toNat 48 + put j.mseq.toNat 32 + put j.stream.val 20 + put (if p.1 < 4096 then p.1 else 0xff) 12 +
          put j.phase.val 8), 0 ]

/-- The drawer slots that are not FREE. -/
def State.drawerEntries (s : State) (t : Whose) : List (List Word) :=
  (s.slots.filter fun x => coversTenant t x.tenant).map fun x =>
    [ x.handle, word (put x.cab.val 60 + put x.slot 44 + put x.state.val 40 + put x.gen.toNat 24 +
        put (s.residentDies x fun r => r.state != 0) 8) ]

/-- STATE of a glove (R404): 0 ACTIVE, 1 ROTATING, 2 CLOSING. -/
def Glove.stateCode (g : Glove) : Nat := if g.phase = 0 then 0 else if g.phase.val ≤ 5 then 1 else 2

def State.gloveEntries (s : State) (t : Whose) : List (List Word) :=
  (s.rot.gloves.filter fun g => t.isNone || (g.kind == 2 && coversTenant t g.tenant)).map fun g =>
    [word (put g.id.toNat 48 + put g.kind.val 44 + put g.stateCode 40 + put g.gen.toNat 8)]

/-- The event counter of a channel: a tray's (R422). -/
def State.eventSeq (s : State) (k : Nat) : Nat :=
  if k < 64 then 0 else ((s.ct s.cp.active).trays.getD (k - 64) Tray.reset).eventMseq.toNat

/-- The channels with a journaled request. -/
def State.chanEntries (s : State) (own : Reply) : List (List Word) :=
  ((s.cp.chans.map fun p => (p.1, ownOut own p.1 p.2)).filter fun p => decide (p.1 < 4096) && !p.2.isEmpty).map fun p =>
    let ended := p.2.filter fun j => j.phase == 2
    let last := (minBy (fun j => s.useClock - j.doneAt) ended).map fun j => j.mseq.toNat
    [word (put p.1 56 + put ((p.2.getLast?.map fun j => j.mseq.toNat).getD 0) 40 + put (last.getD 0) 24 +
      put (s.eventSeq p.1) 8 + b2n last.isSome)]

/-- Entries in ascending order of their first field, and of the rest where it is equal. -/
def sortEntries (l : List (List Word)) : List (List Word) :=
  sortBy (fun e => (wordAt e 0).toNat * 2 ^ 64 + (wordAt e 1).toNat) l

/-- The six sections (R435). -/
def State.sections (s : State) (t : Whose) (own : Reply) : List (List (List Word)) :=
  [ s.cabEntries t, sortEntries ((s.streams.filter (coversStream t)).map s.streamEntry), sortEntries (s.outEntries t own),
    sortEntries (s.drawerEntries t), sortEntries (s.gloveEntries t), if t.isNone then s.chanEntries own else [] ]

/-- The summary header (R435). -/
def State.summaryHead (s : State) (ct : Ct) (secs : List (List (List Word))) (first : Nat) : List Word :=
  let n := fun i => (secs.getD i []).length
  let cap := fun (x : Nat) => min x (2 ^ 32 - 1)
  [ word (put 1 56 + put ct.val 52 + put (b2n (s.side ct == 1)) 48 + put (min (n 1) 0xffff) 32 + put (min (n 2) 0xffff) 16 +
      min (n 5) 0xffff),
    word (put (cap (n 3)) 32 + put (min (n 4) 0xffff) 16 + min (n 0) 0xffff),
    word s.now,
    word (put (s.ct 0).logWritten 32 + (s.ct 0).logOverwritten),
    word (put (s.ct 1).logWritten 32 + (s.ct 1).logOverwritten),
    word (put (cap (s.pendingEvents false + s.pendingEvents true)) 32 + s.cp.eventsLost),
    word (put s.rot.bootCount.toNat 32 + s.cp.failovers),
    word (put (cap first) 32 + cap (n 0 + n 1 + n 2 + n 3 + n 4 + n 5)) ]

/-- The whole entries that fit into a number of words. -/
def fitEntries : Nat → List (List Word) → List (List Word)
  | _, [] => []
  | room, e :: es => if e.length ≤ room then e :: fitEntries (room - e.length) es else []

def infoResync : CmdInfo := ⟨0x0002, 16, 16, .zeroOrTenant, true, false, false, [], none⟩

/-- RESYNC inside a session (R434): the header and the whole entries from START that 256 parts hold. -/
def State.resyncTenant (s : State) (r : Reply) (t : BitVec 32) (ws : List Word) : State :=
  if wordAt ws 1 != 0 then s.complete r Code.reservedNonzero []
  else
    let start := (wordAt ws 0).toNat
    let secs := s.sections (some t) r
    s.complete r Code.ok (s.summaryHead s.cp.active secs start ++ (fitEntries (256 * 62 - 8) (secs.flatten.drop start)).flatten)

/-- RESYNC on stream 0 (R434): the summary into a buffer of the active die's control memory, none of it where it does not fit. -/
def State.resyncModule (s : State) (r : Reply) (ws : List Word) : State :=
  let len := (wordAt ws 1).toNat
  match s.buffer? r.src (wordAt ws 0).toNat len with
  | none => s.complete r Code.bufferInvalid []
  | some off =>
    let secs := s.sections none r
    let all := s.summaryHead (s.ctOf r.src) secs 0 ++ secs.flatten.flatten
    let need := 8 * all.length
    if len < need then s.complete r Code.bufferTooSmall [word need]
    else (s.writeCtl off (wordsToBytes all)).complete r Code.ok [word need]

/-- RESYNC (R434). -/
def execResync (src : Src) (req : Req) (s : State) : Out :=
  .next (s.ilnil infoResync src req fun r ws s =>
    match r.src with
    | .session n => match s.session? n.val with
      | some x => s.resyncTenant r x.tenant ws
      | none => s
    | _ => s.resyncModule r ws)

end Sys2Proof.Machine
end

