-- ==== Sys2Proof/Machine/Resets.lean ====
section
/-!
DEFINITION. Partial resets of a cluster, a die and a cabinet (R395, R439 to R442).
-/

namespace Sys2Proof.Machine

/-! ## What a reset clears (R439, R440) -/

/-- A job has a descriptor on a die that has issued and not retired. -/
def State.jobOnDie (s : State) (j : Job) (d : Die) : Bool :=
  (s.flights.any fun f => f.die == d && f.stream == j.stream && f.issue.jobSeq == j.seq) ||
    s.vengines.any fun v => v.u.die == d && v.holds j.stream j.seq

/-- A cluster reset's start. -/
def State.resetClusterNow (s : State) (d : Die) (c : Phys) : State :=
  let s := (s.loseCluster d c).blocksGone fun b => b == .cluster d c
  let s := s.modDie d fun x => { x with clusters := updAt c.val (fun k => if k = 2 || !x.inService then k else 3) x.clusters }
  s.dropSteps d Code.resetAborted

/-- The work of a die stops, and what R439 names of it is cleared; its stacks keep what they hold. -/
def State.clearDie (s : State) (d : Die) : State :=
  let s := s.endJobs (fun j => s.jobOnDie j d) Code.resetAborted
  let s := { s.cutDie d with flights := s.flights.filter fun f => f.die != d }
  let s := (List.finRange 9).foldl (fun (s : State) c => s.clearCluster d c) s
  let s := (s.merges.filter fun m => dieOf m.stack == d).foldl (fun (s : State) m => s.flush m []) s
  let s := (stacksOf d).foldl (fun (s : State) h => s.modStk h fun x => { x with cache := [] }) s
  let s := s.blocksGone fun b => match b with
    | .cluster e _ => e == d
    | .controller h => dieOf h == d
    | .edge _ => false
  let s := s.modCp fun k => { k with timers := k.timers.filter fun t => t.die != d }
  let zero : ABlock → ABlock := fun b => { b with zeroing := true }
  s.modDie d fun x => { x with clusters := x.clusters.map (fun k => if k = 2 || !x.inService then k else 3), blocks := x.blocks.map zero, packets := [] }

/-- A die reset's start: it counts as a failure of the die (R285, R287, R321). -/
def State.resetDieNow (s : State) (d : Die) : State := ((s.clearDie d).memberLost d).runsLoseDie d

/-- Pages, residencies, fetches, requests and jobs of a cabinet that its reset ends (R439, R440). -/
def State.clearCabinet (s : State) (c : Cab) : State :=
  let s := s.endRequests (fun q => q.cab == c) Code.resetAborted
  let inCab := fun (s : State) (i : Fin 4096) => ((s.stream? i.val).map Stream.cab) == some c
  let s := s.endJobs (fun j => inCab s j.stream) Code.resetAborted
  let dies := (s.cab c).dies
  let s := s.freeTensors fun t => hasDie dies t.die.val
  let gone := s.fetches.filter fun f => f.cab == c && f.run.isNone
  let s := { s with fetches := s.fetches.filter fun f => !(f.cab == c && f.run.isNone) }
  let s := s.answerFetch (gone.flatMap Fetch.replies) Code.resetAborted
  let plain := s.slots.filter fun x => x.cab == c && x.run.isNone
  let s := plain.foldl (fun (s : State) x =>
    ((s.residenciesOf c x.slot).foldl (fun (s : State) r => s.releaseResidency c x.slot r.group) s).settleEvict c x.slot) s
  let s := s.freePages fun p => p.cab == c &&
    (p.kind == PKind.drawer || p.kind == PKind.kv || p.kind == PKind.saved || p.kind == PKind.tensor)
  s.settleCache c

/-- A cabinet reset's start. -/
def State.resetCabinetNow (s : State) (c : Cab) (keep : Bool) : State :=
  let s := if (s.cab c).state = 2 then s.endMount c Code.resetAborted else s
  let s := if keep then s
    else (s.runs.filter fun r => r.cab == c).foldl (fun (s : State) r => s.stopRunFor r.id Code.resetAborted) s
  let s := (diesOf (s.cab c).dies).foldl State.resetDieNow s
  (s.clearCabinet c).modCab c fun x => { x with state := 5 }

/-- A reset takes effect. -/
def State.resetNow (s : State) (a : Scope) : State :=
  match a with
  | .cluster d c => s.resetClusterNow d c
  | .die d => s.resetDieNow d
  | .cabinet c keep => s.resetCabinetNow c keep

/-! ## Order of resets (R441) -/

/-- A reset in progress lies within a scope that it does not cover. -/
def State.resetWaits (s : State) (a : Scope) : Bool :=
  s.cp.resets.any fun r => r.started && s.scopeWithin r.scope a && !s.scopeWithin a r.scope

/-- A reset starts (R442): ACCEPTED, then its effect. -/
def State.startReset (s : State) (j : ResetJob) : State :=
  let s := j.replies.foldl (fun (s : State) r => s.accept r 0) s
  (s.modCp fun k => { k with resets := k.resets ++ [{ j with started := true }] }).resetNow j.scope

/-- A reset asked for: it joins one that covers it, waits for those within it, or starts. -/
def State.askReset (s : State) (r : Reply) (a : Scope) (w : Word) : State :=
  match s.covering a with
  | some j =>
    let mk : ResetJob → ResetJob := fun k => if k = j then { k with replies := k.replies ++ [r] } else k
    (s.accept r 0).modCp fun k => { k with resets := k.resets.map mk }
  | none =>
    let j : ResetJob := { scope := a, replies := [r], words := [w], started := false }
    if s.resetWaits a then s.modCp fun k => { k with resets := k.resets ++ [j] } else s.startReset j

/-- Waiting resets that nothing delays any more start or join, in order. -/
def State.wakeResets (s : State) : State :=
  (s.cp.resets.filter fun r => !r.started).foldl (fun (s : State) j =>
    if s.resetWaits j.scope then s
    else
      let s := s.modCp fun k => { k with resets := k.resets.erase j }
      match s.covering j.scope with
      | some _ => j.replies.foldl (fun (s : State) r => s.askReset r j.scope (wordAt j.words 0)) s
      | none => s.startReset j) s

/-! ## The end of a reset -/

/-- A cluster is in service again; the shelf glove is worn by an active one of a mounted cabinet (R395, R103). -/
def State.clusterBack (s : State) (d : Die) (c : Phys) : State :=
  let active := (s.die d).mapNow.contains c
  let s := s.modDie d fun x =>
    { x with clusters := updAt c.val (fun k => if k = 3 then (if active then 0 else 1) else k) x.clusters }
  match s.cabOfDie d with
  | some k => if active && (s.glove? (shelfGlove k).toNat).isSome then s.wear d c (shelfGlove k) else s
  | none => s

/-- A die is in service again; its activation store is zeroed. -/
def State.dieBack (s : State) (d : Die) : State :=
  (List.finRange 9).foldl (fun (s : State) c => s.clusterBack d c) (s.modDie d fun x => { x with blocks := [] })

/-- A cabinet is in service again: READY with its shelf, else NO_SHELF. -/
def State.cabinetBack (s : State) (c : Cab) (keep : Bool) : State :=
  let s :=
    if !keep || (s.cab c).unmount.isSome then s.releaseShelf c
    else s.modCab c fun x => { x with state := if x.shelf.isSome then 3 else 1 }
  (diesOf (s.cab c).dies).foldl State.dieBack s

/-- RESET_COMPLETE (R440, R442): the scope has returned to service. -/
def execResetComplete (scope : Scope) (s : State) : Out :=
  .next (match s.cp.resets.find? fun r => r.started && r.scope == scope with
    | none => s
    | some j =>
      let s := s.modCp fun k => { k with resets := k.resets.erase j }
      let s := match scope with
        | .cluster d c => s.clusterBack d c
        | .die d => s.dieBack d
        | .cabinet c keep => s.cabinetBack c keep
      ((s.completeAll j.replies Code.ok []).postEvent Event.resetDone 0 j.words).wakeResets)

/-! ## The commands -/

def infoResetCluster : CmdInfo := ⟨0x0070, 8, 8, .zero, false, false, true, [[(55, 0)]], none⟩
def infoResetDie : CmdInfo := ⟨0x0071, 8, 8, .zero, false, false, true, [[(59, 0)]], none⟩
def infoResetCabinet : CmdInfo := ⟨0x0072, 8, 8, .zero, false, false, true, [[(58, 0)]], none⟩

/-- RESET_CLUSTER (R439, R442). -/
def execResetCluster (src : Src) (req : Req) (s : State) : Out :=
  .next (s.ilnil infoResetCluster src req fun r ws s =>
    let w := wordAt ws 0
    if 8 < bits w 59 56 then s.complete r Code.valueOutOfRange []
    else s.askReset r (.cluster (Fin.ofNat 16 (bits w 63 60)) (Fin.ofNat 9 (bits w 59 56))) w)

/-- RESET_DIE (R439, R442). -/
def execResetDie (src : Src) (req : Req) (s : State) : Out :=
  .next (s.ilnil infoResetDie src req fun r ws s =>
    let w := wordAt ws 0
    s.askReset r (.die (Fin.ofNat 16 (bits w 63 60))) w)

/-- RESET_CABINET (R439, R442): one that meets a reset of the same cabinet joins it or waits for it, as R441 says. -/
def execResetCabinet (src : Src) (req : Req) (s : State) : Out :=
  .next (s.ilnil infoResetCabinet src req fun r ws s =>
    let w := wordAt ws 0
    let c := cabOf w
    if (s.cab c).dies = 0 then s.complete r Code.valueOutOfRange []
    else s.askReset r (.cabinet c (bitAt w 59)) w)

end Sys2Proof.Machine
end

