-- ==== Sys2Proof/Machine/Attest.lean ====
section
/-!
DEFINITION. Reports and SPDM (R391 to R395): the report's byte layout, ATTEST, and the answers of the RoTP as a responder.
-/

namespace Sys2Proof.Machine

/-- A measurement entry (R393). -/
def measEntry (stage : Nat) (meas : BitVec 512) (svn : BitVec 32) (flags : Nat) : List Byte :=
  bytes512 meas ++ leBytes 4 svn.toNat ++ leBytes 1 stage ++ leBytes 1 flags ++ zeroBytes 10

/-- The measurement table: stage 0 with MEAS and SVN 0, stages 1 to 8, the reserved entry 9. -/
def measTable (x : CtDie) : List Byte :=
  measEntry 0 0 0 0 ++
    ((x.running.drop 1).zipIdx.flatMap fun p =>
      measEntry (p.2 + 1) p.1.meas p.1.svn (b2n p.1.verified + put x.curSlot.val 1)) ++ zeroBytes 80

/-- One entry of the pending table: zero for a stage without an image. -/
def pendingEntry (x : CtDie) (n : Nat) : List Byte :=
  match x.pendingImgs.find? fun i => i.stage == n with
  | none => zeroBytes 80
  | some i =>
    let changed := ((x.running[n]?).map StageMeas.meas) != some i.meas
    measEntry n i.meas i.svn (b2n i.verified + put (1 - x.curSlot.val) 1 + put (b2n changed) 2)

/-- The pending table: zero unless STATE is UPDATING. -/
def State.pendingTable (s : State) (state : Fin 3) : List Byte :=
  if state = 1 then (List.range 10).flatMap fun n => pendingEntry (s.ct s.rot.pendingCt) n else zeroBytes 800

/-- Tokens in force, ascending EXPIRY. -/
def State.tokensInForce (s : State) : List Token := sortBy Token.expiry (s.rot.tokens.filter fun t => t.phase == 1)

/-- The module summary. -/
def State.moduleSummary (s : State) (x : CtDie) (state : Fin 3) : List Byte :=
  let n := fun (p : Glove → Bool) => (s.rot.gloves.filter p).length
  wordsToBytes
    [ word (put (n fun g => g.kind == 2) 48 + put s.rot.sessions.length 32 + put (n Glove.prevHeld) 16 +
        put s.tokensInForce.length 8),
      word (put s.diesInService 48 + put s.edgesInService 44 + put s.ctInService 42 + put x.curSlot.val 41 +
        put (if state = 1 then 1 - (s.ct s.rot.pendingCt).curSlot.val else 0) 40) ] ++ zeroBytes 48

/-- The digest of the loaded programs' measurements, in ascending program id; zero when none. -/
def State.programsDigest (s : State) (c : Cab) : List Byte :=
  let ps := sortBy (fun (p : Program) => p.image.programId.toNat) (s.programs.filter fun p => p.cab == c)
  if ps.isEmpty then zeroBytes 64 else shake256 (ps.flatMap fun p => bytes512 p.image.meas) 64

/-- A cabinet record. -/
def State.cabRecord (s : State) (c : Cab) : List Byte :=
  let x := s.cab c
  let shelf := if 3 ≤ x.state.val then x.shelf else none
  let worn := (s.rot.gloves.filter fun g => g.kind == 2 && s.pages.any fun p => p.cab == c && p.glove == g.id).length
  wordsToBytes
    [ word (put c.val 60 + put x.state.val 56 + put x.dies.toNat 40 + put (if shelf.isSome then x.span else 0) 36 + put worn 20),
      word (put (s.gloveGen (shelfGlove c)).toNat 32) ] ++
    bytes512 ((shelf.map ShelfImage.meas).getD 0) ++ s.programsDigest c ++ zeroBytes 16

/-- A token record, which names no tenant. -/
def tokenRecord (t : Token) : List Byte :=
  bytes256 t.id ++ leBytes 2 t.scope.toNat ++ leBytes 1 t.cab ++ zeroBytes 5 ++ leBytes 8 t.expiry ++ zeroBytes 16

/-- The tenant section. -/
def tenantSection (g : Glove) : List Byte :=
  wordsToBytes [ word (put g.tenant.toNat 32 + put g.id.toNat 16 + b2n g.prevHeld), word (put g.gen.toNat 32 + g.prevPages) ] ++
    bytes512 g.keyId ++ zeroBytes 48

/-- STATE of a report (R393, R394): a control die that starts answers STARTING until its command processor is ready. -/
def State.reportState (s : State) (ct : Ct) : Fin 3 :=
  if s.side ct = 2 && s.cp.takingOver != some ct then 2 else s.rot.transition

/-- Bytes before SIGNATURE of a report that the RoTP of `ct` signs (R393). -/
def State.reportBody (s : State) (ct : Ct) (nonce : BitVec 256) (scope : Option Cab) (tenant : Option Glove) : List Byte :=
  let x := s.ct ct
  let state := s.reportState ct
  let cabs := if state = 2 then [] else match scope with | some c => [c] | none => List.finRange 16
  let one := scope.isSome && state != 2
  let toks := s.tokensInForce
  let rest := measTable x ++ s.pendingTable state ++ s.moduleSummary x state ++ cabs.flatMap s.cabRecord ++ toks.flatMap tokenRecord ++
    (tenant.map tenantSection).getD []
  let total := 1440 + rest.length + 3309
  wordsToBytes
    [ word (put 1 56 + put state.val 52 + put (if one then (scope.getD 0).val else 0) 48 + put (b2n one) 47 +
        put ct.val 43 + put 0xb0 32 + 0x00093216),
      word (put 1 56 + put 0 48 + put Config.romId.toNat 40 + s.rot.bootCount.toNat),
      word s.now,
      word (put total 32 + put cabs.length 24 + put toks.length 16 + put (b2n tenant.isSome) 15) ] ++
    bytes256 nonce ++ bytes512 deviceId ++ bytes512 (s.aliasOf ct) ++ bytes512 s.rot.opKey ++
    leBytes 1184 (Config.sessionEk s.rot.ekSerial) ++ rest

/-- A report with its signature. -/
def State.attestation (s : State) (ct : Ct) (nonce : BitVec 256) (scope : Option Cab) (tenant : Option Glove) :
    List Byte × State :=
  let (n, s') := s.fresh
  (s.reportBody ct nonce scope tenant ++ leBytes 3309 (Config.signature n), s')

/-- Four words as a 32-byte value, byte 0 in the low byte of the first (R387). -/
def wide256 (ws : List Word) : BitVec 256 := BitVec.ofNat 256 (ofLe (wordsToBytes ws))

def infoAttest : CmdInfo := ⟨0x0060, 40, 40, .zeroOrTenant, false, true, false, [[(57, 0)]], none⟩

/-- ATTEST (R393, R402). A TENANT_SECTION request on stream 0 ends with VALUE_OUT_OF_RANGE. -/
def execAttest (src : Src) (req : Req) (s : State) : Out :=
  .next (s.ilnil infoAttest src req fun r ws s =>
    let w := wordAt ws 0
    let own := match s.stream? r.stream.val with
      | some x => if x.owner = 1 then s.tenantGlove? x.tenant else none
      | none => none
    if bitAt w 58 && r.stream = 0 then s.complete r Code.valueOutOfRange []
    else
      let (bs, s) := s.attestation s.cp.active (wide256 ((ws.drop 1).take 4)) (if bitAt w 59 then some (cabOf w) else none)
        (if bitAt w 58 then own else none)
      s.complete r Code.ok (bytesToWords 16000 bs))

/-! ## SPDM (R391, R392) -/

/-- A request on a route comes as far as the module at all (R392): a session's only while it is open. -/
def State.reaches (s : State) (r : Route) : Bool :=
  s.power.started && match r with
  | .edge ed none _ => (s.edge ed).inService
  | .edge ed (some n) _ => (s.edge ed).inService && (s.session? n.val).isSome && edgeOf n == ed
  | _ => true

/-- A control die whose RoTP answers (R394): running, or starting beyond stage 2's release. -/
def State.rotRuns (s : State) (c : Ct) : Bool := s.power.started && decide (s.side c ≤ 2)

/-- The control die whose RoTP answers on a route (R392): that of a secure channel where the channel takes messages (R419), else the
active one; before one is chosen, one that starts (assumption 53). -/
def State.responder (s : State) (r : Route) : Option Ct :=
  let act := s.cp.active
  match r with
  | .secure ct => if s.listens ct then some ct else none
  | _ =>
    if s.rotRuns act then some act
    else if s.side act = 6 && s.cp.takingOver.isNone && s.rotRuns (otherCt act) then some (otherCt act)
    else none

/-- The certificate chain of R371. -/
def State.chain (s : State) (ct : Ct) : List Byte := Config.certChain (s.aliasOf ct)

/-- A fresh nonce and signature of the RoTP. -/
def State.signed (s : State) : BitVec 256 × List Byte × State :=
  let (n, s) := s.fresh
  (Config.random n, leBytes 3309 (Config.signature n), s)

/-- The cabinet of the requester's session. -/
def State.routeCab (s : State) : Route → Option Cab
  | .edge _ (some n) _ => (s.session? n.val).map Session.cab
  | _ => none

/-- The answer to GET_MEASUREMENTS (R391): indexes 1 to 8, 0xF0 the full report, 0xF1 a report scoped to the session's cabinet. -/
def State.measurements (s : State) (r : Route) (ct : Ct) (index : BitVec 8) (nonce : BitVec 256) : SpdmAnswer × State :=
  let i := index.toNat
  let answer := fun (bs : List Byte) (s : State) =>
    let (n, sig, s) := s.signed
    (SpdmAnswer.measurements i bs n sig, s)
  if 1 ≤ i ∧ i ≤ 8 then answer (bytes512 ((((s.ct ct).running[i]?).map StageMeas.meas).getD 0)) s
  else if i = 0xf0 then
    let (bs, s) := s.attestation ct nonce none none
    answer bs s
  else match s.routeCab r with
    | some c =>
      if i = 0xf1 then
        let (bs, s) := s.attestation ct nonce (some c) none
        answer bs s
      else (.unsupportedRequest 0xe0, s)
    | none => (.unsupportedRequest 0xe0, s)

/-- The answer of the RoTP of `ct` (R391): version 1.3 only; both algorithms vendor-defined, no base algorithm; slot 0 only; CHALLENGE
signed by the alias key; ERROR with UnsupportedRequest to any other request. -/
def State.spdmAnswer (s : State) (r : Route) (ct : Ct) : SpdmAsk → SpdmAnswer × State
  | .version => (.version 1 3, s)
  | .capabilities => (.capabilities true true true false false false, s)
  | .algorithms => (.algorithms "ML-DSA-65" "SHAKE256-64", s)
  | .digests => (.digests [(0, shake256 (s.chain ct) 64)], s)
  | .certificate slot => (if slot = 0 then .certificate 0 (s.chain ct) else .unsupportedRequest 0x82, s)
  | .challenge _ =>
    let (n, sig, s) := s.signed
    (.challengeAuth 0 n sig, s)
  | .measurements index nonce => s.measurements r ct index nonce
  | .other code => (.unsupportedRequest code.toNat, s)

/-- A SPDM request (R391, R392, R394): its answer leaves on its route; one that reaches a control die whose RoTP is itself restarting
waits. -/
def State.spdm (s : State) (r : Route) (ask : SpdmAsk) : State :=
  if !s.reaches r then s
  else match s.responder r with
    | none => s.modRot fun t => { t with spdmHeld := t.spdmHeld ++ [(r, ask)] }
    | some ct =>
      let (a, s) := s.spdmAnswer r ct ask
      s.modRot fun t => { t with spdmOut := t.spdmOut ++ [(r, a)] }

/-- The requests that waited are put again, in order, once a RoTP runs: their answers carry the new start's measurements (R394). -/
def State.answerHeld (s : State) : State :=
  s.rot.spdmHeld.foldl (fun (s : State) p => s.spdm p.1 p.2) (s.modRot fun t => { t with spdmHeld := [] })

/-- GET_VERSION (R391). -/
def execGetVersion (r : Route) (s : State) : Out := .next (s.spdm r .version)

/-- GET_CAPABILITIES (R391). -/
def execGetCapabilities (r : Route) (s : State) : Out := .next (s.spdm r .capabilities)

/-- NEGOTIATE_ALGORITHMS (R391). -/
def execNegotiateAlgorithms (r : Route) (s : State) : Out := .next (s.spdm r .algorithms)

/-- GET_DIGESTS (R391). -/
def execGetDigests (r : Route) (s : State) : Out := .next (s.spdm r .digests)

/-- GET_CERTIFICATE (R391). -/
def execGetCertificate (r : Route) (slot : BitVec 8) (s : State) : Out := .next (s.spdm r (.certificate slot))

/-- CHALLENGE (R391). -/
def execChallenge (r : Route) (nonce : BitVec 256) (s : State) : Out := .next (s.spdm r (.challenge nonce))

/-- GET_MEASUREMENTS (R391). -/
def execGetMeasurements (r : Route) (index : BitVec 8) (nonce : BitVec 256) (s : State) : Out :=
  .next (s.spdm r (.measurements index nonce))

/-- SPDM_UNSUPPORTED_REQUEST (R391). -/
def execSpdmUnsupportedRequest (r : Route) (code : BitVec 8) (s : State) : Out := .next (s.spdm r (.other code))

end Sys2Proof.Machine
end

