-- ==== Sys2Proof/Machine/Tenants.lean ====
section
/-!
DEFINITION. Tenants and their gloves (R375 to R381, R387 to R390, R404): entries, opening, closing, rotation, the
acknowledgements of standby and blocks, and lattice packets with their checks (R22, R23, R380).
-/

namespace Sys2Proof.Machine

/-! ## Entries -/

def tenantOf (w : Word) : BitVec 32 := BitVec.ofNat 32 (bits w 63 32)

def infoAddTenant : CmdInfo := ⟨0x0061, 72, 72, .zero, false, true, false, [[(31, 0)]], none⟩

/-- ADD_TENANT (R381). -/
def execAddTenant (src : Src) (req : Req) (s : State) : Out :=
  .next (s.ilnil infoAddTenant src req fun r ws s =>
    let t := tenantOf (wordAt ws 0)
    if (s.tenantGlove? t).isSome then s.complete r Code.tenantBound []
    else (s.modRot fun x => { x with tenants := assocPut t (wide512 ((ws.drop 1).take 8)) x.tenants }).complete r Code.ok [])

/-! ## Opening -/

/-- A tenant glove id that is free (R375): ids never given out first, in ascending order, then the oldest erased. -/
def Rot.freeGlove (x : Rot) : Option (BitVec 16 × Rot) :=
  if x.nextNew ≤ 0x40ff then some (BitVec.ofNat 16 x.nextNew, { x with nextNew := x.nextNew + 1 })
  else match x.freed with
    | g :: rest => some (g, { x with freed := rest })
    | [] => none

def infoGloveOpen : CmdInfo := ⟨0x006b, 32, 32, .session, true, true, false, [], none⟩

/-- GLOVE_OPEN (R387): on a mailbox channel it ends with WRONG_CHANNEL. A glove that is closing opens to nobody. -/
def execGloveOpen (src : Src) (req : Req) (s : State) : Out :=
  .next (s.ilnil infoGloveOpen src req fun r ws s =>
    let n := match r.src with | .session n => n.val | _ => 8192
    match s.session? n with
    | none => s
    | some x => match s.tenantGlove? x.tenant with
      | some g =>
        if 6 ≤ g.phase.val then s.complete r Code.gloveClosed [] else s.complete r Code.ok [word (put g.id.toNat 48)]
      | none => match s.rot.freeGlove with
        | none => s.complete r Code.gloveLimit []
        | some (id, t) =>
          let (k, s) := ({ s with rot := t } : State).fresh
          let g : Glove := { madeGlove id 2 0 x.tenant x.keyId k with
                             standbyAcked := !s.hasStandby, catalogKey := wide256 (ws.take 4) }
          (s.modRot fun t => { t with gloves := t.gloves ++ [g] }).complete r Code.ok [word (put id.toNat 48)])

/-! ## Closing (R386, R390) -/

/-- A session closes (R386): its requests end with a code, its slot is erased; `tell` sends a close record. -/
def State.closeSession (s : State) (n : Nat) (tell : Bool) (code : Nat) : State :=
  (s.endRequests (fun q => q.session.val == n) code).dropSession n tell

/-- What a tenant has in the module ends (R390 steps 1 and 2): sessions but the one that carried the close, requests, runs,
jobs that have not started, streams. -/
def State.endTenant (s : State) (t : BitVec 32) (carrier : Option Sess) : State :=
  let s := s.endRequests (fun q => q.tenant == t) Code.gloveClosed
  let s := (s.tenantSessions t).foldl (fun (s : State) x =>
    if some x.n = carrier then s.modSession x.n.val fun y => { y with draining := true } else s.dropSession x.n.val true) s
  let s := (s.runs.filter fun x => x.tenant == t).foldl (fun (s : State) x =>
    ((s.stopRunFor x.id Code.gloveClosed).releaseRun x.id).settleUnmount x.cab) s
  let s := { s with consents := s.consents.filter fun x => x.tenant != t }
  let mine := s.streams.filter fun x => x.owner == 1 && x.tenant == t
  let s := mine.foldl (fun (s : State) x => s.modStream x.id.val fun y => { y with isClosing := true }) s
  mine.foldl (fun (s : State) x =>
    (s.endJobs (fun j => j.stream == x.id && j.phase == 0) Code.gloveClosed).settleStream x.id) s

/-- A tenant's glove begins to close, or a close under way is joined. -/
def State.closeGlove (s : State) (r : Reply) (t : BitVec 32) (remove : Bool) (carrier : Option Sess) : State :=
  let s := s.accept r 0
  match s.tenantGlove? t with
  | none => ((s.endTenant t none).modRot fun x => { x with tenants := x.tenants.filter fun p => p.1 != t }).complete r Code.ok []
  | some g =>
    if 6 ≤ g.phase.val then
      let s := match carrier with
        | some n => s.modSession n.val fun y => { y with draining := true }
        | none => s
      s.modGlove g.id.toNat fun x => { x with replies := x.replies ++ [r], removing := x.removing || remove }
    else
      let s := s.modGlove g.id.toNat fun x =>
        { x with phase := 6, replies := [r], removing := remove, waiting := [] }
      let s := (s.endTenant t carrier).completeAll g.replies Code.gloveClosed []
      s.settleClose t

def infoRemoveTenant : CmdInfo := ⟨0x0062, 8, 8, .zero, false, true, false, [[(31, 0)]], none⟩

/-- REMOVE_TENANT (R390, R402). -/
def execRemoveTenant (src : Src) (req : Req) (s : State) : Out :=
  .next (s.ilnil infoRemoveTenant src req fun r ws s =>
    let t := tenantOf (wordAt ws 0)
    if s.rot.tenants.any fun p => p.1 == t then s.closeGlove r t true none else s.complete r Code.tenantUnknown [])

def infoGloveClose : CmdInfo := ⟨0x0063, 0, 0, .tenant, false, true, false, [], none⟩

/-- GLOVE_CLOSE (R390): on the tenant's own stream. -/
def execGloveClose (src : Src) (req : Req) (s : State) : Out :=
  .next (s.ilnil infoGloveClose src req fun r _ s =>
    match r.src with
    | .session n => match s.session? n.val with
      | some x => s.closeGlove r x.tenant false (some n)
      | none => s
    | _ => s)

/-! ## Rotation and status (R388, R404) -/

/-- The glove that ROTATE_GLOVE or GLOVE_STATUS names (R402): a code, or the glove. -/
def State.namedGlove (s : State) (r : Reply) (id : Nat) : Nat ⊕ Glove :=
  match r.src with
  | .session n => match (s.session? n.val).bind fun x => s.tenantGlove? x.tenant with
    | some g => if id = 0 || id = g.id.toNat then .inr g else .inl Code.notOwner
    | none => .inl Code.noGlove
  | _ => match s.glove? id with
    | some g => .inr g
    | none => .inl Code.valueOutOfRange

def infoRotateGlove : CmdInfo := ⟨0x0064, 8, 8, .zeroOrTenant, false, true, false, [[(47, 0)]], none⟩

/-- ROTATE_GLOVE (R388): Make, then Install once the standby has acknowledged. -/
def execRotateGlove (src : Src) (req : Req) (s : State) : Out :=
  .next (s.ilnil infoRotateGlove src req fun r ws s =>
    match s.namedGlove r (bits (wordAt ws 0) 63 48) with
    | .inl c => s.complete r c []
    | .inr g =>
      if 6 ≤ g.phase.val then s.complete r Code.gloveClosed []
      else if g.prevHeld || g.phase != 0 then s.complete r Code.rotationInProgress []
      else
        let s := (s.accept r 0).modGlove g.id.toNat fun x => { x with phase := 1, replies := [r] }
        if s.hasStandby then s else s.installGlove g.id)

/-- The GLOVE_STATUS record (R404): a tenant's exact counts are withheld on stream 0. -/
def State.gloveWords (s : State) (g : Glove) (own : Bool) : List Word :=
  let isTenant := g.kind == 2
  let hide := isTenant && !own
  let n := fun (x : Nat) => if hide then 0 else x
  let sessions := if isTenant then (s.tenantSessions g.tenant).length else 0
  let slots := ((s.clusters.map fun c => (c.slots.filter fun k => k.glove == g.id).length)).sum
  let cached := ((List.finRange 32).filter fun h => (s.stk h).cache.any fun p => p.1 == g.id).length
  let toks := if isTenant then (s.tokensInForce.filter fun t => t.tenant == g.tenant).length else 0
  let prev := if g.prevHeld then g.prevPages else 0
  [ word (put g.id.toNat 48 + put g.kind.val 44 + put (if g.kind = 1 then g.cab.val else 0) 40 + put g.stateCode 36 +
      (if isTenant then g.tenant.toNat else 0)),
    word (put g.gen.toNat 32 + n prev),
    word (put (n sessions) 48 + put slots 32 + put cached 16 + toks),
    word g.rotateTime, word (n g.tokensIn), word (n g.tokensOut), word (n g.rowsSeated), 0 ]

def infoGloveStatus : CmdInfo := ⟨0x0065, 8, 8, .zeroOrTenant, false, true, false, [[(47, 0)]], none⟩

/-- GLOVE_STATUS (R404). -/
def execGloveStatus (src : Src) (req : Req) (s : State) : Out :=
  .next (s.ilnil infoGloveStatus src req fun r ws s =>
    match s.namedGlove r (bits (wordAt ws 0) 63 48) with
    | .inl c => s.complete r c []
    | .inr g => s.complete r Code.ok (s.gloveWords g (match r.src with | .session _ => true | _ => false)))

/-! ## Acknowledgements (R378, R379, R388) -/

/-- GLOVE_CHANGE_ACK (R378): the standby holds the oldest change of a glove that it had not acknowledged: the glove itself, then
the generation that a rotation made. -/
def execGloveChangeAck (glove : BitVec 16) (s : State) : Out :=
  .next (match s.glove? glove.toNat with
    | none => s
    | some g =>
      if !s.hasStandby then s
      else if !g.standbyAcked then s.modGlove glove.toNat fun x => { x with standbyAcked := true }
      else if g.phase = 1 then s.installGlove glove
      else s)

/-- A block is no longer waited for; the glove goes on. -/
def State.blockDone (s : State) (glove : BitVec 16) (b : GBlock) : State :=
  (s.modGlove glove.toNat fun x => { x with waiting := x.waiting.filter fun y => y != b }).gloveStep glove 6

/-- A block that a glove's phase waits for. -/
def State.waitsFor (s : State) (glove : BitVec 16) (phases : List (Fin 8)) (b : GBlock) : Bool :=
  match s.glove? glove.toNat with
  | some g => s.cpRuns && phases.contains g.phase && g.waiting.contains b
  | none => false

/-- GLOVE_INSTALLATION_ACK (R379, R388): the keys are in place in the block. -/
def execGloveInstallationAck (glove : BitVec 16) (b : GBlock) (s : State) : Out :=
  .next (if s.waitsFor glove [2] b then s.blockDone glove b else s)

/-- GLOVE_ERASURE_ACK (R379, R388, R390): the previous generation, or the glove, is gone from the block. -/
def execGloveErasureAck (glove : BitVec 16) (b : GBlock) (s : State) : Out :=
  .next (
    if s.waitsFor glove [5] b then s.blockDone glove b
    else if s.waitsFor glove [7] b then (s.unwear glove b).blockDone glove b
    else s)

/-- DRAIN_CONFIRM (R388): the block holds no packet of the previous generation unacknowledged. -/
def execDrainConfirm (glove : BitVec 16) (b : GBlock) (s : State) : Out :=
  .next (if s.waitsFor glove [4] b then s.blockDone glove b else s)

/-! ## Lattice packets (R22, R23, R380) -/

/-- A block of a die. -/
def blockOn (d : Die) : GBlock → Bool
  | .cluster e _ => e == d
  | .controller h => dieOf h == d
  | .edge _ => false

/-- A block of a die holds a generation of a glove whose bit 0 is `b` (R380, R388). -/
def State.holdsGen (s : State) (d : Die) (glove : BitVec 16) (b : Bool) : Bool :=
  match s.glove? glove.toNat with
  | none => false
  | some g =>
    let here := (s.wearers g).filter (blockOn d)
    let odd := bitAt (word g.gen.toNat) 0
    here.any fun x =>
      odd == b ||
        (g.prevHeld && odd != b && (g.phase != 5 || g.waiting.contains x)) ||
        (g.phase == 2 && odd != b && !g.waiting.contains x)

/-- LATTICE_PACKET (R22, R23, R27, R380): a packet of another cabinet than its destination's, or of a generation that the receiver does
not hold, is discarded and reported. Packets of one source and class arrive in the order in which they were sent: one that an
earlier arrival overtook, and one whose sender has lost its way into the lattice, cannot arrive, and nothing changes (DESIGN
CHOICE, assumption 76). -/
def execLatticePacket (p : Packet) (s : State) : Out :=
  .next (
    let late := (s.die p.dst).packets.any fun q => q.src == p.src && q.cls == p.cls && decide (p.seqNo ≤ q.seqNo)
    if late || (s.packetRoute p.src p.dst).isEmpty then s
    else if s.cabOfDie p.dst != some p.cab then s.isolation 0 7 0 p.dst (some p.cab) []
    else if p.glove != 0 && !s.holdsGen p.dst p.glove p.genBit then s.isolation 5 7 0 p.dst (some p.cab) []
    else s.modDie p.dst fun x => { x with packets := x.packets ++ [p] })

end Sys2Proof.Machine
end

