-- ==== Sys2Proof/Machine/Consent.lean ====
section
/-!
DEFINITION. Debug consent (R398 to R403): tokens, debug channels; coarsened telemetry (R396, R405).
-/

namespace Sys2Proof.Machine

/-! ## Tokens (R399, R401, R403) -/

/-- Bytes [lo, hi) of a list as a number. -/
def span (bs : List Byte) (lo hi : Nat) : Nat := ofLe ((bs.drop lo).take (hi - lo))

/-- A token's body read (R399). -/
def tokenOf (bs : List Byte) (now : Nat) : Token :=
  { id := BitVec.ofNat 256 (ofLe (shake256 (bs.take 1312) 32)), cab := span bs 1 2, scope := BitVec.ofNat 16 (span bs 2 4),
    tenant := BitVec.ofNat 32 (span bs 4 8), notBefore := span bs 8 16, expiry := span bs 16 24,
    phase := if span bs 8 16 ≤ now then 1 else 0 }

/-- Seven days in ns. -/
def weekNs : Nat := 604800000000000

/-- A token that R399 does not refuse; `tenant` is the stream's own, none on stream 0. -/
def State.tokenOk (s : State) (bs : List Byte) (sigOk : Bool) (tenant : Option (BitVec 32)) : Bool :=
  let t := tokenOf bs s.now
  sigOk && span bs 0 1 == 1 && decide (t.cab < 16) && decide (t.scope.toNat < 16) && span bs 96 128 == 0 &&
    BitVec.ofNat 512 (span bs 32 96) == deviceId && (s.tenantGlove? t.tenant).isSome &&
    (match tenant with | some i => i == t.tenant | none => true) &&
    decide (t.expiry ≤ t.notBefore + weekNs) && decide (s.now < t.expiry)

/-- Installation of a token (R399): its code, and the state with it. One installed again takes its own place. -/
def State.installToken (s : State) (bs : List Byte) (sigOk : Bool) (tenant : Option (BitVec 32)) : Nat × State :=
  let t := tokenOf bs s.now
  let rest := s.rot.tokens.filter fun x => x.id != t.id
  if !s.tokenOk bs sigOk tenant then (Code.tokenInvalid, s)
  else if 64 ≤ rest.length then (Code.consentLimit, s)
  else (Code.ok, s.modRot fun x => { x with tokens := rest ++ [t] })

/-- Bytes of a token: body and signature. -/
def tokenBytes : Nat := 4621

/-- The pieces of a token on a stream. -/
def State.pieces (s : State) (st : Fin 4096) : List Byte := (assocGet st s.rot.assemblies).getD []
def State.setPieces (s : State) (st : Fin 4096) (bs : Option (List Byte)) : State :=
  s.modRot fun x =>
    let rest := x.assemblies.filter fun p => p.1 != st
    { x with assemblies := match bs with | some b => rest ++ [(st, b)] | none => rest }

/-- A piece of a token (R403). A piece longer than what the token has left is out of range. -/
def State.tokenPiece (s : State) (r : Reply) (tenant : BitVec 32) (ws : List Word) (sigOk : Bool) : State :=
  let w := wordAt ws 0
  let off := bits w 63 48
  let have_ := if off = 0 then [] else s.pieces r.stream
  let left := tokenBytes - off
  let data := wordsToBytes (ws.drop 1)
  if bits w 31 0 != 0 then s.complete r Code.reservedNonzero []
  else if off != have_.length || bits w 47 32 != tokenBytes || (left + 7) / 8 * 8 < data.length then
    (s.setPieces r.stream none).complete r Code.valueOutOfRange []
  else
    let bs := have_ ++ data.take left
    if bs.length < tokenBytes then (s.setPieces r.stream (some bs)).complete r Code.ok []
    else
      let (c, s) := (s.setPieces r.stream none).installToken bs sigOk (some tenant)
      s.complete r c []

def infoConsentInstall : CmdInfo := ⟨0x0066, 16, 488, .zeroOrTenant, true, true, false, [], none⟩

/-- CONSENT_INSTALL (R399, R402, R403): from a buffer on stream 0, in pieces on a tenant's stream. -/
def execConsentInstall (src : Src) (req : Req) (sigOk : Bool) (s : State) : Out :=
  .next (s.ilnil infoConsentInstall src req fun r ws s =>
    match r.src with
    | .session n => match s.session? n.val with
      | some x => s.tokenPiece r x.tenant ws sigOk
      | none => s
    | _ =>
      let len := (wordAt ws 1).toNat
      if ws.length != 2 then s.complete r Code.badLength []
      else match s.buffer? r.src (wordAt ws 0).toNat len with
        | none => s.complete r Code.bufferInvalid []
        | some off =>
          if len != tokenBytes then s.complete r Code.valueOutOfRange []
          else
            let (c, s) := s.installToken ((s.ct s.cp.active).mem.read off tokenBytes) sigOk none
            s.complete r c [])

/-- A debug channel with a token no longer in force (R401): it ends, and the trace ring that it holds is free (R457). -/
def State.endToken (s : State) (id : BitVec 256) : State :=
  let mine := fun (k : Nat) => s.rot.debugChans.any fun d => d.id == k && d.token == id
  let s := s.modCp fun c => match c.traceRing with
    | some (.debug k) => if mine k then { c with traceRing := none } else c
    | _ => c
  let mk : DebugChan → DebugChan := fun d => if d.token = id then { d with ended := true } else d
  s.modRot fun x => { x with tokens := x.tokens.filter (fun t => t.id != id), debugChans := x.debugChans.map mk }

/-- TOKEN_IN_FORCE (R399, R478): NOT_BEFORE of a pending token is reached. -/
def execTokenInForce (token : BitVec 256) (s : State) : Out :=
  .next (
    let mk : Token → Token := fun t => if t.id = token then { t with phase := 1 } else t
    s.modRot fun x => { x with tokens := x.tokens.map mk })

/-- TOKEN_EXPIRY (R399, R401): EXPIRY of an installed token is reached. -/
def execTokenExpiry (token : BitVec 256) (s : State) : Out :=
  .next (if s.rot.tokens.any fun t => t.id == token then s.endToken token else s)

def infoConsentRevoke : CmdInfo := ⟨0x0067, 32, 32, .tenant, true, true, false, [], none⟩

/-- CONSENT_REVOKE (R401, R402): only a tenant's own token. -/
def execConsentRevoke (src : Src) (req : Req) (s : State) : Out :=
  .next (s.ilnil infoConsentRevoke src req fun r ws s =>
    let id := wide256 (ws.take 4)
    let own := (s.stream? r.stream.val).map Stream.tenant
    match s.rot.tokens.find? fun t => t.id == id with
    | none => s.complete r Code.valueOutOfRange []
    | some t => if some t.tenant = own then (s.endToken id).complete r Code.ok [] else s.complete r Code.notOwner [])

/-! ## Debug channels (R400, R402, R457) -/

/-- The next debug channel id that is free, from `id` upward, 1 after 65,535. -/
def freeDebug (used : List Nat) : Nat → Nat → Nat
  | 0, id => id
  | fuel + 1, id =>
    let k := if 65535 < id then 1 else id
    if used.contains k then freeDebug used fuel (k + 1) else k

def infoDebugOpen : CmdInfo := ⟨0x0068, 56, 56, .zero, false, true, false, [[], [], [], [], [(47, 0)]], none⟩

/-- DEBUG_OPEN (R400, R457): the ciphertext to the recipient stands first in the operator's buffer. -/
def execDebugOpen (src : Src) (req : Req) (s : State) : Out :=
  .next (s.ilnil infoDebugOpen src req fun r ws s =>
    let id := wide256 (ws.take 4)
    let scope : BitVec 16 := BitVec.ofNat 16 (bits (wordAt ws 4) 63 48)
    let len := (wordAt ws 6).toNat
    match s.buffer? r.src (wordAt ws 5).toNat len with
    | none => s.complete r Code.bufferInvalid []
    | some off => match s.rot.tokens.find? fun t => t.id == id && t.phase == 1 with
      | none => s.complete r Code.denied []
      | some t =>
        if scope &&& ~~~t.scope != 0 then s.complete r Code.denied []
        else if len < 1088 then s.complete r Code.bufferTooSmall []
        else if scope.getLsbD 0 && s.cp.traceRing.isSome then s.complete r Code.busy []
        else
          let k := freeDebug (s.rot.debugChans.map DebugChan.id) 65536 s.rot.nextDebug
          let (n, s) := s.fresh
          let s := s.writeCtl off (leBytes 1088 (Config.encapsulation n))
          let s := if scope.getLsbD 0 then s.modCp fun c => { c with traceRing := some (.debug k) } else s
          let chan : DebugChan := { id := k, token := id, scope := scope, buffer := off, bytes := len, ended := false }
          (s.modRot fun x => { x with debugChans := x.debugChans ++ [chan], nextDebug := k + 1 }).complete r Code.ok [word (put k 48)])

def infoDebugClose : CmdInfo := ⟨0x0069, 8, 8, .zero, true, true, false, [[(47, 0)]], none⟩

/-- DEBUG_CLOSE (R401, R402): a channel that its token's end has closed answers DENIED once. -/
def execDebugClose (src : Src) (req : Req) (s : State) : Out :=
  .next (s.ilnil infoDebugClose src req fun r ws s =>
    let k := bits (wordAt ws 0) 63 48
    match s.rot.debugChans.find? fun d => d.id == k with
    | none => s.complete r Code.valueOutOfRange []
    | some d =>
      let s := s.modRot fun x => { x with debugChans := x.debugChans.filter fun y => y.id != k }
      let s := s.modCp fun c => { c with traceRing := if c.traceRing = some (.debug k) then none else c.traceRing }
      s.complete r (if d.ended then Code.denied else Code.ok) [])

/-! ## Telemetry (R396, R405) -/

/-- Milliwatts in units of 50 W, halves up, as a 16-bit field. -/
def fiftyWatts (mw : Nat) : Nat := min ((mw + 25000) / 50000) 0xffff

/-- Thousandths of a degree in whole degrees, halves up, as a byte; below zero reads 0. -/
def wholeDegrees (m : Int) : Nat := min ((m + 500) / 1000).toNat 0xff

/-- POWER_WINDOW (R396): a 100 ms window ends; means in milliwatts. -/
def execPowerWindow (endTime : Nat) (module : Nat) (cabs : List Nat) (s : State) : Out :=
  .next (
    if endTime % 100000000 != 0 then s
    else { s with telem := { s.telem with powerTime := endTime, modulePower := fiftyWatts module,
                                          cabPower := (List.range 16).map fun i => fiftyWatts (cabs.getD i 0) } })

/-- TEMPERATURE_WINDOW (R396): a 1 s window ends; the highest readings in thousandths of a degree: sixteen compute dies, four edge
dies, two control dies, then the coolant's. -/
def execTemperatureWindow (endTime : Nat) (temps : List Int) (s : State) : Out :=
  .next (
    if endTime % 1000000000 != 0 then s
    else { s with telem := { s.telem with tempTime := endTime, temps := (List.range 24).map fun i => wholeDegrees (temps.getD i 0) } })

/-- A counter as the operator sees it. -/
def coarse (n : Nat) : Nat := n / 1024 * 1024

/-- COUNTER_SAMPLE (R396): the cabinet counters at a 1 s boundary. -/
def execCounterSample (time : Nat) (s : State) : Out :=
  .next (
    if time % 1000000000 != 0 then s
    else
      let one := fun (x : Cabinet) =>
        [x.counters.passes, x.counters.rows, x.counters.tokens, x.counters.done, x.counters.fetches, x.counters.steps].map coarse
      { s with telem := { s.telem with countTime := time, counts := s.cabs.map one } })

/-- Eight bytes as a word, the first lowest. -/
def byteWord (l : List Nat) : Word := word (ofLe (l.map fun n => BitVec.ofNat 8 n))

def infoTelemetryRead : CmdInfo := ⟨0x006a, 8, 8, .zero, false, true, false, [[(59, 0)]], none⟩

/-- The thirteen words of TELEMETRY_READ (R405). -/
def State.telemetryWords (s : State) (c : Cab) : List Word :=
  let t := s.telem
  let b := fun (lo n : Nat) => (t.temps.drop lo).take n
  [ word t.powerTime, word (put t.modulePower 48 + put (t.cabPower.getD c.val 0) 32), word t.tempTime,
    byteWord (b 0 8), byteWord (b 8 8), byteWord ([0, 0] ++ b 20 2 ++ b 16 4), word t.countTime ] ++
    ((List.range 6).map fun i => word ((t.counts.getD c.val []).getD i 0))

/-- TELEMETRY_READ (R405). -/
def execTelemetryRead (src : Src) (req : Req) (s : State) : Out :=
  .next (s.ilnil infoTelemetryRead src req fun r ws s => s.complete r Code.ok (s.telemetryWords (cabOf (wordAt ws 0))))

end Sys2Proof.Machine
end

