-- ==== Sys2Proof/Machine/EdgePort.lean ====
section
/-!
DEFINITION. The edge dies' ports (R27, R479 to R490): received and sent frames, datagrams and fragments, the operator's rings,
and the edge commands.
-/

namespace Sys2Proof.Machine

/-! ## Descriptors of the operator's rings (R486) -/

/-- The session port (R480). -/
def sessionPort : Nat := 28442

/-- A descriptor's two words in the active die's control memory. -/
def State.ringDesc (s : State) (g : ERing) (i : Nat) : Word × Word :=
  let m := (s.ct s.cp.active).mem
  (word (m.num (g.base + 16 * i) 8), word (m.num (g.base + 16 * i + 8) 8))

/-- Bytes at an address of the active die's own control memory region (R408), if they lie within it on a 64-byte boundary. -/
def ownBuffer (addr n : Nat) : Bool := addr % 64 == 0 && decide (addr + n ≤ 0x20_0000_0000)

/-- A ring of an edge die. -/
def State.ring? (s : State) (e : Edge) (k : Nat) : Option ERing :=
  ((s.edge e).rings[k]?).filter fun g => g.installed && s.ctLives s.cp.active

/-- The edge die gives a descriptor back (R486, R487): OWN cleared, the ring moves on, its interrupt source rises. -/
def State.giveBack (s : State) (e : Edge) (k : Nat) (g : ERing) (w1 : Word) : State :=
  let s := s.writeCtl (g.base + 16 * g.nextDesc + 8) (leBytes 8 w1.toNat)
  s.modEdge e fun x =>
    { x with rings := updAt k (fun r => { r with nextDesc := (r.nextDesc + 1) % r.count }) x.rings,
             ringIrqs := if g.irq && !x.ringIrqs.contains k then x.ringIrqs ++ [k] else x.ringIrqs }

def State.countDiscard (s : State) (e : Edge) : State := s.modEdge e fun x => { x with discarded := x.discarded + 1 }
def State.countNoDesc (s : State) (e : Edge) : State := s.modEdge e fun x => { x with rxNoDesc := x.rxNoDesc + 1 }

/-- An operator's frame into its receive ring (R486, R487). -/
def State.toRing (s : State) (e : Edge) (f : Frame) : State :=
  let k := f.hash.toNat % 8
  match s.ring? e k with
  | none => if f.fcsOk then s.countNoDesc e else s.countDiscard e
  | some g =>
    if !f.fcsOk && !g.copyBad then s.countDiscard e
    else
      let (addr, w1) := s.ringDesc g g.nextDesc
      let n := f.content.length
      if !bitAt w1 47 || bits w1 63 48 < n || !ownBuffer addr.toNat n then s.countNoDesc e
      else
        (s.writeCtl addr.toNat f.content).giveBack e k g
          (word (put n 48 + put (b2n (!f.fcsOk)) 46 + f.hash.toNat))

/-! ## Datagrams (R481, R484) -/

/-- A session address of an edge die that a frame names, on the address's VLAN (R480). -/
def State.sessionAddr (s : State) (e : Edge) (v6 : Bool) (a : BitVec 128) (vlan : Option (BitVec 12)) : Bool :=
  (s.edge e).addrs.any fun x => x.enable && x.v6 == v6 && x.addr == a && (match vlan with | some v => x.vlan == v | none => true)

/-- Types of R481 that the module receives: unprotected and protected. -/
def plainType (t : Nat) : Bool := t == 1 || t == 2
def sealedType (t : Nat) : Bool := t == 0x10 || t == 0x11 || t == 0x12

/-- A fragment of an unprotected message (R484): held until the message is whole, which is then delivered by its own command. -/
def State.takeFragment (s : State) (e : Edge) (id : BitVec 32) (i n : Nat) : State :=
  if n = 1 then s
  else
    let old := (s.edge e).frags.find? fun x => x.msgId == id
    match old with
    | some x =>
      if x.total != n then s.countDiscard e
      else
        let got := if x.got.contains i then x.got else x.got ++ [i]
        s.modEdge e fun y =>
          { y with frags := (y.frags.filter fun z => z.msgId != id) ++ (if got.length = n then [] else [{ x with got := got }]) }
    | none => s.modEdge e fun y => { y with frags := y.frags ++ [{ msgId := id, total := n, got := [i] }] }

/-- A datagram's header (R481): one that breaks it is discarded. The record that a protected one carries is taken by DATA, ACK or
CLOSE. -/
def State.takeDatagram (s : State) (e : Edge) (bs : List Byte) : State :=
  let w0 := word (ofLe (bs.take 8))
  let w1 := word (ofLe ((bs.drop 8).take 8))
  let t := bits w0 55 48
  if bs.length < 16 || bits w0 63 56 != 1 || bits w0 34 16 != 0 then s.countDiscard e
  else if plainType t then
    if bits w0 47 35 != 0 || bits w1 31 0 != 0 || bits w0 7 0 < bits w0 15 8 then s.countDiscard e
    else s.takeFragment e (BitVec.ofNat 32 (bits w1 63 32)) (bits w0 15 8) (bits w0 7 0 + 1)
  else if sealedType t then
    let n := bits w0 47 35
    if bits w0 15 0 != 0 || n / 2048 != e.val || (s.session? n).isNone then s.countDiscard e else s
  else s.countDiscard e

/-- FRAME_RECEIVE (R479, R480, R487). -/
def execFrameReceive (ed : Edge) (f : Frame) (s : State) : Out :=
  .next (
    if !(s.edge ed).inService || !(s.edge ed).linkUp then s
    else
      let s := s.modEdge ed fun x => { x with rxFrames := x.rxFrames + 1 }
      if 9216 < f.bytes || f.pause then s.countDiscard ed
      else if f.udp && f.dstPort.toNat == sessionPort && s.sessionAddr ed f.v6 f.dst (some f.vlan) then
        if f.sumsOk && f.fcsOk then s.takeDatagram ed f.datagram else s.countDiscard ed
      else s.toRing ed f)

/-- FRAGMENT_TIMEOUT (R484): an incomplete message is discarded 1 s after its first fragment. -/
def execFragmentTimeout (ed : Edge) (msgId : BitVec 32) (s : State) : Out :=
  .next (s.modEdge ed fun x => { x with frags := x.frags.filter fun y => y.msgId != msgId })

/-! ## Sending (R487) -/

/-- A number in network byte order. -/
def ofBe (bs : List Byte) : Nat := ofLe bs.reverse

/-- The source of a UDP frame and its port: IPv4 or IPv6 behind the Ethernet header and at most one VLAN tag. An address's
first byte is the low byte of the value. -/
def udpSource (bs : List Byte) : Option (Bool × BitVec 128 × Nat) :=
  let tagged := ofBe ((bs.drop 12).take 2) == 0x8100
  let p := bs.drop (if tagged then 18 else 14)
  let kind := ofBe ((bs.drop (if tagged then 16 else 12)).take 2)
  let at_ := fun (i n : Nat) => (p.drop i).take n
  if kind = 0x0800 && ofLe (at_ 9 1) = 17 then
    some (false, BitVec.ofNat 128 (ofLe (at_ 12 4)), ofBe (at_ (4 * (ofLe (at_ 0 1) % 16)) 2))
  else if kind = 0x86dd && ofLe (at_ 6 1) = 17 then some (true, BitVec.ofNat 128 (ofLe (at_ 8 16)), ofBe (at_ 40 2))
  else none

/-- A frame that the operator may not send: its source is a session address with the session port (R487). -/
def State.spoofs (s : State) (bs : List Byte) : Bool :=
  match udpSource bs with
  | some (v6, a, port) => port == sessionPort && (List.finRange 4).any fun e => s.sessionAddr e v6 a none
  | none => false

/-- TX_RING_POLL (R487): the next descriptor of a transmit ring, if the edge die owns it. -/
def execTxRingPoll (ed : Edge) (ring : Fin 8) (s : State) : Out :=
  .next (match s.ring? ed (8 + ring.val) with
    | none => s
    | some g =>
      let (addr, w1) := s.ringDesc g g.nextDesc
      if !(s.edge ed).inService || !(s.edge ed).linkUp || !bitAt w1 47 then s
      else
        let n := bits w1 63 48
        let bs := (s.ct s.cp.active).mem.read addr.toNat n
        let back := fun (s : State) => s.giveBack ed (8 + ring.val) g (word (put n 48))
        if !ownBuffer addr.toNat n || 9212 < n || s.spoofs bs then (back s).countDiscard ed
        else back (s.modEdge ed fun x => { x with out := x.out ++ [.frame ring bs], txFrames := x.txFrames + 1 }))

/-! ## Ports and attachments (R27, R445, R489) -/

/-- LINK_UP (R489): a port's link comes up. -/
def execLinkUp (ed : Edge) (s : State) : Out :=
  .next (if (s.edge ed).inService then s.modEdge ed fun x => { x with linkUp := true } else s)

/-- Every session of an edge die closes (R386). -/
def State.closeEdge (s : State) (e : Edge) (code : Nat) : State :=
  (s.rot.sessions.filter fun x => edgeOf x.n == e).foldl (fun (s : State) x => s.closeSession x.n.val false code) s

/-- EDGE (R27, R386, R445): 0 the port is down, 1 or 2 an attachment is lost; an edge die without attachment leaves service. -/
def execEdgeEvent (ed : Edge) (which : Fin 3) (s : State) : Out :=
  .next (
    if !(s.edge ed).inService then s
    else
      let s := s.modEdge ed fun x =>
        if which = 0 then { x with linkUp := false }
        else { x with attach := x.attach &&& ~~~(BitVec.ofNat 2 (1 <<< (which.val - 1))) }
      let s := s.report { cls := Cls.edge, severity := 2, block := 9, unit := Fin.ofNat 64 ed.val, die := 0, cab := none,
                          d2 := word (put which.val 56), d3 := 0, touched := [] }
      if (s.edge ed).attach = 0 then
        (s.modEdge ed fun x => { x with inService := false, linkUp := false, frags := [] }).closeEdge ed Code.ok
      else s)

/-! ## The edge commands (R488, R489) -/

def infoSetEdgeAddr : CmdInfo := ⟨0x0090, 24, 24, .zero, true, false, true, [[(31, 0)]], none⟩

/-- SET_EDGE_ADDR (R488). -/
def execSetEdgeAddr (src : Src) (req : Req) (s : State) : Out :=
  .next (s.ilnil infoSetEdgeAddr src req fun r ws s =>
    let w := wordAt ws 0
    let e : Edge := Fin.ofNat 4 (bits w 63 62)
    let i := bits w 61 60
    let a : BitVec 128 := BitVec.ofNat 128 (ofLe (wordsToBytes ((ws.drop 1).take 2)))
    let x : EAddr := { v6 := bitAt w 59, enable := bitAt w 58, vlan := BitVec.ofNat 12 (bits w 57 46), frameMax := bits w 45 32,
                       addr := a }
    let used := (List.finRange 4).any fun k => (s.edge k).addrs.zipIdx.any fun p =>
      p.1.enable && p.1.v6 == x.v6 && p.1.addr == a && !(k == e && p.2 == i)
    if !x.v6 && decide (2 ^ 32 ≤ a.toNat) then s.complete r Code.reservedNonzero []
    else if !within 1518 9216 x.frameMax then s.complete r Code.valueOutOfRange []
    else if x.enable && used then s.complete r Code.addressInUse []
    else (s.modEdge e fun y => { y with addrs := updAt i (fun _ => x) y.addrs }).complete r Code.ok [])

/-- OWN of every descriptor of a ring returned to 0 (R488). -/
def State.stopRing (s : State) (g : ERing) : State :=
  if !g.installed then s
  else (List.range g.count).foldl (fun (s : State) i =>
    let w1 := (s.ringDesc g i).2
    if bitAt w1 47 then s.writeCtl (g.base + 16 * i + 8) (leBytes 8 (w1.toNat - 2 ^ 47)) else s) s

def infoSetEdgeRings : CmdInfo := ⟨0x0091, 16, 16, .zero, true, false, true, [[(42, 0)]], none⟩

/-- SET_EDGE_RINGS (R488). -/
def execSetEdgeRings (src : Src) (req : Req) (s : State) : Out :=
  .next (s.ilnil infoSetEdgeRings src req fun r ws s =>
    let w := wordAt ws 0
    let e : Edge := Fin.ofNat 4 (bits w 63 62)
    let k := bits w 61 58
    let n := bits w 55 43
    if !([64, 128, 256, 512, 1024, 2048, 4096].contains n) then s.complete r Code.valueOutOfRange []
    else match s.buffer? r.src (wordAt ws 1).toNat (16 * n) with
      | none => s.complete r Code.bufferInvalid []
      | some off =>
        let g : ERing := { installed := true, base := off, count := n, irq := bitAt w 57, copyBad := bitAt w 56, nextDesc := 0 }
        let s := s.stopRing ((s.edge e).rings.getD k ERing.reset)
        (s.modEdge e fun x => { x with rings := updAt k (fun _ => g) x.rings }).complete r Code.ok [])

/-- A frame count as the operator sees it, in 32 bits. -/
def frameCount (n : Nat) : Nat := coarse (min n (2 ^ 32 - 1))

/-- The EDGE_STATUS record (R489). -/
def State.edgeWords (s : State) (e : Edge) : List Word :=
  let x := s.edge e
  let n := (s.rot.sessions.filter fun y => edgeOf y.n == e).length
  let cap := fun (k : Nat) => min k (2 ^ 32 - 1)
  [ word (put (b2n x.linkUp) 63 + put x.pmd.val 61 + put x.attach.toNat 59 + put (n / 64 * 64) 47),
    word (put (cap x.fecCorrected) 32 + cap x.fecUncorrected), word (put (frameCount x.rxFrames) 32 + frameCount x.rxNoDesc),
    word (put (frameCount x.discarded) 32 + frameCount x.txFrames) ]

def infoEdgeStatus : CmdInfo := ⟨0x0092, 8, 8, .zero, true, false, true, [[(61, 0)]], none⟩

/-- EDGE_STATUS (R489). -/
def execEdgeStatus (src : Src) (req : Req) (s : State) : Out :=
  .next (s.ilnil infoEdgeStatus src req fun r ws s =>
    s.complete r Code.ok (s.edgeWords (Fin.ofNat 4 (bits (wordAt ws 0) 63 62))))

end Sys2Proof.Machine
end

