-- ==== Sys2Proof/Machine/Sessions.lean ====
section
/-!
DEFINITION. Sessions at the edge dies (R382 to R387, R481 to R485): opening, protected records, acknowledgements, resends, closing.
-/

namespace Sys2Proof.Machine

/-! ## Opening (R382 to R384, R484) -/

/-- The key id that a tenant's sessions must show (R381): its glove's, else its entry's. -/
def State.boundKey (s : State) (t : BitVec 32) : Option (BitVec 512) :=
  match assocGet t s.rot.tenants with
  | none => none
  | some k => some (((s.tenantGlove? t).map Glove.keyId).getD k)

/-- A session number of an edge die that is free, and whose channel owes no answer. -/
def State.freeSession (s : State) (e : Edge) : Option Nat :=
  (firstFree (fun n => (s.session? (2048 * e.val + n)).isSome ||
    (s.chan (4096 + 2048 * e.val + n)).any fun j => j.phase != 2) 2048 0).map fun n => 2048 * e.val + n

/-- The transcript hash of SESSION_INIT (R383). -/
def transcript (m : SessionInit) (ek : List Byte) : List Byte :=
  shake256 (ascii "tk9-session" ++ leBytes 4 m.tenant.toNat ++ leBytes 1 m.cab.val ++ bytes256 m.nonce ++ m.ct ++ m.pk ++
    shake256 ek 64) 64

/-- SESSION_ACCEPT (R382, R383): the session number, MODULE_NONCE, CONFIRM. -/
def acceptBytes (m : SessionInit) (ek : List Byte) (serial n : Nat) (nonce : BitVec 256) : List Byte :=
  let th := transcript m ek
  let ss := bytes256 (Config.kemSecret serial m.ct)
  let okm := shake256 (ascii "tk9-session-keys" ++ ss ++ th ++ bytes256 nonce) 104
  leBytes 2 n ++ zeroBytes 6 ++ bytes256 nonce ++ shake256 (okm.drop 72 ++ th ++ bytes256 nonce ++ leBytes 2 n) 32

/-- An unprotected message leaves an edge die for the sender of `m`. -/
def State.sendPlain (s : State) (e : Edge) (m : SessionInit) (type : Nat) (bs : List Byte) : State :=
  s.modEdge e fun x => { x with out := x.out ++ [.plain m.src m.srcPort type m.msgId bs], txFrames := x.txFrames + 1 }

/-- SESSION_REJECT (R382, R481): the code, then four reserved bytes. -/
def State.reject (s : State) (e : Edge) (m : SessionInit) (code : Nat) : State :=
  s.sendPlain e m 4 (leBytes 4 code ++ zeroBytes 4)

/-- A session opened within the last 10 s by the same TENANT_NONCE and ct (R484). -/
def State.repeated (s : State) (e : Edge) (m : SessionInit) : Option Session :=
  s.rot.sessions.find? fun x =>
    edgeOf x.n == e && x.nonce == m.nonce && x.ct == m.ct && decide (s.now ≤ s.stamp x.opened + 10000000000)

/-- A session slot taken (R382 step 3). -/
def State.openSession (s : State) (m : SessionInit) (n : Nat) : State :=
  let (k, s) := s.fresh
  let bs := acceptBytes m (leBytes 1184 (Config.sessionEk s.rot.ekSerial)) s.rot.ekSerial n (Config.random k)
  let x : Session :=
    { n := Fin.ofNat 8192 n, tenant := m.tenant, cab := m.cab, nonce := m.nonce, ct := m.ct, keyId := digest512 m.pk, answer := bs,
      opened := s.now, draining := false, rxHigh := none, seen := [], rxNext := 0, ackHigh := none, txNext := 0, txAckNext := 0,
      unacked := [], toSend := [], inbox := [], ackDue := false, discarded := 0, src := m.src, srcPort := m.srcPort, eventMseq := 0, served := [] }
  s.modRot fun r => { r with sessions := r.sessions ++ [x] }

/-- SESSION_INIT (R382, R484). -/
def execSessionInit (ed : Edge) (m : SessionInit) (s : State) : Out :=
  .next (
    if !(s.edge ed).inService || !(s.edge ed).linkUp || !s.ctServes s.cp.active then s
    else match s.repeated ed m with
      | some x => s.sendPlain ed m 3 x.answer
      | none => match s.boundKey m.tenant with
        | none => s.reject ed m Code.tenantUnknown
        | some key =>
          if key != digest512 m.pk || !m.sigOk then s.reject ed m Code.sessionAuthFailed
          else match s.freeSession ed with
            | none => s.reject ed m Code.sessionLimit
            | some n =>
              let s := s.openSession m n
              s.sendPlain ed m 3 (((s.session? n).map Session.answer).getD []))

/-! ## Records (R385, R482, R483) -/

/-- A counter that the receiver has acknowledged. -/
def ackCovers (a : AckFields) (c : Nat) : Bool :=
  decide (c < a.next.toNat) ||
    (decide (a.next.toNat < c) && decide (c ≤ a.next.toNat + 64) && bitAt a.map (c - a.next.toNat - 1))

/-- The acknowledgement fields of a record: what it covers is held no more, and what waited is sent. -/
def State.takeAck (s : State) (n : Nat) (a : AckFields) : State :=
  (s.modSession n fun x => { x with unacked := x.unacked.filter fun u => !ackCovers a u.counter }).sendWaiting n 64

/-- The lowest counter not received. -/
def lowestMissing (seen : List Nat) : Nat → Nat → Nat
  | 0, n => n
  | fuel + 1, n => if seen.contains n then lowestMissing seen fuel (n + 1) else n

/-- A DATA or CLOSE counter that the receiver accepts (R385): not seen, at most 63 below the highest. -/
def Session.takes (x : Session) (c : Nat) : Bool :=
  !x.seen.contains c && (match x.rxHigh with | some h => decide (h ≤ c + 63) | none => true)

/-- A DATA or CLOSE counter accepted. -/
def Session.receive (x : Session) (c : Nat) : Session :=
  let high := max c (x.rxHigh.getD c)
  let seen := (x.seen ++ [c]).filter fun k => decide (high ≤ k + 63)
  { x with rxHigh := some high, seen := seen, rxNext := lowestMissing seen 65 x.rxNext, ackDue := true }

/-- A session whose sending direction has run out of counters closes (R385). -/
def State.exhaust (s : State) (n : Nat) : State :=
  match s.session? n with
  | some x => if 2 ^ 48 ≤ x.txNext || 2 ^ 48 ≤ x.txAckNext then s.closeSession n true Code.sessionExhausted else s
  | none => s

/-- A record whose tag verified names the tenant's present source (R485). -/
def State.fromSource (s : State) (r : Record) : State :=
  s.modSession r.session.val fun x => { x with src := r.src, srcPort := r.srcPort }

def State.discardRecord (s : State) (n : Nat) : State := s.modSession n fun x => { x with discarded := x.discarded + 1 }

/-- An open session whose edge die is in service. -/
def State.liveSession (s : State) (r : Record) : Option Session :=
  if (s.edge (edgeOf r.session)).inService then s.session? r.session.val else none

/-- A DATA or CLOSE record (R385): discarded, or received and given to `f`. One that was seen is acknowledged again. -/
def State.sealedRecord (s : State) (r : Record) (f : State → State) : State :=
  let n := r.session.val
  let c := r.counter.toNat
  match s.liveSession r with
  | none => s
  | some x =>
    if !r.tagOk || 2 ^ 63 ≤ c then s.discardRecord n
    else
      let s := s.fromSource r
      if !x.takes c then (s.discardRecord n).modSession n fun y => { y with ackDue := true }
      else if 2 ^ 48 ≤ c then s.closeSession n true Code.sessionExhausted
      else f ((s.modSession n fun y => y.receive c).takeAck n r.ack)

/-- The messages of a record as the side takes them (R482): one with a bad LENGTH is taken as its header, and all after it is
discarded; one too short for a header is counted as discarded. -/
def takeMessages : List (List Word) → List (List Word) × Nat
  | [] => ([], 0)
  | m :: rest =>
    let len := bits (wordAt m 0) 15 0
    if m.length < 2 then ([], 1)
    else if len % 8 != 0 || 496 < len || m.length != 2 + len / 8 then ([m.take 2], 0)
    else
      let (l, n) := takeMessages rest
      (m :: l, n)

/-- DATA (R482): its messages join the session's requests in order; `rest` bytes after them are too few for a header. -/
def execDataRecord (r : Record) (msgs : List (List Word)) (rest : Nat) (s : State) : Out :=
  .next (s.sealedRecord r (fun s =>
    let (l, bad) := takeMessages msgs
    (s.modSession r.session.val fun x =>
      { x with inbox := x.inbox ++ l, discarded := x.discarded + bad + (if rest = 0 then 0 else 1) }).exhaust r.session.val))

/-- ACK (R482): accepted only above every ACK counter accepted before. -/
def execAckRecord (r : Record) (s : State) : Out :=
  .next (
    let n := r.session.val
    let c := r.counter.toNat
    match s.liveSession r with
    | none => s
    | some x =>
      if !r.tagOk || c < 2 ^ 63 then s.discardRecord n
      else
        let s := s.fromSource r
        if (match x.ackHigh with | some h => decide (c ≤ h) | none => false) then s.discardRecord n
        else if 2 ^ 63 + 2 ^ 48 ≤ c then s.closeSession n true Code.sessionExhausted
        else ((s.modSession n fun y => { y with ackHigh := some c }).takeAck n r.ack).exhaust n)

/-- CLOSE (R386): the tenant's close record. -/
def execCloseRecord (r : Record) (s : State) : Out :=
  .next (s.sealedRecord r (fun s => s.closeSession r.session.val false Code.ok))

/-- RECORD_RESEND (R483): a record still unacknowledged goes again, byte for byte; the interval doubles up to 50 ms. -/
def execRecordResend (session : Sess) (counter : Word) (s : State) : Out :=
  .next (match s.session? session.val with
    | none => s
    | some x => match x.unacked.find? fun u => u.counter == counter.toNat with
      | none => s
      | some u =>
        if !(s.edge (edgeOf session)).inService then s
        else
          let rec_ : EdgeOut := .record session (if u.close then 0x12 else 0x10) counter u.ackNext u.ackMap u.msgs x.src x.srcPort
          let s := s.modEdge (edgeOf session) fun e => { e with out := e.out ++ [rec_], txFrames := e.txFrames + 1 }
          let mk : SentRecord → SentRecord := fun v => { v with sends := v.sends + 1, intervalUs := min 50000 (2 * v.intervalUs) }
          s.modSession session.val fun y => { y with unacked := updFirst (fun v => v.counter == u.counter) mk y.unacked })

/-- ACK_TIMER (R483): no DATA record was sent within 20 µs of a received one. -/
def execAckTimer (session : Sess) (s : State) : Out :=
  .next (match s.session? session.val with
    | none => s
    | some x =>
      if !x.ackDue || !(s.edge (edgeOf session)).inService then s
      else
        ((s.sendRecord x 0x11 (2 ^ 63 + x.txAckNext) []).modSession session.val fun y =>
          { y with txAckNext := y.txAckNext + 1 }).exhaust session.val)

end Sys2Proof.Machine
end

