-- ==== Sys2Proof/Machine/Faults.lean ====
section
/-!
DEFINITION. Fault reports (R443 to R451), standing policies (R449, R450), the error log (R462), claims (R457, R458), junction
sensors and the thermal trip (R456).
-/

namespace Sys2Proof.Machine

/-! ## Policies and the log -/

/-- Policies that count reports, and those with a window (R449). -/
def policyCounts (n : Nat) : Bool := n == 1 || n == 2 || n == 6 || n == 7
def policyWindow (n : Nat) : Bool := n == 1 || n == 2 || n == 6

def infoSetPolicy : CmdInfo := ⟨0x0080, 16, 16, .zero, true, false, false, [[(54, 32)], [(31, 0)]], none⟩

/-- SET_POLICY (R450): counts already gathered stay. -/
def execSetPolicy (src : Src) (req : Req) (s : State) : Out :=
  .next (s.ilnil infoSetPolicy src req fun r ws s =>
    let n := bits (wordAt ws 0) 63 56
    let threshold := bits (wordAt ws 0) 31 0
    let window := bits (wordAt ws 1) 63 32
    if !within 1 9 n || (policyCounts n && threshold == 0) || (policyWindow n && window == 0) then
      s.complete r Code.valueOutOfRange []
    else
      let p : Policy := { on := bitAt (wordAt ws 0) 55, threshold := if policyCounts n then threshold else 0,
                          window := if policyWindow n then window else 0 }
      (s.modCp fun c => { c with policies := updAt (n - 1) (fun _ => p) c.policies }).complete r Code.ok [])

/-- The oldest ENTRY_SEQ that a log holds; the next one where it holds none. -/
def CtDie.oldestSeq (x : CtDie) : BitVec 32 := x.logSeq - BitVec.ofNat 32 x.log.length

/-- The index of the entry from which a read starts (R462). -/
def CtDie.logStart (x : CtDie) (from_ : BitVec 32) : Nat :=
  let i := (from_ - x.oldestSeq).toNat
  if i < x.log.length then i else if i < 2 ^ 31 then x.log.length else 0

def infoErrorLogRead : CmdInfo := ⟨0x0081, 24, 24, .zero, true, false, false, [[], [], [(62, 32)]], none⟩

/-- ERROR_LOG_READ (R462). -/
def execErrorLogRead (src : Src) (req : Req) (s : State) : Out :=
  .next (s.ilnil infoErrorLogRead src req fun r ws s =>
    let w := wordAt ws 2
    let c : Ct := Fin.ofNat 2 (b2n (bitAt w 63))
    let len := (wordAt ws 1).toNat
    match s.buffer? r.src (wordAt ws 0).toNat len with
    | none => s.complete r Code.bufferInvalid []
    | some off =>
      let x := s.ct c
      let i := x.logStart (BitVec.ofNat 32 (bits w 31 0))
      let part := (x.log.drop i).take (len / 64)
      let after := x.oldestSeq + BitVec.ofNat 32 (i + part.length)
      let fresh := !part.isEmpty && decide ((after - x.logRead).toNat < 2 ^ 31)
      let s := s.writeCtl off (part.flatMap wordsToBytes)
      let s := s.modCt c fun y => { y with logRead := if fresh then after else y.logRead }
      s.complete r Code.ok [word (put part.length 32 + x.oldestSeq.toNat)])

/-! ## Reports -/

/-- SEVERITY of a class (R445); of LINK and RESERVE as reported, of POLICY_ACTION by its action. -/
def severityOf (cls : Nat) (told : Fin 4) : Fin 4 :=
  if [1, 3, 4, 14, 17, 18, 20].contains cls then 0
  else if [2, 5, 6, 7, 8, 19].contains cls then 1
  else if [9, 11, 12, 13, 16].contains cls then 2
  else if cls = 15 then 3
  else told

/-- Results of work that a fault may have touched are withheld (R108, R353, R444): rows wait for the die's next pass, a step is
discarded, a job ends. -/
def State.contain (s : State) (d : Die) (t : Touch) : State :=
  match t.request, t.run with
  | some i, _ => s.unseat d fun r => r.request == some i
  | none, some id => s.dropStep id Code.dataUncorrectable
  | none, none => (s.stopJob t.stream t.jobSeq Code.dataUncorrectable []).settleJob t.stream t.jobSeq

/-- FAULT_REPORT (R446, R451): a report reaches the command processor. -/
def execFaultReport (r : Report) (s : State) : Out :=
  .next (
    if !s.cpRuns || !within 1 22 r.cls || r.cls = Cls.heartbeatLost || r.cls = Cls.thermalTrip || r.cls = Cls.policyAction ||
      r.cls = Cls.reserve then s
    else
      let s := if r.cls = Cls.storeUncorrectable || r.cls = Cls.logic then
          r.touched.dedup.foldl (fun (s : State) t => s.contain r.die t) s
        else s
      s.report { r with severity := severityOf r.cls r.severity })

/-- A link that the module has (R21, R27, R446): lattice link 0 to 23, or the attachments of an edge or control die, which are reported
under that die's block (assumption 76). -/
def isLink (block : Fin 16) (unit : Fin 64) : Bool :=
  (block == 7 && decide (unit.val < latticeLinks.length)) || (block == 9 && decide (unit.val < 4)) ||
    (block == 10 && decide (unit.val < 2))

/-- LINK (R445): CRC errors replayed in the last second, or the link is down. -/
def execLinkEvent (block : Fin 16) (unit : Fin 64) (replays : BitVec 32) (down : Bool) (s : State) : Out :=
  .next (
    if !s.cpRuns || !isLink block unit then s
    else s.report { cls := Cls.link, severity := if down then 2 else 0, block := block, unit := unit, die := 0, cab := none,
                    d2 := word (put replays.toNat 32), d3 := 0, touched := [] })

/-! ## Claims (R457, R458) -/

def timerWord (d : Die) (t : Fin 4) : Word := word (put d.val 60 + put t.val 58)

/-- What CLAIM and RELEASE name: the codes that R458 gives kinds that cannot be claimed. -/
def State.claimCode (s : State) (r : Reply) (kind : Nat) : Option Nat :=
  let tenant := ((s.stream? r.stream.val).map fun x => x.owner == 1).getD false
  if kind = 1 then some Code.wrongStream
  else if kind = 0 then (if tenant then some Code.denied else none)
  else if kind = 2 then none
  else some Code.valueOutOfRange

def infoClaim : CmdInfo := ⟨0x0083, 24, 24, .zeroOrOwn, true, false, true, [[(53, 0)]], none⟩

/-- CLAIM (R457, R458). -/
def execClaim (src : Src) (req : Req) (s : State) : Out :=
  .next (s.ilnil infoClaim src req fun r ws s =>
    let w := wordAt ws 0
    let kind := bits w 63 60
    match s.claimCode r kind with
    | some c => s.complete r c []
    | none =>
      if kind = 0 then
        if s.cp.traceRing.isSome then s.complete r Code.busy []
        else (s.modCp fun c => { c with traceRing := some (.stream r.stream) }).complete r Code.ok []
      else
        let t : TimerClaim :=
          { die := Fin.ofNat 16 (bits w 59 56), timer := Fin.ofNat 4 (bits w 55 54), stream := r.stream, due := (wordAt ws 1).toNat,
            period := (wordAt ws 2).toNat, armed := true, count := 0 }
        if s.cp.timers.any fun x => x.die == t.die && x.timer == t.timer then s.complete r Code.busy []
        else (s.modCp fun c => { c with timers := c.timers ++ [t] }).complete r Code.ok [])

def infoRelease : CmdInfo := ⟨0x0084, 24, 24, .zeroOrOwn, true, false, true, [[(53, 0)]], none⟩

/-- RELEASE (R457, R458). -/
def execRelease (src : Src) (req : Req) (s : State) : Out :=
  .next (s.ilnil infoRelease src req fun r ws s =>
    let w := wordAt ws 0
    let kind := bits w 63 60
    match s.claimCode r kind with
    | some c => s.complete r c []
    | none =>
      if kind = 0 then
        if s.cp.traceRing = some (.stream r.stream) then
          (s.modCp fun c => { c with traceRing := none }).complete r Code.ok []
        else s.complete r Code.notClaimed []
      else
        let mine := fun (x : TimerClaim) => x.die.val == bits w 59 56 && x.timer.val == bits w 55 54 && x.stream == r.stream
        if s.cp.timers.any mine then
          (s.modCp fun c => { c with timers := c.timers.filter fun x => !mine x }).complete r Code.ok []
        else s.complete r Code.notClaimed [])

/-- A claimed timer expires: TIMER on the claiming stream (R448, R458); the next expiry follows by PERIOD. -/
def State.expireTimer (s : State) (x : TimerClaim) (base : Nat) : State :=
  let mk : TimerClaim → TimerClaim := fun y =>
    if y.die = x.die ∧ y.timer = x.timer then
      { y with count := y.count + 1, armed := decide (y.period ≠ 0), due := base + y.period }
    else y
  (s.modCp fun c => { c with timers := c.timers.map mk }).postStream Event.timer x.stream
    [timerWord x.die x.timer, word (x.count + 1)]

/-- GENERAL_TIMER_EXPIRY (R458). -/
def execGeneralTimerExpiry (die : Die) (timer : Fin 4) (s : State) : Out :=
  .next (match s.cp.timers.find? fun x => x.die == die && x.timer == timer with
    | some x => if x.armed then s.expireTimer x x.due else s
    | none => s)

/-! ## Junction sensors (R456) -/

/-- The report of a sensor. -/
def sensorReport (x : Sensor) (cls : Nat) (sev : Fin 4) : Report :=
  { cls := cls, severity := sev, block := x.block, unit := x.unit, die := x.die, cab := none,
    d2 := word (put x.sensor.toNat 56), d3 := 0, touched := [] }

/-- THERMAL_WARN (R456): a sensor reaches 105 °C. -/
def execThermalWarn (x : Sensor) (s : State) : Out :=
  .next (
    if !s.cpRuns then s
    else (s.modCp fun c => { c with warm := if c.warm.contains x then c.warm else c.warm ++ [x] }).report
      (sensorReport x Cls.thermalWarn 0))

/-- THERMAL_WARN_REPEAT (R456): a sensor stays at or above 105 °C for a further second. -/
def execThermalWarnRepeat (x : Sensor) (s : State) : Out :=
  .next (if s.cpRuns && s.cp.warm.contains x then s.report (sensorReport x Cls.thermalWarn 0) else s)

/-! ## The thermal trip (R456, R472) -/

/-- The source of a channel number on a control die. -/
def keySrc (c : Ct) (k : Nat) : Src :=
  if k < 64 then .pigeon c (Fin.ofNat 32 k) else if k < 4096 then .tray c (Fin.ofNat 56 (k - 64)) else .session (Fin.ofNat 8192 (k - 4096))

/-- Requests that the journal holds unanswered, but for the jobs'. -/
def State.openReplies (s : State) : List Reply :=
  s.cp.chans.flatMap fun p => (p.2.filter fun j => j.phase != 2 && j.opcode != 0x22).map fun j =>
    { src := keySrc s.cp.active p.1, mseq := j.mseq, stream := j.stream, opcode := j.opcode }

/-- No table waits to answer a request any more; what such requests had begun ends. -/
def State.forgetReplies (s : State) : State :=
  let cab : Cabinet → Cabinet := fun c =>
    let x := { c with mountReply := none, unmount := none, cacheReplies := [] }
    if x.state = 2 || x.state = 4 || x.state = 5 then { x with state := 1, shelf := none, split := [], serving := none } else x
  let gl : Glove → Glove := fun g =>
    if 6 ≤ g.phase.val then { g with replies := [], waiting := [] }
    else { g with replies := [], waiting := [], phase := 0, prevHeld := false, prevPages := 0 }
  { s with
    cp := { s.cp with heldCmds := [], resets := [] }
    cabs := s.cabs.map cab
    streams := s.streams.map fun (x : Stream) => { x with closing := [] }
    slots := s.slots.map fun (x : Slot) => { x with evictReplies := [] }
    fetches := []
    runs := s.runs.map fun (x : Run) => { x with reply := none, stopReply := none }
    stores := s.stores.map fun (x : Store) => { x with reply := none }
    rot := { s.rot with gloves := s.rot.gloves.map gl } }

/-- The data plane without power: its contents are lost (R456). -/
def State.darkData (s : State) : State :=
  let die : DieSt → DieSt := fun x =>
    { x with inService := false, pass := none, arrived := [], onLink := [], again := [], tokensOnWay := [], blocks := [], queue := [], packets := [] }
  let stk : StackSt → StackSt := fun x => { x with inService := false, cache := [], scrub := [] }
  let edge : EdgeSt → EdgeSt := fun x => { x with inService := false, linkUp := false, frags := [] }
  let red : Reduction → Reduction := fun x =>
    if x.state = 0 then { x with state := 2, cause := Code.thermalTripped, items := [], acc := none } else x
  { s with
    dies := s.dies.map die, hbm := s.hbm.map stk, edges := s.edges.map edge, reductions := s.reductions.map red
    clusters := [], tiles := [], grants := [], flights := [], vengines := allVengines, residencies := [], xclaims := [], tensors := []
    programs := [], pages := [], mem := [], merges := []
    cp := { s.cp with tripped := true, timers := [] }
    power := { s.power with dataRails := false, thermTripN := false, throttle := 0 } }

/-- The trip of the data plane (R456): every outstanding job and request ends with THERMAL_TRIPPED. -/
def State.tripData (s : State) : State :=
  let code := Code.thermalTripped
  let rs := s.openReplies
  let s := s.forgetReplies.completeAll rs code []
  let s := (s.endRequests (fun _ => true) code).endJobs (fun _ => true) code
  let s := (s.runs.filter fun r => decide (r.state.val ≤ 4)).foldl (fun (s : State) r => s.runFail r.id code) s
  let s := (List.finRange 4).foldl (fun (s : State) e => s.closeEdge e code) s
  let s := s.darkData
  (s.rot.gloves.filter fun g => decide (6 ≤ g.phase.val)).foldl (fun (s : State) g => (s.settleClose g.tenant).gloveStep g.id 6) s

end Sys2Proof.Machine
end

