-- ==== Sys2Proof/Machine/Panels.lean ====
section
/-!
DEFINITION. The operands of matrix ops as the stream units deliver them: rows of the row region and weights by format (R92, R131, R132,
R495), tensors held on the die (R93, R182), drawer factors (R94, R96), weight panels with their traversal, their shared read and the two
buffers of a cluster (R88 to R92), the pieces in the drawer lines (R98).
-/

namespace Sys2Proof.Machine

/-! ## Elements -/

/-- Element codes with their block scales (R131, R154). -/
def decodeRow (fmt : Nat) (codes scales : List Nat) : List Elem :=
  codes.zipIdx.map fun p => ⟨p.1, if isMx fmt then mxVal fmt p.1 (scales.getD (p.2 / 32) 0x7f) else elemVal fmt p.1⟩

/-- Row `p` of the row operand as it lies in the row region (R112, R132, R495): an INT8 element times its channel scale. -/
def ClusterSt.row (x : ClusterSt) (d : MDesc) (p : Nat) : List Elem :=
  let base := (d.rowAddr + p * d.rowStride) * 64
  let n := packedBytes d.fmtA d.k
  let packed := x.rowMem.num base n
  let codes := (List.range d.k).map (codeAt d.fmtA packed)
  if isMx d.fmtA then decodeRow d.fmtA codes ((x.rowMem.read (base + pad64 n) (cdiv d.k 32)).map BitVec.toNat)
  else if d.fmtA = 11 then
    let at_ := (d.rowAddr + d.rowCount * d.rowStride) * 64
    codes.zipIdx.map fun c => ⟨c.1, (elemVal 11 c.1).mul (fFP32.dec (x.rowMem.num (at_ + 4 * c.2) 4))⟩
  else decodeRow d.fmtA codes []

/-- A value expanded into BF16 (R92): clipped beyond the range, NaN canonical; and the values clipped. -/
def expandCode (v : FV) : Nat × Nat :=
  let (c, k) := roundBf16 v Counts.zero
  (c, k.overflow)

/-- A value expanded into BF16 as an element. -/
def expand (v : FV) : Elem := ⟨(expandCode v).1, fBF16.dec (expandCode v).1⟩

/-- Formats that a transposed read expands into BF16 (R92). -/
def expands (fmt : Nat) : Bool := isMx fmt || fmt == 11

/-- Element (k, j) of an operand read transposed: its block scale runs along the original K, its channel scale along the
new K (R92, R181). -/
def transVal (fmt : Nat) (w : Weights) (code k j : Nat) : FV :=
  if isMx fmt then mxVal fmt code ((w.scales.getD k []).getD (j / 32) 0x7f)
  else (elemVal fmt code).mul (fFP32.dec (w.chan.getD k 0x3f800000))

/-- Output column `j` of the weight operand: K elements (R88, R92). -/
def weightCol (d : MDesc) (w : Weights) (j : Nat) : List Elem :=
  let col := w.cols.getD j []
  let codes := (List.range d.k).map fun k => col.getD k 0
  if d.trans && expands d.fmtB then codes.zipIdx.map fun c => expand (transVal d.fmtB w c.1 c.2 j)
  else decodeRow d.fmtB codes (w.scales.getD j [])

/-- The finite values that the expansion of a transposed operand clips (R92). -/
def expandClips (fmt : Nat) (trans : Bool) (w : Weights) : Nat :=
  if trans && expands fmt then
    (w.cols.zipIdx.map fun c => (c.1.zipIdx.map fun e => (expandCode (transVal fmt w e.1 e.2 c.2)).2).sum).sum
  else 0

/-! ## Operands in tensors (R93, R132, R182, R495) -/

/-- Row `r` of a tensor with rows of `n` elements: codes and block scales (R132, R495). -/
def tensorRow (fmt n : Nat) (bs : List Byte) (r : Nat) : List Nat × List Nat :=
  let at_ := bs.drop (r * rowBytes fmt n)
  let packed := packedBytes fmt n
  ((List.range n).map (codeAt fmt (ofLe (at_.take packed))),
    if isMx fmt then ((at_.drop (pad64 packed)).take (cdiv n 32)).map BitVec.toNat else [])

/-- A weight tensor has a row per output column when its blocks' scales must run along K, else a row per element of K; read
transposed, its rows are those of the operand as it stands (R92, R131, R495; DESIGN CHOICE, assumption 80). -/
def MDesc.byCols (d : MDesc) : Bool := isMx d.fmtB != d.trans

/-- The weights that a tensor holds for a descriptor. -/
def tensorWeights (d : MDesc) (bs : List Byte) : Weights :=
  let (rows, len) := if d.byCols then (d.n, d.k) else (d.k, d.n)
  let rs := (List.range rows).map (tensorRow d.fmtB len bs)
  let chan := (List.range len).map fun i => ofLe ((bs.drop (rows * rowBytes 11 len + 4 * i)).take 4)
  { cols := if d.byCols then rs.map Prod.fst else (List.range d.n).map fun j => rs.map fun r => r.1.getD j 0,
    scales := if isMx d.fmtB then rs.map Prod.snd else [],
    chan := if d.fmtB = 11 then chan else [] }

/-- A tensor that a descriptor names, as its bytes and the format in which they lie where that is known: of the program's tensors or of
the stream's. -/
def State.heldTensor? (s : State) (x : Issue) (die : Die) (h : Nat) : Option (List Byte × Option Nat) :=
  if h = 0 then none
  else match (x.job.bind s.jobProgram?).bind fun p => p.tensors.find? fun t => t.handle.toNat == h with
    | some t => some ((t.data ++ List.replicate (t.bytes - t.data.length) 0).take t.bytes, some t.fmt)
    | none => (s.tensor? x.st (BitVec.ofNat 32 h) die).map fun t => (t.data.read 0 t.bytes, t.fmt)

/-- The operands of an issue: what the tensors named hold, where the die holds them in a known format; else what comes with the
issue (assumption 37). -/
def State.operands (s : State) (x : Issue) (m : MatIssue) : MatIssue :=
  let d := mdesc m.words
  let w := match d.bsrc, s.heldTensor? x m.die d.bTensor with
    | 1, some t => tensorWeights d t.1
    | _, _ => m.weights
  let b : BiasOp := match s.heldTensor? x m.die d.bias with
    | some (bs, some f) => { fmt := f, codes := (List.range d.n).map (codeAt f (ofLe (bs.take (packedBytes f d.n)))) }
    | _ => m.bias
  let e : ElemOp := match s.heldTensor? x m.die d.eTensor with
    | some (bs, some f) => { fmt := f, rows := (List.range (cdiv bs.length (rowBytes f d.n))).map fun r => (tensorRow f d.n bs r).1 }
    | _ => m.elems
  { m with weights := w, bias := b, elems := e }

/-! ## Drawer factors (R94, R96) -/

/-- The parameters that a die's passes read of a run (R283): the shadow once the die has switched and another has not. -/
def Run.paramsOn (r : Run) (d : Die) : List ParamState :=
  let sw := ((r.perDie.find? fun x => x.die == d).map RunDie.switched).getD true
  if (r.perDie.any fun x => !x.switched) && sw then r.shadow else r.current

/-- The image of a slot as a die's pass reads it: that of the residency on its group; of a run slot, with the run's parameters. -/
def State.imageOn (s : State) (c : Cab) (n : Nat) (d : Die) : Option DrawerImage :=
  match s.slot? c n with
  | none => none
  | some x =>
    let held := ((s.residency? c n (groupOf (s.cab c).span d)).bind Residency.image).orElse fun _ => x.image
    held.map fun img => match x.run.bind s.run? with
      | some r => s.withParams c img (r.paramsOn d)
      | none => img

/-- The side path of one row: the columns of the first factor (one a rank), the rows of the second by rank, α (R94, R96). -/
structure Side where
  one : List (List Nat)
  two : List (List Nat)
  alpha : Nat
  deriving DecidableEq, Repr

/-- Column `j` of a matrix given by rows. -/
def colOf (rows : List (List Nat)) (j : Nat) : List Nat := rows.map fun r => r.getD j 0

/-- The drawer factors of a slot for a projection; none where the drawer does not adapt it (R228). -/
def State.sideFor (s : State) (c : Cab) (n : Nat) (d : Die) (layer proj : Nat) (trans : Bool) : Option Side :=
  match s.imageOn c n d with
  | none => none
  | some img =>
    match (projsOf img).zipIdx.find? fun p => p.1.1 == layer && p.1.2.1 == proj with
    | none => none
    | some p => (img.factors[p.2]?).map fun f =>
      let r := rankOf img
      let cols := (List.range r).map (colOf f.a)
      if trans then { one := f.b, two := cols, alpha := alphaOf img } else { one := cols, two := f.b, alpha := alphaOf img }

def State.sideOf (s : State) (c : Cab) (n : Nat) (d : Die) (m : MDesc) : Option Side := s.sideFor c n d m.layer m.proj m.trans

/-! ## Panels (R88 to R90) -/

/-- Bytes of a panel (R88). -/
def panelBytes (fmt : Nat) : Nat := 512 * 512 * elemBits fmt / 8 + (if isMx fmt then 8192 else 0)

/-- Whole panels that a 2 MiB buffer holds, in the format in which they lie there: expanded ones in BF16 (R88, R92). -/
def panelsPerBuffer (fmt : Nat) (trans : Bool) : Nat := 2 ^ 21 / panelBytes (if trans && expands fmt then 2 else fmt)

/-- K and N of a shelf projection as a pass reads it: swapped when transposed (R92). -/
def State.projShape (s : State) (c : Cab) (layer proj : Nat) (trans : Bool) : Option (Nat × Nat) :=
  match ((s.cab c).shelf.bind fun i => i.layers[layer]?).bind fun l => l.projs.find? fun p => p.proj == proj with
  | some p => some (if trans then (p.n, p.k) else (p.k, p.n))
  | none => none

/-- K panels of a column block, and panels of a projection. -/
def kPanels (k : Nat) : Nat := cdiv k 512
def allPanels (k n : Nat) : Nat := kPanels k * cdiv n 512

/-- A panel's place in traversal order: column block by column block, K ascending within each (R89). -/
def panelAt (k i : Nat) : Nat × Nat := (i / kPanels k, i % kPanels k)

/-- Column block `b` and K panel `p` of a weight operand, short at the ends of K and N (R89), with its part of the scales: E8M0 codes along
the stored K; the INT8 channel scales with the first panel of each column block, or along the new K (R88, R92). -/
def panelPart (w : Weights) (fmt : Nat) (trans : Bool) (b p : Nat) : Weights :=
  let cut := fun {α : Type} (i size : Nat) (l : List α) => (l.drop (size * i)).take size
  { cols := (cut b 512 w.cols).map (cut p 512),
    scales := if !isMx fmt then [] else if trans then (cut p 512 w.scales).map (cut b 16) else (cut b 512 w.scales).map (cut p 16),
    chan := if fmt != 11 then [] else if trans then cut p 512 w.chan else if p = 0 then cut b 512 w.chan else [] }

/-- A panel as a buffer holds it: expanded into BF16 where it is read transposed (R92). -/
def bufferPanel (fmt : Nat) (trans : Bool) (w : Weights) : Weights :=
  if trans && expands fmt then
    { cols := w.cols.zipIdx.map fun c => c.1.zipIdx.map fun e => (expandCode (transVal fmt w e.1 e.2 c.2)).1, scales := [], chan := [] }
  else w

/-- A panel has the shape that its place gives it. -/
def panelOk (k n fmt : Nat) (trans : Bool) (i : Nat) (w : Weights) : Bool :=
  let (b, p) := panelAt k i
  let cols := min 512 (n - 512 * b)
  let len := min 512 (k - 512 * p)
  w.cols.length == cols && (w.cols.all fun c => c.length == len) &&
    (if isMx fmt then (if trans then w.scales.length == len && w.scales.all fun x => x.length == cdiv cols 32
        else w.scales.length == cols && w.scales.all fun x => x.length == cdiv len 32)
      else w.scales.isEmpty) &&
    (if fmt = 11 then w.chan.length == (if trans then len else if p = 0 then cols else 0) else w.chan.isEmpty)

/-- The 64-byte sectors of a panel. -/
def panelSectors (fmt : Nat) : Nat := cdiv (panelBytes fmt) 64

/-- The sectors of a panel that the stream unit of logical cluster `l` reads and places on the die's panel bus, where `m` clusters are
active (R90): those whose index is congruent to `l` modulo `m`. The bus delivers all of them to every active cluster. -/
def busShare (fmt m l : Nat) : List Nat := (List.range (panelSectors fmt)).filter fun i => i % m == l

/-! ## Drawer pieces (R98) -/

/-- The 512 ranks' elements of one block of a factor. -/
def pieceBlock (f : List (List Nat)) (i : Nat) : List (List Nat) := f.map fun r => (r.drop (512 * i)).take 512

/-- The piece that a panel brings for a drawer: of block 0 the first factor's rows of the K panel; with the first panel of a later block
the second factor's columns of the block before. -/
def pieceOf (k i : Nat) (f : Side) : Option (List (List Nat)) :=
  let (b, p) := panelAt k i
  if b = 0 then some (pieceBlock f.one p) else if p = 0 then some (pieceBlock f.two (b - 1)) else none

/-- The pieces placed in a cluster's lines with a panel, in the half that belongs to it: alternate panels use alternate halves. Past the
last panel, as a tail fill, the second factor's columns of the last block. -/
def State.placePieces (s : State) (c : Cab) (u : VUnit) (f : PanelFill) (k n i : Nat) : State :=
  let upd : ClusterSt → ClusterSt := fun x =>
    { x with pieces := x.lines.zipIdx.foldl (fun l t =>
        match s.sideFor c t.1.toNat u.die f.layer.toNat f.proj.toNat f.trans with
        | none => l
        | some side =>
          match (if i < allPanels k n then pieceOf k i side else some (pieceBlock side.two (cdiv n 512 - 1))) with
          | some p => assocPut (t.2, i % 2) p l
          | none => l) x.pieces }
  s.modCluster u.die u.cl upd

/-! ## Panel buffers (R91) -/

/-- A fill of a buffer continues the die's shared read: at the next panel of the projection that it is in, or at the first panel of one
once that is done; it takes as many whole panels as fit, or those that are left (R88, R89). -/
def State.fillNext (s : State) (c : Cab) (die : Die) (f : PanelFill) : Option (Nat × Nat) :=
  match s.projShape c f.layer.toNat f.proj.toNat f.trans with
  | none => none
  | some (k, n) =>
    let total := allPanels k n
    let goesOn := match (s.die die).panelNext with
      | some (l, p, t, i) => l == f.layer && p == f.proj && t == f.trans && i == f.first
      | none => f.first == 0
    if goesOn && f.first < total && f.panels.length == min (panelsPerBuffer f.fmt f.trans) (total - f.first) &&
        (f.panels.zipIdx.all fun w => panelOk k n f.fmt f.trans (f.first + w.2) w.1) then some (k, n)
    else none

/-- A matrix op that has not retired on a die reads a projection in a cluster. -/
def State.reads (s : State) (die : Die) (l : Nat) (layer : BitVec 16) (proj : BitVec 8) (trans : Bool) : Bool :=
  s.flights.any fun f =>
    let d := mdesc f.issue.words
    f.die == die && d.bsrc == 0 && d.clusterMask.testBit l && d.layer == layer.toNat && d.proj == proj.toNat && d.trans == trans

/-- The active clusters of a die: physical and logical number. -/
def State.clusterRow (s : State) (die : Die) : List (Phys × Nat) := (s.die die).map.zipIdx

/-- PANEL_BUFFER_FILL (R88 to R92, R98): the die's shared read fills a buffer, empty in every active cluster, with the next run of
panels, delivered over the panel bus, in the direction of the pass where one runs; what a transposed read clips counts in the pass
status. -/
def execPanelBufferFill (u : VUnit) (f : PanelFill) (s : State) : Out :=
  .next (
    match s.cabOfDie u.die with
    | some c =>
      let turned := match (s.die u.die).pass with | some p => p.trans != f.trans | none => false
      let cs := s.clusterRow u.die
      let free := cs.all fun x => match (s.cluster u.die x.1).bufs[f.buffer.val]? with | some b => b.state == 0 | none => false
      match (if turned || (s.logicalOf u.die u.cl).isNone || !free then none else s.fillNext c u.die f) with
      | none => s
      | some (k, n) =>
        let held : PanelFill := { f with panels := f.panels.map (bufferPanel f.fmt f.trans) }
        let one := fun (s : State) (x : Phys × Nat) =>
          let b : PanelBuf := { state := if s.reads u.die x.2 f.layer f.proj f.trans then 2 else 1,
                                own := f.panels.length * (busShare f.fmt cs.length x.2).length, fill := some held }
          let s := s.modCluster u.die x.1 fun y => { y with bufs := updAt f.buffer.val (fun _ => b) y.bufs }
          let done := decide (allPanels k n ≤ f.first + f.panels.length)
          ((List.range (f.panels.length + b2n done)).map fun i => f.first + i).foldl
            (fun (s : State) i => s.placePieces c ⟨u.die, x.1⟩ f k n i) s
        let s := cs.foldl one s
        let next := f.first + f.panels.length
        let count : Pass → Pass := fun q => { q with clips := q.clips + (f.panels.map (expandClips f.fmt f.trans)).sum }
        s.modDie u.die fun y =>
          { y with pass := y.pass.map count,
                   panelNext := if next < allPanels k n then some (f.layer, f.proj, f.trans, next) else none }
    | none => s)

/-- A buffer of a cluster holds panels that a shelf descriptor reads, and they are those of its weight operand (R91). -/
def State.panelReady (s : State) (m : MatIssue) (cl : Phys) : Bool :=
  let d := mdesc m.words
  (s.cluster m.die cl).bufs.any fun b => b.state != 0 && match b.fill with
    | some f => f.layer.toNat == d.layer && f.proj.toNat == d.proj && f.trans == d.trans && f.fmt == d.fmtB &&
        f.panels.zipIdx.all fun w =>
          let (bl, p) := panelAt d.k (f.first + w.2)
          w.1 == bufferPanel f.fmt f.trans (panelPart m.weights f.fmt f.trans bl p)
    | none => false

/-- Buffers of a projection that no descriptor reads any more are empty again (R91). -/
def State.freeBufs (s : State) (die : Die) (d : MDesc) : State :=
  if d.bsrc != 0 then s
  else
    (s.clusterRow die).foldl (fun (s : State) x =>
      let hit : PanelBuf → Bool := fun b => b.state == 2 && match b.fill with
        | some p => p.layer.toNat == d.layer && p.proj.toNat == d.proj && p.trans == d.trans && !s.reads die x.2 p.layer p.proj p.trans
        | none => false
      s.modCluster die x.1 fun k => { k with bufs := k.bufs.map fun b => if hit b then { state := 0, own := 0, fill := none } else b }) s

end Sys2Proof.Machine
end

