-- ==== Sys2Proof/Machine/Matrix.lean ====
section
/-!
DEFINITION. Matrix-op descriptors (R80 to R118, R154 to R188): operands, placement of rows and columns in engines and tiles
(R82, R113), accumulation and the side path (R94, R158 to R166), the output stage (R180 to R186), both passes of SCALE_SRC 1
(R136, R137), retirement, and the fills of the panel buffers (R91, R92).
-/

namespace Sys2Proof.Machine

/-! ## Rows and their owners -/

/-- A row of a descriptor on a cluster: its place, tag, glove slot, scope, whether it takes no part (its scope has ended or
trapped), whether its outputs are not written (R100), whether the owner check fails (R48); in a run's step the seed of SR and the place of
its token in its sequence (R288). -/
structure RowInfo where
  pos : Nat
  mark : Mark
  request : Option Nat
  run : Option (BitVec 32)
  out : Bool
  unseated : Bool
  foreign : Bool
  seed : Option Nat
  token : Option Nat
  deriving DecidableEq, Repr

/-- The marks other than neutral of a row's units: one at most when they hold one owner's data. -/
def ClusterSt.rowMarks (x : ClusterSt) (d : MDesc) (p : Nat) : List Mark :=
  let u := d.rowAddr + p * d.rowStride
  (((List.range (cdiv (rowBytes d.fmtA d.k) 64)).map fun i => x.mark (u + i)).filter fun m => m != Mark.neutral).dedup

/-- A seat row's scope goes on (R174): the request is live, the run's step is in flight. -/
def State.scopeLive (s : State) (request : Option Nat) (run : Option (BitVec 32)) : Bool :=
  (match request with | some i => ((s.request? i).map Request.live).getD false | none => true) &&
    (match run with | some i => ((s.run? i).map Run.inStep).getD false | none => true)

/-- A scope has trapped in a descriptor of the serving stream that has not retired, on any die (R174). -/
def State.scopeTrapped (s : State) (st : Fin 4096) (request : Option Nat) (run : Option (BitVec 32)) : Bool :=
  (s.flights.any fun f => f.stream == st && f.traps.any fun t => t.request == request && t.run == run) ||
    s.vengines.any fun v => !v.desc.isEmpty && descStream v.desc == st &&
      v.traps.any fun t => t.request == request && t.run == run

/-- The mark of a seat row's data on a cluster: its tenant's glove slot and its tag (R102). -/
def State.seatMark (s : State) (die : Die) (cl : Phys) (r : SeatRow) : Mark := ⟨s.gloveSlot die cl r.glove, r.tag⟩

/-- The seat row that row `p` of a serving descriptor is, with its index in the seating. The spec gives the owner of data in the row
region by the mark of its units, and a program keeps a seat row's data where it will: where the units carry a mark, the row is the seat row
of the cluster with that mark, that at position `p` before the others; where they carry none, that at position `p` (DESIGN CHOICE,
assumption 88). -/
def State.seatOf (s : State) (q : Pass) (die : Die) (l : Nat) (cl : Phys) (ms : List Mark) (p : Nat) : Option (SeatRow × Nat) :=
  let mine := q.rows.zipIdx.filter fun r => r.1.cluster == l
  let here := mine.find? fun r => r.1.pos == p
  match ms with
  | [] => here
  | m :: _ => match here with
    | some r => if s.seatMark die cl r.1 = m then some r else mine.find? fun r => s.seatMark die cl r.1 == m
    | none => mine.find? fun r => s.seatMark die cl r.1 == m

/-- The glove slots whose units a descriptor may read beside slot 0 (R102): its tenant's; in the serving stream its seat row's. -/
def State.mayRead (s : State) (x : Issue) (die : Die) (cl : Phys) (seat : Option SeatRow) (m : Mark) : Bool :=
  m.slot == 0 || match x.job, s.stream? x.st.val with
    | some _, some y => y.owner == 1 && m.slot == s.gloveSlot die cl (s.streamGlove y)
    | _, _ => (seat.map fun r => m.slot == s.gloveSlot die cl r.glove).getD false

/-- Row `p` of a descriptor on logical cluster `l`, physical `cl`. Rows of the serving stream are those of the pass's seating; a row whose
owner has left takes no part. A row whose units carry several marks, or a glove slot that is not its own, fails the check (R48, R102). -/
def State.rowInfo (s : State) (x : Issue) (d : MDesc) (die : Die) (l : Nat) (cl : Phys) (p : Nat) : RowInfo :=
  let ms := (s.cluster die cl).rowMarks d p
  let seat := x.pass.bind fun q => s.seatOf q die l cl ms p
  let mark : Mark := match ms, seat with
    | m :: _, _ => m
    | [], some r => s.seatMark die cl r.1
    | [], none => Mark.neutral
  let request := seat.bind fun r => r.1.request
  let run := seat.bind fun r => r.1.run
  let lost := match x.pass, seat with
    | some q, some r => q.unseated.contains r.2
    | _, _ => false
  let ghost := seat.isSome && request.isNone && run.isNone
  { pos := p, mark := mark, request := request, run := run,
    out := ghost || !s.scopeLive request run || (seat.isSome && s.scopeTrapped x.st request run),
    unseated := lost || badTag mark.tag,
    foreign := decide (1 < ms.length) || (ms.any fun m => !s.mayRead x die cl (seat.map Prod.fst) m) ||
      (decide (3 ≤ d.op) && mark.tag.toNat != d.owner),
    seed := match run, x.pass with
      | some i, _ => s.srSeed (some i) (seat.map fun r => r.1.seq)
      | none, some _ => s.srSeed ((s.slot? x.cab mark.tag.toNat).bind Slot.run) none
      | none, none => none,
    token := if d.op = 5 then none else run.bind fun _ => seat.map fun r => r.1.token }

/-- The mark that a row's tile entries carry (R194). -/
def RowInfo.tileMark (r : RowInfo) (d : MDesc) : Mark :=
  if 3 ≤ d.op then ⟨r.mark.slot, BitVec.ofNat 16 d.owner⟩ else r.mark

/-! ## Placement (R82, R84, R113) -/

/-- Engines that a descriptor names. -/
def MDesc.engines (d : MDesc) : List (Fin 8) := (List.finRange 8).filter fun e => d.engineMask.testBit e.val
/-- The engine that holds row `p` and column `j`. -/
def MDesc.eng (d : MDesc) (p j : Nat) : Fin 8 := Fin.ofNat 8 (if d.pair then (j % 512) / 128 + 4 * (p % 2) else d.engine)
/-- The place of row `p` among its engine's rows. -/
def MDesc.idx (d : MDesc) (p : Nat) : Nat := if d.pair then p / 2 else p
/-- Logical tiles named, ascending. -/
def MDesc.named (d : MDesc) : List Nat := (List.range 8).filter fun t => d.tileMask.testBit t
/-- Tile sets named. -/
def MDesc.nsets (d : MDesc) : Nat := d.named.length / d.setSize
/-- The column block of a column. -/
def MDesc.blockOf (d : MDesc) (j : Nat) : Nat := j / d.blockCols
/-- The logical tile of an entry: sets in rotation, one a column block. -/
def MDesc.tileOf (d : MDesc) (p j : Nat) : Nat :=
  d.named.getD ((d.blockOf j % d.nsets) * d.setSize + d.idx p / 128 * (if d.acc = 1 then 2 else 1)) 0
/-- No later column block uses the tile set of column `j` again. -/
def MDesc.kept (d : MDesc) (j : Nat) : Bool := decide (d.blocks ≤ d.blockOf j + d.nsets)
/-- The place of an entry in its tile. -/
def MDesc.key (d : MDesc) (p j : Nat) : Nat × Nat := (d.idx p % 128, j % 128)

/-- The physical tile of a stream's logical tile (R85). -/
def State.phys? (s : State) (st : Fin 4096) (d : Die) (c : Phys) (e : Fin 8) (t : Nat) : Option (Fin 8) :=
  (s.grant? st d c e).bind fun g => g.tiles[t]?

/-- A logical tile; a tile that is not granted reads as fresh. -/
def State.ltile (s : State) (st : Fin 4096) (d : Die) (c : Phys) (e : Fin 8) (t : Nat) : Tile :=
  match s.phys? st d c e t with
  | some p => s.tile d c e p
  | none => Tile.fresh d c e 0

/-- The owner tags of the tiles named agree with the stream (R86). -/
def State.ownsTiles (s : State) (st : Fin 4096) (die : Die) (c : Phys) (d : MDesc) : Bool :=
  d.engines.all fun e => d.named.all fun t => match s.phys? st die c e t with
    | some p => (s.tile die c e p).owner == some st
    | none => false

/-! ## Accumulation -/

/-- An entry as a descriptor finds it (R160); one that is NaN already is an event (R172). -/
def State.startEntry (s : State) (st : Fin 4096) (die : Die) (c : Phys) (d : MDesc) (p j : Nat) : Entry :=
  if d.first then Entry.empty
  else
    let t := s.ltile st die c (d.eng p j) (d.tileOf p j)
    match assocGet (d.key p j) t.entries with
    | none => Entry.empty
    | some v =>
      let er := (assocGet (d.key p j) (s.ltile st die c (d.eng p j) (d.tileOf p j + 1)).entries).getD 0
      let e : Entry :=
        if d.acc = 1 then { Entry.empty with s := some v.toNat, c := if t.pair then er.toNat else 0 }
        else if t.pair then
          let (r, o) := roundAF ((af v.toNat).add (af er.toNat))
          { Entry.empty with s := some r, sat := o }
        else { Entry.empty with s := some v.toNat }
      if (af (e.read (d.acc == 1))).isNan then { e with ev := some ⟨noGroup, 9, 0, 0, e.read (d.acc == 1)⟩ } else e

/-- An entry after a descriptor's groups and side path. -/
structure Cell where
  p : Nat
  j : Nat
  entry : Entry
  deriving DecidableEq, Repr

/-- The row's side path, stage one done (R94): none for rows tagged 0xFFFF, unseated rows, projections not adapted. -/
def State.rowSide (s : State) (x : Issue) (d : MDesc) (die : Die) (r : RowInfo) (elems : List Elem) :
    Option (Side × StageOne) :=
  if !d.side || r.mark.tag = 0xffff || r.unseated then none
  else (s.sideOf x.cab r.mark.tag.toNat die d).map fun f => (f, stageOne d.width f.alpha elems f.one)

/-- The cells of a row. -/
def State.rowCells (s : State) (x : Issue) (d : MDesc) (die : Die) (c : Phys) (p : Nat) (elems : List Elem)
    (cols : List (List Elem)) (side : Option (Side × StageOne)) : List Cell :=
  cols.zipIdx.map fun w =>
    let start := s.startEntry x.st die c d p w.2
    let run := (d.chunk + 1) * 16
    let e := dotGroupOrder d.acc d.width run elems w.1 start
    { p := p, j := w.2, entry := match side with
        | some (f, s1) => addSide d.acc s1 (colOf f.two w.2) (entryBefore d.acc d.width run elems w.1 start) e
        | none => e }

/-- What a cluster computes: its logical number, rows, cells, the overflows of stage one, the rank of each row's drawer. -/
structure ClusterRun where
  l : Nat
  cl : Phys
  rows : List RowInfo
  cells : List Cell
  overflow : Nat
  ranks : List (Nat × Nat)
  deriving DecidableEq, Repr

/-- The rows of a descriptor on a logical cluster. -/
def State.rowsOn (s : State) (x : Issue) (d : MDesc) (die : Die) (l : Nat) (cl : Phys) : List RowInfo :=
  (List.range d.rowCount).map (s.rowInfo x d die l cl)

/-- A cluster's part of a descriptor, before its output stage. -/
def State.runCluster (s : State) (x : Issue) (d : MDesc) (die : Die) (cols : List (List Elem)) (l : Nat) (cl : Phys) :
    ClusterRun :=
  let rows := s.rowsOn x d die l cl
  let store := s.cluster die cl
  let parts := (rows.filter fun r => !r.out).map fun r =>
    let elems := store.row d r.pos
    let side := s.rowSide x d die r elems
    (s.rowCells x d die cl r.pos elems cols side, (side.map fun f => f.2.overflow).getD 0,
      (r.pos, (side.map fun f => f.1.one.length).getD 0))
  { l := l, cl := cl, rows := rows, cells := parts.flatMap fun q => q.1, overflow := (parts.map fun q => q.2.1).sum,
    ranks := parts.map fun q => q.2.2 }

/-! ## Tiles after a descriptor -/

/-- Entries put into a list of entries. -/
def putEntries (l : List ((Nat × Nat) × BitVec 42)) : List ((Nat × Nat) × Nat) → List ((Nat × Nat) × BitVec 42)
  | [] => l
  | (k, v) :: r => putEntries (assocPut k (BitVec.ofNat 42 v) l) r

/-- A logical tile after a descriptor: `vals` are the entries it holds, `sat` whether a rounding saturated in it, `pair` its
PAIR mark where the descriptor sets or clears one, `marks` the marks of the rows that wrote it. -/
def State.tileAfter (s : State) (st : Fin 4096) (die : Die) (c : Phys) (e : Fin 8) (t : Nat) (first : Bool)
    (vals : List ((Nat × Nat) × Nat)) (sat : Bool) (pair : Option Bool) (marks : List (Nat × Mark)) : State :=
  match s.phys? st die c e t with
  | none => s
  | some p =>
    let u := s.tile die c e p
    let u := if first then { u with entries := [], sat := false, pair := false, rowMarks := [] } else u
    s.setTile { u with entries := putEntries u.entries vals, sat := u.sat || sat, pair := pair.getD u.pair,
                       rowMarks := marks.foldl (fun l m => assocPut m.1 m.2 l) u.rowMarks }

/-- The logical tiles that hold sums of the descriptor's entries on an engine. -/
def MDesc.sumTiles (d : MDesc) (e : Fin 8) (cells : List Cell) : List Nat :=
  ((cells.filter fun q => d.eng q.p q.j == e).map fun q => d.tileOf q.p q.j).dedup

/-- The tiles of a cluster after a descriptor; `sats` are the entries whose drained value saturated. -/
def State.writeTiles (s : State) (x : Issue) (d : MDesc) (die : Die) (r : ClusterRun) (sats : List (Nat × Nat)) : State :=
  d.engines.foldl (fun (s : State) e =>
    (d.sumTiles e r.cells).foldl (fun (s : State) t =>
      let mine := r.cells.filter fun q => d.eng q.p q.j == e && d.tileOf q.p q.j == t
      let held := mine.filter fun q => d.kept q.j
      let marks := (r.rows.filter fun w => held.any fun q => q.p == w.pos).map fun w => (d.idx w.pos % 128, w.tileMark d)
      let drained := mine.any fun q => sats.contains (q.p, q.j)
      let s := s.tileAfter x.st die r.cl e t d.first (held.map fun q => (d.key q.p q.j, q.entry.s.getD 0))
        (drained || mine.any fun q => q.entry.sat) (some (d.acc == 1)) marks
      if d.acc = 1 then
        s.tileAfter x.st die r.cl e (t + 1) d.first (held.map fun q => (d.key q.p q.j, q.entry.c))
          (mine.any fun q => q.entry.satC) none marks
      else s) s) s

/-- SAT flags of a cluster's named tiles. -/
def State.satFlags (s : State) (st : Fin 4096) (die : Die) (c : Phys) (d : MDesc) : List Bool :=
  d.engines.flatMap fun e => d.named.map fun t => (s.ltile st die c e t).sat

/-- The named tiles that a descriptor uses on a cluster, in the order of their flags: those of its entries, with their partners. -/
def ClusterRun.uses (r : ClusterRun) (d : MDesc) : List Bool :=
  d.engines.flatMap fun e =>
    let sums := d.sumTiles e r.cells
    d.named.map fun t => sums.contains t || (d.acc == 1 && 0 < t && sums.contains (t - 1))

/-- Tiles whose SAT flag a descriptor set (R166, R188): those set after it and not before, where one that it uses with FIRST starts
cleared. -/
def newSats (first : Bool) (uses before after : List Bool) : Nat :=
  ((uses.zip (before.zip after)).filter fun p => p.2.2 && ((first && p.1) || !p.2.1)).length

/-! ## The output stage (R180 to R186) -/

/-- The operands of one entry in the output stage; `orow` is its row in the output tensor. -/
def outOps (d : MDesc) (m : MatIssue) (orow j : Nat) : OutOps :=
  let bias := m.bias.codes.getD j 0
  let ew := (m.elems.rows.getD orow []).getD j 0
  { chan := if d.fmtB = 11 && !d.trans then some (m.weights.chan.getD j 0x3f800000) else none,
    scale := if d.scaleSrc = 0 then some (fBF16.dec d.scale) else none,
    bias := if d.bias != 0 then some ⟨bias, elemVal m.bias.fmt bias⟩ else none,
    ewOp := d.ewOp,
    ew := if d.ewOp != 0 then some ⟨ew, elemVal m.elems.fmt ew⟩ else none }

/-- A row of output: its place, its owner mark, its values before narrowing, its entries' first events, the columns that saturated, its
statistics record, whether EMPTY is set. `y` holds the values before the statistics. `seed` and `srow` are the seed of SR and the row of its
element index that a run's step sets (R144, R288): its tensors are laid out so that a row's index is its token's place in its sequence. -/
structure RowOut where
  p : Nat
  orow : Nat
  mark : Mark
  y : List FV
  vals : List FV
  evs : List (Nat × Ev)
  sats : List Nat
  stats : List Word
  empty : Bool
  seed : Option Nat
  srow : Option Nat
  deriving DecidableEq, Repr

/-- The output stage of a row whose entries read as `accs`, with their events. -/
def rowOutput (d : MDesc) (m : MatIssue) (r : RowInfo) (orow : Nat) (accs : List Drain) : RowOut :=
  let os := accs.zipIdx.map fun a => outputSteps (outOps d m orow a.2) a.1.code a.1.ev
  let ys := os.map fun o => afExact o.y
  let evs := os.zipIdx.filterMap fun o => o.1.ev.map fun e => (o.2, e)
  let sats := ((os.zip accs).zipIdx.filter fun o => o.1.1.sat || o.1.2.sat).map Prod.snd
  let base : RowOut := { p := r.pos, orow := orow, mark := r.tileMark d, y := os.map OutVal.y, vals := os.map OutVal.y, evs := evs,
                         sats := sats, stats := [], empty := false, seed := r.seed, srow := r.token }
  if d.rowMax || d.rowSum then
    let (ps, st, empty, bad) := rowStatistics d.rowMax d.rowSum ys
    let more := (bad.filter fun j => !(evs.any fun e => e.1 == j)).map fun j =>
      (j, (⟨noGroup, 8, 0, 0, (accs.getD j ⟨0, false, none⟩).code⟩ : Ev))
    { base with vals := ps.map af, evs := evs ++ more, stats := st, empty := empty }
  else base

/-- The rows that a cluster's output stage writes (R100); `reads` drains an entry. -/
def clusterOutput (d : MDesc) (m : MatIssue) (rank : Nat) (rows : List RowInfo) (reads : Nat → Nat → Drain) :
    List RowOut :=
  (rows.filter fun r => !r.out && !r.unseated).map fun r =>
    rowOutput d m r (rank * d.rowCount + r.pos) ((List.range d.n).map (reads r.pos))

/-- A row narrowed (R132 to R144): its bytes, and the counts; `exps` are the exponents of SCALE_SRC 1 by column. With row statistics the
values narrowed are the numerators of R185, divided by the scale that R136 takes from y before them (assumption 89). -/
def narrowRow (d : MDesc) (exps : Nat → Int) (r : RowOut) (k : Counts) : List Byte × Counts :=
  let sr := if d.sr then some (r.seed.getD d.seed) else none
  let idx := fun (j : Nat) => r.srow.getD r.orow * d.n + j
  let vals := r.vals.zipIdx.map fun v => divPow2 v.1 (exps v.2)
  if isMx d.fmtOut then
    let (cs, ss, k) := mxRow d.fmtOut d.inf sr idx (vals.length + 1) 0 vals k
    (rowOut d.fmtOut cs ss, k)
  else
    let (cs, k) := vals.zipIdx.foldl (fun (acc : List Nat × Counts) v =>
      let (c, k) := narrow1 d.fmtOut d.inf (rmode sr (idx v.2)) v.1 acc.2
      (acc.1 ++ [c], k)) ([], k)
    (rowOut d.fmtOut cs [], k)

/-- The exponents of SCALE_SRC 1 over the rows of an extent (R135, R136): one, or one a column for INT8; and the clamps. m is taken over y
after bias and elementwise arithmetic, as R136 defines y, also where the row statistics write other values (DESIGN CHOICE, assumption
89). -/
def extentExps (d : MDesc) (rows : List RowOut) (k : Counts) : List Int × Counts :=
  if d.fmtOut = 11 then
    (List.range d.n).foldl (fun (acc : List Int × Counts) j =>
      let (e, k) := tensorScale 11 (rows.map fun r => r.y.getD j FV.zero) acc.2
      (acc.1 ++ [e], k)) ([], k)
  else
    let (e, k) := tensorScale d.fmtOut (rows.flatMap RowOut.y) k
    ([e], k)

/-- The exponent of a column; 0 where none was chosen. -/
def expOf (d : MDesc) (exps : List Int) (j : Nat) : Int := exps.getD (if d.fmtOut = 11 then j else 0) 0

/-- The channel scale 2^e as FP32 (R135). -/
def scaleF32 (e : Int) : Nat := fFP32.ofFV (.fin false 1 e)

/-- The scale words beside an output tensor (R135, R141): an E8M0 code, or FP32 channel scales. -/
def outScaleWords (d : MDesc) (exps : List Int) : List (BitVec 32) :=
  if d.fmtOut = 3 || d.fmtOut = 4 then [BitVec.ofNat 32 (expOf d exps 0 + 127).toNat]
  else if d.fmtOut = 11 then (List.range d.n).map fun j => BitVec.ofNat 32 (scaleF32 (expOf d exps j))
  else []

/-- The tensor of a stream on a die; the serving stream's are listed when first written. -/
def State.outTensor (s : State) (x : Issue) (h : BitVec 32) (d : Die) (bytes : Nat) : State :=
  if x.pass.isSome && (s.tensor? x.st h d).isNone then
    { s with tensors := s.tensors ++ [{ stream := x.st, handle := h, die := d, bytes := bytes, glove := 0, fmt := none, data := [],
                                        scaleWords := [], stats := [], marks := [], pages := [] }] }
  else s

/-- The marks of the units of output rows, in a tensor of the serving stream. -/
def outMarks (x : Issue) (size : Nat) (rows : List RowOut) (l : List (Nat × Mark)) : List (Nat × Mark) :=
  if x.pass.isNone then l
  else rows.foldl (fun l r =>
    (List.range (size / 64)).foldl (fun l u => assocPut (r.orow * size / 64 + u) r.mark l) l) l

/-- Rows written into OUT_TENSOR (R132, R135, R186, R495), for `clusters` clusters; nothing where it is 0. The counts. -/
def State.writeOut (s : State) (x : Issue) (d : MDesc) (die : Die) (clusters : Nat) (exps : List Int) (rows : List RowOut)
    (k : Counts) : State × Counts :=
  if d.out = 0 then (s, k)
  else
    let h := BitVec.ofNat 32 d.out
    let size := rowBytes d.fmtOut d.n
    let total := clusters * d.rowCount * size
    let scales := outScaleWords d exps
    let chan := if d.fmtOut = 11 then scales.flatMap fun w => leBytes 4 w.toNat else []
    let s := s.outTensor x h die (total + pad64 chan.length)
    let (bs, k) := rows.foldl (fun (acc : List (Nat × List Byte) × Counts) r =>
      let (b, k) := narrowRow d (expOf d exps) r acc.2
      (acc.1 ++ [(r.orow * size, b)], k)) ([], k)
    let upd : Tensor → Tensor := fun t =>
      let t := bs.foldl (fun (t : Tensor) b => t.write b.1 b.2) t
      let t := t.write total chan
      { t with fmt := some d.fmtOut, scaleWords := if scales.isEmpty then t.scaleWords else scales,
               marks := outMarks x size rows t.marks,
               stats := (rows.filter fun r => !r.stats.isEmpty).foldl (fun l r => assocPut r.orow r.stats l) t.stats }
    let k := { k with emptyRows := satAdd 0xffff k.emptyRows (rows.filter RowOut.empty).length }
    (s.modTensor x.st h die upd, k)

/-! ## Events and traps -/

/-- An event of an entry, with its place. -/
structure Seen where
  l : Nat
  row : RowInfo
  j : Nat
  ev : Ev
  deriving DecidableEq, Repr

/-- The order of events (R175): column block, K group, cluster, engine, column, row. -/
def Seen.order (d : MDesc) (e : Seen) : Nat :=
  let g := if e.ev.cause = 9 then 0 else e.ev.group + 1
  ((((d.blockOf e.j * 2 ^ 21 + g) * 8 + e.l) * 8 + (d.eng e.row.pos e.j).val) * 2 ^ 20 + e.j) * 512 + e.row.pos

/-- The trap record of an event, NAN_COUNT apart (R176). -/
def Seen.record (d : MDesc) (m : MatIssue) (now : Nat) (e : Seen) : List Word :=
  [word (put m.jobSeq.toNat 32 + put d.stream 20 + m.opIndex.toNat),
   word (put m.die.val 60 + put e.l 56 + put (d.eng e.row.pos e.j).val 53 + put (d.tileOf e.row.pos e.j) 50 +
     put e.row.pos 41 + put e.j 21),
   word (put e.ev.group 44 + put d.fmtA 40 + put d.fmtB 36 + put d.fmtOut 32 + put e.ev.cause 24), word now,
   word (put d.seq 40 + put e.row.mark.tag.toNat 24), word (put e.ev.a 32 + e.ev.b), word e.ev.acc, 0]

/-- The traps of a descriptor (R173 to R175): one a scope, of its first event. -/
def trapsOf (d : MDesc) (m : MatIssue) (now : Nat) (es : List Seen) : List Trap :=
  if !d.sent then []
  else ((sortBy (Seen.order d) es).map fun e =>
    ({ request := e.row.request, run := e.row.run, record := e.record d m now, more := 0 } : Trap)).foldl addTrap []

/-- The first events of a cluster's entries: those of the output stage where it ran. -/
def seenOf (r : ClusterRun) (outs : List RowOut) : List Seen :=
  r.rows.flatMap fun w =>
    match outs.find? fun o => o.p == w.pos with
    | some o => o.evs.map fun e => { l := r.l, row := w, j := e.1, ev := e.2 }
    | none => (r.cells.filter fun q => q.p == w.pos).filterMap fun q => q.entry.ev.map fun e =>
        { l := r.l, row := w, j := q.j, ev := e }

/-! ## Time on the engines (R81, R97, R117) -/

/-- BUSY_CYCLES of one engine of a cluster: the cycles for which panels occupy it (R117), a row of a drawer of rank `r` in stages one and
two by its own rank (R97). `rows` are the ranks of the rows that it holds. A panel that the panel bus delivers lasts at least as long as the
bus takes for its stored bytes; whether an engine's wait for the bus counts among its cycles the spec does not say: it does here (DESIGN
CHOICE, assumption 41). -/
def MDesc.busyEngine (d : MDesc) (rows : List Nat) : Nat :=
  let c := 512 / kPerCycle d.fmtA d.fmtW
  let floor := if d.bsrc = 0 then cdiv (panelBytes d.fmtB) 16384 else 0
  let held := rows ++ List.replicate (d.rowsPer - rows.length) 0
  let quarter := fun (b r : Nat) => if d.pair then (if d.side && b = 0 then max (4 * c) (cdiv r 4) else 4 * c) else 16 * c
  let panel := fun (b : Nat) => max (cdiv ((held.map (quarter b)).sum) 4) floor
  let last := cdiv d.n 512 - 1
  let two := fun (b : Nat) =>
    if d.side then (held.map fun r => cdiv r 16 - (if b = last then 0 else cdiv d.k 512 * c)).sum else 0
  ((List.range (cdiv d.n 512)).map fun b => cdiv d.k 512 * panel b + two b).sum

/-- BUSY_CYCLES of a cluster: the sum over its engines (R188). In pair mode the rows at even positions lie in four engines and those at odd
positions in the other four (R82). -/
def MDesc.busy (d : MDesc) (ranks : List (Nat × Nat)) : Nat :=
  let of_ := fun (q : Nat) => (ranks.filter fun r => !d.pair || r.1 % 2 == q).map Prod.snd
  min (2 ^ 32 - 1) (if d.pair then 4 * (d.busyEngine (of_ 0) + d.busyEngine (of_ 1)) else d.busyEngine (of_ 0))

/-! ## Issue -/

/-- A named tile of an earlier descriptor of the stream that has not retired (R115). -/
def State.tileWaits (s : State) (x : Issue) (die : Die) (d : MDesc) : Bool :=
  s.flights.any fun f =>
    let o := mdesc f.issue.words
    f.die == die && f.stream == x.st && (o.clusterMask &&& d.clusterMask) != 0 && (o.engineMask &&& d.engineMask) != 0 &&
      (o.tileMask &&& d.tileMask) != 0

/-- The serving stream's tiles on the engines named (R85): granted at its first descriptor that needs them, all or none. -/
def State.servingTiles (s : State) (x : Issue) (die : Die) (d : MDesc) (cs : List (Nat × Phys)) : Option State :=
  if x.pass.isNone then some s
  else (cs.flatMap fun c => d.engines.map fun e => (c.2, e)).foldl (fun (acc : Option State) p =>
    acc.bind fun s => s.grantOne? x.st (Nat.log2 d.tileMask + 1) die p.1 p.2) (some s)

/-- Buffers that hold panels of a descriptor's projection are read (R91). -/
def State.readBufs (s : State) (die : Die) (cs : List (Nat × Phys)) (d : MDesc) : State :=
  if d.bsrc != 0 then s
  else
    let hit : PanelBuf → Bool := fun b => b.state == 1 &&
      (match b.fill with | some p => p.layer.toNat == d.layer && p.proj.toNat == d.proj && p.trans == d.trans | none => false)
    cs.foldl (fun (s : State) c =>
      s.modCluster die c.2 fun k => { k with bufs := k.bufs.map fun b => if hit b then { b with state := 2 } else b }) s

/-- A descriptor that does not start, or whose results are withheld, is reported; its job stops with a code. -/
def State.isolate (s : State) (x : Issue) (m : MatIssue) (check code : Nat) (cl : Phys) (ts : List Touch) : State :=
  (s.isolation check 2 (Fin.ofNat 64 cl.val) m.die (some x.cab) ts).stopJob x.st m.jobSeq code []

/-- The glove that a cluster holds in a slot. -/
def State.gloveIn (s : State) (die : Die) (cl : Phys) (i : Fin 64) : BitVec 16 :=
  (((s.cluster die cl).slots.find? fun k => k.idx == i).map GSlot.glove).getD 0

/-- The elementwise tensor belongs to another tenant than a row (R182): by its glove, or in the serving stream, whose tensors hold rows of
several owners, by the marks of the units of output row `orow`. -/
def State.foreignElems (s : State) (x : Issue) (d : MDesc) (m : MatIssue) (die : Die) (cl : Phys) (orow : Nat) (r : RowInfo) : Bool :=
  match s.tensor? x.st (BitVec.ofNat 32 d.eTensor) die with
  | some t =>
    let g := s.gloveIn die cl r.mark.slot
    let size := rowBytes m.elems.fmt d.n
    d.eTensor != 0 && ((decide (0x100 ≤ t.glove.toNat) && decide (0x100 ≤ g.toNat) && g != t.glove) ||
      (x.pass.isSome && (List.range (size / 64)).any fun u =>
        match assocGet (orow * size / 64 + u) t.marks with
        | some k => k != Mark.neutral && k.slot != r.mark.slot
        | none => false))
  | none => false

/-- Rows that fail the owner checks (R48, R182), with their clusters. -/
def State.foreignRows (s : State) (x : Issue) (d : MDesc) (m : MatIssue) (die : Die) (cs : List (Nat × Phys)) :
    List (Nat × Phys × RowInfo) :=
  cs.zipIdx.flatMap fun c => ((s.rowsOn x d die c.1.1 c.1.2).filter fun r =>
    !r.out && (r.foreign || s.foreignElems x d m die c.1.2 (c.2 * d.rowCount + r.pos) r)).map fun r => (c.1.1, c.1.2, r)

/-- The rows of a descriptor of the serving stream whose results are withheld are seated again in the die's next pass. -/
def State.withholdRows (s : State) (x : Issue) (d : MDesc) (die : Die) : State :=
  if x.pass.isNone then s
  else
    let upd : Pass → Pass := fun p =>
      let mine := (p.rows.zipIdx.filter fun r => d.clusterMask.testBit r.1.cluster && decide (r.1.pos < d.rowCount)).map Prod.snd
      { p with unseated := (p.unseated ++ mine).dedup }
    s.modDie die fun y => { y with pass := y.pass.map upd }

/-- The descriptor on the scoreboard. -/
def Issue.flight (x : Issue) (m : MatIssue) (phase : Fin 3) (k : Counts) (skipped : List (Nat × Nat)) (exps : List Int) (ts : List Trap)
    (iso : Bool) : Flight :=
  { die := m.die, stream := x.st, issue := m, phase := phase, counts := k,
    clusters := BitVec.ofNat 8 (mdesc m.words).clusterMask, skipped := skipped, exps := exps, traps := ts, isolation := iso }

/-- The counts of a descriptor once its output has been written: SCALE_CODE (R188). -/
def withScaleCode (d : MDesc) (exps : List Int) (k : Counts) : Counts :=
  if d.scaleSrc = 1 && (d.fmtOut = 3 || d.fmtOut = 4) then { k with scaleCode := (expOf d exps 0 + 127).toNat } else k

/-- Row outputs of all clusters, in the order of the output tensor. -/
def outsOf (d : MDesc) (m : MatIssue) (rs : List ClusterRun) : List (List RowOut) :=
  if !d.last then rs.map fun _ => []
  else rs.zipIdx.map fun r => clusterOutput d m r.2 r.1.rows fun p j =>
    match r.1.cells.find? fun q => q.p == p && q.j == j with
    | some q => q.entry.drain (d.acc == 1)
    | none => ⟨0, false, none⟩

/-- The values that the expansion of a transposed operand read by the clusters' own stream units clips count in the pass status (R92,
R93). -/
def State.countClips (s : State) (m : MatIssue) (d : MDesc) : State :=
  if d.bsrc = 0 then s
  else
    let n := expandClips d.fmtB d.trans m.weights
    let upd : Pass → Pass := fun q => { q with clips := q.clips + n }
    s.modDie m.die fun y => { y with pass := y.pass.map upd }

/-- A NaN weight of the shelf that was a scope's first event is logged for the operator (R177). -/
def State.noteShelfNan (s : State) (x : Issue) (m : MatIssue) (d : MDesc) (ts : List Trap) : State :=
  match d.bsrc, ts.find? fun t => bits (wordAt t.record 2) 31 24 == 2 with
  | 0, some t => s.shelfOperand x.cab m.die ((s.die m.die).map.getD (bits (wordAt t.record 1) 59 56) 0) d.layer d.proj
  | _, _ => s

/-- A descriptor runs on its clusters: accumulation, output stage or pass 1 of it, and the record on the scoreboard. -/
def State.runMatrix (s : State) (x : Issue) (m : MatIssue) (d : MDesc) (cs : List (Nat × Phys)) : State :=
  let cols := (List.range d.n).map (weightCol d m.weights)
  let rs := cs.map fun c => s.runCluster x d m.die cols c.1 c.2
  let outs := outsOf d m rs
  let before := cs.flatMap fun c => s.satFlags x.st m.die c.2 d
  let s := (rs.zip outs).foldl (fun (s : State) r =>
    s.writeTiles x d m.die r.1 (r.2.flatMap fun o => o.sats.map fun j => (o.p, j))) s
  let after := cs.flatMap fun c => s.satFlags x.st m.die c.2 d
  let k : Counts := { Counts.zero with satTiles := newSats d.first (rs.flatMap fun r => r.uses d) before after
                                       busy := (rs.map fun r => d.busy r.ranks).foldl (satAdd (2 ^ 32 - 1)) 0 }
  let k := k.addOverflow (rs.map ClusterRun.overflow).sum
  let ts := trapsOf d m s.now ((rs.zip outs).flatMap fun r => seenOf r.1 r.2)
  let (s, k, exps, phase) : State × Counts × List Int × Fin 3 :=
    if !d.last then (s, k, [], 2)
    else if d.scaleSrc = 1 then
      let (e, k) := extentExps d outs.flatten k
      (s, k, e, 1)
    else
      let (s, k) := s.writeOut x d m.die cs.length [] outs.flatten k
      (s, k, [], 2)
  let skipped := rs.flatMap fun r => (r.rows.filter RowInfo.out).map fun w => (r.l, w.pos)
  let s := { s with flights := s.flights ++ [x.flight m phase (withScaleCode d exps k) skipped exps ts false] }
  (((s.readBufs m.die cs d).countClips m d).noteShelfNan x m d ts).trapJob x m.jobSeq ts

/-- A matrix op waits (R91, R115, R217): for an earlier descriptor of its stream, or for the panels of its projection in a buffer of each
cluster that it names. -/
def State.matrixWaits (s : State) (x : Issue) (m : MatIssue) (d : MDesc) (cs : List (Nat × Phys)) : Bool :=
  s.tileWaits x m.die d || (match x.job with | some j => s.orderWaits m.die j m.opIndex.toNat m.words | none => false) ||
    (d.bsrc == 0 && !cs.all fun c => s.panelReady m c.2)

/-- A matrix-op descriptor issues on a die (R77, R86, R48, R104, R110 to R117). It waits, with nothing changed, where it may not issue
yet. -/
def State.matrix (op : Nat) (m : MatIssue) (s : State) : State :=
  let d := mdesc m.words
  if d.op != op || !isMatrix m.words || d.invalid then s
  else match s.issue? m.die m.jobSeq m.opIndex m.words d.clusterMask (if d.bsrc = 0 then some d.trans else none) with
    | none => s
    | some x =>
      let cs := s.namedClusters m.die d.clusterMask
      if (s.die m.die).map.length < Nat.log2 d.clusterMask + 1 then s.endJob x.st m.jobSeq Code.resetAborted
      else if s.matrixWaits x m d cs then s
      else match (s.wearFor x m.die cs).servingTiles x m.die d cs with
        | none => s
        | some s =>
          let m := s.operands x m
          match cs.find? fun c => !s.ownsTiles x.st m.die c.2 d with
          | some c =>
            (s.isolate x m 2 Code.tileNotOwned c.2 [x.touch m.jobSeq m.opIndex 0xffff none none]).settleJob x.st m.jobSeq
          | none =>
            match s.foreignRows x d m m.die cs with
            | [] => s.runMatrix x m d cs
            | f :: fs =>
              let ts := (f :: fs).map fun r => x.touch m.jobSeq m.opIndex r.2.2.mark.tag r.2.2.request r.2.2.run
              let s := (s.isolate x m 1 Code.isolationFault f.2.1 ts).withholdRows x d m.die
              { s with flights := s.flights ++ [x.flight m 2 Counts.zero [] [] [] true] }

/-- SHELF_FWD (R111): rows by shelf weights. -/
def execShelfFwd (m : MatIssue) (s : State) : Out := .next (s.matrix 1 m)

/-- SHELF_BWD (R111): rows by transposed shelf weights. -/
def execShelfBwd (m : MatIssue) (s : State) : Out := .next (s.matrix 2 m)

/-- SEQ_SCORE (R111): rows by a sequence's keys. -/
def execSeqScore (m : MatIssue) (s : State) : Out := .next (s.matrix 3 m)

/-- SEQ_MIX (R111): rows by a sequence's values. -/
def execSeqMix (m : MatIssue) (s : State) : Out := .next (s.matrix 4 m)

/-- The gradients of a run's slot (R111, R274): entry i of a SLOT_GRAD's first row of results, rounded to AF42, is added to the
gradient buffer of parameter OUT_TENSOR − 1 + i on the die. -/
def State.addGradients (s : State) (m : MatIssue) (r : Run) (vals : List Nat) : State :=
  let d := mdesc m.words
  let add : RunDie → RunDie := fun x =>
    if x.die != m.die then x
    else { x with gbuf := vals.zipIdx.foldl (fun g v =>
      let i := d.out - 1 + v.2
      assocPut i (match assocGet i g with
        | some a => BitVec.ofNat 42 (afAdd a.toNat v.1)
        | none => BitVec.ofNat 42 v.1) g) x.gbuf }
  s.modRun r.id fun r => { r with perDie := r.perDie.map add }

/-- The run whose slot owns a descriptor of the serving stream. -/
def State.ownerRun (s : State) (m : MatIssue) : Option Run :=
  match s.cabOfDie m.die with
  | none => none
  | some c =>
    if (s.cab c).serving = some (descStream m.words) then
      ((s.slot? c (mdesc m.words).owner).bind Slot.run).bind s.run?
    else none

/-- SLOT_GRAD (R111): a sum over the rows of one slot; of a run's slot in a pass, added to the run's gradients (R274). -/
def execSlotGrad (m : MatIssue) (s : State) : Out :=
  .next (
    let d := mdesc m.words
    let s' := s.matrix 5 m
    match s.ownerRun m with
    | none => s'
    | some r =>
      if s'.flights.length = s.flights.length || !d.last || d.out = 0 || !r.inStep then s'
      else
        let cs := s.namedClusters m.die d.clusterMask
        let x : Issue := ⟨r.cab, descStream m.words, none, (s.die m.die).pass⟩
        let m := s.operands x m
        let cols := (List.range d.n).map (weightCol d m.weights)
        let cells := cs.flatMap fun c => (s.runCluster x d m.die cols c.1 c.2).cells
        let vals := cells.zipIdx.map fun q =>
          afExact (outputSteps (outOps d m q.1.p q.1.j) (q.1.entry.read (d.acc == 1)) none).y
        if s'.flights.any fun f => f.die == m.die && f.issue == m && f.isolation then s' else s'.addGradients m r vals)

/-- DRAWER_MUL (R111): rows by an extra expert of the owning drawer. -/
def execDrawerMul (m : MatIssue) (s : State) : Out := .next (s.matrix 6 m)

/-! ## Pass 2 of SCALE_SRC 1 (R137) -/

/-- An entry as the tiles hold it. -/
def State.readEntry (s : State) (st : Fin 4096) (die : Die) (c : Phys) (d : MDesc) (p j : Nat) : Nat :=
  let t := s.ltile st die c (d.eng p j) (d.tileOf p j)
  match assocGet (d.key p j) t.entries with
  | none => 0
  | some v =>
    if d.acc = 1 then
      let er := (assocGet (d.key p j) (s.ltile st die c (d.eng p j) (d.tileOf p j + 1)).entries).getD 0
      (roundAF ((af v.toNat).add (af er.toNat))).1
    else v.toNat

/-- SCALE_PASS_2 (R136, R137): every cluster has reported, and the output stage runs again over the same tiles, for the rows that took part
in pass 1. -/
def execScalePass2 (die : Die) (stream : Fin 4096) (jobSeq : BitVec 32) (opIndex : BitVec 20) (s : State) : Out :=
  .next (
    let mine := fun (f : Flight) =>
      f.die == die && f.stream == stream && f.issue.jobSeq == jobSeq && f.issue.opIndex == opIndex && f.phase == 1
    match s.flights.find? mine, s.cabOfDie die with
    | some f, some c =>
      let d := mdesc f.issue.words
      let x : Issue := ⟨c, stream, s.job? stream jobSeq, if (s.cab c).serving = some stream then (s.die die).pass else none⟩
      let cs := s.namedClusters die d.clusterMask
      let outs := cs.zipIdx.flatMap fun k =>
        let rows := (s.rowsOn x d die k.1.1 k.1.2).map fun r => { r with out := f.skipped.contains (k.1.1, r.pos) }
        clusterOutput d f.issue k.2 rows fun p j => ⟨s.readEntry stream die k.1.2 d p j, false, none⟩
      let (s, k) := s.writeOut x d die cs.length f.exps outs f.counts
      { s with flights := updFirst mine (fun f => { f with phase := 2, counts := k }) s.flights }
    | _, _ => s)

/-! ## Retirement -/

/-- The pass on a die holds rows of a scope: its descriptors are descriptors of that scope (R173). -/
def State.holdsScope (s : State) (die : Die) (t : Trap) : Bool :=
  ((s.die die).pass.map fun p => p.rows.any fun r => r.request == t.request && r.run == t.run).getD false

/-- A trap of a serving scope whose descriptor has retired (R174): it takes effect with the last of the scope's descriptors that have
issued, on any die; until then it is kept with one of the others. -/
def State.settleTrap (s : State) (st : Fin 4096) (t : Trap) : State :=
  let other := fun (g : Flight) => g.stream == st && s.holdsScope g.die t
  let busy := fun (v : VEngine) => !v.desc.isEmpty && descStream v.desc == st && s.holdsScope v.u.die t
  if s.flights.any other then
    { s with flights := updFirst other (fun g => { g with traps := addTrap g.traps t }) s.flights }
  else if s.vengines.any busy then
    { s with vengines := updFirst busy (fun v => { v with traps := addTrap v.traps t }) s.vengines }
  else s.trapServing t

/-- A matrix-op descriptor retires: its buffers are empty again, its traps take effect, its record is written. -/
def State.retireMatrix (s : State) (f : Flight) : State :=
  let s := { s with flights := s.flights.erase f }
  let s := s.freeBufs f.die (mdesc f.issue.words)
  let s := if (s.job? f.stream f.issue.jobSeq).isSome then s
    else f.traps.foldl (fun (s : State) t => s.settleTrap f.stream t) s
  s.retireDesc f.die f.stream f.issue.jobSeq f.issue.opIndex f.counts f.clusters.toNat

end Sys2Proof.Machine
end

