-- ==== Sys2Proof/Machine/VBase.lean ====
section
/-!
DEFINITION. The vector engine's frame: register elements and predication (R190, R191, R203), owner marks (R193 to R197), the
loops of a body (R199), the words that instructions stand for (R202), and what an instruction ends in: an isolation fault, an
uncorrectable value, a trap, or the next instruction (R195, R128, R212).
-/

namespace Sys2Proof.Machine

/-! ## Registers -/

/-- Elements of a register, or of a pair for W (R190). -/
def vCount (ty : Nat) : Nat := match ty with | 0 => 128 | 1 => 256 | 2 => 256 | 3 => 128 | 4 => 128 | 5 => 256 | _ => 512

/-- Mask bits of an element: its bytes, W counting as 4 (R191). -/
def vMaskStep (ty : Nat) : Nat := if ty = 3 then 4 else vBytes ty

def VEngine.reg (v : VEngine) (n : Nat) : Nat := (v.regs.getD n 0).toNat

/-- Element `j` of a register, or of a pair for W, as a code (R190). -/
def VEngine.elem (v : VEngine) (ty n j : Nat) : Nat :=
  if ty = 3 then (v.reg n >>> (32 * j)) % 2 ^ 32 + ((v.reg (n + 1) >>> (32 * j)) % 2 ^ 32) <<< 32
  else (v.reg n >>> (vElemBits ty * j)) % 2 ^ vElemBits ty

def VEngine.elems (v : VEngine) (ty n : Nat) : List Nat := (List.range (vCount ty)).map (v.elem ty n)

/-- Fields of `w` bits side by side, the first lowest. -/
def packBits (w : Nat) : List Nat → Nat
  | [] => 0
  | x :: xs => x % 2 ^ w + packBits w xs <<< w

def VEngine.putReg (v : VEngine) (n x : Nat) : VEngine :=
  { v with regs := updAt n (fun _ => BitVec.ofNat 4096 x) v.regs }

/-- A register, or a pair for W, written with all its elements. -/
def VEngine.putElems (v : VEngine) (ty n : Nat) (es : List Nat) : VEngine :=
  if ty = 3 then (v.putReg n (packBits 32 es)).putReg (n + 1) (packBits 32 (es.map fun e => e >>> 32))
  else v.putReg n (packBits (vElemBits ty) es)

/-- Predication of an instruction (R203): MEN, MS, ZM. -/
structure Pred where
  men : Bool
  ms : Nat
  zm : Bool
  deriving DecidableEq, Repr

def VEngine.maskBit (v : VEngine) (m k : Nat) : Bool := (v.masks.getD m 0).getLsbD k

/-- Element `j` of a type is active (R191, R203). -/
def VEngine.active (v : VEngine) (p : Pred) (ty j : Nat) : Bool := !p.men || v.maskBit p.ms (vMaskStep ty * j)

/-- Elements of a register for which `f` has a value; every other element keeps its own (R203, R206). -/
def VEngine.writeElems (v : VEngine) (ty n : Nat) (f : Nat → Option Nat) : VEngine :=
  v.putElems ty n ((v.elems ty n).zipIdx.map fun e => (f e.2).getD e.1)

/-- The value of a destination element: its result when active, else zero or its old value (R203). -/
def VEngine.result (v : VEngine) (p : Pred) (ty j : Nat) (r : Nat) : Option Nat :=
  if v.active p ty j then some r else if p.zm then some 0 else none

/-- A mask written by elements of a type: all bits of each element (R191). -/
def VEngine.writeMask (v : VEngine) (p : Pred) (ty m : Nat) (res : Nat → Bool) : VEngine :=
  let step := vMaskStep ty
  let bit := fun (k : Nat) =>
    let j := k / step
    if v.active p ty j then res j else if p.zm then false else v.maskBit m k
  { v with masks := updAt m (fun _ => BitVec.ofNat 512 (packBits 1 ((List.range 512).map fun k => b2n (bit k)))) v.masks }

/-! ## Marks (R193 to R197) -/

/-- The mark of a result: the one mark other than neutral among the operands'; none where two differ, or where an owned
descriptor meets another slot's (R195, R197). -/
def joinMarks (owner : Nat) (ms : List Mark) : Option Mark :=
  match (ms.filter fun m => m != Mark.neutral).dedup with
  | [] => some Mark.neutral
  | [m] => if owner != 0xffff && m.tag.toNat != owner then none else some m
  | _ => none

def VEngine.regMark (v : VEngine) (n : Nat) : Mark := v.regMarks.getD n Mark.neutral
def VEngine.maskMark (v : VEngine) (n : Nat) : Mark := v.maskMarks.getD n Mark.neutral

/-- The marks of a register operand of a type. -/
def VEngine.marksOf (v : VEngine) (ty n : Nat) : List Mark :=
  if ty = 3 then [v.regMark n, v.regMark (n + 1)] else [v.regMark n]

/-- The mark of the mask that predicates. -/
def VEngine.predMarks (v : VEngine) (p : Pred) : List Mark := if p.men then [v.maskMark p.ms] else []

/-- The old marks of a destination of which elements stay. -/
def VEngine.keptMarks (v : VEngine) (p : Pred) (whole : Bool) (ty n : Nat) : List Mark :=
  if (p.men && !p.zm) || !whole then v.marksOf ty n else []

def VEngine.setMark (v : VEngine) (ty n : Nat) (m : Mark) : VEngine :=
  let one := fun (v : VEngine) (n : Nat) => { v with regMarks := updAt n (fun _ => m) v.regMarks }
  if ty = 3 then one (one v n) (n + 1) else one v n

def VEngine.setMaskMark (v : VEngine) (n : Nat) (m : Mark) : VEngine :=
  { v with maskMarks := updAt n (fun _ => m) v.maskMarks }

/-! ## The loops (R199) -/

/-- Where the next outer iteration begins, with the first section that has instructions; after the last, the OEPI section. Body
index, outer index (OUTER in the OEPI section), inner index. -/
def VDesc.startOuter (d : VDesc) (o : Nat) : Nat × Nat × Nat :=
  let b2 := d.opro + d.pro
  let b4 := d.bodyLen - d.oepi
  let fin := (b4, d.outer, d.inner - 1)
  if d.outer ≤ o then fin
  else if 0 < d.pro then (d.opro, o, 0)
  else if 0 < d.mainLen then (b2, o, 0)
  else if 0 < d.epi then (b2, o, d.inner - 1)
  else fin

/-- The first place of a body. -/
def VDesc.start (d : VDesc) : Nat × Nat × Nat := if 0 < d.opro then (0, 0, 0) else d.startOuter 0

/-- The place after an instruction. -/
def VDesc.next (d : VDesc) (pos o i : Nat) : Nat × Nat × Nat :=
  let b2 := d.opro + d.pro
  let b3 := b2 + d.mainLen
  if d.outer ≤ o then (pos + 1, o, i)
  else if pos < d.opro then (if pos + 1 < d.opro then (pos + 1, o, i) else d.startOuter 0)
  else if pos < b2 then
    if pos + 1 < b2 then (pos + 1, o, i)
    else if 0 < d.mainLen then (b2, o, 0)
    else if 0 < d.epi then (b3, o, d.inner - 1)
    else d.startOuter (o + 1)
  else if pos < b3 then
    if pos + 1 < b3 then (pos + 1, o, i)
    else if d.inner ≤ i + 1 then (if 0 < d.epi then (b3, o, i) else d.startOuter (o + 1))
    else (b2, o, i + 1)
  else if pos + 1 < b3 + d.epi then (pos + 1, o, i)
  else d.startOuter (o + 1)

/-- The outer index of an instruction: the last one's in the OEPI section. -/
def VEngine.oIdx (v : VEngine) (d : VDesc) : Nat := min v.outer (d.outer - 1)

/-- n of R207: the iteration's number. -/
def VEngine.iter (v : VEngine) (d : VDesc) : Nat := v.oIdx d * d.inner + v.inner

/-- The engine moves to the next instruction; cursors start anew with each outer iteration (R210); after a trap it stops at the
end of the iteration (R212). -/
def VEngine.advance (v : VEngine) (d : VDesc) : VEngine :=
  let (p, o, i) := d.next v.pos v.outer v.inner
  let fresh := o != v.outer
  let ended := decide (d.outer ≤ o) && decide (d.bodyLen ≤ p)
  { v with pos := p, outer := o, inner := i, finished := ended,
           stopped := v.stopped || (!v.traps.isEmpty && !ended && (fresh || i != v.inner || (decide (v.pos < d.opro) && decide (d.opro ≤ p)))),
           cursors := if fresh then List.replicate 8 0 else v.cursors,
           fbBytes := if fresh then List.replicate 8 0 else v.fbBytes }

/-! ## Words (R202) -/

/-- Bits [63:43] of an instruction. -/
def vHead (opc ty vd : Nat) (p : Pred) : Nat :=
  put opc 56 + put ty 53 + put vd 48 + put (b2n p.men) 47 + put p.ms 44 + put (b2n p.zm) 43

/-- The predicate of an instruction of each class. -/
def predR (f : RFields) : Pred := ⟨f.men, f.ms.val, f.zm⟩
def predI (f : IFields) : Pred := ⟨f.men, f.ms.val, f.zm⟩
def predM (f : MFields) : Pred := ⟨f.men, f.ms.val, f.zm⟩
def predT (f : TFields) : Pred := ⟨f.men, f.ms.val, f.zm⟩

/-- The word of a class R instruction. -/
def wordR (opc : Nat) (f : RFields) : Word :=
  word (vHead opc f.type.val f.vd.val (predR f) + put f.va.val 38 + put f.vb.val 33 + put f.vc.val 28 + put (b2n f.sr) 27 +
    put f.xf.val 24 + put (b2n f.ba) 23 + put f.lane.val 14 + put (b2n f.half) 13)

/-- The word of a class I instruction. -/
def wordI (opc : Nat) (f : IFields) : Word := word (vHead opc f.type.val f.vd.val (predI f) + f.imm.toNat)

/-- The word of a class M instruction; a store has no VD. -/
def wordM (opc : Nat) (f : MFields) : Word :=
  word (vHead opc f.type.val f.vd.val (predM f) + put f.va.val 38 + put f.as.val 35 + put f.off.toNat 19 + put f.xf.val 16)

/-- The word of a class T instruction, whose TYPE is W. -/
def wordT (opc : Nat) (f : TFields) : Word :=
  word (vHead opc 3 f.vd.val (predT f) + put f.va.val 38 + put f.eng.val 35 + put f.tile.val 32 + put f.row.val 25 +
    put (b2n f.c) 24)

/-! ## Running an instruction -/

/-- A NaN event of an element (R212): element number, cause, VA and VB codes, the destination before in AF42. -/
structure VEv where
  elem : Nat
  cause : Nat
  a : Nat
  b : Nat
  before : Nat
  deriving DecidableEq, Repr

/-- What an instruction comes to: it waits, an isolation fault of a mark or of a tile's owner (R195, R86), an uncorrectable
value read under a mark (R128), or its effect with the result's mark and its NaN events. -/
inductive VEnd where
  | wait
  | iso (tag : BitVec 16)
  | tile
  | bad (m : Mark)
  | ok (s : State) (v : VEngine) (evs : List VEv) (mark : Mark)

/-- An instruction goes on when its operands' marks allow it (R195), with the result's mark. -/
def withMarks (owner : Nat) (ms : List Mark) (k : Mark → VEnd) : VEnd :=
  match joinMarks owner ms with
  | some m => k m
  | none => .iso (((ms.find? fun m => m != Mark.neutral).map Mark.tag).getD 0xffff)

/-- The engine of a cluster while it holds a descriptor. -/
def State.vengine? (s : State) (u : VUnit) : Option VEngine := s.vengines.find? fun v => v.u == u && !v.desc.isEmpty
def State.setVEngine (s : State) (v : VEngine) : State :=
  { s with vengines := updFirst (fun x => x.u == v.u) (fun _ => v) s.vengines }

/-- The program of the job that an engine works for. -/
def State.vprogram? (s : State) (v : VEngine) : Option ProgramImage :=
  match s.job? (descStream v.desc) v.jobSeq, s.stream? (descStream v.desc).val with
  | some j, some x => (s.program? x.cab j.program).map Program.image
  | _, _ => none

/-- The instruction at which an engine stands: of the library body that it runs (R220), or of the program's text; none for the
serving stream, whose text the shelf program holds. -/
def State.textWord? (s : State) (v : VEngine) : Option Word :=
  if !v.body.isEmpty then v.body[v.pos]?
  else (s.vprogram? v).bind fun p => p.text[(vdesc v.desc).bodyStart + v.pos]?

/-- An engine runs an instruction: it holds a descriptor, has not finished or stopped, and stands at that word. -/
def State.vReady (s : State) (u : VUnit) (w : Word) : Option VEngine :=
  match s.vengine? u with
  | none => none
  | some v =>
    if v.finished || v.stopped || !(s.die u.die).inService || s.scopeHolds u.die u.cl || !vFormOk w then none
    else match s.textWord? v with
      | some x => if x = w then some v else none
      | none => some v

/-- What a store replaced put back. -/
def State.putBack (s : State) (v : VEngine) : Replaced → State
  | .rows au bytes marks =>
    s.modCluster v.u.die v.u.cl fun x =>
      { x with rowMem := x.rowMem.write (4096 * au) bytes,
               unitTags := marks.zipIdx.foldl (fun l m => putMark (64 * au + m.2) m.1 l) x.unitTags }
  | .tensor h off bytes marks =>
    s.modTensor (descStream v.desc) h v.u.die fun t =>
      { t with data := t.data.write off bytes, marks := marks.foldl (fun l m => putMark m.1 m.2 l) t.marks }
  | .prog h data =>
    let fix : TensorInfo → TensorInfo := fun y => if y.handle == h then { y with data := data } else y
    let hit : Program → Bool := fun q => some q.image == s.vprogram? v
    { s with programs := updFirst hit (fun q => { q with image := { q.image with tensors := q.image.tensors.map fix } }) s.programs }
  | .tile t => s.setTile t

/-- The vector engines that run a descriptor on a die. -/
def VEngine.isOp (v : VEngine) (die : Die) (st : Fin 4096) (q : BitVec 32) (op : BitVec 20) : Bool :=
  v.u.die == die && v.holds st q && v.opIndex == op

/-- The engines that run an engine's descriptor stop, in every cluster, and what its stores replaced is put back: its results are
withheld (R195). -/
def State.vWithhold (s : State) (v : VEngine) : State :=
  let mine := s.vengines.filter fun x => x.isOp v.u.die (descStream v.desc) v.jobSeq v.opIndex
  let s := mine.foldl (fun (s : State) x => x.undo.foldl (fun (s : State) r => s.putBack x r) s) s
  let halt : VEngine → VEngine := fun x =>
    if x.isOp v.u.die (descStream v.desc) v.jobSeq v.opIndex then { x with stopped := true, isolation := true, undo := [] } else x
  { s with vengines := s.vengines.map halt }

/-- The rows that a vector descriptor of the serving stream works on, those of the clusters it names, are seated again in the
die's next pass. -/
def State.vReseat (s : State) (v : VEngine) : State :=
  if (s.job? (descStream v.desc) v.jobSeq).isSome then s
  else
    let mask := (vdesc v.desc).clusterMask
    let upd : Pass → Pass := fun p =>
      { p with unseated := (p.unseated ++ (p.rows.zipIdx.filter fun r => mask.testBit r.1.cluster).map Prod.snd).dedup }
    s.modDie v.u.die fun y => { y with pass := y.pass.map upd }

/-- An isolation fault (R86, R195): the descriptor stops, its results are withheld, its job ends with a code. -/
def State.vIsolate (s : State) (v : VEngine) (code : Nat) : State :=
  ((s.vWithhold v).vReseat v).stopJob (descStream v.desc) v.jobSeq code []

/-- The work of an engine, for reports. -/
def VEngine.touch (v : VEngine) (tag : BitVec 16) : Touch :=
  { stream := descStream v.desc, jobSeq := v.jobSeq, opIndex := v.opIndex, rowTag := tag, request := none, run := none }

/-- The owners of rows of a cluster's seating that carry a mark (R173, R194). -/
def State.markScopes (s : State) (u : VUnit) (m : Mark) : List (Option Nat × Option (BitVec 32)) :=
  match (s.die u.die).pass, s.logicalOf u.die u.cl with
  | some p, some l => ((p.rows.filter fun r =>
      r.cluster == l && r.tag == m.tag && s.gloveSlot u.die u.cl r.glove == m.slot).map fun r => (r.request, r.run)).dedup
  | _, _ => []

/-- The scopes of an event (R173): the stream, or in the serving stream the owners of rows with the mark. -/
def State.vScopes (s : State) (v : VEngine) (m : Mark) : List (Option Nat × Option (BitVec 32)) :=
  if (s.job? (descStream v.desc) v.jobSeq).isSome then [(none, none)] else s.markScopes v.u m

/-- The format code of a vector type in a trap record (R212); 15 for I32 and I16, which have none. -/
def vFmtCode (ty : Nat) : Nat := match ty with | 0 => 0 | 1 => 1 | 2 => 2 | 3 => 12 | 6 => 11 | _ => 15

/-- The trap record of a vector engine's event (R212); `src` is the source type. -/
def State.vRecord (s : State) (v : VEngine) (ty src : Nat) (m : Mark) (e : VEv) : List Word :=
  let d := vdesc v.desc
  [word (put v.jobSeq.toNat 32 + put d.stream 20 + v.opIndex.toNat),
   word (put v.u.die.val 60 + put ((s.logicalOf v.u.die v.u.cl).getD 0) 56 + put e.elem 41 + put v.pos 21),
   word (put (v.iter d % 2 ^ 20) 44 + put (vFmtCode src) 40 + put (vFmtCode src) 36 + put (vFmtCode ty) 32 + put e.cause 24),
   word s.now, word (put d.seq 40 + put m.tag.toNat 24), word (put (e.a % 2 ^ 32) 32 + e.b % 2 ^ 32), word e.before, 0]

/-- The traps of an instruction's NaN events, one a scope (R174, R175). -/
def State.vTraps (s : State) (v : VEngine) (ty src : Nat) (m : Mark) (evs : List VEv) : List Trap :=
  if !(vdesc v.desc).sent then []
  else (evs.flatMap fun e => (s.vScopes v m).map fun k =>
    ({ request := k.1, run := k.2, record := s.vRecord v ty src m e, more := 0 } : Trap)).foldl addTrap []

/-- An uncorrectable value read by an engine (R128, R353): a job ends; in the serving stream the request or the run's step whose
values it reads is lost, as for its key-value cache and its saved activations. -/
def State.vLose (s : State) (v : VEngine) (m : Mark) : State :=
  if (s.job? (descStream v.desc) v.jobSeq).isSome then
    (s.setVEngine { v with stopped := true }).stopJob (descStream v.desc) v.jobSeq Code.dataUncorrectable []
  else
    (s.vScopes v m).foldl (fun (s : State) k => match k.1, k.2 with
      | some i, _ => s.endRequest i Code.dataUncorrectable
      | none, some id => s.loseStep id
      | none, none => s) ((s.setVEngine { v with stopped := true }).vReseat v)

/-- The issue of an engine's descriptor. -/
def State.vIssue (s : State) (v : VEngine) : Issue :=
  { cab := (s.cabOfDie v.u.die).getD 0, st := descStream v.desc, job := s.job? (descStream v.desc) v.jobSeq, pass := none }

/-- Issue occupancy in cycles (R204): 32-bit and integer types, then 16-bit float types and W. -/
def vOccupancy (opc ty : Nat) : Nat :=
  let slow := ty = 1 || ty = 2 || ty = 3
  let k := if slow then 2 else 1
  if opc ≤ 0x08 || opc = 0x10 then k
  else if opc = 0x09 || opc = 0x0a || opc = 0x0d then 8 * k
  else if opc = 0x0b || opc = 0x0c then 4 * k
  else if 0x21 ≤ opc && opc ≤ 0x23 || 0x34 ≤ opc then 2
  else 1

/-- An instruction's end. `src` is its source type. A malformed value is reported under the class of an uncorrectable store word,
and as no part of the cluster has failed it triggers no policy (DESIGN CHOICE, assumption 84). -/
def State.vFinish (s : State) (v : VEngine) (w : Word) (src : Nat) : VEnd → State
  | .wait => s
  | .iso tag =>
    (s.isolation 3 3 (Fin.ofNat 64 v.u.cl.val) v.u.die (s.cabOfDie v.u.die) [v.touch tag]).vIsolate v Code.isolationFault
  | .tile =>
    (s.isolation 2 3 (Fin.ofNat 64 v.u.cl.val) v.u.die (s.cabOfDie v.u.die) [v.touch 0xffff]).vIsolate v Code.tileNotOwned
  | .bad m =>
    (s.logReport { cls := Cls.storeUncorrectable, severity := 1, block := 3, unit := Fin.ofNat 64 v.u.cl.val, die := v.u.die,
                   cab := s.cabOfDie v.u.die, d2 := 0, d3 := 0,
                   touched := (s.vScopes v m).map fun k => { v.touch m.tag with request := k.1, run := k.2 } } 0xff 0).vLose v m
  | .ok s v' evs m =>
    let ts := s.vTraps v (vType w) src m evs
    let cyc := vOccupancy (bits w 63 56) (vType w)
    let v' := ({ v' with traps := ts.foldl addTrap v'.traps,
                         counts := { v'.counts with busy := satAdd (2 ^ 32 - 1) v'.counts.busy cyc } }).advance (vdesc v.desc)
    (s.setVEngine v').trapJob (s.vIssue v) v.jobSeq ts

/-- An instruction on the engine of a cluster. -/
def State.vRun (s : State) (u : VUnit) (w : Word) (src : Nat) (f : State → VEngine → VDesc → VEnd) : State :=
  match s.vReady u w with
  | none => s
  | some v => s.vFinish v w src (f s v (vdesc v.desc))

/-- An engine that starts a descriptor (R192): registers, masks and flags zero, marks neutral. -/
def VEngine.load (u : VUnit) (words : List Word) (q : BitVec 32) (op : BitVec 20) : VEngine :=
  let d := vdesc words
  let (p, o, i) := d.start
  { VEngine.reset u with desc := words, jobSeq := q, opIndex := op, pos := p, outer := o, inner := i,
                         finished := decide (d.outer ≤ o) && decide (d.bodyLen ≤ p) }

end Sys2Proof.Machine
end

