-- ==== Sys2Proof/Machine/VArith.lean ====
section
/-!
DEFINITION. The register instructions of the vector engine (R203 to R208, R211, R213): arithmetic in every element type,
comparisons and masks, selection, bit operations, conversions, reductions, remainder planes, sticky flags.
-/

namespace Sys2Proof.Machine

/-! ## Elementwise arithmetic -/

/-- An elementwise operation: its number of operands, its exact result, when it is invalid or divides by zero, its meaning on
integers, whether a NaN of the third operand counts as the first (R169). -/
structure VFn where
  nops : Nat
  exact : FV → FV → FV → XV
  inval : FV → FV → FV → Bool
  dz : FV → FV → Bool
  ints : Int → Int → Int
  cFirst : Bool

/-- The result of an element: code, STRICT flags, overflows counted, the cause of its NaN event. -/
structure VElem where
  code : Nat
  flags : Nat
  ovf : Nat
  cause : Option Nat
  deriving DecidableEq, Repr

/-- The least and greatest value that a rounding into an integer type gives: INT8 is ±127 (R207). -/
def intRange (ty : Nat) : Int × Int :=
  match ty with
  | 4 => (-(2 ^ 31), 2 ^ 31 - 1)
  | 5 => (-(2 ^ 15), 2 ^ 15 - 1)
  | _ => (-127, 127)

/-- An exact value rounded into an integer type: to nearest even, saturating, NaN 0; and whether it overflows (R139, R207). -/
def toInt (ty : Nat) (inf : Bool) (x : XV) : Nat × Nat :=
  let (lo, hi) := intRange ty
  match x with
  | .nan => (0, 0)
  | .inf s => (unsigned (vElemBits ty) (if s then lo else hi), b2n (!inf))
  | .frac s n d e =>
    let m := (roundQuot .nearest n d e).1
    let z : Int := if s then -(m : Int) else m
    (unsigned (vElemBits ty) (max lo (min hi z)), b2n (decide (z < lo) || decide (hi < z)))

/-- One element of an arithmetic instruction (R205, R206). -/
def vElem (fn : VFn) (strict inf : Bool) (ty : Nat) (mode : RMode) (a b c : VNum) : VElem :=
  let ops := if fn.nops = 1 then [a] else if fn.nops = 2 then [a, b] else if fn.cFirst then [c, a, b] else [a, b, c]
  if isInt ty && ops.all fun o => isInt o.ty then ⟨unsigned (vElemBits ty) (fn.ints a.int b.int), 0, 0, none⟩
  else
    let x := fn.exact a.val b.val c.val
    let iv := fn.inval a.val b.val c.val
    let cause := if ops.any fun o => o.val.isNan then some 10 else if iv then some 11 else none
    if isInt ty then
      let (k, o) := toInt ty inf x
      ⟨k, 0, o, cause⟩
    else
      let r := floatOp strict ty mode ops x iv (fn.dz a.val b.val)
      ⟨r.code, if strict && ty != 3 then r.flags else 0, 0, cause⟩

/-- The source type of an arithmetic instruction (R202). -/
def srcType (f : RFields) : Nat := if f.xf.val = 7 then f.type.val else f.xf.val

/-- Elements that an instruction between two types covers, and where they begin in a register of each (R206): `half` picks
among the elements of the one that holds more. -/
def coverage (st ty : Nat) (half : Bool) : Nat × Nat × Nat :=
  let n := min (vCount st) (vCount ty)
  (n, if vCount ty < vCount st then n * b2n half else 0, if vCount st < vCount ty then n * b2n half else 0)

/-- A W element whose container has a bit above the value (R128). -/
def badW (ty code : Nat) : Bool := ty == 3 && decide (2 ^ 42 ≤ code)

/-- The sticky flags of an element of a register (R213). -/
def VEngine.flag (v : VEngine) (n e : Nat) : BitVec 8 := (assocGet (n, e) v.flags).getD 0

/-- Sticky flags raised at elements of a register (R213). That each register has flags of its own is read from VGETF's operand
and from R220, whose flag tensor takes a byte per entry from twelve accumulators (DEDUCED, assumption 87). -/
def VEngine.raise (v : VEngine) (n : Nat) (fs : List (Nat × Nat)) : VEngine :=
  let all := fs.foldl (fun a f => a ||| f.2) 0
  if all = 0 then v
  else
    let one := fun (l : List ((Nat × Nat) × BitVec 8)) (f : Nat × Nat) =>
      if f.2 = 0 then l else assocPut (n, f.1) ((assocGet (n, f.1) l).getD 0 ||| BitVec.ofNat 8 f.2) l
    { v with flags := fs.foldl one v.flags, counts := { v.counts with strictFlags := v.counts.strictFlags ||| all } }

/-- An operand of VA: under BA one element for all (R202). -/
def VEngine.opA (v : VEngine) (f : RFields) (st j : Nat) : VNum :=
  ⟨st, v.elem st f.va.val (if f.ba then (f.lane.val + v.inner) % vCount st else j)⟩

/-- The rounding of an element into a float destination (R207); STRICT ignores SR (R168). Where an instruction mixes types, E of
R207 is read as the elements per register of TYPE, its destination type (DESIGN CHOICE, assumption 81). -/
def VEngine.mode (v : VEngine) (d : VDesc) (f : RFields) (ty j : Nat) : RMode :=
  rmode (if f.sr && !d.strict then some (v.seed.getD d.seed) else none) (v.iter d * vCount ty + j)

/-- The value of an element as AF42, for a trap record (R212). -/
def widenAF (ty code : Nat) : Nat := if ty = 3 then code % 2 ^ 42 else afExact (VNum.val ⟨ty, code⟩)

/-- An arithmetic instruction whose elements `one` computes, given the place in the destination (R205, R206, R212). -/
def vLanes (f : RFields) (v : VEngine) (d : VDesc) (nops st : Nat) (one : Nat → VNum → VNum → VNum → VElem) (s : State) :
    VEnd :=
  let ty := f.type.val
  let p := predR f
  let (n, sb, db) := coverage st ty f.half
  let ms := v.marksOf st f.va.val ++ (if 2 ≤ nops then v.marksOf st f.vb.val else []) ++
    (if 3 ≤ nops then v.marksOf ty f.vc.val else []) ++ v.predMarks p ++ v.keptMarks p (n == vCount ty) ty f.vd.val
  withMarks d.owner ms fun mark =>
    let live := (List.range n).filter fun j => v.active p ty (db + j)
    let args := live.map fun j => (db + j, v.opA f st (sb + j),
      (⟨st, if 2 ≤ nops then v.elem st f.vb.val (sb + j) else 0⟩ : VNum),
      (⟨ty, if 3 ≤ nops then v.elem ty f.vc.val (db + j) else 0⟩ : VNum))
    if args.any fun q => badW q.2.1.ty q.2.1.code || badW q.2.2.1.ty q.2.2.1.code || badW q.2.2.2.ty q.2.2.2.code then .bad mark
    else
      let rs := args.map fun q => (q, one q.1 q.2.1 q.2.2.1 q.2.2.2)
      let codes := rs.map fun r => (r.1.1, r.2.code)
      let evs := rs.filterMap fun r => r.2.cause.map fun c =>
        ({ elem := r.1.1, cause := c, a := r.1.2.1.code, b := r.1.2.2.1.code,
           before := widenAF ty (v.elem ty f.vd.val r.1.1) } : VEv)
      let v := v.writeElems ty f.vd.val fun e =>
        if db ≤ e && e < db + n then v.result p ty e ((assocGet e codes).getD 0) else none
      let v := (v.setMark ty f.vd.val mark).raise f.vd.val (rs.map fun r => (r.1.1, r.2.flags))
      .ok s { v with counts := v.counts.addOverflow (rs.map fun r => r.2.ovf).sum } evs mark

/-- An arithmetic instruction of the table (0x01 to 0x0D). -/
def vArith (opc : Nat) (fn : VFn) (u : VUnit) (f : RFields) (s : State) : Out :=
  .next (s.vRun u (wordR opc f) (srcType f) fun s v d =>
    vLanes f v d fn.nops (srcType f) (fun j a b c => vElem fn d.strict d.inf f.type.val (v.mode d f f.type.val j) a b c) s)

def never2 : FV → FV → Bool := fun _ _ => false
def never3 : FV → FV → FV → Bool := fun _ _ _ => false

/-- a + b. -/
def fnAdd : VFn := ⟨2, fun a b _ => (a.add b).exact, fun a b _ => a.addInvalid b, never2, fun a b => a + b, false⟩
/-- a − b. -/
def fnSub : VFn := ⟨2, fun a b _ => (a.sub b).exact, fun a b _ => a.addInvalid b.negate, never2, fun a b => a - b, false⟩
/-- a × b. -/
def fnMul : VFn := ⟨2, fun a b _ => (a.mul b).exact, fun a b _ => a.mulInvalid b, never2, fun a b => a * b, false⟩
/-- a × b + c with one rounding. -/
def fnFma : VFn :=
  ⟨3, fun a b c => ((a.mul b).add c).exact, fun a b c => a.mulInvalid b || (a.mul b).addInvalid c, never2, fun _ _ => 0, true⟩
def fnMin : VFn := ⟨2, fun a b _ => (a.min b).exact, never3, never2, fun a b => min a b, false⟩
def fnMax : VFn := ⟨2, fun a b _ => (a.max b).exact, never3, never2, fun a b => max a b, false⟩
def fnAbs : VFn := ⟨1, fun a _ _ => (a.withSign false).exact, never3, never2, fun a _ => (a.natAbs : Int), false⟩
def fnNeg : VFn := ⟨1, fun a _ _ => a.negate.exact, never3, never2, fun a _ => -a, false⟩
/-- a ÷ b. -/
def fnDiv : VFn := ⟨2, fun a b _ => a.quot b, fun a b _ => a.quotInvalid b, FV.divByZero, fun _ _ => 0, false⟩
def fnSqrt : VFn := ⟨1, fun a _ _ => a.root, fun a _ _ => a.rootInvalid, never2, fun _ _ => 0, false⟩
def fnExp : VFn := ⟨1, fun a _ _ => a.expo, never3, never2, fun _ _ => 0, false⟩
/-- d(a, b) of R185. -/
def fnDexp : VFn := ⟨2, fun a b _ => (af (dCorr (afExact a) (afExact b))).exact, never3, never2, fun _ _ => 0, false⟩
/-- a × b ÷ c, the exact quotient rounded once. -/
def fnMulDiv : VFn :=
  ⟨3, fun a b c => (a.mul b).quot c, fun a b c => a.mulInvalid b || (a.mul b).quotInvalid c, never2, fun _ _ => 0, false⟩

/-- VADD (R204). -/
def execVadd (u : VUnit) (f : RFields) (s : State) : Out := vArith 0x01 fnAdd u f s
/-- VSUB (R204). -/
def execVsub (u : VUnit) (f : RFields) (s : State) : Out := vArith 0x02 fnSub u f s
/-- VMUL (R204). -/
def execVmul (u : VUnit) (f : RFields) (s : State) : Out := vArith 0x03 fnMul u f s
/-- VFMA (R204). -/
def execVfma (u : VUnit) (f : RFields) (s : State) : Out := vArith 0x04 fnFma u f s
/-- VMIN (R204). -/
def execVmin (u : VUnit) (f : RFields) (s : State) : Out := vArith 0x05 fnMin u f s
/-- VMAX (R204). -/
def execVmax (u : VUnit) (f : RFields) (s : State) : Out := vArith 0x06 fnMax u f s
/-- VABS (R204). -/
def execVabs (u : VUnit) (f : RFields) (s : State) : Out := vArith 0x07 fnAbs u f s
/-- VNEG (R204). -/
def execVneg (u : VUnit) (f : RFields) (s : State) : Out := vArith 0x08 fnNeg u f s
/-- VDIV (R204). -/
def execVdiv (u : VUnit) (f : RFields) (s : State) : Out := vArith 0x09 fnDiv u f s
/-- VSQRT (R204). -/
def execVsqrt (u : VUnit) (f : RFields) (s : State) : Out := vArith 0x0a fnSqrt u f s
/-- VEXP (R204). -/
def execVexp (u : VUnit) (f : RFields) (s : State) : Out := vArith 0x0b fnExp u f s
/-- VDEXP (R204). -/
def execVdexp (u : VUnit) (f : RFields) (s : State) : Out := vArith 0x0c fnDexp u f s
/-- VMULDIV (R204). -/
def execVmuldiv (u : VUnit) (f : RFields) (s : State) : Out := vArith 0x0d fnMulDiv u f s

/-! ## Comparisons and masks -/

/-- The predicate of XF on two elements (R204). -/
def vCompare (xf : Nat) (a b : VNum) : Bool :=
  let x := a.val
  let y := b.val
  match xf with
  | 0 => x.eqv y
  | 1 => !(x.eqv y)
  | 2 => x.lt y
  | 3 => x.lt y || x.eqv y
  | 4 => y.lt x
  | 5 => y.lt x || x.eqv y
  | 6 => x.isNan || y.isNan
  | _ => x.isInf

/-- A register of three bits that names a mask. -/
def maskNo (n : Nat) : Nat := n % 8

/-- A mask that an instruction writes by elements (R191); its flags are those of the elements compared, at VA (assumption 87). -/
def vMaskOut (f : RFields) (v : VEngine) (d : VDesc) (ms : List Mark) (res : Nat → Bool) (fs : List (Nat × Nat)) (s : State) :
    VEnd :=
  let p := predR f
  let m := maskNo f.vd.val
  let kept := if p.men && !p.zm then [v.maskMark m] else []
  withMarks d.owner (ms ++ v.predMarks p ++ kept) fun mark =>
    .ok s (((v.writeMask p f.type.val m res).setMaskMark m mark).raise f.va.val fs) [] mark

/-- VCMP (R204): in STRICT a signalling NaN raises NV. It is read as neither an arithmetic, a conversion nor a reduction
instruction, so an active NaN that it compares is no NaN event of R212 (DESIGN CHOICE, assumption 83). -/
def execVcmp (u : VUnit) (f : RFields) (s : State) : Out :=
  .next (s.vRun u (wordR 0x10 f) f.type.val fun s v d =>
    let ty := f.type.val
    let b := fun (j : Nat) => (⟨ty, v.elem ty f.vb.val j⟩ : VNum)
    let live := (List.range (vCount ty)).filter (v.active (predR f) ty)
    if live.any fun j => badW ty (v.opA f ty j).code || badW ty (b j).code then .bad (v.regMark f.va.val)
    else
      let fs := if d.strict && decide (ty ≤ 2) then live.map fun j =>
          (j, if (v.opA f ty j).signalling || (b j).signalling then flagNV else 0) else []
      vMaskOut f v d (v.marksOf ty f.va.val ++ v.marksOf ty f.vb.val) (fun j => vCompare f.xf.val (v.opA f ty j) (b j)) fs s)

/-- A mask operation on the bits that govern elements. -/
def vMaskOp (opc : Nat) (two : Bool) (op : Bool → Bool → Bool) (u : VUnit) (f : RFields) (s : State) : Out :=
  .next (s.vRun u (wordR opc f) f.type.val fun s v d =>
    let a := maskNo f.va.val
    let b := maskNo f.vb.val
    let step := vMaskStep f.type.val
    vMaskOut f v d ([v.maskMark a] ++ (if two then [v.maskMark b] else []))
      (fun j => op (v.maskBit a (step * j)) (v.maskBit b (step * j))) [] s)

/-- MAND (R204). -/
def execMand (u : VUnit) (f : RFields) (s : State) : Out := vMaskOp 0x11 true (fun a b => a && b) u f s
/-- MOR (R204). -/
def execMor (u : VUnit) (f : RFields) (s : State) : Out := vMaskOp 0x12 true (fun a b => a || b) u f s
/-- MNOT (R204). -/
def execMnot (u : VUnit) (f : RFields) (s : State) : Out := vMaskOp 0x13 false (fun a _ => !a) u f s

/-- MRANGE (R204): element j active when LO ≤ j < HI. -/
def execMrange (u : VUnit) (f : IFields) (s : State) : Out :=
  .next (s.vRun u (wordI 0x14 f) f.type.val fun s v d =>
    let p := predI f
    let m := maskNo f.vd.val
    let hi := f.imm.toNat / 2 ^ 16
    let lo := f.imm.toNat % 2 ^ 16
    let kept := if p.men && !p.zm then [v.maskMark m] else []
    withMarks d.owner (v.predMarks p ++ kept) fun mark =>
      .ok s ((v.writeMask p f.type.val m fun j => decide (lo ≤ j) && decide (j < hi)).setMaskMark m mark) [] mark)

/-! ## Selection, immediates, bits -/

/-- Every element of a register written by its place. -/
def vPlain (ty vd : Nat) (p : Pred) (v : VEngine) (d : VDesc) (ms : List Mark) (val : Nat → Nat) (s : State) : VEnd :=
  withMarks d.owner (ms ++ v.predMarks p ++ v.keptMarks p true ty vd) fun mark =>
    .ok s ((v.writeElems ty vd fun e => v.result p ty e (val e)).setMark ty vd mark) [] mark

/-- VSEL (R204). -/
def execVsel (u : VUnit) (f : RFields) (s : State) : Out :=
  .next (s.vRun u (wordR 0x15 f) f.type.val fun s v d =>
    let ty := f.type.val
    let m := maskNo f.vc.val
    vPlain ty f.vd.val (predR f) v d (v.marksOf ty f.va.val ++ v.marksOf ty f.vb.val ++ [v.maskMark m])
      (fun j => if v.maskBit m (vMaskStep ty * j) then (v.opA f ty j).code else v.elem ty f.vb.val j) s)

/-- VBCAST (R204): IMM in every 32-bit lane. -/
def execVbcast (u : VUnit) (f : IFields) (s : State) : Out :=
  .next (s.vRun u (wordI 0x16 f) f.type.val fun s v d =>
    let ty := f.type.val
    let x := f.imm.toNat
    vPlain ty f.vd.val (predI f) v d []
      (fun j => if ty = 3 then x + x <<< 32 else (x >>> (vElemBits ty * j % 32)) % 2 ^ vElemBits ty) s)

/-- A bit operation on integer elements of `w` bits. -/
def vBitOp (opc : Nat) (op : Nat → Nat → Nat → Nat) (u : VUnit) (f : RFields) (s : State) : Out :=
  .next (s.vRun u (wordR opc f) f.type.val fun s v d =>
    let ty := f.type.val
    let w := vElemBits ty
    vPlain ty f.vd.val (predR f) v d (v.marksOf ty f.va.val ++ v.marksOf ty f.vb.val)
      (fun j => op w (v.opA f ty j).code (v.elem ty f.vb.val j) % 2 ^ w) s)

/-- VAND (R204). -/
def execVand (u : VUnit) (f : RFields) (s : State) : Out := vBitOp 0x18 (fun _ a b => a &&& b) u f s
/-- VOR (R204). -/
def execVor (u : VUnit) (f : RFields) (s : State) : Out := vBitOp 0x19 (fun _ a b => a ||| b) u f s
/-- VXOR (R204). -/
def execVxor (u : VUnit) (f : RFields) (s : State) : Out := vBitOp 0x1a (fun _ a b => a ^^^ b) u f s
/-- VSHL (R204). -/
def execVshl (u : VUnit) (f : RFields) (s : State) : Out := vBitOp 0x1b (fun w a b => a <<< (b % w)) u f s
/-- VSHR (R204). -/
def execVshr (u : VUnit) (f : RFields) (s : State) : Out := vBitOp 0x1c (fun w a b => a >>> (b % w)) u f s
/-- VSRA (R204). -/
def execVsra (u : VUnit) (f : RFields) (s : State) : Out :=
  vBitOp 0x1d (fun w a b => unsigned w (signed w a / (2 ^ (b % w) : Nat))) u f s

/-! ## Conversions -/

/-- One element of VCVT (R207): the code, the counts. An integer into I8 saturates to ±127 as INT8 does (R129); the spec states no
result for an integer that I16 does not hold. -/
def vConvert (inf : Bool) (ty : Nat) (mode : RMode) (a : VNum) (k : Counts) : Nat × Counts :=
  if isInt ty then
    if isInt a.ty then
      let w := vElemBits ty
      let fits := decide (-(2 ^ (w - 1) : Int) ≤ a.int) && decide (a.int < 2 ^ (w - 1))
      if ty = 6 && a.ty != 6 then
        (unsigned 8 (max (-127) (min 127 a.int)), k.addOverflow (b2n (decide (a.int < -127) || decide (127 < a.int))))
      else (if fits then unsigned w a.int else Config.intNarrow a.ty ty a.code % 2 ^ w, k)
    else
      let (c, o) := toInt ty inf a.val.exact
      (c, (k.addOverflow o).addNan (b2n a.val.isNan))
  else if ty = 3 then narrow1 12 inf mode a.val k
  else narrowFloat (vFmt ty) inf mode a.val k

/-- VCVT (R207): from XF, of which 7 means TYPE (R202). -/
def execVcvt (u : VUnit) (f : RFields) (s : State) : Out :=
  .next (s.vRun u (wordR 0x20 f) (srcType f) fun s v d =>
    let one := fun (j : Nat) (a _ _ : VNum) =>
      let (c, k) := vConvert d.inf f.type.val (v.mode d f f.type.val j) a Counts.zero
      (⟨c, 0, k.overflow, if a.val.isNan then some 10 else none⟩ : VElem)
    match vLanes f v d 1 (srcType f) one s with
    | .ok s' v' evs m =>
      let nans := if f.type.val = 4 || f.type.val = 5 then 0 else 1
      .ok s' { v' with counts := v'.counts.addNan (nans * (evs.filter fun e => e.cause == 10).length) } evs m
    | r => r)

/-! ## Reductions (R208) -/

/-- One level of the tree: node k combines nodes 2k and 2k+1. -/
def treeLevel (add : VRes → VRes → VRes) : List (Option VRes) → List (Option VRes)
  | x :: y :: r => (match x, y with
      | some a, some b => some (add a b)
      | some a, none => some a
      | none, b => b) :: treeLevel add r
  | l => l

/-- The root of the tree after `n` levels. -/
def treeSum (add : VRes → VRes → VRes) : Nat → List (Option VRes) → Option VRes
  | 0, l => l.headD none
  | n + 1, l => treeSum add n (treeLevel add l)

/-- One addition of the tree. -/
def treeAdd (strict : Bool) (ty : Nat) (mode : RMode) (a b : VRes) : VRes :=
  let x : VNum := ⟨ty, a.code⟩
  let y : VNum := ⟨ty, b.code⟩
  let r := floatOp strict ty mode [x, y] (x.val.add y.val).exact (x.val.addInvalid y.val) false
  ⟨r.code, a.flags ||| b.flags ||| r.flags, a.inval || b.inval || r.inval⟩

/-- x is strictly nearer the sought extreme than y. -/
def vBeats (largest : Bool) (x y : VNum) : Bool :=
  if isInt x.ty then (if largest then decide (y.int < x.int) else decide (x.int < y.int))
  else if largest then y.val.ltTotal x.val else x.val.ltTotal y.val

/-- The extreme element, its lowest occurrence. -/
def vExtreme (largest : Bool) : List (Nat × VNum) → Option (Nat × VNum)
  | [] => none
  | x :: xs => some (xs.foldl (fun b y => if vBeats largest y.2 b.2 then y else b) x)

/-- What MAX and MIN give with no active element. -/
def vNoElement (ty : Nat) (largest : Bool) : Nat :=
  if isInt ty then (if largest then 2 ^ (vElemBits ty - 1) else 2 ^ (vElemBits ty - 1) - 1)
  else (vFmt ty).infCode largest

/-- A reduction: value, index, flags of lane 2, STRICT flags, whether an addition was invalid. -/
structure VRedOut where
  code : Nat
  index : Nat
  flags : Nat
  strict : Nat
  inval : Bool
  deriving DecidableEq, Repr

/-- VRED's table (R208). -/
def vReduce (kind : Nat) (strict : Bool) (ty : Nat) (mode : RMode) (es : List (Nat × VNum)) (places : List (Option VRes)) :
    VRedOut :=
  let arg := decide (3 ≤ kind)
  let largest := kind == 1 || kind == 3
  let nan := es.find? fun e => e.2.val.isNan
  match nan with
  | some e =>
    let sig := es.any fun e => e.2.signalling
    let q := strict && ty != 3
    ⟨if q then nanConv (vFmt ty) (vFmt ty) e.2.code else (vFmt ty).nanCode, if arg then e.1 else 0, 2,
      if q && sig then flagNV else 0, false⟩
  | none =>
    if kind = 0 then
      if isInt ty then ⟨unsigned 32 (es.map fun e => e.2.int).sum, 0, b2n es.isEmpty, 0, false⟩
      else match treeSum (treeAdd strict ty mode) 8 places with
        | some r => ⟨r.code, 0, 0, if strict && ty != 3 then r.flags else 0, r.inval⟩
        | none => ⟨0, 0, 1, 0, false⟩
    else match vExtreme largest es with
      | some e => ⟨e.2.code, if arg then e.1 else 0, 0, 0, false⟩
      | none => ⟨vNoElement ty largest, if arg then 0xffff else 0, 1, 0, false⟩

/-- VRED (R208). With SR every addition of the tree rounds by element number 0, R207 giving its nodes no number; the bits of lane 0
above an 8-bit or 16-bit result are zero, signed results included (DESIGN CHOICE, assumption 82). -/
def execVred (u : VUnit) (f : RFields) (s : State) : Out :=
  .next (s.vRun u (wordR 0x21 f) f.type.val fun s v d =>
    let ty := f.type.val
    let p := predR f
    let all := (List.range (vCount ty)).map fun j => (j, v.opA f ty j)
    let es := all.filter fun e => v.active p ty e.1
    let places := all.map fun e => if v.active p ty e.1 then some (⟨e.2.code, 0, false⟩ : VRes) else none
    if es.any fun e => badW ty e.2.code then .bad (v.regMark f.va.val)
    else withMarks d.owner (v.marksOf ty f.va.val ++ v.predMarks p) fun mark =>
      let r := vReduce f.xf.val d.strict ty (v.mode d f ty 0) es places
      let before := widenAF ty (v.elem ty f.vd.val 0)
      let evs := (es.filter fun e => e.2.val.isNan).map fun e =>
        ({ elem := e.1, cause := 10, a := e.2.code, b := 0, before := before } : VEv)
      let evs := if r.inval then [{ elem := 0, cause := 11, a := (v.opA f ty 0).code, b := 0, before := before }] else evs
      let w := v.putReg f.vd.val (packBits 32 [r.code % 2 ^ 32, r.index, r.flags])
      let w := if ty = 3 then w.putReg (f.vd.val + 1) (r.code >>> 32) else w
      let k := { w.counts with emptyRows := satAdd 0xffff w.counts.emptyRows (r.flags % 2) }
      .ok s ((({ w with counts := k } : VEngine).setMark ty f.vd.val mark).raise f.vd.val [(0, r.strict)]) evs mark)

/-! ## Remainder planes (R211) -/

/-- VSPLIT (R152, R211): W elements into BF16 weights and I8 remainders. Its two destinations differ in type, so element j is
active by the mask bit of the W element that it comes from, bit 4j (DESIGN CHOICE, assumption 44). -/
def execVsplit (u : VUnit) (f : RFields) (s : State) : Out :=
  .next (s.vRun u (wordR 0x22 f) 3 fun s v d =>
    let p := predR f
    let vd := f.vd.val
    let base := 128 * b2n f.half
    let live := (List.range 128).filter fun j => v.active p 3 j
    let ms := v.marksOf 3 f.va.val ++ v.predMarks p ++ v.marksOf 2 vd ++ v.marksOf 6 (vd + 1)
    if live.any fun j => badW 3 (v.opA f 3 j).code then .bad (v.regMark f.va.val)
    else withMarks d.owner ms fun mark =>
      let rs := live.map fun j => (j, (v.opA f 3 j), splitW (v.opA f 3 j).val Counts.zero)
      let out := fun (pick : Nat × Nat × Counts → Nat) (e : Nat) =>
        if base ≤ e && e < base + 128 then
          v.result p 3 (e - base) (((rs.find? fun r => r.1 == e - base).map fun r => pick r.2.2).getD 0)
        else none
      let evs := (rs.filter fun r => r.2.1.val.isNan).map fun r =>
        ({ elem := r.1, cause := 10, a := r.2.1.code, b := 0, before := widenAF 2 (v.elem 2 vd (base + r.1)) } : VEv)
      let w := (v.writeElems 2 vd (out fun r => r.1)).writeElems 6 (vd + 1) (out fun r => r.2.1)
      let k := w.counts.addOverflow (rs.map fun r => r.2.2.2.2.overflow).sum
      .ok s ((({ w with counts := k } : VEngine).setMark 2 vd mark).setMark 6 (vd + 1) mark) evs mark)

/-- VJOIN (R151, R211): BF16 weights and I8 remainders into W. -/
def execVjoin (u : VUnit) (f : RFields) (s : State) : Out :=
  .next (s.vRun u (wordR 0x23 f) 2 fun s v d =>
    let p := predR f
    let base := 128 * b2n f.half
    let va := fun (j : Nat) => (v.opA f 2 (base + j)).code
    let vb := fun (j : Nat) => v.elem 6 f.vb.val (base + j)
    let ms := v.marksOf 2 f.va.val ++ v.marksOf 6 f.vb.val ++ v.predMarks p ++ v.keptMarks p true 3 f.vd.val
    withMarks d.owner ms fun mark =>
      let live := (List.range 128).filter fun j => v.active p 3 j
      let evs := (live.filter fun j => (fBF16.dec (va j)).isNan).map fun j =>
        ({ elem := j, cause := 10, a := va j, b := vb j, before := widenAF 3 (v.elem 3 f.vd.val j) } : VEv)
      let w := v.writeElems 3 f.vd.val fun e => v.result p 3 e (afExact (joinWR (va e) (vb e)))
      .ok s (w.setMark 3 f.vd.val mark) evs mark)

/-! ## Flags -/

/-- VGETF (R213): the sticky flags of VA's elements as I8 elements, then cleared. -/
def execVgetf (u : VUnit) (f : RFields) (s : State) : Out :=
  .next (s.vRun u (wordR 0x28 f) (srcType f) fun s v d =>
    let p := predR f
    let n := vCount (srcType f)
    withMarks d.owner (v.marksOf (srcType f) f.va.val ++ v.predMarks p ++ v.keptMarks p (n == 512) 6 f.vd.val) fun mark =>
      let w := v.writeElems 6 f.vd.val fun e =>
        if e < n then v.result p 6 e ((v.flag f.va.val e).toNat) else none
      let left := v.flags.filter fun x => !(x.1.1 == f.va.val && decide (x.1.2 < n) && v.active p 6 x.1.2)
      .ok s ({ w with flags := left }.setMark 6 f.vd.val mark) [] mark)

end Sys2Proof.Machine
end

