-- ==== Sys2Proof/Machine/VMem.lean ====
section
/-!
DEFINITION. The memory and tile instructions of the vector engine (R102, R194, R196, R200, R204, R209, R210, R217): the row
region, tensors, MX and FB16 rows, accumulator tiles, with the marks that a load brings and a store gives.
-/

namespace Sys2Proof.Machine

/-! ## Places -/

/-- Where an access falls: bytes of the row region, of a tensor of the program, of a tensor of the stream. -/
inductive VPlace where
  | rows (addr : Nat)
  | prog (t : TensorInfo) (off : Nat)
  | tensor (t : Tensor) (off : Nat)
  deriving DecidableEq, Repr

/-- First byte above the row region. -/
def rowsEnd : Nat := 64 * 0x60000

/-- The place at a byte offset of an address stream; none outside the row region or the tensor. -/
def State.vPlace? (s : State) (v : VEngine) (d : VDesc) (n : Nat) (off : Int) : Option VPlace :=
  if d.base n = 0 then none
  else if d.isTensor n then
    if off < 0 then none
    else match (s.vprogram? v).bind fun p => p.tensors.find? fun t => t.handle.toNat == d.base n with
      | some t => if off.toNat < t.bytes then some (.prog t off.toNat) else none
      | none => match s.tensor? (descStream v.desc) (BitVec.ofNat 32 (d.base n)) v.u.die with
        | some t => if off.toNat < t.bytes then some (.tensor t off.toNat) else none
        | none => none
  else
    let a : Int := 64 * d.base n + off
    if 64 * 0x20000 ≤ a && a < rowsEnd then some (.rows a.toNat) else none

/-- The bytes of a place. -/
def VPlace.extent (n : Nat) : VPlace → Extent
  | .rows a => ⟨0, a, n⟩
  | .prog t off => ⟨t.handle.toNat, off, n⟩
  | .tensor t off => ⟨t.handle.toNat, off, n⟩

/-- An access of `n` bytes waits (R217): an earlier descriptor of the job that has not retired on the die writes to one of its
allocation units on a cluster of both; or, in any stream, an unretired matrix op's output goes to the tensor. -/
def State.vWaits (s : State) (v : VEngine) (n : Nat) (p : VPlace) : Bool :=
  (match p with
    | .tensor t _ => s.flights.any fun f =>
        f.die == v.u.die && f.stream == t.stream && (mdesc f.issue.words).out == t.handle.toNat
    | _ => false) ||
    match s.job? (descStream v.desc) v.jobSeq with
    | none => false
    | some j => (s.unretiredBefore v.u.die j v.opIndex.toNat).any fun e =>
        shareCluster e v.desc && (descWrites (s.jobText j) e).any (p.extent n).meets

/-- The glove slots whose units a descriptor reads (R102): slot 0, its tenant's, or those of the seating's rows. -/
def State.vSlots (s : State) (v : VEngine) : List (Fin 64) :=
  let own := match s.job? (descStream v.desc) v.jobSeq, s.stream? (descStream v.desc).val with
    | some _, some x => [s.gloveSlot v.u.die v.u.cl (s.streamGlove x)]
    | _, _ => match (s.die v.u.die).pass with
      | some p => p.rows.map fun r => s.gloveSlot v.u.die v.u.cl r.glove
      | none => []
  0 :: own

/-- A stream belongs to a tenant. -/
def State.isTenant (s : State) (st : Fin 4096) : Bool := ((s.stream? st.val).map fun x => x.owner == 1).getD false

/-- The mark of a tenant tensor's values (R194). -/
def State.tensorMark (s : State) (v : VEngine) (d : VDesc) (t : Tensor) : Mark :=
  ⟨s.gloveSlot v.u.die v.u.cl t.glove, BitVec.ofNat 16 d.owner⟩

/-- The mark that a load of `n` bytes brings (R194); none where units differ, or carry another tenant's slot. -/
def State.loadMark (s : State) (v : VEngine) (d : VDesc) (p : VPlace) (n : Nat) : Option Mark :=
  match p with
  | .rows a =>
    let ms := ((unitsOf a n).map (s.cluster v.u.die v.u.cl).mark).dedup
    match ms with
    | [m] => if (s.vSlots v).contains m.slot then some m else none
    | _ => none
  | .prog _ _ => some Mark.neutral
  | .tensor t off =>
    if s.isTenant t.stream then some (s.tensorMark v d t)
    else
      match ((unitsOf off n).map fun u => (assocGet u t.marks).getD Mark.neutral).dedup with
      | [m] => some m
      | _ => none

/-- `n` bytes at a place. -/
def State.loadBytes (s : State) (v : VEngine) (p : VPlace) (n : Nat) : List Byte :=
  match p with
  | .rows a => (s.cluster v.u.die v.u.cl).rowMem.read a n
  | .prog t off => ((t.data.drop off).take n ++ List.replicate n 0).take n
  | .tensor t off => t.data.read off n

/-- Bytes written one by one, absent ones left. -/
def writeSome (mem : Mem) (a : Nat) (bs : List (Option Byte)) : Mem :=
  (bs.zipIdx).foldl (fun m b => match b.1 with
    | some x => Mem.set (a + b.2) x m
    | none => m) mem

/-- The units that written bytes reach. -/
def unitsWritten (a : Nat) (bs : List (Option Byte)) : List Nat :=
  ((bs.zipIdx.filter fun b => b.1.isSome).map fun b => (a + b.2) / 64).dedup

/-- A store into the row region with a mark (R196). -/
def ClusterSt.store (x : ClusterSt) (a : Nat) (m : Mark) (bs : List (Option Byte)) : ClusterSt :=
  let x := (unitsWritten a bs).foldl (fun x u => x.claimUnit u m) x
  { x with rowMem := writeSome x.rowMem a bs }

/-- Bytes of a list replaced where present. -/
def patch (data : List Byte) (off : Nat) (bs : List (Option Byte)) : List Byte :=
  data.zipIdx.map fun b => if off ≤ b.2 then ((bs.getD (b.2 - off) none).getD b.1) else b.1

/-- What a store of `n` bytes is about to replace (R195). -/
def State.replaced (s : State) (v : VEngine) (n : Nat) : VPlace → List Replaced
  | .rows a =>
    let x := s.cluster v.u.die v.u.cl
    ((unitsOf a n).map fun u => u / 64).dedup.map fun au =>
      .rows au (x.rowMem.read (4096 * au) 4096) ((List.range 64).map fun i => x.mark (64 * au + i))
  | .prog t _ =>
    match (s.vprogram? v).bind fun p => p.tensors.find? fun y => y.handle == t.handle with
    | some y => [.prog y.handle y.data]
    | none => []
  | .tensor t off =>
    [.tensor t.handle off (t.data.read off n) ((unitsOf off n).map fun u => (u, (assocGet u t.marks).getD Mark.neutral))]

/-- A store at a place (R196); none where the mark names another tenant's slot. -/
def State.storeBytes (s : State) (v : VEngine) (d : VDesc) (p : VPlace) (m : Mark) (bs : List (Option Byte)) : Option State :=
  match p with
  | .rows a => some (s.modCluster v.u.die v.u.cl fun x => x.store a m (bs.take (rowsEnd - a)))
  | .prog t off =>
    if m.slot != 0 then none
    else
      let fix : TensorInfo → TensorInfo := fun y =>
        if y.handle == t.handle then { y with data := patch (y.data ++ List.replicate (y.bytes - y.data.length) 0) off bs } else y
      let image : ProgramImage → ProgramImage := fun i => { i with tensors := i.tensors.map fix }
      let hit : Program → Bool := fun q => some q.image == s.vprogram? v
      some { s with programs := updFirst hit (fun q => { q with image := image q.image }) s.programs }
  | .tensor t off =>
    let tenant := s.isTenant t.stream
    let serving := (s.job? (descStream v.desc) v.jobSeq).isNone
    if m.slot != 0 && !serving && !(tenant && m.slot == (s.tensorMark v d t).slot) then none
    else
      let bs := bs.take (t.bytes - off)
      let upd : Tensor → Tensor := fun y =>
        { y with data := writeSome y.data off bs,
                 marks := if serving then (unitsWritten off bs).foldl (fun l u => putMark u m l) y.marks else y.marks }
      some (s.modTensor t.stream t.handle t.die upd)

/-! ## Loads and stores -/

/-- Bytes of an element in memory (R190): a W element is a container. -/
def vSize (ty : Nat) : Nat := vElemBits ty / 8

/-- Element codes that bytes spell. -/
def codesOf (size : Nat) : Nat → List Byte → List Nat
  | 0, _ => []
  | n + 1, bs => ofLe (bs.take size) :: codesOf size n (bs.drop size)

/-- The destination of a load written: each element by its place, with the marks of the load, the predicate and what stays. -/
def vFill (ty vd : Nat) (p : Pred) (v : VEngine) (d : VDesc) (m : Mark) (val : Nat → Nat) (upd : VEngine → VEngine) (s : State) :
    VEnd :=
  withMarks d.owner ([m] ++ v.predMarks p ++ v.keptMarks p true ty vd) fun mark =>
    .ok s (upd ((v.writeElems ty vd fun e => v.result p ty e (val e)).setMark ty vd mark)) [] mark

/-- The byte offset and length that a memory instruction reaches now (R200). -/
def VEngine.reach (v : VEngine) (d : VDesc) (w : Word) : Int × Nat := d.span w v.inner (v.oIdx d)

/-- A load of `n` bytes at an instruction's address, then what is made of them. -/
def vLoadAt (s : State) (v : VEngine) (d : VDesc) (as : Nat) (off : Int) (n : Nat) (k : List Byte → Mark → VEnd) : VEnd :=
  match s.vPlace? v d as off with
  | none => .wait
  | some p =>
    if s.vWaits v n p then .wait
    else match s.loadMark v d p n with
      | none => .iso 0xffff
      | some m => k (s.loadBytes v p n) m

/-- Bytes stored at an address with the mark of their register and predicate; the engine notes what they replace. -/
def vStoreAt (s : State) (v : VEngine) (d : VDesc) (as : Nat) (off : Int) (m : Mark) (bs : List (Option Byte))
    (k : State → VEngine → VEnd) : VEnd :=
  match s.vPlace? v d as off with
  | none => .wait
  | some p =>
    if s.vWaits v bs.length p then .wait
    else match s.storeBytes v d p m bs with
      | none => .iso m.tag
      | some s' => k s' { v with undo := s.replaced v bs.length p ++ v.undo }

/-- VLD (R204): a register, or a pair of W. -/
def execVld (u : VUnit) (f : MFields) (s : State) : Out :=
  .next (s.vRun u (wordM 0x30 f) f.type.val fun s v d =>
    let ty := f.type.val
    let (off, n) := v.reach d (wordM 0x30 f)
    vLoadAt s v d f.as.val off n fun bs m =>
      let cs := codesOf (vSize ty) (vCount ty) bs
      if (List.range (vCount ty)).any fun j => v.active (predM f) ty j && badW ty (cs.getD j 0) then .bad m
      else vFill ty f.vd.val (predM f) v d m (fun e => cs.getD e 0) id s)

/-- VLDB (R204): one element for all. -/
def execVldb (u : VUnit) (f : MFields) (s : State) : Out :=
  .next (s.vRun u (wordM 0x32 f) f.type.val fun s v d =>
    let ty := f.type.val
    let (off, n) := v.reach d (wordM 0x32 f)
    vLoadAt s v d f.as.val off n fun bs m =>
      if badW ty (ofLe bs) && (List.range (vCount ty)).any (v.active (predM f) ty) then .bad m
      else vFill ty f.vd.val (predM f) v d m (fun _ => ofLe bs) id s)

/-- VST (R196, R203, R204). -/
def execVst (u : VUnit) (f : MFields) (s : State) : Out :=
  .next (s.vRun u (wordM 0x31 f) f.type.val fun s v d =>
    let ty := f.type.val
    let p := predM f
    let (off, _) := v.reach d (wordM 0x31 f)
    let es := v.elems ty f.va.val
    withMarks d.owner (v.marksOf ty f.va.val ++ v.predMarks p) fun m =>
      if es.zipIdx.any fun e => v.active p ty e.2 && badW ty e.1 then .bad m
      else
        let bs := es.zipIdx.flatMap fun e =>
          if v.active p ty e.2 then (leBytes (vSize ty) e.1).map some
          else List.replicate (vSize ty) (if p.zm then some 0 else none)
        vStoreAt s v d f.as.val off m bs fun s' v => .ok s' v [] m)

/-! ## MX rows (R132, R133, R210) -/

/-- Elements taken so far by the cursor instructions of a stream. -/
def VEngine.cursor (v : VEngine) (n : Nat) : Nat := v.cursors.getD n 0
def VEngine.moveCursor (v : VEngine) (n k : Nat) : VEngine := { v with cursors := updAt n (fun c => c + k) v.cursors }

/-- VLDMX (R210): 128 elements of a row, widened; +0 beyond it. The load's units are those of the codes and scales read. -/
def execVldmx (u : VUnit) (f : MFields) (s : State) : Out :=
  .next (s.vRun u (wordM 0x33 f) 3 fun s v d =>
    let n := f.as.val
    let fmt := f.xf.val + 5
    let c := v.cursor n
    let cnt := min 128 (d.rowElems - c)
    let (off, _) := v.reach d (wordM 0x33 f)
    let o1 := c * elemBits fmt / 8
    let n1 := packedBytes fmt cnt
    let o2 := pad64 (packedBytes fmt d.rowElems) + c / 32
    let move := fun (w : VEngine) => w.moveCursor n 128
    if cnt = 0 then vFill 3 f.vd.val (predM f) v d Mark.neutral (fun _ => 0) move s
    else vLoadAt s v d n (off + o1) n1 fun b1 m1 =>
      vLoadAt s v d n (off + o2) (cdiv cnt 32) fun b2 m2 =>
        if m1 != m2 then .iso m1.tag
        else
          let codes := ofLe b1
          let val := fun (e : Nat) =>
            if e < cnt then afExact (mxVal fmt (codeAt fmt codes e) ((b2.getD (e / 32) 0).toNat)) else 0
          vFill 3 f.vd.val (predM f) v d m1 val move s)

/-- What a block of VSTMX becomes: scale, codes, counts, the events of its elements. -/
structure MxOut where
  scale : Nat
  codes : List Nat
  counts : Counts
  cause : Option Nat
  deriving DecidableEq, Repr

/-- A block of VSTMX: `old` are the codes and the scale that lie there, `live` says which elements are active. Inactive elements
take no part in the scale (R203). -/
def mxBlock (fmt : Nat) (inf zm : Bool) (sr : Option Nat) (idx : Nat → Nat) (vals : List FV) (live : Nat → Bool)
    (oldScale : Nat) (old : List Nat) (k : Counts) : MxOut :=
  let acts := vals.zipIdx.filter fun x => live x.2
  if acts.isEmpty then
    if zm then ⟨0, old.map fun _ => 0, k, none⟩ else ⟨oldScale, old, k, none⟩
  else
    let ids := acts.map Prod.snd
    let (sc, cs, k) := mxConvert fmt inf sr (fun i => idx (ids.getD i 0)) (acts.map Prod.fst) k
    let k := if sc = 0xff then k.addNan acts.length else k
    let new := ids.zip cs
    let codes := old.zipIdx.map fun x =>
      match assocGet x.2 new with
      | some c => c
      | none => if zm then 0 else x.1
    ⟨sc, codes, k, if (acts.map Prod.fst).any FV.isNan then some 10 else if sc = 0xff then some 11 else none⟩

/-- `n` bytes that stand at a place once a store with a mark has claimed it (R102): zero where the glove slot changes. -/
def State.claimedBytes (s : State) (v : VEngine) (m : Mark) (p : VPlace) (n : Nat) : List Byte :=
  match p with
  | .rows a => (s.loadBytes v p n).zipIdx.map fun b =>
      if ((s.cluster v.u.die v.u.cl).mark ((a + b.2) / 64)).slot = m.slot then b.1 else 0
  | _ => s.loadBytes v p n

/-- Packed codes as the bytes that a store writes (R203): a byte in which no written element has a bit is left. -/
def packedStore (fmt cnt : Nat) (codes : List Nat) (written : Nat → Bool) : List (Option Byte) :=
  (leBytes (packedBytes fmt cnt) (packCodes fmt codes)).zipIdx.map fun b =>
    if (List.range cnt).any fun j => written j && decide (8 * b.2 < (j + 1) * elemBits fmt) && decide (j * elemBits fmt < 8 * b.2 + 8)
    then some b.1 else none

/-- VSTMX (R203, R210): 128 elements into a row as four blocks; an inactive element keeps its code or becomes zero; the last
instruction of a row zeroes its padding. -/
def execVstmx (u : VUnit) (f : MFields) (s : State) : Out :=
  .next (s.vRun u (wordM 0x34 f) f.type.val fun s v d =>
    let ty := f.type.val
    let p := predM f
    let n := f.as.val
    let fmt := f.xf.val + 5
    let c := v.cursor n
    let cnt := min 128 (d.rowElems - c)
    let (off, _) := v.reach d (wordM 0x34 f)
    let packed := packedBytes fmt d.rowElems
    let o1 := c * elemBits fmt / 8
    let o2 := pad64 packed + c / 32
    let els := (v.elems ty f.va.val).take cnt
    let vals := els.map fun e => VNum.val ⟨ty, e⟩
    withMarks d.owner (v.marksOf ty f.va.val ++ v.predMarks p) fun m =>
      if cnt = 0 then .ok s (v.moveCursor n 128) [] m
      else if els.zipIdx.any fun e => v.active p ty e.2 && badW ty e.1 then .bad m
      else match s.vPlace? v d n (off + o1), s.vPlace? v d n (off + o2) with
        | some p1, some p2 =>
          let oldCodes := ofLe (s.claimedBytes v m p1 (packedBytes fmt cnt))
          let oldScales := s.claimedBytes v m p2 (cdiv cnt 32)
          let written := fun (j : Nat) => v.active p ty j || p.zm
          let sr := if d.sr then some (v.seed.getD d.seed) else none
          let block := fun (b : Nat) (k : Counts) =>
            let vs := (vals.drop (32 * b)).take 32
            mxBlock fmt d.inf p.zm sr (fun i => v.iter d * 128 + 32 * b + i) vs (fun i => v.active p ty (32 * b + i))
              ((oldScales.getD b 0).toNat) ((List.range vs.length).map fun i => codeAt fmt oldCodes (32 * b + i)) k
          let outs := (List.range (cdiv cnt 32)).foldl (fun (acc : List MxOut × Counts) b =>
            let o := block b acc.2
            (acc.1 ++ [o], o.counts)) ([], v.counts)
          let codes := outs.1.flatMap MxOut.codes
          let last := decide (d.rowElems ≤ c + 128)
          let pad1 := if last then List.replicate (pad64 packed - packed) (0 : Byte) else []
          let blocks := cdiv d.rowElems 32
          let pad2 := if last then List.replicate (pad64 blocks - blocks) (0 : Byte) else []
          let evs := outs.1.zipIdx.flatMap fun o => match o.1.cause with
            | none => []
            | some cs => (((List.range 32).map fun i => 32 * o.2 + i).filter fun j =>
                j < cnt && v.active p ty j && (cs == 11 || (VNum.val ⟨ty, els.getD j 0⟩).isNan)).map fun j =>
                  ({ elem := j, cause := cs, a := els.getD j 0, b := 0, before := 0 } : VEv)
          let scales := outs.1.zipIdx.map fun o =>
            if (List.range 32).any fun i => decide (32 * o.2 + i < cnt) && written (32 * o.2 + i) then some (BitVec.ofNat 8 o.1.scale)
            else none
          vStoreAt s v d n (off + o1) m (packedStore fmt cnt codes written ++ pad1.map some) fun s v =>
            vStoreAt s v d n (off + o2) m (scales ++ pad2.map some) fun s v =>
              .ok s ({ v with counts := outs.2 }.moveCursor n 128) evs m
        | _, _ => .wait)

/-! ## FB16 rows (R145 to R149, R210) -/

/-- VFBST (R210): 256 BF16 elements as FB16 blocks; the last instruction of a row writes its byte count and padding. An inactive
element becomes +0 under ZM. Without ZM it keeps its old value (R203), but blocks have no fixed place for an element, so that the
spec does not say which value the new block holds for it: it is a free value (assumption 85). Reading a NaN here is no NaN event,
as for VCMP (assumption 83). -/
def execVfbst (u : VUnit) (f : MFields) (s : State) : Out :=
  .next (s.vRun u (wordM 0x36 f) 2 fun s v d =>
    let p := predM f
    let n := f.as.val
    let c := v.cursor n
    let done := v.fbBytes.getD n 0
    let (off, _) := v.reach d (wordM 0x36 f)
    let (fresh, s) := if p.men && !p.zm then s.fresh else (0, s)
    let els := ((v.elems 2 f.va.val).zipIdx.map fun e =>
      if v.active p 2 e.2 then e.1 else if p.zm then 0 else (Config.fbHeld fresh e.2).toNat).take (d.rowElems - c)
    withMarks d.owner (v.marksOf 2 f.va.val ++ v.predMarks p) fun m =>
      let bytes := (blocks32 8 els).flatMap (fbBytesOf (f.xf.val == 1))
      let total := done + bytes.length
      let last := decide (d.rowElems ≤ c + 256)
      let pad := if last then List.replicate (pad64 (4 + total) - (4 + total)) (0 : Byte) else []
      let upd := fun (w : VEngine) =>
        ({ w with fbBytes := updAt n (fun b => b + bytes.length) w.fbBytes } : VEngine).moveCursor n 256
      vStoreAt s v d n (off + (4 + done : Nat)) m ((bytes ++ pad).map some) fun s v =>
        if last then vStoreAt s v d n off m ((leBytes 4 total).map some) fun s v => .ok s (upd v) [] m
        else .ok s (upd v) [] m)

/-- Blocks of FB16 decoded from bytes: the elements and the bytes they took; none for a data error. -/
def fbLoad : Nat → Nat → List Byte → Option (List Nat × Nat)
  | 0, _, _ => some ([], 0)
  | n + 1, left, bs =>
    if left = 0 then some ([], 0)
    else match fbDecode (min 32 left) (ofLe (bs.take 80)) with
      | none => none
      | some (es, k) => match fbLoad n (left - min 32 left) (bs.drop k) with
        | none => none
        | some (r, t) => some (es ++ r, k + t)

/-- VFBLD (R210): the next eight blocks of a row; +0 beyond it. -/
def execVfbld (u : VUnit) (f : MFields) (s : State) : Out :=
  .next (s.vRun u (wordM 0x35 f) 2 fun s v d =>
    let n := f.as.val
    let left := d.rowElems - v.cursor n
    let done := v.fbBytes.getD n 0
    let (off, _) := v.reach d (wordM 0x35 f)
    match s.vPlace? v d n (off + (4 + done : Nat)) with
    | none => .wait
    | some p =>
      match fbLoad 8 left (s.loadBytes v p 544) with
      | none => .bad ((s.loadMark v d p 1).getD Mark.neutral)
      | some (es, k) =>
        let upd := fun (w : VEngine) =>
          ({ w with fbBytes := updAt n (fun b => b + k) w.fbBytes } : VEngine).moveCursor n 256
        vLoadAt s v d n (off + (4 + done : Nat)) k fun _ m =>
          vFill 2 f.vd.val (predM f) v d m (fun e => es.getD e 0) upd s)

/-! ## Tiles (R115, R200, R209) -/

/-- The logical tile and row that a tile instruction reaches (R200). -/
def VEngine.tilePos (v : VEngine) (d : VDesc) (f : TFields) : Nat × Nat :=
  let q := f.row.val + v.inner * d.trowI + v.oIdx d * d.trowO
  (f.tile.val + q / 128, q % 128)

/-- An earlier descriptor of the stream on that engine that names a tile has not retired (R115): one of the job, or one that has
issued. -/
def State.tileBusy (s : State) (v : VEngine) (e : Fin 8) (ts : List Nat) : Bool :=
  (match s.job? (descStream v.desc) v.jobSeq with
    | none => false
    | some j => (s.unretiredBefore v.u.die j v.opIndex.toNat).any fun w =>
        isMatrix w && shareCluster w v.desc && ts.any fun t => (tilesNamed (s.jobText j) w e.val).testBit t) ||
  s.flights.any fun g =>
    let o := mdesc g.issue.words
    g.die == v.u.die && g.stream == descStream v.desc && o.engineMask.testBit e.val &&
      (match s.logicalOf v.u.die v.u.cl with | some l => o.clusterMask.testBit l | none => false) &&
      ts.any fun t => o.tileMask.testBit t

/-- The physical tiles of logical ones, where the stream owns them all (R86). -/
def State.vTiles? (s : State) (v : VEngine) (e : Fin 8) (ts : List Nat) : Option (List Tile) :=
  ts.foldr (fun t (acc : Option (List Tile)) =>
    match acc, s.phys? (descStream v.desc) v.u.die v.u.cl e t with
    | some l, some p =>
      let x := s.tile v.u.die v.u.cl e p
      if x.owner == some (descStream v.desc) then some (x :: l) else none
    | _, _ => none) (some [])

/-- The mark of a tile's row (R194). -/
def Tile.rowMark (t : Tile) (r : Nat) : Mark := (assocGet r t.rowMarks).getD Mark.neutral

/-- An entry read; an empty one is +0 (R160). -/
def Tile.entry (t : Tile) (r c : Nat) : Nat := ((assocGet (r, c) t.entries).getD 0).toNat

/-- TLD (R209). -/
def execTld (u : VUnit) (f : TFields) (s : State) : Out :=
  .next (s.vRun u (wordT 0x38 f) 3 fun s v d =>
    let (t, r) := v.tilePos d f
    let ts := if f.c then [t, t + 1] else [t]
    if s.tileBusy v f.eng ts then .wait
    else match s.vTiles? v f.eng ts with
      | some [x] => vFill 3 f.vd.val (predT f) v d (x.rowMark r) (fun e => x.entry r e) id s
      | some (x :: y :: _) =>
        withMarks d.owner [x.rowMark r, y.rowMark r] fun m =>
          vFill 3 f.vd.val (predT f) v d m (fun e => (roundAF ((af (x.entry r e)).add (af (y.entry r e)))).1) id s
      | _ => .tile)

/-- TST (R209): active elements are written as held, inactive ones stay or become zero; SAT stays. -/
def execTst (u : VUnit) (f : TFields) (s : State) : Out :=
  .next (s.vRun u (wordT 0x39 f) 3 fun s v d =>
    let p := predT f
    let (t, r) := v.tilePos d f
    if s.tileBusy v f.eng [t] then .wait
    else match s.vTiles? v f.eng [t] with
      | some [x] =>
        let es := v.elems 3 f.va.val
        let kept := if p.men && !p.zm then [x.rowMark r] else []
        withMarks d.owner (v.marksOf 3 f.va.val ++ v.predMarks p ++ kept) fun m =>
          if es.zipIdx.any fun e => v.active p 3 e.2 && badW 3 e.1 then .bad m
          else
            let new := es.zipIdx.filterMap fun e => (v.result p 3 e.2 e.1).map fun c => ((r, e.2), c)
            .ok (s.setTile { x with entries := putEntries x.entries new, rowMarks := assocPut r m x.rowMarks })
              { v with undo := .tile x :: v.undo } [] m
      | _ => .tile)

end Sys2Proof.Machine
end

