-- ==== Sys2Proof/Machine/Library.lean ====
section
/-!
DEFINITION. Vector descriptors as a whole: issue (R192, R198, R215), the library's bodies (R219 to R225), retirement (R214).
Uhlip supplies a library body's tensors and row addresses and the command processor the rest (R219); which stream names what the
spec states only for STRICT_DOT's staged operands, so that the streams of the emitted descriptors are this model's convention
(DESIGN CHOICE, assumption 86). A body other than STRICT_DOT works on one row an outer iteration, row `o` of a stream lying at
its BASE and OSTRIDE, ROW_ELEMS elements long; it runs as one event with the issue of its descriptor.
-/

namespace Sys2Proof.Machine

/-! ## Rows of a library body -/

/-- A row of a library body, given its number: what it comes to. -/
abbrev LibRow := Nat → State → VEngine → VDesc → VEnd

/-- Byte offset of row `o` of a stream. -/
def VDesc.rowOff (d : VDesc) (n o : Nat) : Int := 64 * ((o : Int) * d.ostride n)

/-- The tensor of a stream on the engine's die, for what lies beside its data: format, statistics. -/
def State.libTensor? (s : State) (v : VEngine) (d : VDesc) (n : Nat) : Option Tensor :=
  if d.isTensor n then s.tensor? (descStream v.desc) (BitVec.ofNat 32 (d.base n)) v.u.die else none

/-- The format of a stream's rows: that of the program's tensor, or what an output stage wrote last; FP32 where neither says. -/
def State.libFmt (s : State) (v : VEngine) (d : VDesc) (n : Nat) : Nat :=
  match s.vPlace? v d n 0 with
  | some (.prog t _) => t.fmt
  | _ => ((s.libTensor? v d n).bind Tensor.fmt).getD 0

/-- The vector type of a float format; F32 for the others. -/
def floatType (fmt : Nat) : Nat := if fmt ≤ 2 then fmt else 0

/-- A row of results in a float type. -/
def libRowOf (fmt n : Nat) (bs : List Byte) : List FV :=
  let packed := ofLe (bs.take (packedBytes fmt n))
  let scales := (bs.drop (pad64 (packedBytes fmt n))).map BitVec.toNat
  (decodeRow fmt ((List.range n).map (codeAt fmt packed)) scales).map Elem.v

/-- Results of a row as bytes of their type. -/
def typeBytes (ty : Nat) (cs : List Nat) : List (Option Byte) := cs.flatMap fun c => (leBytes (vSize ty) c).map some

/-- The NaN events of computed elements, numbered from `first`. -/
def libEvents (first : Nat) (es : List (VElem × Nat × Nat)) : List VEv :=
  es.zipIdx.filterMap fun e => e.1.1.cause.map fun c =>
    ({ elem := first + e.2, cause := c, a := e.1.2.1, b := e.1.2.2, before := 0 } : VEv)

/-- A row's statistics (R186): M, L, the flags EMPTY and NAN_ROW, the maxima of its column blocks. -/
structure LibStats where
  m : Nat
  l : Nat
  empty : Bool
  nanRow : Bool
  blocks : List Nat
  deriving DecidableEq, Repr

/-- The statistics of row `o` beside a stream's tensor (R186); none recorded read as zeros. -/
def State.libStats (s : State) (v : VEngine) (d : VDesc) (n o : Nat) : LibStats :=
  let ws := ((s.libTensor? v d n).bind fun t => assocGet o t.stats).getD []
  { m := (wordAt ws 0).toNat, l := (wordAt ws 1).toNat, empty := bitAt (wordAt ws 2) 0, nanRow := bitAt (wordAt ws 2) 2,
    blocks := (ws.drop 4).map BitVec.toNat }

/-- d of R221 for each block that a row of `n` columns has. -/
def LibStats.factors (x : LibStats) (n : Nat) : List (VElem × Nat × Nat) :=
  (List.range (cdiv n 128)).map fun b =>
    (vElem fnDexp false false 3 .nearest ⟨3, x.blocks.getD b 0⟩ ⟨3, x.m⟩ ⟨3, 0⟩, x.blocks.getD b 0, x.m)

/-- p × d ÷ L in one rounding into a type (R187). -/
def mulDivElem (ty p d l : Nat) : VElem := vElem fnMulDiv false false ty .nearest ⟨3, p⟩ ⟨3, d⟩ ⟨3, l⟩

/-- SOFTMAX_NORM (R187, R221): stream 0 the numerators with their statistics, stream 1 the probabilities, in the same float
format. -/
def libSoftmax : LibRow := fun o s v d =>
  let n := d.rowElems
  let fmt := s.libFmt v d 0
  let ty := floatType fmt
  vLoadAt s v d 0 (d.rowOff 0 o) (rowBytes fmt n) fun bs m =>
    withMarks d.owner [m] fun mark =>
      let st := s.libStats v d 0 o
      let fs := st.factors n
      let ps := (libRowOf fmt n bs).map afExact
      let rs := ps.zipIdx.map fun p => (mulDivElem ty p.1 ((fs.getD (p.2 / 128) (⟨0, 0, 0, none⟩, 0, 0)).1.code) st.l, p.1, st.l)
      let codes := if st.empty then ps.map fun _ => 0 else rs.map fun r => r.1.code
      let evs := libEvents 0 fs ++ if st.empty then [] else libEvents 0 rs
      vStoreAt s v d 1 (d.rowOff 1 o) mark (typeBytes ty codes) fun s v => .ok s v evs mark

/-- Columns in groups of 128 that a row of value sums has. -/
def VDesc.chunks (d : VDesc) : Nat := cdiv d.rowElems 128

/-- The engine and the logical tile that hold the value sums of block `b`, columns of chunk `k` (assumption 86). -/
def VDesc.sumTile (d : VDesc) (b k : Nat) : Fin 8 × Nat := (Fin.ofNat 8 ((b * d.chunks + k) / 8), (b * d.chunks + k) % 8)

/-- The sum of a column over the blocks (R222): t of each block, added in W; with what each step was. -/
def attnColumn (l : Nat) (os ds : List Nat) : List VElem × Option Nat :=
  (os.zip ds).foldl (fun (a : List VElem × Option Nat) q =>
    let t := mulDivElem 3 q.1 q.2 l
    match a.2 with
    | none => (a.1 ++ [t], some t.code)
    | some acc =>
      let r := vElem fnAdd false false 3 .nearest ⟨3, acc⟩ ⟨3, t.code⟩ ⟨3, 0⟩
      (a.1 ++ [t, r], some r.code)) ([], none)

/-- ATTN_RESCALE (R222): stream 0 the tensor that holds the row's statistics, stream 1 the output, in the same float format; the value
sums lie in row `o` of the tiles. -/
def libAttn : LibRow := fun o s v d =>
  let n := d.rowElems
  let ty := floatType (s.libFmt v d 0)
  let st := s.libStats v d 0 o
  let blocks := st.blocks.length
  let places := (List.range blocks).flatMap fun b => (List.range d.chunks).map fun k => d.sumTile b k
  if places.any fun p => s.tileBusy v p.1 [p.2] then .wait
  else if places.any fun p => (s.vTiles? v p.1 [p.2]).isNone then .tile
  else
    let tile := fun (b k : Nat) => ((s.vTiles? v (d.sumTile b k).1 [(d.sumTile b k).2]).getD []).headD (Tile.fresh v.u.die v.u.cl 0 0)
    let ms := (List.range blocks).flatMap fun b => (List.range d.chunks).map fun k => (tile b k).rowMark (o % 128)
    withMarks d.owner ms fun mark =>
      let fs := (List.range blocks).map fun b =>
        (vElem fnDexp false false 3 .nearest ⟨3, st.blocks.getD b 0⟩ ⟨3, st.m⟩ ⟨3, 0⟩, st.blocks.getD b 0, st.m)
      let cols := (List.range n).map fun j =>
        attnColumn st.l ((List.range blocks).map fun b => (tile b (j / 128)).entry (o % 128) (j % 128)) (fs.map fun f => f.1.code)
      let narrow := fun (c : List VElem × Option Nat) => (vConvert d.inf ty .nearest ⟨3, c.2.getD 0⟩ Counts.zero).1
      let codes := cols.map fun c => if st.empty then 0 else if st.nanRow then fmtNan ty else narrow c
      let evs := libEvents 0 fs ++ if st.empty then [] else cols.zipIdx.flatMap fun c =>
        (c.1.1.filter fun e => e.cause.isSome).map fun e =>
          ({ elem := c.2, cause := e.cause.getD 0, a := 0, b := 0, before := 0 } : VEv)
      vStoreAt s v d 1 (d.rowOff 1 o) mark (typeBytes ty codes) fun s v => .ok s v evs mark
where
  fmtNan (ty : Nat) : Nat := match ty with | 0 => fFP32.nanCode | 1 => fFP16.nanCode | _ => fBF16.nanCode

/-- The column of a row that TOKEN_GREEDY selects (R225): the lowest NaN, else the lowest of the columns equal to the maximum. -/
def greedy (xs : List FV) : Nat :=
  match xs.zipIdx.find? fun x => x.1.isNan with
  | some x => x.2
  | none => (xs.zipIdx.foldl (fun (a : Option (FV × Nat)) x => match a with
      | none => some x
      | some b => if b.1.lt x.1 then some x else a) none).elim 0 Prod.snd

/-- The ids that a pass's rows were given: row `o` of the cluster is the seat row at that place of it, as for a matrix op. -/
def State.chooseToken (s : State) (v : VEngine) (o id : Nat) : State :=
  if (s.job? (descStream v.desc) v.jobSeq).isSome then s
  else
    let mine := fun (r : SeatRow) => s.logicalOf v.u.die v.u.cl == some r.cluster && r.pos == o
    let upd : Pass → Pass := fun p => match p.rows.findIdx? mine with
      | some i => { p with tokens := assocPut i (BitVec.ofNat 32 id) p.tokens }
      | none => p
    s.modDie v.u.die fun y => { y with pass := y.pass.map upd }

/-- TOKEN_GREEDY (R225): stream 0 the logits, stream 1 the ids, four bytes a row beside its OSTRIDE. -/
def libGreedy : LibRow := fun o s v d =>
  let n := d.rowElems
  let fmt := s.libFmt v d 0
  vLoadAt s v d 0 (d.rowOff 0 o) (rowBytes fmt n) fun bs m =>
    withMarks d.owner [m] fun mark =>
      let xs := libRowOf fmt n bs
      let i := greedy xs
      let evs : List VEv := if xs.any FV.isNan then [{ elem := i, cause := 10, a := afExact FV.nan, b := 0, before := 0 }] else []
      vStoreAt s v d 1 (d.rowOff 1 o + 4 * o) mark ((leBytes 4 i).map some) fun s v => .ok (s.chooseToken v o i) v evs mark

/-- FB16_PACK (R210, R219): stream 0 a BF16 row, stream 1 its FB16 row; OVF requests BOUNDED. -/
def libPack : LibRow := fun o s v d =>
  let n := d.rowElems
  vLoadAt s v d 0 (d.rowOff 0 o) (2 * n) fun bs m =>
    withMarks d.owner [m] fun mark =>
      let es := codesOf 2 n bs
      let body := (blocks32 (cdiv n 32) es).flatMap (fbBytesOf d.inf)
      let pad := List.replicate (pad64 (4 + body.length) - (4 + body.length)) (0 : Byte)
      vStoreAt s v d 1 (d.rowOff 1 o) mark ((leBytes 4 body.length ++ body ++ pad).map some) fun s v => .ok s v [] mark

/-- FB16_UNPACK (R210, R219): stream 0 an FB16 row, stream 1 its BF16 row. -/
def libUnpack : LibRow := fun o s v d =>
  let n := d.rowElems
  match s.vPlace? v d 0 (d.rowOff 0 o) with
  | none => .wait
  | some p =>
    match fbLoad (cdiv n 32) n ((s.loadBytes v p (fbRowBytes n)).drop 4) with
    | none => .bad ((s.loadMark v d p 4).getD Mark.neutral)
    | some (es, k) =>
      vLoadAt s v d 0 (d.rowOff 0 o) (4 + k) fun _ m =>
        withMarks d.owner [m] fun mark =>
          vStoreAt s v d 1 (d.rowOff 1 o) mark (typeBytes 2 es) fun s v => .ok s v [] mark

/-! ## Optimiser steps (R223, R224) -/

/-- The parameter block as its bytes lie (R223). -/
def Hyper.bytes (h : Hyper) : List Byte :=
  ([h.lr, h.b1, h.ob1, h.b2, h.ob2, h.eps, h.wd, h.c1, h.c2, h.mu].flatMap (leBytes 4)) ++ List.replicate 24 0

/-- The parameters that a block holds (R223). -/
def hyperAt (bs : List Byte) : Hyper :=
  let f := fun (i : Nat) => ofLe ((bs.drop (4 * i)).take 4)
  { lr := f 0, b1 := f 1, ob1 := f 2, b2 := f 3, ob2 := f 4, eps := f 5, wd := f 6, c1 := f 7, c2 := f 8, mu := f 9 }

/-- The parameter block of a run's next step. -/
def Run.hyper (r : Run) : Hyper :=
  hyperOf r.lr.toNat r.wd.toNat r.beta1.toNat r.beta2.toNat r.eps.toNat (r.epoch.toNat + 1)

/-- The run whose slot owns an engine's descriptor. -/
def State.libRun? (s : State) (v : VEngine) (d : VDesc) : Option Run :=
  ((s.cabOfDie v.u.die).bind fun c => (s.slot? c d.owner).bind Slot.run).bind s.run?

/-- ADAMW and SGD_MOMENTUM (R223, R224): streams 0 to 3 the shard's gradient, weight plane, remainder plane and m, then for ADAMW v,
and last the parameter block, which the command processor fills for a run's slot. -/
def libOptimiser (adamw : Bool) : LibRow := fun o s v d =>
  let n := d.rowElems
  let at_ := fun (k : Nat) => d.rowOff k o
  let pb := if adamw then 5 else 4
  let fill := fun (k : State → VEngine → VEnd) => match s.libRun? v d with
    | some r => vStoreAt s v d pb 0 Mark.neutral (r.hyper.bytes.map some) k
    | none => k s v
  fill fun s v =>
    vLoadAt s v d pb 0 64 fun hb mh => vLoadAt s v d 0 (at_ 0) (4 * n) fun gb mg => vLoadAt s v d 1 (at_ 1) (2 * n) fun wb mw =>
    vLoadAt s v d 2 (at_ 2) n fun rb mr => vLoadAt s v d 3 (at_ 3) (4 * n) fun mb mm =>
    let second := fun (k : List Byte → Mark → VEnd) =>
      if adamw then vLoadAt s v d 4 (at_ 4) (4 * n) k else k [] Mark.neutral
    second fun vb mv =>
      withMarks d.owner [mh, mg, mw, mr, mm, mv] fun mark =>
        let h := hyperAt hb
        let gs := codesOf 4 n gb
        let ps := (List.range n).map fun i =>
          let c := fun (size : Nat) (bs : List Byte) => (codesOf size n bs).getD i 0
          let x := afExact (joinWR (c 2 wb) (c 1 rb))
          let u := if adamw then adamStep h x (gs.getD i 0) (c 4 mb) (c 4 vb) else sgdStep h x (gs.getD i 0) (c 4 mb)
          (u, splitW (af u.t) Counts.zero)
        let evs := libEvents 0 ((ps.zip gs).map fun p =>
          ((⟨0, 0, 0, if (af p.1.1.t).isNan then some (if (fFP32.dec p.2).isNan then 10 else 11) else none⟩ : VElem), p.2, 0))
        let k := v.counts.addOverflow (ps.map fun p => p.2.2.2.overflow).sum
        let v := { v with counts := k }
        vStoreAt s v d 1 (at_ 1) mark (typeBytes 2 (ps.map fun p => p.2.1)) fun s v =>
        vStoreAt s v d 2 (at_ 2) mark (typeBytes 6 (ps.map fun p => p.2.2.1)) fun s v =>
        vStoreAt s v d 3 (at_ 3) mark (typeBytes 0 (ps.map fun p => p.1.m)) fun s v =>
        if adamw then vStoreAt s v d 4 (at_ 4) mark (typeBytes 0 (ps.map fun p => p.1.v)) fun s v => .ok s v evs mark
        else .ok s v evs mark

/-! ## Running a library body -/

/-- The rows of a body in order (R199, R212): the traps of each row; after one that trapped, none. -/
def libRows (row : LibRow) : List Nat → State → VEngine → VEnd
  | [], s, v => .ok s { v with finished := true } [] Mark.neutral
  | o :: os, s, v =>
    if !v.traps.isEmpty then .ok s { v with stopped := true } [] Mark.neutral
    else match row o s v (vdesc v.desc) with
      | .ok s v evs m => libRows row os s { v with traps := (s.vTraps v 3 3 m evs).foldl addTrap v.traps }
      | e => e

/-- The row of a library body other than STRICT_DOT. -/
def libBody (start : Nat) : Option LibRow :=
  match start with
  | 0xf0002 => some libSoftmax
  | 0xf0003 => some libAttn
  | 0xf0010 => some (libOptimiser true)
  | 0xf0011 => some (libOptimiser false)
  | 0xf0020 => some libGreedy
  | 0xf0030 => some libPack
  | 0xf0031 => some libUnpack
  | _ => none

/-- What a library body on an engine came to; `k` is what follows its effect. It waits, and that is none, while an earlier descriptor
of its stream has not retired (R115, R217); else it reached beyond one of its tensors, which for want of their formats could not be seen
when the job was accepted: it stops and its job ends with the code of R201. -/
def State.libEnd (s : State) (v : VEngine) (k : State → VEngine → State) : VEnd → Option State
  | .wait =>
    if (match s.job? (descStream v.desc) v.jobSeq with
        | some j => !(s.unretiredBefore v.u.die j v.opIndex.toNat).isEmpty
        | none => s.flights.any fun f => f.die == v.u.die && f.stream == descStream v.desc) then none
    else some (s.vIsolate v Code.descriptorInvalid)
  | .ok s v _ _ => some (k s v)
  | e => some (s.vFinish v 0 3 e)

/-- A library body other than STRICT_DOT on the engine of a cluster; none while it waits. -/
def State.libRun (s : State) (v : VEngine) : Option State :=
  match libBody (vdesc v.desc).bodyStart with
  | none => some s
  | some row => s.libEnd v (fun s x => (s.setVEngine x).trapJob (s.vIssue x) x.jobSeq x.traps)
      (libRows row (List.range (vdesc v.desc).outer) s v)

/-! ## STRICT_DOT (R168 to R170, R220) -/

/-- The first instruction of a group and what each group adds (R220). -/
def strictGroup (first step g : Nat) : Word := word (first + g * step)

/-- The text of STRICT_DOT for a destination type, with a flag tensor or without (R220). -/
def strictBody (ty : Nat) (flags : Bool) : List Word :=
  let t := put ty 53
  let gs := List.range 12
  let vd := 2 ^ 48
  let off := 8 * 2 ^ 19
  let opro := gs.map (strictGroup (0x3004001800000000 + t) (vd + off)) ++ gs.map (strictGroup 0x3010000800000000 (vd + off))
  let fma := 0x0404006040800000 + t + (if ty = 0 then put 7 24 else 0)
  let main := gs.flatMap fun g => [strictGroup fma (vd + 2 ^ 33 + 2 ^ 28) g, strictGroup 0x3010000803000000 (vd + off) g]
  let vst := strictGroup (0x3100011000000000 + t) (2 ^ 38 + off)
  let getf := strictGroup (0x28dc010000000000 + put ty 24) (2 ^ 38)
  let vstf := strictGroup (0x31c0070000000000 + put 4 35) off
  opro ++ [word 0x3001000000000000] ++ main ++ gs.flatMap fun g => if flags then [vst g, getf g, vstf g] else [vst g]

/-- The length of the segment of K that begins at an element: 2048, or what is left in whole groups of 128, or a remainder below 128
(R220). -/
def strictSegment (k done : Nat) : Nat :=
  let left := k - done
  if left < 128 then left else min 2048 (left / 128 * 128)

/-- The descriptor of a segment as the command processor fills it (R220). -/
def strictDesc (ws : List Word) (len : Nat) (first : Bool) : List Word :=
  let ask := strictAsk ws
  let inner := if len < 128 then len else 128
  let oepi := if ask.flags then 36 else 12
  let stream := fun (base istride ostride : Nat) => word (put base 32 + put istride 16 + ostride)
  let keep := (wordAt ws 0).toNat - put (bits (wordAt ws 0) 31 24) 24 - bits (wordAt ws 0) 7 0 + 1
  let keep := if bitAt (wordAt ws 0) 32 then keep else keep + 2 ^ 32
  [word keep,
   word (put 0xf0001 44 + put (48 + oepi) 36 + put inner 20 + put (if len < 128 then 1 else len / 128) 8 + bits (wordAt ws 1) 7 0),
   wordAt ws 2, word (put 24 26 + put 1 20 + put oepi 8),
   stream strictA 0 8, stream strictB 96 192, stream strictResults 0 0, stream (if first then strictStart else strictResults) 0 0,
   if ask.flags then stream strictFlags 0 0 else 0, 0, 0, 0]

/-- A value of a float format as F32: exactly, a NaN with its fraction, so that a signalling one stays signalling (R170). -/
def toF32 (fmt code : Nat) : Nat :=
  match fmt with
  | 1 => if (fFP16.dec code).isNan then put (code / 2 ^ 15) 31 + put 0xff 23 + put (code % 2 ^ 10) 13 else fFP32.ofFV (fFP16.dec code)
  | 2 => code <<< 16
  | _ => code

/-- Bytes written into the engine's row region under a mark. -/
def State.stageRows (s : State) (v : VEngine) (unit : Nat) (m : Mark) (bs : List Byte) : State :=
  s.modCluster v.u.die v.u.cl fun x => x.store (64 * unit) m (bs.map some)

/-- The segment of STRICT_DOT that begins at `kDone` staged (R220), and the engine loaded with its descriptor. -/
def State.strictStage (s : State) (v : VEngine) : VEnd :=
  let e := vdesc v.emitted
  let ask := strictAsk v.emitted
  let len := strictSegment ask.k v.kDone
  let fb := s.libFmt { v with desc := v.emitted } e 1
  let fa := if e.isTensor 0 then s.libFmt { v with desc := v.emitted } e 0 else fb
  let size := fun (fmt : Nat) => elemBits fmt / 8
  let asEmitted := { v with desc := v.emitted }
  vLoadAt s asEmitted e 0 (v.kDone * size fa : Nat) (len * size fa) fun ab ma =>
    vLoadAt s asEmitted e 1 (v.kDone * ask.n * size fb : Nat) (len * ask.n * size fb) fun bb mb =>
      withMarks e.owner [ma, mb] fun mark =>
        let a := (codesOf (size fa) len ab).map (toF32 fa)
        let b := (codesOf (size fb) (len * ask.n) bb).map (toF32 fb)
        let row := fun (k : Nat) => (((b.drop (k * ask.n)).take ask.n) ++ List.replicate (1536 - ask.n) 0).flatMap (leBytes 4)
        let neg := if ask.ty = 0 then 0x80000000 else 0x8000
        let s := s.stageRows v strictA mark (a.flatMap (leBytes 4))
        let s := s.stageRows v strictB mark ((List.range len).flatMap row ++ List.replicate 6144 0)
        let s := if v.kDone = 0 then
            s.stageRows v strictStart mark ((List.replicate (6144 / vSize ask.ty) neg).flatMap (leBytes (vSize ask.ty)))
          else s
        let x := VEngine.load v.u (strictDesc v.emitted len (v.kDone = 0)) v.jobSeq v.opIndex
        .ok s { x with emitted := v.emitted, kDone := v.kDone, body := strictBody ask.ty ask.flags, counts := v.counts,
                       traps := v.traps, undo := v.undo } [] mark

/-- The results of a row that STRICT_DOT has computed, or its flags, taken from the row region: element `j` of group `g` of 512
bytes, for the first N columns. -/
def State.strictOut (s : State) (v : VEngine) (unit size n : Nat) : List Byte :=
  (List.range n).flatMap fun j => (s.cluster v.u.die v.u.cl).rowMem.read (64 * unit + 512 * (j / 128) + size * (j % 128)) size

/-- The end of a segment (R220): the flags of a row's segments are ORed in the flag tensor; after the last segment the results go to the result
tensor. -/
def State.strictNext (s : State) (v : VEngine) : VEnd :=
  let e := vdesc v.emitted
  let ask := strictAsk v.emitted
  let asEmitted := { v with desc := v.emitted }
  let mark := (s.cluster v.u.die v.u.cl).mark strictResults
  let flags := fun (k : State → VEngine → VEnd) =>
    if !ask.flags then k s asEmitted
    else
      let new := s.strictOut v strictFlags 1 ask.n
      match s.vPlace? asEmitted e 4 0 with
      | none => .wait
      | some p =>
        let old := if v.kDone = 0 then new.map fun _ => (0 : Byte) else s.loadBytes asEmitted p ask.n
        vStoreAt s asEmitted e 4 0 mark ((new.zip old).map fun b => some (b.1 ||| b.2)) k
  flags fun s v =>
    let done := v.kDone + strictSegment ask.k v.kDone
    if done < ask.k then s.strictStage { v with kDone := done }
    else
      vStoreAt s v e 2 0 mark ((s.strictOut v strictResults (vSize ask.ty) ask.n).map some) fun s v =>
        .ok s { v with kDone := done, finished := true } [] mark

/-- What a STRICT_DOT engine comes to at the start (`first`) or at the end of a segment; none where it waits. -/
def State.strictStep (s : State) (v : VEngine) (first : Bool) : Option State :=
  s.libEnd v (fun s x => s.setVEngine x) (if first then s.strictStage v else s.strictNext v)

/-! ## Issue and retirement -/

/-- The seed of SR that a descriptor takes on a cluster in a run's step (R288): by the first of the cluster's seat rows that is a run's,
else by the run whose slot owns the descriptor. -/
def State.vectorSeed (s : State) (die : Die) (l : Nat) (d : VDesc) : Option Nat :=
  match (s.cabOfDie die).map fun c => (c, (s.cab c).serving == some (Fin.ofNat 4096 d.stream)), (s.die die).pass with
  | some (c, true), some p =>
    match p.rows.find? fun r => r.cluster == l && r.run.isSome with
    | some r => s.srSeed r.run (some r.seq)
    | none => s.srSeed ((s.slot? c d.owner).bind Slot.run) none
  | _, _ => none

/-- The engines named start a descriptor: a body of the program, or one of the library, which a wait holds back as a whole. -/
def State.startVector (s : State) (die : Die) (cs : List (Nat × Phys)) (words : List Word) (q : BitVec 32) (op : BitVec 20) :
    Option State :=
  let d := vdesc words
  let new := cs.map fun c =>
    let v := { VEngine.load ⟨die, c.2⟩ words q op with seed := s.vectorSeed die c.1 d }
    if d.library then { v with emitted := words, finished := false } else v
  let s := { s with vengines := (s.vengines.filter fun v => !(new.any fun n => n.u == v.u)) ++ new }
  if !d.library then some s
  else new.foldl (fun (acc : Option State) v => acc.bind fun s =>
    if d.bodyStart = 0xf0001 then s.strictStep v true else s.libRun v) (some s)

/-- VECTOR_DESCRIPTOR (R198, R215): a vector descriptor starts on the engines of the clusters that it names, each of which has
retired its earlier one. -/
def execVectorDescriptor (die : Die) (jobSeq : BitVec 32) (opIndex : BitVec 20) (words : List Word) (s : State) : Out :=
  .next (
    let d := vdesc words
    let cs := s.namedClusters die d.clusterMask
    if words.length != 12 || d.op != 0x10 || d.inner = 0 || d.outer = 0 || d.bodyLen < d.opro + d.pro + d.epi + d.oepi then s
    else match s.issue? die jobSeq opIndex words d.clusterMask none with
      | none => s
      | some x =>
        if (s.die die).map.length < Nat.log2 d.clusterMask + 1 then s.endJob x.st jobSeq Code.resetAborted
        else if cs.any fun c => (s.vengine? ⟨die, c.2⟩).isSome then s
        else ((s.wearFor x die cs).startVector die cs words jobSeq opIndex).getD s)

/-- A vector descriptor retires (R214): every cluster that runs it has finished or stopped; their counts are summed. -/
def State.retireVector (s : State) (die : Die) (st : Fin 4096) (q : BitVec 32) (op : BitVec 20) : State :=
  let vs := s.vengines.filter fun v => v.isOp die st q op
  if vs.isEmpty || !(vs.all fun v => v.finished || v.stopped) then s
  else
    let done := vs.foldl (fun a v => match s.logicalOf v.u.die v.u.cl with
      | some l => if v.finished && !v.stopped then a ||| (1 <<< l) else a
      | none => a) 0
    let k := vs.foldl (fun (a : Counts) v => a.sum { v.counts with scaleCode := 0x7f }) Counts.zero
    let ts := vs.foldl (fun (a : List Trap) v => v.traps.foldl addTrap a) []
    let clear : VEngine → VEngine := fun v =>
      if v.isOp die st q op then { v with desc := [], emitted := [], body := [], undo := [] } else v
    let s := { s with vengines := s.vengines.map clear }
    let s := if (s.job? st q).isSome then s else ts.foldl (fun (s : State) t => s.settleTrap st t) s
    s.retireDesc die st q op k done

/-- The ends of segments of STRICT_DOT that have run on every cluster: the next segments, or the results; none where one waits. -/
def State.strictGoesOn (s : State) (die : Die) (st : Fin 4096) (q : BitVec 32) (op : BitVec 20) : Option State :=
  let vs := s.vengines.filter fun v => v.isOp die st q op
  let more := vs.filter fun v => v.finished && !v.stopped && !v.body.isEmpty && decide (v.kDone < (strictAsk v.emitted).k)
  if !(vs.all fun v => v.finished || v.stopped) then some s
  else more.foldl (fun (acc : Option State) v => acc.bind fun s => s.strictStep v false) (some s)

/-- DESCRIPTOR_RETIRE (R115, R174, R188, R220): of a STRICT_DOT descriptor the next segment of K begins until there is none. -/
def execDescriptorRetire (die : Die) (stream : Fin 4096) (jobSeq : BitVec 32) (opIndex : BitVec 20) (s : State) : Out :=
  .next (
    if !s.cpRuns && decide (4096 ≤ (s.die die).queue.length) then s
    else match s.flights.find? fun f =>
      f.die == die && f.stream == stream && f.issue.jobSeq == jobSeq && f.issue.opIndex == opIndex with
    | some f => if f.phase = 2 then s.retireMatrix f else s
    | none => match s.strictGoesOn die stream jobSeq opIndex with
      | some s => s.retireVector die stream jobSeq opIndex
      | none => s)

end Sys2Proof.Machine
end

