-- ==== Sys2Proof/Machine/Power.lean ====
section
/-!
DEFINITION. Power, pins, clocks and start-up (R436 to R438, R456, R468 to R478), resets of a control die (R439), the settings that
the management controller holds (R492) and firmware update (R372 to R374).
-/

namespace Sys2Proof.Machine

/-! ## The full reset (R439, R472) -/

/-- What a control die keeps through any reset: boot flash, fuses, catalog cache (R439), with the measurements of the images there. -/
def CtDie.kept (x : CtDie) : CtDie :=
  { CtDie.reset with fuses := x.fuses, catalog := x.catalog, curSlot := x.curSlot, running := x.running, pendingImgs := x.pendingImgs,
                     svnMin := x.svnMin, opKeyNext := x.opKeyNext }

/-- A full reset: everything but what R439 keeps and the settings of the management controller (R437, R470); the pins as they
stand. -/
def State.fullReset (s : State) : State :=
  let p := s.power
  { State.reset with
    pending := s.pending, freeCtr := s.freeCtr, cts := s.cts.map CtDie.kept
    rot := { Rot.reset with bootCount := s.rot.bootCount }
    power := { Power.reset with
      inputOn := p.inputOn, lockedOff := p.lockedOff, pwrOk := p.pwrOk, resetLow := p.resetLow, thermTripN := p.thermTripN
      bladeFault := p.bladeFault, limit := p.limit, preferred := p.preferred, startLimit := p.startLimit } }

/-- MOD_RESET_N_ASSERT (R471, R472): MOD_RESET_N has been low for 100 µs. -/
def execModResetNAssert (s : State) : Out :=
  .next (
    let low := s.modPower fun p => { p with resetLow := true }
    if s.power.pwrOk then low.fullReset.modPower fun p => { p with thermTripN := true } else low)

/-- The module without rails; `trip` drives THERM_TRIP_N low, `locked` keeps it off until the input has fallen and risen. -/
def State.powerOff (s : State) (inputOn locked trip : Bool) : State :=
  s.fullReset.modPower fun p =>
    { p with inputOn := inputOn, lockedOff := locked, pwrOk := false, thermTripN := p.thermTripN && !trip, bladeFault := [false, false] }

/-- INPUT_TURN_ON (R468, R471): the input crosses 44 V rising; PWR_OK goes high with the control-domain rails. -/
def execInputTurnOn (s : State) : Out :=
  .next (if s.power.inputOn || s.power.lockedOff then s else s.modPower fun p => { p with inputOn := true, pwrOk := true })

/-- INPUT_TURN_OFF (R468): the input falls below 42 V; nothing is saved. -/
def execInputTurnOff (s : State) : Out := .next (s.powerOff false false false)

/-- OVERVOLTAGE (R468): the input is disconnected. -/
def execOvervoltage (s : State) : Out := .next (s.powerOff false true false)

/-- THERMAL_TRIP (R456, R472): a control die's own sensor powers the module down; any other sensor the data plane. -/
def execThermalTrip (x : Sensor) (s : State) : Out :=
  .next (
    if x.block = 10 then (if s.power.pwrOk then s.powerOff s.power.inputOn true true else s)
    else if !s.power.dataRails then s
    else (s.logReport (sensorReport x Cls.thermalTrip 3) 0xff 0).tripData)

/-! ## Start-up (R20, R335, R357, R368 to R374, R384, R436) -/

/-- The stages as they run from verified images. -/
def stagesOf (old : List StageMeas) (l : List BootImage) : List StageMeas :=
  (List.range 9).map fun n => match l.find? fun i => i.stage == n with
    | some i => { meas := i.meas, svn := i.svn, verified := i.verified }
    | none => old.getD n { meas := 0, svn := 0, verified := false }

/-- SVN minimums raised by images whose header asks for it (R374). -/
def raiseSvn (old : List (BitVec 32)) (l : List BootImage) : List (BitVec 32) :=
  old.zipIdx.map fun p => match l.find? fun i => i.stage == p.2 && i.raiseSvn with
    | some i => if p.1.toNat < i.svn.toNat then i.svn else p.1
    | none => p.1

/-- The key id that R368 and R369 require of a stage's image: the operator's for stage 8 (R372), else RALUM_ROOT_ID (R367). -/
def CtDie.requiredKey (x : CtDie) (stage : Nat) : BitVec 512 := if stage = 8 then x.opKeyNext else Config.ralumRootId

/-- An image passes (R369): its signer's key has the required id, it verifies, and its SVN is at least the stage's minimum. -/
def CtDie.accepts (x : CtDie) (i : BootImage) : Bool :=
  i.verified && i.keyId == x.requiredKey i.stage && decide ((x.svnMin.getD i.stage 0).toNat ≤ i.svn.toNat)

/-- The mask ROM at a start (R367): it has read the UDS and locks the fuse read port until the next reset of this control die. -/
def CtDie.maskRom (x : CtDie) : CtDie := { x with fusesLocked := true }

/-- A control die's measured start (R369, R374): from the pending slot where there is one, else from the current or the other
slot. -/
def CtDie.boot (x : CtDie) (imgs : List BootImage) (other pendingFails : Bool) : CtDie :=
  if !x.pendingImgs.isEmpty && !pendingFails then
    { x with curSlot := 1 - x.curSlot, running := stagesOf x.running x.pendingImgs, svnMin := raiseSvn x.svnMin x.pendingImgs,
             pendingImgs := [], reached8 := true }
  else
    { x with curSlot := if other then 1 - x.curSlot else x.curSlot, running := stagesOf x.running imgs, pendingImgs := [],
             reached8 := true }

/-- A compute die after its start-up tests (R20): the clusters that failed, the spare C8 only when none did. -/
def bootDie (failed : List Phys) : DieSt :=
  let good := (List.finRange 9).filter fun c => !failed.contains c
  if good.isEmpty then DieSt.reset
  else if failed.isEmpty then
    { DieSt.reset with present := true, inService := true, clusters := List.replicate 8 0 ++ [1], map := good.take 8 }
  else
    { DieSt.reset with present := true, inService := true, map := good,
                       clusters := (List.finRange 9).map fun c => if failed.contains c then 2 else 0 }

/-- A stack after training (R335, R357): its spare rows and lanes, and whether a bank has no spare row left, as one that has a page
WITHDRAWN has. -/
def bootStack (failed : Bool) (rows lanes : Nat) (out : Bool) : StackSt :=
  { StackSt.reset with inService := !failed, failed := failed, spareRows := rows, spareLanes := lanes, spareRowsStart := rows,
                       spareLanesStart := lanes, bankOut := out || rows == 0 }

/-- A DEGRADED report of a unit, of class TEST_FAIL. -/
def State.testFail (s : State) (block : Fin 16) (unit : Nat) (d : Die) : State :=
  let (n, s) := s.fresh
  s.report { cls := Cls.testFail, severity := 2, block := block, unit := Fin.ofNat 64 unit, die := d, cab := none,
             d2 := word (put (Config.testNumber n).toNat 56), d3 := 0, touched := [] }

/-- What the command processor reports when it is ready (R438, R453): the units that failed, then the reserves. -/
def State.readyReports (s : State) : State :=
  let s := (List.finRange 16).foldl (fun (s : State) d =>
    let x := s.die d
    if !x.present then s.testFail 0 0 d
    else ((List.finRange 9).filter fun c => x.clusters.getD c.val 2 == 2).foldl (fun (s : State) c => s.testFail 1 c.val d) s) s
  let s := ((List.finRange 32).filter fun h => (s.stk h).failed).foldl (fun (s : State) h => s.testFail 5 h.val (dieOf h)) s
  let s := ((List.finRange 4).filter fun e => !(s.edge e).inService).foldl (fun (s : State) e => s.testFail 9 e.val 0) s
  s.checkReserves

/-- A control die becomes active (R436 step 8, R437); the other, if it stands at step 8, is the standby. -/
def State.activate (s : State) (c : Ct) : State :=
  let o := otherCt c
  let s := s.modCt c fun x => { x with side := 0 }
  let s := if (s.ct o).reached8 && s.side o = 2 then s.modCt o fun x => { x with side := 1 } else s
  let s := s.modCp fun k => { k with active := c }
  let s := s.modRot fun r => { r with opKey := (s.ct c).opKeyNext }
  let s := if c = s.power.preferred then s else s.modPower fun p => { p with choice := some c }
  let left := s.cp.backlog
  let s := left.foldl (fun (s : State) o => s.emit { o with dest := srcOn c o.dest }) (s.modCp fun k => { k with backlog := [] })
  (((s.readyReports).hear c).hear o).answerHeld

/-- A FIRMWARE report (R373, R374): an image set was refused. -/
def State.firmwareReport (s : State) (ct : Ct) (img : Option BootImage) : State :=
  s.logReport { cls := Cls.firmware, severity := 0, block := 12, unit := Fin.ofNat 64 ct.val, die := 0, cab := none,
                d2 := word (put ((img.map BootImage.stage).getD 0) 56 + ((img.map fun i => i.svn.toNat).getD 0)), d3 := 0,
                touched := [] } 0xff 0

/-- The data plane, the RoTP's tables and the control dies as a start leaves them before a control die is chosen. -/
def State.bring (s : State) (f : StartFacts) (clock : Fin 2) : State :=
  let s := s.fullReset
  let (k, s) := s.fresh
  let ct := fun (x : CtDie) (c : Ct) =>
    let imgs := (assocGet c f.images).getD []
    if f.recovery.contains c || !imgs.all x.accepts then { x.maskRom with side := 6 }
    else if f.slow.contains c then { x.maskRom with running := stagesOf x.running imgs }
    else x.maskRom.boot imgs (f.otherSlot.contains c) (f.pendingFails.contains c)
  let stack := fun (h : Stack) =>
    let (rows, lanes, out) := (assocGet h f.spares).getD (f.spareRows, f.spareLanes, false)
    bootStack (f.failedStacks.contains h) rows lanes (out || f.withdrawn.any fun p => p.1 == h)
  let edge := fun (e : Edge) => { EdgeSt.reset with inService := !f.failedEdges.contains e, attach := 3 }
  let cts := [ct (s.ct 0) 0, ct (s.ct 1) 1]
  let owner := match cts.map CtDie.reached8 with
    | [false, true] => 1
    | [false, false] => 2
    | _ => 0
  let gone := fun (p : Stack × Nat) => { Page.reset p.1 (Fin.ofNat 32768 p.2) with kind := PKind.withdrawn }
  { s with
    cts := cts
    dies := (List.finRange 16).map fun d => bootDie ((f.failedClusters.filter fun p => p.1 == d).map Prod.snd)
    hbm := (List.finRange 32).map stack
    pages := f.withdrawn.map gone
    edges := (List.finRange 4).map edge
    rot := { s.rot with gloves := [madeGlove 1 0 0 0 0 0], ekSerial := k, ekOwner := owner, bootCount := s.rot.bootCount + 1, transition := 0 }
    power := { s.power with resetLow := false, dataRails := true, thermTripN := true, refclk := clock, started := true,
                            slotId := Config.slotId } }

/-- Which control die is chosen at the end of a start (R437): the preferred one; the other where that one is in recovery; none yet
where it has not reached step 8. -/
def State.chosen (s : State) : Option Ct :=
  let p := s.power.preferred
  if (s.ct p).reached8 then some p
  else if s.side p = 6 && (s.ct (otherCt p)).reached8 then some (otherCt p)
  else none

/-- MOD_RESET_N_RELEASE (R436, R471, R475): a full start, as far as its facts let it come. Without a reference clock the module
does not start. -/
def execModResetNRelease (f : StartFacts) (s : State) : Out :=
  .next (
    if !s.power.pwrOk || !s.power.resetLow then s
    else match f.clock with
      | none => s.modPower fun p => { p with resetLow := false }
      | some clock =>
        let bad := [(0 : Ct), 1].filter fun c => f.pendingFails.contains c && !(s.ct c).pendingImgs.isEmpty
        let s := s.bring f clock
        let s := match s.chosen with
          | some c => s.activate c
          | none => s
        let s := if s.cts.any fun x => !x.pendingImgs.isEmpty then s.modRot fun r => { r with transition := 1 } else s
        bad.foldl (fun (s : State) c => s.firmwareReport c none) s)

/-- START_LIMIT (R437): the preferred control die has not reached step 8; the other becomes active. -/
def execStartLimit (s : State) : Out :=
  .next (
    let o := otherCt s.power.preferred
    if s.power.started && !(s.ct s.power.preferred).reached8 && (s.ct o).reached8 && s.side o = 2 && s.side (otherCt o) != 0 then
      s.activate o
    else s)

/-! ## The take-over completes (R431 to R433) -/

/-- TAKE_OVER_COMPLETE (R431 to R433, R378, R486): roles change; TAKE_OVER is answered first, then what the journal holds is
written, then TAKEN_OVER is posted. -/
def execTakeOverComplete (s : State) : Out :=
  .next (match s.cp.takingOver with
    | none => s
    | some c =>
      let old := s.cp.active
      let mseqs := (s.ct old).trays.map Tray.eventMseq
      let s := s.modCt c fun x =>
        { x with side := 0, trays := (x.trays.zip mseqs).map fun (p : Tray × BitVec 16) => { p.1 with eventMseq := p.2 } }
      let s := s.modCt old fun x => if x.side = 0 then { x with side := 1 } else x
      let r := s.cp.takeOverReply
      let s := s.modCp fun k =>
        { k with active := c, takingOver := none, takeOverReply := none, failovers := satAdd (2 ^ 32 - 1) k.failovers 1 }
      let s := s.completeAll r.toList Code.ok []
      let s := s.flushJournal c
      let left := s.cp.backlog
      let s := left.foldl (fun (s : State) o => s.emit o) (s.modCp fun k => { k with backlog := [] })
      let s := s.postEvent Event.takenOver 0 [word (put c.val 60)]
      let noRing : ERing → ERing := fun x => { x with installed := false }
      let bare : EdgeSt → EdgeSt := fun e => { e with rings := e.rings.map noRing }
      let s := { s with edges := s.edges.map bare }
      let s := s.dropUncommitted
      let s := (s.rot.gloves.filter fun g => g.phase == 2).foldl (fun (s : State) g => s.installGlove g.id) s
      let s := if s.hasStandby then s else s.tableAlone
      ((s.settleDraining.hear c).hear old).answerHeld)

/-! ## Resets and power of one control die (R439, R492) -/

/-- A standby that is lost: the active command processor goes on alone (R430, R431). -/
def State.loseStandby (s : State) (c : Ct) : State :=
  if s.side c = 1 && s.cp.takingOver.isNone then (s.flushJournal s.cp.active).settleDraining.tableAlone
  else if s.cp.takingOver = some c then s.modCp fun k => { k with takingOver := none, takeOverReply := none }
  else s

/-- A control die restarts (R369, R436, R437): it reaches step 8 as the standby of an active one, or stays in recovery. -/
def State.restartCt (s : State) (c : Ct) (recovers : Bool) : State :=
  let up := s.side s.cp.active = 0 && s.cp.active != c
  (s.modCt c fun x =>
    let y := x.kept.maskRom
    if !recovers then { y with side := 6 } else { y with side := if up then 1 else 2, reached8 := true }).answerHeld

/-- CONTROL_DIE_RESET (R439): the active command processor's die reads RESETTING; the standby's, or one that was lost, restarts. -/
def execControlDieReset (ct : Ct) (recovers : Bool) (s : State) : Out :=
  .next (
    if !s.power.started || (s.ct ct).poweredDown then s
    else if s.side ct = 0 then s.modCt ct fun x => { x.kept with side := 3 }
    else (s.loseStandby ct).restartCt ct recovers)

/-- CONTROL_DIE_POWER (R492): the active control die refuses to be set off. -/
def execControlDiePower (ct : Ct) (on : Bool) (s : State) : Out :=
  .next (
    if !s.power.started then s
    else if on then
      if (s.ct ct).poweredDown then s.restartCt ct true else s
    else if ct = s.cp.active || (s.ct ct).poweredDown then s
    else (s.loseStandby ct).modCt ct fun x => { x.kept with side := 4, poweredDown := true })

/-! ## Settings and firmware update (R372 to R374, R437, R470) -/

/-- POWER_LIMIT_WATTS (R470): 4,000 to 10,000 W in steps of 50 W. -/
def execPowerLimitWatts (watts : Nat) (s : State) : Out :=
  .next (if within 4000 10000 watts && watts % 50 == 0 then s.modPower fun p => { p with limit := watts } else s)

/-- ACTIVE_PREFERENCE (R437). -/
def execActivePreference (ct : Ct) (s : State) : Out := .next (s.modPower fun p => { p with preferred := ct })

/-- START_LIMIT_SECONDS (R437). -/
def execStartLimitSeconds (seconds : Nat) (s : State) : Out := .next (s.modPower fun p => { p with startLimit := seconds })

/-- OPERATOR_KEY_ID (R372): in both control dies' boot flash, in effect from the next start. -/
def execOperatorKeyId (keyId : BitVec 512) (s : State) : Out :=
  let mk : CtDie → CtDie := fun x => { x with opKeyNext := keyId }
  .next { s with cts := s.cts.map mk }


/-- UPDATE_SERVICE (R373, R374): an image set staged into the inactive slot; a second one replaces it. -/
def execUpdateService (ct : Ct) (images : List BootImage) (s : State) : Out :=
  .next (
    if !s.power.started || !s.ctLives ct then s
    else
      let x := s.ct ct
      let whole := (List.range 8).all fun n => (images.filter fun i => i.stage == n + 1).length == 1
      let s := s.modCt ct fun y => { y with pendingImgs := if whole && images.length == 8 && images.all x.accepts then images else [] }
      let updating := s.cts.any fun y => !y.pendingImgs.isEmpty
      let s := s.modRot fun r =>
        { r with transition := if r.transition = 2 then 2 else if updating then 1 else 0,
                 pendingCt := if (s.ct ct).pendingImgs.isEmpty then otherCt ct else ct }
      if (s.ct ct).pendingImgs.isEmpty then s.firmwareReport ct (images.find? fun i => !x.accepts i) else s)

/-! ## The power controller (R468 to R470) -/

/-- A POWER report (R445). -/
def State.powerReport (s : State) (blade : Nat) : State :=
  s.report { cls := Cls.power, severity := 2, block := 14, unit := 0, die := 0, cab := none, d2 := word (put blade 56), d3 := 0,
             touched := [] }

/-- The limit in effect, in watts (R470). -/
def Power.effective (p : Power) : Nat := if p.bladeFault.contains true then min p.limit 5500 else p.limit

/-- THROTTLE_STEP (R469): 1 ms has passed; the mean input power of that time in milliwatts. -/
def execThrottleStep (mean : Nat) (s : State) : Out :=
  .next (
    if !s.power.dataRails then s
    else s.modPower fun p =>
      if p.effective * 1000 < mean then { p with throttle := min 48 (p.throttle + 1) }
      else if mean * 100 < 97 * p.effective * 1000 then { p with throttle := p.throttle - 1 }
      else p)

/-- THROTTLE_HELD (R470): the level has been 48 for 100 ms. -/
def execThrottleHeld (s : State) : Out := .next (if s.power.throttle = 48 then s.powerReport 0 else s)

/-- POWER (R468, R470): a blade leaves its rating, or its converters limit. -/
def execPowerFault (blade : Fin 2) (s : State) : Out :=
  .next (
    if !s.power.inputOn || !s.power.pwrOk then s
    else (s.modPower fun p => { p with bladeFault := updAt blade.val (fun _ => true) p.bladeFault }).powerReport blade.val)

/-- BLADE_IN_RATING (R470): both blades have been in rating for 1 s. -/
def execBladeInRating (s : State) : Out := .next (s.modPower fun p => { p with bladeFault := [false, false] })

/-! ## Clocks and time (R475, R477, R478, R493) -/

/-- REFCLK_SWITCH (R475): REFCLK0 is lost; each link that retrains reports. -/
def execRefclkSwitch (retrained : List Edge) (s : State) : Out :=
  .next (
    if !s.power.started || s.power.refclk != 0 then s
    else retrained.foldl (fun (s : State) e =>
      s.report { cls := Cls.link, severity := 0, block := 9, unit := Fin.ofNat 64 e.val, die := 0, cab := none, d2 := 0, d3 := 0,
                 touched := [] }) (s.modPower fun p => { p with refclk := 1 }))

/-- PPS_IN (R493): a rising edge on the second. -/
def execPpsIn (s : State) : Out := .next (if s.power.started then s.modPower fun p => { p with ppsSeen := true } else s)

/-- PTP_LOCK (R477, R478): at the first lock module time steps forward; a timer whose FIRST is passed by the step expires once. -/
def execPtpLock (grandmaster : Word) (s : State) : Out :=
  .next (
    if !s.power.started then s
    else if s.power.ptp != 0 then s.modPower fun p => { p with ptp := 1 }
    else
      let g := grandmaster.toNat
      let s := s.modPower fun p =>
        { p with ptp := 1, stepTo := if s.now < g then g else 0, stepBy := if s.now < g then g - s.now else 0 }
      if g ≤ s.now then s
      else
        let s := { s with now := g }
        (s.cp.timers.filter fun x => x.armed && decide (x.due < g)).foldl (fun (s : State) x => s.expireTimer x g) s)

/-- HOLDOVER (R493): PTP is lost; module time runs on. -/
def execHoldover (s : State) : Out := .next (if s.power.ptp = 1 then s.modPower fun p => { p with ptp := 2 } else s)

end Sys2Proof.Machine
end

