-- ==== Sys2Proof/Machine/Dispatch.lean ====
section
/-! DEFINITION. One arm per command: the meaning it calls. -/

namespace Sys2Proof.Machine

def exec (i : Instr) (s : State) : Host.Outcome State Fault Refusal :=
  match i with
  | .queryCaps src req => Sys2Proof.Machine.execQueryCaps src req s
  | .resync src req => Sys2Proof.Machine.execResync src req s
  | .setEventTray src req => Sys2Proof.Machine.execSetEventTray src req s
  | .takeOver src req => Sys2Proof.Machine.execTakeOver src req s
  | .configureCabinet src req => Sys2Proof.Machine.execConfigureCabinet src req s
  | .mountShelf src req img => Sys2Proof.Machine.execMountShelf src req img s
  | .mountComplete cab => Sys2Proof.Machine.execMountComplete cab s
  | .unmountShelf src req => Sys2Proof.Machine.execUnmountShelf src req s
  | .setAdmission src req => Sys2Proof.Machine.execSetAdmission src req s
  | .loadProgram src req img => Sys2Proof.Machine.execLoadProgram src req img s
  | .createStream src req => Sys2Proof.Machine.execCreateStream src req s
  | .destroyStream src req => Sys2Proof.Machine.execDestroyStream src req s
  | .submitJob src req => Sys2Proof.Machine.execSubmitJob src req s
  | .jobStart stream jobSeq => Sys2Proof.Machine.execJobStart stream jobSeq s
  | .resumeStream src req => Sys2Proof.Machine.execResumeStream src req s
  | .bindDrawer src req => Sys2Proof.Machine.execBindDrawer src req s
  | .unbindDrawer src req => Sys2Proof.Machine.execUnbindDrawer src req s
  | .prefetchDrawer src req => Sys2Proof.Machine.execPrefetchDrawer src req s
  | .evictDrawer src req => Sys2Proof.Machine.execEvictDrawer src req s
  | .drawerStatus src req => Sys2Proof.Machine.execDrawerStatus src req s
  | .setDrawerCache src req => Sys2Proof.Machine.execSetDrawerCache src req s
  | .setRemakeConsent src req => Sys2Proof.Machine.execSetRemakeConsent src req s
  | .catalogDeliver src req obj => Sys2Proof.Machine.execCatalogDeliver src req obj s
  | .startRun src req => Sys2Proof.Machine.execStartRun src req s
  | .stopRun src req => Sys2Proof.Machine.execStopRun src req s
  | .endRun src req => Sys2Proof.Machine.execEndRun src req s
  | .publishRun src req => Sys2Proof.Machine.execPublishRun src req s
  | .resumeRun src req => Sys2Proof.Machine.execResumeRun src req s
  | .runStatus src req => Sys2Proof.Machine.execRunStatus src req s
  | .setRunRate src req => Sys2Proof.Machine.execSetRunRate src req s
  | .catalogStored src req => Sys2Proof.Machine.execCatalogStored src req s
  | .setReduction src req => Sys2Proof.Machine.execSetReduction src req s
  | .setThinning src req => Sys2Proof.Machine.execSetThinning src req s
  | .reductionStatus src req => Sys2Proof.Machine.execReductionStatus src req s
  | .memoryStatus src req => Sys2Proof.Machine.execMemoryStatus src req s
  | .attest src req => Sys2Proof.Machine.execAttest src req s
  | .addTenant src req => Sys2Proof.Machine.execAddTenant src req s
  | .removeTenant src req => Sys2Proof.Machine.execRemoveTenant src req s
  | .gloveClose src req => Sys2Proof.Machine.execGloveClose src req s
  | .gloveOpen src req => Sys2Proof.Machine.execGloveOpen src req s
  | .rotateGlove src req => Sys2Proof.Machine.execRotateGlove src req s
  | .gloveStatus src req => Sys2Proof.Machine.execGloveStatus src req s
  | .consentInstall src req sigOk => Sys2Proof.Machine.execConsentInstall src req sigOk s
  | .consentRevoke src req => Sys2Proof.Machine.execConsentRevoke src req s
  | .debugOpen src req => Sys2Proof.Machine.execDebugOpen src req s
  | .debugClose src req => Sys2Proof.Machine.execDebugClose src req s
  | .telemetryRead src req => Sys2Proof.Machine.execTelemetryRead src req s
  | .resetCluster src req => Sys2Proof.Machine.execResetCluster src req s
  | .resetDie src req => Sys2Proof.Machine.execResetDie src req s
  | .resetCabinet src req => Sys2Proof.Machine.execResetCabinet src req s
  | .resetComplete scope => Sys2Proof.Machine.execResetComplete scope s
  | .setPolicy src req => Sys2Proof.Machine.execSetPolicy src req s
  | .errorLogRead src req => Sys2Proof.Machine.execErrorLogRead src req s
  | .reserveStatus src req => Sys2Proof.Machine.execReserveStatus src req s
  | .claim src req => Sys2Proof.Machine.execClaim src req s
  | .release src req => Sys2Proof.Machine.execRelease src req s
  | .setEdgeAddr src req => Sys2Proof.Machine.execSetEdgeAddr src req s
  | .setEdgeRings src req => Sys2Proof.Machine.execSetEdgeRings src req s
  | .edgeStatus src req => Sys2Proof.Machine.execEdgeStatus src req s
  | .undefinedOpcode src req opcode => Sys2Proof.Machine.execUndefinedOpcode src req opcode s
  | .pigeonholeGo ct n v => Sys2Proof.Machine.execPigeonholeGo ct n v s
  | .pigeonholeDone ct n v => Sys2Proof.Machine.execPigeonholeDone ct n v s
  | .withdraw ct n v => Sys2Proof.Machine.execWithdraw ct n v s
  | .pigeonholeOverrunClear ct n v => Sys2Proof.Machine.execPigeonholeOverrunClear ct n v s
  | .pigeonholeIrqEn ct n v => Sys2Proof.Machine.execPigeonholeIrqEn ct n v s
  | .doorbell ct n v => Sys2Proof.Machine.execDoorbell ct n v s
  | .outTailWrite ct n v => Sys2Proof.Machine.execOutTailWrite ct n v s
  | .inHeadWrite ct n v => Sys2Proof.Machine.execInHeadWrite ct n v s
  | .trayOverrunClear ct n v => Sys2Proof.Machine.execTrayOverrunClear ct n v s
  | .trayIrqEn ct n v => Sys2Proof.Machine.execTrayIrqEn ct n v s
  | .registerWrite core addr size v => Sys2Proof.Machine.execRegisterWrite core addr size v s
  | .heldResponseWrite src => Sys2Proof.Machine.execHeldResponseWrite src s
  | .journalEntry => Sys2Proof.Machine.execJournalEntry s
  | .journalAck => Sys2Proof.Machine.execJournalAck s
  | .heartbeat ct => Sys2Proof.Machine.execHeartbeat ct s
  | .heartbeatLost silent => Sys2Proof.Machine.execHeartbeatLost silent s
  | .takeOverComplete => Sys2Proof.Machine.execTakeOverComplete s
  | .servingRequest session r => Sys2Proof.Machine.execServingRequest session r s
  | .admissionRetest request => Sys2Proof.Machine.execAdmissionRetest request s
  | .fetchResume fetch => Sys2Proof.Machine.execFetchResume fetch s
  | .fetchComplete fetch => Sys2Proof.Machine.execFetchComplete fetch s
  | .remakeStart cab => Sys2Proof.Machine.execRemakeStart cab s
  | .admitWaitExpiry die => Sys2Proof.Machine.execAdmitWaitExpiry die s
  | .passStart die tr => Sys2Proof.Machine.execPassStart die tr s
  | .panelBufferFill u f => Sys2Proof.Machine.execPanelBufferFill u f s
  | .passEnd die tokens => Sys2Proof.Machine.execPassEnd die tokens s
  | .boundaryRowsArrival die => Sys2Proof.Machine.execBoundaryRowsArrival die s
  | .tokenIdsArrival die => Sys2Proof.Machine.execTokenIdsArrival die s
  | .segmentEnd die => Sys2Proof.Machine.execSegmentEnd die s
  | .shelfFwd m => Sys2Proof.Machine.execShelfFwd m s
  | .shelfBwd m => Sys2Proof.Machine.execShelfBwd m s
  | .seqScore m => Sys2Proof.Machine.execSeqScore m s
  | .seqMix m => Sys2Proof.Machine.execSeqMix m s
  | .slotGrad m => Sys2Proof.Machine.execSlotGrad m s
  | .drawerMul m => Sys2Proof.Machine.execDrawerMul m s
  | .scalePass2 die stream jobSeq opIndex => Sys2Proof.Machine.execScalePass2 die stream jobSeq opIndex s
  | .vectorDescriptor die jobSeq opIndex words => Sys2Proof.Machine.execVectorDescriptor die jobSeq opIndex words s
  | .descriptorRetire die stream jobSeq opIndex => Sys2Proof.Machine.execDescriptorRetire die stream jobSeq opIndex s
  | .vadd u f => Sys2Proof.Machine.execVadd u f s
  | .vsub u f => Sys2Proof.Machine.execVsub u f s
  | .vmul u f => Sys2Proof.Machine.execVmul u f s
  | .vfma u f => Sys2Proof.Machine.execVfma u f s
  | .vmin u f => Sys2Proof.Machine.execVmin u f s
  | .vmax u f => Sys2Proof.Machine.execVmax u f s
  | .vabs u f => Sys2Proof.Machine.execVabs u f s
  | .vneg u f => Sys2Proof.Machine.execVneg u f s
  | .vdiv u f => Sys2Proof.Machine.execVdiv u f s
  | .vsqrt u f => Sys2Proof.Machine.execVsqrt u f s
  | .vexp u f => Sys2Proof.Machine.execVexp u f s
  | .vdexp u f => Sys2Proof.Machine.execVdexp u f s
  | .vmuldiv u f => Sys2Proof.Machine.execVmuldiv u f s
  | .vcmp u f => Sys2Proof.Machine.execVcmp u f s
  | .mand u f => Sys2Proof.Machine.execMand u f s
  | .mor u f => Sys2Proof.Machine.execMor u f s
  | .mnot u f => Sys2Proof.Machine.execMnot u f s
  | .mrange u f => Sys2Proof.Machine.execMrange u f s
  | .vsel u f => Sys2Proof.Machine.execVsel u f s
  | .vbcast u f => Sys2Proof.Machine.execVbcast u f s
  | .vand u f => Sys2Proof.Machine.execVand u f s
  | .vor u f => Sys2Proof.Machine.execVor u f s
  | .vxor u f => Sys2Proof.Machine.execVxor u f s
  | .vshl u f => Sys2Proof.Machine.execVshl u f s
  | .vshr u f => Sys2Proof.Machine.execVshr u f s
  | .vsra u f => Sys2Proof.Machine.execVsra u f s
  | .vcvt u f => Sys2Proof.Machine.execVcvt u f s
  | .vred u f => Sys2Proof.Machine.execVred u f s
  | .vsplit u f => Sys2Proof.Machine.execVsplit u f s
  | .vjoin u f => Sys2Proof.Machine.execVjoin u f s
  | .vgetf u f => Sys2Proof.Machine.execVgetf u f s
  | .vld u f => Sys2Proof.Machine.execVld u f s
  | .vst u f => Sys2Proof.Machine.execVst u f s
  | .vldb u f => Sys2Proof.Machine.execVldb u f s
  | .vldmx u f => Sys2Proof.Machine.execVldmx u f s
  | .vstmx u f => Sys2Proof.Machine.execVstmx u f s
  | .vfbld u f => Sys2Proof.Machine.execVfbld u f s
  | .vfbst u f => Sys2Proof.Machine.execVfbst u f s
  | .tld u f => Sys2Proof.Machine.execTld u f s
  | .tst u f => Sys2Proof.Machine.execTst u f s
  | .contributionReady die red => Sys2Proof.Machine.execContributionReady die red s
  | .hatbandItem red origin => Sys2Proof.Machine.execHatbandItem red origin s
  | .deadline red => Sys2Proof.Machine.execDeadline red s
  | .ownerReady run die => Sys2Proof.Machine.execOwnerReady run die s
  | .commitPoint run => Sys2Proof.Machine.execCommitPoint run s
  | .hopBroken hop => Sys2Proof.Machine.execHopBroken hop s
  | .latticePacket p => Sys2Proof.Machine.execLatticePacket p s
  | .sectorRead addr a err got => Sys2Proof.Machine.execSectorRead addr a err got s
  | .sectorWrite addr a off bytes err => Sys2Proof.Machine.execSectorWrite addr a off bytes err s
  | .mergeFlush st sector err => Sys2Proof.Machine.execMergeFlush st sector err s
  | .hbmApertureRead core addr size => Sys2Proof.Machine.execHbmApertureRead core addr size s
  | .hbmApertureWrite core addr bytes => Sys2Proof.Machine.execHbmApertureWrite core addr bytes s
  | .allocationFill st page => Sys2Proof.Machine.execAllocationFill st page s
  | .sweepStep st page err => Sys2Proof.Machine.execSweepStep st page err s
  | .patrolScrub st sector err => Sys2Proof.Machine.execPatrolScrub st sector err s
  | .onDieRead st count => Sys2Proof.Machine.execOnDieRead st count s
  | .gloveChangeAck glove => Sys2Proof.Machine.execGloveChangeAck glove s
  | .gloveInstallationAck glove b => Sys2Proof.Machine.execGloveInstallationAck glove b s
  | .gloveErasureAck glove b => Sys2Proof.Machine.execGloveErasureAck glove b s
  | .drainConfirm glove b => Sys2Proof.Machine.execDrainConfirm glove b s
  | .frameReceive ed f => Sys2Proof.Machine.execFrameReceive ed f s
  | .txRingPoll ed ring => Sys2Proof.Machine.execTxRingPoll ed ring s
  | .sessionInit ed m => Sys2Proof.Machine.execSessionInit ed m s
  | .dataRecord r msgs rest => Sys2Proof.Machine.execDataRecord r msgs rest s
  | .ackRecord r => Sys2Proof.Machine.execAckRecord r s
  | .closeRecord r => Sys2Proof.Machine.execCloseRecord r s
  | .recordResend session counter => Sys2Proof.Machine.execRecordResend session counter s
  | .ackTimer session => Sys2Proof.Machine.execAckTimer session s
  | .fragmentTimeout ed msgId => Sys2Proof.Machine.execFragmentTimeout ed msgId s
  | .getVersion r => Sys2Proof.Machine.execGetVersion r s
  | .getCapabilities r => Sys2Proof.Machine.execGetCapabilities r s
  | .negotiateAlgorithms r => Sys2Proof.Machine.execNegotiateAlgorithms r s
  | .getDigests r => Sys2Proof.Machine.execGetDigests r s
  | .getCertificate r slot => Sys2Proof.Machine.execGetCertificate r slot s
  | .challenge r nonce => Sys2Proof.Machine.execChallenge r nonce s
  | .getMeasurements r index nonce => Sys2Proof.Machine.execGetMeasurements r index nonce s
  | .spdmUnsupportedRequest r code => Sys2Proof.Machine.execSpdmUnsupportedRequest r code s
  | .faultReport r => Sys2Proof.Machine.execFaultReport r s
  | .linkEvent block unit replays down => Sys2Proof.Machine.execLinkEvent block unit replays down s
  | .edgeEvent ed which => Sys2Proof.Machine.execEdgeEvent ed which s
  | .thermalWarn sn => Sys2Proof.Machine.execThermalWarn sn s
  | .thermalWarnRepeat sn => Sys2Proof.Machine.execThermalWarnRepeat sn s
  | .thermalTrip sn => Sys2Proof.Machine.execThermalTrip sn s
  | .generalTimerExpiry die timer => Sys2Proof.Machine.execGeneralTimerExpiry die timer s
  | .tokenInForce token => Sys2Proof.Machine.execTokenInForce token s
  | .tokenExpiry token => Sys2Proof.Machine.execTokenExpiry token s
  | .powerWindow endTime module cabs => Sys2Proof.Machine.execPowerWindow endTime module cabs s
  | .temperatureWindow endTime temps => Sys2Proof.Machine.execTemperatureWindow endTime temps s
  | .counterSample time => Sys2Proof.Machine.execCounterSample time s
  | .throttleStep mean => Sys2Proof.Machine.execThrottleStep mean s
  | .throttleHeld => Sys2Proof.Machine.execThrottleHeld s
  | .bladeInRating => Sys2Proof.Machine.execBladeInRating s
  | .inputTurnOn => Sys2Proof.Machine.execInputTurnOn s
  | .inputTurnOff => Sys2Proof.Machine.execInputTurnOff s
  | .overvoltage => Sys2Proof.Machine.execOvervoltage s
  | .powerFault blade => Sys2Proof.Machine.execPowerFault blade s
  | .modResetNAssert => Sys2Proof.Machine.execModResetNAssert s
  | .modResetNRelease f => Sys2Proof.Machine.execModResetNRelease f s
  | .startLimit => Sys2Proof.Machine.execStartLimit s
  | .refclkSwitch retrained => Sys2Proof.Machine.execRefclkSwitch retrained s
  | .ppsIn => Sys2Proof.Machine.execPpsIn s
  | .ptpLock grandmaster => Sys2Proof.Machine.execPtpLock grandmaster s
  | .holdover => Sys2Proof.Machine.execHoldover s
  | .powerLimitWatts watts => Sys2Proof.Machine.execPowerLimitWatts watts s
  | .activePreference ct => Sys2Proof.Machine.execActivePreference ct s
  | .startLimitSeconds seconds => Sys2Proof.Machine.execStartLimitSeconds seconds s
  | .operatorKeyId keyId => Sys2Proof.Machine.execOperatorKeyId keyId s
  | .controlDiePower ct on => Sys2Proof.Machine.execControlDiePower ct on s
  | .controlDieReset ct recovers => Sys2Proof.Machine.execControlDieReset ct recovers s
  | .updateService ct images => Sys2Proof.Machine.execUpdateService ct images s
  | .activationStoreBlockZeroing die blk => Sys2Proof.Machine.execActivationStoreBlockZeroing die blk s
  | .linkUp ed => Sys2Proof.Machine.execLinkUp ed s

end Sys2Proof.Machine
end

