-- ==== Sys2Proof/Machine/Step.lean ====
section
/-!
DEFINITION. One step of the module: the command at the front of the queue, or idling, in which module time advances by 1 ns.
-/

namespace Sys2Proof.Machine

/-- The empty queue: the module idles; module time, which counts ns once the module has started (R478), advances by one. -/
def State.idle (s : State) : State := if s.power.started then { s with now := s.now + 1 } else s

/-- The command at the front of the queue acts on the state with the queue's rest; an empty queue idles. -/
def step (s : State) : Host.Outcome State Fault Refusal :=
  match s.pending with
  | [] => .next s.idle
  | c :: rest => exec c { s with pending := rest }

/-- The state with the command that a table word spells at the front of its queue; no word spells one. -/
def State.withFetchWord (s : State) (nbits w : Nat) : State :=
  match decodeTableWord nbits w with
  | none => s
  | some c => { s with pending := c :: s.pending }

end Sys2Proof.Machine
end

