-- ==== Sys2Proof/Machine/VDecode.lean ====
section
/-!
DEFINITION. The instruction words of the vector engine (R202 to R204): the fields that a word of each class carries, the
instruction that a word spells, and the word of an instruction.
-/

namespace Sys2Proof.Machine

/-- The fields of a class R word. -/
def fieldsR (w : Word) : RFields :=
  { type := Fin.ofNat 8 (bits w 55 53), vd := Fin.ofNat 32 (bits w 52 48), men := bitAt w 47, ms := Fin.ofNat 8 (bits w 46 44),
    zm := bitAt w 43, va := Fin.ofNat 32 (bits w 42 38), vb := Fin.ofNat 32 (bits w 37 33),
    vc := Fin.ofNat 32 (bits w 32 28), sr := bitAt w 27, xf := Fin.ofNat 8 (bits w 26 24), ba := bitAt w 23,
    lane := Fin.ofNat 512 (bits w 22 14), half := bitAt w 13 }

/-- The fields of a class I word. -/
def fieldsI (w : Word) : IFields :=
  { type := Fin.ofNat 8 (bits w 55 53), vd := Fin.ofNat 32 (bits w 52 48), men := bitAt w 47, ms := Fin.ofNat 8 (bits w 46 44),
    zm := bitAt w 43, imm := BitVec.ofNat 32 (bits w 31 0) }

/-- The fields of a class M word. -/
def fieldsM (w : Word) : MFields :=
  { type := Fin.ofNat 8 (bits w 55 53), vd := Fin.ofNat 32 (bits w 52 48), men := bitAt w 47, ms := Fin.ofNat 8 (bits w 46 44),
    zm := bitAt w 43, va := Fin.ofNat 32 (bits w 42 38), as := Fin.ofNat 8 (bits w 37 35),
    off := BitVec.ofNat 16 (bits w 34 19), xf := Fin.ofNat 8 (bits w 18 16) }

/-- The fields of a class T word, whose TYPE is W. -/
def fieldsT (w : Word) : TFields :=
  { vd := Fin.ofNat 32 (bits w 52 48), men := bitAt w 47, ms := Fin.ofNat 8 (bits w 46 44), zm := bitAt w 43,
    va := Fin.ofNat 32 (bits w 42 38), eng := Fin.ofNat 8 (bits w 37 35), tile := Fin.ofNat 8 (bits w 34 32),
    row := Fin.ofNat 128 (bits w 31 25), c := bitAt w 24 }

/-- The instruction that a word spells on an engine; none where its opcode is reserved (R204). -/
def vDecode (u : VUnit) (w : Word) : Option Instr :=
  match bits w 63 56 with
  | 0x01 => some (.vadd u (fieldsR w))
  | 0x02 => some (.vsub u (fieldsR w))
  | 0x03 => some (.vmul u (fieldsR w))
  | 0x04 => some (.vfma u (fieldsR w))
  | 0x05 => some (.vmin u (fieldsR w))
  | 0x06 => some (.vmax u (fieldsR w))
  | 0x07 => some (.vabs u (fieldsR w))
  | 0x08 => some (.vneg u (fieldsR w))
  | 0x09 => some (.vdiv u (fieldsR w))
  | 0x0a => some (.vsqrt u (fieldsR w))
  | 0x0b => some (.vexp u (fieldsR w))
  | 0x0c => some (.vdexp u (fieldsR w))
  | 0x0d => some (.vmuldiv u (fieldsR w))
  | 0x10 => some (.vcmp u (fieldsR w))
  | 0x11 => some (.mand u (fieldsR w))
  | 0x12 => some (.mor u (fieldsR w))
  | 0x13 => some (.mnot u (fieldsR w))
  | 0x14 => some (.mrange u (fieldsI w))
  | 0x15 => some (.vsel u (fieldsR w))
  | 0x16 => some (.vbcast u (fieldsI w))
  | 0x18 => some (.vand u (fieldsR w))
  | 0x19 => some (.vor u (fieldsR w))
  | 0x1a => some (.vxor u (fieldsR w))
  | 0x1b => some (.vshl u (fieldsR w))
  | 0x1c => some (.vshr u (fieldsR w))
  | 0x1d => some (.vsra u (fieldsR w))
  | 0x20 => some (.vcvt u (fieldsR w))
  | 0x21 => some (.vred u (fieldsR w))
  | 0x22 => some (.vsplit u (fieldsR w))
  | 0x23 => some (.vjoin u (fieldsR w))
  | 0x28 => some (.vgetf u (fieldsR w))
  | 0x30 => some (.vld u (fieldsM w))
  | 0x31 => some (.vst u (fieldsM w))
  | 0x32 => some (.vldb u (fieldsM w))
  | 0x33 => some (.vldmx u (fieldsM w))
  | 0x34 => some (.vstmx u (fieldsM w))
  | 0x35 => some (.vfbld u (fieldsM w))
  | 0x36 => some (.vfbst u (fieldsM w))
  | 0x38 => some (.tld u (fieldsT w))
  | 0x39 => some (.tst u (fieldsT w))
  | _ => none

/-- The word of a vector instruction; none for any other command. -/
def vEncode : Instr → Option Word
  | .vadd _ f => some (wordR 0x01 f)
  | .vsub _ f => some (wordR 0x02 f)
  | .vmul _ f => some (wordR 0x03 f)
  | .vfma _ f => some (wordR 0x04 f)
  | .vmin _ f => some (wordR 0x05 f)
  | .vmax _ f => some (wordR 0x06 f)
  | .vabs _ f => some (wordR 0x07 f)
  | .vneg _ f => some (wordR 0x08 f)
  | .vdiv _ f => some (wordR 0x09 f)
  | .vsqrt _ f => some (wordR 0x0a f)
  | .vexp _ f => some (wordR 0x0b f)
  | .vdexp _ f => some (wordR 0x0c f)
  | .vmuldiv _ f => some (wordR 0x0d f)
  | .vcmp _ f => some (wordR 0x10 f)
  | .mand _ f => some (wordR 0x11 f)
  | .mor _ f => some (wordR 0x12 f)
  | .mnot _ f => some (wordR 0x13 f)
  | .mrange _ f => some (wordI 0x14 f)
  | .vsel _ f => some (wordR 0x15 f)
  | .vbcast _ f => some (wordI 0x16 f)
  | .vand _ f => some (wordR 0x18 f)
  | .vor _ f => some (wordR 0x19 f)
  | .vxor _ f => some (wordR 0x1a f)
  | .vshl _ f => some (wordR 0x1b f)
  | .vshr _ f => some (wordR 0x1c f)
  | .vsra _ f => some (wordR 0x1d f)
  | .vcvt _ f => some (wordR 0x20 f)
  | .vred _ f => some (wordR 0x21 f)
  | .vsplit _ f => some (wordR 0x22 f)
  | .vjoin _ f => some (wordR 0x23 f)
  | .vgetf _ f => some (wordR 0x28 f)
  | .vld _ f => some (wordM 0x30 f)
  | .vst _ f => some (wordM 0x31 f)
  | .vldb _ f => some (wordM 0x32 f)
  | .vldmx _ f => some (wordM 0x33 f)
  | .vstmx _ f => some (wordM 0x34 f)
  | .vfbld _ f => some (wordM 0x35 f)
  | .vfbst _ f => some (wordM 0x36 f)
  | .tld _ f => some (wordT 0x38 f)
  | .tst _ f => some (wordT 0x39 f)
  | _ => none

/-- The engine that a vector instruction runs on. -/
def vUnitOf : Instr → Option VUnit
  | .vadd u _ => some u
  | .vsub u _ => some u
  | .vmul u _ => some u
  | .vfma u _ => some u
  | .vmin u _ => some u
  | .vmax u _ => some u
  | .vabs u _ => some u
  | .vneg u _ => some u
  | .vdiv u _ => some u
  | .vsqrt u _ => some u
  | .vexp u _ => some u
  | .vdexp u _ => some u
  | .vmuldiv u _ => some u
  | .vcmp u _ => some u
  | .mand u _ => some u
  | .mor u _ => some u
  | .mnot u _ => some u
  | .mrange u _ => some u
  | .vsel u _ => some u
  | .vbcast u _ => some u
  | .vand u _ => some u
  | .vor u _ => some u
  | .vxor u _ => some u
  | .vshl u _ => some u
  | .vshr u _ => some u
  | .vsra u _ => some u
  | .vcvt u _ => some u
  | .vred u _ => some u
  | .vsplit u _ => some u
  | .vjoin u _ => some u
  | .vgetf u _ => some u
  | .vld u _ => some u
  | .vst u _ => some u
  | .vldb u _ => some u
  | .vldmx u _ => some u
  | .vstmx u _ => some u
  | .vfbld u _ => some u
  | .vfbst u _ => some u
  | .tld u _ => some u
  | .tst u _ => some u
  | _ => none

end Sys2Proof.Machine
end

