-- ==== Sys2Proof/WellFormed.lean ====
section
/-!
DEFINITION. Well-formed commands: what a sender of this module, or a medium that delivers to it, can present at all. Each check
has its name, so that a statement can say which one it uses; a command that fails its check is outside what the spec describes.
Values that the module itself refuses (a wrong LENGTH, a reserved bit) are no matter of well-formedness.
-/

namespace Sys2Proof.Machine

/-- A message fits its channel (R413, R417, R418): a pigeonhole carries at most 8 words, a tray or a session at most 64. -/
def wfRequest (src : Src) (req : Req) : Bool :=
  decide (req.payload.length + 2 ≤ match src with | .pigeon _ _ => 8 | _ => 64)

/-- The opcodes of the command tables (R427, R428). -/
def wfUndefined (opcode : BitVec 16) : Bool := !definedOpcodes.contains opcode.toNat

/-- The issue of a matrix-op descriptor: eight words, with the row's own OP (R109, R111). -/
def wfIssue (op : Nat) (m : MatIssue) : Bool := m.words.length == 8 && (mdesc m.words).op == op

/-- The operand that a matrix-op descriptor names is delivered whole (R88, R93): N columns of K codes. -/
def wfOperand (m : MatIssue) : Bool :=
  (mdesc m.words).bsrc == 2 ||
    (m.weights.cols.length == (mdesc m.words).n && m.weights.cols.all fun c => c.length == (mdesc m.words).k)

/-- A vector descriptor: twelve words, OP 0x10 (R198). -/
def wfVector (ws : List Word) : Bool := ws.length == 12 && bits (wordAt ws 0) 63 56 == 0x10

/-- A vector instruction: a form that the opcode table gives, reserved fields zero (R201, R202, R204). -/
def wfInstruction (w : Word) : Bool := vFormOk w && vRsvOk w

/-- An access of a core: 1, 2, 4 or 8 bytes (R10). -/
def wfSize (n : Nat) : Bool := n == 1 || n == 2 || n == 4 || n == 8

/-- An access within one sector (R345). -/
def wfSector (off : Fin 64) (bytes : List Byte) : Bool := decide (off.val + bytes.length ≤ 64) && !bytes.isEmpty

/-- Faults named once per symbol (R346). -/
def wfErr (err : List (Fin 73 × Byte)) : Bool := decide (err.map Prod.fst).Nodup && err.all fun e => e.2 != 0

/-- A telemetry window: one mean per cabinet, one per sensor (R396). -/
def wfPower (cabs : List Nat) : Bool := cabs.length == 16
def wfTemps (ts : List Int) : Bool := ts.length == 24

/-- A firmware update holds the images of stages 1 to 8 (R373). -/
def wfUpdate (images : List BootImage) : Bool := images.map BootImage.stage == [1, 2, 3, 4, 5, 6, 7, 8]

/-- A report carries a class of R445. -/
def wfReport (r : Report) : Bool := decide (1 ≤ r.cls) && decide (r.cls ≤ 22)

/-- A frame has at least its header (R479). -/
def wfFrame (f : Frame) : Bool := decide (f.content.length ≤ f.bytes)

/-- A record's messages are whole (R482): each has its two header words. -/
def wfRecord (msgs : List (List Word)) : Bool := msgs.all fun m => decide (2 ≤ m.length) && decide (m.length ≤ 64)

/-- A handshake carries a ciphertext of 1088 bytes (R383). -/
def wfInit (m : SessionInit) : Bool := m.ct.length == 1088

/-- A start-up report names the stages of a boot chain (R368). -/
def wfStart (f : StartFacts) : Bool := f.images.all fun p => p.2.all fun i => decide (1 ≤ i.stage) && decide (i.stage ≤ 8)

/-- A lattice packet goes to another die (R22, R23). -/
def wfPacket (p : Packet) : Bool := p.src != .die p.dst && decide (p.cls < 8)

end Sys2Proof.Machine

namespace Sys2Proof

open Machine in
/-- A command is well-formed. -/
def Instr.wf (i : Instr) : Bool :=
  match vEncode i with
  | some w => wfInstruction w
  | none => match i with
    | .undefinedOpcode src req opcode => wfRequest src req && wfUndefined opcode
    | .queryCaps src req | .resync src req | .setEventTray src req | .takeOver src req | .configureCabinet src req
    | .mountShelf src req _ | .unmountShelf src req | .setAdmission src req | .loadProgram src req _ | .createStream src req
    | .destroyStream src req | .submitJob src req | .resumeStream src req | .bindDrawer src req | .unbindDrawer src req
    | .prefetchDrawer src req | .evictDrawer src req | .drawerStatus src req | .setDrawerCache src req
    | .setRemakeConsent src req | .catalogDeliver src req _ | .startRun src req | .stopRun src req | .endRun src req
    | .publishRun src req | .resumeRun src req | .runStatus src req | .setRunRate src req | .catalogStored src req
    | .setReduction src req | .setThinning src req | .reductionStatus src req | .memoryStatus src req | .attest src req
    | .addTenant src req | .removeTenant src req | .gloveClose src req | .gloveOpen src req | .rotateGlove src req
    | .gloveStatus src req | .consentInstall src req _ | .consentRevoke src req | .debugOpen src req | .debugClose src req
    | .telemetryRead src req | .resetCluster src req | .resetDie src req | .resetCabinet src req | .setPolicy src req
    | .errorLogRead src req | .reserveStatus src req | .claim src req | .release src req | .setEdgeAddr src req
    | .setEdgeRings src req | .edgeStatus src req => wfRequest src req
    | .shelfFwd m => wfIssue 1 m && wfOperand m
    | .shelfBwd m => wfIssue 2 m && wfOperand m
    | .seqScore m => wfIssue 3 m
    | .seqMix m => wfIssue 4 m
    | .slotGrad m => wfIssue 5 m && wfOperand m
    | .drawerMul m => wfIssue 6 m && wfOperand m
    | .vectorDescriptor _ _ _ ws => wfVector ws
    | .registerWrite _ _ n _ => wfSize n
    | .hbmApertureRead _ _ n => wfSize n
    | .hbmApertureWrite _ _ bs => wfSize bs.length
    | .sectorRead _ _ err _ => wfErr err
    | .sectorWrite _ _ off bs err => wfSector off bs && wfErr err
    | .mergeFlush _ _ err => wfErr err
    | .sweepStep _ _ err => wfErr err
    | .patrolScrub _ _ err => wfErr err
    | .latticePacket p => wfPacket p
    | .frameReceive _ f => wfFrame f
    | .sessionInit _ m => wfInit m
    | .dataRecord _ msgs _ => wfRecord msgs
    | .faultReport r => wfReport r
    | .powerWindow _ _ cabs => wfPower cabs
    | .temperatureWindow _ ts => wfTemps ts
    | .modResetNRelease f => wfStart f
    | .updateService _ images => wfUpdate images
    | _ => true

end Sys2Proof
end

