-- ==== Sys2Proof/Safety.lean ====
section
/-!
DEFINITION. The terms in which statements speak: the state without its message traffic, a request that passes every check, the
answer that a request has in the journal, canonical memories, and what holds of every state that the module reaches.
-/

namespace Sys2Proof.Machine

/-! ## The state without its message traffic -/

/-- A session without what it sends and receives. -/
def Session.quiet (x : Session) : Session :=
  { x with toSend := [], unacked := [], txNext := 0, inbox := [], ackDue := false, eventMseq := 0 }

/-- A control die without its channels. -/
def CtDie.quiet (x : CtDie) : CtDie := { x with pigeons := [], trays := [] }

/-- The command processor pair without journal and backlog, and without the count of events that found no room. -/
def Cp.quiet (c : Cp) : Cp := { c with jSent := [], jAcked := [], chans := [], heldCmds := [], backlog := [], eventsLost := 0 }

/-- An edge die without what its port sent. -/
def EdgeSt.quiet (e : EdgeSt) : EdgeSt := { e with txFrames := 0, out := [] }

/-- The root-of-trust processors without the traffic of sessions. -/
def Rot.quiet (r : Rot) : Rot := { r with sessions := r.sessions.map Session.quiet }

/-- The state without its message traffic: no ring, pigeonhole, journal entry, record on its way; the model's use clock, which
the journal advances, at zero. Two states equal in this sense differ in messages only. -/
def State.quiet (s : State) : State :=
  { s with cts := s.cts.map CtDie.quiet, cp := s.cp.quiet, rot := s.rot.quiet, edges := s.edges.map EdgeSt.quiet,
           useClock := 0 }

/-! ## Requests -/

/-- The reply that a request of a command waits for. -/
def replyOf (info : CmdInfo) (src : Src) (req : Req) : Reply :=
  { src := src, mseq := req.mseq, stream := req.stream, opcode := BitVec.ofNat 16 info.opcode }

/-- The state in which a request that was taken is executed (R414, R425, R430). -/
def State.entered (s : State) (info : CmdInfo) (src : Src) (req : Req) : State :=
  ((s.takeFrom src (reqWords info.opcode req)).getD s).jTake (replyOf info src req)

/-- A request goes through: its side is the active command processor's (R419), its channel holds it or is free for it (R413),
it is no resend and its MSEQ no unanswered one's (R422, R432), and it passes the checks of header, channel, stream, LENGTH and
reserved fields (R12, R411, R421, R426); the cabinet that it names is in no reset (R441). -/
def State.admits (s : State) (info : CmdInfo) (src : Src) (req : Req) : Bool :=
  s.cpRuns && s.ctOf src == s.cp.active && s.takes src && !s.cp.heldCmds.contains (replyOf info src req) &&
    (s.takeFrom src (reqWords info.opcode req)).isSome && (headerCode src req).isNone &&
    (s.resend (replyOf info src req)).isNone && (s.openReq? (chanKey src) req.mseq).isNone &&
    (s.routeCode info src req).isNone &&
    (match info.cabWord with
     | some i => !s.resetting (Fin.ofNat 16 (bits (wordAt req.payload i) 63 60))
     | none => true)

/-- The journal holds a request as completed with these messages (R430): its COMPLETION with a code and a payload. -/
def State.answered (s : State) (r : Reply) (jobSeq code : Nat) (payload : List Word) : Bool :=
  (s.chan (chanKey r.src)).any fun j =>
    j.mseq == r.mseq && j.opcode == r.opcode && j.stream == r.stream && j.phase == 2 &&
      j.completion == r.msgs Kind.completion jobSeq code payload

/-- The journal holds a request as accepted and not completed (R423). -/
def State.acceptedReq (s : State) (r : Reply) (jobSeq : Nat) : Bool :=
  (s.chan (chanKey r.src)).any fun j =>
    j.mseq == r.mseq && j.opcode == r.opcode && j.stream == r.stream && j.phase == 1 &&
      j.accepted == (r.msgs Kind.accepted jobSeq Code.ok []).headD []

/-- The journal holds a request open whose COMPLETION is due, and its channel holds no more than the 1024 requests that R432 keeps. -/
def State.awaits (s : State) (r : Reply) : Bool :=
  (match s.openReq? (chanKey r.src) r.mseq with
    | some j => j.opcode == r.opcode && j.stream == r.stream
    | none => false) && decide ((s.chan (chanKey r.src)).length ≤ 1024)

/-- The journal holds a request as completed, whatever its code. -/
def State.ended (s : State) (r : Reply) : Bool :=
  (s.chan (chanKey r.src)).any fun j => j.mseq == r.mseq && j.opcode == r.opcode && j.stream == r.stream && j.phase == 2

/-- A request that the standby command processor executes itself (R431): its side is a standby's, the request stands in its channel
or arrives there, it is no repetition, and it passes the checks of header, channel, stream and LENGTH. -/
def State.admitsStandby (s : State) (info : CmdInfo) (src : Src) (req : Req) : Bool :=
  (match src with | .session _ => false | _ => true) && s.side (s.ctOf src) == 1 && s.takes src &&
    !s.cp.heldCmds.contains (replyOf info src req) &&
    (s.takeFrom src (reqWords info.opcode req)).isSome && (headerCode src req).isNone &&
    (s.openReq? (chanKey src) req.mseq).isNone && (s.routeCode info src req).isNone

/-- A command answers a next state that satisfies `P`. -/
abbrev Answers (i : Instr) (s : State) (P : State → Prop) : Prop := ∃ t, exec i s = .next t ∧ P t

/-- A command goes through with an answer: exec answers a next state in which the journal holds the COMPLETION with a code and a
payload, and which differs from `u` in messages only. -/
def Completes (i : Instr) (s : State) (info : CmdInfo) (src : Src) (req : Req) (code : Nat) (words : List Word) (u : State) : Prop :=
  Answers i s fun t => t.answered (replyOf info src req) 0 code words = true ∧ t.quiet = u.quiet

/-- The source, the request and the row of each Ilnil command that has a row in the command tables (R411, R426). -/
def ilnilOf : Instr → Option (CmdInfo × Src × Req)
  | .queryCaps src req => some (infoQueryCaps, src, req)
  | .resync src req => some (infoResync, src, req)
  | .setEventTray src req => some (infoSetEventTray, src, req)
  | .takeOver src req => some (infoTakeOver, src, req)
  | .configureCabinet src req => some (infoConfigureCabinet, src, req)
  | .mountShelf src req _ => some (infoMountShelf, src, req)
  | .unmountShelf src req => some (infoUnmountShelf, src, req)
  | .setAdmission src req => some (infoSetAdmission, src, req)
  | .loadProgram src req _ => some (infoLoadProgram, src, req)
  | .createStream src req => some (infoCreateStream, src, req)
  | .destroyStream src req => some (infoDestroyStream, src, req)
  | .submitJob src req => some (infoSubmitJob, src, req)
  | .resumeStream src req => some (infoResumeStream, src, req)
  | .bindDrawer src req => some (infoBindDrawer, src, req)
  | .unbindDrawer src req => some (infoUnbindDrawer, src, req)
  | .prefetchDrawer src req => some (infoPrefetchDrawer, src, req)
  | .evictDrawer src req => some (infoEvictDrawer, src, req)
  | .drawerStatus src req => some (infoDrawerStatus, src, req)
  | .setDrawerCache src req => some (infoSetDrawerCache, src, req)
  | .setRemakeConsent src req => some (infoSetRemakeConsent, src, req)
  | .catalogDeliver src req _ => some (infoCatalogDeliver, src, req)
  | .startRun src req => some (infoStartRun, src, req)
  | .stopRun src req => some (infoStopRun, src, req)
  | .endRun src req => some (infoEndRun, src, req)
  | .publishRun src req => some (infoPublishRun, src, req)
  | .resumeRun src req => some (infoResumeRun, src, req)
  | .runStatus src req => some (infoRunStatus, src, req)
  | .setRunRate src req => some (infoSetRunRate, src, req)
  | .catalogStored src req => some (infoCatalogStored, src, req)
  | .setReduction src req => some (infoSetReduction, src, req)
  | .setThinning src req => some (infoSetThinning, src, req)
  | .reductionStatus src req => some (infoReductionStatus, src, req)
  | .memoryStatus src req => some (infoMemoryStatus, src, req)
  | .attest src req => some (infoAttest, src, req)
  | .addTenant src req => some (infoAddTenant, src, req)
  | .removeTenant src req => some (infoRemoveTenant, src, req)
  | .gloveClose src req => some (infoGloveClose, src, req)
  | .gloveOpen src req => some (infoGloveOpen, src, req)
  | .rotateGlove src req => some (infoRotateGlove, src, req)
  | .gloveStatus src req => some (infoGloveStatus, src, req)
  | .consentInstall src req _ => some (infoConsentInstall, src, req)
  | .consentRevoke src req => some (infoConsentRevoke, src, req)
  | .debugOpen src req => some (infoDebugOpen, src, req)
  | .debugClose src req => some (infoDebugClose, src, req)
  | .telemetryRead src req => some (infoTelemetryRead, src, req)
  | .resetCluster src req => some (infoResetCluster, src, req)
  | .resetDie src req => some (infoResetDie, src, req)
  | .resetCabinet src req => some (infoResetCabinet, src, req)
  | .setPolicy src req => some (infoSetPolicy, src, req)
  | .errorLogRead src req => some (infoErrorLogRead, src, req)
  | .reserveStatus src req => some (infoReserveStatus, src, req)
  | .claim src req => some (infoClaim, src, req)
  | .release src req => some (infoRelease, src, req)
  | .setEdgeAddr src req => some (infoSetEdgeAddr, src, req)
  | .setEdgeRings src req => some (infoSetEdgeRings, src, req)
  | .edgeStatus src req => some (infoEdgeStatus, src, req)
  | _ => none

/-! ## Memories -/

/-- Every memory of the module is in canonical form: HBM, the control memories, the row memories of the cluster stores, the
tensors. -/
def State.memsWf (s : State) : Bool :=
  s.mem.wf && (s.cts.all fun c => c.mem.wf) && (s.clusters.all fun c => c.rowMem.wf) && s.tensors.all fun t => t.data.wf

/-- The module has the parts that R15 gives it, and each control die its channels (R410). -/
def State.shape (s : State) : Bool :=
  s.cts.length == 2 && s.cabs.length == 16 && s.dies.length == 16 && s.hbm.length == 32 && s.edges.length == 4 &&
    s.cts.all fun c => c.pigeons.length == 32 && c.trays.length == 56

/-- Serving requests, streams and sessions are numbered without repetition, and the next request's number is new. -/
def State.idsUnique (s : State) : Prop :=
  (s.requests.map Request.id).Nodup ∧ (∀ q ∈ s.requests, q.id < s.nextRequest) ∧ (s.streams.map Stream.id).Nodup ∧
    (s.rot.sessions.map Session.n).Nodup

end Sys2Proof.Machine
end

