-- ==== Sys2Proof/Certificates/Slice0/Obligations.lean ====
section
/-!
DEFINITION. The statements about the model that the provers settle, by families of commands. `Answers i s P` says that exec
answers a next state that satisfies P; `quiet` compares states without their message traffic.
-/

open Sys2Proof Sys2Proof.Machine

/-! ## The queue and reset -/

/-- A step takes the command at the front of the queue and runs it on the state with the queue's rest. Where the spec leaves a
choice, this follows assumption 1, the model's own. -/
def Obligations.StepRunsFrontCommand : Prop :=
  ∀ (c : Instr) (rest : List Instr) (s : State), s.pending = c :: rest → step s = exec c { s with pending := rest }

/-- On an empty queue the module idles, and only its time moves, by 1 ns, once it has started: the model's own choice (assumption 2). -/
def EmptyQueueIdles : Prop :=
  ∀ s : State, s.pending = [] →
    step s = .next { s with now := if s.power.started then s.now + 1 else s.now }

/-- A step consumes one command and no command puts another into the queue. -/
def StepConsumesOneCommand : Prop :=
  ∀ (c : Instr) (rest : List Instr) (s t : State), s.pending = c :: rest → step s = .next t → t.pending = rest

/-- A step consumes one command; on an empty queue the module idles (the model's choice). -/
def Obligations.QueueIsConsumed : Prop := EmptyQueueIdles ∧ StepConsumesOneCommand

/-- Every memory of the module stays in its canonical form whatever command a step runs. Where the spec leaves a choice, this
follows assumption 8, the model's own. -/
def Obligations.StepKeepsMemoriesCanonical : Prop :=
  ∀ s t : State, s.memsWf = true → step s = .next t → t.memsWf = true

/-- Reset has the module's parts and every memory in canonical form, with no command waiting; the registers stand at the values
that the spec gives: every side STARTING, every pigeonhole and tray register 0 (R413, R416), events to tray 0 (R427), every
policy OFF (R449), admission and drawer cache at their defaults (R59, R260), stream 0 alone (R60). Where the spec leaves a
choice, this follows assumptions 5, 7, the model's own. -/
def Obligations.ResetIsWellFormed : Prop :=
  State.reset.memsWf = true ∧ State.reset.shape = true ∧ State.reset.pending = [] ∧
    (∀ c : Ct, State.reset.side c = 2 ∧
      (∀ p ∈ (State.reset.ct c).pigeons, (∀ w ∈ p.data, w = 0) ∧ p.status = 0 ∧ p.irqEn = false ∧ p.overrun = false ∧ p.done = false ∧
        p.go = false) ∧
      (∀ x ∈ (State.reset.ct c).trays, (∀ w ∈ x.out, w = 0) ∧ (∀ w ∈ x.inn, w = 0) ∧ x.outHead = 0 ∧ x.outTail = 0 ∧ x.inHead = 0 ∧
        x.inTail = 0 ∧ x.irqEn = false ∧ x.overrun = false)) ∧
    State.reset.cp.eventTray = 0 ∧ (∀ p ∈ State.reset.cp.policies, p.on = false) ∧
    (∀ c : Cab, (State.reset.cab c).cacheGib = 8 ∧ (State.reset.cab c).adm =
      { target := 288, wait := 250, prefill := 1024, bwd := 4000, quota := 256, isOpen := true }) ∧
    State.reset.streams.map Stream.id = [0] ∧ State.reset.pages = [] ∧ State.reset.hopsBroken = 0

/-- The module keeps its parts: 2 control dies with 32 pigeonholes and 56 trays each, 16 cabinets, 16 compute dies, 32
stacks, 4 edge dies. -/
def Obligations.StepKeepsParts : Prop :=
  ∀ s t : State, s.shape = true → step s = .next t → t.shape = true

/-- Reset has no request, no session and one stream; whatever a step runs, request, stream and session numbers stay unique. Where
the spec leaves a choice, this follows assumptions 6, 66, the model's own. -/
def Obligations.StepKeepsNumbersUnique : Prop :=
  State.reset.idsUnique ∧ ∀ s t : State, s.idsUnique → step s = .next t → t.idsUnique

/-! ## Mailboxes -/

/-- What one write to a pigeonhole's CTRL does, by the bits written and the state it meets (R414): it clears OVERRUN, sets
IRQ_EN as written, then DONE, WITHDRAW and GO act in this order; the message registers stay. -/
def CtrlEffect (p q : Pigeon) (v : Nat) : Prop :=
  let done := v.testBit 1 && p.done
  let idle := p.status = 0 ∨ (p.status = 3 ∧ done) ∨ (p.status = 1 ∧ v.testBit 4)
  q.data = p.data ∧ q.held = p.held ∧ q.irqEn = v.testBit 3 ∧ q.done = (p.done && !done) ∧
    (v.testBit 0 → idle → q.status = 1 ∧ q.go = true ∧ q.overrun = (p.overrun && !v.testBit 2)) ∧
    (v.testBit 0 → ¬idle → q.status = p.status ∧ q.go = p.go ∧ q.overrun = true) ∧
    (¬v.testBit 0 → q.overrun = (p.overrun && !v.testBit 2) ∧ (idle → q.status = 0) ∧ (¬idle → q.status = p.status) ∧
      q.go = (p.go && !(p.status == 1 && v.testBit 4)))

/-- The rows that write a pigeonhole's CTRL: GO posts a message where STATUS is IDLE, DONE gives the pigeonhole back, WITHDRAW
takes a posted message back, OVERRUN is cleared, IRQ_EN takes the bit written. Nothing else changes. -/
def PigeonholeControl : Prop :=
  ∀ (s : State) (ct : Ct) (n : Fin 32) (v : Half), s.ctLives ct = true →
    let row := fun (i : Instr) (w : Nat) => Answers i s fun t =>
      ∃ f : Pigeon → Pigeon, t = s.modPigeon ct n f ∧ ∀ p, CtrlEffect p (f p) w
    row (.pigeonholeGo ct n v) (v.toNat ||| 1) ∧ row (.pigeonholeDone ct n v) (v.toNat ||| 2) ∧
      row (.withdraw ct n v) (v.toNat ||| 16) ∧ row (.pigeonholeOverrunClear ct n v) (v.toNat ||| 4) ∧
      row (.pigeonholeIrqEn ct n v) v.toNat

/-- The rows that write a tray's registers (R416, R417): OUT_TAIL and IN_HEAD take an index that leaves at most 64 words
behind, or passes no word that is not there, and else set OVERRUN; CTRL clears OVERRUN and takes IRQ_EN. -/
def TrayRegisters : Prop :=
  ∀ (s : State) (ct : Ct) (n : Fin 56) (v : Word), s.ctLives ct = true →
    let row := fun (i : Instr) (P : Tray → Tray → Prop) => Answers i s fun t =>
      ∃ f : Tray → Tray, t = s.modTray ct n f ∧ ∀ x, P x (f x)
    row (.outTailWrite ct n v) (fun x y =>
        let d := (v.toNat % 128 + 128 - x.outHead.val) % 128
        (d ≤ 64 → y = { x with outTail := Fin.ofNat 128 v.toNat }) ∧ (64 < d → y = { x with overrun := true })) ∧
      row (.inHeadWrite ct n v) (fun x y =>
        let d := (v.toNat % 128 + 128 - x.inHead.val) % 128
        let have_ := (x.inTail.val + 128 - x.inHead.val) % 128
        (d ≤ have_ → y = { x with inHead := Fin.ofNat 128 v.toNat }) ∧ (have_ < d → y = { x with overrun := true })) ∧
      row (.trayOverrunClear ct n v) (fun x y => y = { x with overrun := false, irqEn := v.toNat.testBit 3 }) ∧
      row (.trayIrqEn ct n v) (fun x y =>
        y = { x with overrun := x.overrun && !v.toNat.testBit 2, irqEn := v.toNat.testBit 3 })

/-- What a write to a pigeonhole or tray register does. Where the spec leaves a choice, this follows assumption 13, the model's
own. -/
def Obligations.MailboxRegisters : Prop := PigeonholeControl ∧ TrayRegisters

/-- DOORBELL (R417 to R419): the side takes the message at OUT_HEAD whole, once all of its words lie below OUT_TAIL, and judges a
bad LENGTH by its header alone; a side that takes no message hears the doorbell later. Only that tray changes. -/
def DoorbellTakesMessages : Prop :=
  ∀ (s : State) (ct : Ct) (n : Fin 56) (v : Word), s.ctLives ct = true →
    Answers (.doorbell ct n v) s fun t => ∃ f : Tray → Tray, t = s.modTray ct n f ∧ ∀ x,
      let words := (x.outTail.val + 128 - x.outHead.val) % 128
      let len := bits (wordAt x.out (x.outHead.val % 64)) 15 0
      (s.listens ct = false → f x = { x with rung := true }) ∧
      (s.listens ct = true → words < 2 → f x = x) ∧
      (s.listens ct = true → 2 ≤ words → len % 8 = 0 → len ≤ 496 → words < 2 + len / 8 → f x = x) ∧
      (s.listens ct = true → 2 ≤ words → len % 8 = 0 → len ≤ 496 → 2 + len / 8 ≤ words →
        ∃ more, (f x).inbox = x.inbox ++ ringRead x.out x.outHead.val (2 + len / 8) :: more) ∧
      (s.listens ct = true → 2 ≤ words → (len % 8 ≠ 0 ∨ 496 < len) →
        f x = { x with inbox := x.inbox ++ [ringRead x.out x.outHead.val 2], outHead := x.outTail })

/-- REGISTER_WRITE into control memory (R10, R408): the bytes written, least significant first, and no other byte of either
control die's memory; a width other than 1, 2, 4 or 8 bytes raises an access fault and writes nothing. -/
def CoreWritesControlMemory : Prop :=
  ∀ (s : State) (core : Ct) (addr : BitVec 48) (size : Nat) (v : Word), s.shape = true → (s.ct core).reached8 = true →
    s.ctLives core = true →
    (size ∈ [1, 2, 4, 8] → addr.toNat + size ≤ 0x20_0000_0000 →
      Answers (.registerWrite core addr size v) s fun t =>
        (∀ x, Mem.get x (t.ct core).mem =
          if addr.toNat ≤ x ∧ x < addr.toNat + size then BitVec.ofNat 8 (v.toNat >>> (8 * (x - addr.toNat)))
          else Mem.get x (s.ct core).mem) ∧
        t.bus = { core := core, fault := false, data := [] } ∧
        ∃ m, t = { s.modCt core (fun c => { c with mem := m }) with bus := t.bus }) ∧
    (size ∉ [1, 2, 4, 8] →
      Answers (.registerWrite core addr size v) s fun t =>
        t = { s with bus := { core := core, fault := true, data := [] } })

/-- REGISTER_WRITE into the core's own pigeonholes (R408, R413): a 32-bit write to DATA k is stored while STATUS is IDLE and
else sets OVERRUN; a write to CTRL acts as R414 says; a width or alignment that the channel does not take raises an access
fault and leaves the channel unchanged. -/
def CoreWritesPigeonhole : Prop :=
  ∀ (s : State) (core : Ct) (n : Fin 32) (k : Fin 16) (v : Word), (s.ct core).reached8 = true → s.ctLives core = true →
    let base := 0xf0_0000_0000 + 256 * n.val
    (Answers (.registerWrite core (BitVec.ofNat 48 (base + 4 * k.val)) 4 v) s fun t =>
        ∃ f : Pigeon → Pigeon, t = { s.modPigeon core n f with bus := { core := core, fault := false, data := [] } } ∧ ∀ p,
          (p.status = 0 → f p = { p with data := updAt k.val (fun _ => v.setWidth 32) p.data }) ∧
          (p.status ≠ 0 → f p = { p with overrun := true })) ∧
    (Answers (.registerWrite core (BitVec.ofNat 48 (base + 0x40)) 4 v) s fun t =>
        ∃ f : Pigeon → Pigeon, t = { s.modPigeon core n f with bus := { core := core, fault := false, data := [] } } ∧
          ∀ p, CtrlEffect p (f p) (v.toNat % 2 ^ 32)) ∧
    (Answers (.registerWrite core (BitVec.ofNat 48 (base + 4 * k.val)) 2 v) s fun t =>
        t = { s with bus := { core := core, fault := true, data := [] } })

/-- What a write by a core does in control memory and in its channels. Where the spec leaves a choice, this follows assumptions
13, 74, the model's own. -/
def Obligations.CoreWrites : Prop := CoreWritesControlMemory ∧ CoreWritesPigeonhole

/-- HELD_RESPONSE_WRITE (R420): what a channel holds is written in order once room appears: a pigeonhole's next message when
it is given back, a tray's when its IN ring has room. -/
def HeldResponsesAreWritten : Prop :=
  (∀ (s : State) (ct : Ct) (n : Fin 32),
    Answers (.heldResponseWrite (.pigeon ct n)) s fun t => ∃ f : Pigeon → Pigeon, t = s.modPigeon ct n f ∧ ∀ p,
      (∀ m rest, p.held = m :: rest → p.done = false → p.status = 0 →
        f p = { p with held := rest, data := (halves m ++ List.replicate 16 0).take 16, status := 3, done := true, go := false }) ∧
      (p.held = [] ∨ p.done = true ∨ p.status ≠ 0 → f p = p)) ∧
  (∀ (s : State) (ct : Ct) (n : Fin 56),
    Answers (.heldResponseWrite (.tray ct n)) s fun t => ∃ f : Tray → Tray, t = s.modTray ct n f ∧ ∀ x,
      (∀ m, x.held = [m] → m.length ≤ x.room →
        f x = { x with held := [], inn := ringWrite x.inn x.inTail.val m, inTail := Fin.ofNat 128 (x.inTail.val + m.length) }) ∧
      (∀ m rest, x.held = m :: rest → x.room < m.length → f x = x))

/-! ## Requests, the journal and the take-over -/

/-- Every Ilnil command that its channel, its stream, its LENGTH or a reserved field refuses (R12, R411, R415, R421, R426): the
command completes with that code alone, and nothing but messages changes. -/
def RefusedCommandCompletesWithCode : Prop :=
  ∀ (i : Instr) (info : CmdInfo) (src : Src) (req : Req) (s : State) (code : Nat), ilnilOf i = some (info, src, req) →
    s.cpRuns = true → s.ctOf src = s.cp.active → s.takes src = true →
    s.cp.heldCmds.contains (replyOf info src req) = false → (s.takeFrom src (reqWords info.opcode req)).isSome = true →
    (s.resend (replyOf info src req)).isNone = true → (s.openReq? (chanKey src) req.mseq).isNone = true →
    (headerCode src req = some code ∨ (headerCode src req = none ∧ s.routeCode info src req = some code)) →
    Answers i s fun t => t.answered (replyOf info src req) 0 code [] = true ∧ t.quiet = s.quiet

/-- Which code refuses (R12, R411, R415, R418, R421, R426): an opcode that a secure channel does not accept, a command whose
response no pigeonhole can carry, a stream that is not in use, one bound to a tenant named on a mailbox, a payload that does not
match LENGTH, a reserved field that is not zero. -/
def RefusalCodes : Prop :=
  (∀ (s : State) (info : CmdInfo) (src : Src) (req : Req), secureSrc src = true → info.secure = false →
    s.routeCode info src req = some Code.wrongChannel) ∧
  (∀ (s : State) (info : CmdInfo) (ct : Ct) (n : Fin 32) (req : Req), n.val < 24 → info.hole = false →
    s.routeCode info (.pigeon ct n) req = some Code.channelUnsuited) ∧
  (∀ (s : State) (info : CmdInfo) (ct : Ct) (n : Fin 56) (req : Req), n.val < 48 → info.rule ≠ .session →
    s.stream? req.stream.val = none → s.routeCode info (.tray ct n) req = some Code.streamUnknown) ∧
  (∀ (s : State) (info : CmdInfo) (ct : Ct) (n : Fin 56) (req : Req) (x : Stream), n.val < 48 →
    s.stream? req.stream.val = some x → req.stream.val ≠ 0 → x.owner = 1 →
    s.routeCode info (.tray ct n) req = some Code.wrongChannel) ∧
  (∀ (src : Src) (req : Req), req.length.toNat % 8 ≠ 0 ∨ 496 < req.length.toNat → headerCode src req = some Code.badLength) ∧
  (∀ (src : Src) (req : Req), req.length.toNat = 8 * req.payload.length → frameOk src req.length.toNat = true →
    bitAt req.word1 15 = false → req.kind ≠ 0 ∨ req.word1 ≠ 0 → headerCode src req = some Code.reservedNonzero)

/-- A request with an opcode that no command table defines ends with UNKNOWN_OPCODE on a channel of the command processor and
with WRONG_CHANNEL on a secure one (R411, R426). -/
def UndefinedOpcodeEnds : Prop :=
  ∀ (s : State) (src : Src) (req : Req) (opcode : BitVec 16), definedOpcodes.contains opcode.toNat = false →
    let info : CmdInfo := ⟨opcode.toNat, 0, 496, .zeroOrOwn, true, false, false, [], none⟩
    s.cpRuns = true → s.ctOf src = s.cp.active → s.takes src = true →
    (s.takeFrom src (reqWords opcode.toNat req)).isSome = true → (headerCode src req).isNone = true →
    (s.resend (replyOf info src req)).isNone = true → (s.openReq? (chanKey src) req.mseq).isNone = true →
    Answers (.undefinedOpcode src req opcode) s fun t =>
      t.answered (replyOf info src req) 0 (if secureSrc src then Code.wrongChannel else Code.unknownOpcode) [] = true ∧
        t.quiet = s.quiet

/-- The standby answers every command but QUERY_CAPS, RESYNC and TAKE_OVER with NOT_ACTIVE (R431): the COMPLETION stands in the
pigeonhole, and no more than the mailboxes changes. -/
def StandbyAnswersNotActive : Prop :=
  ∀ (i : Instr) (info : CmdInfo) (ct : Ct) (n : Fin 32) (req : Req) (s : State), s.shape = true →
    ilnilOf i = some (info, .pigeon ct n, req) → info.opcode ∉ [1, 2, 4] →
    s.side ct = 1 → s.cp.takingOver = none → s.cp.heldCmds.contains (replyOf info (.pigeon ct n) req) = false →
    headerCode (.pigeon ct n) req = none → s.openReq? (chanKey (.pigeon ct n)) req.mseq = none →
    ((s.ct ct).pigeons.getD n.val Pigeon.reset).status = 0 → ((s.ct ct).pigeons.getD n.val Pigeon.reset).done = false →
    ((s.ct ct).pigeons.getD n.val Pigeon.reset).held = [] →
    Answers i s fun t => t.quiet = s.quiet ∧ t.cp = s.cp ∧
      let p := (t.ct ct).pigeons.getD n.val Pigeon.reset
      p.status = 3 ∧ p.done = true ∧
        p.data = (halves [header0 (info.opcode % 2 ^ 16) req.mseq.toNat req.stream.val Kind.completion 0, header1 0 Code.notActive false 0] ++
          List.replicate 16 0).take 16

/-- Refused commands complete with their code and change nothing. Where the spec leaves a choice, this follows assumptions 10, 14,
the model's own. -/
def Obligations.RefusalsComplete : Prop := RefusedCommandCompletesWithCode ∧ RefusalCodes ∧ UndefinedOpcodeEnds ∧ StandbyAnswersNotActive

/-- The journal and heartbeats (R430, R431): the standby acknowledges the oldest entry; on its acknowledgement the message is
written to its channel of the active control die; a heartbeat notes the time. Where the spec leaves a choice, this follows
assumption 11, the model's own. -/
def Obligations.JournalMovesInOrder : Prop :=
  (∀ (s : State) (o : OutMsg) (rest : List OutMsg), s.hasStandby = true → s.cp.jSent = o :: rest →
    Answers .journalEntry s fun t => t = s.modCp fun c => { c with jSent := rest, jAcked := c.jAcked ++ [o] }) ∧
  (∀ (s : State) (o : OutMsg) (rest : List OutMsg), s.hasStandby = true → s.cp.jAcked = o :: rest →
    (∀ x ∈ s.rot.sessions, x.draining = false) →
    Answers .journalAck s fun t =>
      t = (s.modCp fun c => { c with jAcked := rest }).deliver { o with dest := srcOn s.cp.active o.dest }) ∧
  (∀ (s : State) (ct : Ct), s.side ct ≤ 1 →
    Answers (.heartbeat ct) s fun t => t = s.modCp fun c => { c with lastBeat := updAt ct.val (fun _ => s.now) c.lastBeat })

/-- Where a message goes (R413, R414, R420, R430): without a standby it is written to its channel at once; a pigeonhole that is
free takes it into its data registers, zero beyond it, with DONE set; a tray takes it into its ring; else the channel holds it. -/
def MessagesReachTheirChannel : Prop :=
  ∀ (s : State) (ct : Ct) (ws : List Word), s.cpRuns = true → s.hasStandby = false → ct = s.cp.active →
    (∀ n : Fin 32, ∃ f : Pigeon → Pigeon, s.emit { dest := .pigeon ct n, words := ws } = s.modPigeon ct n f ∧ ∀ p,
      (p.done = false → p.held = [] → f p =
        { p with data := (halves ws ++ List.replicate 16 0).take 16, status := 3, done := true, go := false }) ∧
      (p.done = true ∨ p.held ≠ [] → f p = { p with held := p.held ++ [ws] })) ∧
    (∀ n : Fin 56, ∃ f : Tray → Tray, s.emit { dest := .tray ct n, words := ws } = s.modTray ct n f ∧ ∀ x,
      (x.held = [] → ws.length ≤ x.room → f x =
        { x with inn := ringWrite x.inn x.inTail.val ws, inTail := Fin.ofNat 128 (x.inTail.val + ws.length) }) ∧
      (x.held ≠ [] ∨ x.room < ws.length → f x = { x with held := x.held ++ [ws] }))

/-- How messages enter and leave pigeonholes and trays. Where the spec leaves a choice, this follows assumption 12, the model's
own. -/
def Obligations.ChannelsCarryMessages : Prop := DoorbellTakesMessages ∧ HeldResponsesAreWritten ∧ MessagesReachTheirChannel

/-- A control die that falls silent (R431, R449): its channels read DEAD, whichever of the two it is; where the active one is
lost and the FAILOVER policy is on, the other begins to take over and its channels read STARTING. -/
def LostHeartbeat : Prop :=
  ∀ (s : State) (silent : Ct), s.shape = true → s.side silent ≤ 3 → (s.ct silent).reached8 = true → s.side (otherCt silent) ≤ 1 →
    Answers (.heartbeatLost silent) s fun t =>
      t.side silent = 5 ∧ t.cp.active = s.cp.active ∧
        (silent = s.cp.active → (s.policy 9).on = true →
          t.cp.takingOver = some (otherCt silent) ∧ t.side (otherCt silent) = 2) ∧
        (silent ≠ s.cp.active ∨ (s.policy 9).on = false → t.side (otherCt silent) = s.side (otherCt silent))

/-- TAKE_OVER (R431): the standby that takes it reads STARTING and will answer it once it has taken over; the journal's outputs are
written first. On the active command processor it ends with NOT_STANDBY. -/
def TakeOverBegins : Prop :=
  (∀ (s : State) (src : Src) (req : Req), s.shape = true → s.admitsStandby infoTakeOver src req = true →
    Answers (.takeOver src req) s fun t =>
      t.side (s.ctOf src) = 2 ∧ t.cp.takingOver = some (s.ctOf src) ∧
        t.cp.takeOverReply = some (replyOf infoTakeOver src req) ∧ t.cp.active = s.cp.active ∧
        (s.cpRuns = true → t.cp.jSent = [] ∧ t.cp.jAcked = [])) ∧
  (∀ (s : State) (src : Src) (req : Req), s.admits infoTakeOver src req = true →
    Answers (.takeOver src req) s fun t =>
      t.answered (replyOf infoTakeOver src req) 0 Code.notStandby [] = true ∧ t.quiet = s.quiet)

/-- A take-over completes (R431, R433): the die that took over is the active command processor and reads ACTIVE, the former one, if
it still ran, reads STANDBY, FAILOVERS counts it, the rings of the edge dies are gone. -/
def TakeOverCompletes : Prop :=
  ∀ (s : State) (c : Ct), s.shape = true → s.cp.takingOver = some c → c = otherCt s.cp.active →
    Answers .takeOverComplete s fun t =>
      t.cp.active = c ∧ t.cp.takingOver = none ∧ t.side c = 0 ∧
        t.side s.cp.active = (if s.side s.cp.active = 0 then 1 else s.side s.cp.active) ∧
        t.cp.failovers = min (2 ^ 32 - 1) (s.cp.failovers + 1) ∧
        (∀ e ∈ t.edges, ∀ r ∈ e.rings, r.installed = false)

/-- A control die falls silent and the other takes over. Where the spec leaves a choice, this follows assumption 14, the model's
own. -/
def Obligations.ControlPlaneFailsOver : Prop := LostHeartbeat ∧ TakeOverBegins ∧ TakeOverCompletes

/-- SET_EVENT_TRAY (R427, R442): events go to a non-secure tray from then on; a number above 47 is refused. -/
def EventTrayIsSet : Prop :=
  ∀ (s : State) (src : Src) (req : Req), s.admits infoSetEventTray src req = true →
    (bits (wordAt req.payload 0) 63 58 ≤ 47 →
      Answers (.setEventTray src req) s fun t =>
        t.answered (replyOf infoSetEventTray src req) 0 Code.ok [] = true ∧
          t.quiet = (s.modCp fun c => { c with eventTray := Fin.ofNat 56 (bits (wordAt req.payload 0) 63 58) }).quiet) ∧
    (47 < bits (wordAt req.payload 0) 63 58 →
      Answers (.setEventTray src req) s fun t =>
        t.answered (replyOf infoSetEventTray src req) 0 Code.valueOutOfRange [] = true ∧ t.quiet = s.quiet)

/-! ## Records that commands read -/

/-- QUERY_CAPS, RESERVE_STATUS, EDGE_STATUS, MEMORY_STATUS, TELEMETRY_READ: each answers its record and changes nothing. -/
def RecordsAreAnswered : Prop :=
  ∀ (s : State) (src : Src) (req : Req),
    let w := wordAt req.payload 0
    let reads := fun (i : Instr) (info : CmdInfo) (words : List Word) =>
      s.admits info src req = true → Completes i s info src req Code.ok words s
    reads (.queryCaps src req) infoQueryCaps s.caps ∧ reads (.reserveStatus src req) infoReserveStatus s.reserveWords ∧
      reads (.edgeStatus src req) infoEdgeStatus (s.edgeWords (Fin.ofNat 4 (bits w 63 62))) ∧
      reads (.memoryStatus src req) infoMemoryStatus (s.memoryWords (Fin.ofNat 32 (bits w 63 59))) ∧
      reads (.telemetryRead src req) infoTelemetryRead (s.telemetryWords (cabOf w))

/-- The capability record (R74): eight words; word 0 names the part; words 1 and 2 hold one bit for each die, spare, edge die
and stack; with 128 active clusters FP8_TFLOPS reads 43,620 and with 120 it reads 40,894. -/
def CapabilityRecord : Prop :=
  ∀ s : State, s.caps.length = 8 ∧ wordAt s.caps 0 = 0x0100b00000093216 ∧
    (∀ d : Die, (wordAt s.caps 1).getLsbD (48 + d.val) = (s.die d).present ∧
      (wordAt s.caps 1).getLsbD (32 + d.val) = (s.die d).inService ∧
      (wordAt s.caps 1).getLsbD (16 + d.val) = (s.die d).spare?.isNone) ∧
    (∀ e : Edge, (wordAt s.caps 1).getLsbD (12 + e.val) = (s.edge e).inService) ∧
    (∀ h : Stack, (wordAt s.caps 2).getLsbD (32 + h.val) = (s.stk h).inService) ∧
    (s.activeClusters = 128 → bits (wordAt s.caps 6) 31 0 = 43620) ∧
    (s.activeClusters = 120 → bits (wordAt s.caps 6) 31 0 = 40894)

/-- DRAWER_STATUS, RUN_STATUS, REDUCTION_STATUS and GLOVE_STATUS (R259, R293, R330, R404): the record of the object named,
nothing changed; an object that is not there, or another tenant's, is refused. -/
def ObjectRecordsAreAnswered : Prop :=
  ∀ (s : State) (src : Src) (req : Req),
    let ws := req.payload
    let w := wordAt ws 0
    let run := s.run? (BitVec.ofNat 32 (bits w 63 32))
    (s.admits infoDrawerStatus src req = true →
      let r := replyOf infoDrawerStatus src req
      let ends := fun (code : Nat) (words : List Word) => Completes (.drawerStatus src req) s infoDrawerStatus src req code words s
      (s.slot? (cabOf (wordAt ws 1)) (slotField ws) = none → ends Code.slotNotBound []) ∧
      (∀ x, s.slot? (cabOf (wordAt ws 1)) (slotField ws) = some x →
        (s.foreign r x.owner? = true → ends Code.notOwner []) ∧
        (s.foreign r x.owner? = false → ends Code.ok (s.drawerWords x (s.tenantOf r).isSome)))) ∧
    (s.admits infoRunStatus src req = true →
      let r := replyOf infoRunStatus src req
      let ends := fun (code : Nat) (words : List Word) => Completes (.runStatus src req) s infoRunStatus src req code words s
      (run = none → ends Code.runNotFound []) ∧
      (∀ x, run = some x → (s.foreign r x.tenant = true → ends Code.notOwner []) ∧
        (s.foreign r x.tenant = false → ends Code.ok (runWordsOf x (s.tenantOf r).isSome)))) ∧
    (s.admits infoReductionStatus src req = true →
      let r := replyOf infoReductionStatus src req
      let ends := fun (code : Nat) (words : List Word) =>
        Completes (.reductionStatus src req) s infoReductionStatus src req code words s
      (run = none → ends Code.runNotFound []) ∧
      (∀ x, run = some x → s.foreign r x.tenant = false →
        let found := s.reductions.find? fun y => y.run == x.id && y.id.toNat == bits w 31 8
        (found = none → ends Code.reductionNotFound []) ∧
        (∀ y, found = some y → ends Code.ok (redWords y (s.tenantOf r).isSome)))) ∧
    (s.admits infoGloveStatus src req = true →
      let r := replyOf infoGloveStatus src req
      let ends := fun (code : Nat) (words : List Word) => Completes (.gloveStatus src req) s infoGloveStatus src req code words s
      (∀ code, s.namedGlove r (bits w 63 48) = .inl code → ends code []) ∧
      (∀ g, s.namedGlove r (bits w 63 48) = .inr g →
        ends Code.ok (s.gloveWords g (match src with | .session _ => true | _ => false))))

/-- What the operator does not see (R259, R264, R293, R330, R404): on stream 0 the records do not depend on a run's cursor, tokens,
loss and skipped steps, on a reduction's sums and token counts, on a tenant glove's token and row counts, nor on how often a
drawer is pinned once it is. -/
def OperatorSeesNoTenantCounts : Prop :=
  (∀ (x : Run) (cursor tokens dropped skipped : Nat) (loss : BitVec 32),
    runWordsOf { x with cursor := cursor, lastTokens := tokens, droppedTokens := dropped, loss := loss, skipped := skipped } false =
      runWordsOf x false) ∧
  (∀ (x : Reduction) (i j : Item) (r : BitVec 42), i.held = j.held → i.dropped = j.dropped →
    redWords { x with acc := some i, r := r } false = redWords { x with acc := some j } false ∧
      (∀ n, 2 ≤ n → n ≤ 7 → wordAt (redWords x false) n = 0)) ∧
  (∀ (s : State) (g : Glove) (tokensIn tokensOut rows : Nat), g.kind = 2 →
    s.gloveWords { g with tokensIn := tokensIn, tokensOut := tokensOut, rowsSeated := rows } false = s.gloveWords g false) ∧
  (∀ (s : State) (x : Slot), bits (wordAt (s.drawerWords x false) 3) 63 40 = 0)

/-- Records of drawers, runs, reductions and gloves, and what the operator does not see in them. Where the spec leaves a choice,
this follows assumption 27, the model's own. -/
def Obligations.ObjectRecords : Prop := ObjectRecordsAreAnswered ∧ OperatorSeesNoTenantCounts

/-- Records that go into a buffer of the active die's control memory, and ATTEST: RESYNC on stream 0 writes its summary where it fits
and answers its size (R434); ERROR_LOG_READ writes whole entries from the first that it names and notes what was read
(R462); ATTEST answers the report and its signature (R393). A buffer that R428 does not allow is refused. -/
def BufferedRecords : Prop :=
  ∀ (s : State) (src : Src) (req : Req),
    let ws := req.payload
    (s.admits infoResync src req = true → (∀ n, src ≠ .session n) →
      let u := s.entered infoResync src req
      let secs := u.sections none (replyOf infoResync src req)
      let all := u.summaryHead (s.ctOf src) secs 0 ++ secs.flatten.flatten
      let len := (wordAt ws 1).toNat
      (s.buffer? src (wordAt ws 0).toNat len = none →
        Completes (.resync src req) s infoResync src req Code.bufferInvalid [] s) ∧
      (∀ off, s.buffer? src (wordAt ws 0).toNat len = some off →
        (len < 8 * all.length →
          Completes (.resync src req) s infoResync src req Code.bufferTooSmall [word (8 * all.length)] s) ∧
        (8 * all.length ≤ len →
          Completes (.resync src req) s infoResync src req Code.ok [word (8 * all.length)]
            (s.writeCtl off (wordsToBytes all))))) ∧
    (s.admits infoErrorLogRead src req = true →
      let c : Ct := Fin.ofNat 2 (b2n (bitAt (wordAt ws 2) 63))
      let len := (wordAt ws 1).toNat
      let x := s.ct c
      let i := x.logStart (BitVec.ofNat 32 (bits (wordAt ws 2) 31 0))
      let part := (x.log.drop i).take (len / 64)
      let next := x.oldestSeq + BitVec.ofNat 32 (i + part.length)
      (s.buffer? src (wordAt ws 0).toNat len = none →
        Completes (.errorLogRead src req) s infoErrorLogRead src req Code.bufferInvalid [] s) ∧
      (∀ off, s.buffer? src (wordAt ws 0).toNat len = some off →
        Completes (.errorLogRead src req) s infoErrorLogRead src req Code.ok [word (put part.length 32 + x.oldestSeq.toNat)]
          ((s.writeCtl off (part.flatMap wordsToBytes)).modCt c fun y =>
            { y with logRead := if part ≠ [] ∧ (next - x.logRead).toNat < 2 ^ 31 then next else y.logRead }))) ∧
    (s.admits infoAttest src req = true → bitAt (wordAt ws 0) 58 = false →
      Completes (.attest src req) s infoAttest src req Code.ok
        (bytesToWords 16000 (s.reportBody s.cp.active (wide256 ((ws.drop 1).take 4))
          (if bitAt (wordAt ws 0) 59 then some (cabOf (wordAt ws 0)) else none) none ++
            leBytes 3309 (Config.signature s.freeCtr)))
        { s with freeCtr := s.freeCtr + 1 })

/-- What the commands that read records answer, and what they change. Where the spec leaves a choice, this follows assumptions 52,
53, the model's own. -/
def Obligations.RecordsAreRead : Prop := RecordsAreAnswered ∧ CapabilityRecord ∧ BufferedRecords

/-! ## Settings -/

/-- Settings of the operator (R59, R450, R488): SET_ADMISSION, SET_POLICY, SET_EDGE_ADDR and SET_EDGE_RINGS store the values of their
payload, each in its range, and nothing else changes; a value out of range changes nothing at all. -/
def OperatorSettings : Prop :=
  ∀ (s : State) (src : Src) (req : Req),
    let w := wordAt req.payload
    (s.admits infoSetAdmission src req = true →
      let a : Admission := { target := bits (w 0) 58 46, wait := bits (w 0) 45 32, prefill := bits (w 0) 31 19,
                             bwd := bits (w 1) 63 49, quota := bits (w 1) 48 33, isOpen := bitAt (w 0) 59 }
      let ok := 1 ≤ a.target ∧ a.target ≤ 4096 ∧ a.wait ≤ 10000 ∧ 128 ≤ a.prefill ∧ a.prefill ≤ 4096 ∧ a.prefill % 128 = 0 ∧
        500 ≤ a.bwd ∧ a.bwd ≤ 20000 ∧ 1 ≤ a.quota
      let ends := fun (code : Nat) (u : State) => Completes (.setAdmission src req) s infoSetAdmission src req code [] u
      (ok → ends Code.ok (s.modCab (cabOf (w 0)) fun x => { x with adm := a })) ∧ (¬ok → ends Code.valueOutOfRange s)) ∧
    (s.admits infoSetPolicy src req = true →
      let n := bits (w 0) 63 56
      let th := bits (w 0) 31 0
      let win := bits (w 1) 63 32
      let counts := n ∈ [1, 2, 6, 7]
      let timed := n ∈ [1, 2, 6]
      let ok := 1 ≤ n ∧ n ≤ 9 ∧ (counts → th ≠ 0) ∧ (timed → win ≠ 0)
      let p : Policy := { on := bitAt (w 0) 55, threshold := if counts then th else 0, window := if timed then win else 0 }
      let ends := fun (code : Nat) (u : State) => Completes (.setPolicy src req) s infoSetPolicy src req code [] u
      (ok → ends Code.ok (s.modCp fun c => { c with policies := updAt (n - 1) (fun _ => p) c.policies })) ∧
        (¬ok → ends Code.valueOutOfRange s)) ∧
    (s.admits infoSetEdgeAddr src req = true →
      let e : Edge := Fin.ofNat 4 (bits (w 0) 63 62)
      let i := bits (w 0) 61 60
      let a : BitVec 128 := BitVec.ofNat 128 (ofLe (wordsToBytes ((req.payload.drop 1).take 2)))
      let x : EAddr := { v6 := bitAt (w 0) 59, enable := bitAt (w 0) 58, vlan := BitVec.ofNat 12 (bits (w 0) 57 46),
                         frameMax := bits (w 0) 45 32, addr := a }
      let used := ∃ k : Edge, ∃ j : Nat, ∃ y : EAddr, (s.edge k).addrs[j]? = some y ∧ y.enable = true ∧ y.v6 = x.v6 ∧ y.addr = a ∧
        ¬(k = e ∧ j = i)
      let ends := fun (code : Nat) (u : State) => Completes (.setEdgeAddr src req) s infoSetEdgeAddr src req code [] u
      (x.v6 = false → 2 ^ 32 ≤ a.toNat → ends Code.reservedNonzero s) ∧
        (x.v6 = true ∨ a.toNat < 2 ^ 32 → x.frameMax < 1518 ∨ 9216 < x.frameMax → ends Code.valueOutOfRange s) ∧
        (x.v6 = true ∨ a.toNat < 2 ^ 32 → 1518 ≤ x.frameMax → x.frameMax ≤ 9216 →
          (x.enable = true ∧ used → ends Code.addressInUse s) ∧
          (¬(x.enable = true ∧ used) →
            ends Code.ok (s.modEdge e fun y => { y with addrs := updAt i (fun _ => x) y.addrs })))) ∧
    (s.admits infoSetEdgeRings src req = true →
      let e : Edge := Fin.ofNat 4 (bits (w 0) 63 62)
      let k := bits (w 0) 61 58
      let n := bits (w 0) 55 43
      let g := fun (off : Nat) =>
        ({ installed := true, base := off, count := n, irq := bitAt (w 0) 57, copyBad := bitAt (w 0) 56, nextDesc := 0 } : ERing)
      let ends := fun (code : Nat) (u : State) => Completes (.setEdgeRings src req) s infoSetEdgeRings src req code [] u
      (n ∉ [64, 128, 256, 512, 1024, 2048, 4096] → ends Code.valueOutOfRange s) ∧
        (n ∈ [64, 128, 256, 512, 1024, 2048, 4096] →
          (s.buffer? src (w 1).toNat (16 * n) = none → ends Code.bufferInvalid s) ∧
          (∀ off, s.buffer? src (w 1).toNat (16 * n) = some off →
            ends Code.ok ((s.stopRing ((s.edge e).rings.getD k ERing.reset)).modEdge e fun x =>
              { x with rings := updAt k (fun _ => g off) x.rings }))))

/-- SET_DRAWER_CACHE (R260): a size from 1 to 64 GiB that every die of the cabinet can hold becomes the cabinet's; where the pages held
fit already the command ends at once. Any other size is refused. -/
def DrawerCacheIsSet : Prop :=
  ∀ (s : State) (src : Src) (req : Req), s.shape = true → s.admits infoSetDrawerCache src req = true →
    let c := cabOf (wordAt req.payload 0)
    let n := bits (wordAt req.payload 0) 59 52
    let room := ∀ d ∈ diesOf (s.cab c).dies, 512 * n ≤ s.drawerPages c d + s.freeOnDie d
    (n < 1 ∨ 64 < n ∨ ¬room →
      Completes (.setDrawerCache src req) s infoSetDrawerCache src req Code.valueOutOfRange [] s) ∧
    (1 ≤ n → n ≤ 64 → room →
      Answers (.setDrawerCache src req) s (fun t => (t.cab c).cacheGib = n ∧ t.mem = s.mem ∧ t.streams = s.streams) ∧
      ((s.cab c).cacheReplies = [] → (∀ d ∈ diesOf (s.cab c).dies, s.drawerPages c d ≤ 512 * n) →
        Completes (.setDrawerCache src req) s infoSetDrawerCache src req Code.ok []
          (s.modCab c fun x => { x with cacheGib := n })))

/-- Settings of the operator. Where the spec leaves a choice, this follows assumption 67, the model's own. -/
def Obligations.OperatorSettingsAreStored : Prop := EventTrayIsSet ∧ OperatorSettings ∧ DrawerCacheIsSet

/-- The commands that name a run (R62, R291): a run that does not exist, another tenant's, or one in a state in which the command
is not accepted is refused, and nothing changes. -/
def RunCommandRefusals : Prop :=
  ∀ (s : State) (src : Src) (req : Req) (i : Instr) (info : CmdInfo) (states : List (Fin 8)),
    (i, info, states) ∈
      [(.stopRun src req, infoStopRun, [RunSt.running, RunSt.committing, RunSt.trapped]),
       (.endRun src req, infoEndRun, [RunSt.stopped, RunSt.done, RunSt.failed]),
       (.publishRun src req, infoPublishRun, [RunSt.running, RunSt.stopped, RunSt.done, RunSt.failed]),
       (.resumeRun src req, infoResumeRun, [RunSt.trapped, RunSt.stopped]),
       (.setRunRate src req, infoSetRunRate, [RunSt.running, RunSt.stopped]),
       (.setReduction src req, infoSetReduction, [RunSt.running, RunSt.stopped]),
       (.setThinning src req, infoSetThinning, [RunSt.running, RunSt.stopped])] →
    s.admits info src req = true →
    let run := s.run? (BitVec.ofNat 32 (bits (wordAt req.payload 0) 63 32))
    (run = none → Completes i s info src req Code.runNotFound [] s) ∧
    (∀ x, run = some x →
      (s.foreign (replyOf info src req) x.tenant = true → Completes i s info src req Code.notOwner [] s) ∧
      (s.foreign (replyOf info src req) x.tenant = false → x.state ∉ states → Completes i s info src req Code.runState [] s))

/-- Settings of a tenant (R255, R261, R291, R323, R326, R328, R329): SET_RUN_RATE, SET_REDUCTION and SET_THINNING give a running or stopped run
the value that takes effect at its next step; SET_REMAKE_CONSENT replaces the tenant's consent for the cabinet. Nothing else
changes but the pages that thinning takes. -/
def TenantSettings : Prop :=
  ∀ (s : State) (src : Src) (req : Req),
    let w := wordAt req.payload
    let ready := fun (info : CmdInfo) (x : Run) => s.admits info src req = true ∧
      s.run? (BitVec.ofNat 32 (bits (w 0) 63 32)) = some x ∧ s.foreign (replyOf info src req) x.tenant = false ∧
      (x.state = RunSt.running ∨ x.state = RunSt.stopped)
    (∀ x, ready infoSetRunRate x →
      let ends := fun (code : Nat) (u : State) => Completes (.setRunRate src req) s infoSetRunRate src req code [] u
      (f32NonNeg (bits (w 0) 31 0) = true →
        ends Code.ok (s.modRun x.id fun y => { y with lrNext := some (BitVec.ofNat 32 (bits (w 0) 31 0)) })) ∧
      (f32NonNeg (bits (w 0) 31 0) = false → ends Code.valueOutOfRange s)) ∧
    (∀ x, ready infoSetReduction x →
      let dl := bits (w 0) 31 0
      let tau := bits (w 1) 63 58
      let wire := bits (w 1) 57 55
      let head := bits (w 1) 54 52
      let bucket := bits (w 1) 51 28
      let ok := 100 ≤ dl ∧ dl ≤ 1000000 ∧ 8 ≤ tau ∧ tau ≤ 24 ∧ wire ≤ 4 ∧ (head ≤ 4 ∨ head = 7) ∧ 4096 ≤ bucket ∧ bucket ≤ 4194304 ∧
        bucket % 4096 = 0
      let ends := fun (code : Nat) (u : State) => Completes (.setReduction src req) s infoSetReduction src req code [] u
      let v : RedSettings := { deadline := dl, tauExp := tau, wire := Fin.ofNat 8 wire, headroom := head, bucket := bucket }
      (ok → ends Code.ok (s.modRun x.id fun y => { y with settingsNext := some v })) ∧
      (¬ok → ends Code.valueOutOfRange s)) ∧
    (∀ x, ready infoSetThinning x →
      let first := bits (w 1) 63 48
      let last := bits (w 1) 47 32
      let q := bits (w 1) 31 28
      let y := { x with thinNext := x.thinNext ++ [(first, last, if q = 0 then 0 else 2 ^ (q - 1))] }
      let space := s.allocAll? (s.morePages x y) PKind.run (((s.tenantGlove? x.tenant).map Glove.id).getD 0) x.cab x.id
      let ends := fun (code : Nat) (u : State) => Completes (.setThinning src req) s infoSetThinning src req code [] u
      (s.thinOk x first last q = false → ends Code.valueOutOfRange s) ∧
      (s.thinOk x first last q = true → (space = none → ends Code.runNoSpace s) ∧
        (∀ u, space = some u → ends Code.ok (u.modRun x.id fun _ => y)))) ∧
    (s.admits infoSetRemakeConsent src req = true →
      let r := replyOf infoSetRemakeConsent src req
      let t := (s.tenantOf r).getD 0
      let c := cabOf (w 1)
      let rest := s.consents.filter fun k => !(k.tenant == t && k.cab == c)
      let ends := fun (code : Nat) (u : State) => Completes (.setRemakeConsent src req) s infoSetRemakeConsent src req code [] u
      ((w 2).toNat ≤ s.now → ends Code.ok { s with consents := rest }) ∧
      (s.now < (w 2).toNat → bits (w 1) 31 0 = 0 → ends Code.valueOutOfRange s) ∧
      (s.now < (w 2).toNat → bits (w 1) 31 0 ≠ 0 → s.foreign r (s.ownerOf (w 0)) = true → ends Code.notOwner s) ∧
      (s.now < (w 2).toNat → bits (w 1) 31 0 ≠ 0 → s.foreign r (s.ownerOf (w 0)) = false →
        let k : RemakeConsent := { tenant := t, cab := c, dataset := w 0, maxSteps := bits (w 1) 31 0, expiry := (w 2).toNat }
        ends Code.ok { s with consents := rest ++ [k] }))

/-- Commands that name a run, and settings of a tenant. Where the spec leaves a choice, this follows assumption 33, the model's
own. -/
def Obligations.RunSettings : Prop := RunCommandRefusals ∧ TenantSettings

/-! ## Cabinets, shelves and programs -/

/-- CONFIGURE_CABINET (R37, R69, R70): an UNCONFIGURED cabinet or one without a shelf takes whole span groups of dies that no other
cabinet holds, or gives its dies back; every other request is refused and nothing changes. A die of no cabinet accepts no seating. -/
def Obligations.CabinetIsConfigured : Prop :=
  ∀ (s : State) (src : Src) (req : Req), s.admits infoConfigureCabinet src req = true →
    let w := wordAt req.payload 0
    let c := cabOf w
    let span := bits w 59 56
    let m : BitVec 16 := BitVec.ofNat 16 (bits w 55 40)
    let held := ∃ d k, hasDie m d.val = true ∧ s.cabOfDie d = some k ∧ k ≠ c
    let whole := ∀ d : Die, hasDie m d.val = true → ∀ i < span, hasDie m (d.val / span * span + i) = true
    let ends := fun (code : Nat) (u : State) => Completes (.configureCabinet src req) s infoConfigureCabinet src req code [] u
    (1 < (s.cab c).state.val → ends Code.cabinetBusy s) ∧
    ((s.cab c).state.val ≤ 1 →
      (m = 0 → ends Code.ok (s.modCab c fun x => { x with dies := 0, span := 0, state := 0 })) ∧
      (m ≠ 0 → span ∉ [1, 2, 4] → ends Code.spanInvalid s) ∧
      (m ≠ 0 → span ∈ [1, 2, 4] → (held → ends Code.dieInUse s) ∧ (¬held → ¬whole → ends Code.spanInvalid s) ∧
        (¬held → whole → ends Code.ok (s.modCab c fun x => { x with dies := m, span := span, state := 1 })))) ∧
    (∀ (d : Die) (trans : Bool), s.cabOfDie d = none → Answers (.passStart d trans) s fun t => t = s)

/-- MOUNT_SHELF (R38 to R41, R375): a cabinet without a shelf takes the image where it fits: the shelf glove is made at generation 1,
the layers are cut, the pages are allocated, and the command waits for the intake; so it does where no image is there. During an unmount it is held. What does not
fit is refused and leaves the cabinet without a shelf. -/
def ShelfMountBegins : Prop :=
  ∀ (s : State) (src : Src) (req : Req) (img : ShelfImage), s.shape = true → s.admits infoMountShelf src req = true →
    let w := wordAt req.payload
    let r := replyOf infoMountShelf src req
    let c := cabOf (w 0)
    let i := Instr.mountShelf src req (some img)
    let ends := fun (code : Nat) => Completes i s infoMountShelf src req code [] s
    let fits := (w 1).toNat % 4096 = 0 ∧ (w 1).toNat + (w 2).toNat ≤ namespace1
    ((s.cab c).state = 4 → Answers i s fun t => t.quiet = s.quiet ∧ t.cp.heldCmds = s.cp.heldCmds ++ [r]) ∧
    ((s.cab c).state ≠ 4 →
      ((s.cab c).dies = 0 → ends Code.valueOutOfRange) ∧
      ((s.cab c).dies ≠ 0 → (s.cab c).state ≠ 1 → ends Code.cabinetBusy) ∧
      ((s.cab c).dies ≠ 0 → (s.cab c).state = 1 → ¬fits → ends Code.valueOutOfRange) ∧
      ((s.cab c).dies ≠ 0 → (s.cab c).state = 1 → fits → (s.cab c).span * portionMax < (w 2).toNat → ends Code.shelfTooLarge) ∧
      ((s.cab c).dies ≠ 0 → (s.cab c).state = 1 → fits → (w 2).toNat ≤ (s.cab c).span * portionMax →
        let glove : Glove := { madeGlove (shelfGlove c) 1 c 0 0 s.freeCtr with standbyAcked := !s.hasStandby }
        let u : State := { s with freeCtr := s.freeCtr + 1,
                                  rot := { s.rot with gloves := (s.rot.gloves.filter fun x => x.id != shelfGlove c) ++ [glove] } }
        let cut := splitShelf (img.layers.map LayerInfo.bytes) (s.cab c).span
        let space := fun (l : List Nat) => u.allocAll? (u.shelfPages c img l) PKind.shelf (shelfGlove c) c 0
        (∀ l v, cut = some l → space l = some v → Answers i s fun t => t.acceptedReq r 0 = true ∧
          t.quiet = (v.modCab c fun x =>
            { x with state := 2, shelf := some { img with meas := digest512 img.bytes }, split := l, mountReply := some r,
                     mountAsked := wide512 ((req.payload.drop 3).take 8) }).quiet) ∧
        (Answers (.mountShelf src req none) s fun t => t.acceptedReq r 0 = true ∧
          t.quiet = (u.modCab c fun x =>
            { x with state := 2, shelf := none, split := [], mountReply := some r,
                     mountAsked := wide512 ((req.payload.drop 3).take 8) }).quiet) ∧
        (cut.bind space = none → Answers i s fun t =>
          (t.cab c).state = 1 ∧ (t.cab c).shelf = none ∧ t.streams = s.streams ∧ t.programs = s.programs ∧ t.mem = s.mem)))

/-- MOUNT_COMPLETE (R39, R40, R61, R103): an image with the measurement asked for becomes the cabinet's shelf: each die's pages hold its
portion, every active cluster of its dies wears the shelf glove in slot 0, a serving stream is created, MOUNT_SHELF ends with its id. Another image, or no stream
left, leaves the cabinet without a shelf. -/
def ShelfMountCompletes : Prop :=
  ∀ (s : State) (c : Cab), s.shape = true → (s.cab c).state = 2 →
    let x := s.cab c
    let right := x.shelf.map ShelfImage.meas = some x.mountAsked
    (∀ n, right → s.freeStream = some n → Answers (.mountComplete c) s fun t =>
      (t.cab c).state = 3 ∧ (t.cab c).serving = some (Fin.ofNat 4096 n) ∧ (t.cab c).shelf = x.shelf ∧
        t.streams = s.streams ++ [servingStream n c] ∧
        (∀ d ∈ diesOf x.dies, ∀ k ∈ (s.die d).map, ∃ g ∈ (t.cluster d k).slots, g.idx = 0 ∧ g.glove = shelfGlove c) ∧
        (∀ i, x.shelf = some i → t.pages = (s.writeShelf c i).pages ∧ t.mem = (s.writeShelf c i).mem) ∧ t.jobs = s.jobs ∧ t.dies = s.dies ∧
        (∀ r, x.mountReply = some r → s.awaits r = true → t.answered r 0 Code.ok [word (put n 52)] = true)) ∧
    (¬right ∨ s.freeStream = none → Answers (.mountComplete c) s fun t =>
      (t.cab c).state = 1 ∧ (t.cab c).shelf = none ∧ t.streams = s.streams ∧ t.mem = s.mem ∧ t.jobs = s.jobs)

/-- UNMOUNT_SHELF (R41): a cabinet without a shelf refuses; else the unmount begins. While admitted requests stay, the cabinet
stays in UNMOUNTING; with CUT, requests that have no row in a pass under way end. With no request, pass or run to wait for, the shelf,
its programs and the serving stream are gone at once. -/
def ShelfUnmounts : Prop :=
  ∀ (s : State) (src : Src) (req : Req), s.shape = true → s.admits infoUnmountShelf src req = true →
    let r := replyOf infoUnmountShelf src req
    let c := cabOf (wordAt req.payload 0)
    let i := Instr.unmountShelf src req
    ((s.cab c).state ≠ 3 → (s.cab c).state ≠ 4 → Completes i s infoUnmountShelf src req Code.noShelf [] s) ∧
    ((s.cab c).state = 3 ∨ (s.cab c).state = 4 → (∀ x ∈ s.runs, x.cab ≠ c) →
      (s.liveIn c = true → bitAt (wordAt req.payload 0) 59 = false → (s.cab c).unmount = none →
        Answers i s fun t => t.acceptedReq r 0 = true ∧
          t.quiet = (s.modCab c fun x => { x with state := 4, unmount := some (false, [r]) }).quiet) ∧
      (s.liveIn c = false → s.passesIn c = false → Answers i s fun t =>
        (t.cab c).state = 1 ∧ (t.cab c).shelf = none ∧ (t.cab c).serving = none ∧ (∀ p ∈ t.programs, p.cab ≠ c) ∧
          (∀ x ∈ t.residencies, x.cab ≠ c) ∧ (∀ x ∈ t.fetches, x.cab ≠ c) ∧ (∀ x ∈ t.xclaims, x.cab ≠ c) ∧
          (∀ k : Cab, k ≠ c → t.cab k = s.cab k) ∧ t.mem = s.mem) ∧
      (bitAt (wordAt req.payload 0) 59 = true → s.idsUnique → Answers i s fun t =>
        ∀ q ∈ t.requests, q.cab = c → q.live = true → s.passing c q.id = true))

/-- A shelf is mounted and unmounted. Where the spec leaves a choice, this follows assumptions 65, 93, 94, the model's own. -/
def Obligations.ShelvesAreMounted : Prop := ShelfMountBegins ∧ ShelfMountCompletes ∧ ShelfUnmounts

/-- LOAD_PROGRAM (R67, R70): on a cabinet with a shelf, one being unmounted included, a signed image made for that shelf, under an id that is
not loaded, is written into its pages on every die of the cabinet; every other one is refused and nothing changes. -/
def ProgramIsLoaded : Prop :=
  ∀ (s : State) (src : Src) (req : Req) (img : ProgramImage), s.admits infoLoadProgram src req = true →
    let w := wordAt req.payload
    let c := cabOf (w 0)
    let id : BitVec 32 := BitVec.ofNat 32 (bits (w 0) 31 0)
    let len := (w 2).toNat
    let taken := s.programs.any fun p => p.cab == c && p.image.programId == id
    let ends := fun (code : Nat) (u : State) =>
      Completes (.loadProgram src req (some img)) s infoLoadProgram src req code [] u
    let mounted := (s.cab c).state = 3 ∨ (s.cab c).state = 4
    (¬mounted → ends Code.noShelf s) ∧
    (mounted → (s.buffer? src (w 1).toNat len).isSome = true → taken = false →
      Completes (.loadProgram src req none) s infoLoadProgram src req Code.programInvalid [] s) ∧
    (mounted →
      (s.buffer? src (w 1).toNat len = none → ends Code.bufferInvalid s) ∧
      (∀ off, s.buffer? src (w 1).toNat len = some off →
        let bytes := (s.ct s.cp.active).mem.read off len
        (taken = true → ends Code.valueOutOfRange s) ∧
        (taken = false →
          (img.programId ≠ id ∨ img.sigOk = false → ends Code.programInvalid s) ∧
          (img.programId = id → img.sigOk = true →
            (some img.shelfMeas ≠ (s.cab c).shelf.map ShelfImage.meas → ends Code.shelfMismatch s) ∧
            (some img.shelfMeas = (s.cab c).shelf.map ShelfImage.meas →
              let space := s.allocAll? ((diesOf (s.cab c).dies).map fun d => (d, pagesFor len)) PKind.program (shelfGlove c) c id
              (space = none → ends Code.jobNoSpace s) ∧
              (∀ u, space = some u →
                let v := (diesOf (s.cab c).dies).foldl (fun (v : State) d =>
                  v.fillPages (v.turnPages d fun p => p.kind == PKind.program && p.cab == c && p.ownerRef == id) bytes) u
                ends Code.ok { v with programs := v.programs ++ [{ cab := c, image := img }] }))))))

/-! ## Streams and jobs -/

/-- CREATE_STREAM (R60, R61, R73): the lowest free id becomes a stream of the operator or of a tenant that has an entry, with no job
and no halt; DESTROY_STREAM (R65, R179): a stream whose jobs have not retired closes, one without jobs, or halted with none that
has started, is gone with its grants, tensors and timers. -/
def StreamsAreCreatedAndDestroyed : Prop :=
  (∀ (s : State) (src : Src) (req : Req), s.admits infoCreateStream src req = true →
    let w := wordAt req.payload 0
    let owner := bits w 59 58
    let t : BitVec 32 := BitVec.ofNat 32 (bits w 31 0)
    let ends := fun (code : Nat) (words : List Word) (u : State) =>
      Completes (.createStream src req) s infoCreateStream src req code words u
    (bits w 57 50 ≠ 1 ∨ bits w 49 42 ≠ 0 → ends Code.versionUnsupported [] s) ∧
    (bits w 57 50 = 1 → bits w 49 42 = 0 →
      (2 ≤ owner ∨ (owner = 0 ∧ t ≠ 0) → ends Code.valueOutOfRange [] s) ∧
      (owner = 1 → (∀ p ∈ s.rot.tenants, p.1 ≠ t) → ends Code.tenantUnknown [] s) ∧
      ((owner = 0 ∧ t = 0) ∨ (owner = 1 ∧ ∃ p ∈ s.rot.tenants, p.1 = t) →
        (s.freeStream = none → ends Code.streamLimit [] s) ∧
        (∀ n, s.freeStream = some n →
          let x : Stream := { id := Fin.ofNat 4096 n, cab := cabOf w, owner := Fin.ofNat 3 owner, tenant := t, minor := 0,
                              nextSeq := 0, halted := false, isClosing := false, closing := [] }
          1 ≤ n ∧ n ≤ 4095 ∧ s.stream? n = none ∧ ends Code.ok [word (n <<< 52)] { s with streams := s.streams ++ [x] })))) ∧
  (∀ (s : State) (src : Src) (req : Req), s.admits infoDestroyStream src req = true → (∀ k, src ≠ .session k) →
    let n := bits (wordAt req.payload 0) 63 52
    let r := replyOf infoDestroyStream src req
    let i := Instr.destroyStream src req
    let jobs := s.jobs.filter fun j => j.stream.val == n
    (s.stream? n = none → Completes i s infoDestroyStream src req Code.streamUnknown [] s) ∧
    (∀ x, s.stream? n = some x →
      (n = 0 ∨ x.owner = 2 → Completes i s infoDestroyStream src req Code.wrongStream [] s) ∧
      (n ≠ 0 → x.owner ≠ 2 →
        (jobs ≠ [] → x.halted = false → Answers i s fun t => t.acceptedReq r 0 = true ∧
          t.quiet = (s.modStream n fun y => { y with isClosing := true, closing := y.closing ++ [r] }).quiet) ∧
        (jobs = [] ∨ (x.halted = true ∧ ∀ j ∈ jobs, j.phase = 0) → Answers i s fun t =>
          t.ended r = true ∧ t.stream? n = none ∧ (∀ k, k ≠ n → t.stream? k = s.stream? k) ∧
            (∀ g ∈ t.grants, g.stream.val ≠ n) ∧ (∀ v ∈ t.tensors, v.stream.val ≠ n) ∧
            (∀ v ∈ t.cp.timers, v.stream.val ≠ n) ∧ (∀ j ∈ t.jobs, j.stream.val ≠ n) ∧ t.mem = s.mem))))

/-- Programs are loaded, streams created and destroyed. Where the spec leaves a choice, this follows assumptions 65, 66, the
model's own. -/
def Obligations.ProgramsAndStreams : Prop := ProgramIsLoaded ∧ StreamsAreCreatedAndDestroyed

/-- SUBMIT_JOB (R61, R63 to R65, R71): the refusals of the command's table; else the job waits under the stream's next sequence number,
ACCEPTED carries that number, its new tensors are there, zero, on each of its dies, and a resident drawer that can take a pin is pinned
on each of its span groups. -/
def JobsAreAccepted : Prop :=
  ∀ (s : State) (src : Src) (req : Req) (x : Stream), s.admits infoSubmitJob src req = true →
    s.stream? req.stream.val = some x →
    let ws := req.payload
    let r := replyOf infoSubmitJob src req
    let a := jobAsk ws
    let i := Instr.submitJob src req
    let ends := fun (code : Nat) => Completes i s infoSubmitJob src req code [] s
    (ws.length ≠ 4 + 2 * bits (wordAt ws 1) 27 22 → ends Code.badLength) ∧
    (ws.length = 4 + 2 * bits (wordAt ws 1) 27 22 →
      (jobRsvOk ws = false → ends Code.reservedNonzero) ∧
      (jobRsvOk ws = true →
        (x.owner = 2 → ends Code.notOwner) ∧
        (x.owner ≠ 2 → x.isClosing = true → ends Code.streamClosing) ∧
        (x.owner ≠ 2 → x.isClosing = false → 65536 ≤ (s.jobs.filter fun j => j.stream == x.id).length → ends Code.queueFull) ∧
        (∀ code, s.jobCode x a = some code → ends code) ∧
        (s.jobCode x a = none → (s.cab x.cab).state = 3 ∨ (s.cab x.cab).state = 4) ∧
        (s.jobCode x a = none →
          let slot := match s.jobSlot x a.handle with | .inr n => n | .inl _ => none
          let groups := s.jobGroups x.cab a.dies
          (∀ n, slot = some n → ∀ g ∈ groups, ∃ y, s.residency? x.cab n g = some y ∧ y.state = 1 ∧ y.full = false) →
          (∀ y ∈ s.jobs, ¬(y.stream = x.id ∧ y.seq = x.nextSeq)) →
          Answers i s fun t =>
            t.acceptedReq r x.nextSeq.toNat = true ∧ t.stream? x.id.val = some { x with nextSeq := x.nextSeq + 1 } ∧
              (∃ j : Job, t.jobs = s.jobs ++ [j] ∧ j.stream = x.id ∧ j.seq = x.nextSeq ∧ j.phase = 0 ∧ j.program = a.program ∧
                j.entry = a.entry ∧ j.count = a.count ∧ j.tiles = a.tiles ∧ j.dies = a.dies ∧ j.slot = slot ∧ j.reply = r ∧
                j.retired = 0) ∧
              (∀ b ∈ a.bindings, b.2.1 = 1 → ∀ d ∈ diesOf a.dies, ∃ v ∈ t.tensors, v.stream = x.id ∧ v.handle = b.1 ∧ v.die = d ∧
                v.bytes = b.2.2.2 ∧ v.data = []) ∧
              (∀ n, slot = some n → ∀ g ∈ groups, ∀ y, s.residency? x.cab n g = some y →
                t.residency? x.cab n g = some { y with pins := y.pins + 1 }) ∧
              t.mem = s.mem ∧ t.cabs = s.cabs ∧ t.dies = s.dies)))

/-- JOB_START (R63, R71, R85, R239): the oldest job of a stream that is not halted starts once its drawer is resident and pinned and every
engine that it uses can grant its tiles; it then owns them. While it must wait nothing changes. A job whose program is gone ends with
NO_SHELF, one whose drawer has been unbound with SLOT_NOT_BOUND. -/
def JobsStartInOrder : Prop :=
  ∀ (s : State) (j : Job) (x : Stream), s.job? j.stream j.seq = some j → s.stream? j.stream.val = some x →
    let i := Instr.jobStart j.stream j.seq
    let blocked := j.phase ≠ 0 ∨ x.halted = true ∨ s.firstOf j = false ∨ (∃ d ∈ diesOf j.dies, s.resetHolds d = true) ∨
      (∃ p ∈ s.jobEngines j, s.scopeHolds p.1 p.2.1 = true)
    (blocked → Answers i s fun t => t = s) ∧
    (¬blocked → (s.program? x.cab j.program).isSome = true → s.unboundFor x.cab j = false →
      (j.slot.isSome = true → ∀ g ∈ s.jobGroups x.cab j.dies, g ∈ j.pins) →
      (s.fetched x.cab j = false ∨ s.grantJob? j = none → Answers i s fun t => t = s) ∧
      (s.fetched x.cab j = true → ∀ u, s.grantJob? j = some u → Answers i s fun t =>
        t = u.modJob j.stream j.seq (fun y => { y with phase := 1 }) ∧
          (∀ p ∈ s.jobEngines j, j.tiles ≠ 0 → ∃ g ∈ t.grants, g.stream = j.stream ∧ g.die = p.1 ∧ g.cl = p.2.1 ∧ g.engine = p.2.2 ∧
            j.tiles ≤ g.tiles.length) ∧
          { t with jobs := s.jobs, grants := s.grants, tiles := s.tiles } = s)) ∧
    (∀ code, ¬blocked →
      (s.program? x.cab j.program = none ∧ code = Code.noShelf) ∨
        ((s.program? x.cab j.program).isSome = true ∧ s.unboundFor x.cab j = true ∧ code = Code.slotNotBound) → Answers i s fun t =>
      (∀ y ∈ t.jobs, ¬(y.stream = j.stream ∧ y.seq = j.seq)) ∧ (s.awaits j.reply = true → (∀ k, j.reply.src ≠ .session k) →
        t.answered j.reply j.seq.toNat code [] = true))

/-- RESUME_STREAM (R178): a halted stream goes on; with FLUSH none of its jobs that had not started stays. A stream that is not
halted is refused. -/
def StreamIsResumed : Prop :=
  ∀ (s : State) (src : Src) (req : Req) (x : Stream), s.admits infoResumeStream src req = true →
    s.stream? req.stream.val = some x →
    let r := replyOf infoResumeStream src req
    let i := Instr.resumeStream src req
    (x.halted = false → Completes i s infoResumeStream src req Code.streamNotHalted [] s) ∧
    (x.halted = true → bitAt (wordAt req.payload 0) 0 = false →
      Completes i s infoResumeStream src req Code.ok []
        ((s.modStream x.id.val fun y => { y with halted := false }).settleGrants x.id)) ∧
    (x.halted = true → bitAt (wordAt req.payload 0) 0 = true → s.idsUnique → Answers i s fun t => t.ended r = true ∧
      (∀ j ∈ t.jobs, j.stream = x.id → j.phase ≠ 0) ∧ (∀ y, t.stream? x.id.val = some y → y.halted = false) ∧ t.mem = s.mem)

/-- Jobs are accepted, start in order, and a halted stream is resumed. Where the spec leaves a choice, this follows assumptions
66, 77, 79, the model's own. -/
def Obligations.JobsRunInOrder : Prop := JobsAreAccepted ∧ JobsStartInOrder ∧ StreamIsResumed

/-! ## Drawers -/

/-- Fetches are numbered below the next fetch's number, which is far from its end. -/
def FetchIdsAreNew (s : State) : Prop := (∀ f ∈ s.fetches, f.id.toNat < s.nextFetch.toNat) ∧ s.nextFetch.toNat + 64 < 2 ^ 32

/-- BIND_DRAWER (R238, R239, R256, R257): a handle that is bound keeps its slot, unless a newer version is asked for, which takes a new
slot while the old one retires; one that is not bound takes the lowest free slot, its SLOT_GEN one higher; handle 0, another tenant's handle and a full table are refused. -/
def DrawerIsBound : Prop :=
  ∀ (s : State) (src : Src) (req : Req), s.admits infoBindDrawer src req = true →
    let ws := req.payload
    let r := replyOf infoBindDrawer src req
    let h := wordAt ws 0
    let c := cabOf (wordAt ws 1)
    let asked : BitVec 32 := BitVec.ofNat 32 (bits (wordAt ws 2) 63 32)
    let known := ((s.resolve c h).map CatObj.version).getD 0
    let owner := (s.ownerOf h).orElse fun _ => s.tenantOf r
    let v := if asked = 0 then known else asked
    let ends := fun (code : Nat) (words : List Word) (u : State) => Completes (.bindDrawer src req) s infoBindDrawer src req code words u
    let answer := fun (n : Nat) (g : BitVec 16) => [word (n <<< 48 + g.toNat <<< 32)]
    (h = 0 → ends Code.valueOutOfRange [] s) ∧
    (h ≠ 0 → s.foreign r (s.ownerOf h) = true → ends Code.notOwner [] s) ∧
    (h ≠ 0 → s.foreign r (s.ownerOf h) = false →
      (∀ x, s.slotOf c h = some x → s.slot? c x.slot = some x →
        ((asked ≠ 0 ∧ asked = x.version) ∨ (asked = 0 ∧ known ≤ x.version) → ends Code.ok (answer x.slot x.gen) s) ∧
        (asked ≠ 0 → asked < x.version → ends Code.valueOutOfRange [] s) ∧
        (∀ n, x.version < v → firstFree (fun n => (s.slot? c n).isSome) 16384 0 = some n →
          Answers (.bindDrawer src req) s fun t => t.ended r = true ∧
            (∃ y, t.slot? c n = some y ∧ y.handle = h ∧ y.version = v ∧ y.state = SState.bound) ∧
              ∀ z, t.slot? c x.slot = some z → z.state = SState.retiring)) ∧
      (s.slotOf c h = none → s.takeSlot c = none → ends Code.tableFull [] s) ∧
      (∀ n, s.slotOf c h = none → firstFree (fun n => (s.slot? c n).isSome) 16384 0 = some n →
        let x : Slot := { cab := c, slot := n, gen := s.slotGen c n + 1, state := SState.bound, handle := h,
                          version := v, tenant := owner.getD 0, known := owner.isSome, rank := 0, experts := 0,
                          sharePages := 0, lastCode := 0, lastUse := s.useClock + 1, run := none, unbind := false,
                          evictReplies := [], lastDies := 0, image := none }
        s.slot? c n = none ∧ ends Code.ok (answer n x.gen)
          { s with slots := s.slots ++ [x], slotGens := assocPut (c.val, n) (s.slotGen c n + 1) s.slotGens }))

/-- UNBIND_DRAWER, EVICT_DRAWER, PREFETCH_DRAWER (R244, R248, R257, R258): a slot without pins is free, or its residencies gone, at once;
one with a pinned residency waits in EVICT_PENDING; a prefetch starts one fetch for each span group named on which the drawer
is not resident, and completes at once where there is none. A slot that is FREE or another tenant's is refused. The clauses on what a
release leaves are about states in which no fetch is queued: one that is queued may take the place of a fetch that the release ends. -/
def DrawerIsReleasedAndPrefetched : Prop :=
  ∀ (s : State) (src : Src) (req : Req),
    let ws := req.payload
    let slot := s.slot? (cabOf (wordAt ws 1)) (slotField ws)
    (∀ (i : Instr) (info : CmdInfo), (i, info) ∈ [(.unbindDrawer src req, infoUnbindDrawer), (.evictDrawer src req, infoEvictDrawer),
        (.prefetchDrawer src req, infoPrefetchDrawer)] → s.admits info src req = true →
      (slot = none → Completes i s info src req Code.slotNotBound [] s) ∧
      (∀ x, slot = some x → s.foreign (replyOf info src req) x.owner? = true → Completes i s info src req Code.notOwner [] s)) ∧
    (∀ x, slot = some x →
      let still := ∀ f ∈ s.fetches, f.step ≠ FStep.queued
      (s.admits infoUnbindDrawer src req = true → s.foreign (replyOf infoUnbindDrawer src req) x.owner? = false →
        let r := replyOf infoUnbindDrawer src req
        let i := Instr.unbindDrawer src req
        (x.state = SState.remaking ∨ x.run.isSome = true → Completes i s infoUnbindDrawer src req Code.slotNotBound [] s) ∧
        (x.state = SState.bound → x.run = none → (∀ y ∈ s.residenciesOf x.cab x.slot, y.pins = 0) → s.idsUnique → still →
          Answers i s fun t => t.ended r = true ∧ t.slot? x.cab x.slot = none ∧ t.residenciesOf x.cab x.slot = [] ∧ t.mem = s.mem) ∧
        (x.state = SState.bound → x.run = none → (∃ y ∈ s.residenciesOf x.cab x.slot, y.pins ≠ 0) →
          (s.residenciesOf x.cab x.slot).Pairwise (fun y z => y.group ≠ z.group) → still → Answers i s fun t =>
          ∃ y, t.slot? x.cab x.slot = some y ∧ y.state = SState.evictPending ∧ y.unbind = true ∧ (r, 0, true) ∈ y.evictReplies)) ∧
      (s.admits infoEvictDrawer src req = true → s.foreign (replyOf infoEvictDrawer src req) x.owner? = false →
        let r := replyOf infoEvictDrawer src req
        let i := Instr.evictDrawer src req
        (s.outside x.cab (diesField ws) = true → Completes i s infoEvictDrawer src req Code.valueOutOfRange [] s) ∧
        (s.outside x.cab (diesField ws) = false → x.run.isSome = true →
          Completes i s infoEvictDrawer src req Code.slotNotBound [] s) ∧
        (s.outside x.cab (diesField ws) = false → x.run = none → bitAt (wordAt ws 1) 27 = false →
          (∀ y ∈ s.residenciesOf x.cab x.slot, y.pins = 0 ∧ y.state ≠ 2) → s.idsUnique → still → Answers i s fun t =>
          t.ended r = true ∧ t.mem = s.mem ∧
            ∀ y ∈ t.residenciesOf x.cab x.slot, ∀ d ∈ s.groupOfCab x.cab y.group, hasDie (diesField ws) d.val = false) ∧
        (s.outside x.cab (diesField ws) = false → x.run = none → x.state = SState.bound → bitAt (wordAt ws 1) 27 = true →
          (∀ y ∈ s.residenciesOf x.cab x.slot, y.pins = 0) → s.idsUnique → still → Answers i s fun t =>
          t.ended r = true ∧ t.slot? x.cab x.slot = none)) ∧
      (s.admits infoPrefetchDrawer src req = true → s.foreign (replyOf infoPrefetchDrawer src req) x.owner? = false →
        let r := replyOf infoPrefetchDrawer src req
        let i := Instr.prefetchDrawer src req
        let wanted := fun (g : Die) => g ∈ (s.cab x.cab).groups ∧ (∃ d ∈ s.groupOfCab x.cab g, hasDie (diesField ws) d.val = true) ∧
          ∀ y, s.residency? x.cab x.slot g = some y → y.state = 0
        (s.outside x.cab (diesField ws) = true → Completes i s infoPrefetchDrawer src req Code.valueOutOfRange [] s) ∧
        (∀ code, s.outside x.cab (diesField ws) = false → prefetchCode x = some code →
          Completes i s infoPrefetchDrawer src req code [] s) ∧
        (s.outside x.cab (diesField ws) = false → prefetchCode x = none → (∀ g, ¬wanted g) →
          Completes i s infoPrefetchDrawer src req Code.ok [] s) ∧
        (s.outside x.cab (diesField ws) = false → prefetchCode x = none → (∀ o ∈ s.catalog, o.handle ≠ x.handle) →
          (∀ f ∈ s.fetches, ¬(f.cab = x.cab ∧ f.slot = x.slot)) → FetchIdsAreNew s → ∀ g, wanted g → Answers i s fun t =>
          t.acceptedReq r 0 = true ∧ ∃ f ∈ t.fetches, f.cab = x.cab ∧ f.slot = x.slot ∧ f.group = g ∧ f.handle = x.handle ∧
            r ∈ f.replies)))

/-- The course of a fetch (R234 to R236, R245, R246, R250) where no other fetch waits for its turn: CATALOG_DELIVER answers and puts the
object into the catalog cache, and a run's fetch goes on to the intakes; a delivery that failed ends the fetch; FETCH_RESUME
leaves a fetch that does not wait for pages alone and gives one that does the pages it needs; FETCH_COMPLETE makes the drawer
resident with its tables, its serving share written into its pages, its extra experts claimed, and counts it. -/
def FetchesGoOn : Prop :=
  ∀ (s : State) (f : Fetch), s.shape = true → s.fetch? f.id = some f → (∀ x ∈ s.fetches, x.step ≠ FStep.queued) →
    (∀ (src : Src) (req : Req) (obj : Option CatObj), s.admits infoCatalogDeliver src req = true →
      (∀ k, src ≠ .session k) →
      let w := wordAt req.payload 0
      let res := bits w 63 56
      let r := replyOf infoCatalogDeliver src req
      let i := Instr.catalogDeliver src req obj
      bits w 31 0 = f.id.toNat →
      (f.step ≠ FStep.catalog ∨ 2 < res ∨ (res ≠ 0 ∧ wordAt req.payload 1 ≠ 0) →
        Completes i s infoCatalogDeliver src req Code.valueOutOfRange [] s) ∧
      (f.step = FStep.catalog → res = 1 ∨ res = 2 → wordAt req.payload 1 = 0 → Answers i s fun t =>
        t.answered r 0 Code.ok [] = true ∧ (∀ x ∈ t.fetches, x.id ≠ f.id) ∧ t.mem = s.mem ∧
          (∀ x, f.dataset = false → f.run = none → s.slot? f.cab f.slot = some x → x.state = SState.bound →
            ∀ y, t.slot? f.cab f.slot = some y → y.state = SState.failed ∧
              y.lastCode = if res = 1 then Code.drawerNotFound else Code.fetchFailed)) ∧
      (f.step = FStep.catalog → res = 0 → f.dataset = true ∨ f.run.isSome = true →
        let o := stagedObj f (wordAt req.payload 1).toNat obj
        o.bytes ≤ maxImage → (∀ y ∈ s.catalog, y.handle ≠ f.handle) → Answers i s fun t =>
          t.answered r 0 Code.ok [] = true ∧ t.fetch? f.id = some { f with step := FStep.pieces, version := o.version } ∧
            t.catalog = trimCatalog (s.catalog ++ [o]) ∧ t.mem = s.mem ∧ t.pages = s.pages)) ∧
    (f.step ≠ FStep.pages → Answers (.fetchResume f.id) s fun t => t = s) ∧
    (∀ o img glove u, f.step = FStep.pages → f.dataset = false → f.run = none → s.objOf f = some o → o.bytes ≤ maxImage →
      o.image = some img → ((s.tenantGlove? o.tenant).map Glove.id).getD 0 = glove → (s.cab f.cab).cacheReplies = [] →
      (∀ x ∈ s.fetches, x.step = FStep.pages → x.id ≠ f.id → ¬(x.cab = f.cab ∧ x.group = f.group)) →
      let v := s.modSlot f.cab f.slot fun x =>
        if x.run.isSome then x else { x with version := o.version, tenant := x.owner?.getD o.tenant, known := true }
      v.reserve? f.cab f.slot f.group img glove = some u → u.fetches = s.fetches →
      Answers (.fetchResume f.id) s fun t => t = u.modFetch f.id fun x => { x with step := FStep.pieces, version := o.version }) ∧
    (f.step ≠ FStep.pieces → Answers (.fetchComplete f.id) s fun t => t = s) ∧
    (∀ o img, f.step = FStep.pieces → f.dataset = false → f.run = none → s.objOf f = some o → o.image = some img →
      s.intakeCode f o false = none → ∀ x y, s.slot? f.cab f.slot = some x → s.residency? f.cab f.slot f.group = some y →
      y.state = 0 →
      let share := ((s.groupOfCab f.cab f.group).map fun d => s.sharePagesOn f.cab img d).foldl max 0
      Answers (.fetchComplete f.id) s fun t =>
        t.slot? f.cab f.slot = some { x with image := some img, rank := rankOf img, experts := img.expertTable.length,
                                             sharePages := max x.sharePages share } ∧
          t.residency? f.cab f.slot f.group = some { y with state := 1, pages := share, image := some img } ∧
          (∀ x ∈ t.fetches, x.id ≠ f.id) ∧
          (∀ e ∈ expertsOf img, ⟨f.cab, e.1, e.2.1, f.slot⟩ ∈ t.xclaims) ∧
          (t.cab f.cab).counters.fetches = (s.cab f.cab).counters.fetches + 1 ∧
          t.pages = (s.writeShare f.cab f.slot f.group img).pages ∧ t.mem = (s.writeShare f.cab f.slot f.group img).mem)

/-- Drawers are bound, fetched and released. Where the spec leaves a choice, this follows assumptions 26, 27, 28, 90, the model's
own. -/
def Obligations.DrawersAreBoundAndFetched : Prop := DrawerIsBound ∧ DrawerIsReleasedAndPrefetched ∧ FetchesGoOn

/-! ## Adaptation runs -/

/-- START_RUN (R62, R263 to R267, R269, R292): the refusals of the table in their order; else the run stands in STARTING under the next
run id with the words of its command, a slot of its cabinet is its own, and its dataset is being fetched. -/
def RunStarts : Prop :=
  ∀ (s : State) (src : Src) (req : Req), s.admits infoStartRun src req = true →
    let ws := req.payload
    let w := wordAt ws
    let r := replyOf infoStartRun src req
    let i := Instr.startRun src req
    let t := (s.tenantOf r).getD 0
    let c := cabOf (w 4)
    let ends := fun (code : Nat) => Completes i s infoStartRun src req code [] s
    let others := s.othersHandle t (w 0) = true ∨ s.othersHandle t (w 2) = true ∨ s.othersHandle t (w 3) = true
    let groups := s.wholeGroups c (BitVec.ofNat 16 (bits (w 4) 59 44))
    let program := s.programs.any fun p => p.cab == c && p.image.programId.toNat == bits (w 5) 63 32
    (others → ends Code.notOwner) ∧
    (¬others → (s.cab c).state ≠ 3 → ends Code.noShelf) ∧
    (¬others → (s.cab c).state = 3 → groups = false → ends Code.spanInvalid) ∧
    (¬others → (s.cab c).state = 3 → groups = true → program = false → ends Code.descriptorInvalid) ∧
    (¬others → (s.cab c).state = 3 → groups = true → program = true → runWordsOk ws = false → ends Code.valueOutOfRange) ∧
    (¬others → (s.cab c).state = 3 → groups = true → program = true → runWordsOk ws = true → 1024 ≤ s.openRuns →
      ends Code.runLimit) ∧
    (∀ code, s.runCode t ws = some code → ends code) ∧
    (s.runCode t ws = none → (∃ u, s.createRun t req.stream ws none (some r) = .inr u) →
      (∀ o ∈ s.catalog, o.handle = w 0 ∨ o.handle = w 3 → o.bytes ≤ maxImage) →
      firstFree (fun n => (s.slot? c n).isSome) 16384 0 ≠ none → (∀ f ∈ s.fetches, (s.slot? f.cab f.slot).isSome = true) →
      FetchIdsAreNew s →
      Answers i s fun v =>
        v.acceptedReq r 0 = true ∧ v.nextRun = s.nextRun + 1 ∧
        (∃ x, v.runs = s.runs ++ [x] ∧ x.id = s.nextRun ∧ x.state = RunSt.starting ∧ x.tenant = t ∧ x.stream = req.stream ∧ x.cab = c ∧
          x.source = w 0 ∧ x.outHandle = w 2 ∧ x.dataset = w 3 ∧ x.epoch = 0 ∧ x.cursor = 0 ∧ x.inStep = false ∧
          x.seqsPerStep = bits (w 4) 31 16 ∧ x.maxSteps = bits (w 5) 31 0 ∧ x.reply = some r ∧
          (∃ y, v.slot? c x.slot = some y ∧ y.run = some x.id ∧ y.state = SState.bound) ∧
          (∃ f ∈ v.fetches, f.run = some x.id ∧ f.dataset = true ∧ f.handle = w 3)) ∧ v.mem = s.mem)

/-- The commands on a run (R266, R285, R290, R291): STOP_RUN stops a run between steps at once, one in a step when it has committed, and with ABORT
discards the step; END_RUN releases the run with its pages, channel and reductions; PUBLISH_RUN stores the next version;
RESUME_RUN starts the step at the cursor, or ends the run where the dataset is at its end. -/
def RunsAreCommanded : Prop :=
  ∀ (s : State) (src : Src) (req : Req) (x : Run), s.run? (BitVec.ofNat 32 (bits (wordAt req.payload 0) 63 32)) = some x →
    let flag := bitAt (wordAt req.payload 0) 0
    let mine := fun (info : CmdInfo) => s.admits info src req = true ∧ s.foreign (replyOf info src req) x.tenant = false
    (mine infoStopRun → x.state ∈ [RunSt.running, RunSt.committing, RunSt.trapped] →
      let r := replyOf infoStopRun src req
      let i := Instr.stopRun src req
      (x.inStep = false → Answers i s fun t => t.answered r 0 Code.ok [] = true ∧
        t.quiet = (s.modRun x.id fun y => { y with state := RunSt.stopped, stopReply := none, stopping := false }).quiet) ∧
      (x.inStep = true → flag = false ∨ x.uncommitted = false → Answers i s fun t => t.acceptedReq r 0 = true ∧
        t.quiet = (s.modRun x.id fun y =>
          { y with stopReply := some r, stopping := true,
                   state := if y.state = RunSt.running then RunSt.stopping else y.state }).quiet) ∧
      (x.inStep = true → flag = true → x.uncommitted = true → s.idsUnique → Answers i s fun t => t.ended r = true ∧
        (∃ y, t.run? x.id = some y ∧ y.state = RunSt.stopped ∧ y.inStep = false ∧ y.cursor = x.stepStart ∧ y.epoch = x.epoch ∧
          y.current = x.current ∧ y.lastCode = Code.stepDiscarded) ∧
        (∀ z ∈ t.reductions, z.run = x.id → z.era ≠ 0) ∧ t.mem = s.mem ∧
        (∀ y, s.slot? x.cab x.slot = some y → y.state = SState.bound → y.unbind = false →
          ∃ n ∈ t.notes, n.tenant = y.tenant ∧ n.handle = y.handle ∧ n.code = Code.stepDiscarded))) ∧
    (mine infoEndRun → x.state ∈ [RunSt.stopped, RunSt.done, RunSt.failed] → s.idsUnique →
      Answers (.endRun src req) s fun t => t.ended (replyOf infoEndRun src req) = true ∧ (∀ y ∈ t.runs, y.id ≠ x.id) ∧
        (∀ p ∈ t.pages, p.kind = PKind.run ∨ p.kind = PKind.saved → p.ownerRef ≠ x.id) ∧ (∀ v ∈ t.cp.vcs, v ≠ some x.id) ∧
        (∀ z ∈ t.reductions, z.run ≠ x.id) ∧ (∀ f ∈ t.fetches, f.run ≠ some x.id) ∧ t.mem = s.mem) ∧
    (mine infoPublishRun → x.state ∈ [RunSt.running, RunSt.stopped, RunSt.done, RunSt.failed] →
      let r := replyOf infoPublishRun src req
      let i := Instr.publishRun src req
      let img := (s.slot? x.cab x.slot).bind Slot.image
      let v : BitVec 32 := BitVec.ofNat 32 (s.knownVersion x.outHandle + 1)
      let st : Store := { id := s.nextStore, handle := x.outHandle, version := v, cab := x.cab, run := x.id, tenant := x.tenant,
                          reply := some r }
      (x.lastCode = Code.runStateLost → Completes i s infoPublishRun src req Code.runStateLost [] s) ∧
      (x.lastCode ≠ Code.runStateLost → img = none → Completes i s infoPublishRun src req Code.runState [] s) ∧
      (x.lastCode ≠ Code.runStateLost → img.isSome = true → Answers i s fun t => t.acceptedReq r 0 = true ∧
        t.stores = s.stores ++ [st] ∧ t.nextStore = s.nextStore + 1 ∧ t.versions = assocPut x.outHandle v s.versions ∧
        t.runs = s.runs ∧ t.slots = s.slots ∧ t.mem = s.mem)) ∧
    (mine infoResumeRun → x.state ∈ [RunSt.trapped, RunSt.stopped] →
      let i := Instr.resumeRun src req
      let full := x.state = RunSt.stopped ∧ 1024 ≤ s.openRuns
      (x.unmounted = true → Completes i s infoResumeRun src req Code.runState [] s) ∧
      (x.unmounted = false → full → Completes i s infoResumeRun src req Code.runLimit [] s) ∧
      (x.unmounted = false → ¬full → x.inStep = false → flag = false → s.idsUnique →
        (x.seqs.length ≤ x.cursor → x.remakeOf = none → Answers i s fun t =>
          t.answered (replyOf infoResumeRun src req) 0 Code.ok [] = true ∧
            ∃ y, t.run? x.id = some y ∧ y.state = RunSt.done ∧ y.cursor = x.cursor ∧ y.consecutive = 0) ∧
        (∀ q, x.seqs[x.cursor]? = some q → s.skipSeq x q = false → q.2 ≠ 0 → x.seqsPerStep ≠ 0 → Answers i s fun t =>
          t.answered (replyOf infoResumeRun src req) 0 Code.ok [] = true ∧
            ∃ y, t.run? x.id = some y ∧ y.state = RunSt.running ∧ y.inStep = true ∧ y.stepStart = x.cursor ∧
              x.cursor < y.cursor ∧ y.epoch = x.epoch ∧ y.lr = x.lrNext.getD x.lr ∧ y.settings = x.settingsNext.getD x.settings)))

/-- CATALOG_STORED (R256, R290) and REMAKE_START (R255, R268): a version that was stored is bound in the run's cabinet, one that was not
leaves the catalog cache; the first stale slot of a cabinet's remake queue with a consent becomes the source of a run of its
own and stands in REMAKING. -/
def StoresAndRemakes : Prop :=
  (∀ (s : State) (src : Src) (req : Req), s.admits infoCatalogStored src req = true → (∀ k, src ≠ .session k) →
    let w := wordAt req.payload 0
    let r := replyOf infoCatalogStored src req
    let i := Instr.catalogStored src req
    let store := s.stores.find? fun x => x.id.toNat == bits w 31 0
    (store = none ∨ bits w 63 56 ∉ [0, 2] → Completes i s infoCatalogStored src req Code.valueOutOfRange [] s) ∧
    (∀ x q, store = some x → x.reply = some q →
      (bits w 63 56 = 0 → Answers i s fun t => t.answered r 0 Code.ok [] = true ∧ (∀ y ∈ t.stores, y.id ≠ x.id) ∧
        (∀ n, x.handle ≠ 0 → (∀ c : Cab, s.slotOf c x.handle = none) →
          firstFree (fun n => (s.slot? x.cab n).isSome) 16384 0 = some n →
          ∃ y, t.slot? x.cab n = some y ∧ y.handle = x.handle ∧ y.version = x.version ∧ y.tenant = x.tenant ∧
            y.state = SState.bound)) ∧
      (s.shape = true → bits w 63 56 = 2 → Answers i s fun t => t.answered r 0 Code.ok [] = true ∧ (∀ y ∈ t.stores, y.id ≠ x.id) ∧
        t.catalog = s.catalog.filter fun o => !(o.handle == x.handle && o.version == x.version)))) ∧
  (∀ (s : State) (c : Cab),
    let p := s.remakeQ.find? fun p => p.1 == c
    ((s.cab c).state ≠ 3 ∨ p = none → Answers (.remakeStart c) s fun t => t = s) ∧
    (∀ n, (s.cab c).state = 3 → p = some (c, n) →
      let u := { s with remakeQ := s.remakeQ.eraseP fun q => q == (c, n) }
      (s.slot? c n = none → Answers (.remakeStart c) s fun t => t = u) ∧
      (∀ x, s.slot? c n = some x →
        (s.consentFor x.tenant c = none ∨ x.state ≠ SState.stale → Answers (.remakeStart c) s fun t => t = u) ∧
        (∀ k code, s.consentFor x.tenant c = some k → x.state = SState.stale → u.runCode x.tenant (u.remakeWords c x k) = some code →
          Answers (.remakeStart c) s fun t => t = u.tell c n code) ∧
        (∀ k v, s.consentFor x.tenant c = some k → x.state = SState.stale →
          let ws := u.remakeWords c x k
          u.runCode x.tenant ws = none → u.createRun x.tenant 0 ws (some n) none = .inr v →
          (∀ o ∈ s.catalog, o.handle = x.handle ∨ o.handle = k.dataset → o.bytes ≤ maxImage) →
          firstFree (fun n => (s.slot? c n).isSome) 16384 0 ≠ none → (∀ f ∈ s.fetches, (s.slot? f.cab f.slot).isSome = true) →
          FetchIdsAreNew s → Answers (.remakeStart c) s fun t =>
            (∃ y, t.slot? c n = some y ∧ y.state = SState.remaking ∧ y.handle = x.handle) ∧
              ∃ z, t.runs = s.runs ++ [z] ∧ z.id = s.nextRun ∧ z.remakeOf = some n ∧ z.source = x.handle ∧ z.outHandle = x.handle ∧
                z.dataset = k.dataset ∧ z.maxSteps = k.maxSteps % 2 ^ 32 ∧ z.stream = 0 ∧ z.tenant = x.tenant ∧ z.cab = c))))

/-- Adaptation runs are started, stopped, resumed, published and remade. Where the spec leaves a choice, this follows assumptions
28, 29, 30, 31, the model's own. -/
def Obligations.RunsAreStartedAndCommanded : Prop := RunStarts ∧ RunsAreCommanded ∧ StoresAndRemakes

/-! ## Gloves -/

/-- ADD_TENANT and GLOVE_OPEN (R375, R376, R381, R387): an entry is added or replaced while the tenant has no glove; a session opens its tenant's
glove, made at generation 1 under the next id, or answers the one that is there. -/
def GlovesOpen : Prop :=
  (∀ (s : State) (src : Src) (req : Req), s.admits infoAddTenant src req = true →
    let t : BitVec 32 := BitVec.ofNat 32 (bits (wordAt req.payload 0) 63 32)
    let key := wide512 ((req.payload.drop 1).take 8)
    let i := Instr.addTenant src req
    ((s.tenantGlove? t).isSome = true → Completes i s infoAddTenant src req Code.tenantBound [] s) ∧
    (s.tenantGlove? t = none →
      Completes i s infoAddTenant src req Code.ok [] (s.modRot fun x => { x with tenants := assocPut t key x.tenants }))) ∧
  (∀ (s : State) (n : Sess) (req : Req) (x : Session), s.admits infoGloveOpen (.session n) req = true → s.session? n.val = some x →
    let i := Instr.gloveOpen (.session n) req
    let ends := fun (code : Nat) (words : List Word) (u : State) => Completes i s infoGloveOpen (.session n) req code words u
    let made := fun (id : BitVec 16) =>
      ({ madeGlove id 2 0 x.tenant x.keyId s.freeCtr with
         standbyAcked := !s.hasStandby, catalogKey := wide256 (req.payload.take 4) } : Glove)
    let put_ := fun (id : BitVec 16) (t : Rot) =>
      ({ s with freeCtr := s.freeCtr + 1, rot := { t with gloves := t.gloves ++ [made id] } } : State)
    (∀ g, s.tenantGlove? x.tenant = some g →
      (6 ≤ g.phase.val → ends Code.gloveClosed [] s) ∧ (g.phase.val < 6 → ends Code.ok [word (g.id.toNat <<< 48)] s)) ∧
    (s.tenantGlove? x.tenant = none →
      (s.rot.nextNew ≤ 0x40ff →
        let id : BitVec 16 := BitVec.ofNat 16 s.rot.nextNew
        ends Code.ok [word (id.toNat <<< 48)] (put_ id { s.rot with nextNew := s.rot.nextNew + 1 })) ∧
      (∀ id rest, 0x40ff < s.rot.nextNew → s.rot.freed = id :: rest →
        ends Code.ok [word (id.toNat <<< 48)] (put_ id { s.rot with freed := rest })) ∧
      (0x40ff < s.rot.nextNew → s.rot.freed = [] → ends Code.gloveLimit [] s)))

/-- GLOVE_CLOSE and REMOVE_TENANT (R390): the tenant's requests, runs, consents and sessions end, but for the session that carried the
close, its streams close, and its glove is closing, being erased, or gone. A tenant without an entry is unknown. -/
def GlovesClose : Prop :=
  ∀ (s : State) (src : Src) (req : Req) (i : Instr) (info : CmdInfo) (tenant : BitVec 32), s.admits info src req = true →
    s.idsUnique →
    (i = .gloveClose src req ∧ info = infoGloveClose ∧ ∃ n x, src = .session n ∧ s.session? n.val = some x ∧ x.tenant = tenant) ∨
      (i = .removeTenant src req ∧ info = infoRemoveTenant ∧ (∀ n, src ≠ .session n) ∧
        tenant = BitVec.ofNat 32 (bits (wordAt req.payload 0) 63 32)) →
    (i = .removeTenant src req → (∀ p ∈ s.rot.tenants, p.1 ≠ tenant) →
      Completes i s info src req Code.tenantUnknown [] s) ∧
    ((∃ p ∈ s.rot.tenants, p.1 = tenant) → (∀ g, s.tenantGlove? tenant = some g → g.phase.val < 6) → Answers i s fun t =>
      (∀ q ∈ t.requests, q.tenant = tenant → 3 ≤ q.state.val) ∧ (∀ x ∈ t.runs, x.tenant ≠ tenant) ∧
        (∀ k ∈ t.consents, k.tenant ≠ tenant) ∧
        (∀ x ∈ t.rot.sessions, x.tenant = tenant → src = .session x.n ∧ x.draining = true) ∧
        (∀ x ∈ t.streams, x.owner = 1 → x.tenant = tenant → x.isClosing = true) ∧ t.mem = s.mem)

/-- ROTATE_GLOVE and its acknowledgements (R378, R379, R388, R390): Make waits for the standby, Install for every block that wears or caches the
glove; then the next generation is current and PREV_PAGES counts what is left; Drain and Erase wait for the blocks again. An
acknowledgement that is not waited for changes nothing. -/
def GlovesRotate : Prop :=
  (∀ (s : State) (src : Src) (req : Req), s.admits infoRotateGlove src req = true →
    let r := replyOf infoRotateGlove src req
    let i := Instr.rotateGlove src req
    let named := s.namedGlove r (bits (wordAt req.payload 0) 63 48)
    (∀ code, named = .inl code → Completes i s infoRotateGlove src req code [] s) ∧
    (∀ g, named = .inr g → s.glove? g.id.toNat = some g →
      (6 ≤ g.phase.val → Completes i s infoRotateGlove src req Code.gloveClosed [] s) ∧
      (g.phase.val < 6 → g.prevHeld = true ∨ g.phase ≠ 0 →
        Completes i s infoRotateGlove src req Code.rotationInProgress [] s) ∧
      (g.prevHeld = false → g.phase = 0 → s.hasStandby = true → Answers i s fun t => t.acceptedReq r 0 = true ∧
        t.quiet = (s.modGlove g.id.toNat fun x => { x with phase := 1, replies := [r] }).quiet) ∧
      (g.prevHeld = false → g.phase = 0 → s.hasStandby = false → s.wearers g ≠ [] → Answers i s fun t =>
        t.acceptedReq r 0 = true ∧
          t.quiet = (s.modGlove g.id.toNat fun x => { x with phase := 2, replies := [r], waiting := s.wearers g }).quiet))) ∧
  (∀ (s : State) (id : BitVec 16) (b : GBlock) (g : Glove), s.glove? id.toNat = some g →
    let left := g.waiting.filter fun x => x != b
    let less : State := s.modGlove id.toNat fun x => { x with waiting := left }
    let due := s.cpRuns = true ∧ b ∈ g.waiting
    (s.hasStandby = true → g.standbyAcked = false →
      Answers (.gloveChangeAck id) s fun t => t = s.modGlove id.toNat fun x => { x with standbyAcked := true }) ∧
    (s.hasStandby = false → Answers (.gloveChangeAck id) s fun t => t = s) ∧
    (s.hasStandby = true → g.standbyAcked = true → g.phase = 1 → s.wearers g ≠ [] →
      Answers (.gloveChangeAck id) s fun t => t = s.modGlove id.toNat fun x => { x with phase := 2, waiting := s.wearers g }) ∧
    (¬due ∨ g.phase ≠ 2 → Answers (.gloveInstallationAck id b) s fun t => t = s) ∧
    (¬due ∨ g.phase ≠ 4 → Answers (.drainConfirm id b) s fun t => t = s) ∧
    (¬due ∨ (g.phase ≠ 5 ∧ g.phase ≠ 7) → Answers (.gloveErasureAck id b) s fun t => t = s) ∧
    (due → left ≠ [] →
      (g.phase = 2 → Answers (.gloveInstallationAck id b) s fun t => t = less) ∧
      (g.phase = 4 → Answers (.drainConfirm id b) s fun t => t = less) ∧
      (g.phase = 5 → Answers (.gloveErasureAck id b) s fun t => t = less)) ∧
    (due → left = [] →
      (g.phase = 2 →
        let n := (s.pages.filter fun p => p.glove == g.id && p.kind != 0 && p.keyGen == g.gen).length
        n ≠ 0 → Answers (.gloveInstallationAck id b) s fun t =>
          t = (s.wearGens id (g.gen + 1) (some g.gen)).modGlove id.toNat fun x =>
          { x with waiting := [], gen := g.gen + 1, prevHeld := true, prevPages := n, phase := 3, rotateTime := s.now }) ∧
      (g.phase = 4 → s.wearers g ≠ [] → Answers (.drainConfirm id b) s fun t =>
        t = s.modGlove id.toNat fun x => { x with phase := 5, waiting := s.wearers g }) ∧
      (g.phase = 5 → Answers (.gloveErasureAck id b) s fun t =>
        t.quiet = ((s.wearGens id g.gen none).modGlove id.toNat fun x =>
          { x with waiting := [], phase := 0, prevHeld := false, replies := [] }).quiet ∧
          ∀ r, g.replies = [r] → s.awaits r = true → t.answered r 0 Code.ok [] = true) ∧
      (g.phase = 7 → Answers (.gloveErasureAck id b) s fun t =>
        (∀ x ∈ t.rot.gloves, x.id ≠ g.id) ∧ (g.removing = true → ∀ p ∈ t.rot.tenants, p.1 ≠ g.tenant) ∧
          (∀ x ∈ t.clusters, ∀ k ∈ x.slots, k.glove ≠ g.id) ∧ t.pages = s.pages ∧
          t.mem = s.mem)))

/-- A glove is opened, rotated and closed. Where the spec leaves a choice, this follows assumptions 54, 55, the model's own. -/
def Obligations.GlovesLive : Prop := GlovesOpen ∧ GlovesClose ∧ GlovesRotate

/-! ## Consent, debug channels, claims -/

/-- Consent tokens (R399, R401, R403): CONSENT_INSTALL judges a whole token of 4,621 bytes in a buffer; a token in force covers debug
access until TOKEN_EXPIRY or CONSENT_REVOKE removes it, which ends the channels under it. -/
def ConsentTokens : Prop :=
  (∀ (s : State) (src : Src) (req : Req) (sigOk : Bool), s.admits infoConsentInstall src req = true → (∀ n, src ≠ .session n) →
    let w := wordAt req.payload
    let ends := fun (code : Nat) (u : State) => Completes (.consentInstall src req sigOk) s infoConsentInstall src req code [] u
    (req.payload.length ≠ 2 → ends Code.badLength s) ∧
    (req.payload.length = 2 →
      (s.buffer? src (w 0).toNat (w 1).toNat = none → ends Code.bufferInvalid s) ∧
      (∀ off, s.buffer? src (w 0).toNat (w 1).toNat = some off →
        ((w 1).toNat ≠ 4621 → ends Code.valueOutOfRange s) ∧
        ((w 1).toNat = 4621 →
          let bs := (s.ct s.cp.active).mem.read off 4621
          let t := tokenOf bs s.now
          let rest := s.rot.tokens.filter fun x => x.id != t.id
          (s.tokenOk bs sigOk none = false → ends Code.tokenInvalid s) ∧
          (s.tokenOk bs sigOk none = true → 64 ≤ rest.length → ends Code.consentLimit s) ∧
          (s.tokenOk bs sigOk none = true → rest.length < 64 →
            ends Code.ok (s.modRot fun x => { x with tokens := rest ++ [t] })))))) ∧
  (∀ (s : State) (bs : List Byte) (sigOk : Bool) (tenant : Option (BitVec 32)), s.tokenOk bs sigOk tenant = true →
    let t := tokenOf bs s.now
    sigOk = true ∧ span bs 0 1 = 1 ∧ t.cab < 16 ∧ t.scope.toNat < 16 ∧ (s.tenantGlove? t.tenant).isSome = true ∧
      s.now < t.expiry ∧ t.expiry ≤ t.notBefore + 604800000000000 ∧ (∀ i, tenant = some i → t.tenant = i) ∧
      (t.phase = 1 ↔ t.notBefore ≤ s.now)) ∧
  (∀ (s : State) (id : BitVec 256),
    (Answers (.tokenInForce id) s fun t =>
      t = s.modRot fun x => { x with tokens := x.tokens.map fun k => if k.id = id then { k with phase := 1 } else k }) ∧
    ((∀ k ∈ s.rot.tokens, k.id ≠ id) → Answers (.tokenExpiry id) s fun t => t = s) ∧
    ((∃ k ∈ s.rot.tokens, k.id = id) → Answers (.tokenExpiry id) s fun t =>
      t.rot.tokens = (s.rot.tokens.filter fun k => k.id != id) ∧
        t.rot.debugChans = (s.rot.debugChans.map fun d => if d.token = id then { d with ended := true } else d) ∧
        (t.cp.traceRing = s.cp.traceRing ∨ t.cp.traceRing = none) ∧
        (t.cp.traceRing = none ↔ s.cp.traceRing = none ∨
          ∃ d ∈ s.rot.debugChans, d.token = id ∧ s.cp.traceRing = some (.debug d.id)) ∧
        { t with cp := { t.cp with traceRing := s.cp.traceRing },
                 rot := { t.rot with tokens := s.rot.tokens, debugChans := s.rot.debugChans } } = s)) ∧
  (∀ (s : State) (src : Src) (req : Req) (x : Stream), s.admits infoConsentRevoke src req = true →
    s.stream? req.stream.val = some x →
    let id := wide256 (req.payload.take 4)
    let i := Instr.consentRevoke src req
    let tok := s.rot.tokens.find? fun k => k.id == id
    (tok = none → Completes i s infoConsentRevoke src req Code.valueOutOfRange [] s) ∧
    (∀ k, tok = some k → (k.tenant ≠ x.tenant → Completes i s infoConsentRevoke src req Code.notOwner [] s) ∧
      (k.tenant = x.tenant → Completes i s infoConsentRevoke src req Code.ok [] (s.endToken id))))

/-- Debug channels and claims (R400, R401, R457, R458): DEBUG_OPEN needs a token in force that covers its scope, a buffer for the ciphertext
and, for traces, the trace ring free; DEBUG_CLOSE gives both back. CLAIM and RELEASE hold and free a general timer or the trace
ring for one stream; a claimed timer that expires posts TIMER and runs on by its PERIOD. -/
def DebugChannelsAndClaims : Prop :=
  (∀ (s : State) (src : Src) (req : Req), s.admits infoDebugOpen src req = true →
    let w := wordAt req.payload
    let scope : BitVec 16 := BitVec.ofNat 16 (bits (w 4) 63 48)
    let len := (w 6).toNat
    let tok := s.rot.tokens.find? fun k => k.id == wide256 (req.payload.take 4) && k.phase == 1
    let k := freeDebug (s.rot.debugChans.map DebugChan.id) 65536 s.rot.nextDebug
    let ends := fun (code : Nat) (words : List Word) (u : State) => Completes (.debugOpen src req) s infoDebugOpen src req code words u
    (s.buffer? src (w 5).toNat len = none → ends Code.bufferInvalid [] s) ∧
    (∀ off, s.buffer? src (w 5).toNat len = some off →
      (tok = none → ends Code.denied [] s) ∧
      (∀ t, tok = some t →
        (scope &&& ~~~t.scope ≠ 0 → ends Code.denied [] s) ∧
        (scope &&& ~~~t.scope = 0 → len < 1088 → ends Code.bufferTooSmall [] s) ∧
        (scope &&& ~~~t.scope = 0 → 1088 ≤ len → scope.getLsbD 0 = true → s.cp.traceRing.isSome = true → ends Code.busy [] s) ∧
        (scope &&& ~~~t.scope = 0 → 1088 ≤ len → scope.getLsbD 0 = false ∨ s.cp.traceRing = none →
          let d : DebugChan := { id := k, token := wide256 (req.payload.take 4), scope := scope, buffer := off, bytes := len,
                                 ended := false }
          let u : State := ({ s with freeCtr := s.freeCtr + 1 } : State).writeCtl off (leBytes 1088 (Config.encapsulation s.freeCtr))
          ends Code.ok [word (k <<< 48)]
            ((u.modCp fun c => { c with traceRing := if scope.getLsbD 0 then some (.debug k) else c.traceRing }).modRot fun x =>
              { x with debugChans := x.debugChans ++ [d], nextDebug := k + 1 }))))) ∧
  (∀ (s : State) (src : Src) (req : Req), s.admits infoDebugClose src req = true →
    let k := bits (wordAt req.payload 0) 63 48
    let ends := fun (code : Nat) (u : State) => Completes (.debugClose src req) s infoDebugClose src req code [] u
    let chan := s.rot.debugChans.find? fun d => d.id == k
    (chan = none → ends Code.valueOutOfRange s) ∧
    (∀ d, chan = some d → ends (if d.ended then Code.denied else Code.ok)
      ((s.modRot fun x => { x with debugChans := x.debugChans.filter fun y => y.id != k }).modCp fun c =>
        { c with traceRing := if c.traceRing = some (.debug k) then none else c.traceRing }))) ∧
  (∀ (s : State) (src : Src) (req : Req) (i : Instr) (info : CmdInfo) (code : Nat),
    (i, info) ∈ [(.claim src req, infoClaim), (.release src req, infoRelease)] → s.admits info src req = true →
    s.claimCode (replyOf info src req) (bits (wordAt req.payload 0) 63 60) = some code → Completes i s info src req code [] s) ∧
  (∀ (s : State) (src : Src) (req : Req), s.admits infoClaim src req = true →
    let w := wordAt req.payload
    let kind := bits (w 0) 63 60
    let d : Die := Fin.ofNat 16 (bits (w 0) 59 56)
    let n : Fin 4 := Fin.ofNat 4 (bits (w 0) 55 54)
    let ends := fun (code : Nat) (u : State) => Completes (.claim src req) s infoClaim src req code [] u
    s.claimCode (replyOf infoClaim src req) kind = none →
    (kind = 0 → (s.cp.traceRing.isSome = true → ends Code.busy s) ∧
      (s.cp.traceRing = none → ends Code.ok (s.modCp fun c => { c with traceRing := some (.stream req.stream) }))) ∧
    (kind ≠ 0 → ((∃ x ∈ s.cp.timers, x.die = d ∧ x.timer = n) → ends Code.busy s) ∧
      ((∀ x ∈ s.cp.timers, ¬(x.die = d ∧ x.timer = n)) →
        let t : TimerClaim := { die := d, timer := n, stream := req.stream, due := (w 1).toNat, period := (w 2).toNat,
                                armed := true, count := 0 }
        ends Code.ok (s.modCp fun c => { c with timers := c.timers ++ [t] })))) ∧
  (∀ (s : State) (src : Src) (req : Req), s.admits infoRelease src req = true →
    let w := wordAt req.payload
    let kind := bits (w 0) 63 60
    let mine := fun (x : TimerClaim) => x.die.val == bits (w 0) 59 56 && x.timer.val == bits (w 0) 55 54 && x.stream == req.stream
    let ends := fun (code : Nat) (u : State) => Completes (.release src req) s infoRelease src req code [] u
    s.claimCode (replyOf infoRelease src req) kind = none →
    (kind = 0 → (s.cp.traceRing ≠ some (.stream req.stream) → ends Code.notClaimed s) ∧
      (s.cp.traceRing = some (.stream req.stream) → ends Code.ok (s.modCp fun c => { c with traceRing := none }))) ∧
    (kind ≠ 0 → ((∀ x ∈ s.cp.timers, mine x = false) → ends Code.notClaimed s) ∧
      ((∃ x ∈ s.cp.timers, mine x = true) →
        ends Code.ok (s.modCp fun c => { c with timers := c.timers.filter fun x => !mine x })))) ∧
  (∀ (s : State) (d : Die) (n : Fin 4),
    let timer := s.cp.timers.find? fun x => x.die == d && x.timer == n
    (timer = none → Answers (.generalTimerExpiry d n) s fun t => t = s) ∧
    (∀ x, timer = some x → (x.armed = false → Answers (.generalTimerExpiry d n) s fun t => t = s) ∧
      (x.armed = true → Answers (.generalTimerExpiry d n) s fun t =>
        let mk : TimerClaim → TimerClaim := fun y =>
          if y.die = d ∧ y.timer = n then
            { y with count := y.count + 1, armed := decide (y.period ≠ 0), due := x.due + y.period }
          else y
        t.quiet = (s.modCp fun c => { c with timers := c.timers.map mk }).quiet)))

/-- Consent tokens, debug channels and claims. Where the spec leaves a choice, this follows assumptions 56, 68, the model's own. -/
def Obligations.ConsentIsKept : Prop := ConsentTokens ∧ DebugChannelsAndClaims

/-! ## Resets -/

/-- What a reset leaves of a cluster (R86, R439): its store and its gloves are gone, its vector engine is as after reset, its tiles are
empty, and a cluster that is not failed reads RESETTING. -/
def ClusterCleared (s t : State) (d : Die) (c : Phys) : Prop :=
  (∀ x ∈ t.clusters, ¬(x.die = d ∧ x.cl = c)) ∧ (∀ y ∈ t.tiles, y.die = d → y.cl = c → y.entries = [] ∧ y.sat = false) ∧
    (∀ v ∈ t.vengines, v.u.die = d → v.u.cl = c → v = VEngine.reset v.u) ∧
    (∀ k, (s.die d).clusters[c.val]? = some k → (s.die d).inService = true → k ≠ 2 → (t.die d).clusters[c.val]? = some 3)

/-- What a reset leaves of a die (R439): its clusters cleared, no pass, no descriptor, no claimed timer, empty sector caches and router
queues. -/
def DieCleared (s t : State) (d : Die) : Prop :=
  (∀ c : Phys, ClusterCleared s t d c) ∧ (t.die d).pass = none ∧ (t.die d).arrived = [] ∧ (t.die d).onLink = [] ∧
    (t.die d).packets = [] ∧ (∀ f ∈ t.flights, f.die ≠ d) ∧ (∀ k ∈ t.cp.timers, k.die ≠ d) ∧ (∀ h : Stack, dieOf h = d → (t.stk h).cache = [])

/-- RESET_CLUSTER, RESET_DIE, RESET_CABINET (R439 to R442): a scope that names nothing is refused; a reset that another one covers
joins it; one that must wait for a reset within its scope waits; else it starts, and clears its scope. -/
def ResetsBegin : Prop :=
  ∀ (s : State) (src : Src) (req : Req), s.shape = true →
    let w := wordAt req.payload 0
    let d : Die := Fin.ofNat 16 (bits w 63 60)
    let asks := fun (i : Instr) (info : CmdInfo) (a : Scope) (done : State → Prop) =>
      let r := replyOf info src req
      let j : ResetJob := { scope := a, replies := [r], words := [w], started := false }
      (∀ k, s.covering a = some k → Answers i s fun t => t.acceptedReq r 0 = true ∧
        t.quiet = (s.modCp fun c =>
          { c with resets := c.resets.map fun y => if y = k then { y with replies := y.replies ++ [r] } else y }).quiet) ∧
      (s.covering a = none → s.resetWaits a = true →
        Answers i s fun t => t.quiet = (s.modCp fun c => { c with resets := c.resets ++ [j] }).quiet) ∧
      (s.covering a = none → s.resetWaits a = false →
        Answers i s fun t => { j with started := true } ∈ t.cp.resets ∧ done t)
    (s.admits infoResetCluster src req = true →
      (8 < bits w 59 56 →
        Completes (.resetCluster src req) s infoResetCluster src req Code.valueOutOfRange [] s) ∧
      (bits w 59 56 ≤ 8 →
        let c : Phys := Fin.ofNat 9 (bits w 59 56)
        asks (.resetCluster src req) infoResetCluster (.cluster d c) fun t => ClusterCleared s t d c)) ∧
    (s.admits infoResetDie src req = true →
      asks (.resetDie src req) infoResetDie (.die d) fun t => DieCleared s t d) ∧
    (s.admits infoResetCabinet src req = true →
      let c := cabOf w
      ((s.cab c).dies = 0 →
        Completes (.resetCabinet src req) s infoResetCabinet src req Code.valueOutOfRange [] s) ∧
      ((s.cab c).dies ≠ 0 →
        asks (.resetCabinet src req) infoResetCabinet (.cabinet c (bitAt w 59)) fun t =>
          (t.cab c).state = 5 ∧ (∀ e ∈ diesOf (s.cab c).dies, DieCleared s t e) ∧
            (∀ j ∈ t.jobs, ∀ y, t.stream? j.stream.val = some y → y.cab ≠ c) ∧
            (s.idsUnique → ∀ q ∈ t.requests, q.cab = c → q.live = false)))

/-- RESET_COMPLETE (R440, R442, R103): a scope that is in no reset stays as it is; else, with no reset waiting, the reset is gone,
its requests complete, and the scope is in service again: a cluster active or spare, a cabinet READY with its shelf or without one. -/
def ResetsComplete : Prop :=
  ∀ (s : State) (a : Scope),
    (s.cp.resets.find? (fun r => r.started && r.scope == a) = none → Answers (.resetComplete a) s fun t => t = s) ∧
    (∀ j, s.cp.resets.find? (fun r => r.started && r.scope == a) = some j → (∀ k ∈ s.cp.resets, k.started = true) →
      Answers (.resetComplete a) s fun t =>
        t.cp.resets = s.cp.resets.erase j ∧
          (∀ d c, a = .cluster d c → s.shape = true → (s.die d).clusters[c.val]? = some 3 →
            (t.die d).clusters[c.val]? = some (if (s.die d).mapNow.contains c then 0 else 1)) ∧
          (∀ d, a = .die d → s.shape = true → (t.die d).blocks = [] ∧ ∀ (c : Phys) (k : Fin 4), (s.die d).clusters[c.val]? = some k →
            (t.die d).clusters[c.val]? = some (if k = 3 then (if (s.die d).mapNow.contains c then 0 else 1) else k)) ∧
          (∀ c keep, a = .cabinet c keep → s.shape = true →
            (t.cab c).state = (if keep = true ∧ (s.cab c).unmount = none ∧ (s.cab c).shelf.isSome = true then 3 else 1)) ∧
          (∀ r, j.replies = [r] → s.awaits r = true → (∀ c keep, a = .cabinet c keep → keep = true ∧ (s.cab c).unmount = none) →
            t.answered r 0 Code.ok [] = true))

/-- Resets begin and complete. Where the spec leaves a choice, this follows assumption 51, the model's own. -/
def Obligations.ResetsRun : Prop := ResetsBegin ∧ ResetsComplete

/-! ## Serving -/

/-- SERVING_REQUEST, ADMISSION_RETEST and ADMIT_WAIT_EXPIRY (R54, R55, R57, R59, R62, R240): a request that may not run ends with
its code, one whose drawer's slot is another tenant's, stale or failed with that slot's; one that no setting admits waits in
QUEUED; one without a drawer is admitted to the group chosen, its key-value pages taken, and its prompt's rows wait for seats
from then on; a group's oldest row that has waited ADMIT_WAIT lets the next pass start. Where the spec leaves a choice, this
follows assumption 22, the model's own. -/
def Obligations.RequestsAreAdmitted : Prop :=
  (∀ (s : State) (n : Sess) (r : ServeReq), s.session? n.val = none →
    Answers (.servingRequest n r) s fun t => t = s) ∧
  (∀ (s : State) (n : Sess) (r : ServeReq) (x : Session), s.idsUnique → s.session? n.val = some x →
    let q : Request :=
      { id := s.nextRequest, session := n, tenant := x.tenant, cab := x.cab, ask := r, state := RState.queued, code := 0, group := none,
        slot := none, placed := 0, delivered := 0, ready := 0, since := s.now, seq := 0, kvPages := 0, inPass := false,
        passedOver := false, arrived := s.now, admitted := 0, ended := 0, pinned := false, out := [], record := [] }
    (∀ c, s.requestCode x r = some c → Answers (.servingRequest n r) s fun t => t.nextRequest = s.nextRequest + 1 ∧
      ∃ y ∈ t.requests, y = { q with state := RState.ended, code := c, ended := s.now }) ∧
    (∀ g, s.requestCode x r = none → s.tenantGlove? x.tenant = some g →
      let u := ({ s with requests := s.requests ++ [q], nextRequest := s.nextRequest + 1 }).modGlove g.id.toNat fun y =>
        { y with tokensIn := y.tokensIn + r.promptRows }
      let adm := (s.cab x.cab).adm
      let admits := (s.cab x.cab).state = 3 ∧ adm.isOpen = true ∧ u.admittedOf x.cab x.tenant < adm.quota
      (r.handle = 0 → ¬admits ∨ u.chooseGroup x.cab none r = none → Answers (.servingRequest n r) s fun t => t = u) ∧
      (∀ y, r.handle ≠ 0 → s.slotOf x.cab r.handle = some y → s.slot? x.cab y.slot = some y →
        let other := y.owner?.any (fun t => t != x.tenant)
        (∀ code, (other = true ∧ code = Code.notOwner) ∨ (other = false ∧ y.state = SState.stale ∧ code = Code.staleShelf) ∨
            (other = false ∧ y.state = SState.failed ∧ code = y.lastCode) → Answers (.servingRequest n r) s fun t =>
          ∃ z ∈ t.requests, z = { q with slot := some y.slot, state := RState.ended, code := code, ended := s.now }) ∧
        (other = false → y.state ≠ SState.stale → y.state ≠ SState.failed → ¬admits → Answers (.servingRequest n r) s fun t =>
          t = u.modRequest q.id fun z => { z with slot := some y.slot })) ∧
      (admits → r.handle = 0 → ∀ k, u.chooseGroup x.cab none r = some k → u.pinsFull q k = false →
        (u.allocAll? ((u.groupOfCab x.cab k).map fun d => (d, u.kvPagesFor x.cab r)) PKind.kv g.id x.cab
          (BitVec.ofNat 32 q.id)).isSome = true →
        Answers (.servingRequest n r) s fun t =>
          t.request? q.id = some { q with state := RState.admitted, group := some k, ready := r.promptRows,
                                          seq := s.useClock + 1, kvPages := u.kvPagesFor x.cab r, admitted := s.now } ∧
            (∀ i, i ≠ q.id → t.request? i = s.request? i) ∧ t.mem = s.mem))) ∧
  (∀ (s : State) (i : Nat),
    (s.request? i = none → Answers (.admissionRetest i) s fun t => t = s) ∧
    (∀ q, s.idsUnique → s.request? i = some q → q.state = RState.queued →
      let adm := (s.cab q.cab).adm
      let admits := (s.cab q.cab).state = 3 ∧ adm.isOpen = true ∧ s.admittedOf q.cab q.tenant < adm.quota
      (q.ask.handle = 0 → ¬admits ∨ s.chooseGroup q.cab none q.ask = none → Answers (.admissionRetest i) s fun t => t = s) ∧
      (admits → q.ask.handle = 0 → q.slot = none → ∀ k, s.chooseGroup q.cab none q.ask = some k → s.pinsFull q k = false →
        (s.allocAll? ((s.groupOfCab q.cab k).map fun d => (d, s.kvPagesFor q.cab q.ask)) PKind.kv
          (((s.tenantGlove? q.tenant).map Glove.id).getD 0) q.cab (BitVec.ofNat 32 q.id)).isSome = true →
        Answers (.admissionRetest i) s fun t =>
          t.request? i = some { q with state := RState.admitted, group := some k, ready := q.ask.promptRows + q.delivered,
                                       since := s.now, seq := s.useClock + 1, kvPages := s.kvPagesFor q.cab q.ask,
                                       admitted := s.now, pinned := false }))) ∧
  (∀ (s : State) (d : Die),
    let waits := ∃ c, s.cabOfDie d = some c ∧ groupOf (s.cab c).span d = d ∧ s.fillForward c d ≠ []
    (waits → Answers (.admitWaitExpiry d) s fun t => t = s.modDie d fun x => { x with waitExpired := true }) ∧
      (¬waits → Answers (.admitWaitExpiry d) s fun t => t = s))

/-- PASS_START (R41, R45, R51 to R53, R57, R77, R98, R100, R283): a die with a pass, or whose group is not in service, starts none. On a die
of no run's, the seating of the direction that waits there starts first; else, where the group has fewer seatings in flight than
positions and no unmount cuts, position 0 starts a forward seating of its waiting rows, once they reach ADMIT_TARGET or the oldest
has waited, and the last position a transposed one unless serving rows wait; another die starts one only for rows that its last pass
left. Rows left by the last pass join what starts, and the cluster map that was due takes effect. -/
def PassStarts : Prop :=
  ∀ (s : State) (d : Die) (c : Cab) (trans : Bool), s.shape = true → s.cabOfDie d = some c → (∀ r ∈ s.runs, hasDie r.dies d.val = false) →
    let x := s.cab c
    let g := groupOf x.span d
    let i := Instr.passStart d trans
    let stopped := (s.die d).pass.isSome = true ∨ (x.state ≠ 3 ∧ x.state ≠ 4) ∨ s.groupServes c g = false ∨
      ∃ k ∈ (s.die d).mapNow, s.scopeHolds d k = true
    let cut := s.cutting c
    let next := (s.die d).arrived.find? fun p => p.trans == trans && (p.mid || !cut)
    let again := (s.die d).again
    let seated := fun (p : Pass) => if p.mid then p.rows else (joinAgain (s.die d).mapNow.length trans p.rows again).1
    let lost := fun (l : List SeatRow) => (l.zipIdx.filter fun r => decide ((s.die d).mapNow.length ≤ r.1.cluster)).map Prod.snd
    let fill := if trans then s.fillBackward c g else s.fillForward c g
    let first := if trans then posOf x.span d + 1 = x.span else d = g
    let full := x.span ≤ s.inFlight c g trans
    let due := trans = true ∨ x.adm.target ≤ fill.length ∨ (s.die d).waitExpired = true
    let left := ∃ r ∈ again, (r.kind == 3) = trans
    let begins := fun (t : State) (p : Pass) =>
      (t.die d).pass = some { p with rows := seated p, started := if p.mid then p.started else s.now, mid := false,
                                     unseated := (p.unseated ++ lost (seated p)).dedup } ∧
        (t.die d).map = (s.die d).mapNow ∧ (t.die d).nextMap = none ∧
        (t.die d).waitExpired = false ∧ t.mem = s.mem ∧ t.jobs = s.jobs ∧ t.tensors = s.tensors ∧ t.flights = s.flights
    let new := fun (l : List SeatRow) =>
      ({ seating := s.newSeating d, trans := trans, rows := l, unseated := [], tokens := [], started := s.now, clips := 0,
         withheld := false, mid := false } : Pass)
    (stopped → Answers i s fun t => t = s) ∧
    (¬stopped → trans = true → s.servingWaits d c g = true → Answers i s fun t => t = s) ∧
    (¬stopped → (trans = true → s.servingWaits d c g = false) →
      (∀ p, next = some p → unseatedRows (seated p) = [] → Answers i s fun t =>
        begins t p ∧ (t.die d).arrived = (s.die d).arrived.erase p) ∧
      (next = none → cut = true ∨ (¬first ∧ ¬left) ∨ (first ∧ (full ∨ fill = [] ∨ ¬due)) → Answers i s fun t => t = s) ∧
      (next = none → cut = false → ¬first → left → unseatedRows (seated (new [])) = [] → Answers i s fun t => begins t (new [])) ∧
      (next = none → cut = false → first → ¬full → fill ≠ [] → due → unseatedRows (seated (new fill)) = [] → Answers i s fun t =>
        begins t (new fill) ∧
          (t.die d).seatIndex = ((s.die d).seatIndex + 1) % 4096 ∧
          (t.cab c).counters.passes = x.counters.passes + 1 ∧ (t.cab c).counters.rows = x.counters.rows + fill.length ∧
          ∀ q ∈ t.requests, (∃ r ∈ fill, r.request = some q.id) → q.state = RState.seated ∧ q.inPass = true))

/-- The flow of a seating (R49 to R53, R55, R77, R88 to R92, R107, R108): a fill that goes on with the die's shared read takes the buffer
named where it is empty in every active cluster; a pass that ends hands its rows with their activations to the next position, or, at the
last one, delivers to each request that has no row left a token, which ends it or makes it wait for its next row; rows, for which there
are blocks, and token ids arrive; a transposed segment ends between layers; a released block is free once zeroed. -/
def PassesFlow : Prop :=
  (∀ (s : State) (u : VUnit) (f : PanelFill) (c : Cab), s.cabOfDie u.die = some c → (s.die u.die).map.Nodup → s.shape = true →
    let row := s.clusterRow u.die
    let takes := (∀ p, (s.die u.die).pass = some p → p.trans = f.trans) ∧ (s.logicalOf u.die u.cl).isSome = true ∧
      (∀ x ∈ row, ∃ b, (s.cluster u.die x.1).bufs[f.buffer.val]? = some b ∧ b.state = 0) ∧ (s.fillNext c u.die f).isSome = true
    (¬takes → Answers (.panelBufferFill u f) s fun t => t = s) ∧
    (takes → Answers (.panelBufferFill u f) s fun t =>
      (∀ x ∈ row, (t.cluster u.die x.1).bufs[f.buffer.val]? =
        some { state := if s.reads u.die x.2 f.layer f.proj f.trans = true then 2 else 1,
               own := f.panels.length * (busShare f.fmt row.length x.2).length,
               fill := some { f with panels := f.panels.map (bufferPanel f.fmt f.trans) } }) ∧
        { t with clusters := s.clusters, dies := s.dies } = s)) ∧
  (∀ (s : State) (d : Die) (c : Cab) (p : Pass) (tokens : List (Nat × BitVec 32)), s.shape = true → s.idsUnique →
    s.cabOfDie d = some c → (s.die d).pass = some p → p.withheld = false → p.unseated = [] → (s.cab c).unmount = none →
    (s.cab c).state ≠ 4 → p.trans = false →
    let span := (s.cab c).span
    let g := groupOf span d
    let u := s.modDie d fun y => { y with pass := none }
    let rows := s.liveRows (p.rows.map fun r => { r with act := s.actOf d c r })
    (posOf span d + 1 < span → rows ≠ [] → Answers (.passEnd d tokens) s fun t =>
      (t.die d).pass = none ∧ (t.die d).map = (s.die d).mapNow ∧
        (t.die (Fin.ofNat 16 (d.val + 1))).onLink =
          (u.die (Fin.ofNat 16 (d.val + 1))).onLink ++ [{ p with rows := rows, tokens := [], clips := 0, mid := false }] ∧
        t.mem = s.mem ∧ t.jobs = s.jobs) ∧
    (posOf span d + 1 = span → Answers (.passEnd d tokens) s fun t =>
      (t.die d).pass = none ∧ (t.die d).map = (s.die d).mapNow ∧
        ∀ i q v, s.request? i = some q → q.live = true → q.ready = 0 → (∃ r ∈ p.rows, r.request = some i ∧ r.run = none) →
          (∀ r ∈ u.groupRows c g, r.request ≠ some i) → assocGet i (p.chosen ++ tokens) = some v →
          (∀ x, s.session? q.session.val = some x → ∃ y, t.session? q.session.val = some y ∧ (i, v) ∈ y.served) ∧
          (q.ask.tokens ≤ q.delivered + 1 → ∃ y, t.request? i = some y ∧ y.state = RState.done ∧ y.code = Code.ok ∧
            y.out = q.out ++ [v] ∧ y.delivered = q.delivered + 1) ∧
          (q.delivered + 1 < q.ask.tokens → i ∈ (t.die g).tokensOnWay ∧
            t.request? i = some { q with delivered := q.delivered + 1, out := q.out ++ [v], inPass := false }))) ∧
  (∀ (s : State) (d : Die) (c : Cab), s.shape = true → s.cabOfDie d = some c →
    ((s.die d).onLink = [] → Answers (.boundaryRowsArrival d) s fun t => t = s) ∧
    (∀ p rest, (s.die d).onLink = p :: rest →
      let need := ((s.rowBlocks c p).map fun b => b.2.1).sum
      let free := 768 - (s.usedBlocks d).length
      (need ≤ free → Answers (.boundaryRowsArrival d) s fun t =>
        (t.die d).onLink = rest ∧ (t.die d).arrived = (s.die d).arrived ++ [p] ∧ (t.die d).pass = (s.die d).pass ∧
          { t with dies := s.dies } = s) ∧
      (free < need → Answers (.boundaryRowsArrival d) s fun t => t = s.spillSaved d (need - free) ∧
        (t.die d).onLink = (s.die d).onLink ∧ (t.die d).arrived = (s.die d).arrived))) ∧
  (∀ (s : State) (d : Die), s.shape = true → s.idsUnique → Answers (.tokenIdsArrival d) s fun t =>
    (t.die d).tokensOnWay = [] ∧ { t with requests := s.requests, dies := s.dies } = s ∧
      ∀ i q, s.request? i = some q →
        t.request? i = some (if i ∈ (s.die d).tokensOnWay ∧ q.live = true then
          { q with ready := q.ready + (s.die d).tokensOnWay.count i, since := s.now } else q)) ∧
  (∀ (s : State) (d : Die),
    (∀ p, (s.die d).pass = some p → p.trans = true → Answers (.segmentEnd d) s fun t =>
      t = s.modDie d fun x => { x with pass := none, arrived := { p with mid := true } :: x.arrived, segment := 0 }) ∧
    ((∀ p, (s.die d).pass = some p → p.trans = false) → Answers (.segmentEnd d) s fun t => t = s)) ∧
  (∀ (s : State) (d : Die) (b : Fin 768), Answers (.activationStoreBlockZeroing d b) s fun t =>
    t = s.modDie d fun x => { x with blocks := x.blocks.filter fun y => !(y.blk == b && y.zeroing) })

/-- Passes start, hand over and end. Where the spec leaves a choice, this follows assumptions 4, 21, 22, 23, 24, 25, 91, 92, 93,
the model's own. -/
def Obligations.PassesRun : Prop := PassStarts ∧ PassesFlow

/-! ## Vector instructions -/

/-- An engine that runs an instruction: it stands at it, and its registers are 32 and its masks 8 (R190, R191). -/
def VecRuns (s : State) (u : VUnit) (w : Word) (v : VEngine) : Prop :=
  s.vReady u w = some v ∧ (s.vengines.map VEngine.u).Nodup ∧ v.regs.length = 32 ∧ v.masks.length = 8 ∧ v.regMarks.length = 32 ∧
    v.maskMarks.length = 8

/-- What an instruction leaves of an engine that it does not write: its body place is the next one (R199), and beside the engine
only a job that traps may change. -/
def VecGoesOn (s t : State) (v x : VEngine) : Prop :=
  x.desc = v.desc ∧ (x.pos, x.outer, x.inner) = (vdesc v.desc).next v.pos v.outer v.inner ∧
    { t with vengines := s.vengines, jobs := s.jobs } = s

/-- The sticky flags of an engine after an instruction that raised `fl` at the elements of a register (R213). -/
def VecFlags (v x : VEngine) (n : Nat) (fl : Nat → Nat) : Prop :=
  ∀ r j, x.flag r j = v.flag r j ||| if r = n then BitVec.ofNat 8 (fl j) else 0

/-- An instruction wrote a register, or a pair for W: its elements, its mark, its sticky flags; no other register and no mask. -/
def VecWrites (s t : State) (u : VUnit) (v : VEngine) (ty vd : Nat) (m : Mark) (val fl : Nat → Nat) : Prop :=
  ∃ x, t.vengine? u = some x ∧ VecGoesOn s t v x ∧
    (∀ e, e < vCount ty → x.elem ty vd e = val e % 2 ^ vElemBits ty) ∧ x.regMark vd = m ∧ (ty = 3 → x.regMark (vd + 1) = m) ∧
    (∀ r, r ≠ vd → ¬(ty = 3 ∧ r = vd + 1) → x.reg r = v.reg r ∧ x.regMark r = v.regMark r) ∧
    x.masks = v.masks ∧ x.maskMarks = v.maskMarks ∧ VecFlags v x vd fl

/-- An instruction wrote a mask by elements of a type (R191, R203), raising flags at the elements of register `va`; no other mask and no
register. -/
def VecMask (s t : State) (u : VUnit) (v : VEngine) (p : Pred) (ty m va : Nat) (mark : Mark) (res : Nat → Bool) (fl : Nat → Nat) :
    Prop :=
  ∃ x, t.vengine? u = some x ∧ VecGoesOn s t v x ∧
    (∀ k, k < 512 → x.maskBit m k =
      (if v.active p ty (k / vMaskStep ty) then res (k / vMaskStep ty) else if p.zm then false else v.maskBit m k)) ∧
    x.maskMark m = mark ∧ (∀ r, r ≠ m → x.masks.getD r 0 = v.masks.getD r 0 ∧ x.maskMark r = v.maskMark r) ∧
    x.regs = v.regs ∧ x.regMarks = v.regMarks ∧ VecFlags v x va fl

/-- The value of a destination element: the result when active, else zero under ZM, else what it was (R203). -/
def vPick (v : VEngine) (p : Pred) (ty vd e r : Nat) : Nat :=
  if v.active p ty e then r else if p.zm then 0 else v.elem ty vd e

/-- An instruction that computes element by element between two types (R195, R205, R206): where the marks of its operands agree and no W
container is bad, each covered element takes its result and every other keeps its value; where they do not agree, with DIE_RETIRE off,
the engines of its descriptor on the die stop with an isolation fault and no register changes; and where the descriptor has stored
nothing yet, no memory, tile or tensor does. -/
def VecLanes (i : Instr) (s : State) (u : VUnit) (v : VEngine) (f : RFields) (nops st : Nat)
    (one : Nat → VNum → VNum → VNum → VElem) : Prop :=
  let d := vdesc v.desc
  let ty := f.type.val
  let p := predR f
  let n := (coverage st ty f.half).1
  let sb := (coverage st ty f.half).2.1
  let db := (coverage st ty f.half).2.2
  let a := fun (e : Nat) => v.opA f st (sb + (e - db))
  let b := fun (e : Nat) => (⟨st, if 2 ≤ nops then v.elem st f.vb.val (sb + (e - db)) else 0⟩ : VNum)
  let c := fun (e : Nat) => (⟨ty, if 3 ≤ nops then v.elem ty f.vc.val e else 0⟩ : VNum)
  let covers := fun (e : Nat) => decide (db ≤ e) && decide (e < db + n)
  let ms := v.marksOf st f.va.val ++ (if 2 ≤ nops then v.marksOf st f.vb.val else []) ++
    (if 3 ≤ nops then v.marksOf ty f.vc.val else []) ++ v.predMarks p ++ v.keptMarks p (n == vCount ty) ty f.vd.val
  let clean := ∀ e, covers e = true → v.active p ty e = true →
    badW st (a e).code = false ∧ badW st (b e).code = false ∧ badW ty (c e).code = false
  (∀ m, clean → joinMarks d.owner ms = some m → Answers i s fun t =>
    VecWrites s t u v ty f.vd.val m
      (fun e => if covers e then vPick v p ty f.vd.val e (one e (a e) (b e) (c e)).code else v.elem ty f.vd.val e)
      (fun e => if covers e && v.active p ty e then (one e (a e) (b e) (c e)).flags else 0)) ∧
  (joinMarks d.owner ms = none → (s.policy 2).on = false → Answers i s fun t =>
    (∃ x, t.vengine? u = some x ∧ x.stopped = true ∧ x.isolation = true ∧ x.undo = [] ∧ x.regs = v.regs ∧ x.masks = v.masks) ∧
      t.mem = s.mem ∧
      ((∀ y ∈ s.vengines, y.isOp u.die (descStream v.desc) v.jobSeq v.opIndex = true → y.undo = []) →
        t.tiles = s.tiles ∧ t.tensors = s.tensors ∧ t.clusters = s.clusters ∧ t.programs = s.programs))

/-- The arithmetic and conversion instructions (R204 to R207, R213): each active element takes the result of its operation on the
elements at its place. Where the spec leaves a choice, this follows assumptions 44, 46, 81, the model's own. -/
def Obligations.VectorArithmetic : Prop :=
  ∀ (s : State) (u : VUnit) (f : RFields) (v : VEngine),
    (∀ (i : Instr) (opc : Nat) (fn : VFn),
      (i, opc, fn) ∈ [(Instr.vadd u f, 0x01, fnAdd), (.vsub u f, 0x02, fnSub), (.vmul u f, 0x03, fnMul), (.vfma u f, 0x04, fnFma),
        (.vmin u f, 0x05, fnMin), (.vmax u f, 0x06, fnMax), (.vabs u f, 0x07, fnAbs), (.vneg u f, 0x08, fnNeg),
        (.vdiv u f, 0x09, fnDiv), (.vsqrt u f, 0x0a, fnSqrt), (.vexp u f, 0x0b, fnExp), (.vdexp u f, 0x0c, fnDexp),
        (.vmuldiv u f, 0x0d, fnMulDiv)] →
      VecRuns s u (wordR opc f) v →
      VecLanes i s u v f fn.nops (srcType f) fun e a b c =>
        vElem fn (vdesc v.desc).strict (vdesc v.desc).inf f.type.val (v.mode (vdesc v.desc) f f.type.val e) a b c) ∧
    (VecRuns s u (wordR 0x20 f) v →
      VecLanes (.vcvt u f) s u v f 1 (srcType f) fun e a _ _ =>
        ⟨(vConvert (vdesc v.desc).inf f.type.val (v.mode (vdesc v.desc) f f.type.val e) a Counts.zero).1, 0, 0, none⟩)

/-- VCMP and the mask instructions write a mask; VSEL, VBCAST and the bit operations write a register, each element from the elements at
its place (R191, R203, R204). -/
def VectorMasksAndBits : Prop :=
  ∀ (s : State) (u : VUnit) (v : VEngine) (m : Mark),
    let d := vdesc v.desc
    (∀ f : RFields,
      let ty := f.type.val
      let p := predR f
      let md := maskNo f.vd.val
      let kept := if p.men && !p.zm then [v.maskMark md] else []
      let b := fun (e : Nat) => (⟨ty, v.elem ty f.vb.val e⟩ : VNum)
      let step := vMaskStep ty
      let bitA := fun (e : Nat) => v.maskBit (maskNo f.va.val) (step * e)
      let bitB := fun (e : Nat) => v.maskBit (maskNo f.vb.val) (step * e)
      let both := v.marksOf ty f.va.val ++ v.marksOf ty f.vb.val
      (VecRuns s u (wordR 0x10 f) v → joinMarks d.owner (both ++ v.predMarks p ++ kept) = some m →
        (∀ e, e < vCount ty → v.active p ty e = true → badW ty (v.opA f ty e).code = false ∧ badW ty (b e).code = false) →
        Answers (.vcmp u f) s fun t => VecMask s t u v p ty md f.va.val m (fun e => vCompare f.xf.val (v.opA f ty e) (b e)) fun e =>
          if d.strict ∧ ty ≤ 2 ∧ e < vCount ty ∧ v.active p ty e = true ∧ ((v.opA f ty e).signalling || (b e).signalling) then flagNV
          else 0) ∧
      (∀ (i : Instr) (opc : Nat) (op : Bool → Bool → Bool),
        (i, opc, op) ∈ [(Instr.mand u f, 0x11, fun a b => a && b), (.mor u f, 0x12, fun a b => a || b)] → VecRuns s u (wordR opc f) v →
        joinMarks d.owner ([v.maskMark (maskNo f.va.val), v.maskMark (maskNo f.vb.val)] ++ v.predMarks p ++ kept) = some m →
        Answers i s fun t => VecMask s t u v p ty md f.va.val m (fun e => op (bitA e) (bitB e)) fun _ => 0) ∧
      (VecRuns s u (wordR 0x13 f) v → joinMarks d.owner ([v.maskMark (maskNo f.va.val)] ++ v.predMarks p ++ kept) = some m →
        Answers (.mnot u f) s fun t => VecMask s t u v p ty md f.va.val m (fun e => !bitA e) fun _ => 0) ∧
      (VecRuns s u (wordR 0x15 f) v →
        joinMarks d.owner (both ++ [v.maskMark (maskNo f.vc.val)] ++ v.predMarks p ++ v.keptMarks p true ty f.vd.val) = some m →
        Answers (.vsel u f) s fun t => VecWrites s t u v ty f.vd.val m
          (fun e => vPick v p ty f.vd.val e
            (if v.maskBit (maskNo f.vc.val) (step * e) then (v.opA f ty e).code else v.elem ty f.vb.val e)) fun _ => 0) ∧
      (∀ (i : Instr) (opc : Nat) (op : Nat → Nat → Nat),
        let w := vElemBits ty
        (i, opc, op) ∈ [(Instr.vand u f, 0x18, fun a b => a &&& b), (.vor u f, 0x19, fun a b => a ||| b),
          (.vxor u f, 0x1a, fun a b => a ^^^ b), (.vshl u f, 0x1b, fun a b => a <<< (b % w)),
          (.vshr u f, 0x1c, fun a b => a >>> (b % w)),
          (.vsra u f, 0x1d, fun a b => unsigned w (signed w a / (2 ^ (b % w) : Nat)))] → VecRuns s u (wordR opc f) v →
        joinMarks d.owner (both ++ v.predMarks p ++ v.keptMarks p true ty f.vd.val) = some m →
        Answers i s fun t => VecWrites s t u v ty f.vd.val m
          (fun e => vPick v p ty f.vd.val e (op (v.opA f ty e).code (v.elem ty f.vb.val e) % 2 ^ w)) fun _ => 0)) ∧
    (∀ f : IFields,
      let ty := f.type.val
      let p := predI f
      let md := maskNo f.vd.val
      let x := f.imm.toNat
      (VecRuns s u (wordI 0x14 f) v → joinMarks d.owner (v.predMarks p ++ if p.men && !p.zm then [v.maskMark md] else []) = some m →
        Answers (.mrange u f) s fun t =>
          VecMask s t u v p ty md 0 m (fun e => decide (x % 2 ^ 16 ≤ e) && decide (e < x / 2 ^ 16)) fun _ => 0) ∧
      (VecRuns s u (wordI 0x16 f) v → joinMarks d.owner (v.predMarks p ++ v.keptMarks p true ty f.vd.val) = some m →
        Answers (.vbcast u f) s fun t => VecWrites s t u v ty f.vd.val m
          (fun e => vPick v p ty f.vd.val e
            (if ty = 3 then x + x * 2 ^ 32 else x / 2 ^ (vElemBits ty * e % 32) % 2 ^ vElemBits ty)) fun _ => 0))

/-- VRED, VSPLIT, VJOIN, VGETF (R208, R211, R213): a reduction leaves value, index and flags in the low lanes of VD, zero above; VSPLIT
writes BF16 weights and I8 remainders into two registers, VJOIN puts them together again; VGETF reads the sticky flags and clears them. -/
def VectorReductionsAndPlanes : Prop :=
  ∀ (s : State) (u : VUnit) (v : VEngine) (m : Mark) (f : RFields),
    let d := vdesc v.desc
    let ty := f.type.val
    let p := predR f
    let vd := f.vd.val
    let base := 128 * b2n f.half
    (VecRuns s u (wordR 0x21 f) v → joinMarks d.owner (v.marksOf ty f.va.val ++ v.predMarks p) = some m →
      let all := (List.range (vCount ty)).map fun j => (j, v.opA f ty j)
      let es := all.filter fun e => v.active p ty e.1
      (∀ e ∈ es, badW ty e.2.code = false) →
      let r := vReduce f.xf.val d.strict ty (v.mode d f ty 0) es
        (all.map fun e => if v.active p ty e.1 then some (⟨e.2.code, 0, false⟩ : VRes) else none)
      Answers (.vred u f) s fun t => ∃ x, t.vengine? u = some x ∧ VecGoesOn s t v x ∧
        x.reg vd = r.code % 2 ^ 32 + (r.index % 2 ^ 32) * 2 ^ 32 + (r.flags % 2 ^ 32) * 2 ^ 64 ∧
        (ty = 3 → x.reg (vd + 1) = r.code / 2 ^ 32 % 2 ^ 4096) ∧ x.regMark vd = m ∧
        (∀ k, k ≠ vd → ¬(ty = 3 ∧ k = vd + 1) → x.reg k = v.reg k) ∧ x.masks = v.masks ∧
        VecFlags v x vd fun j => if j = 0 then r.strict else 0) ∧
    (VecRuns s u (wordR 0x22 f) v → vd < 31 →
      joinMarks d.owner (v.marksOf 3 f.va.val ++ v.predMarks p ++ v.marksOf 2 vd ++ v.marksOf 6 (vd + 1)) = some m →
      (∀ e, e < 128 → v.active p 3 e = true → badW 3 (v.opA f 3 e).code = false) →
      let r := fun (e : Nat) => splitW (v.opA f 3 e).val Counts.zero
      let pick := fun (e old : Nat) (x : Nat) =>
        if base ≤ e ∧ e < base + 128 then (if v.active p 3 (e - base) then x else if p.zm then 0 else old) else old
      Answers (.vsplit u f) s fun t => ∃ x, t.vengine? u = some x ∧ VecGoesOn s t v x ∧
        (∀ e, e < 256 → x.elem 2 vd e = pick e (v.elem 2 vd e) (r (e - base)).1 % 2 ^ 16) ∧
        (∀ e, e < 512 → x.elem 6 (vd + 1) e = pick e (v.elem 6 (vd + 1) e) (r (e - base)).2.1 % 2 ^ 8) ∧
        x.regMark vd = m ∧ x.regMark (vd + 1) = m ∧ (∀ k, k ≠ vd → k ≠ vd + 1 → x.reg k = v.reg k) ∧ x.masks = v.masks ∧
        x.flags = v.flags) ∧
    (VecRuns s u (wordR 0x23 f) v →
      joinMarks d.owner (v.marksOf 2 f.va.val ++ v.marksOf 6 f.vb.val ++ v.predMarks p ++ v.keptMarks p true 3 vd) = some m →
      Answers (.vjoin u f) s fun t => VecWrites s t u v 3 vd m
        (fun e => vPick v p 3 vd e (afExact (joinWR (v.opA f 2 (base + e)).code (v.elem 6 f.vb.val (base + e))))) fun _ => 0) ∧
    (VecRuns s u (wordR 0x28 f) v →
      let n := vCount (srcType f)
      joinMarks d.owner (v.marksOf (srcType f) f.va.val ++ v.predMarks p ++ v.keptMarks p (n == 512) 6 vd) = some m →
      Answers (.vgetf u f) s fun t => ∃ x, t.vengine? u = some x ∧ VecGoesOn s t v x ∧
        (∀ e, e < 512 → x.elem 6 vd e =
          if e < n then vPick v p 6 vd e (v.flag f.va.val e).toNat else v.elem 6 vd e) ∧
        (∀ k e, x.flag k e = if k = f.va.val ∧ e < n ∧ v.active p 6 e = true then 0 else v.flag k e) ∧
        x.regMark vd = m ∧ (∀ k, k ≠ vd → x.reg k = v.reg k) ∧ x.masks = v.masks)

/-- Vector masks, bits, reductions and planes. Where the spec leaves a choice, this follows assumptions 44, 45, 46, 82, 83, 87,
the model's own. -/
def Obligations.VectorMasksAndReductions : Prop := VectorMasksAndBits ∧ VectorReductionsAndPlanes

/-- A place of a memory instruction whose `len` bytes may be used now: it lies in the row region or a tensor, and no earlier descriptor
of the stream that has not retired writes there (R200, R217). -/
def VecPlace (s : State) (v : VEngine) (n : Nat) (off : Int) (len : Nat) (p : VPlace) : Prop :=
  s.vPlace? v (vdesc v.desc) n off = some p ∧ s.vWaits v len p = false

/-- What stores leave (R102, R196): the engine goes on with its registers as they were, and everything but the place stored to is as
before; in the row region the bytes stored are there, and, where each unit keeps its glove slot, every other byte is unchanged. -/
def VecStores (s t : State) (u : VUnit) (v : VEngine) (p : VPlace) (m : Mark) (bs : List (Option Byte)) : Prop :=
  ∃ x, t.vengine? u = some x ∧ x.desc = v.desc ∧ x.regs = v.regs ∧ x.masks = v.masks ∧ x.regMarks = v.regMarks ∧
    x.flags = v.flags ∧ (x.pos, x.outer, x.inner) = (vdesc v.desc).next v.pos v.outer v.inner ∧
    { t with vengines := s.vengines, jobs := s.jobs, clusters := s.clusters, programs := s.programs, tensors := s.tensors } = s ∧
    (∀ a, p = .rows a → t.programs = s.programs ∧ t.tensors = s.tensors ∧
      (∀ e b, bs[e]? = some (some b) → a + e < rowsEnd → Mem.get (a + e) (t.cluster u.die u.cl).rowMem = b) ∧
      ((∀ k ∈ unitsWritten a (bs.take (rowsEnd - a)), ((s.cluster u.die u.cl).mark k).slot = m.slot) →
        ∀ k, (∀ e b, bs[e]? = some (some b) → a + e < rowsEnd → k ≠ a + e) →
          Mem.get k (t.cluster u.die u.cl).rowMem = Mem.get k (s.cluster u.die u.cl).rowMem)) ∧
    (∀ y off, p = .tensor y off → t.clusters = s.clusters ∧ t.programs = s.programs) ∧
    (∀ y off, p = .prog y off → t.clusters = s.clusters ∧ t.tensors = s.tensors)

/-- Loads and stores of whole registers and of tile rows (R115, R194, R196, R200, R204, R209): VLD and VLDB fill a register from bytes, VST
puts its active elements there, TLD reads a tile's row, with C the rounded sum of a pair, TST writes one. -/
def VectorLoadsAndStores : Prop :=
  ∀ (s : State) (u : VUnit) (v : VEngine) (m : Mark),
    let d := vdesc v.desc
    (∀ f : MFields,
      let ty := f.type.val
      let p := predM f
      (∀ q m0, VecRuns s u (wordM 0x30 f) v → VecPlace s v f.as.val (v.reach d (wordM 0x30 f)).1 (v.reach d (wordM 0x30 f)).2 q →
        let n := (v.reach d (wordM 0x30 f)).2
        let cs := codesOf (vSize ty) (vCount ty) (s.loadBytes v q n)
        s.loadMark v d q n = some m0 → joinMarks d.owner ([m0] ++ v.predMarks p ++ v.keptMarks p true ty f.vd.val) = some m →
        (∀ e, e < vCount ty → v.active p ty e = true → badW ty (cs.getD e 0) = false) →
        Answers (.vld u f) s fun t =>
          VecWrites s t u v ty f.vd.val m (fun e => vPick v p ty f.vd.val e (cs.getD e 0)) fun _ => 0) ∧
      (∀ q m0, VecRuns s u (wordM 0x32 f) v → VecPlace s v f.as.val (v.reach d (wordM 0x32 f)).1 (v.reach d (wordM 0x32 f)).2 q →
        let n := (v.reach d (wordM 0x32 f)).2
        let c := ofLe (s.loadBytes v q n)
        s.loadMark v d q n = some m0 → joinMarks d.owner ([m0] ++ v.predMarks p ++ v.keptMarks p true ty f.vd.val) = some m →
        (∀ e, e < vCount ty → v.active p ty e = true → badW ty c = false) → Answers (.vldb u f) s fun t =>
          VecWrites s t u v ty f.vd.val m (fun e => vPick v p ty f.vd.val e c) fun _ => 0) ∧
      (∀ q u', VecRuns s u (wordM 0x31 f) v →
        VecPlace s v f.as.val (v.reach d (wordM 0x31 f)).1 (vCount ty * vSize ty) q →
        joinMarks d.owner (v.marksOf ty f.va.val ++ v.predMarks p) = some m →
        (∀ e, e < vCount ty → v.active p ty e = true → badW ty (v.elem ty f.va.val e) = false) →
        let bs := (List.range (vCount ty)).flatMap fun e =>
          if v.active p ty e then (leBytes (vSize ty) (v.elem ty f.va.val e)).map some
          else List.replicate (vSize ty) (if p.zm then some 0 else none)
        s.storeBytes v d q m bs = some u' → Answers (.vst u f) s fun t => VecStores s t u v q m bs)) ∧
    (∀ f : TFields,
      let p := predT f
      let t0 := (v.tilePos d f).1
      let r := (v.tilePos d f).2
      (∀ x, VecRuns s u (wordT 0x38 f) v → f.c = false → s.tileBusy v f.eng [t0] = false → s.vTiles? v f.eng [t0] = some [x] →
        joinMarks d.owner ([x.rowMark r] ++ v.predMarks p ++ v.keptMarks p true 3 f.vd.val) = some m →
        Answers (.tld u f) s fun t => VecWrites s t u v 3 f.vd.val m (fun e => vPick v p 3 f.vd.val e (x.entry r e)) fun _ => 0) ∧
      (∀ x y m0, VecRuns s u (wordT 0x38 f) v → f.c = true → s.tileBusy v f.eng [t0, t0 + 1] = false →
        s.vTiles? v f.eng [t0, t0 + 1] = some [x, y] → joinMarks d.owner [x.rowMark r, y.rowMark r] = some m0 →
        joinMarks d.owner ([m0] ++ v.predMarks p ++ v.keptMarks p true 3 f.vd.val) = some m →
        Answers (.tld u f) s fun t => VecWrites s t u v 3 f.vd.val m
          (fun e => vPick v p 3 f.vd.val e (roundAF ((af (x.entry r e)).add (af (y.entry r e)))).1) fun _ => 0) ∧
      (∀ x k, VecRuns s u (wordT 0x39 f) v → s.tileBusy v f.eng [t0] = false → s.vTiles? v f.eng [t0] = some [x] →
        s.phys? (descStream v.desc) u.die u.cl f.eng t0 = some k →
        joinMarks d.owner (v.marksOf 3 f.va.val ++ v.predMarks p ++ if p.men && !p.zm then [x.rowMark r] else []) = some m →
        (∀ e, e < 128 → v.active p 3 e = true → badW 3 (v.elem 3 f.va.val e) = false) →
        Answers (.tst u f) s fun t =>
          (∀ c, c < 128 → (t.tile u.die u.cl f.eng k).entry r c =
            if v.active p 3 c then v.elem 3 f.va.val c else if p.zm then 0 else x.entry r c) ∧
          (∀ q c, q ≠ r → (t.tile u.die u.cl f.eng k).entry q c = x.entry q c) ∧
          (t.tile u.die u.cl f.eng k).rowMark r = m ∧ (t.tile u.die u.cl f.eng k).sat = x.sat ∧
          (∀ e c, e ≠ f.eng ∨ c ≠ k → t.tile u.die u.cl e c = s.tile u.die u.cl e c) ∧
          ∃ y, t.vengine? u = some y ∧ y.regs = v.regs ∧ y.masks = v.masks ∧
            { t with vengines := s.vengines, jobs := s.jobs, tiles := s.tiles } = s))

/-- The units of an allocation unit of the row region carry one glove slot (R102). -/
def SharesSlots (x : ClusterSt) : Prop :=
  ∀ i j, i / 64 = j / 64 → (x.mark i).slot = (x.mark j).slot

/-- The instructions of packed rows (R132, R145, R203, R210): VLDMX widens 128 elements of an MX row, VFBLD the next eight FB16 blocks;
beyond the row both give +0; VSTMX converts 128 elements into four blocks and writes the bytes of its active elements, VFBST 256 into FB16
blocks, an inactive element without ZM as the model's free value (assumption 85); each moves the stream's cursor on. -/
def VectorPackedRows : Prop :=
  ∀ (s : State) (u : VUnit) (v : VEngine) (f : MFields) (m : Mark), v.cursors.length = 8 → v.fbBytes.length = 8 →
    let d := vdesc v.desc
    let n := f.as.val
    let c := v.cursor n
    let p := predM f
    let moves := fun (t : State) (k b : Nat) => ∃ x, t.vengine? u = some x ∧
      (x.outer = v.outer → x.cursor n = c + k ∧ x.fbBytes.getD n 0 = v.fbBytes.getD n 0 + b)
    let fmt := f.xf.val + 5
    let packed := packedBytes fmt d.rowElems
    let o1 := c * elemBits fmt / 8
    let o2 := pad64 packed + c / 32
    (VecRuns s u (wordM 0x33 f) v →
      let off := (v.reach d (wordM 0x33 f)).1
      let cnt := min 128 (d.rowElems - c)
      (cnt = 0 → joinMarks d.owner ([Mark.neutral] ++ v.predMarks p ++ v.keptMarks p true 3 f.vd.val) = some m →
        Answers (.vldmx u f) s fun t =>
          VecWrites s t u v 3 f.vd.val m (fun e => vPick v p 3 f.vd.val e 0) (fun _ => 0) ∧ moves t 128 0) ∧
      (∀ p1 p2 m0, cnt ≠ 0 → VecPlace s v n (off + o1) (packedBytes fmt cnt) p1 → VecPlace s v n (off + o2) (cdiv cnt 32) p2 →
        s.loadMark v d p1 (packedBytes fmt cnt) = some m0 → s.loadMark v d p2 (cdiv cnt 32) = some m0 →
        joinMarks d.owner ([m0] ++ v.predMarks p ++ v.keptMarks p true 3 f.vd.val) = some m →
        let codes := ofLe (s.loadBytes v p1 (packedBytes fmt cnt))
        let scales := s.loadBytes v p2 (cdiv cnt 32)
        Answers (.vldmx u f) s fun t =>
          VecWrites s t u v 3 f.vd.val m (fun e => vPick v p 3 f.vd.val e
            (if e < cnt then afExact (mxVal fmt (codeAt fmt codes e) (scales.getD (e / 32) 0).toNat) else 0)) (fun _ => 0) ∧
          moves t 128 0)) ∧
    (VecRuns s u (wordM 0x34 f) v → c < d.rowElems →
      let ty := f.type.val
      let cnt := min 128 (d.rowElems - c)
      joinMarks d.owner (v.marksOf ty f.va.val ++ v.predMarks p) = some m →
      (∀ e, e < cnt → v.active p ty e = true → badW ty (v.elem ty f.va.val e) = false) → SharesSlots (s.cluster u.die u.cl) →
      let last := d.rowElems ≤ c + 128
      let n1 := packedBytes fmt cnt + if last then pad64 packed - packed else 0
      let n2 := cdiv cnt 32 + if last then pad64 (cdiv d.rowElems 32) - cdiv d.rowElems 32 else 0
      ∀ a b, VecPlace s v n ((v.reach d (wordM 0x34 f)).1 + o1) n1 (.rows a) →
        VecPlace s v n ((v.reach d (wordM 0x34 f)).1 + o2) n2 (.rows b) → a + n1 ≤ rowsEnd → b + n2 ≤ rowsEnd →
        let written := fun (e : Nat) => v.active p ty e = true ∨ p.zm = true
        let vals := ((v.elems ty f.va.val).take cnt).map fun e => VNum.val ⟨ty, e⟩
        let block := fun (q : Nat) =>
          let vs := (vals.drop (32 * q)).take 32
          mxBlock fmt d.inf p.zm (if d.sr then some d.seed else none) (fun i => v.iter d * 128 + 32 * q + i) vs
            (fun i => v.active p ty (32 * q + i)) ((s.claimedBytes v m (.rows b) (cdiv cnt 32)).getD q 0).toNat
            ((List.range vs.length).map fun i => codeAt fmt (ofLe (s.claimedBytes v m (.rows a) (packedBytes fmt cnt))) (32 * q + i))
            Counts.zero
        let row := packCodes fmt ((List.range (cdiv cnt 32)).flatMap fun q => (block q).codes)
        Answers (.vstmx u f) s fun t => moves t 128 0 ∧ t.programs = s.programs ∧ t.tensors = s.tensors ∧ t.tiles = s.tiles ∧
          t.mem = s.mem ∧ (∃ x, t.vengine? u = some x ∧ x.regs = v.regs ∧ x.masks = v.masks) ∧
          (∀ q i, i < 32 → 32 * q + i < cnt → written (32 * q + i) →
            Mem.get (b + q) (t.cluster u.die u.cl).rowMem = BitVec.ofNat 8 (block q).scale) ∧
          (∀ k e, k < packedBytes fmt cnt → e < cnt → written e → 8 * k < (e + 1) * elemBits fmt → e * elemBits fmt < 8 * k + 8 →
            Mem.get (a + k) (t.cluster u.die u.cl).rowMem = BitVec.ofNat 8 (row / 2 ^ (8 * k))) ∧
          (last → (∀ k, packedBytes fmt cnt ≤ k → k < n1 → Mem.get (a + k) (t.cluster u.die u.cl).rowMem = 0) ∧
            ∀ k, cdiv cnt 32 ≤ k → k < n2 → Mem.get (b + k) (t.cluster u.die u.cl).rowMem = 0)) ∧
    (VecRuns s u (wordM 0x35 f) v → ∀ p1 es k m0,
      VecPlace s v n ((v.reach d (wordM 0x35 f)).1 + (4 + v.fbBytes.getD n 0 : Nat)) k p1 →
      fbLoad 8 (d.rowElems - c) (s.loadBytes v p1 544) = some (es, k) → s.loadMark v d p1 k = some m0 →
      joinMarks d.owner ([m0] ++ v.predMarks p ++ v.keptMarks p true 2 f.vd.val) = some m →
      Answers (.vfbld u f) s fun t =>
        VecWrites s t u v 2 f.vd.val m (fun e => vPick v p 2 f.vd.val e (es.getD e 0)) (fun _ => 0) ∧ moves t 256 k) ∧
    (VecRuns s u (wordM 0x36 f) v → joinMarks d.owner (v.marksOf 2 f.va.val ++ v.predMarks p) = some m →
      let off := (v.reach d (wordM 0x36 f)).1
      let done := v.fbBytes.getD n 0
      let free := p.men && !p.zm
      let s1 : State := { s with freeCtr := s.freeCtr + if free then 1 else 0 }
      let held := fun (e : Nat) => if free then (Config.fbHeld s.freeCtr e).toNat else 0
      let els := ((List.range 256).map fun e => if v.active p 2 e then v.elem 2 f.va.val e else held e).take (d.rowElems - c)
      let bytes := (blocks32 8 els).flatMap (fbBytesOf (f.xf.val == 1))
      let total := done + bytes.length
      ∀ a, (c + 256 < d.rowElems → VecPlace s v n (off + (4 + done : Nat)) bytes.length (.rows a) →
          Answers (.vfbst u f) s fun t => VecStores s1 t u v (.rows a) m (bytes.map some) ∧ moves t 256 bytes.length) ∧
        (d.rowElems ≤ c + 256 →
          VecPlace s v n (off + (4 + done : Nat)) (bytes.length + (pad64 (4 + total) - (4 + total))) (.rows a) →
          ∀ h, VecPlace s v n off 4 (.rows h) → h + 4 ≤ rowsEnd → Answers (.vfbst u f) s fun t =>
          (t.cluster u.die u.cl).rowMem.num h 4 = total % 2 ^ 32 ∧ moves t 256 bytes.length ∧
            t.programs = s.programs ∧ t.tensors = s.tensors ∧ t.mem = s.mem))

/-- Vector loads and stores. Where the spec leaves a choice, this follows assumptions 43, 45, 46, 84, 85, the model's own. -/
def Obligations.VectorMemory : Prop := VectorLoadsAndStores ∧ VectorPackedRows

/-- Every vector instruction has one word and the word spells it again (R202, R204), on each engine and with every field at every value
that its class gives it; and an engine that does not stand at the word is not changed by it. -/
def Obligations.VectorWordsRoundTrip : Prop :=
  ∀ (i : Instr) (u : VUnit) (w : Word), vEncode i = some w → vUnitOf i = some u →
    vDecode u w = some i ∧ ∀ s : State, s.vReady u w = none → Answers i s fun t => t = s

/-! ## Attestation over SPDM -/

/-- SPDM (R391, R392, R394): every request is answered on its route by the responder that the route reaches, from slot 0 alone; a
request that meets no RoTP that runs waits; one whose route is not there changes nothing. Signatures and nonces are fresh,
whatever they are. Where the spec leaves a choice, this follows assumption 53, the model's own. -/
def Obligations.SpdmRequestsAreAnswered : Prop :=
  ∀ (s : State) (r : Route),
    let row := fun (i : Instr) (ask : SpdmAsk) (used : Nat) (f : Ct → SpdmAnswer) =>
      (s.reaches r = false → Answers i s fun t => t = s) ∧
      (s.reaches r = true → s.responder r = none → Answers i s fun t =>
        t = s.modRot fun x => { x with spdmHeld := x.spdmHeld ++ [(r, ask)] }) ∧
      (∀ ct, s.reaches r = true → s.responder r = some ct → Answers i s fun t =>
        t = ({ s with freeCtr := s.freeCtr + used } : State).modRot fun x => { x with spdmOut := x.spdmOut ++ [(r, f ct)] })
    let signed := fun (n : Nat) => leBytes 3309 (Config.signature n)
    row (.getVersion r) .version 0 (fun _ => .version 1 3) ∧
    row (.getCapabilities r) .capabilities 0 (fun _ => .capabilities true true true false false false) ∧
    row (.negotiateAlgorithms r) .algorithms 0 (fun _ => .algorithms "ML-DSA-65" "SHAKE256-64") ∧
    row (.getDigests r) .digests 0 (fun ct => .digests [(0, shake256 (s.chain ct) 64)]) ∧
    row (.getCertificate r 0) (.certificate 0) 0 (fun ct => .certificate 0 (s.chain ct)) ∧
    (∀ slot : BitVec 8, slot ≠ 0 → row (.getCertificate r slot) (.certificate slot) 0 fun _ => .unsupportedRequest 0x82) ∧
    (∀ nonce : BitVec 256, row (.challenge r nonce) (.challenge nonce) 1 fun _ =>
      .challengeAuth 0 (Config.random s.freeCtr) (signed s.freeCtr)) ∧
    (∀ code : BitVec 8, row (.spdmUnsupportedRequest r code) (.other code) 0 fun _ => .unsupportedRequest code.toNat) ∧
    (∀ (i : BitVec 8) (nonce : BitVec 256),
      let one := Instr.getMeasurements r i nonce
      let ask := SpdmAsk.measurements i nonce
      let report := fun (scope : Option Cab) => row one ask 2 fun ct =>
        .measurements i.toNat (s.reportBody ct nonce scope none ++ signed s.freeCtr) (Config.random (s.freeCtr + 1))
          (signed (s.freeCtr + 1))
      (1 ≤ i.toNat ∧ i.toNat ≤ 8 → row one ask 1 fun ct =>
        .measurements i.toNat (bytes512 ((((s.ct ct).running[i.toNat]?).map StageMeas.meas).getD 0)) (Config.random s.freeCtr)
          (signed s.freeCtr)) ∧
      (i = 0xf0 → report none) ∧
      (i = 0xf1 → (∀ c, s.routeCab r = some c → report (some c)) ∧
        (s.routeCab r = none → row one ask 0 fun _ => .unsupportedRequest 0xe0)) ∧
      (i = 0 ∨ (8 < i.toNat ∧ i ≠ 0xf0 ∧ i ≠ 0xf1) → row one ask 0 fun _ => .unsupportedRequest 0xe0))

/-! ## Faults and telemetry -/

/-- The state after the routes of a report that name no owner: an entry of R446 in the log of each control die that serves, and the
report in the management controller's log where an entry is new. -/
def reported (s : State) (r : Report) : State :=
  let e := reportEntry r s.now 0xff 0
  let take := fun (x : CtDie) => x.logOne e s.stamp s.now (r.severity == 0)
  let one := fun (u : State) (c : Ct) => if s.ctServes c then u.modCt c fun x => (take x).1 else u
  let news := [(0 : Ct), 1].any fun c => s.ctServes c && (take (s.ct c)).2
  let u := one (one s 0) 1
  if news then u.modPower fun p =>
    { p with mcLog := p.mcLog ++ [[r.cls, r.severity.val, r.block.val, r.unit.val, r.die.val, s.now]] }
  else u

/-- No standing policy acts on a report. -/
def PoliciesOff (s : State) : Prop := (s.policy 1).on = false ∧ (s.policy 2).on = false ∧ (s.policy 6).on = false

/-- A report has gone every route and nothing else: equal but for the reports that the policies count, and for the event that a
report above CORRECTED posts. -/
def Reported (s : State) (r : Report) (t : State) : Prop :=
  let t' : State := { t with cp := { t.cp with history := s.cp.history } }
  (r.severity = 0 → t' = reported s r) ∧ t'.quiet = (reported s r).quiet

/-- What a log takes (R446, R447): a report of a severity above CORRECTED is a new entry, with the next ENTRY_SEQ in it, and the log
keeps the newest 4,096; a CORRECTED one may only raise REPEAT of an entry less than a second old of the same place. -/
def LogTakesReports : Prop :=
  ∀ (x : CtDie) (e : LogEntry) (stamp : Nat → Nat) (now : Nat), x.log.length ≤ 4096 →
    let y := fun (c : Bool) => (x.logOne e stamp now c).1
    let e' := updAt 0 (fun w => w + word x.logSeq.toNat) e
    (x.log.length < 4096 → (y false).log = x.log ++ [e']) ∧ (x.log.length = 4096 → (y false).log = x.log.drop 1 ++ [e']) ∧
      (y false).logSeq = x.logSeq + 1 ∧ (y false).logWritten = min (2 ^ 32 - 1) (x.logWritten + 1) ∧
      ((∀ z ∈ x.log, foldsInto e z stamp now = false) → y true = y false) ∧
      ((∃ z ∈ x.log, foldsInto e z stamp now = true) → (y true).logSeq = x.logSeq ∧ (y true).log.length = x.log.length ∧
        ∀ k, k < x.log.length → (y true).log[k]? = x.log[k]? ∨ (y true).log[k]? = (x.log[k]?).map bumpRepeat) ∧
      (∀ c, (y c).log.length ≤ 4096 ∧
        { y c with log := x.log, logSeq := x.logSeq, logWritten := x.logWritten, logOverwritten := x.logOverwritten } = x)

/-- FAULT_REPORT, LINK, THERMAL_WARN, THERMAL_WARN_REPEAT (R445, R446, R451, R456): a report that touched nobody's work, and on which
no policy acts, is logged and nothing else changes; a sensor that warns is remembered. Without a command processor, of the
classes that the command processor itself reports, and of a link that the module does not have, nothing happens: the model's choice
(assumptions 47 and 76). -/
def FaultReportsAreLogged : Prop :=
  (∀ (s : State) (r : Report),
    let i := Instr.faultReport r
    let own := r.cls = 13 ∨ r.cls = 15 ∨ r.cls = 21 ∨ r.cls = 22 ∨ r.cls = 0 ∨ 22 < r.cls
    (s.cpRuns = false ∨ own → Answers i s fun t => t = s) ∧
    (s.cpRuns = true → ¬own → r.touched = [] → PoliciesOff s →
      Answers i s (Reported s { r with severity := severityOf r.cls r.severity }))) ∧
  (∀ (s : State) (block : Fin 16) (unit : Fin 64) (n : BitVec 32) (down : Bool),
    let i := Instr.linkEvent block unit n down
    let r : Report := { cls := Cls.link, severity := if down then 2 else 0, block := block, unit := unit, die := 0, cab := none,
                        d2 := word (n.toNat <<< 32), d3 := 0, touched := [] }
    (s.cpRuns = false ∨ isLink block unit = false → Answers i s fun t => t = s) ∧
    (s.cpRuns = true → isLink block unit = true → PoliciesOff s → Answers i s (Reported s r))) ∧
  (∀ (s : State) (x : Sensor),
    let r : Report := { cls := Cls.thermalWarn, severity := 0, block := x.block, unit := x.unit, die := x.die, cab := none,
                        d2 := word (x.sensor.toNat <<< 56), d3 := 0, touched := [] }
    let warm : State := s.modCp fun c => { c with warm := if x ∈ c.warm then c.warm else c.warm ++ [x] }
    (s.cpRuns = false → (Answers (.thermalWarn x) s fun t => t = s) ∧ Answers (.thermalWarnRepeat x) s fun t => t = s) ∧
    (s.cpRuns = true → PoliciesOff s → Answers (.thermalWarn x) s (Reported warm r)) ∧
    (s.cpRuns = true → x ∉ s.cp.warm → Answers (.thermalWarnRepeat x) s fun t => t = s) ∧
    (s.cpRuns = true → x ∈ s.cp.warm → PoliciesOff s → Answers (.thermalWarnRepeat x) s (Reported s r)))

/-- The error log takes reports. Where the spec leaves a choice, this follows assumptions 47, 48, the model's own. -/
def Obligations.ReportsAreLogged : Prop := LogTakesReports ∧ FaultReportsAreLogged

/-- THERMAL_TRIP (R456, R472): of a control die's own sensor the whole module loses power and stays off until the input has fallen
and risen; of any other sensor the data plane does: nothing on it is in service, its memories are gone, every request, job and
session has ended, THERM_TRIP_N is low, and the command processor goes on. Where the spec leaves a choice, this follows
assumption 60, the model's own. -/
def Obligations.ThermalTripStops : Prop :=
  ∀ (s : State) (x : Sensor),
    let i := Instr.thermalTrip x
    (x.block = 10 → s.power.pwrOk = false → Answers i s fun t => t = s) ∧
    (x.block = 10 → s.power.pwrOk = true → Answers i s fun t =>
      t.power.pwrOk = false ∧ t.power.dataRails = false ∧ t.power.thermTripN = false ∧ t.power.lockedOff = true ∧
        t.power.started = false ∧ t.mem = [] ∧ t.pages = [] ∧ t.streams = [Stream.module] ∧ t.rot.gloves = []) ∧
    (x.block ≠ 10 → s.power.dataRails = false → Answers i s fun t => t = s) ∧
    (x.block ≠ 10 → s.power.dataRails = true → Answers i s fun t =>
      t.cp.tripped = true ∧ t.power.dataRails = false ∧ t.power.thermTripN = false ∧ t.power.throttle = 0 ∧
        t.power.started = s.power.started ∧ t.power.pwrOk = s.power.pwrOk ∧ t.cp.active = s.cp.active ∧
        (∀ d ∈ t.dies, d.inService = false) ∧ (∀ h ∈ t.hbm, h.inService = false) ∧ (∀ e ∈ t.edges, e.inService = false) ∧
        t.mem = [] ∧ t.pages = [] ∧ t.tiles = [] ∧ t.tensors = [] ∧ t.programs = [] ∧ t.flights = [] ∧ t.fetches = [] ∧
        t.jobs = [] ∧ t.rot.sessions = [] ∧ (s.idsUnique → ∀ q ∈ t.requests, 3 ≤ q.state.val) ∧
        (∀ r ∈ t.reductions, r.state ≠ 0) ∧ (∀ c ∈ t.cabs, c.state.val ≠ 2 ∧ c.state.val ≠ 4 ∧ c.state.val ≠ 5))

/-- POWER_WINDOW, TEMPERATURE_WINDOW, COUNTER_SAMPLE (R396): a window that ends on its boundary of module time replaces the figures
that TELEMETRY_READ answers, coarsened: power in units of 50 W, whole degrees, counters in multiples of 1,024. -/
def TelemetryIsCoarse : Prop :=
  ∀ (s : State) (now module : Nat) (cabs : List Nat) (temps : List Int),
    (now % 100000000 ≠ 0 → Answers (.powerWindow now module cabs) s fun t => t = s) ∧
    (now % 1000000000 ≠ 0 → (Answers (.temperatureWindow now temps) s fun t => t = s) ∧
      Answers (.counterSample now) s fun t => t = s) ∧
    (now % 100000000 = 0 → Answers (.powerWindow now module cabs) s fun t =>
      t.telem.powerTime = now ∧ (module < 3276725000 → t.telem.modulePower = (module + 25000) / 50000) ∧
        t.telem.cabPower.length = 16 ∧
        (∀ c, c < 16 → cabs.getD c 0 < 3276725000 → t.telem.cabPower.getD c 0 = (cabs.getD c 0 + 25000) / 50000) ∧
        { t with telem := s.telem } = s ∧ t.telem.temps = s.telem.temps ∧ t.telem.counts = s.telem.counts) ∧
    (now % 1000000000 = 0 → Answers (.temperatureWindow now temps) s fun t =>
      t.telem.tempTime = now ∧ t.telem.temps.length = 24 ∧
        (∀ k, k < 24 → 0 ≤ temps.getD k 0 → temps.getD k 0 < 255500 → (t.telem.temps.getD k 0 : Int) = (temps.getD k 0 + 500) / 1000) ∧
        { t with telem := s.telem } = s ∧ t.telem.modulePower = s.telem.modulePower ∧ t.telem.counts = s.telem.counts) ∧
    (now % 1000000000 = 0 → Answers (.counterSample now) s fun t =>
      t.telem.countTime = now ∧ { t with telem := s.telem } = s ∧ t.telem.temps = s.telem.temps ∧
        t.telem.modulePower = s.telem.modulePower ∧ t.telem.counts.length = s.cabs.length ∧
        ∀ (k : Nat) (x : Cabinet), s.cabs[k]? = some x → ∃ l : List Nat, t.telem.counts[k]? = some l ∧ l.length = 6 ∧ (∀ n ∈ l, n % 1024 = 0) ∧
          (∀ (j v : Nat), [x.counters.passes, x.counters.rows, x.counters.tokens, x.counters.done, x.counters.fetches,
            x.counters.steps][j]? = some v → ∃ n, l[j]? = some n ∧ n ≤ v ∧ v < n + 1024))

/-! ## Power, clocks, start-up -/

/-- The power controller (R468, R469, R470): the throttle level moves by one step in a millisecond, up where the mean is above the
limit in effect, down where it is below 97 % of it; POWER is reported at level 48 held, and by a blade, which limits the module to
5,500 W until both blades are in rating. -/
def PowerIsLimited : Prop :=
  (∀ p : Power, (true ∈ p.bladeFault → p.effective = min p.limit 5500) ∧ (true ∉ p.bladeFault → p.effective = p.limit)) ∧
  (∀ (s : State) (mean : Nat),
    let limit := s.power.effective * 1000
    let level := fun (n : Nat) => Answers (.throttleStep mean) s fun t => t = s.modPower fun p => { p with throttle := n }
    (s.power.dataRails = false → Answers (.throttleStep mean) s fun t => t = s) ∧
    (s.power.dataRails = true →
      (limit < mean → level (min 48 (s.power.throttle + 1))) ∧
      (mean ≤ limit → 97 * limit ≤ mean * 100 → level s.power.throttle) ∧
      (mean * 100 < 97 * limit → level (s.power.throttle - 1)))) ∧
  (∀ s : State,
    let r := fun (blade : Nat) => ({ cls := Cls.power, severity := 2, block := 14, unit := 0, die := 0, cab := none,
                                     d2 := word (blade <<< 56), d3 := 0, touched := [] } : Report)
    (s.power.throttle ≠ 48 → Answers .throttleHeld s fun t => t = s) ∧
    (s.power.throttle = 48 → Answers .throttleHeld s fun t => t.quiet = (reported s (r 0)).quiet) ∧
    (∀ b : Fin 2,
      (s.power.inputOn = false ∨ s.power.pwrOk = false → Answers (.powerFault b) s fun t => t = s) ∧
      (s.power.inputOn = true → s.power.pwrOk = true → Answers (.powerFault b) s fun t =>
        t.quiet = (reported (s.modPower fun p => { p with bladeFault := updAt b.val (fun _ => true) p.bladeFault }) (r b.val)).quiet)) ∧
    Answers .bladeInRating s fun t => t = s.modPower fun p => { p with bladeFault := [false, false] })

/-- The settings that the management controller writes (R372, R437, R470): POWER_LIMIT between 4,000 and 10,000 W in steps of 50,
the preferred control die, START_LIMIT, the operator's key in both control dies for the next start. -/
def ManagementSettings : Prop :=
  ∀ s : State,
    (∀ watts, (4000 ≤ watts ∧ watts ≤ 10000 ∧ watts % 50 = 0 → Answers (.powerLimitWatts watts) s fun t =>
        t = s.modPower fun p => { p with limit := watts }) ∧
      (¬(4000 ≤ watts ∧ watts ≤ 10000 ∧ watts % 50 = 0) → Answers (.powerLimitWatts watts) s fun t => t = s)) ∧
    (∀ ct, Answers (.activePreference ct) s fun t => t = s.modPower fun p => { p with preferred := ct }) ∧
    (∀ n, Answers (.startLimitSeconds n) s fun t => t = s.modPower fun p => { p with startLimit := n }) ∧
    (∀ k, Answers (.operatorKeyId k) s fun t => (∀ x ∈ t.cts, x.opKeyNext = k) ∧ t.cts.length = s.cts.length ∧
      (∀ (n : Nat) (x : CtDie), s.cts[n]? = some x → ∃ y : CtDie, t.cts[n]? = some y ∧ { y with opKeyNext := x.opKeyNext } = x) ∧ { t with cts := s.cts } = s)

/-- Power and temperature are measured, reported coarsely and limited. Where the spec leaves a choice, this follows assumptions
57, 61, the model's own. -/
def Obligations.PowerIsMeasuredAndLimited : Prop := TelemetryIsCoarse ∧ PowerIsLimited ∧ ManagementSettings

/-- Input power and MOD_RESET_N (R439, R468, R471, R472, R475): turn-on raises PWR_OK; loss of the input, and MOD_RESET_N low,
leave nothing but boot flash, fuses, the catalog cache and the management controller's settings; without a reference clock the
module does not start. -/
def PowerAndReset : Prop :=
  ∀ s : State,
    let kept := fun (t : State) =>
      t.mem = [] ∧ t.pages = [] ∧ t.rot.gloves = [] ∧ t.rot.sessions = [] ∧ t.rot.tenants = [] ∧ t.runs = [] ∧ t.jobs = [] ∧
        t.requests = [] ∧ t.streams = [Stream.module] ∧ t.power.started = false ∧ t.power.dataRails = false ∧
        (∀ d ∈ t.dies, d.inService = false) ∧ t.power.limit = s.power.limit ∧ t.power.preferred = s.power.preferred ∧
        t.power.startLimit = s.power.startLimit ∧ t.rot.bootCount = s.rot.bootCount ∧ t.cts.length = s.cts.length ∧
        ∀ (n : Nat) (x : CtDie), s.cts[n]? = some x → ∃ y : CtDie, t.cts[n]? = some y ∧ y.side = 2 ∧ y.mem = [] ∧ y.log = [] ∧ y.fuses = x.fuses ∧
          y.catalog = x.catalog ∧ y.curSlot = x.curSlot ∧ y.pendingImgs = x.pendingImgs ∧ y.svnMin = x.svnMin ∧
          y.opKeyNext = x.opKeyNext
    (s.power.inputOn = true ∨ s.power.lockedOff = true → Answers .inputTurnOn s fun t => t = s) ∧
    (s.power.inputOn = false → s.power.lockedOff = false → Answers .inputTurnOn s fun t =>
      t = s.modPower fun p => { p with inputOn := true, pwrOk := true }) ∧
    (Answers .inputTurnOff s fun t => kept t ∧ t.power.inputOn = false ∧ t.power.pwrOk = false ∧ t.power.lockedOff = false) ∧
    (Answers .overvoltage s fun t => kept t ∧ t.power.inputOn = false ∧ t.power.pwrOk = false ∧ t.power.lockedOff = true) ∧
    (s.power.pwrOk = false → Answers .modResetNAssert s fun t => t = s.modPower fun p => { p with resetLow := true }) ∧
    (s.power.pwrOk = true → Answers .modResetNAssert s fun t => kept t ∧ t.power.resetLow = true ∧ t.power.pwrOk = true ∧
      t.power.thermTripN = true ∧ t.power.inputOn = s.power.inputOn) ∧
    (∀ f : StartFacts,
      (s.power.pwrOk = false ∨ s.power.resetLow = false → Answers (.modResetNRelease f) s fun t => t = s) ∧
      (s.power.pwrOk = true → s.power.resetLow = true → f.clock = none → Answers (.modResetNRelease f) s fun t =>
        t = s.modPower fun p => { p with resetLow := false }))

/-- A full start (R436, R437, R475): rails, clock and glove table come up, BOOT_COUNT counts it; the preferred control die is active
where it is ready, the other where the preferred one is in recovery; the die that is not chosen and stands ready is the standby. A die of
which an image is refused (R369) is in recovery. -/
def ModuleStarts : Prop :=
  ∀ (s : State) (f : StartFacts) (clock : Fin 2), s.power.pwrOk = true → s.power.resetLow = true → f.clock = some clock →
    Answers (.modResetNRelease f) s fun t =>
      let p := s.power.preferred
      let o := otherCt p
      let failed := fun (c : Ct) => c ∈ f.recovery ∨ ∃ i ∈ (assocGet c f.images).getD [], (s.ct c).accepts i = false
      let ready := fun (c : Ct) => ¬failed c ∧ c ∉ f.slow
      t.power.started = true ∧ t.power.dataRails = true ∧ t.power.resetLow = false ∧ t.power.refclk = clock ∧
        t.power.thermTripN = true ∧ t.rot.bootCount = s.rot.bootCount + 1 ∧ t.dies.length = 16 ∧ t.hbm.length = 32 ∧
        t.edges.length = 4 ∧ t.mem = [] ∧ t.rot.tenants = [] ∧
        (∀ c, failed c → t.side c = 6) ∧
        (ready p → t.cp.active = p ∧ t.side p = 0 ∧ (ready o → t.side o = 1)) ∧
        (failed p → ready o → t.cp.active = o ∧ t.side o = 0 ∧ t.power.choice = some o) ∧
        (¬failed p → p ∈ f.slow → t.side p = 2 ∧ (ready o → t.side o = 2)) ∧
        (∀ c, (t.ct c).fusesLocked = true)

/-- Input power, reset and the full start. Where the spec leaves a choice, this follows assumptions 5, 61, 73, the model's own. -/
def Obligations.ModuleIsPoweredAndStarted : Prop := PowerAndReset ∧ ModuleStarts

/-- START_LIMIT, and reset and power of one control die (R437, R439, R492): a slow preferred die is passed over; the active die in
reset reads RESETTING; another reads OFF without power, and comes back as the standby, or in recovery; the SPDM requests that waited
are then put again (R394), and nothing else changes. -/
def ControlDiesRestart : Prop :=
  let comesBack := fun (s t : State) => ∃ u : State, { u with cts := s.cts } = s ∧ t = u.answerHeld
  (∀ s : State,
    let p := s.power.preferred
    let o := otherCt p
    let due := s.power.started = true ∧ (s.ct p).reached8 = false ∧ (s.ct o).reached8 = true ∧ s.side o = 2 ∧ s.side p ≠ 0
    (¬due → Answers .startLimit s fun t => t = s) ∧
    (due → s.cts.length = 2 → Answers .startLimit s fun t =>
      t.cp.active = o ∧ t.side o = 0 ∧ t.side p = s.side p ∧ t.power.choice = some o)) ∧
  (∀ (s : State) (ct : Ct) (recovers : Bool), s.cts.length = 2 →
    let i := Instr.controlDieReset ct recovers
    let up := s.side s.cp.active = 0 ∧ s.cp.active ≠ ct
    (s.power.started = false ∨ (s.ct ct).poweredDown = true → Answers i s fun t => t = s) ∧
    (s.power.started = true → (s.ct ct).poweredDown = false →
      (s.side ct = 0 → Answers i s fun t => t = s.modCt ct fun x => { x.kept with side := 3 }) ∧
      (s.side ct ≠ 0 → Answers i s fun t =>
        t.side ct = (if recovers then (if up then 1 else 2) else 6) ∧ (t.ct ct).log = [] ∧ t.side (otherCt ct) = s.side (otherCt ct) ∧
          (t.ct ct).catalog = (s.ct ct).catalog ∧ t.cp.active = s.cp.active ∧
          (s.side ct ≠ 1 → s.cp.takingOver ≠ some ct → comesBack s t)))) ∧
  (∀ (s : State) (ct : Ct) (on : Bool), s.cts.length = 2 →
    let i := Instr.controlDiePower ct on
    (s.power.started = false ∨ (on = true ∧ (s.ct ct).poweredDown = false) ∨
      (on = false ∧ (ct = s.cp.active ∨ (s.ct ct).poweredDown = true)) → Answers i s fun t => t = s) ∧
    (s.power.started = true → on = false → ct ≠ s.cp.active → (s.ct ct).poweredDown = false → Answers i s fun t =>
      t.side ct = 4 ∧ (t.ct ct).poweredDown = true ∧ t.cp.active = s.cp.active ∧ t.hasStandby = false) ∧
    (s.power.started = true → on = true → (s.ct ct).poweredDown = true → Answers i s fun t =>
      (t.ct ct).poweredDown = false ∧ t.side ct = (if s.side s.cp.active = 0 ∧ s.cp.active ≠ ct then 1 else 2) ∧
        comesBack s t))

/-- UPDATE_SERVICE (R369, R373, R374): eight images that all verify under the key that their stage requires, none below its stage's
minimum, are pending from then on and STATE reads UPDATING; any other set leaves none pending. -/
def FirmwareIsStaged : Prop :=
  ∀ (s : State) (ct : Ct) (l : List BootImage),
    let i := Instr.updateService ct l
    let good := l.length = 8 ∧ (∀ n, n < 8 → (l.filter fun x => x.stage == n + 1).length = 1) ∧
      ∀ x ∈ l, x.verified = true ∧ x.keyId = (s.ct ct).requiredKey x.stage ∧ ((s.ct ct).svnMin.getD x.stage 0).toNat ≤ x.svn.toNat
    (s.power.started = false ∨ s.ctLives ct = false → Answers i s fun t => t = s) ∧
    (s.power.started = true → s.ctLives ct = true → s.cts.length = 2 →
      (good → Answers i s fun t => t = (s.modCt ct fun y => { y with pendingImgs := l }).modRot fun r =>
        { r with transition := if r.transition = 2 then 2 else 1, pendingCt := ct }) ∧
      (¬good → Answers i s fun t => (t.ct ct).pendingImgs = [] ∧ (t.ct ct).running = (s.ct ct).running ∧ t.dies = s.dies ∧
        t.mem = s.mem ∧ (s.rot.transition ≠ 2 → (s.ct (otherCt ct)).pendingImgs = [] → t.rot.transition = 0)))

/-- Control dies restart and firmware is staged. Where the spec leaves a choice, this follows assumptions 62, 63, the model's own. -/
def Obligations.ControlDiesAndFirmware : Prop := ControlDiesRestart ∧ FirmwareIsStaged

/-- Clocks (R475, R477, R478, R493): a lost REFCLK0 hands over to REFCLK1; the first lock to the grandmaster steps module time
forward, never back; holdover leaves it running. Where the spec leaves a choice, this follows assumption 64, the model's own. -/
def Obligations.ClocksAndTime : Prop :=
  ∀ s : State,
    (s.power.started = false ∨ s.power.refclk ≠ 0 → ∀ l, Answers (.refclkSwitch l) s fun t => t = s) ∧
    (s.power.started = true → s.power.refclk = 0 → Answers (.refclkSwitch []) s fun t =>
      t = s.modPower fun p => { p with refclk := 1 }) ∧
    (∀ l, s.power.started = true → s.power.refclk = 0 → Answers (.refclkSwitch l) s fun t =>
      t.power.refclk = 1 ∧ t.mem = s.mem ∧ t.dies = s.dies ∧ t.edges = s.edges ∧ t.now = s.now) ∧
    (s.power.started = false → (Answers .ppsIn s fun t => t = s) ∧ ∀ g, Answers (.ptpLock g) s fun t => t = s) ∧
    (s.power.started = true → Answers .ppsIn s fun t => t = s.modPower fun p => { p with ppsSeen := true }) ∧
    (s.power.ptp ≠ 1 → Answers .holdover s fun t => t = s) ∧
    (s.power.ptp = 1 → Answers .holdover s fun t => t = s.modPower fun p => { p with ptp := 2 }) ∧
    (∀ g : Word, s.power.started = true →
      (s.power.ptp ≠ 0 → Answers (.ptpLock g) s fun t => t = s.modPower fun p => { p with ptp := 1 }) ∧
      (s.power.ptp = 0 → Answers (.ptpLock g) s fun t => t.power.ptp = 1 ∧ t.now = max s.now g.toNat ∧
        (s.now < g.toNat → t.power.stepTo = g.toNat ∧ t.power.stepBy = g.toNat - s.now) ∧
        (g.toNat ≤ s.now → t.power.stepTo = 0 ∧ t.power.stepBy = 0 ∧ { t with power := s.power } = s) ∧
        (∀ x ∈ t.cp.timers, x.armed = true → g.toNat ≤ x.due ∨ g.toNat ≤ s.now)))

/-! ## Edge ports and sessions -/

/-- A descriptor of a ring goes back to the operator (R486, R487): its second word is written, the ring moves on, and its interrupt
source rises where the ring asks for it. -/
def ringBack (s : State) (e : Edge) (k : Nat) (g : ERing) (w : Word) : State :=
  (s.writeCtl (g.base + 16 * g.nextDesc + 8) (leBytes 8 w.toNat)).modEdge e fun x =>
    { x with rings := updAt k (fun r => { r with nextDesc := (r.nextDesc + 1) % r.count }) x.rings,
             ringIrqs := if g.irq = true ∧ k ∉ x.ringIrqs then x.ringIrqs ++ [k] else x.ringIrqs }

/-- FRAME_RECEIVE (R479, R480, R486, R487): what a port receives is counted; a PAUSE, a long frame, a session datagram with a bad sum
or FCS is discarded; any other frame goes into the receive ring of its hash, if that has a descriptor with room, and its bytes stand in
control memory; a record of an open session waits for its own command. -/
def FramesAreReceived : Prop :=
  ∀ (s : State) (e : Edge) (f : Frame),
    let i := Instr.frameReceive e f
    let up := (s.edge e).inService = true ∧ (s.edge e).linkUp = true
    let rx : State := s.modEdge e fun x => { x with rxFrames := x.rxFrames + 1 }
    let drop : State := s.modEdge e fun x => { x with rxFrames := x.rxFrames + 1, discarded := x.discarded + 1 }
    let noRoom : State := s.modEdge e fun x => { x with rxFrames := x.rxFrames + 1, rxNoDesc := x.rxNoDesc + 1 }
    let ours := f.udp = true ∧ f.dstPort.toNat = 28442 ∧
      ∃ x ∈ (s.edge e).addrs, x.enable = true ∧ x.v6 = f.v6 ∧ x.addr = f.dst ∧ x.vlan = f.vlan
    let fits := f.bytes ≤ 9216 ∧ f.pause = false
    let ends := fun (u : State) => Answers i s fun t => t = u
    (¬up → ends s) ∧ (up → ¬fits → ends drop) ∧
    (up → fits → ours →
      let w := fun (k : Nat) => word (ofLe ((f.datagram.drop (8 * k)).take 8))
      let type := bits (w 0) 55 48
      let len := bits (w 0) 47 35
      let head := f.sumsOk = true ∧ f.fcsOk = true ∧ 16 ≤ f.datagram.length ∧ bits (w 0) 63 56 = 1 ∧ bits (w 0) 34 16 = 0
      (¬head ∨ ¬(type = 1 ∨ type = 2 ∨ type = 0x10 ∨ type = 0x11 ∨ type = 0x12) → ends drop) ∧
      (head → type = 0x10 ∨ type = 0x11 ∨ type = 0x12 →
        (bits (w 0) 15 0 = 0 ∧ len / 2048 = e.val ∧ (s.session? len).isSome = true → ends rx) ∧
        (¬(bits (w 0) 15 0 = 0 ∧ len / 2048 = e.val ∧ (s.session? len).isSome = true) → ends drop)) ∧
      (head → type = 1 ∨ type = 2 → len ≠ 0 ∨ bits (w 1) 31 0 ≠ 0 → ends drop) ∧
      (head → type = 1 ∨ type = 2 → len = 0 → bits (w 1) 31 0 = 0 →
        let id : BitVec 32 := BitVec.ofNat 32 (bits (w 1) 63 32)
        let n := bits (w 0) 7 0 + 1
        (n ≤ bits (w 0) 15 8 → ends drop) ∧ (n = 1 → bits (w 0) 15 8 = 0 → ends rx) ∧
        (1 < n → bits (w 0) 15 8 < n →
          let held := (s.edge e).frags.find? fun x => x.msgId == id
          (held = none → ends (rx.modEdge e fun y =>
            { y with frags := y.frags ++ [{ msgId := id, total := n, got := [bits (w 0) 15 8] }] })) ∧
          (∀ x, held = some x → x.total ≠ n → ends drop) ∧
          (∀ x, held = some x → x.total = n →
            let got := if bits (w 0) 15 8 ∈ x.got then x.got else x.got ++ [bits (w 0) 15 8]
            let others := fun (y : EdgeSt) => y.frags.filter fun z => z.msgId != id
            (got.length = n → ends (rx.modEdge e fun y => { y with frags := others y })) ∧
            (got.length ≠ n → ends (rx.modEdge e fun y => { y with frags := others y ++ [{ x with got := got }] })))))) ∧
    (up → fits → ¬ours →
      let k := f.hash.toNat % 8
      let n := f.content.length
      (s.ring? e k = none → ends (if f.fcsOk then noRoom else drop)) ∧
      (∀ g, s.ring? e k = some g →
        let d := s.ringDesc g g.nextDesc
        let room := bitAt d.2 47 = true ∧ n ≤ bits d.2 63 48 ∧ d.1.toNat % 64 = 0 ∧ d.1.toNat + n ≤ 0x2000000000
        (f.fcsOk = false → g.copyBad = false → ends drop) ∧
        (f.fcsOk = true ∨ g.copyBad = true → ¬room → ends noRoom) ∧
        (f.fcsOk = true ∨ g.copyBad = true → room → ends (ringBack (rx.writeCtl d.1.toNat f.content) e k g
          (word (n <<< 48 + (if f.fcsOk then 0 else 1 <<< 46) + f.hash.toNat))))))

/-- TX_RING_POLL, FRAGMENT_TIMEOUT, LINK_UP, EDGE (R27, R445, R484, R487, R489): a descriptor that the edge die owns is sent and given
back, or discarded where its frame is too long, outside control memory, or bears the module's own session address; an incomplete
message goes; a lost attachment is reported, and an edge die without any leaves service with its sessions. -/
def EdgePortsSend : Prop :=
  (∀ (s : State) (e : Edge) (ring : Fin 8),
    let i := Instr.txRingPoll e ring
    let up := (s.edge e).inService = true ∧ (s.edge e).linkUp = true
    (s.ring? e (8 + ring.val) = none ∨ ¬up → Answers i s fun t => t = s) ∧
    (∀ g, s.ring? e (8 + ring.val) = some g → up →
      let d := s.ringDesc g g.nextDesc
      let n := bits d.2 63 48
      let bs := (s.ct s.cp.active).mem.read d.1.toNat n
      let ok := d.1.toNat % 64 = 0 ∧ d.1.toNat + n ≤ 0x2000000000 ∧ n ≤ 9212 ∧ s.spoofs bs = false
      (bitAt d.2 47 = false → Answers i s fun t => t = s) ∧
      (bitAt d.2 47 = true → ok → Answers i s fun t =>
        t = ringBack (s.modEdge e fun x => { x with out := x.out ++ [.frame ring bs], txFrames := x.txFrames + 1 }) e (8 + ring.val) g
          (word (n <<< 48))) ∧
      (bitAt d.2 47 = true → ¬ok → Answers i s fun t =>
        t = (ringBack s e (8 + ring.val) g (word (n <<< 48))).modEdge e fun x => { x with discarded := x.discarded + 1 }))) ∧
  (∀ (s : State) (e : Edge) (id : BitVec 32), Answers (.fragmentTimeout e id) s fun t =>
    t = s.modEdge e fun x => { x with frags := x.frags.filter fun y => y.msgId != id }) ∧
  (∀ (s : State) (e : Edge),
    ((s.edge e).inService = false → Answers (.linkUp e) s fun t => t = s) ∧
    ((s.edge e).inService = true → Answers (.linkUp e) s fun t => t = s.modEdge e fun x => { x with linkUp := true })) ∧
  (∀ (s : State) (e : Edge) (which : Fin 3), s.edges.length = 4 →
    let i := Instr.edgeEvent e which
    let lost : BitVec 2 := if which = 0 then 0 else if which = 1 then 1 else 2
    let att := (s.edge e).attach &&& ~~~lost
    let u : State := s.modEdge e fun x => { x with linkUp := x.linkUp && which != 0, attach := att }
    let r : Report := { cls := Cls.edge, severity := 2, block := 9, unit := Fin.ofNat 64 e.val, die := 0, cab := none,
                        d2 := word (which.val <<< 56), d3 := 0, touched := [] }
    ((s.edge e).inService = false → Answers i s fun t => t = s) ∧
    ((s.edge e).inService = true → att ≠ 0 → Answers i s fun t => t.quiet = (reported u r).quiet) ∧
    ((s.edge e).inService = true → att = 0 → Answers i s fun t =>
      (t.edge e).inService = false ∧ (t.edge e).linkUp = false ∧ (t.edge e).frags = [] ∧
        (∀ x ∈ t.rot.sessions, edgeOf x.n ≠ e) ∧ (∀ k, k ≠ e → (t.edge k).inService = (s.edge k).inService) ∧
        (s.idsUnique → ∀ q ∈ t.requests, (∃ x ∈ s.rot.sessions, x.n = q.session) → edgeOf q.session = e → 3 ≤ q.state.val)))

/-- Edge ports receive and send frames. Where the spec leaves a choice, this follows assumption 58, the model's own. -/
def Obligations.EdgePortsCarryFrames : Prop := FramesAreReceived ∧ EdgePortsSend

/-- SESSION_INIT (R382, R383, R484): a repetition within 10 s gets the same answer; a tenant that is not entered, a key or
signature that does not fit and a full edge die are rejected with their codes; else a session opens, and SESSION_ACCEPT of 72
bytes names it. Where the spec leaves a choice, this follows assumptions 18, 59, the model's own. -/
def Obligations.SessionsOpen : Prop :=
  ∀ (s : State) (e : Edge) (m : SessionInit),
    let i := Instr.sessionInit e m
    let hears := (s.edge e).inService = true ∧ (s.edge e).linkUp = true ∧ s.ctServes s.cp.active = true
    let sends := fun (u : State) (type : Nat) (bs : List Byte) =>
      u.modEdge e fun x => { x with out := x.out ++ [.plain m.src m.srcPort type m.msgId bs], txFrames := x.txFrames + 1 }
    let rejects := fun (code : Nat) => Answers i s fun t => t = sends s 4 (leBytes 4 code ++ List.replicate 4 0)
    (¬hears → Answers i s fun t => t = s) ∧
    (hears →
      (∀ x, s.repeated e m = some x → Answers i s fun t => t = sends s 3 x.answer) ∧
      (s.repeated e m = none →
        (s.boundKey m.tenant = none → rejects Code.tenantUnknown) ∧
        (∀ key, s.boundKey m.tenant = some key →
          (key ≠ digest512 m.pk ∨ m.sigOk = false → rejects Code.sessionAuthFailed) ∧
          (key = digest512 m.pk → m.sigOk = true → s.freeSession e = none → rejects Code.sessionLimit) ∧
          (∀ n, key = digest512 m.pk → m.sigOk = true → s.freeSession e = some n → Answers i s fun t =>
            ∃ x : Session, x.n.val = n ∧ edgeOf x.n = e ∧ x.tenant = m.tenant ∧ x.cab = m.cab ∧ x.keyId = digest512 m.pk ∧
              x.opened = s.now ∧ x.src = m.src ∧ x.srcPort = m.srcPort ∧ x.inbox = [] ∧ x.unacked = [] ∧ x.seen = [] ∧
              x.answer.length = 72 ∧ x.answer.take 2 = leBytes 2 n ∧
              t = sends ({ s with freeCtr := s.freeCtr + 1, rot := { s.rot with sessions := s.rot.sessions ++ [x] } } : State) 3
                x.answer))))

/-- A message of a DATA record that is whole (R421, R482). -/
def WholeMessage (m : List Word) : Prop :=
  2 ≤ m.length ∧ bits (wordAt m 0) 15 0 % 8 = 0 ∧ bits (wordAt m 0) 15 0 ≤ 496 ∧ m.length = 2 + bits (wordAt m 0) 15 0 / 8

/-- Protected records (R385, R386, R482, R485): a record whose tag does not verify, or with a counter of another direction, is discarded;
one that was seen, or that lies too far below the highest, is discarded and acknowledged again; an accepted DATA record hands its
messages to the side in order; counters at 2^48, and CLOSE, end the session and its requests. -/
def RecordsAreTaken : Prop :=
  (∀ msgs : List (List Word),
    ((∀ m ∈ msgs, WholeMessage m) → takeMessages msgs = (msgs, 0)) ∧
    (∀ a m b, msgs = a ++ m :: b → (∀ x ∈ a, WholeMessage x) → ¬WholeMessage m →
      (2 ≤ m.length → takeMessages msgs = (a ++ [m.take 2], 0)) ∧ (m.length < 2 → takeMessages msgs = (a, 1)))) ∧
  (∀ (x : Session) (c : Nat),
    (x.takes c = true ↔ c ∉ x.seen ∧ ∀ h, x.rxHigh = some h → h ≤ c + 63) ∧
    (x.takes c = true → c ∈ (x.receive c).seen ∧ (x.receive c).takes c = false)) ∧
  (∀ (s : State) (r : Record) (msgs : List (List Word)) (rest : Nat),
    let n := r.session.val
    let c := r.counter.toNat
    let alive := (s.edge (edgeOf r.session)).inService = true
    let data := Instr.dataRecord r msgs rest
    let close := Instr.closeRecord r
    let gone := fun (t : State) => (∀ y ∈ t.rot.sessions, y.n ≠ r.session) ∧
      (s.idsUnique → ∀ q ∈ t.requests, q.session = r.session → 3 ≤ q.state.val)
    (¬alive ∨ s.session? n = none →
      (Answers data s fun t => t = s) ∧ (Answers close s fun t => t = s) ∧ Answers (.ackRecord r) s fun t => t = s) ∧
    (∀ x, alive → s.session? n = some x →
      let lost := s.modSession n fun y => { y with discarded := y.discarded + 1 }
      let again := s.modSession n fun y => { y with src := r.src, srcPort := r.srcPort, discarded := y.discarded + 1, ackDue := true }
      (r.tagOk = false ∨ 2 ^ 63 ≤ c → (Answers data s fun t => t = lost) ∧ Answers close s fun t => t = lost) ∧
      (r.tagOk = true → c < 2 ^ 63 → x.takes c = false →
        (Answers data s fun t => t = again) ∧ Answers close s fun t => t = again) ∧
      (r.tagOk = true → c < 2 ^ 63 → 2 ^ 48 ≤ c → x.takes c = true → (Answers data s gone) ∧ Answers close s gone) ∧
      (r.tagOk = true → c < 2 ^ 48 → x.takes c = true → Answers close s gone) ∧
      (r.tagOk = true → c < 2 ^ 48 → x.takes c = true → x.toSend = [] → x.txNext < 2 ^ 48 → x.txAckNext < 2 ^ 48 →
        Answers data s fun t => t = s.modSession n fun y =>
          { y.receive c with
            src := r.src, srcPort := r.srcPort, unacked := y.unacked.filter fun u => !ackCovers r.ack u.counter
            inbox := y.inbox ++ (takeMessages msgs).1
            discarded := y.discarded + (takeMessages msgs).2 + if rest = 0 then 0 else 1 }) ∧
      (r.tagOk = false ∨ c < 2 ^ 63 → Answers (.ackRecord r) s fun t => t = lost) ∧
      (r.tagOk = true → 2 ^ 63 ≤ c →
        ((∃ h, x.ackHigh = some h ∧ c ≤ h) → Answers (.ackRecord r) s fun t => t = s.modSession n fun y =>
          { y with src := r.src, srcPort := r.srcPort, discarded := y.discarded + 1 }) ∧
        ((∀ h, x.ackHigh = some h → h < c) →
          (2 ^ 63 + 2 ^ 48 ≤ c → Answers (.ackRecord r) s gone) ∧
          (c < 2 ^ 63 + 2 ^ 48 → x.toSend = [] → x.txNext < 2 ^ 48 → x.txAckNext < 2 ^ 48 → Answers (.ackRecord r) s fun t =>
            t = s.modSession n fun y =>
              { y with src := r.src, srcPort := r.srcPort, ackHigh := some c,
                       unacked := y.unacked.filter fun u => !ackCovers r.ack u.counter })))))

/-- RECORD_RESEND and the acknowledgement timer (R483): an unacknowledged record goes again byte for byte and its interval doubles up
to 50 ms; an ACK record goes where a received record is still unacknowledged, numbered from 2^63 on. -/
def RecordsAreResent : Prop :=
  ∀ (s : State) (n : Sess) (c : Word),
    let sends := fun (out : EdgeOut) =>
      s.modEdge (edgeOf n) fun e => { e with out := e.out ++ [out], txFrames := e.txFrames + 1 }
    (s.session? n.val = none → (Answers (.recordResend n c) s fun t => t = s) ∧ Answers (.ackTimer n) s fun t => t = s) ∧
    (∀ x, s.session? n.val = some x →
      let found := x.unacked.find? fun u => u.counter == c.toNat
      ((s.edge (edgeOf n)).inService = false ∨ found = none → Answers (.recordResend n c) s fun t => t = s) ∧
      (∀ u, (s.edge (edgeOf n)).inService = true → found = some u → Answers (.recordResend n c) s fun t =>
        let mk : SentRecord → SentRecord := fun v => { v with sends := v.sends + 1, intervalUs := min 50000 (2 * v.intervalUs) }
        t = (sends (.record n (if u.close then 0x12 else 0x10) c u.ackNext u.ackMap u.msgs x.src x.srcPort)).modSession n.val fun y =>
          { y with unacked := updFirst (fun v => v.counter == c.toNat) mk y.unacked }) ∧
      ((s.edge (edgeOf n)).inService = false ∨ x.ackDue = false → Answers (.ackTimer n) s fun t => t = s) ∧
      ((s.edge (edgeOf n)).inService = true → x.ackDue = true → x.txNext < 2 ^ 48 → x.txAckNext + 1 < 2 ^ 48 →
        Answers (.ackTimer n) s fun t =>
          t = (sends (.record n 0x11 (word (2 ^ 63 + x.txAckNext)) (word x.rxNext) x.ackMap [] x.src x.srcPort)).modSession n.val
            fun y => { y with ackDue := false, txAckNext := y.txAckNext + 1 }))

/-- Records of a session are taken once, in order, and resent. Where the spec leaves a choice, this follows assumptions 58, 59,
the model's own. -/
def Obligations.SessionRecords : Prop := RecordsAreTaken ∧ RecordsAreResent

/-! ## HBM and the lattice -/

/-- A memory holds bytes from an address on, and elsewhere what another one holds. -/
def BytesAt (m m' : Mem) (base : Nat) (bs : List Byte) : Prop :=
  (∀ k, k < bs.length → Mem.get (base + k) m' = bs.getD k 0) ∧
    ∀ x, x < base ∨ base + bs.length ≤ x → Mem.get x m' = Mem.get x m

/-- A memory holds the bytes that a mask covers, and elsewhere what another one holds. -/
def MaskAt (m m' : Mem) (base : Nat) (bs : List (Fin 64 × Byte)) : Prop :=
  (∀ b ∈ bs, Mem.get (base + b.1.val) m' = b.2) ∧
    ∀ x, (∀ b ∈ bs, x ≠ base + b.1.val) → Mem.get x m' = Mem.get x m

/-- Two states differ in what a controller keeps of an access at most: glove cache, demand scrub, use clock, free values, answer. -/
def ControllerOnly (s t : State) (h : Stack) : Prop :=
  { t with hbm := s.hbm, sector := s.sector, freeCtr := s.freeCtr, useClock := s.useClock } = s ∧
    (∀ k, k ≠ h → t.stk k = s.stk k) ∧
    { t.stk h with cache := (s.stk h).cache, scrub := (s.stk h).scrub } = s.stk h

/-- The page of an access stands: the stack is in service, the page is filled, its glove is in the controller's cache. -/
def PageStands (s : State) (n : Nat) (a : Accessor) : Prop :=
  (s.stk (stackOf n)).inService = true ∧ (s.page (stackOf n) (pageOf n)).zeroing = false ∧
    a.glove ∈ (s.stk (stackOf n)).cache.map Prod.fst

/-- SECTOR_READ (R338, R345, R352, R353, R356): a sector without error is served and memory stays; one symbol in error is corrected
and counted; more, and an address that differs, serve nothing and are counted; an access that the page does not serve ends with
PAGE_ACCESS_FAULT; one that has to wait changes nothing. -/
def SectorsAreRead : Prop :=
  ∀ (s : State) (addr got : BitVec 41) (a : Accessor) (err : List (Fin 73 × Byte)),
    let i := Instr.sectorRead addr a err got
    let n := addr.toNat
    let h := stackOf n
    let p := s.page h (pageOf n)
    let c := decodeSector (errorOf err n got.toNat)
    let data := s.mem.read (n / 64 * 64) 64
    let own := a.source ≠ .demand ∧ a.source ≠ .patrol ∧ a.source ≠ .readModifyWrite
    let supplied := a.source = .supply → ∀ d ∈ s.shelfReaders h p .supply, ∀ c, s.cabOfDie d = some c → c = p.cab ∨
      shelfGlove c ∈ (s.stk h).cache.map Prod.fst
    let ready := own ∧ PageStands s n a ∧ p.serves a false = true ∧ s.merge? h (sectorOf n) = none ∧ supplied
    (a.source = .patrol ∨ a.source = .readModifyWrite ∨ (own ∧ (s.stk h).inService = false ∧ (s.stk h).failed = false) ∨
      (own ∧ (s.stk h).inService = true ∧ p.zeroing = true) → Answers i s fun t => t = s) ∧
    (a.source = .demand →
      ((s.stk h).inService = false ∨ (∀ x ∈ (s.stk h).scrub, x.1 ≠ n / 64 % 2 ^ 30) → Answers i s fun t => t = s) ∧
      (∀ x ∈ (s.stk h).scrub, (s.stk h).inService = true → x.1 = n / 64 % 2 ^ 30 → err = [] → got = addr →
        Answers i s fun t => t = s.modStk h fun x => { x with scrub := x.scrub.filter fun q => q.1 != n / 64 % 2 ^ 30 })) ∧
    (own → (s.stk h).inService = true → p.zeroing = false → p.serves a false = false → Answers i s fun t =>
      t.sector = { code := Code.pageAccessFault, data := [] } ∧ t.mem = s.mem) ∧
    (own → (s.stk h).inService = false → (s.stk h).failed = true → Answers i s fun t =>
      t.sector = { code := Code.dataUncorrectable, data := [] } ∧ t.mem = s.mem) ∧
    (ready → err = [] → got = addr → Answers i s fun t => t.sector = { code := 0, data := data } ∧ ControllerOnly s t h) ∧
    (∀ k v, ready → s.hbm.length = 32 → err = [(k, v)] → k.val < 68 → v ≠ 0 → got = addr → Answers i s fun t =>
      t.sector = { code := 0, data := data } ∧ t.mem = s.mem ∧ t.pages = s.pages ∧
        (t.stk h).corrected = min (2 ^ 32 - 1) ((s.stk h).corrected + 1) ∧ (t.stk h).uncorrectable = (s.stk h).uncorrectable) ∧
    (ready → s.hbm.length = 32 → c = .uncorrectable ∨ c = .mismatch → Answers i s fun t =>
      t.sector = { code := Code.dataUncorrectable, data := [] } ∧ (p.kind ≠ PKind.shelf ∨ (s.policy 5).on = false → t.mem = s.mem) ∧
        (t.stk h).uncorrectable = (if c = .uncorrectable then min (2 ^ 32 - 1) ((s.stk h).uncorrectable + 1)
          else (s.stk h).uncorrectable) ∧
        (t.stk h).mismatch = (if c = .mismatch then min (2 ^ 32 - 1) ((s.stk h).mismatch + 1) else (s.stk h).mismatch))

/-- The sector code (R344, R345): without an error the decoder finds none; any one symbol in error among data and check symbols is
found and located, and one among the address symbols is a mismatch. -/
def Obligations.SectorCodeLocatesOneError : Prop :=
  decodeSector [] = .clean ∧
    ∀ k v : Nat, k < 73 → 0 < v → v < 256 → decodeSector [(k, v)] = if k < 68 then .corrected k else .mismatch

/-- SECTOR_WRITE, MERGE_FLUSH (R338, R347, R349, R350): a whole sector is written at once; a narrower write of the control plane
changes its bytes alone, one of an engine waits in the merge buffer until it is flushed, with the bytes that its mask covers; an
access that the page does not serve writes nothing. -/
def SectorsAreWritten : Prop :=
  (∀ (s : State) (addr : BitVec 41) (a : Accessor) (off : Fin 64) (bytes : List Byte) (err : List (Fin 73 × Byte)), s.memsWf = true →
    let i := Instr.sectorWrite addr a off bytes err
    let base := addr.toNat / 64 * 64
    let h := stackOf base
    let p := s.page h (pageOf base)
    let place := bytes ≠ [] ∧ off.val + bytes.length ≤ 64
    let ready := place ∧ PageStands s base a ∧ p.serves a true = true ∧ s.merge? h (sectorOf base) = none
    let done : SectorAnswer := { code := 0, data := [] }
    (¬place ∨ (s.stk h).inService = false ∨ p.zeroing = true → Answers i s fun t => t = s) ∧
    (place → (s.stk h).inService = true → p.zeroing = false → p.serves a true = false → Answers i s fun t =>
      t.sector = { code := Code.pageAccessFault, data := [] } ∧ t.mem = s.mem) ∧
    (ready → bytes.length = 64 ∨ (a.source = .controlPlane ∧ err = []) → Answers i s fun t =>
      t.sector = done ∧ BytesAt s.mem t.mem (base + off.val) bytes ∧ ControllerOnly { s with mem := t.mem } t h) ∧
    (ready → bytes.length < 64 → a.source ≠ .controlPlane → (s.merges.filter fun m => m.stack == h).length < 64 →
      Answers i s fun t => t.sector = done ∧
        let m : MergeEntry := { stack := h, sector := sectorOf base, glove := a.glove, touch := accOwner a,
                                bytes := bytes.zipIdx.map fun (b : Byte × Nat) => ((Fin.ofNat 64 (off.val + b.2) : Fin 64), b.1) }
        ControllerOnly { s with merges := s.merges ++ [m] } t h)) ∧
  (∀ (s : State) (h : Stack) (sector : BitVec 30) (err : List (Fin 73 × Byte)), s.memsWf = true →
    let i := Instr.mergeFlush h sector err
    ((s.stk h).inService = false ∨ s.merge? h sector = none → Answers i s fun t => t = s) ∧
    (∀ m, (s.stk h).inService = true → s.merge? h sector = some m → (m.bytes.map Prod.fst).Nodup → err = [] ∨ m.bytes.length = 64 →
      Answers i s fun t =>
        MaskAt s.mem t.mem (h.val * 2 ^ 36 + sector.toNat * 64) m.bytes ∧ t.merge? h sector = none ∧
          (∀ k r, (k, r) ≠ (h, sector) → t.merge? k r = s.merge? k r) ∧
          { t with mem := s.mem, merges := s.merges, freeCtr := s.freeCtr } = s))

/-- HBM sectors are read and written. Where the spec leaves a choice, this follows assumptions 16, 50, the model's own. -/
def Obligations.SectorsAreAccessed : Prop := SectorsAreRead ∧ SectorsAreWritten

/-- ALLOCATION_FILL, SWEEP_STEP, PATROL_SCRUB, ON_DIE_READ (R334, R339, R342, R355): a filled page reads zero and no other byte
changes; a sweep moves the mark by one sector and, after the last, the page to the next generation; patrol goes on in
ascending order; counts of the stack's own code are added up and logged. Memory's plaintext changes in the fill only. Where
the spec leaves a choice, this follows assumptions 4, 49, the model's own. -/
def Obligations.PagesAreKept : Prop :=
  (∀ (s : State) (h : Stack) (n : Fin 32768), s.memsWf = true →
    let i := Instr.allocationFill h n
    let base := h.val * 2 ^ 36 + n.val * 2 ^ 21
    ((s.page h n).zeroing = false → Answers i s fun t => t = s) ∧
    ((s.page h n).zeroing = true → Answers i s fun t =>
      BytesAt s.mem t.mem base (List.replicate (2 ^ 21) 0) ∧ t.page h n = { s.page h n with zeroing := false } ∧
        (∀ k r, (k, r) ≠ (h, n) → t.page k r = s.page k r) ∧
        { t with mem := s.mem, pages := s.pages, merges := s.merges } = s)) ∧
  (∀ (s : State) (h : Stack) (n : Fin 32768) (err : List (Fin 73 × Byte)),
    let i := Instr.sweepStep h n err
    let p := s.page h n
    let due := p.allocated = true ∧ p.zeroing = false ∧ (s.stk h).inService = true ∧
      ∃ g, s.glove? p.glove.toNat = some g ∧ g.phase = 3 ∧ g.prevHeld = true ∧ p.keyGen + 1 = g.gen
    (¬due → Answers i s fun t => t = s) ∧
    (due → err = [] → s.merge? h (sectorOf (h.val * 2 ^ 36 + n.val * 2 ^ 21 + p.mark.val * 64)) = none →
      (p.mark.val < 32767 → Answers i s fun t =>
        t.page h n = { p with sweep := true, mark := p.mark + 1 } ∧ (∀ k r, (k, r) ≠ (h, n) → t.page k r = s.page k r) ∧
          { t with pages := s.pages, freeCtr := s.freeCtr } = s) ∧
      (p.mark.val = 32767 → Answers i s fun t =>
        t.page h n = { p with sweep := false, mark := 0, keyGen := p.keyGen + 1 } ∧
          (∀ k r, (k, r) ≠ (h, n) → t.page k r = s.page k r) ∧ t.mem = s.mem ∧ t.jobs = s.jobs ∧ t.runs = s.runs))) ∧
  (∀ (s : State) (h : Stack) (sector : BitVec 30) (err : List (Fin 73 × Byte)),
    let i := Instr.patrolScrub h sector err
    let now := s.patrolSector h (s.stk h).patrolNext % 2 ^ 30
    let next := s.patrolSector h (now + 1)
    ((s.stk h).inService = false ∨ sector.toNat ≠ now → Answers i s fun t => t = s) ∧
    ((s.stk h).inService = true → sector.toNat = now → err = [] → Answers i s fun t =>
      t = ({ s with freeCtr := s.freeCtr + 1 } : State).modStk h fun x =>
        if next < 2 ^ 30 then { x with patrolNext := next } else { x with patrolNext := 0, patrolTime := s.now })) ∧
  (∀ (s : State) (h : Stack) (count : BitVec 32),
    let i := Instr.onDieRead h count
    let u : State := s.modStk h fun x => { x with onDie := min (2 ^ 32 - 1) (x.onDie + count.toNat) }
    let r : Report := { cls := Cls.memOnDie, severity := 0, block := 5, unit := Fin.ofNat 64 h.val, die := dieOf h, cab := none,
                        d2 := word (h.val <<< 59 + 3 <<< 56 + 0xff <<< 32), d3 := word count.toNat, touched := [] }
    ((s.stk h).inService = false ∨ count = 0 → Answers i s fun t => t = s) ∧
    ((s.stk h).inService = true → count ≠ 0 → Answers i s fun t => t = reported u r))

/-- The aperture (R338, R348): a core reads plaintext of OPERATOR pages and the stored ciphertext of any other allocated page, and
writes OPERATOR pages only; outside the window, of a page without an allocation, or of a stack out of service the access faults,
and a faulting write writes nothing. -/
def ApertureAccesses : Prop :=
  ∀ (s : State) (core : Ct) (addr : BitVec 48), s.memsWf = true →
    let page := fun (x : Nat) => s.page (stackOf x) (pageOf x)
    let inSvc := fun (x : Nat) => (s.stk (stackOf x)).inService = true
    let bus := fun (fault : Bool) (data : List Byte) => ({ core := core, fault := fault, data := data } : Bus)
    let alone := fun (x : Nat) => s.merge? (stackOf x) (sectorOf x) = none
    (∀ size,
      let i := Instr.hbmApertureRead core addr size
      ((s.ct core).reached8 = false → Answers i s fun t => t = s) ∧
      ((s.ct core).reached8 = true → apertureOf addr.toNat size = none → Answers i s fun t => t = { s with bus := bus true [] }) ∧
      (∀ a, (s.ct core).reached8 = true → apertureOf addr.toNat size = some a →
        (a + 0x10000000000 = addr.toNat ∧ a + size ≤ 2 ^ 41) ∧
        ((∃ x ∈ sectorsOf a size, ¬inSvc x) ∨ (∃ x ∈ sectorsOf a size, (page x).allocated = false) → Answers i s fun t =>
          t.bus = bus true [] ∧ t.mem = s.mem) ∧
        ((∀ x ∈ sectorsOf a size, inSvc x ∧ alone x ∧ (page x).zeroing = false) →
          ((∀ x ∈ sectorsOf a size, (page x).kind = PKind.operator) → Answers i s fun t =>
            t = { s with bus := bus false (s.mem.read a size) }) ∧
          (0 < size → a % 64 + size ≤ 64 → (page a).allocated = true → (page a).kind ≠ PKind.operator → Answers i s fun t =>
            t = { s with bus := bus false (((s.cipher (page a) (a / 64 * 64)).drop (a % 64)).take size) })))) ∧
    (∀ bytes : List Byte,
      let i := Instr.hbmApertureWrite core addr bytes
      ((s.ct core).reached8 = false → Answers i s fun t => t = s) ∧
      ((s.ct core).reached8 = true → apertureOf addr.toNat bytes.length = none → Answers i s fun t => t = { s with bus := bus true [] }) ∧
      (∀ a, (s.ct core).reached8 = true → apertureOf addr.toNat bytes.length = some a →
        ((∃ x ∈ sectorsOf a bytes.length, (page x).kind ≠ PKind.operator ∨ ¬inSvc x) → Answers i s fun t =>
          t = { s with bus := bus true [] }) ∧
        ((∀ x ∈ sectorsOf a bytes.length, inSvc x ∧ alone x ∧ (page x).zeroing = false ∧ (page x).kind = PKind.operator) →
          Answers i s fun t => t.bus = bus false [] ∧ BytesAt s.mem t.mem a bytes ∧ { t with mem := s.mem, bus := s.bus } = s)))

/-- LATTICE_PACKET (R22, R23, R27, R380): a packet of a compute, edge or control die joins its destination's packets; one numbered no
higher than one of its source and class, and one of an edge die without attachments, cannot arrive; one of another cabinet, or of a key
generation that no block of the destination holds, is discarded and reported. -/
def LatticePacketsArrive : Prop :=
  ∀ (s : State) (p : Packet),
    let i := Instr.latticePacket p
    let late := (∃ q ∈ (s.die p.dst).packets, q.src = p.src ∧ q.cls = p.cls ∧ p.seqNo ≤ q.seqNo) ∨ s.entryDie p.src p.dst = none
    let r := fun (check : Nat) => ({ cls := Cls.isolation, severity := 1, block := 7, unit := 0, die := p.dst, cab := some p.cab,
                                     d2 := word (check <<< 56), d3 := 0, touched := [] } : Report)
    (late → Answers i s fun t => t = s) ∧
    (¬late → s.cabOfDie p.dst ≠ some p.cab → Answers i s fun t => t.quiet = (reported s (r 0)).quiet) ∧
    (¬late → s.cabOfDie p.dst = some p.cab →
      (p.glove ≠ 0 → s.holdsGen p.dst p.glove p.genBit = false → Answers i s fun t => t.quiet = (reported s (r 5)).quiet) ∧
      (p.glove = 0 ∨ s.holdsGen p.dst p.glove p.genBit = true → Answers i s fun t =>
        t = s.modDie p.dst fun x => { x with packets := x.packets ++ [p] }))

/-- Aperture accesses and lattice packets. Where the spec leaves a choice, this follows assumptions 17, 50, 55, 76, the model's
own. -/
def Obligations.ApertureAndLattice : Prop := ApertureAccesses ∧ LatticePacketsArrive

/-! ## The hatband and the optimiser step -/

/-- Items (R303, R304, R306, R309, R316): a new one holds its member, its tokens and the sums of its contribution; adding a
contribution and merging two items join their members and add their sums; a marker holds nobody; an item that passes a member
other than the owner goes to the next one, and at the owner every member held or dropped closes the bucket: DONE where the
checked sum R is within the tolerance of CS, FAILED with 101 where it is not, with 102 where a sum is not finite. Where the
spec leaves a choice, this follows assumption 36, the model's own. -/
def Obligations.ItemsCarryTheirSums : Prop :=
  (∀ (wire h : Nat) (d : Die) (c : List Nat) (tokens : Nat),
    let i := newItem wire h d c tokens
    i.origin = d ∧ i.held = mapOf [d] ∧ i.dropped = 0 ∧ i.tokens = tokens ∧ i.droppedTokens = 0 ∧
      i.cs.toNat = (roundAF (sumAll (c.map af))).1 % 2 ^ 42 ∧
      i.absSum.toNat = (roundAF (sumAll (c.map fun k => (af k).abs))).1 % 2 ^ 42) ∧
  (∀ (wire h : Nat) (x y z : Item) (d : Die) (c : List Nat) (tokens : Nat),
    let n := newItem wire h d c tokens
    (z = addContribution wire h x d c tokens ∧ y = n) ∨ z = mergeItems wire h x y →
      z.held = x.held ||| y.held ∧ z.dropped = x.dropped ||| y.dropped ∧ z.tokens = min (2 ^ 32 - 1) (x.tokens + y.tokens) ∧
        z.droppedTokens = min (2 ^ 32 - 1) (x.droppedTokens + y.droppedTokens) ∧ z.cs = af42Add x.cs y.cs ∧
        z.absSum = af42Add x.absSum y.absSum) ∧
  (∀ (d : Die) (tokens : Nat), let m := dropMarker d tokens
    m.held = 0 ∧ m.dropped = mapOf [d] ∧ m.tokens = 0 ∧ m.droppedTokens = tokens ∧ m.elems = []) ∧
  (∀ (x : Reduction) (d : Die) (i : Item) (now : Nat),
    let y := x.pass d i now
    let a := match x.acc with | none => i | some b => mergeItems x.wire.val x.headroom b i
    let out := handOn x.wire.val x.elems a
    let tell := checkSum x.tauExp out.1 out.2
    (d ≠ x.owner → y = { x with items := x.items ++ [{ i with nextHop := x.next d, waiting := false }] }) ∧
    (d = x.owner → x.state ≠ 0 ∨ a.held ||| a.dropped ≠ mapOf x.chain → y = { x with acc := some a }) ∧
    (d = x.owner → x.state = 0 → a.held ||| a.dropped = mapOf x.chain →
      y.acc = some out.2 ∧ y.result = out.1.map (fun c => BitVec.ofNat 42 c) ∧ y.items = [] ∧ y.closeTime = now ∧
        (tell.2 = none → y.state = 1) ∧ (∀ c, tell.2 = some c → y.state = 2 ∧ y.cause = c ∧ (c = 101 ∨ c = 102))))

/-- CONTRIBUTION_READY (R26, R301, R304, R305, R317, R318): a member's contribution counts once; after the deadline it is only recorded in
LATE; alone it is the result at once; else the member holds it for an item, or sends it on where its port is free. The stage of a die out
of service adds nothing. -/
def ContributionsEnter : Prop :=
  ∀ (s : State) (die : Die) (red : BitVec 24),
    let i := Instr.contributionReady die red
    let found := s.reductions.find? fun x => x.id == red && decide (x.era.val ≤ 1)
    (found = none → Answers i s fun t => t = s) ∧
    (∀ x, found = some x → s.run? x.run = none → Answers i s fun t => t = s) ∧
    ((s.die die).inService = false → Answers i s fun t => t = s) ∧
    (∀ x r y, found = some x → s.run? x.run = some r → r.onDie die = some y → x.state ≠ 2 → (s.die die).inService = true →
      let counts := x.opened = true ∧ die ∈ x.chain ∧ hasDie x.ready die.val = false ∧ s.contributes r y = true
      (¬counts → Answers i s fun t => t = s) ∧
      (counts → hasDie x.marked die.val = true → Answers i s fun t =>
        t = { s with reductions := updFirst (fun z => z == x) (fun z => { z with late := z.late ||| mapOf [die] }) s.reductions }) ∧
      (counts → hasDie x.marked die.val = false →
        (x.state ≠ 0 ∨ x.era ≠ 0 → Answers i s fun t => t = s) ∧
        (∀ img, x.state = 0 → x.era = 0 → s.runSlotImage r = some img →
          let codes := s.contribution r img x y
          let frame := fun (t : State) => { t with reductions := s.reductions, hopOrder := s.hopOrder } = s
          (x.chain.length ≤ 1 → y.tokens ≠ 0 → Answers i s fun t => frame t ∧
            ∃ z ∈ t.reductions, z.id = red ∧ z.era = 0 ∧ z.state = 1 ∧ z.result = codes.map (fun c => BitVec.ofNat 42 c) ∧
              z.tokens = y.tokens) ∧
          (1 < x.chain.length → x.ordered = false → die ≠ x.owner → s.portBusy x die = false →
            (∀ z ∈ s.reductions, z.run = x.run → z.era = 0 → hasDie z.queued die.val = false) → Answers i s fun t =>
              frame t ∧ ∃ z ∈ t.reductions, z.id = red ∧ z.era = 0 ∧ hasDie z.ready die.val = true ∧
                z.items = x.items ++ [{ newItem x.wire.val x.headroom die codes y.tokens with nextHop := x.next die, waiting := false }]) ∧
          (1 < x.chain.length → x.ordered = true → x.chain.head? = some die → Answers i s fun t =>
            frame t ∧ ∃ z ∈ t.reductions, z.id = red ∧ z.era = 0 ∧ hasDie z.ready die.val = true ∧
              z.items = x.items ++ [{ newItem x.wire.val x.headroom die codes y.tokens with nextHop := x.next die, waiting := false }]))))

/-- HATBAND_ITEM (R296, R304, R305): an item that reaches a member takes up its contribution, or its drop marker, or waits for it in
ordered chains, and passes on; at the owner it is merged. The reduction stands as that says, and nothing but reductions, and the order of
the items on their legs, changes. An item that another of its channel is ahead of cannot arrive. -/
def ItemsMeetMembers : Prop :=
  ∀ (s : State) (red : BitVec 24) (origin : Die),
    let row := Instr.hatbandItem red origin
    (s.red? red = none → Answers row s fun t => t = s) ∧
    (∀ x, s.red? red = some x →
      let item := x.items.find? fun i => i.origin == origin && !i.waiting
      (item = none → Answers row s fun t => t = s) ∧
      (∀ i, item = some i → s.overtakes x i = true → Answers row s fun t => t = s) ∧
      (∀ i z, item = some i → s.overtakes x i = false → x.state = 0 →
        let m := i.nextHop
        let x0 : Reduction := { x with items := x.items.filter fun k => k != i }
        let met := s.addAt x m i
        let case_ :=
          (x.ordered = true ∧ hasDie x.ready m.val = true ∧ z = x0.pass m met s.now) ∨
          (x.ordered = true ∧ hasDie x.ready m.val = false ∧ hasDie x.marked m.val = true ∧ z = x0.pass m (s.markItem x m i) s.now) ∨
          (x.ordered = true ∧ hasDie x.ready m.val = false ∧ hasDie x.marked m.val = false ∧
            z = { x0 with items := x0.items ++ [{ i with waiting := true }] }) ∨
          (x.ordered = false ∧ hasDie x.queued m.val = true ∧
            z = ({ x0 with queued := x0.queued &&& ~~~mapOf [m] } : Reduction).pass m met s.now) ∨
          (x.ordered = false ∧ hasDie x.queued m.val = false ∧ z = x0.pass m i s.now)
        case_ → z.state ≠ 2 → ¬(z.state = 1 ∧ z.tokens = 0) → s.brokenHops < 2 →
        (∀ w ∈ s.reductions, w.run = x.run → hasDie w.queued (x.prev m).val = false) → Answers row s fun t =>
          { t with reductions := s.reductions, hopOrder := s.hopOrder } = s ∧
          ∃ w ∈ t.reductions, w.id = red ∧ w.era = 0 ∧ w.items = z.items ∧ w.acc = z.acc ∧ w.result = z.result ∧
            w.state = z.state ∧ w.queued = z.queued ∧ w.cause = z.cause))

/-- Contributions enter a reduction and items meet its members. Where the spec leaves a choice, this follows assumption 34, the
model's own. -/
def Obligations.ItemsTravel : Prop := ContributionsEnter ∧ ItemsMeetMembers

/-- DEADLINE (R317, R318, R319): a bucket that has begun drops every member that is not ready: each is marked, a marker with its
tokens goes to the next member in its place; a deadline that is not armed changes nothing. -/
def DeadlinesDropMembers : Prop :=
  ∀ (s : State) (red : BitVec 24),
    let row := Instr.deadline red
    (s.red? red = none → Answers row s fun t => t = s) ∧
    (∀ x, s.red? red = some x →
      let armed := x.state = 0 ∧ x.due = false ∧ x.ready ≠ 0 ∧ 1 < x.chain.length
      let gone := x.chain.filter fun d => !hasDie x.ready d.val
      (¬armed → Answers row s fun t => t = s) ∧
      (armed → gone = [] → Answers row s fun t => t = s.modRed red fun y => { y with due := true, marked := 0 }) ∧
      (armed → gone ≠ [] → x.ordered = false → x.owner ∉ gone → Answers row s fun t =>
        t.runs = s.runs ∧ t.mem = s.mem ∧ t.dies = s.dies ∧
          ∃ y ∈ t.reductions, y.id = red ∧ y.due = true ∧ y.marked = mapOf gone ∧
            ∀ d ∈ gone, ∃ i ∈ y.items, i.origin = d ∧ i.nextHop = x.next d ∧ i.held = 0 ∧ i.dropped = mapOf [d] ∧
              i.droppedTokens = s.tokensOf x d))

/-- READY and COMMIT_POINT (R282, R283, R284): an owner's shadow joins the run's; once every owner is ready the run is COMMITTING;
at the commit point, which without a standby comes at once, the epoch rises by one, the step's reductions are those of the
last committed step, and every die has yet to switch. Where the spec leaves a choice, this follows assumption 35, the model's
own. -/
def Obligations.StepsCommit : Prop :=
  (∀ (s : State) (run : BitVec 32) (die : Die),
    let i := Instr.ownerReady run die
    (s.run? run = none → Answers i s fun t => t = s) ∧
    (∀ r, s.run? run = some r →
      let mine := r.onDie die
      let open_ := r.inStep = true ∧ (r.state = RunSt.running ∨ r.state = RunSt.stopping) ∧ s.shardReduced r die = true
      (¬open_ ∨ mine = none ∨ s.runSlotImage r = none ∨ (∃ y, mine = some y ∧ y.isReady = true) → Answers i s fun t => t = s) ∧
      (∀ y img, open_ → mine = some y → y.isReady = false → s.runSlotImage r = some img →
        let all := ∀ x ∈ r.perDie, x.isReady = true ∨ x.die = die
        let new := (s.shadowOf r img die).1
        let mark : RunDie → RunDie := fun y =>
          if y.die = die then { y with isReady := true, counts := (s.shadowOf r img die).2 } else y
        let next : Run := { r with shadow := r.shadow ++ new, perDie := r.perDie.map mark }
        (¬all → Answers i s fun t => t = s.modRun run fun _ => next) ∧
        (all → s.hasStandby = true → Answers i s fun t => t = s.modRun run fun _ =>
          { next with state := RunSt.committing, stopping := r.stopping || r.state == RunSt.stopping }) ∧
        (all → s.hasStandby = false → Answers i s fun t => t.mem = s.mem ∧ t.jobs = s.jobs ∧
          ∃ r', t.run? run = some r' ∧ r'.state = RunSt.committing ∧ r'.epoch = r.epoch + 1 ∧ r'.shadow = r.shadow ++ new ∧
            r'.current = r.current ∧ ∀ x ∈ r'.perDie, x.switched = false)))) ∧
  (∀ (s : State) (run : BitVec 32),
    let i := Instr.commitPoint run
    (s.run? run = none → Answers i s fun t => t = s) ∧
    (∀ r, s.run? run = some r →
      let due := r.inStep = true ∧ r.state = RunSt.committing ∧ ∀ x ∈ r.perDie, x.switched = true
      (¬due → Answers i s fun t => t = s) ∧
      (due → Answers i s fun t =>
        { t with runs := s.runs, reductions := s.reductions, cabs := s.cabs, freeCtr := s.freeCtr } = s ∧
          (∀ x ∈ t.reductions, x.run = run → x.era ≠ 0) ∧
          ∃ r', t.run? run = some r' ∧ r'.state = RunSt.committing ∧ r'.epoch = r.epoch + 1 ∧ r'.commitTime = s.now ∧
            r'.consecutive = 0 ∧ r'.shadow = r.shadow ∧ r'.current = r.current ∧ ∀ x ∈ r'.perDie, x.switched = false)))

/-- HOP_BROKEN (R320, R445): the hop is broken from then on, and the break is reported; where no reduction is under way nothing else
happens. -/
def HopsBreak : Prop :=
  ∀ (s : State) (hop : Fin 16),
    let bit := s.hopsBroken ||| BitVec.ofNat 16 (1 <<< hop.val)
    let r : Report := { cls := Cls.hopBroken, severity := 2, block := 8, unit := Fin.ofNat 64 hop.val,
                        die := ringOrder.getD hop.val 0, cab := none, d2 := word (hop.val <<< 56), d3 := 0, touched := [] }
    (Answers (.hopBroken hop) s fun t => t.hopsBroken = bit ∧ t.mem = s.mem) ∧
    ((∀ x ∈ s.reductions, x.state ≠ 0 ∧ (x.era = 0 → x.state ≠ 2)) → Answers (.hopBroken hop) s fun t =>
      t.quiet = (reported { s with hopsBroken := bit } r).quiet)

/-- Deadlines drop members and hops break. Where the spec leaves a choice, this follows assumptions 34, 75, the model's own. -/
def Obligations.HatbandLosses : Prop := DeadlinesDropMembers ∧ HopsBreak

/-! ## Matrix-op and vector descriptors -/

/-- The six matrix-op commands, each with the OP of its descriptor (R111). -/
def matrixOps (m : MatIssue) : List (Instr × Nat) :=
  [(.shelfFwd m, 1), (.shelfBwd m, 2), (.seqScore m, 3), (.seqMix m, 4), (.slotGrad m, 5), (.drawerMul m, 6)]

/-- A matrix-op descriptor may issue now (R77, R85, R86, R91, R104, R110, R112 to R115, R217): it is the command's, it is valid, its job or
pass is there, its clusters are, no earlier descriptor holds it back and its panels are there; in `u` its clusters wear its tenant's glove
and its tiles are granted to its stream. -/
def MatrixMayIssue (s u : State) (m : MatIssue) (op : Nat) (x : Issue) : Prop :=
  let d := mdesc m.words
  let cs := s.namedClusters m.die d.clusterMask
  d.op = op ∧ m.words.length = 8 ∧ d.invalid = false ∧
    s.issue? m.die m.jobSeq m.opIndex m.words d.clusterMask (if d.bsrc = 0 then some d.trans else none) = some x ∧
    Nat.log2 d.clusterMask < (s.die m.die).map.length ∧ s.matrixWaits x m d cs = false ∧
    (s.wearFor x m.die cs).servingTiles x m.die d cs = some u

/-- The matrix-op commands (R85, R86, R91, R110 to R118): a descriptor that may not issue changes nothing; one that may stands on
the scoreboard of its die with its operands, to retire once its output is written, or after pass 2 of SCALE_SRC 1; it touches
no memory, no request, no row of a cluster, and no tile of another engine; a tensor only where it writes output; where no NaN
event arose, no job and no message. Rows of another owner are withheld and reported, nothing of theirs is written (R48); tiles
that are not its stream's stop it (R86). Where the spec leaves a choice, this follows assumptions 37, 38, 39, 78, 80, 88, 93,
the model's own. -/
def Obligations.MatrixOpsIssue : Prop :=
  ∀ (s : State) (m : MatIssue) (i : Instr) (op : Nat), (i, op) ∈ matrixOps m →
    let d := mdesc m.words
    let cs := s.namedClusters m.die d.clusterMask
    let may := s.issue? m.die m.jobSeq m.opIndex m.words d.clusterMask (if d.bsrc = 0 then some d.trans else none)
    (d.op ≠ op ∨ m.words.length ≠ 8 ∨ d.invalid = true ∨ may = none → Answers i s fun t => t = s) ∧
    (∀ x, may = some x → Nat.log2 d.clusterMask < (s.die m.die).map.length →
      s.matrixWaits x m d cs = true ∨ (s.wearFor x m.die cs).servingTiles x m.die d cs = none → Answers i s fun t => t = s) ∧
    (∀ x u, MatrixMayIssue s u m op x →
      let owned := ∀ c ∈ cs, u.ownsTiles x.st m.die c.2 d = true
      let m' := u.operands x m
      let flight := fun (f : Flight) => f.die = m.die ∧ f.stream = x.st ∧ f.issue = m' ∧ f.clusters.toNat = d.clusterMask
      (owned → u.foreignRows x d m' m.die cs = [] → PoliciesOff s → Answers i s fun t =>
        (∃ f, t.flights = s.flights ++ [f] ∧ flight f ∧ f.isolation = false ∧
          f.phase = (if d.last = true ∧ d.scaleSrc = 1 then 1 else 2) ∧
          (f.traps = [] → t.jobs = s.jobs ∧ t.rot = s.rot ∧ t.cp = s.cp ∧ t.cts = s.cts)) ∧
        t.mem = s.mem ∧ t.pages = s.pages ∧ t.requests = s.requests ∧ t.cabs = s.cabs ∧
        t.streams = s.streams ∧ (d.bsrc = 0 → t.dies = s.dies) ∧ t.grants = u.grants ∧ t.vengines = s.vengines ∧
        (op ≠ 5 → t.runs = s.runs) ∧ (d.out = 0 ∨ d.last = false ∨ d.scaleSrc = 1 → t.tensors = s.tensors) ∧
        (d.bsrc ≠ 0 → t.clusters = u.clusters) ∧
        (∀ die c, { t.cluster die c with bufs := (u.cluster die c).bufs } = u.cluster die c) ∧
        ∀ die c e p, die ≠ m.die ∨ c ∉ cs.map Prod.snd ∨ e ∉ d.engines → t.tile die c e p = u.tile die c e p) ∧
      (owned → u.foreignRows x d m' m.die cs ≠ [] → PoliciesOff s → Answers i s fun t =>
        (∃ f, t.flights = s.flights ++ [f] ∧ flight f ∧ f.isolation = true ∧ f.phase = 2) ∧ t.tiles = u.tiles ∧
          t.tensors = s.tensors ∧ t.runs = s.runs ∧ t.mem = s.mem ∧ t.clusters = u.clusters) ∧
      (¬owned → PoliciesOff s → Answers i s fun t => (∀ f ∈ t.flights, f ∈ s.flights) ∧ t.mem = s.mem))

/-- What a matrix-op descriptor leaves in an accumulator entry (R82, R94, R113, R158, R160 to R163): of each row that takes part
and each output column whose tile no later column uses again, the dot product in group order, started from the entry as it
stood, with the side path's term, stands in the row's engine and tile; in COMPENSATED mode its error stands in the next tile.
Where the spec leaves a choice, this follows assumptions 37, 38, 80, 88, the model's own. -/
def Obligations.MatrixOpsAccumulate : Prop :=
  ∀ (s u : State) (m : MatIssue) (i : Instr) (op : Nat) (x : Issue), (i, op) ∈ matrixOps m → MatrixMayIssue s u m op x →
    let d := mdesc m.words
    let cs := s.namedClusters m.die d.clusterMask
    let m' := u.operands x m
    (∀ c ∈ cs, u.ownsTiles x.st m.die c.2 d = true) → u.foreignRows x d m' m.die cs = [] → PoliciesOff s →
    (∀ g ∈ u.grants, g.tiles.Nodup) → (s.die m.die).map.Nodup → Answers i s fun t =>
      ∀ l c p j, (l, c) ∈ cs → p < d.rowCount → j < d.n → d.kept j = true → (u.rowInfo x d m.die l c p).out = false →
        let row := (u.cluster m.die c).row d p
        let start := u.startEntry x.st m.die c d p j
        let run := (d.chunk + 1) * 16
        let col := weightCol d m'.weights j
        let dot := dotGroupOrder d.acc d.width run row col start
        let e := match u.rowSide x d m.die (u.rowInfo x d m.die l c p) row with
          | some (f, one) => addSide d.acc one (colOf f.two j) (entryBefore d.acc d.width run row col start) dot
          | none => dot
        let held := fun (tile : Nat) => assocGet (d.key p j) (t.ltile x.st m.die c (d.eng p j) tile).entries
        held (d.tileOf p j) = some (BitVec.ofNat 42 (e.s.getD 0)) ∧
          (d.acc = 1 → held (d.tileOf p j + 1) = some (BitVec.ofNat 42 e.c))

/-- A dot product may be cut (R158, R160, R161, R163): over K elements it leaves what the elements after a run boundary leave when
they start from what those before it left; and one group from an empty entry leaves its exact sum rounded once. -/
def Obligations.DotProductsSplitAtRuns : Prop :=
  (∀ (mode W L : Nat) (x y a b : List Elem) (e : Entry), mode ≤ 2 → 0 < W → 0 < L → L % W = 0 → x.length = a.length →
    x.length % L = 0 →
    let whole := dotGroupOrder mode W L (x ++ y) (a ++ b) e
    let parts := dotGroupOrder mode W L y b (dotGroupOrder mode W L x a e)
    whole.s = parts.s ∧ whole.c = parts.c ∧ whole.ch = parts.ch ∧ whole.sat = parts.sat ∧ whole.satC = parts.satC) ∧
  (∀ (W L : Nat) (x a : List Elem), x ≠ [] → x.length = a.length → x.length ≤ W →
    (dotGroupOrder 0 W L x a Entry.empty).s =
      some (roundAF (sumExact ((x.zip a).map fun p => p.1.v.mul p.2.v))).1)

/-- VECTOR_DESCRIPTOR (R104, R192, R198, R215, R219): a descriptor starts on the engine of each cluster that it names, with registers, masks
and flags cleared, its clusters wearing its tenant's glove; one that may not issue, and one whose engine still holds another, changes
nothing; one of the library changes nothing while it waits, and no byte of HBM. -/
def VectorDescriptorsStart : Prop :=
  ∀ (s : State) (die : Die) (q : BitVec 32) (op : BitVec 20) (words : List Word),
    let i := Instr.vectorDescriptor die q op words
    let d := vdesc words
    let cs := s.namedClusters die d.clusterMask
    let valid := words.length = 12 ∧ d.op = 0x10 ∧ d.inner ≠ 0 ∧ d.outer ≠ 0 ∧ d.opro + d.pro + d.epi + d.oepi ≤ d.bodyLen
    let may := s.issue? die q op words d.clusterMask none
    (¬valid ∨ may = none → Answers i s fun t => t = s) ∧
    (∀ x, may = some x → Nat.log2 d.clusterMask < (s.die die).map.length →
      (∃ c ∈ cs, (s.vengine? ⟨die, c.2⟩).isSome = true) → Answers i s fun t => t = s) ∧
    (∀ x, valid → may = some x → Nat.log2 d.clusterMask < (s.die die).map.length → d.library = true →
      (∀ c ∈ cs, s.vengine? ⟨die, c.2⟩ = none) →
      ((s.wearFor x die cs).startVector die cs words q op = none → Answers i s fun t => t = s) ∧
      (PoliciesOff s → Answers i s fun t => t.mem = s.mem)) ∧
    (∀ x, valid → may = some x → Nat.log2 d.clusterMask < (s.die die).map.length → d.library = false →
      (∀ c ∈ cs, s.vengine? ⟨die, c.2⟩ = none) → Answers i s fun t =>
        { t with vengines := s.vengines, clusters := s.clusters, useClock := s.useClock } = s ∧
        (∀ v ∈ s.vengines, (∀ c ∈ cs, v.u ≠ ⟨die, c.2⟩) → v ∈ t.vengines) ∧
        ∀ c ∈ cs, ∃ v ∈ t.vengines, v.u = ⟨die, c.2⟩ ∧ v.desc = words ∧ v.jobSeq = q ∧ v.opIndex = op ∧ v.stopped = false ∧
          (∀ r ∈ v.regs, r = 0) ∧ v.regs.length = 32 ∧ (∀ r ∈ v.masks, r = 0) ∧ v.masks.length = 8 ∧ (∀ r e, v.flag r e = 0) ∧
          (∀ k ∈ v.regMarks, k = ⟨0, 0xffff⟩) ∧ v.traps = [] ∧ v.counts = Counts.zero)

/-- SCALE_PASS_2 and DESCRIPTOR_RETIRE (R63, R71, R115, R136, R137, R188, R214): pass 2 changes tensors alone and lets its descriptor
retire; a descriptor whose pass 2 is due, or that another cluster still runs, stays; one of a job that retires writes its status
record, and the job's last one ends the job. A vector descriptor is one of the program's; STRICT_DOT of the library (R220) may go on to its
next segment instead. -/
def DescriptorsRetire : Prop :=
  ∀ (s : State) (die : Die) (st : Fin 4096) (q : BitVec 32) (op : BitVec 20), s.cpRuns = true →
    let pass2 := Instr.scalePass2 die st q op
    let retire := Instr.descriptorRetire die st q op
    let mine := fun (f : Flight) => f.die == die && f.stream == st && f.issue.jobSeq == q && f.issue.opIndex == op
    let found := s.flights.find? mine
    let due := s.flights.find? fun f => mine f && f.phase == 1
    let engines := s.vengines.filter fun v => v.isOp die st q op
    (due = none ∨ s.cabOfDie die = none → Answers pass2 s fun t => t = s) ∧
    (due ≠ none → s.cabOfDie die ≠ none → Answers pass2 s fun t =>
      { t with flights := s.flights, tensors := s.tensors } = s ∧ t.flights.length = s.flights.length ∧
        ∀ (n : Nat) (f : Flight), s.flights[n]? = some f → ∃ g : Flight, t.flights[n]? = some g ∧
          (g = f ∨ (some f = due ∧ g.phase = 2 ∧ { g with phase := f.phase, counts := f.counts } = f))) ∧
    (∀ f, found = some f → f.phase ≠ 2 → Answers retire s fun t => t = s) ∧
    (found = none → engines = [] ∨ (∃ v ∈ engines, v.finished = false ∧ v.stopped = false) → Answers retire s fun t => t = s) ∧
    (∀ f, found = some f → f.phase = 2 → f.traps = [] → s.job? st q = none → Answers retire s fun t =>
      t.flights = s.flights.erase f ∧ { t with flights := s.flights, clusters := s.clusters } = s) ∧
    (∀ j, s.job? st q = some j → j.phase ≠ 2 → s.dies.length = 16 →
      let last := j.count * (diesOf j.dies).length ≤ j.retired + 1
      (∀ f, found = some f → f.phase = 2 → f.traps = [] →
        (¬last → Answers retire s fun t => t.flights = s.flights.erase f ∧ (t.die die).queue = (s.die die).queue ++ [(st, q, op)] ∧
          (∀ b, s.tensor? st j.status die = some b → t.tensor? st j.status die = some (b.write (64 * (op.toNat - j.entry))
            (wordsToBytes (statusWords st q op f.counts f.clusters.toNat s.now)))) ∧
          (∃ j', t.job? st q = some j' ∧ j' = { j with retired := j.retired + 1 }) ∧ t.mem = s.mem ∧ t.tiles = s.tiles ∧
          t.grants = s.grants ∧ t.requests = s.requests ∧ t.rot = s.rot ∧ t.cp = s.cp) ∧
        (last → s.awaits j.reply = true → (∀ k, j.reply.src ≠ .session k) → (∀ x, s.stream? st.val = some x → x.isClosing = false) → Answers retire s fun t =>
          t.job? st q = none ∧ t.answered j.reply q.toNat Code.ok [] = true)) ∧
      (found = none → engines ≠ [] → (∀ v ∈ engines, v.body = [] ∧ (v.finished = true ∨ v.stopped = true)) → ¬last →
        Answers retire s fun t =>
        (∀ v ∈ t.vengines, v.isOp die st q op = false) ∧ (∃ j', t.job? st q = some j' ∧ j' = { j with retired := j.retired + 1 }) ∧
          t.mem = s.mem ∧ t.tiles = s.tiles ∧ t.flights = s.flights ∧ t.cp = s.cp))

/-- Vector descriptors start, descriptors retire. Where the spec leaves a choice, this follows assumptions 38, 66, 78, 86, the
model's own. -/
def Obligations.DescriptorsStartAndRetire : Prop := VectorDescriptorsStart ∧ DescriptorsRetire

/-! ## Numbers -/

/-- The rational number that a finite value stands for. -/
def exactOf : FV → Option ℚ
  | .fin s m e => some ((if s then -1 else 1) * (m : ℚ) * (2 : ℚ) ^ e)
  | _ => none

/-- NaN codes (R126): in each format, exactly the codes that the rule lists read as NaN; AF42 has one NaN, which is the only one that a
rounding into AF42 gives; and a NaN read from any of them is written as the canonical NaN of each format. -/
def Obligations.NanCodesAreRead : Prop :=
  (∀ c : BitVec 32, fFP32.dec c.toNat = .nan ↔ c.extractLsb' 23 8 = 0xff ∧ c.extractLsb' 0 23 ≠ 0) ∧
  (∀ c : BitVec 16, fFP16.dec c.toNat = .nan ↔ c.extractLsb' 10 5 = 0x1f ∧ c.extractLsb' 0 10 ≠ 0) ∧
  (∀ c : BitVec 16, fBF16.dec c.toNat = .nan ↔ c.extractLsb' 7 8 = 0xff ∧ c.extractLsb' 0 7 ≠ 0) ∧
  (∀ c : BitVec 8, fE4M3.dec c.toNat = .nan ↔ c = 0x7f ∨ c = 0xff) ∧
  (∀ c : BitVec 8, fE5M2.dec c.toNat = .nan ↔ (0x7d ≤ c ∧ c ≤ 0x7f) ∨ 0xfd ≤ c) ∧
  fAF42.dec 0x1ffe0000000 = .nan ∧
  (∀ x : FV, fAF42.dec (roundAF x).1 = .nan ↔ x = .nan) ∧ (roundAF .nan).1 = 0x1ffe0000000 ∧
  (∀ (F : Fmt) (n : Nat), (F, n) ∈ [(fFP32, 0x7fc00000), (fFP16, 0x7e00), (fBF16, 0x7fc0), (fE4M3, 0x7f), (fE5M2, 0x7e),
    (fAF42, 0x1ffe0000000)] → F.nanCode = n ∧ ∀ c, F.dec c = .nan → F.ofFV (F.dec c) = n)

/-- round_af42 and the exact sum (R122, R143, R159): a value rounds to a nearest AF42 value, on a tie to the one whose last bit is 0,
and keeps its sign when it becomes zero; half a unit above the largest finite value and beyond, it becomes that value with its sign,
and saturates; infinities pass, NaN becomes the one NaN. A sum of finite values is exact; one that is zero is +0 unless both are −0. -/
def Obligations.RoundingIsNearest : Prop :=
  (∀ (s : Bool) (m : Nat) (e : Int) (x : ℚ), exactOf (.fin s m e) = some x →
    let r := roundAF (.fin s m e)
    ((2 - (2 : ℚ) ^ (-31 : Int)) * 2 ^ (1023 : Int) ≤ |x| →
      r = (if s then 0x3ffbfffffff else 0x1ffbfffffff, true)) ∧
    (|x| < (2 - (2 : ℚ) ^ (-31 : Int)) * 2 ^ (1023 : Int) →
      r.2 = false ∧ r.1 < 2 ^ 42 ∧ (af r.1).neg = s ∧ ∃ y, exactOf (af r.1) = some y ∧ ∀ (c : Nat) (z : ℚ), c < 2 ^ 42 →
        exactOf (af c) = some z → |x - y| ≤ |x - z| ∧ (|x - y| = |x - z| → z ≠ y → r.1 % 2 = 0))) ∧
  (∀ s : Bool, roundAF (.inf s) = (if s then 0x3ffc0000000 else 0x1ffc0000000, false)) ∧
  roundAF .nan = (0x1ffe0000000, false) ∧
  (∀ (a b : FV) (x y : ℚ), exactOf a = some x → exactOf b = some y →
    exactOf (a.add b) = some (x + y) ∧ (x + y = 0 → ((a.add b).neg = true ↔ x = 0 ∧ y = 0 ∧ a.neg = true ∧ b.neg = true))) ∧
  (∀ (e : Entry) (g : FV), (plainAdd e g).1.sat = (e.sat ||
    (match e.s with | none => (roundAF g).2 | some a => (roundAF ((af a).add g)).2)))

/-- PLAIN accumulation (R161): groups of W elements enter in ascending order; in PLAIN mode an empty entry takes the group's exact sum
rounded once, and an entry that holds a value takes their exact sum rounded once. -/
def Obligations.PlainModeAccumulates : Prop :=
  (∀ (mode W L : Nat) (x w : List Elem) (e : Entry), 0 < W → x.length = w.length →
    let groups := (x.length + W - 1) / W
    dotGroupOrder mode W L x w e = (List.range groups).foldl (fun e g =>
      addGroup mode g (g + 1 == groups || (g + 1) * W % L == 0) (((x.zip w).drop (g * W)).take W) e) e) ∧
  (∀ (g : Nat) (last : Bool) (ps : List (Elem × Elem)) (e : Entry),
    let G := sumExact (ps.map fun p => p.1.v.mul p.2.v)
    let y := addGroup 0 g last ps e
    y.c = e.c ∧ y.ch = e.ch ∧ (e.s = none → y.s = some (roundAF G).1) ∧
      (∀ a, e.s = some a → y.s = some (roundAF ((af a).add G)).1)) ∧
  (∀ (ps : List (Elem × Elem)) (xs : List ℚ), ps.map (fun p => (do return (← exactOf p.1.v) * (← exactOf p.2.v) : Option ℚ)) = xs.map some →
    exactOf (sumExact (ps.map fun p => p.1.v.mul p.2.v)) = some xs.sum)

/-- The check of a bucket (R316): where the sum of the elements handed on, rounded once, CS, ABS and ERR_ABS are finite, the bucket passes
when |R − C| ≤ 2^(−TAU_EXP) · A + E, exactly, and else fails with CHECKSUM_MISMATCH; where one of them is not finite, it fails with
NONFINITE_SUM. With a failed bucket its owner is never ready, so that the step does not commit. -/
def Obligations.BucketsAreChecked : Prop :=
  (∀ (tau : Nat) (out : List Nat) (x : Item),
    let r := (checkSum tau out x).1
    let bad := (checkSum tau out x).2
    let vals := [af r, af x.cs.toNat, af x.absSum.toNat, af x.errAbs.toNat]
    (∀ xs : List ℚ, out.map (fun c => exactOf (af c)) = xs.map some → ∃ v, r = (roundAF v).1 ∧ exactOf v = some xs.sum) ∧
    (∀ R C A E : ℚ, vals.map exactOf = [some R, some C, some A, some E] →
      (|R - C| ≤ (2 : ℚ) ^ (-(tau : Int)) * A + E → bad = none) ∧
      (¬|R - C| ≤ (2 : ℚ) ^ (-(tau : Int)) * A + E → bad = some Code.checksumMismatch)) ∧
    (none ∈ vals.map exactOf → bad = some Code.nonfiniteSum)) ∧
  (∀ (x : Reduction) (a : Item) (now : Nat), x.acc = some a → x.state = 0 → a.held ||| a.dropped = mapOf x.chain →
    let given := handOn x.wire.val x.elems a
    let tell := checkSum x.tauExp given.1 given.2
    let y := x.settle now
    y.result = given.1.map (fun c => BitVec.ofNat 42 c) ∧ y.r = BitVec.ofNat 42 tell.1 ∧ y.acc = some given.2 ∧
      (tell.2 = none → y.state = 1) ∧ (∀ c, tell.2 = some c → y.state = 2 ∧ y.cause = c)) ∧
  (∀ (s : State) (r : Run) (x : Reduction), s.run? x.run = some r → r.id = x.run → x ∈ s.reductions → x.era = 0 → x.state = 2 →
    x.position.val = posOf (s.spanOf r) x.owner → Answers (.ownerReady x.run x.owner) s fun t => t = s)

/-- RESERVE_STATUS (R455): stream 0 only; four words with the fields of the table, each read from the bits that the table gives. -/
def Obligations.ReserveRecord : Prop :=
  (∀ (s : State) (src : Src) (req : Req), s.shape = true → s.admits infoReserveStatus src req = true →
    (∀ d ∈ s.dies, d.mapNow.length ≤ 9) →
    ∃ w0 w1 w2 w3 : Word, Completes (.reserveStatus src req) s infoReserveStatus src req Code.ok [w0, w1, w2, w3] s ∧
      let retired := ((List.finRange 16).filter fun d : Die => !(s.die d).inService).length
      let clusters := ((List.finRange 16).map fun d : Die => if (s.die d).inService then (s.die d).mapNow.length else 0).sum
      (bits w0 63 60 = 4 - retired) ∧
      (∀ d : Die, w0.getLsbD (44 + d.val) = (s.die d).spare?.isNone ∧ w0.getLsbD (28 + d.val) = !(s.die d).inService) ∧
      (∀ c : Ct, w0.getLsbD (26 + c.val) = s.ctServes c) ∧ w0.getLsbD 25 = decide (5 ≤ retired) ∧ bits w0 24 0 = 0 ∧
      (∀ h : Stack, w1.getLsbD (32 + h.val) = (s.stk h).inService) ∧
      bits w1 31 16 = 4096 - (s.ct s.cp.active).fuses.length ∧
      bits w1 15 0 = ((List.finRange 32).filter fun h : Stack => (s.stk h).rowLevel ≠ 0 ∨ (s.stk h).laneLevel ≠ 0).length ∧
      bits w2 63 32 = clusters ∧ bits w2 31 0 = clusters * 3407872 / 10000 ∧ w3 = BitVec.ofNat 64 s.now) ∧
  (∀ (s : State) (ct : Ct) (n : Fin 56) (req : Req) (x : Stream), n.val < 48 → s.stream? req.stream.val = some x →
    req.stream.val ≠ 0 → (s.routeCode infoReserveStatus (.tray ct n) req).isSome = true)

/-- SET_REDUCTION (R328): two words; the values of a running or stopped run's next step, each in its range; a value outside its range is
refused and no setting changes; a run starts with the defaults. -/
def Obligations.ReductionSettings : Prop :=
  (∀ (s : State) (src : Src) (req : Req) (x : Run), s.admits infoSetReduction src req = true →
    let w := wordAt req.payload
    s.run? (BitVec.ofNat 32 (bits (w 0) 63 32)) = some x → s.foreign (replyOf infoSetReduction src req) x.tenant = false →
    x.state = RunSt.running ∨ x.state = RunSt.stopped →
    let dl := bits (w 0) 31 0
    let tau := bits (w 1) 63 58
    let wire := bits (w 1) 57 55
    let head := bits (w 1) 54 52
    let bucket := bits (w 1) 51 28
    let ok := 100 ≤ dl ∧ dl ≤ 1000000 ∧ 8 ≤ tau ∧ tau ≤ 24 ∧ wire ≤ 4 ∧ (head ≤ 4 ∨ head = 7) ∧ 4096 ≤ bucket ∧ bucket ≤ 4194304 ∧
      bucket % 4096 = 0
    let ends := fun (code : Nat) (u : State) => Completes (.setReduction src req) s infoSetReduction src req code [] u
    let v : RedSettings := { deadline := dl, tauExp := tau, wire := Fin.ofNat 8 wire, headroom := head, bucket := bucket }
    (ok → ends Code.ok (s.modRun x.id fun y => { y with settingsNext := some v })) ∧
    (¬ok → ends Code.valueOutOfRange s)) ∧
  (∀ (s : State) (src : Src) (req : Req), s.admits infoSetReduction src req = true →
    req.payload.length = 2 ∧ bits (wordAt req.payload 1) 27 0 = 0) ∧
  RedSettings.start = { deadline := 2000, tauExp := 20, wire := 0, headroom := 7, bucket := 1048576 }

/-! ## Commands complete -/

/-- The commands that read a record complete with it (sessions numbered without repetition) (R74, R364, R393, R396, R405, R428, R434, R462, R489): a request that goes through, with a
buffer of control memory large enough where it names one, ends with OK, and nothing of the module but what the command writes changes. -/
def RecordCommandsComplete : Prop :=
  ∀ (s : State) (src : Src) (req : Req),
    let ws := req.payload
    let w := wordAt ws 0
    let len := (wordAt ws 1).toNat
    let done := fun (i : Instr) (info : CmdInfo) (words : List Word) (u : State) => Completes i s info src req Code.ok words u
    (s.admits infoQueryCaps src req = true → ∃ l, done (.queryCaps src req) infoQueryCaps l s ∧ l.length = 8 ∧
      bits (wordAt l 0) 31 0 = 0x93216 ∧ bits (wordAt l 2) 15 0 = s.activeClusters % 2 ^ 16) ∧
    (s.admits infoMemoryStatus src req = true → ∃ l, done (.memoryStatus src req) infoMemoryStatus l s ∧
      let x := s.stk (Fin.ofNat 32 (bits w 63 59))
      l.length = 4 ∧ (x.corrected < 2 ^ 32 → bits (wordAt l 0) 63 32 = x.corrected) ∧
        (x.uncorrectable < 2 ^ 32 → bits (wordAt l 0) 31 0 = x.uncorrectable) ∧ wordAt l 3 = BitVec.ofNat 64 x.patrolTime) ∧
    (s.admits infoEdgeStatus src req = true → s.idsUnique → ∃ l, done (.edgeStatus src req) infoEdgeStatus l s ∧
      let x := s.edge (Fin.ofNat 4 (bits w 63 62))
      l.length = 4 ∧ (wordAt l 0).getLsbD 63 = x.linkUp ∧ bits (wordAt l 0) 60 59 = x.attach.toNat) ∧
    (s.admits infoTelemetryRead src req = true → ∃ l, done (.telemetryRead src req) infoTelemetryRead l s ∧
      l.length = 13 ∧ wordAt l 0 = BitVec.ofNat 64 s.telem.powerTime ∧ wordAt l 2 = BitVec.ofNat 64 s.telem.tempTime) ∧
    (∀ off, s.admits infoErrorLogRead src req = true → s.buffer? src w.toNat len = some off →
      let c : Ct := Fin.ofNat 2 (b2n (bitAt (wordAt ws 2) 63))
      let from_ : BitVec 32 := BitVec.ofNat 32 (bits (wordAt ws 2) 31 0)
      let part := ((s.ct c).log.drop ((s.ct c).logStart from_)).take (len / 64)
      ∃ n : BitVec 32, done (.errorLogRead src req) infoErrorLogRead
        [word (part.length * 2 ^ 32 + ((s.ct c).logSeq - BitVec.ofNat 32 (s.ct c).log.length).toNat)]
        ((s.writeCtl off (part.flatMap wordsToBytes)).modCt c fun y => { y with logRead := n })) ∧
    (∀ off, s.admits infoResync src req = true → (∀ n, src ≠ .session n) → s.buffer? src w.toNat len = some off →
      ∃ bs : List Byte, (bs.length ≤ len → done (.resync src req) infoResync [word bs.length] (s.writeCtl off bs)) ∧
        (len < bs.length → Completes (.resync src req) s infoResync src req Code.bufferTooSmall [word bs.length] s)) ∧
    (s.admits infoAttest src req = true → bitAt w 58 = false → ∃ l, done (.attest src req) infoAttest l { s with freeCtr := s.freeCtr + 1 } ∧
      1440 + 3309 ≤ 8 * l.length ∧ wordAt l 2 = BitVec.ofNat 64 s.now)

/-- The commands on drawers, and the steps of a fetch, complete (R235, R238, R239, R244, R245, R248, R250, R257): a handle that is bound
nowhere takes a free slot; a slot that nothing pins is unbound; residencies that nothing pins are evicted; a prefetch begins its fetches; an
object delivered goes into the catalog cache and its fetch goes on to its pieces; a fetch that waited for pages has them; a fetch that
completes makes its residency complete. -/
def DrawerCommandsComplete : Prop :=
  (∀ (s : State) (src : Src) (req : Req),
    let ws := req.payload
    let h := wordAt ws 0
    let c := cabOf (wordAt ws 1)
    let idle := ∀ f ∈ s.fetches, f.step ≠ FStep.queued
    (∀ n, s.admits infoBindDrawer src req = true → h ≠ 0 → s.foreign (replyOf infoBindDrawer src req) (s.ownerOf h) = false →
      s.slotOf c h = none → firstFree (fun n => (s.slot? c n).isSome) 16384 0 = some n → Answers (.bindDrawer src req) s fun t =>
        t.answered (replyOf infoBindDrawer src req) 0 Code.ok [word (n * 2 ^ 48 + (s.slotGen c n + 1).toNat * 2 ^ 32)] = true ∧
        (∃ x, t.slot? c n = some x ∧ x.state = SState.bound ∧ x.handle = h ∧ x.gen = s.slotGen c n + 1 ∧ x.run = none ∧
          t.slots = s.slots ++ [x]) ∧
        t.slotGen c n = s.slotGen c n + 1 ∧ t.residencies = s.residencies ∧ t.pages = s.pages ∧ t.mem = s.mem) ∧
    (∀ x, s.slot? c (slotField ws) = some x → x.run = none → x.state = SState.bound → idle → s.idsUnique →
      (∀ y ∈ s.residenciesOf x.cab x.slot, y.pins = 0) →
      (s.admits infoUnbindDrawer src req = true → s.foreign (replyOf infoUnbindDrawer src req) x.owner? = false →
        Answers (.unbindDrawer src req) s fun t => t.ended (replyOf infoUnbindDrawer src req) = true ∧ t.slot? x.cab x.slot = none ∧
          t.residenciesOf x.cab x.slot = [] ∧ t.mem = s.mem) ∧
      (s.admits infoEvictDrawer src req = true → s.foreign (replyOf infoEvictDrawer src req) x.owner? = false →
        s.outside x.cab (diesField ws) = false → bitAt (wordAt ws 1) 27 = false →
        (∀ y ∈ s.residenciesOf x.cab x.slot, y.state ≠ 2) → Answers (.evictDrawer src req) s fun t =>
          t.ended (replyOf infoEvictDrawer src req) = true ∧ t.mem = s.mem ∧
          ∀ y ∈ t.residenciesOf x.cab x.slot, ∀ d ∈ s.groupOfCab x.cab y.group, hasDie (diesField ws) d.val = false)) ∧
    (∀ x g, s.slot? c (slotField ws) = some x → s.admits infoPrefetchDrawer src req = true →
      s.foreign (replyOf infoPrefetchDrawer src req) x.owner? = false → s.outside x.cab (diesField ws) = false → prefetchCode x = none →
      (∀ o ∈ s.catalog, o.handle ≠ x.handle) → (∀ f ∈ s.fetches, ¬(f.cab = x.cab ∧ f.slot = x.slot)) → FetchIdsAreNew s →
      g ∈ (s.cab x.cab).groups → (∃ d ∈ s.groupOfCab x.cab g, hasDie (diesField ws) d.val = true) → s.residency? x.cab x.slot g = none →
      Answers (.prefetchDrawer src req) s fun t => t.acceptedReq (replyOf infoPrefetchDrawer src req) 0 = true ∧
        ∃ f ∈ t.fetches, f.cab = x.cab ∧ f.slot = x.slot ∧ f.group = g ∧ f.handle = x.handle ∧
          replyOf infoPrefetchDrawer src req ∈ f.replies) ∧
    (∀ (f : Fetch) (o : CatObj), s.fetch? f.id = some f → idle → s.admits infoCatalogDeliver src req = true → (∀ k, src ≠ .session k) →
      bits h 31 0 = f.id.toNat → bits h 63 56 = 0 → f.step = FStep.catalog → f.dataset = true → o.handle = f.handle →
      o.bytes ≤ maxImage → (∀ y ∈ s.catalog, y.handle ≠ f.handle) → Answers (.catalogDeliver src req (some o)) s fun t =>
        t.answered (replyOf infoCatalogDeliver src req) 0 Code.ok [] = true ∧ t.mem = s.mem ∧ t.pages = s.pages ∧
          ∃ g, t.fetch? f.id = some g ∧ g.step = FStep.pieces ∧ g.handle = f.handle)) ∧
  (∀ (s : State) (f : Fetch) (o : CatObj) (img : DrawerImage), s.shape = true → s.fetch? f.id = some f →
    (∀ x ∈ s.fetches, x.step ≠ FStep.queued) → f.dataset = false → f.run = none → s.objOf f = some o → o.image = some img →
    (∀ u glove, f.step = FStep.pages → o.bytes ≤ maxImage → ((s.tenantGlove? o.tenant).map Glove.id).getD 0 = glove →
      (s.cab f.cab).cacheReplies = [] →
      (∀ x ∈ s.fetches, x.step = FStep.pages → x.id ≠ f.id → ¬(x.cab = f.cab ∧ x.group = f.group)) →
      (s.modSlot f.cab f.slot fun x => if x.run.isSome then x else
        { x with version := o.version, tenant := x.owner?.getD o.tenant, known := true }).reserve? f.cab f.slot f.group img glove = some u →
      u.fetches = s.fetches → Answers (.fetchResume f.id) s fun t =>
        (∃ g, t.fetch? f.id = some g ∧ g.step = FStep.pieces ∧ g.version = o.version) ∧ t.pages = u.pages ∧ t.mem = u.mem) ∧
    (∀ x y, f.step = FStep.pieces → s.intakeCode f o false = none → s.slot? f.cab f.slot = some x →
      s.residency? f.cab f.slot f.group = some y → y.state = 0 → Answers (.fetchComplete f.id) s fun t =>
        (∃ z, t.residency? f.cab f.slot f.group = some z ∧ z.state = 1 ∧ z.image = some img) ∧ (∀ k ∈ t.fetches, k.id ≠ f.id) ∧
          (∃ z, t.slot? f.cab f.slot = some z ∧ z.image = some img ∧ z.rank = rankOf img ∧ z.gen = x.gen)))

/-- The mask, selection, bit, reduction, plane and flag instructions complete (R191, R203, R204, R206, R208, R211, R213): without a mask to
govern them, where their operands' marks agree, each writes its destination from its operands element by element and the engine goes on. -/
def MaskCommandsComplete : Prop :=
  ∀ (s : State) (u : VUnit) (v : VEngine) (m : Mark),
    let d := vdesc v.desc
    (∀ f : RFields, f.men = false → f.ba = false →
      let ty := f.type.val
      let step := vMaskStep ty
      let a := fun (e : Nat) => v.elem ty f.va.val e
      let b := fun (e : Nat) => v.elem ty f.vb.val e
      let bitA := fun (e : Nat) => v.maskBit (f.va.val % 8) (step * e)
      let bitB := fun (e : Nat) => v.maskBit (f.vb.val % 8) (step * e)
      let joins := fun (ms : List Mark) => joinMarks d.owner ms = some m
      let both := v.marksOf ty f.va.val ++ v.marksOf ty f.vb.val
      let maskIs := fun (i : Instr) (res : Nat → Bool) => Answers i s fun t => ∃ x, t.vengine? u = some x ∧ VecGoesOn s t v x ∧
        (∀ k, k < 512 → x.maskBit (f.vd.val % 8) k = res (k / step)) ∧ x.maskMark (f.vd.val % 8) = m ∧ x.regs = v.regs
      let regIs := fun (i : Instr) (res : Nat → Nat) => Answers i s fun t => ∃ x, t.vengine? u = some x ∧ VecGoesOn s t v x ∧
        (∀ e, e < vCount ty → x.elem ty f.vd.val e = res e) ∧ x.regMark f.vd.val = m ∧ x.masks = v.masks
      (VecRuns s u (wordR 0x10 f) v → 4 ≤ ty → joins both →
        maskIs (.vcmp u f) fun e =>
          let x := signed (vElemBits ty) (a e)
          let y := signed (vElemBits ty) (b e)
          [decide (x = y), decide (x ≠ y), decide (x < y), decide (x ≤ y), decide (y < x), decide (y ≤ x)].getD f.xf.val false) ∧
      (VecRuns s u (wordR 0x11 f) v → joins [v.maskMark (f.va.val % 8), v.maskMark (f.vb.val % 8)] →
        maskIs (.mand u f) fun e => bitA e && bitB e) ∧
      (VecRuns s u (wordR 0x12 f) v → joins [v.maskMark (f.va.val % 8), v.maskMark (f.vb.val % 8)] →
        maskIs (.mor u f) fun e => bitA e || bitB e) ∧
      (VecRuns s u (wordR 0x13 f) v → joins [v.maskMark (f.va.val % 8)] → maskIs (.mnot u f) fun e => !bitA e) ∧
      (VecRuns s u (wordR 0x15 f) v → joins (both ++ [v.maskMark (f.vc.val % 8)]) →
        regIs (.vsel u f) fun e => if v.maskBit (f.vc.val % 8) (step * e) then a e else b e) ∧
      (VecRuns s u (wordR 0x18 f) v → joins both → regIs (.vand u f) fun e => a e &&& b e) ∧
      (VecRuns s u (wordR 0x19 f) v → joins both → regIs (.vor u f) fun e => a e ||| b e) ∧
      (VecRuns s u (wordR 0x1a f) v → joins both → regIs (.vxor u f) fun e => a e ^^^ b e) ∧
      (VecRuns s u (wordR 0x1b f) v → joins both →
        regIs (.vshl u f) fun e => a e * 2 ^ (b e % vElemBits ty) % 2 ^ vElemBits ty) ∧
      (VecRuns s u (wordR 0x1c f) v → joins both → regIs (.vshr u f) fun e => a e / 2 ^ (b e % vElemBits ty)) ∧
      (VecRuns s u (wordR 0x1d f) v → joins both →
        regIs (.vsra u f) fun e => unsigned (vElemBits ty) (signed (vElemBits ty) (a e) / (2 ^ (b e % vElemBits ty) : Nat))) ∧
      (VecRuns s u (wordR 0x21 f) v → 4 ≤ ty → f.xf.val = 0 → joins (v.marksOf ty f.va.val) →
        Answers (.vred u f) s fun t => ∃ x, t.vengine? u = some x ∧ VecGoesOn s t v x ∧
          x.reg f.vd.val = unsigned 32 ((List.range (vCount ty)).map fun e => signed (vElemBits ty) (a e)).sum ∧
          x.regMark f.vd.val = m ∧ x.masks = v.masks) ∧
      (VecRuns s u (wordR 0x22 f) v → f.vd.val < 31 → f.half = false → (∀ e, e < 128 → v.elem 3 f.va.val e < 2 ^ 42) →
        joins (v.marksOf 3 f.va.val ++ v.marksOf 2 f.vd.val ++ v.marksOf 6 (f.vd.val + 1)) →
        Answers (.vsplit u f) s fun t => ∃ x, t.vengine? u = some x ∧ VecGoesOn s t v x ∧
          (∀ e, e < 128 → let p := splitW (fAF42.dec (v.elem 3 f.va.val e)) Counts.zero
            x.elem 2 f.vd.val e = p.1 % 2 ^ 16 ∧ x.elem 6 (f.vd.val + 1) e = p.2.1 % 2 ^ 8) ∧
          (∀ e, 128 ≤ e → e < 256 → x.elem 2 f.vd.val e = v.elem 2 f.vd.val e) ∧
          x.regMark f.vd.val = m ∧ x.regMark (f.vd.val + 1) = m ∧ x.masks = v.masks) ∧
      (VecRuns s u (wordR 0x23 f) v → f.half = false → joins (v.marksOf 2 f.va.val ++ v.marksOf 6 f.vb.val) →
        Answers (.vjoin u f) s fun t => ∃ x, t.vengine? u = some x ∧ VecGoesOn s t v x ∧
          (∀ e, e < 128 → x.elem 3 f.vd.val e = afExact (joinWR (v.elem 2 f.va.val e) (v.elem 6 f.vb.val e)) % 2 ^ 64) ∧
          x.regMark f.vd.val = m ∧ x.masks = v.masks) ∧
      (VecRuns s u (wordR 0x28 f) v → f.xf.val = 6 → joins (v.marksOf 6 f.va.val) →
        Answers (.vgetf u f) s fun t => ∃ x, t.vengine? u = some x ∧ VecGoesOn s t v x ∧
          (∀ e, e < 512 → x.elem 6 f.vd.val e = (v.flag f.va.val e).toNat ∧ x.flag f.va.val e = 0) ∧ x.regMark f.vd.val = m ∧
          x.masks = v.masks)) ∧
    (∀ f : IFields, f.men = false → joinMarks d.owner [] = some m →
      let ty := f.type.val
      let n := f.imm.toNat
      (VecRuns s u (wordI 0x14 f) v → Answers (.mrange u f) s fun t => ∃ x, t.vengine? u = some x ∧ VecGoesOn s t v x ∧
        (∀ k, k < 512 → x.maskBit (f.vd.val % 8) k =
          (decide (n % 2 ^ 16 ≤ k / vMaskStep ty) && decide (k / vMaskStep ty < n / 2 ^ 16))) ∧
        x.maskMark (f.vd.val % 8) = m ∧ x.regs = v.regs) ∧
      (VecRuns s u (wordI 0x16 f) v → Answers (.vbcast u f) s fun t => ∃ x, t.vengine? u = some x ∧ VecGoesOn s t v x ∧
        (∀ e, e < vCount ty → x.elem ty f.vd.val e =
          if ty = 3 then n + n * 2 ^ 32 else n / 2 ^ (vElemBits ty * e % 32) % 2 ^ vElemBits ty) ∧
        x.regMark f.vd.val = m ∧ x.masks = v.masks))

/-- Commands that read records, handle drawers, and write masks and planes complete. Where the spec leaves a choice, this follows
assumptions 26, 27, 28, 44, 45, 46, 52, 53, 82, 87, the model's own. -/
def Obligations.CommandsComplete : Prop := RecordCommandsComplete ∧ DrawerCommandsComplete ∧ MaskCommandsComplete
end

