-- ==== Sys2Proof/Laws/Mailbox.lean ====
section
/-!
SUPPORT. What the operations on messages leave unchanged: everything but message traffic (`State.quiet`), and what they do to
the journal. A meaning's effect is read off by rewriting with these lemmas.
-/

namespace Sys2Proof.Machine

/-! ## List helpers -/

theorem map_updAt_of {α β : Type} (g : α → β) (f : α → α) (h : ∀ x, g (f x) = g x) (i : Nat) (l : List α) :
    (updAt i f l).map g = l.map g := by
  induction l generalizing i with
  | nil => simp [updAt]
  | cons a as ih => cases i <;> simp [updAt, h, ih]

theorem map_updFirst_of {α β : Type} (g : α → β) (p : α → Bool) (f : α → α) (h : ∀ x, g (f x) = g x) (l : List α) :
    (updFirst p f l).map g = l.map g := by
  induction l with
  | nil => rfl
  | cons a as ih => by_cases hp : p a <;> simp [updFirst, hp, h, ih]

@[simp] theorem length_updAt {α : Type} (i : Nat) (f : α → α) (l : List α) : (updAt i f l).length = l.length := by
  induction l generalizing i with
  | nil => simp [updAt]
  | cons a as ih => cases i <;> simp [updAt, ih]

theorem getD_updAt {α : Type} (i j : Nat) (f : α → α) (l : List α) (d : α) :
    (updAt i f l).getD j d = if i = j ∧ j < l.length then f (l.getD j d) else l.getD j d := by
  induction l generalizing i j with
  | nil => simp [updAt]
  | cons a as ih =>
    cases i with
    | zero => cases j <;> simp [updAt]
    | succ i =>
      cases j with
      | zero => simp [updAt]
      | succ j => have := ih i j; simpa [updAt] using this

/-! ## Quiet -/

theorem quiet_modCt (s : State) (c : Ct) (f : CtDie → CtDie) (h : ∀ x, (f x).quiet = x.quiet) :
    (s.modCt c f).quiet = s.quiet := by
  simp [State.modCt, State.quiet, map_updAt_of CtDie.quiet f h]

theorem quiet_modEdge (s : State) (e : Edge) (f : EdgeSt → EdgeSt) (h : ∀ x, (f x).quiet = x.quiet) :
    (s.modEdge e f).quiet = s.quiet := by
  simp [State.modEdge, State.quiet, map_updAt_of EdgeSt.quiet f h]

theorem quiet_modCp (s : State) (f : Cp → Cp) (h : ∀ x, (f x).quiet = x.quiet) : (s.modCp f).quiet = s.quiet := by
  simp [State.modCp, State.quiet, h]

theorem quiet_modSession (s : State) (n : Nat) (f : Session → Session) (h : ∀ x, (f x).quiet = x.quiet) :
    (s.modSession n f).quiet = s.quiet := by
  simp [State.modSession, State.modRot, State.quiet, Rot.quiet, map_updFirst_of Session.quiet _ f h]

@[simp] theorem quiet_setChan (s : State) (k : Nat) (l : List JReq) : (s.setChan k l).quiet = s.quiet :=
  quiet_modCp s _ fun _ => rfl

@[simp] theorem quiet_modReq (s : State) (k : Nat) (m : BitVec 16) (f : JReq → JReq) : (s.modReq k m f).quiet = s.quiet :=
  quiet_setChan ..

@[simp] theorem quiet_jTake (s : State) (r : Reply) : (s.jTake r).quiet = s.quiet := quiet_setChan ..

@[simp] theorem quiet_tick (s : State) : s.tick.2.quiet = s.quiet := rfl

@[simp] theorem quiet_sendRecord (s : State) (x : Session) (ty c : Nat) (ms : List (List Word)) :
    (s.sendRecord x ty c ms).quiet = s.quiet := by
  refine Eq.trans (quiet_modSession _ _ _ ?_) (quiet_modEdge _ _ _ ?_) <;> exact fun _ => rfl

@[simp] theorem quiet_sendWaiting (s : State) (n fuel : Nat) : (s.sendWaiting n fuel).quiet = s.quiet := by
  induction fuel generalizing s with
  | zero => rfl
  | succ k ih =>
    unfold State.sendWaiting
    split
    · rfl
    · split
      · rfl
      · split
        · rfl
        · rw [ih]
          exact Eq.trans (quiet_modSession _ _ _ fun _ => rfl) (quiet_sendRecord ..)

@[simp] theorem quiet_deliver (s : State) (o : OutMsg) : (s.deliver o).quiet = s.quiet := by
  unfold State.deliver
  split
  · exact quiet_modCt _ _ _ fun _ => rfl
  · exact quiet_modCt _ _ _ fun _ => rfl
  · rw [quiet_sendWaiting]
    exact quiet_modSession _ _ _ fun _ => rfl

@[simp] theorem quiet_emit (s : State) (o : OutMsg) : (s.emit o).quiet = s.quiet := by
  unfold State.emit
  split
  · exact quiet_modCp _ _ fun _ => rfl
  · split
    · exact quiet_modCp _ _ fun _ => rfl
    · exact quiet_deliver ..

@[simp] theorem quiet_emitAll (s : State) (d : Src) (ms : List (List Word)) : (s.emitAll d ms).quiet = s.quiet := by
  unfold State.emitAll
  induction ms generalizing s with
  | nil => rfl
  | cons m ms ih => simp [ih]

@[simp] theorem quiet_accept (s : State) (r : Reply) (q : Nat) : (s.accept r q).quiet = s.quiet := by
  simp [State.accept]

theorem quiet_foldl_deliver (ms : List (List Word)) (d : Src) (s : State) :
    (ms.foldl (fun s m => s.deliver { dest := d, words := m }) s).quiet = s.quiet := by
  induction ms generalizing s with
  | nil => rfl
  | cons m ms ih => simp [ih]

@[simp] theorem quiet_finish (s : State) (r : Reply) (q c : Nat) (p : List Word) : (s.finish r q c p).quiet = s.quiet := by
  unfold State.finish
  split
  · simp
  · split
    · rfl
    · exact quiet_foldl_deliver ..

@[simp] theorem quiet_complete (s : State) (r : Reply) (c : Nat) (p : List Word) : (s.complete r c p).quiet = s.quiet :=
  quiet_finish ..

@[simp] theorem quiet_completeAll (s : State) (rs : List Reply) (c : Nat) (p : List Word) :
    (s.completeAll rs c p).quiet = s.quiet := by
  unfold State.completeAll
  induction rs generalizing s with
  | nil => rfl
  | cons r rs ih => simp [ih]

@[simp] theorem quiet_refuseRaw (s : State) (r : Reply) (c : Nat) : (s.refuseRaw r c).quiet = s.quiet := by
  unfold State.refuseRaw
  induction (r.msgs Kind.completion 0 c []) generalizing s with
  | nil => rfl
  | cons m ms ih => rw [List.foldl_cons, ih]; split <;> simp

@[simp] theorem quiet_postEvent (s : State) (op st : Nat) (pl : List Word) : (s.postEvent op st pl).quiet = s.quiet := by
  unfold State.postEvent
  split
  · exact quiet_modCp _ _ fun _ => rfl
  · rw [quiet_emit]; exact quiet_modCt _ _ _ fun _ => rfl

@[simp] theorem quiet_postSession (s : State) (n op st : Nat) (pl : List Word) : (s.postSession n op st pl).quiet = s.quiet := by
  unfold State.postSession
  split
  · rfl
  · rw [quiet_emit]; exact quiet_modSession _ _ _ fun _ => rfl

@[simp] theorem quiet_postStream (s : State) (op : Nat) (st : Fin 4096) (pl : List Word) :
    (s.postStream op st pl).quiet = s.quiet := by
  unfold State.postStream
  split
  · split
    · split <;> simp
    · simp
  · simp

@[simp] theorem quiet_postTenant (s : State) (t : BitVec 32) (op st : Nat) (pl : List Word) :
    (s.postTenant t op st pl).quiet = s.quiet := by
  unfold State.postTenant
  split <;> simp

theorem quiet_takeFrom (s t : State) (src : Src) (ws : List Word) (h : s.takeFrom src ws = some t) : t.quiet = s.quiet := by
  unfold State.takeFrom at h
  split at h
  · dsimp only at h
    split at h
    · cases h
    · split at h
      · cases h; exact quiet_modCt _ _ _ fun _ => rfl
      · cases h
  · split at h
    · cases h; rfl
    · split at h
      · cases h; exact quiet_modCt _ _ _ fun _ => rfl
      · cases h
  · split at h
    · cases h
    · split at h
      · cases h; rfl
      · split at h
        · cases h; exact quiet_modSession _ _ _ fun _ => rfl
        · cases h

/-- Taking a request moves messages only. -/
@[simp] theorem quiet_entered (s : State) (info : CmdInfo) (src : Src) (req : Req) :
    (s.entered info src req).quiet = s.quiet := by
  unfold State.entered
  rw [quiet_jTake]
  cases h : s.takeFrom src (reqWords info.opcode req) with
  | none => rfl
  | some t => exact quiet_takeFrom _ _ _ _ h

/-! ## What quiet states agree on -/

variable {s t : State}

theorem quiet_pending (h : s.quiet = t.quiet) : s.pending = t.pending := by
  have : s.quiet.pending = t.quiet.pending := by rw [h]
  exact this
theorem quiet_now (h : s.quiet = t.quiet) : s.now = t.now := by
  have : s.quiet.now = t.quiet.now := by rw [h]
  exact this
theorem quiet_freeCtr (h : s.quiet = t.quiet) : s.freeCtr = t.freeCtr := by
  have : s.quiet.freeCtr = t.quiet.freeCtr := by rw [h]
  exact this
theorem quiet_cabs (h : s.quiet = t.quiet) : s.cabs = t.cabs := by
  have : s.quiet.cabs = t.quiet.cabs := by rw [h]
  exact this
theorem quiet_streams (h : s.quiet = t.quiet) : s.streams = t.streams := by
  have : s.quiet.streams = t.quiet.streams := by rw [h]
  exact this
theorem quiet_jobs (h : s.quiet = t.quiet) : s.jobs = t.jobs := by
  have : s.quiet.jobs = t.quiet.jobs := by rw [h]
  exact this
theorem quiet_tensors (h : s.quiet = t.quiet) : s.tensors = t.tensors := by
  have : s.quiet.tensors = t.quiet.tensors := by rw [h]
  exact this
theorem quiet_programs (h : s.quiet = t.quiet) : s.programs = t.programs := by
  have : s.quiet.programs = t.quiet.programs := by rw [h]
  exact this
theorem quiet_slots (h : s.quiet = t.quiet) : s.slots = t.slots := by
  have : s.quiet.slots = t.quiet.slots := by rw [h]
  exact this
theorem quiet_slotGens (h : s.quiet = t.quiet) : s.slotGens = t.slotGens := by
  have : s.quiet.slotGens = t.quiet.slotGens := by rw [h]
  exact this
theorem quiet_residencies (h : s.quiet = t.quiet) : s.residencies = t.residencies := by
  have : s.quiet.residencies = t.quiet.residencies := by rw [h]
  exact this
theorem quiet_fetches (h : s.quiet = t.quiet) : s.fetches = t.fetches := by
  have : s.quiet.fetches = t.quiet.fetches := by rw [h]
  exact this
theorem quiet_nextFetch (h : s.quiet = t.quiet) : s.nextFetch = t.nextFetch := by
  have : s.quiet.nextFetch = t.quiet.nextFetch := by rw [h]
  exact this
theorem quiet_fetchOrder (h : s.quiet = t.quiet) : s.fetchOrder = t.fetchOrder := by
  have : s.quiet.fetchOrder = t.quiet.fetchOrder := by rw [h]
  exact this
theorem quiet_xclaims (h : s.quiet = t.quiet) : s.xclaims = t.xclaims := by
  have : s.quiet.xclaims = t.quiet.xclaims := by rw [h]
  exact this
theorem quiet_consents (h : s.quiet = t.quiet) : s.consents = t.consents := by
  have : s.quiet.consents = t.quiet.consents := by rw [h]
  exact this
theorem quiet_remakeQ (h : s.quiet = t.quiet) : s.remakeQ = t.remakeQ := by
  have : s.quiet.remakeQ = t.quiet.remakeQ := by rw [h]
  exact this
theorem quiet_requests (h : s.quiet = t.quiet) : s.requests = t.requests := by
  have : s.quiet.requests = t.quiet.requests := by rw [h]
  exact this
theorem quiet_nextRequest (h : s.quiet = t.quiet) : s.nextRequest = t.nextRequest := by
  have : s.quiet.nextRequest = t.quiet.nextRequest := by rw [h]
  exact this
theorem quiet_dies (h : s.quiet = t.quiet) : s.dies = t.dies := by
  have : s.quiet.dies = t.quiet.dies := by rw [h]
  exact this
theorem quiet_clusters (h : s.quiet = t.quiet) : s.clusters = t.clusters := by
  have : s.quiet.clusters = t.quiet.clusters := by rw [h]
  exact this
theorem quiet_tiles (h : s.quiet = t.quiet) : s.tiles = t.tiles := by
  have : s.quiet.tiles = t.quiet.tiles := by rw [h]
  exact this
theorem quiet_grants (h : s.quiet = t.quiet) : s.grants = t.grants := by
  have : s.quiet.grants = t.quiet.grants := by rw [h]
  exact this
theorem quiet_flights (h : s.quiet = t.quiet) : s.flights = t.flights := by
  have : s.quiet.flights = t.quiet.flights := by rw [h]
  exact this
theorem quiet_vengines (h : s.quiet = t.quiet) : s.vengines = t.vengines := by
  have : s.quiet.vengines = t.quiet.vengines := by rw [h]
  exact this
theorem quiet_runs (h : s.quiet = t.quiet) : s.runs = t.runs := by
  have : s.quiet.runs = t.quiet.runs := by rw [h]
  exact this
theorem quiet_nextRun (h : s.quiet = t.quiet) : s.nextRun = t.nextRun := by
  have : s.quiet.nextRun = t.quiet.nextRun := by rw [h]
  exact this
theorem quiet_reductions (h : s.quiet = t.quiet) : s.reductions = t.reductions := by
  have : s.quiet.reductions = t.quiet.reductions := by rw [h]
  exact this
theorem quiet_nextRed (h : s.quiet = t.quiet) : s.nextRed = t.nextRed := by
  have : s.quiet.nextRed = t.quiet.nextRed := by rw [h]
  exact this
theorem quiet_nextStore (h : s.quiet = t.quiet) : s.nextStore = t.nextStore := by
  have : s.quiet.nextStore = t.quiet.nextStore := by rw [h]
  exact this
theorem quiet_versions (h : s.quiet = t.quiet) : s.versions = t.versions := by
  have : s.quiet.versions = t.quiet.versions := by rw [h]
  exact this
theorem quiet_stores (h : s.quiet = t.quiet) : s.stores = t.stores := by
  have : s.quiet.stores = t.quiet.stores := by rw [h]
  exact this
theorem quiet_hopsBroken (h : s.quiet = t.quiet) : s.hopsBroken = t.hopsBroken := by
  have : s.quiet.hopsBroken = t.quiet.hopsBroken := by rw [h]
  exact this
theorem quiet_pages (h : s.quiet = t.quiet) : s.pages = t.pages := by
  have : s.quiet.pages = t.quiet.pages := by rw [h]
  exact this
theorem quiet_mem (h : s.quiet = t.quiet) : s.mem = t.mem := by
  have : s.quiet.mem = t.quiet.mem := by rw [h]
  exact this
theorem quiet_merges (h : s.quiet = t.quiet) : s.merges = t.merges := by
  have : s.quiet.merges = t.quiet.merges := by rw [h]
  exact this
theorem quiet_hbm (h : s.quiet = t.quiet) : s.hbm = t.hbm := by
  have : s.quiet.hbm = t.quiet.hbm := by rw [h]
  exact this
theorem quiet_power (h : s.quiet = t.quiet) : s.power = t.power := by
  have : s.quiet.power = t.quiet.power := by rw [h]
  exact this
theorem quiet_telem (h : s.quiet = t.quiet) : s.telem = t.telem := by
  have : s.quiet.telem = t.quiet.telem := by rw [h]
  exact this
theorem quiet_bus (h : s.quiet = t.quiet) : s.bus = t.bus := by
  have : s.quiet.bus = t.quiet.bus := by rw [h]
  exact this
theorem quiet_sector (h : s.quiet = t.quiet) : s.sector = t.sector := by
  have : s.quiet.sector = t.quiet.sector := by rw [h]
  exact this

end Sys2Proof.Machine
end

