-- ==== Sys2Proof/Laws/Journal.lean ====
section
/-!
SUPPORT. The journal's record of a request (R430, R432): a request that was taken is its channel's newest and open; its COMPLETION
is what the journal then holds. And the one way an Ilnil command that goes through runs.
-/

namespace Sys2Proof.Machine

/-! ## Channels -/

theorem assocGet_insertBy {α : Type} (k : Nat) (v : α) (l : List (Nat × α)) (h : ∀ p ∈ l, p.1 ≠ k) :
    assocGet k (insertBy Prod.fst (k, v) l) = some v := by
  induction l with
  | nil => simp [insertBy, assocGet]
  | cons p ps ih =>
    have hp : p.1 ≠ k := h p (by simp)
    by_cases hle : p.1 ≤ k
    · simp [insertBy, hle, assocGet, hp, ih fun q hq => h q (by simp [hq])]
    · simp [insertBy, hle, assocGet]

@[simp] theorem chan_setChan (s : State) (k : Nat) (l : List JReq) : (s.setChan k l).chan k = trimChan l := by
  have h : assocGet k (insertBy Prod.fst (k, trimChan l) (s.cp.chans.filter fun p => p.1 != k)) = some (trimChan l) :=
    assocGet_insertBy k _ _ fun p hp => by simp at hp; exact hp.2
  simp [State.chan, State.setChan, State.modCp, h]

theorem trimChan_append (l : List JReq) (j : JReq) :
    ∃ l', trimChan (l ++ [j]) = l' ++ [j] ∧ ∀ x ∈ l', x ∈ l := by
  refine ⟨((l ++ [j]).take (l.length + 1 - 1024)).filter (fun j => j.phase != 2) ++ l.drop (l.length + 1 - 1024), ?_, ?_⟩
  · have hle : l.length + 1 - 1024 ≤ l.length := by omega
    have hd : (l ++ [j]).drop (l.length + 1 - 1024) = l.drop (l.length + 1 - 1024) ++ [j] := by
      rw [List.drop_append_of_le_length hle]
    simp only [trimChan, List.length_append, List.length_singleton, hd, List.append_assoc]
  · intro x hx
    have hle : l.length + 1 - 1024 ≤ l.length := by omega
    rw [List.take_append_of_le_length hle] at hx
    rcases List.mem_append.1 hx with hx | hx
    · exact List.mem_of_mem_take (List.mem_of_mem_filter hx)
    · exact List.mem_of_mem_drop hx

theorem updFirst_append {α : Type} (p : α → Bool) (f : α → α) (l : List α) (a : α) (hl : ∀ x ∈ l, p x = false)
    (ha : p a = true) : updFirst p f (l ++ [a]) = l ++ [f a] := by
  induction l with
  | nil => simp [updFirst, ha]
  | cons b bs ih =>
    simp [updFirst, hl b (by simp), ih fun x hx => hl x (by simp [hx])]

/-! ## Messages leave the journal's requests alone -/

theorem chans_sendRecord (s : State) (x : Session) (ty c : Nat) (ms : List (List Word)) :
    (s.sendRecord x ty c ms).cp = s.cp := rfl

theorem chans_sendWaiting (s : State) (n fuel : Nat) : (s.sendWaiting n fuel).cp = s.cp := by
  induction fuel generalizing s with
  | zero => rfl
  | succ k ih =>
    unfold State.sendWaiting
    split
    · rfl
    · split
      · rfl
      · split
        · rfl
        · rw [ih]; rfl

theorem cp_deliver (s : State) (o : OutMsg) : (s.deliver o).cp = s.cp := by
  unfold State.deliver
  split
  · rfl
  · rfl
  · rw [chans_sendWaiting]; rfl

@[simp] theorem chans_emit (s : State) (o : OutMsg) : (s.emit o).cp.chans = s.cp.chans := by
  unfold State.emit
  split
  · rfl
  · split
    · rfl
    · rw [cp_deliver]

@[simp] theorem chans_emitAll (s : State) (d : Src) (ms : List (List Word)) : (s.emitAll d ms).cp.chans = s.cp.chans := by
  unfold State.emitAll
  induction ms generalizing s with
  | nil => rfl
  | cons m ms ih => simp [ih]

theorem chan_of_chans {s t : State} (h : s.cp.chans = t.cp.chans) (k : Nat) : s.chan k = t.chan k := by
  simp [State.chan, h]

/-! ## A request that the journal holds -/

/-- The journal holds a request as the newest of its channel, unanswered, and no other unanswered one has its MSEQ. -/
def State.Holds (s : State) (r : Reply) : Prop :=
  ∃ l j, s.chan (chanKey r.src) = l ++ [j] ∧ (∀ x ∈ l, (x.mseq == r.mseq && x.phase != 2) = false) ∧
    j.mseq = r.mseq ∧ j.opcode = r.opcode ∧ j.stream = r.stream ∧ j.phase ≠ 2

theorem State.Holds.of_chans {s t : State} {r : Reply} (h : s.Holds r) (e : t.cp.chans = s.cp.chans) : t.Holds r := by
  obtain ⟨l, j, h⟩ := h
  exact ⟨l, j, by rw [chan_of_chans e]; exact h⟩

theorem openReq_none (s : State) (k : Nat) (m : BitVec 16) (h : (s.openReq? k m).isNone) :
    ∀ x ∈ s.chan k, (x.mseq == m && x.phase != 2) = false := by
  intro x hx
  simp only [State.openReq?, Option.isNone_iff_eq_none, List.find?_eq_none] at h
  simpa using h x hx

theorem holds_jTake (s : State) (r : Reply) (h : (s.openReq? (chanKey r.src) r.mseq).isNone) : (s.jTake r).Holds r := by
  obtain ⟨l', e, hl⟩ := trimChan_append (s.chan (chanKey r.src))
    { mseq := r.mseq, opcode := r.opcode, stream := r.stream, phase := 0, accepted := [], completion := [],
      byCt := s.cp.active, resent := false, doneAt := 0 }
  refine ⟨l', _, by rw [State.jTake, chan_setChan]; exact e, fun x hx => openReq_none _ _ _ h x (hl x hx), rfl, rfl, rfl, ?_⟩
  simp

theorem State.Holds.open {s : State} {r : Reply} (h : s.Holds r) : (s.openReq? (chanKey r.src) r.mseq).isSome := by
  obtain ⟨l, j, e, hl, hm, _, _, hp⟩ := h
  simp only [State.openReq?, e, List.find?_isSome]
  exact ⟨j, by simp, by simp [hm, hp]⟩

theorem chan_modReq {s : State} {r : Reply} {l : List JReq} {j : JReq} (f : JReq → JReq)
    (e : s.chan (chanKey r.src) = l ++ [j]) (hl : ∀ x ∈ l, (x.mseq == r.mseq && x.phase != 2) = false)
    (hm : j.mseq = r.mseq) (hp : j.phase ≠ 2) :
    ∃ l', (s.modReq (chanKey r.src) r.mseq f).chan (chanKey r.src) = l' ++ [f j] ∧ ∀ x ∈ l', x ∈ l := by
  rw [State.modReq, chan_setChan, e, updFirst_append _ _ _ _ hl (by simp [hm, hp])]
  exact trimChan_append l (f j)

theorem holds_accept {s : State} {r : Reply} (q : Nat) (h : s.Holds r) : (s.accept r q).Holds r := by
  obtain ⟨l, j, e, hl, hm, ho, hst, hp⟩ := h
  obtain ⟨l', e', hl'⟩ := chan_modReq
    (fun j => { j with phase := 1, accepted := (r.msgs Kind.accepted q Code.ok []).headD [] }) e hl hm hp
  refine ⟨l', { j with phase := 1, accepted := (r.msgs Kind.accepted q Code.ok []).headD [] }, ?_,
    fun x hx => hl x (hl' x hx), hm, ho, hst, by simp⟩
  rw [State.accept, chan_of_chans (chans_emitAll ..)]
  exact e'

/-- The COMPLETION of a request that the journal holds stands in the journal. -/
theorem answered_finish {s : State} {r : Reply} (q c : Nat) (p : List Word) (h : s.Holds r) :
    (s.finish r q c p).answered r q c p = true := by
  have ho := h.open
  obtain ⟨l, j, e, hl, hm, hop, hst, hp⟩ := h
  obtain ⟨l', e', -⟩ := chan_modReq (s := s.tick.2)
    (fun j => { j with phase := 2, completion := r.msgs Kind.completion q c p, doneAt := s.tick.1 }) e hl hm hp
  have hc : (s.finish r q c p).chan (chanKey r.src) =
      l' ++ [{ j with phase := 2, completion := r.msgs Kind.completion q c p, doneAt := s.tick.1 }] := by
    rw [State.finish, if_pos ho]
    exact (chan_of_chans (chans_emitAll ..) _).trans e'
  simp [State.answered, hc, hm, hop, hst]

theorem answered_complete {s : State} {r : Reply} (c : Nat) (p : List Word) (h : s.Holds r) :
    (s.complete r c p).answered r 0 c p = true := answered_finish 0 c p h

/-- ACCEPTED of a request that the journal holds stands in the journal. -/
theorem acceptedReq_accept {s : State} {r : Reply} (q : Nat) (h : s.Holds r) : (s.accept r q).acceptedReq r q = true := by
  obtain ⟨l, j, e, hl, hm, hop, hst, hp⟩ := h
  obtain ⟨l', e', -⟩ := chan_modReq
    (fun j => { j with phase := 1, accepted := (r.msgs Kind.accepted q Code.ok []).headD [] }) e hl hm hp
  have hc : (s.accept r q).chan (chanKey r.src) =
      l' ++ [{ j with phase := 1, accepted := (r.msgs Kind.accepted q Code.ok []).headD [] }] := by
    rw [State.accept, chan_of_chans (chans_emitAll ..)]
    exact e'
  simp [State.acceptedReq, hc, hm, hop, hst]

/-! ## Taking a request -/

theorem cp_takeFrom {s t : State} {src : Src} {ws : List Word} (h : s.takeFrom src ws = some t) : t.cp = s.cp := by
  unfold State.takeFrom at h
  split at h
  · dsimp only at h
    split at h
    · cases h
    · split at h <;> cases h
      rfl
  · split at h
    · cases h; rfl
    · split at h <;> cases h
      rfl
  · split at h
    · cases h
    · split at h
      · cases h; rfl
      · split at h <;> cases h
        rfl

theorem edges_takeFrom {s t : State} {src : Src} {ws : List Word} (h : s.takeFrom src ws = some t) : t.edges = s.edges := by
  unfold State.takeFrom at h
  split at h
  · dsimp only at h
    split at h
    · cases h
    · split at h <;> cases h
      rfl
  · split at h
    · cases h; rfl
    · split at h <;> cases h
      rfl
  · split at h
    · cases h
    · split at h
      · cases h; rfl
      · split at h <;> cases h
        rfl

theorem useClock_takeFrom {s t : State} {src : Src} {ws : List Word} (h : s.takeFrom src ws = some t) : t.useClock = s.useClock := by
  unfold State.takeFrom at h
  split at h
  · dsimp only at h
    split at h
    · cases h
    · split at h <;> cases h
      rfl
  · split at h
    · cases h; rfl
    · split at h <;> cases h
      rfl
  · split at h
    · cases h
    · split at h
      · cases h; rfl
      · split at h <;> cases h
        rfl

theorem side_takeFrom {s t : State} {src : Src} {ws : List Word} (h : s.takeFrom src ws = some t) (c : Ct) :
    t.side c = s.side c := by
  have := quiet_takeFrom _ _ _ _ h
  have hq : (t.cts.map CtDie.quiet) = s.cts.map CtDie.quiet := congrArg State.cts this
  have hs : ∀ u : State, u.side c = ((u.cts.map CtDie.quiet).getD c.val CtDie.reset).side.val := by
    intro u
    simp only [State.side, State.ct, List.getD_eq_getElem?_getD, List.getElem?_map]
    cases u.cts[c.val]? <;> rfl
  rw [hs, hs, hq]

theorem session_quiet {s t : State} (h : s.quiet = t.quiet) (n : Nat) :
    (s.session? n).map Session.quiet = (t.session? n).map Session.quiet := by
  have hq : s.rot.sessions.map Session.quiet = t.rot.sessions.map Session.quiet := congrArg (fun u => u.rot.sessions) h
  have hs : ∀ l : List Session, (l.find? fun x => x.n.val == n).map Session.quiet =
      (l.map Session.quiet).find? fun x => x.n.val == n := by
    intro l; rw [List.find?_map]; rfl
  rw [State.session?, State.session?, hs, hs, hq]

theorem routeCode_quiet {s t : State} (h : s.quiet = t.quiet) (info : CmdInfo) (src : Src) (req : Req) :
    s.routeCode info src req = t.routeCode info src req := by
  have hst : ∀ i, s.stream? i = t.stream? i := fun i => by simp [State.stream?, quiet_streams h]
  have hg : ∀ i, s.tenantGlove? i = t.tenantGlove? i := fun i => by
    have : s.rot.gloves = t.rot.gloves := congrArg (fun u => u.rot.gloves) h
    simp [State.tenantGlove?, this]
  have ht : s.cp.tripped = t.cp.tripped := congrArg (fun u => u.cp.tripped) h
  have hb : ∀ r i, s.boxStreamCode r i = t.boxStreamCode r i := fun r i => by simp [State.boxStreamCode, hst]
  have hss : ∀ x y : Session, x.quiet = y.quiet → s.sessStreamCode x info req.stream = t.sessStreamCode y info req.stream := by
    intro x y e
    have h1 : x.quiet.draining = y.quiet.draining := by rw [e]
    have h2 : x.quiet.tenant = y.quiet.tenant := by rw [e]
    change x.draining = y.draining at h1
    change x.tenant = y.tenant at h2
    simp [State.sessStreamCode, hst, hg, h1, h2]
  unfold State.routeCode
  rw [ht]
  cases src with
  | pigeon c n => simp [hb]
  | tray c n => simp [hb]
  | session n =>
    have := session_quiet h n.val
    cases hs : s.session? n.val with
    | none => cases ht : t.session? n.val with
      | none => simp [hs, ht]
      | some y => simp [hs, ht] at this
    | some x => cases ht : t.session? n.val with
      | none => simp [hs, ht] at this
      | some y =>
        simp only [hs, ht, Option.map_some, Option.some.injEq] at this
        simp [hs, ht, hss x y this]

theorem resend_eq_none (s : State) (r : Reply) :
    s.resend r = none ↔ ∀ j, ((s.chan (chanKey r.src)).filter fun j => j.mseq == r.mseq).getLast? = some j →
      (j.byCt != s.cp.active && !j.resent) = false ∧ (j.phase != 2) = false := by
  unfold State.resend
  cases ((s.chan (chanKey r.src)).filter fun j => j.mseq == r.mseq).getLast? with
  | none => simp
  | some j =>
    cases h1 : (j.byCt != s.cp.active && !j.resent) <;> cases h2 : (j.phase != 2) <;>
      cases h3 : (j.opcode != r.opcode || j.stream != r.stream) <;>
        simp only [Bool.false_eq_true, if_true, if_false, Option.some.injEq, forall_eq', h1, h2, h3] <;> simp_all

/-- A request that goes through is executed by the command's body on the state in which it was taken. -/
theorem ilnil_admits {s : State} {info : CmdInfo} {src : Src} {req : Req} (h : s.admits info src req = true)
    (body : Reply → List Word → State → State) :
    (s.ilnil info src req body) =
      (match info.cabWord with
       | none => body (replyOf info src req) req.payload (s.entered info src req)
       | some _ => body (replyOf info src req) req.payload
           ((s.entered info src req).modCp fun c => { c with heldCmds := c.heldCmds.filter fun x => x != replyOf info src req })) := by
  simp only [State.admits, Bool.and_eq_true, Bool.not_eq_true', beq_iff_eq, Option.isNone_iff_eq_none] at h
  obtain ⟨⟨⟨⟨⟨⟨⟨⟨⟨hrun, hct⟩, htk⟩, hheld⟩, htf⟩, hhd⟩, hre⟩, hop⟩, hrt⟩, hcab⟩ := h
  obtain ⟨s', hs'⟩ := Option.isSome_iff_exists.1 htf
  have hq := quiet_takeFrom _ _ _ _ hs'
  have hcp := cp_takeFrom hs'
  have hside : s'.side (s'.ctOf src) ≠ 1 := by
    have h1 : s'.ctOf src = s.ctOf src := by cases src <;> simp [State.ctOf, hcp]
    rw [h1, side_takeFrom hs', hct]
    simp only [State.cpRuns, Bool.and_eq_true, beq_iff_eq] at hrun
    omega
  have hre' : s'.resend (replyOf info src req) = none := by
    rw [resend_eq_none] at hre ⊢
    rw [chan_of_chans (t := s) (by rw [hcp]), hcp]
    exact hre
  have hrt' : (s'.jTake (replyOf info src req)).routeCode info src req = none := by
    rw [routeCode_quiet (t := s) (by simp [hq]), hrt]
  have hent : s.entered info src req = s'.jTake (replyOf info src req) := by simp [State.entered, hs']
  have hrst : ∀ c, (s'.jTake (replyOf info src req)).resetting c = s.resetting c := fun c => by
    have := quiet_cabs (s := s'.jTake (replyOf info src req)) (t := s) (by simp [hq])
    simp [State.resetting, State.cab, this]
  unfold State.ilnil
  simp only [htk, Bool.not_true, Bool.false_eq_true, if_false]
  have hheld' : s.cp.heldCmds.contains
      ({ src := src, mseq := req.mseq, stream := req.stream, opcode := BitVec.ofNat 16 info.opcode } : Reply) = false := hheld
  simp only [hheld', Bool.false_eq_true, if_false, hs']
  rw [if_neg hside]
  have hre2 : s'.resend ({ src := src, mseq := req.mseq, stream := req.stream, opcode := BitVec.ofNat 16 info.opcode } : Reply)
      = none := hre'
  have hrt2 : (s'.jTake ({ src := src, mseq := req.mseq, stream := req.stream, opcode := BitVec.ofNat 16 info.opcode } : Reply)).routeCode
      info src req = none := hrt'
  simp only [State.runActive, hhd, hre2, hrt2, State.runBody]
  rw [hent]
  cases hcw : info.cabWord with
  | none => rfl
  | some i =>
    rw [hcw] at hcab
    simp only [Bool.not_eq_true'] at hcab
    simp only [← hrst] at hcab
    exact if_neg fun hc => Bool.false_ne_true (hcab.symm.trans hc)

/-- A request that goes through: its body runs on a state that differs from the one before in messages only, in which the
journal holds the request. -/
theorem ilnil_runs {s : State} {info : CmdInfo} {src : Src} {req : Req} (h : s.admits info src req = true) :
    ∃ s1 : State, (∀ body, s.ilnil info src req body = body (replyOf info src req) req.payload s1) ∧ s1.quiet = s.quiet ∧
      s1.Holds (replyOf info src req) ∧ s1.edges = s.edges ∧ s1.useClock = s.useClock := by
  have huc : (s.entered info src req).useClock = s.useClock := by
    cases hs : s.takeFrom src (reqWords info.opcode req) with
    | none => simp [State.entered, hs, State.jTake, State.setChan, State.modCp]
    | some t => simp [State.entered, hs, State.jTake, State.setChan, State.modCp, useClock_takeFrom hs]
  have hed : (s.entered info src req).edges = s.edges := by
    cases hs : s.takeFrom src (reqWords info.opcode req) with
    | none => simp [State.entered, hs, State.jTake, State.setChan, State.modCp]
    | some t => simp [State.entered, hs, State.jTake, State.setChan, State.modCp, edges_takeFrom hs]
  have hop : (s.openReq? (chanKey src) req.mseq).isNone := by
    simp only [State.admits, Bool.and_eq_true] at h; exact h.1.1.2
  have hh : (s.entered info src req).Holds (replyOf info src req) := by
    refine holds_jTake _ _ ?_
    cases hs : s.takeFrom src (reqWords info.opcode req) with
    | none => exact hop
    | some t =>
      have hc := chan_of_chans (t := s) (by rw [cp_takeFrom hs]) (chanKey src)
      have : (t.openReq? (chanKey src) req.mseq) = s.openReq? (chanKey src) req.mseq := by
        rw [State.openReq?, State.openReq?, hc]
      exact (congrArg Option.isNone this).trans hop
  cases hc : info.cabWord with
  | none => exact ⟨_, fun body => by rw [ilnil_admits h, hc], quiet_entered .., hh, hed, huc⟩
  | some i =>
    refine ⟨(s.entered info src req).modCp fun c =>
        { c with heldCmds := c.heldCmds.filter fun x => x != replyOf info src req },
      fun body => by rw [ilnil_admits h, hc], ?_, hh.of_chans ?_, hed, huc⟩
    · exact Eq.trans (quiet_modCp _ _ fun _ => rfl) (quiet_entered ..)
    · rfl

end Sys2Proof.Machine
end

