-- ==== Sys2Proof/Laws/Memory.lean ====
section
/-!
SUPPORT. The laws of byte-addressed memory: every operation keeps the canonical form, a byte written reads back, and every other
byte stays.
-/

namespace Sys2Proof.Machine

/-! ## The canonical form -/

theorem Mem.wfFrom_cons {lo : Option Nat} {k : Nat} {b : Byte} {m : Mem} :
    Mem.wfFrom lo ((k, b) :: m) = true ↔ (∀ l, lo = some l → l < k) ∧ b ≠ 0 ∧ Mem.wfFrom (some k) m = true := by
  cases lo <;> simp [Mem.wfFrom, and_assoc]

theorem Mem.wfFrom_of_le {lo : Option Nat} {k : Nat} {m : Mem} (hl : ∀ l, lo = some l → l ≤ k)
    (h : Mem.wfFrom (some k) m = true) : Mem.wfFrom lo m = true := by
  cases m with
  | nil => rfl
  | cons p m =>
    obtain ⟨j, b⟩ := p
    rw [Mem.wfFrom_cons] at h ⊢
    exact ⟨fun l e => Nat.lt_of_le_of_lt (hl l e) (h.1 k rfl), h.2⟩

theorem Mem.get_of_le {k x : Nat} {m : Mem} (h : Mem.wfFrom (some k) m = true) (hx : x ≤ k) : Mem.get x m = 0 := by
  induction m generalizing k with
  | nil => rfl
  | cons p m ih =>
    obtain ⟨j, b⟩ := p
    rw [Mem.wfFrom_cons] at h
    have hj := h.1 k rfl
    rw [Mem.get, if_neg (by omega)]
    exact ih h.2.2 (by omega)

theorem Mem.wfFrom_set {lo : Option Nat} {a : Nat} (b : Byte) {m : Mem} (h : Mem.wfFrom lo m = true)
    (hl : ∀ l, lo = some l → l < a) : Mem.wfFrom lo (Mem.set a b m) = true := by
  induction m generalizing lo with
  | nil =>
    by_cases hb : b = 0
    · simp [Mem.set, hb, Mem.wfFrom]
    · simp only [Mem.set, if_neg hb]
      exact Mem.wfFrom_cons.2 ⟨hl, hb, rfl⟩
  | cons p m ih =>
    obtain ⟨k, c⟩ := p
    have h' := Mem.wfFrom_cons.1 h
    unfold Mem.set
    split
    · exact Mem.wfFrom_cons.2 ⟨h'.1, h'.2.1, ih h'.2.2 fun l e => by cases e; assumption⟩
    · split
      · split
        · exact Mem.wfFrom_of_le (fun l e => Nat.le_of_lt (h'.1 l e)) h'.2.2
        · subst_vars
          exact Mem.wfFrom_cons.2 ⟨hl, ‹_›, h'.2.2⟩
      · split
        · exact h
        · exact Mem.wfFrom_cons.2 ⟨hl, ‹_›, Mem.wfFrom_cons.2 ⟨fun l e => by cases e; omega, h'.2⟩⟩

/-- Writing one byte keeps the canonical form. -/
theorem Mem.wf_set (a : Nat) (b : Byte) {m : Mem} (h : m.wf = true) : (Mem.set a b m).wf = true :=
  Mem.wfFrom_set b h fun _ e => by cases e

/-- Writing bytes keeps the canonical form. -/
theorem Mem.wf_write {m : Mem} (a : Nat) (bs : List Byte) (h : m.wf = true) : (m.write a bs).wf = true := by
  induction bs generalizing m a with
  | nil => exact h
  | cons b bs ih => exact ih _ (Mem.wf_set a b h)

/-- Writing a number keeps the canonical form. -/
theorem Mem.wf_putNum {m : Mem} (a n x : Nat) (h : m.wf = true) : (m.putNum a n x).wf = true := Mem.wf_write a _ h

theorem Mem.wfFrom_filter {lo : Option Nat} (p : Host.Cell → Bool) {m : Mem} (h : Mem.wfFrom lo m = true) :
    Mem.wfFrom lo (m.filter p) = true := by
  induction m generalizing lo with
  | nil => rfl
  | cons c m ih =>
    obtain ⟨k, b⟩ := c
    have h' := Mem.wfFrom_cons.1 h
    rw [List.filter_cons]
    split
    · exact Mem.wfFrom_cons.2 ⟨h'.1, h'.2.1, ih h'.2.2⟩
    · exact Mem.wfFrom_of_le (fun l e => Nat.le_of_lt (h'.1 l e)) (ih h'.2.2)

/-- Zeroing a range keeps the canonical form. -/
theorem Mem.wf_zero {m : Mem} (a n : Nat) (h : m.wf = true) : (m.zero a n).wf = true := Mem.wfFrom_filter _ h

theorem Mem.wfFrom_moved {lo lo' : Option Nat} (a : Nat) {m : Mem} (h : Mem.wfFrom lo m = true) (ha : ∀ c ∈ m, a ≤ c.1)
    (hl : ∀ l', lo' = some l' → ∃ l, lo = some l ∧ l' = l - a ∧ a ≤ l) :
    Mem.wfFrom lo' (m.map fun c => (c.1 - a, c.2)) = true := by
  induction m generalizing lo lo' with
  | nil => rfl
  | cons c m ih =>
    obtain ⟨k, b⟩ := c
    have h' := Mem.wfFrom_cons.1 h
    have hk : a ≤ k := ha (k, b) (by simp)
    refine Mem.wfFrom_cons.2 ⟨fun l' e => ?_, h'.2.1, ih h'.2.2 (fun c hc => ha c (by simp [hc])) fun l' e => ?_⟩
    · obtain ⟨l, hlo, rfl, hal⟩ := hl l' e
      have := h'.1 l hlo
      dsimp only; omega
    · exact ⟨k, rfl, by cases e; rfl, hk⟩

/-- A part of a memory, moved to start at 0, is in canonical form. -/
theorem Mem.wf_slice {m : Mem} (a n : Nat) (h : m.wf = true) : (m.slice a n).wf = true := by
  refine Mem.wfFrom_moved a (Mem.wfFrom_filter _ h) (fun c hc => ?_) fun _ e => by cases e
  simp only [List.mem_filter, Bool.and_eq_true, decide_eq_true_eq] at hc
  exact hc.2.1

/-! ## Read after write -/

theorem Mem.getFrom_set {lo : Option Nat} (a x : Nat) (b : Byte) {m : Mem} (h : Mem.wfFrom lo m = true) :
    Mem.get x (Mem.set a b m) = if x = a then b else Mem.get x m := by
  induction m generalizing lo with
  | nil =>
    unfold Mem.set
    by_cases hb : b = 0
    · rw [if_pos hb, hb]; simp [Mem.get]
    · rw [if_neg hb]
      by_cases hx : x = a
      · subst hx; simp [Mem.get]
      · simp [Mem.get, hx, Ne.symm hx]
  | cons p m ih =>
    obtain ⟨k, c⟩ := p
    have h' := Mem.wfFrom_cons.1 h
    unfold Mem.set
    split
    · simp only [Mem.get, ih h'.2.2]
      by_cases hk : k = x
      · rw [if_pos hk, if_pos hk, if_neg (by omega)]
      · rw [if_neg hk, if_neg hk]
    · split
      · rename_i hk
        subst hk
        split
        · subst_vars
          by_cases hx : x = k
          · subst hx; rw [if_pos rfl]; exact Mem.get_of_le h'.2.2 (Nat.le_refl _)
          · rw [if_neg hx, Mem.get, if_neg (Ne.symm hx)]
        · by_cases hx : x = k
          · subst hx; simp [Mem.get]
          · simp [Mem.get, hx, Ne.symm hx]
      · split
        · subst_vars
          by_cases hx : x = a
          · subst hx
            rw [if_pos rfl, Mem.get, if_neg (by omega)]
            exact Mem.get_of_le h'.2.2 (by omega)
          · rw [if_neg hx]
        · by_cases hx : x = a
          · subst hx; simp [Mem.get]
          · simp [Mem.get, hx, Ne.symm hx]

/-- A byte written reads back, and every other byte stays. -/
theorem Mem.get_set {m : Mem} (h : m.wf = true) (a x : Nat) (b : Byte) :
    Mem.get x (Mem.set a b m) = if x = a then b else Mem.get x m := Mem.getFrom_set a x b h

/-- Bytes written read back, and every other byte stays. -/
theorem Mem.get_write {m : Mem} (h : m.wf = true) (a x : Nat) (bs : List Byte) :
    Mem.get x (m.write a bs) = if a ≤ x ∧ x < a + bs.length then bs.getD (x - a) 0 else Mem.get x m := by
  induction bs generalizing m a with
  | nil => rw [if_neg (by simp)]; rfl
  | cons b bs ih =>
    rw [Mem.write, ih (Mem.wf_set a b h), Mem.get_set h]
    by_cases hx : x = a
    · subst hx; simp
    · by_cases hin : a + 1 ≤ x ∧ x < a + 1 + bs.length
      · rw [if_pos hin, if_pos (by simp; omega), show x - a = (x - (a + 1)) + 1 by omega]
        rfl
      · rw [if_neg hin, if_neg hx, if_neg (by simp; omega)]

theorem Mem.get_filter {m : Mem} (p : Nat → Bool) (x : Nat) :
    Mem.get x (m.filter fun c => p c.1) = if p x then Mem.get x m else 0 := by
  induction m with
  | nil => simp [Mem.get]
  | cons c m ih =>
    obtain ⟨k, b⟩ := c
    by_cases hk : k = x
    · subst hk
      cases hp : p k <;> simp [hp, Mem.get, ih]
    · cases hp : p k <;> simp [hp, Mem.get, ih, hk]

/-- A zeroed range reads zero, and every other byte stays. -/
theorem Mem.get_zero (m : Mem) (a n x : Nat) : Mem.get x (m.zero a n) = if a ≤ x ∧ x < a + n then 0 else Mem.get x m := by
  rw [Mem.zero, Mem.get_filter (fun k => decide (k < a) || decide (a + n ≤ k))]
  by_cases h : a ≤ x ∧ x < a + n
  · rw [if_pos h, if_neg (by simp; omega)]
  · rw [if_neg h, if_pos (by simp; omega)]

@[simp] theorem Mem.length_read (m : Mem) (a n : Nat) : (m.read a n).length = n := by
  induction n generalizing a with
  | zero => rfl
  | succ n ih => simp [Mem.read, ih]

theorem Mem.getElem?_read (m : Mem) (a n i : Nat) (h : i < n) : (m.read a n)[i]? = some (Mem.get (a + i) m) := by
  induction n generalizing a i with
  | zero => omega
  | succ n ih =>
    cases i with
    | zero => rfl
    | succ i =>
      rw [Mem.read, List.getElem?_cons_succ, ih _ _ (by omega), show a + 1 + i = a + (i + 1) by omega]

/-- Bytes written are read back. -/
theorem Mem.read_write {m : Mem} (h : m.wf = true) (a : Nat) (bs : List Byte) : (m.write a bs).read a bs.length = bs := by
  apply List.ext_getElem?
  intro i
  by_cases hi : i < bs.length
  · rw [Mem.getElem?_read _ _ _ _ hi, Mem.get_write h]
    simp [hi]
  · rw [List.getElem?_eq_none (by simpa using hi), List.getElem?_eq_none (by simpa using hi)]

/-- The bytes of a number spell it. -/
theorem ofLe_leBytes (n x : Nat) : ofLe (leBytes n x) = x % 256 ^ n := by
  induction n generalizing x with
  | zero => simp [leBytes, ofLe, Nat.mod_one]
  | succ n ih =>
    rw [leBytes, ofLe, ih, Nat.pow_succ', Nat.mod_mul, Nat.shiftRight_eq_div_pow]
    simp

end Sys2Proof.Machine
end

