-- ==== Sys2Proof/Laws/State.lean ====
section
/-!
SUPPORT. One lemma for each field of State and each operation that changes one part of it, so that no proof unfolds a record
update; and what the accessors read after such an operation.
-/

namespace Sys2Proof.Machine

/-! ## modCt -/

@[simp] theorem State.modCt_pending (s : State) (c : Ct) (f : CtDie → CtDie) : (s.modCt c f).pending = s.pending := rfl
@[simp] theorem State.modCt_now (s : State) (c : Ct) (f : CtDie → CtDie) : (s.modCt c f).now = s.now := rfl
@[simp] theorem State.modCt_freeCtr (s : State) (c : Ct) (f : CtDie → CtDie) : (s.modCt c f).freeCtr = s.freeCtr := rfl
@[simp] theorem State.modCt_cts (s : State) (c : Ct) (f : CtDie → CtDie) : (s.modCt c f).cts = updAt c.val f s.cts := rfl
@[simp] theorem State.modCt_cp (s : State) (c : Ct) (f : CtDie → CtDie) : (s.modCt c f).cp = s.cp := rfl
@[simp] theorem State.modCt_cabs (s : State) (c : Ct) (f : CtDie → CtDie) : (s.modCt c f).cabs = s.cabs := rfl
@[simp] theorem State.modCt_streams (s : State) (c : Ct) (f : CtDie → CtDie) : (s.modCt c f).streams = s.streams := rfl
@[simp] theorem State.modCt_jobs (s : State) (c : Ct) (f : CtDie → CtDie) : (s.modCt c f).jobs = s.jobs := rfl
@[simp] theorem State.modCt_tensors (s : State) (c : Ct) (f : CtDie → CtDie) : (s.modCt c f).tensors = s.tensors := rfl
@[simp] theorem State.modCt_programs (s : State) (c : Ct) (f : CtDie → CtDie) : (s.modCt c f).programs = s.programs := rfl
@[simp] theorem State.modCt_slots (s : State) (c : Ct) (f : CtDie → CtDie) : (s.modCt c f).slots = s.slots := rfl
@[simp] theorem State.modCt_slotGens (s : State) (c : Ct) (f : CtDie → CtDie) : (s.modCt c f).slotGens = s.slotGens := rfl
@[simp] theorem State.modCt_residencies (s : State) (c : Ct) (f : CtDie → CtDie) : (s.modCt c f).residencies = s.residencies := rfl
@[simp] theorem State.modCt_fetches (s : State) (c : Ct) (f : CtDie → CtDie) : (s.modCt c f).fetches = s.fetches := rfl
@[simp] theorem State.modCt_nextFetch (s : State) (c : Ct) (f : CtDie → CtDie) : (s.modCt c f).nextFetch = s.nextFetch := rfl
@[simp] theorem State.modCt_fetchOrder (s : State) (c : Ct) (f : CtDie → CtDie) : (s.modCt c f).fetchOrder = s.fetchOrder := rfl
@[simp] theorem State.modCt_xclaims (s : State) (c : Ct) (f : CtDie → CtDie) : (s.modCt c f).xclaims = s.xclaims := rfl
@[simp] theorem State.modCt_consents (s : State) (c : Ct) (f : CtDie → CtDie) : (s.modCt c f).consents = s.consents := rfl
@[simp] theorem State.modCt_remakeQ (s : State) (c : Ct) (f : CtDie → CtDie) : (s.modCt c f).remakeQ = s.remakeQ := rfl
@[simp] theorem State.modCt_notes (s : State) (c : Ct) (f : CtDie → CtDie) : (s.modCt c f).notes = s.notes := rfl
@[simp] theorem State.modCt_requests (s : State) (c : Ct) (f : CtDie → CtDie) : (s.modCt c f).requests = s.requests := rfl
@[simp] theorem State.modCt_nextRequest (s : State) (c : Ct) (f : CtDie → CtDie) : (s.modCt c f).nextRequest = s.nextRequest := rfl
@[simp] theorem State.modCt_useClock (s : State) (c : Ct) (f : CtDie → CtDie) : (s.modCt c f).useClock = s.useClock := rfl
@[simp] theorem State.modCt_dies (s : State) (c : Ct) (f : CtDie → CtDie) : (s.modCt c f).dies = s.dies := rfl
@[simp] theorem State.modCt_clusters (s : State) (c : Ct) (f : CtDie → CtDie) : (s.modCt c f).clusters = s.clusters := rfl
@[simp] theorem State.modCt_tiles (s : State) (c : Ct) (f : CtDie → CtDie) : (s.modCt c f).tiles = s.tiles := rfl
@[simp] theorem State.modCt_grants (s : State) (c : Ct) (f : CtDie → CtDie) : (s.modCt c f).grants = s.grants := rfl
@[simp] theorem State.modCt_flights (s : State) (c : Ct) (f : CtDie → CtDie) : (s.modCt c f).flights = s.flights := rfl
@[simp] theorem State.modCt_vengines (s : State) (c : Ct) (f : CtDie → CtDie) : (s.modCt c f).vengines = s.vengines := rfl
@[simp] theorem State.modCt_runs (s : State) (c : Ct) (f : CtDie → CtDie) : (s.modCt c f).runs = s.runs := rfl
@[simp] theorem State.modCt_nextRun (s : State) (c : Ct) (f : CtDie → CtDie) : (s.modCt c f).nextRun = s.nextRun := rfl
@[simp] theorem State.modCt_reductions (s : State) (c : Ct) (f : CtDie → CtDie) : (s.modCt c f).reductions = s.reductions := rfl
@[simp] theorem State.modCt_nextRed (s : State) (c : Ct) (f : CtDie → CtDie) : (s.modCt c f).nextRed = s.nextRed := rfl
@[simp] theorem State.modCt_nextStore (s : State) (c : Ct) (f : CtDie → CtDie) : (s.modCt c f).nextStore = s.nextStore := rfl
@[simp] theorem State.modCt_versions (s : State) (c : Ct) (f : CtDie → CtDie) : (s.modCt c f).versions = s.versions := rfl
@[simp] theorem State.modCt_stores (s : State) (c : Ct) (f : CtDie → CtDie) : (s.modCt c f).stores = s.stores := rfl
@[simp] theorem State.modCt_hopsBroken (s : State) (c : Ct) (f : CtDie → CtDie) : (s.modCt c f).hopsBroken = s.hopsBroken := rfl
@[simp] theorem State.modCt_hopOrder (s : State) (c : Ct) (f : CtDie → CtDie) : (s.modCt c f).hopOrder = s.hopOrder := rfl
@[simp] theorem State.modCt_pages (s : State) (c : Ct) (f : CtDie → CtDie) : (s.modCt c f).pages = s.pages := rfl
@[simp] theorem State.modCt_mem (s : State) (c : Ct) (f : CtDie → CtDie) : (s.modCt c f).mem = s.mem := rfl
@[simp] theorem State.modCt_merges (s : State) (c : Ct) (f : CtDie → CtDie) : (s.modCt c f).merges = s.merges := rfl
@[simp] theorem State.modCt_hbm (s : State) (c : Ct) (f : CtDie → CtDie) : (s.modCt c f).hbm = s.hbm := rfl
@[simp] theorem State.modCt_rot (s : State) (c : Ct) (f : CtDie → CtDie) : (s.modCt c f).rot = s.rot := rfl
@[simp] theorem State.modCt_edges (s : State) (c : Ct) (f : CtDie → CtDie) : (s.modCt c f).edges = s.edges := rfl
@[simp] theorem State.modCt_power (s : State) (c : Ct) (f : CtDie → CtDie) : (s.modCt c f).power = s.power := rfl
@[simp] theorem State.modCt_telem (s : State) (c : Ct) (f : CtDie → CtDie) : (s.modCt c f).telem = s.telem := rfl
@[simp] theorem State.modCt_bus (s : State) (c : Ct) (f : CtDie → CtDie) : (s.modCt c f).bus = s.bus := rfl
@[simp] theorem State.modCt_sector (s : State) (c : Ct) (f : CtDie → CtDie) : (s.modCt c f).sector = s.sector := rfl

/-! ## modCab -/

@[simp] theorem State.modCab_pending (s : State) (c : Cab) (f : Cabinet → Cabinet) : (s.modCab c f).pending = s.pending := rfl
@[simp] theorem State.modCab_now (s : State) (c : Cab) (f : Cabinet → Cabinet) : (s.modCab c f).now = s.now := rfl
@[simp] theorem State.modCab_freeCtr (s : State) (c : Cab) (f : Cabinet → Cabinet) : (s.modCab c f).freeCtr = s.freeCtr := rfl
@[simp] theorem State.modCab_cts (s : State) (c : Cab) (f : Cabinet → Cabinet) : (s.modCab c f).cts = s.cts := rfl
@[simp] theorem State.modCab_cp (s : State) (c : Cab) (f : Cabinet → Cabinet) : (s.modCab c f).cp = s.cp := rfl
@[simp] theorem State.modCab_cabs (s : State) (c : Cab) (f : Cabinet → Cabinet) : (s.modCab c f).cabs = updAt c.val f s.cabs := rfl
@[simp] theorem State.modCab_streams (s : State) (c : Cab) (f : Cabinet → Cabinet) : (s.modCab c f).streams = s.streams := rfl
@[simp] theorem State.modCab_jobs (s : State) (c : Cab) (f : Cabinet → Cabinet) : (s.modCab c f).jobs = s.jobs := rfl
@[simp] theorem State.modCab_tensors (s : State) (c : Cab) (f : Cabinet → Cabinet) : (s.modCab c f).tensors = s.tensors := rfl
@[simp] theorem State.modCab_programs (s : State) (c : Cab) (f : Cabinet → Cabinet) : (s.modCab c f).programs = s.programs := rfl
@[simp] theorem State.modCab_slots (s : State) (c : Cab) (f : Cabinet → Cabinet) : (s.modCab c f).slots = s.slots := rfl
@[simp] theorem State.modCab_slotGens (s : State) (c : Cab) (f : Cabinet → Cabinet) : (s.modCab c f).slotGens = s.slotGens := rfl
@[simp] theorem State.modCab_residencies (s : State) (c : Cab) (f : Cabinet → Cabinet) : (s.modCab c f).residencies = s.residencies := rfl
@[simp] theorem State.modCab_fetches (s : State) (c : Cab) (f : Cabinet → Cabinet) : (s.modCab c f).fetches = s.fetches := rfl
@[simp] theorem State.modCab_nextFetch (s : State) (c : Cab) (f : Cabinet → Cabinet) : (s.modCab c f).nextFetch = s.nextFetch := rfl
@[simp] theorem State.modCab_fetchOrder (s : State) (c : Cab) (f : Cabinet → Cabinet) : (s.modCab c f).fetchOrder = s.fetchOrder := rfl
@[simp] theorem State.modCab_xclaims (s : State) (c : Cab) (f : Cabinet → Cabinet) : (s.modCab c f).xclaims = s.xclaims := rfl
@[simp] theorem State.modCab_consents (s : State) (c : Cab) (f : Cabinet → Cabinet) : (s.modCab c f).consents = s.consents := rfl
@[simp] theorem State.modCab_remakeQ (s : State) (c : Cab) (f : Cabinet → Cabinet) : (s.modCab c f).remakeQ = s.remakeQ := rfl
@[simp] theorem State.modCab_notes (s : State) (c : Cab) (f : Cabinet → Cabinet) : (s.modCab c f).notes = s.notes := rfl
@[simp] theorem State.modCab_requests (s : State) (c : Cab) (f : Cabinet → Cabinet) : (s.modCab c f).requests = s.requests := rfl
@[simp] theorem State.modCab_nextRequest (s : State) (c : Cab) (f : Cabinet → Cabinet) : (s.modCab c f).nextRequest = s.nextRequest := rfl
@[simp] theorem State.modCab_useClock (s : State) (c : Cab) (f : Cabinet → Cabinet) : (s.modCab c f).useClock = s.useClock := rfl
@[simp] theorem State.modCab_dies (s : State) (c : Cab) (f : Cabinet → Cabinet) : (s.modCab c f).dies = s.dies := rfl
@[simp] theorem State.modCab_clusters (s : State) (c : Cab) (f : Cabinet → Cabinet) : (s.modCab c f).clusters = s.clusters := rfl
@[simp] theorem State.modCab_tiles (s : State) (c : Cab) (f : Cabinet → Cabinet) : (s.modCab c f).tiles = s.tiles := rfl
@[simp] theorem State.modCab_grants (s : State) (c : Cab) (f : Cabinet → Cabinet) : (s.modCab c f).grants = s.grants := rfl
@[simp] theorem State.modCab_flights (s : State) (c : Cab) (f : Cabinet → Cabinet) : (s.modCab c f).flights = s.flights := rfl
@[simp] theorem State.modCab_vengines (s : State) (c : Cab) (f : Cabinet → Cabinet) : (s.modCab c f).vengines = s.vengines := rfl
@[simp] theorem State.modCab_runs (s : State) (c : Cab) (f : Cabinet → Cabinet) : (s.modCab c f).runs = s.runs := rfl
@[simp] theorem State.modCab_nextRun (s : State) (c : Cab) (f : Cabinet → Cabinet) : (s.modCab c f).nextRun = s.nextRun := rfl
@[simp] theorem State.modCab_reductions (s : State) (c : Cab) (f : Cabinet → Cabinet) : (s.modCab c f).reductions = s.reductions := rfl
@[simp] theorem State.modCab_nextRed (s : State) (c : Cab) (f : Cabinet → Cabinet) : (s.modCab c f).nextRed = s.nextRed := rfl
@[simp] theorem State.modCab_nextStore (s : State) (c : Cab) (f : Cabinet → Cabinet) : (s.modCab c f).nextStore = s.nextStore := rfl
@[simp] theorem State.modCab_versions (s : State) (c : Cab) (f : Cabinet → Cabinet) : (s.modCab c f).versions = s.versions := rfl
@[simp] theorem State.modCab_stores (s : State) (c : Cab) (f : Cabinet → Cabinet) : (s.modCab c f).stores = s.stores := rfl
@[simp] theorem State.modCab_hopsBroken (s : State) (c : Cab) (f : Cabinet → Cabinet) : (s.modCab c f).hopsBroken = s.hopsBroken := rfl
@[simp] theorem State.modCab_hopOrder (s : State) (c : Cab) (f : Cabinet → Cabinet) : (s.modCab c f).hopOrder = s.hopOrder := rfl
@[simp] theorem State.modCab_pages (s : State) (c : Cab) (f : Cabinet → Cabinet) : (s.modCab c f).pages = s.pages := rfl
@[simp] theorem State.modCab_mem (s : State) (c : Cab) (f : Cabinet → Cabinet) : (s.modCab c f).mem = s.mem := rfl
@[simp] theorem State.modCab_merges (s : State) (c : Cab) (f : Cabinet → Cabinet) : (s.modCab c f).merges = s.merges := rfl
@[simp] theorem State.modCab_hbm (s : State) (c : Cab) (f : Cabinet → Cabinet) : (s.modCab c f).hbm = s.hbm := rfl
@[simp] theorem State.modCab_rot (s : State) (c : Cab) (f : Cabinet → Cabinet) : (s.modCab c f).rot = s.rot := rfl
@[simp] theorem State.modCab_edges (s : State) (c : Cab) (f : Cabinet → Cabinet) : (s.modCab c f).edges = s.edges := rfl
@[simp] theorem State.modCab_power (s : State) (c : Cab) (f : Cabinet → Cabinet) : (s.modCab c f).power = s.power := rfl
@[simp] theorem State.modCab_telem (s : State) (c : Cab) (f : Cabinet → Cabinet) : (s.modCab c f).telem = s.telem := rfl
@[simp] theorem State.modCab_bus (s : State) (c : Cab) (f : Cabinet → Cabinet) : (s.modCab c f).bus = s.bus := rfl
@[simp] theorem State.modCab_sector (s : State) (c : Cab) (f : Cabinet → Cabinet) : (s.modCab c f).sector = s.sector := rfl

/-! ## modDie -/

@[simp] theorem State.modDie_pending (s : State) (d : Die) (f : DieSt → DieSt) : (s.modDie d f).pending = s.pending := rfl
@[simp] theorem State.modDie_now (s : State) (d : Die) (f : DieSt → DieSt) : (s.modDie d f).now = s.now := rfl
@[simp] theorem State.modDie_freeCtr (s : State) (d : Die) (f : DieSt → DieSt) : (s.modDie d f).freeCtr = s.freeCtr := rfl
@[simp] theorem State.modDie_cts (s : State) (d : Die) (f : DieSt → DieSt) : (s.modDie d f).cts = s.cts := rfl
@[simp] theorem State.modDie_cp (s : State) (d : Die) (f : DieSt → DieSt) : (s.modDie d f).cp = s.cp := rfl
@[simp] theorem State.modDie_cabs (s : State) (d : Die) (f : DieSt → DieSt) : (s.modDie d f).cabs = s.cabs := rfl
@[simp] theorem State.modDie_streams (s : State) (d : Die) (f : DieSt → DieSt) : (s.modDie d f).streams = s.streams := rfl
@[simp] theorem State.modDie_jobs (s : State) (d : Die) (f : DieSt → DieSt) : (s.modDie d f).jobs = s.jobs := rfl
@[simp] theorem State.modDie_tensors (s : State) (d : Die) (f : DieSt → DieSt) : (s.modDie d f).tensors = s.tensors := rfl
@[simp] theorem State.modDie_programs (s : State) (d : Die) (f : DieSt → DieSt) : (s.modDie d f).programs = s.programs := rfl
@[simp] theorem State.modDie_slots (s : State) (d : Die) (f : DieSt → DieSt) : (s.modDie d f).slots = s.slots := rfl
@[simp] theorem State.modDie_slotGens (s : State) (d : Die) (f : DieSt → DieSt) : (s.modDie d f).slotGens = s.slotGens := rfl
@[simp] theorem State.modDie_residencies (s : State) (d : Die) (f : DieSt → DieSt) : (s.modDie d f).residencies = s.residencies := rfl
@[simp] theorem State.modDie_fetches (s : State) (d : Die) (f : DieSt → DieSt) : (s.modDie d f).fetches = s.fetches := rfl
@[simp] theorem State.modDie_nextFetch (s : State) (d : Die) (f : DieSt → DieSt) : (s.modDie d f).nextFetch = s.nextFetch := rfl
@[simp] theorem State.modDie_fetchOrder (s : State) (d : Die) (f : DieSt → DieSt) : (s.modDie d f).fetchOrder = s.fetchOrder := rfl
@[simp] theorem State.modDie_xclaims (s : State) (d : Die) (f : DieSt → DieSt) : (s.modDie d f).xclaims = s.xclaims := rfl
@[simp] theorem State.modDie_consents (s : State) (d : Die) (f : DieSt → DieSt) : (s.modDie d f).consents = s.consents := rfl
@[simp] theorem State.modDie_remakeQ (s : State) (d : Die) (f : DieSt → DieSt) : (s.modDie d f).remakeQ = s.remakeQ := rfl
@[simp] theorem State.modDie_notes (s : State) (d : Die) (f : DieSt → DieSt) : (s.modDie d f).notes = s.notes := rfl
@[simp] theorem State.modDie_requests (s : State) (d : Die) (f : DieSt → DieSt) : (s.modDie d f).requests = s.requests := rfl
@[simp] theorem State.modDie_nextRequest (s : State) (d : Die) (f : DieSt → DieSt) : (s.modDie d f).nextRequest = s.nextRequest := rfl
@[simp] theorem State.modDie_useClock (s : State) (d : Die) (f : DieSt → DieSt) : (s.modDie d f).useClock = s.useClock := rfl
@[simp] theorem State.modDie_dies (s : State) (d : Die) (f : DieSt → DieSt) : (s.modDie d f).dies = updAt d.val f s.dies := rfl
@[simp] theorem State.modDie_clusters (s : State) (d : Die) (f : DieSt → DieSt) : (s.modDie d f).clusters = s.clusters := rfl
@[simp] theorem State.modDie_tiles (s : State) (d : Die) (f : DieSt → DieSt) : (s.modDie d f).tiles = s.tiles := rfl
@[simp] theorem State.modDie_grants (s : State) (d : Die) (f : DieSt → DieSt) : (s.modDie d f).grants = s.grants := rfl
@[simp] theorem State.modDie_flights (s : State) (d : Die) (f : DieSt → DieSt) : (s.modDie d f).flights = s.flights := rfl
@[simp] theorem State.modDie_vengines (s : State) (d : Die) (f : DieSt → DieSt) : (s.modDie d f).vengines = s.vengines := rfl
@[simp] theorem State.modDie_runs (s : State) (d : Die) (f : DieSt → DieSt) : (s.modDie d f).runs = s.runs := rfl
@[simp] theorem State.modDie_nextRun (s : State) (d : Die) (f : DieSt → DieSt) : (s.modDie d f).nextRun = s.nextRun := rfl
@[simp] theorem State.modDie_reductions (s : State) (d : Die) (f : DieSt → DieSt) : (s.modDie d f).reductions = s.reductions := rfl
@[simp] theorem State.modDie_nextRed (s : State) (d : Die) (f : DieSt → DieSt) : (s.modDie d f).nextRed = s.nextRed := rfl
@[simp] theorem State.modDie_nextStore (s : State) (d : Die) (f : DieSt → DieSt) : (s.modDie d f).nextStore = s.nextStore := rfl
@[simp] theorem State.modDie_versions (s : State) (d : Die) (f : DieSt → DieSt) : (s.modDie d f).versions = s.versions := rfl
@[simp] theorem State.modDie_stores (s : State) (d : Die) (f : DieSt → DieSt) : (s.modDie d f).stores = s.stores := rfl
@[simp] theorem State.modDie_hopsBroken (s : State) (d : Die) (f : DieSt → DieSt) : (s.modDie d f).hopsBroken = s.hopsBroken := rfl
@[simp] theorem State.modDie_hopOrder (s : State) (d : Die) (f : DieSt → DieSt) : (s.modDie d f).hopOrder = s.hopOrder := rfl
@[simp] theorem State.modDie_pages (s : State) (d : Die) (f : DieSt → DieSt) : (s.modDie d f).pages = s.pages := rfl
@[simp] theorem State.modDie_mem (s : State) (d : Die) (f : DieSt → DieSt) : (s.modDie d f).mem = s.mem := rfl
@[simp] theorem State.modDie_merges (s : State) (d : Die) (f : DieSt → DieSt) : (s.modDie d f).merges = s.merges := rfl
@[simp] theorem State.modDie_hbm (s : State) (d : Die) (f : DieSt → DieSt) : (s.modDie d f).hbm = s.hbm := rfl
@[simp] theorem State.modDie_rot (s : State) (d : Die) (f : DieSt → DieSt) : (s.modDie d f).rot = s.rot := rfl
@[simp] theorem State.modDie_edges (s : State) (d : Die) (f : DieSt → DieSt) : (s.modDie d f).edges = s.edges := rfl
@[simp] theorem State.modDie_power (s : State) (d : Die) (f : DieSt → DieSt) : (s.modDie d f).power = s.power := rfl
@[simp] theorem State.modDie_telem (s : State) (d : Die) (f : DieSt → DieSt) : (s.modDie d f).telem = s.telem := rfl
@[simp] theorem State.modDie_bus (s : State) (d : Die) (f : DieSt → DieSt) : (s.modDie d f).bus = s.bus := rfl
@[simp] theorem State.modDie_sector (s : State) (d : Die) (f : DieSt → DieSt) : (s.modDie d f).sector = s.sector := rfl

/-! ## modStk -/

@[simp] theorem State.modStk_pending (s : State) (h : Stack) (f : StackSt → StackSt) : (s.modStk h f).pending = s.pending := rfl
@[simp] theorem State.modStk_now (s : State) (h : Stack) (f : StackSt → StackSt) : (s.modStk h f).now = s.now := rfl
@[simp] theorem State.modStk_freeCtr (s : State) (h : Stack) (f : StackSt → StackSt) : (s.modStk h f).freeCtr = s.freeCtr := rfl
@[simp] theorem State.modStk_cts (s : State) (h : Stack) (f : StackSt → StackSt) : (s.modStk h f).cts = s.cts := rfl
@[simp] theorem State.modStk_cp (s : State) (h : Stack) (f : StackSt → StackSt) : (s.modStk h f).cp = s.cp := rfl
@[simp] theorem State.modStk_cabs (s : State) (h : Stack) (f : StackSt → StackSt) : (s.modStk h f).cabs = s.cabs := rfl
@[simp] theorem State.modStk_streams (s : State) (h : Stack) (f : StackSt → StackSt) : (s.modStk h f).streams = s.streams := rfl
@[simp] theorem State.modStk_jobs (s : State) (h : Stack) (f : StackSt → StackSt) : (s.modStk h f).jobs = s.jobs := rfl
@[simp] theorem State.modStk_tensors (s : State) (h : Stack) (f : StackSt → StackSt) : (s.modStk h f).tensors = s.tensors := rfl
@[simp] theorem State.modStk_programs (s : State) (h : Stack) (f : StackSt → StackSt) : (s.modStk h f).programs = s.programs := rfl
@[simp] theorem State.modStk_slots (s : State) (h : Stack) (f : StackSt → StackSt) : (s.modStk h f).slots = s.slots := rfl
@[simp] theorem State.modStk_slotGens (s : State) (h : Stack) (f : StackSt → StackSt) : (s.modStk h f).slotGens = s.slotGens := rfl
@[simp] theorem State.modStk_residencies (s : State) (h : Stack) (f : StackSt → StackSt) : (s.modStk h f).residencies = s.residencies := rfl
@[simp] theorem State.modStk_fetches (s : State) (h : Stack) (f : StackSt → StackSt) : (s.modStk h f).fetches = s.fetches := rfl
@[simp] theorem State.modStk_nextFetch (s : State) (h : Stack) (f : StackSt → StackSt) : (s.modStk h f).nextFetch = s.nextFetch := rfl
@[simp] theorem State.modStk_fetchOrder (s : State) (h : Stack) (f : StackSt → StackSt) : (s.modStk h f).fetchOrder = s.fetchOrder := rfl
@[simp] theorem State.modStk_xclaims (s : State) (h : Stack) (f : StackSt → StackSt) : (s.modStk h f).xclaims = s.xclaims := rfl
@[simp] theorem State.modStk_consents (s : State) (h : Stack) (f : StackSt → StackSt) : (s.modStk h f).consents = s.consents := rfl
@[simp] theorem State.modStk_remakeQ (s : State) (h : Stack) (f : StackSt → StackSt) : (s.modStk h f).remakeQ = s.remakeQ := rfl
@[simp] theorem State.modStk_notes (s : State) (h : Stack) (f : StackSt → StackSt) : (s.modStk h f).notes = s.notes := rfl
@[simp] theorem State.modStk_requests (s : State) (h : Stack) (f : StackSt → StackSt) : (s.modStk h f).requests = s.requests := rfl
@[simp] theorem State.modStk_nextRequest (s : State) (h : Stack) (f : StackSt → StackSt) : (s.modStk h f).nextRequest = s.nextRequest := rfl
@[simp] theorem State.modStk_useClock (s : State) (h : Stack) (f : StackSt → StackSt) : (s.modStk h f).useClock = s.useClock := rfl
@[simp] theorem State.modStk_dies (s : State) (h : Stack) (f : StackSt → StackSt) : (s.modStk h f).dies = s.dies := rfl
@[simp] theorem State.modStk_clusters (s : State) (h : Stack) (f : StackSt → StackSt) : (s.modStk h f).clusters = s.clusters := rfl
@[simp] theorem State.modStk_tiles (s : State) (h : Stack) (f : StackSt → StackSt) : (s.modStk h f).tiles = s.tiles := rfl
@[simp] theorem State.modStk_grants (s : State) (h : Stack) (f : StackSt → StackSt) : (s.modStk h f).grants = s.grants := rfl
@[simp] theorem State.modStk_flights (s : State) (h : Stack) (f : StackSt → StackSt) : (s.modStk h f).flights = s.flights := rfl
@[simp] theorem State.modStk_vengines (s : State) (h : Stack) (f : StackSt → StackSt) : (s.modStk h f).vengines = s.vengines := rfl
@[simp] theorem State.modStk_runs (s : State) (h : Stack) (f : StackSt → StackSt) : (s.modStk h f).runs = s.runs := rfl
@[simp] theorem State.modStk_nextRun (s : State) (h : Stack) (f : StackSt → StackSt) : (s.modStk h f).nextRun = s.nextRun := rfl
@[simp] theorem State.modStk_reductions (s : State) (h : Stack) (f : StackSt → StackSt) : (s.modStk h f).reductions = s.reductions := rfl
@[simp] theorem State.modStk_nextRed (s : State) (h : Stack) (f : StackSt → StackSt) : (s.modStk h f).nextRed = s.nextRed := rfl
@[simp] theorem State.modStk_nextStore (s : State) (h : Stack) (f : StackSt → StackSt) : (s.modStk h f).nextStore = s.nextStore := rfl
@[simp] theorem State.modStk_versions (s : State) (h : Stack) (f : StackSt → StackSt) : (s.modStk h f).versions = s.versions := rfl
@[simp] theorem State.modStk_stores (s : State) (h : Stack) (f : StackSt → StackSt) : (s.modStk h f).stores = s.stores := rfl
@[simp] theorem State.modStk_hopsBroken (s : State) (h : Stack) (f : StackSt → StackSt) : (s.modStk h f).hopsBroken = s.hopsBroken := rfl
@[simp] theorem State.modStk_hopOrder (s : State) (h : Stack) (f : StackSt → StackSt) : (s.modStk h f).hopOrder = s.hopOrder := rfl
@[simp] theorem State.modStk_pages (s : State) (h : Stack) (f : StackSt → StackSt) : (s.modStk h f).pages = s.pages := rfl
@[simp] theorem State.modStk_mem (s : State) (h : Stack) (f : StackSt → StackSt) : (s.modStk h f).mem = s.mem := rfl
@[simp] theorem State.modStk_merges (s : State) (h : Stack) (f : StackSt → StackSt) : (s.modStk h f).merges = s.merges := rfl
@[simp] theorem State.modStk_hbm (s : State) (h : Stack) (f : StackSt → StackSt) : (s.modStk h f).hbm = updAt h.val f s.hbm := rfl
@[simp] theorem State.modStk_rot (s : State) (h : Stack) (f : StackSt → StackSt) : (s.modStk h f).rot = s.rot := rfl
@[simp] theorem State.modStk_edges (s : State) (h : Stack) (f : StackSt → StackSt) : (s.modStk h f).edges = s.edges := rfl
@[simp] theorem State.modStk_power (s : State) (h : Stack) (f : StackSt → StackSt) : (s.modStk h f).power = s.power := rfl
@[simp] theorem State.modStk_telem (s : State) (h : Stack) (f : StackSt → StackSt) : (s.modStk h f).telem = s.telem := rfl
@[simp] theorem State.modStk_bus (s : State) (h : Stack) (f : StackSt → StackSt) : (s.modStk h f).bus = s.bus := rfl
@[simp] theorem State.modStk_sector (s : State) (h : Stack) (f : StackSt → StackSt) : (s.modStk h f).sector = s.sector := rfl

/-! ## modEdge -/

@[simp] theorem State.modEdge_pending (s : State) (e : Edge) (f : EdgeSt → EdgeSt) : (s.modEdge e f).pending = s.pending := rfl
@[simp] theorem State.modEdge_now (s : State) (e : Edge) (f : EdgeSt → EdgeSt) : (s.modEdge e f).now = s.now := rfl
@[simp] theorem State.modEdge_freeCtr (s : State) (e : Edge) (f : EdgeSt → EdgeSt) : (s.modEdge e f).freeCtr = s.freeCtr := rfl
@[simp] theorem State.modEdge_cts (s : State) (e : Edge) (f : EdgeSt → EdgeSt) : (s.modEdge e f).cts = s.cts := rfl
@[simp] theorem State.modEdge_cp (s : State) (e : Edge) (f : EdgeSt → EdgeSt) : (s.modEdge e f).cp = s.cp := rfl
@[simp] theorem State.modEdge_cabs (s : State) (e : Edge) (f : EdgeSt → EdgeSt) : (s.modEdge e f).cabs = s.cabs := rfl
@[simp] theorem State.modEdge_streams (s : State) (e : Edge) (f : EdgeSt → EdgeSt) : (s.modEdge e f).streams = s.streams := rfl
@[simp] theorem State.modEdge_jobs (s : State) (e : Edge) (f : EdgeSt → EdgeSt) : (s.modEdge e f).jobs = s.jobs := rfl
@[simp] theorem State.modEdge_tensors (s : State) (e : Edge) (f : EdgeSt → EdgeSt) : (s.modEdge e f).tensors = s.tensors := rfl
@[simp] theorem State.modEdge_programs (s : State) (e : Edge) (f : EdgeSt → EdgeSt) : (s.modEdge e f).programs = s.programs := rfl
@[simp] theorem State.modEdge_slots (s : State) (e : Edge) (f : EdgeSt → EdgeSt) : (s.modEdge e f).slots = s.slots := rfl
@[simp] theorem State.modEdge_slotGens (s : State) (e : Edge) (f : EdgeSt → EdgeSt) : (s.modEdge e f).slotGens = s.slotGens := rfl
@[simp] theorem State.modEdge_residencies (s : State) (e : Edge) (f : EdgeSt → EdgeSt) : (s.modEdge e f).residencies = s.residencies := rfl
@[simp] theorem State.modEdge_fetches (s : State) (e : Edge) (f : EdgeSt → EdgeSt) : (s.modEdge e f).fetches = s.fetches := rfl
@[simp] theorem State.modEdge_nextFetch (s : State) (e : Edge) (f : EdgeSt → EdgeSt) : (s.modEdge e f).nextFetch = s.nextFetch := rfl
@[simp] theorem State.modEdge_fetchOrder (s : State) (e : Edge) (f : EdgeSt → EdgeSt) : (s.modEdge e f).fetchOrder = s.fetchOrder := rfl
@[simp] theorem State.modEdge_xclaims (s : State) (e : Edge) (f : EdgeSt → EdgeSt) : (s.modEdge e f).xclaims = s.xclaims := rfl
@[simp] theorem State.modEdge_consents (s : State) (e : Edge) (f : EdgeSt → EdgeSt) : (s.modEdge e f).consents = s.consents := rfl
@[simp] theorem State.modEdge_remakeQ (s : State) (e : Edge) (f : EdgeSt → EdgeSt) : (s.modEdge e f).remakeQ = s.remakeQ := rfl
@[simp] theorem State.modEdge_notes (s : State) (e : Edge) (f : EdgeSt → EdgeSt) : (s.modEdge e f).notes = s.notes := rfl
@[simp] theorem State.modEdge_requests (s : State) (e : Edge) (f : EdgeSt → EdgeSt) : (s.modEdge e f).requests = s.requests := rfl
@[simp] theorem State.modEdge_nextRequest (s : State) (e : Edge) (f : EdgeSt → EdgeSt) : (s.modEdge e f).nextRequest = s.nextRequest := rfl
@[simp] theorem State.modEdge_useClock (s : State) (e : Edge) (f : EdgeSt → EdgeSt) : (s.modEdge e f).useClock = s.useClock := rfl
@[simp] theorem State.modEdge_dies (s : State) (e : Edge) (f : EdgeSt → EdgeSt) : (s.modEdge e f).dies = s.dies := rfl
@[simp] theorem State.modEdge_clusters (s : State) (e : Edge) (f : EdgeSt → EdgeSt) : (s.modEdge e f).clusters = s.clusters := rfl
@[simp] theorem State.modEdge_tiles (s : State) (e : Edge) (f : EdgeSt → EdgeSt) : (s.modEdge e f).tiles = s.tiles := rfl
@[simp] theorem State.modEdge_grants (s : State) (e : Edge) (f : EdgeSt → EdgeSt) : (s.modEdge e f).grants = s.grants := rfl
@[simp] theorem State.modEdge_flights (s : State) (e : Edge) (f : EdgeSt → EdgeSt) : (s.modEdge e f).flights = s.flights := rfl
@[simp] theorem State.modEdge_vengines (s : State) (e : Edge) (f : EdgeSt → EdgeSt) : (s.modEdge e f).vengines = s.vengines := rfl
@[simp] theorem State.modEdge_runs (s : State) (e : Edge) (f : EdgeSt → EdgeSt) : (s.modEdge e f).runs = s.runs := rfl
@[simp] theorem State.modEdge_nextRun (s : State) (e : Edge) (f : EdgeSt → EdgeSt) : (s.modEdge e f).nextRun = s.nextRun := rfl
@[simp] theorem State.modEdge_reductions (s : State) (e : Edge) (f : EdgeSt → EdgeSt) : (s.modEdge e f).reductions = s.reductions := rfl
@[simp] theorem State.modEdge_nextRed (s : State) (e : Edge) (f : EdgeSt → EdgeSt) : (s.modEdge e f).nextRed = s.nextRed := rfl
@[simp] theorem State.modEdge_nextStore (s : State) (e : Edge) (f : EdgeSt → EdgeSt) : (s.modEdge e f).nextStore = s.nextStore := rfl
@[simp] theorem State.modEdge_versions (s : State) (e : Edge) (f : EdgeSt → EdgeSt) : (s.modEdge e f).versions = s.versions := rfl
@[simp] theorem State.modEdge_stores (s : State) (e : Edge) (f : EdgeSt → EdgeSt) : (s.modEdge e f).stores = s.stores := rfl
@[simp] theorem State.modEdge_hopsBroken (s : State) (e : Edge) (f : EdgeSt → EdgeSt) : (s.modEdge e f).hopsBroken = s.hopsBroken := rfl
@[simp] theorem State.modEdge_hopOrder (s : State) (e : Edge) (f : EdgeSt → EdgeSt) : (s.modEdge e f).hopOrder = s.hopOrder := rfl
@[simp] theorem State.modEdge_pages (s : State) (e : Edge) (f : EdgeSt → EdgeSt) : (s.modEdge e f).pages = s.pages := rfl
@[simp] theorem State.modEdge_mem (s : State) (e : Edge) (f : EdgeSt → EdgeSt) : (s.modEdge e f).mem = s.mem := rfl
@[simp] theorem State.modEdge_merges (s : State) (e : Edge) (f : EdgeSt → EdgeSt) : (s.modEdge e f).merges = s.merges := rfl
@[simp] theorem State.modEdge_hbm (s : State) (e : Edge) (f : EdgeSt → EdgeSt) : (s.modEdge e f).hbm = s.hbm := rfl
@[simp] theorem State.modEdge_rot (s : State) (e : Edge) (f : EdgeSt → EdgeSt) : (s.modEdge e f).rot = s.rot := rfl
@[simp] theorem State.modEdge_edges (s : State) (e : Edge) (f : EdgeSt → EdgeSt) : (s.modEdge e f).edges = updAt e.val f s.edges := rfl
@[simp] theorem State.modEdge_power (s : State) (e : Edge) (f : EdgeSt → EdgeSt) : (s.modEdge e f).power = s.power := rfl
@[simp] theorem State.modEdge_telem (s : State) (e : Edge) (f : EdgeSt → EdgeSt) : (s.modEdge e f).telem = s.telem := rfl
@[simp] theorem State.modEdge_bus (s : State) (e : Edge) (f : EdgeSt → EdgeSt) : (s.modEdge e f).bus = s.bus := rfl
@[simp] theorem State.modEdge_sector (s : State) (e : Edge) (f : EdgeSt → EdgeSt) : (s.modEdge e f).sector = s.sector := rfl

/-! ## modCp -/

@[simp] theorem State.modCp_pending (s : State) (f : Cp → Cp) : (s.modCp f).pending = s.pending := rfl
@[simp] theorem State.modCp_now (s : State) (f : Cp → Cp) : (s.modCp f).now = s.now := rfl
@[simp] theorem State.modCp_freeCtr (s : State) (f : Cp → Cp) : (s.modCp f).freeCtr = s.freeCtr := rfl
@[simp] theorem State.modCp_cts (s : State) (f : Cp → Cp) : (s.modCp f).cts = s.cts := rfl
@[simp] theorem State.modCp_cp (s : State) (f : Cp → Cp) : (s.modCp f).cp = f s.cp := rfl
@[simp] theorem State.modCp_cabs (s : State) (f : Cp → Cp) : (s.modCp f).cabs = s.cabs := rfl
@[simp] theorem State.modCp_streams (s : State) (f : Cp → Cp) : (s.modCp f).streams = s.streams := rfl
@[simp] theorem State.modCp_jobs (s : State) (f : Cp → Cp) : (s.modCp f).jobs = s.jobs := rfl
@[simp] theorem State.modCp_tensors (s : State) (f : Cp → Cp) : (s.modCp f).tensors = s.tensors := rfl
@[simp] theorem State.modCp_programs (s : State) (f : Cp → Cp) : (s.modCp f).programs = s.programs := rfl
@[simp] theorem State.modCp_slots (s : State) (f : Cp → Cp) : (s.modCp f).slots = s.slots := rfl
@[simp] theorem State.modCp_slotGens (s : State) (f : Cp → Cp) : (s.modCp f).slotGens = s.slotGens := rfl
@[simp] theorem State.modCp_residencies (s : State) (f : Cp → Cp) : (s.modCp f).residencies = s.residencies := rfl
@[simp] theorem State.modCp_fetches (s : State) (f : Cp → Cp) : (s.modCp f).fetches = s.fetches := rfl
@[simp] theorem State.modCp_nextFetch (s : State) (f : Cp → Cp) : (s.modCp f).nextFetch = s.nextFetch := rfl
@[simp] theorem State.modCp_fetchOrder (s : State) (f : Cp → Cp) : (s.modCp f).fetchOrder = s.fetchOrder := rfl
@[simp] theorem State.modCp_xclaims (s : State) (f : Cp → Cp) : (s.modCp f).xclaims = s.xclaims := rfl
@[simp] theorem State.modCp_consents (s : State) (f : Cp → Cp) : (s.modCp f).consents = s.consents := rfl
@[simp] theorem State.modCp_remakeQ (s : State) (f : Cp → Cp) : (s.modCp f).remakeQ = s.remakeQ := rfl
@[simp] theorem State.modCp_notes (s : State) (f : Cp → Cp) : (s.modCp f).notes = s.notes := rfl
@[simp] theorem State.modCp_requests (s : State) (f : Cp → Cp) : (s.modCp f).requests = s.requests := rfl
@[simp] theorem State.modCp_nextRequest (s : State) (f : Cp → Cp) : (s.modCp f).nextRequest = s.nextRequest := rfl
@[simp] theorem State.modCp_useClock (s : State) (f : Cp → Cp) : (s.modCp f).useClock = s.useClock := rfl
@[simp] theorem State.modCp_dies (s : State) (f : Cp → Cp) : (s.modCp f).dies = s.dies := rfl
@[simp] theorem State.modCp_clusters (s : State) (f : Cp → Cp) : (s.modCp f).clusters = s.clusters := rfl
@[simp] theorem State.modCp_tiles (s : State) (f : Cp → Cp) : (s.modCp f).tiles = s.tiles := rfl
@[simp] theorem State.modCp_grants (s : State) (f : Cp → Cp) : (s.modCp f).grants = s.grants := rfl
@[simp] theorem State.modCp_flights (s : State) (f : Cp → Cp) : (s.modCp f).flights = s.flights := rfl
@[simp] theorem State.modCp_vengines (s : State) (f : Cp → Cp) : (s.modCp f).vengines = s.vengines := rfl
@[simp] theorem State.modCp_runs (s : State) (f : Cp → Cp) : (s.modCp f).runs = s.runs := rfl
@[simp] theorem State.modCp_nextRun (s : State) (f : Cp → Cp) : (s.modCp f).nextRun = s.nextRun := rfl
@[simp] theorem State.modCp_reductions (s : State) (f : Cp → Cp) : (s.modCp f).reductions = s.reductions := rfl
@[simp] theorem State.modCp_nextRed (s : State) (f : Cp → Cp) : (s.modCp f).nextRed = s.nextRed := rfl
@[simp] theorem State.modCp_nextStore (s : State) (f : Cp → Cp) : (s.modCp f).nextStore = s.nextStore := rfl
@[simp] theorem State.modCp_versions (s : State) (f : Cp → Cp) : (s.modCp f).versions = s.versions := rfl
@[simp] theorem State.modCp_stores (s : State) (f : Cp → Cp) : (s.modCp f).stores = s.stores := rfl
@[simp] theorem State.modCp_hopsBroken (s : State) (f : Cp → Cp) : (s.modCp f).hopsBroken = s.hopsBroken := rfl
@[simp] theorem State.modCp_hopOrder (s : State) (f : Cp → Cp) : (s.modCp f).hopOrder = s.hopOrder := rfl
@[simp] theorem State.modCp_pages (s : State) (f : Cp → Cp) : (s.modCp f).pages = s.pages := rfl
@[simp] theorem State.modCp_mem (s : State) (f : Cp → Cp) : (s.modCp f).mem = s.mem := rfl
@[simp] theorem State.modCp_merges (s : State) (f : Cp → Cp) : (s.modCp f).merges = s.merges := rfl
@[simp] theorem State.modCp_hbm (s : State) (f : Cp → Cp) : (s.modCp f).hbm = s.hbm := rfl
@[simp] theorem State.modCp_rot (s : State) (f : Cp → Cp) : (s.modCp f).rot = s.rot := rfl
@[simp] theorem State.modCp_edges (s : State) (f : Cp → Cp) : (s.modCp f).edges = s.edges := rfl
@[simp] theorem State.modCp_power (s : State) (f : Cp → Cp) : (s.modCp f).power = s.power := rfl
@[simp] theorem State.modCp_telem (s : State) (f : Cp → Cp) : (s.modCp f).telem = s.telem := rfl
@[simp] theorem State.modCp_bus (s : State) (f : Cp → Cp) : (s.modCp f).bus = s.bus := rfl
@[simp] theorem State.modCp_sector (s : State) (f : Cp → Cp) : (s.modCp f).sector = s.sector := rfl

/-! ## modRot -/

@[simp] theorem State.modRot_pending (s : State) (f : Rot → Rot) : (s.modRot f).pending = s.pending := rfl
@[simp] theorem State.modRot_now (s : State) (f : Rot → Rot) : (s.modRot f).now = s.now := rfl
@[simp] theorem State.modRot_freeCtr (s : State) (f : Rot → Rot) : (s.modRot f).freeCtr = s.freeCtr := rfl
@[simp] theorem State.modRot_cts (s : State) (f : Rot → Rot) : (s.modRot f).cts = s.cts := rfl
@[simp] theorem State.modRot_cp (s : State) (f : Rot → Rot) : (s.modRot f).cp = s.cp := rfl
@[simp] theorem State.modRot_cabs (s : State) (f : Rot → Rot) : (s.modRot f).cabs = s.cabs := rfl
@[simp] theorem State.modRot_streams (s : State) (f : Rot → Rot) : (s.modRot f).streams = s.streams := rfl
@[simp] theorem State.modRot_jobs (s : State) (f : Rot → Rot) : (s.modRot f).jobs = s.jobs := rfl
@[simp] theorem State.modRot_tensors (s : State) (f : Rot → Rot) : (s.modRot f).tensors = s.tensors := rfl
@[simp] theorem State.modRot_programs (s : State) (f : Rot → Rot) : (s.modRot f).programs = s.programs := rfl
@[simp] theorem State.modRot_slots (s : State) (f : Rot → Rot) : (s.modRot f).slots = s.slots := rfl
@[simp] theorem State.modRot_slotGens (s : State) (f : Rot → Rot) : (s.modRot f).slotGens = s.slotGens := rfl
@[simp] theorem State.modRot_residencies (s : State) (f : Rot → Rot) : (s.modRot f).residencies = s.residencies := rfl
@[simp] theorem State.modRot_fetches (s : State) (f : Rot → Rot) : (s.modRot f).fetches = s.fetches := rfl
@[simp] theorem State.modRot_nextFetch (s : State) (f : Rot → Rot) : (s.modRot f).nextFetch = s.nextFetch := rfl
@[simp] theorem State.modRot_fetchOrder (s : State) (f : Rot → Rot) : (s.modRot f).fetchOrder = s.fetchOrder := rfl
@[simp] theorem State.modRot_xclaims (s : State) (f : Rot → Rot) : (s.modRot f).xclaims = s.xclaims := rfl
@[simp] theorem State.modRot_consents (s : State) (f : Rot → Rot) : (s.modRot f).consents = s.consents := rfl
@[simp] theorem State.modRot_remakeQ (s : State) (f : Rot → Rot) : (s.modRot f).remakeQ = s.remakeQ := rfl
@[simp] theorem State.modRot_notes (s : State) (f : Rot → Rot) : (s.modRot f).notes = s.notes := rfl
@[simp] theorem State.modRot_requests (s : State) (f : Rot → Rot) : (s.modRot f).requests = s.requests := rfl
@[simp] theorem State.modRot_nextRequest (s : State) (f : Rot → Rot) : (s.modRot f).nextRequest = s.nextRequest := rfl
@[simp] theorem State.modRot_useClock (s : State) (f : Rot → Rot) : (s.modRot f).useClock = s.useClock := rfl
@[simp] theorem State.modRot_dies (s : State) (f : Rot → Rot) : (s.modRot f).dies = s.dies := rfl
@[simp] theorem State.modRot_clusters (s : State) (f : Rot → Rot) : (s.modRot f).clusters = s.clusters := rfl
@[simp] theorem State.modRot_tiles (s : State) (f : Rot → Rot) : (s.modRot f).tiles = s.tiles := rfl
@[simp] theorem State.modRot_grants (s : State) (f : Rot → Rot) : (s.modRot f).grants = s.grants := rfl
@[simp] theorem State.modRot_flights (s : State) (f : Rot → Rot) : (s.modRot f).flights = s.flights := rfl
@[simp] theorem State.modRot_vengines (s : State) (f : Rot → Rot) : (s.modRot f).vengines = s.vengines := rfl
@[simp] theorem State.modRot_runs (s : State) (f : Rot → Rot) : (s.modRot f).runs = s.runs := rfl
@[simp] theorem State.modRot_nextRun (s : State) (f : Rot → Rot) : (s.modRot f).nextRun = s.nextRun := rfl
@[simp] theorem State.modRot_reductions (s : State) (f : Rot → Rot) : (s.modRot f).reductions = s.reductions := rfl
@[simp] theorem State.modRot_nextRed (s : State) (f : Rot → Rot) : (s.modRot f).nextRed = s.nextRed := rfl
@[simp] theorem State.modRot_nextStore (s : State) (f : Rot → Rot) : (s.modRot f).nextStore = s.nextStore := rfl
@[simp] theorem State.modRot_versions (s : State) (f : Rot → Rot) : (s.modRot f).versions = s.versions := rfl
@[simp] theorem State.modRot_stores (s : State) (f : Rot → Rot) : (s.modRot f).stores = s.stores := rfl
@[simp] theorem State.modRot_hopsBroken (s : State) (f : Rot → Rot) : (s.modRot f).hopsBroken = s.hopsBroken := rfl
@[simp] theorem State.modRot_hopOrder (s : State) (f : Rot → Rot) : (s.modRot f).hopOrder = s.hopOrder := rfl
@[simp] theorem State.modRot_pages (s : State) (f : Rot → Rot) : (s.modRot f).pages = s.pages := rfl
@[simp] theorem State.modRot_mem (s : State) (f : Rot → Rot) : (s.modRot f).mem = s.mem := rfl
@[simp] theorem State.modRot_merges (s : State) (f : Rot → Rot) : (s.modRot f).merges = s.merges := rfl
@[simp] theorem State.modRot_hbm (s : State) (f : Rot → Rot) : (s.modRot f).hbm = s.hbm := rfl
@[simp] theorem State.modRot_rot (s : State) (f : Rot → Rot) : (s.modRot f).rot = f s.rot := rfl
@[simp] theorem State.modRot_edges (s : State) (f : Rot → Rot) : (s.modRot f).edges = s.edges := rfl
@[simp] theorem State.modRot_power (s : State) (f : Rot → Rot) : (s.modRot f).power = s.power := rfl
@[simp] theorem State.modRot_telem (s : State) (f : Rot → Rot) : (s.modRot f).telem = s.telem := rfl
@[simp] theorem State.modRot_bus (s : State) (f : Rot → Rot) : (s.modRot f).bus = s.bus := rfl
@[simp] theorem State.modRot_sector (s : State) (f : Rot → Rot) : (s.modRot f).sector = s.sector := rfl

/-! ## modPower -/

@[simp] theorem State.modPower_pending (s : State) (f : Power → Power) : (s.modPower f).pending = s.pending := rfl
@[simp] theorem State.modPower_now (s : State) (f : Power → Power) : (s.modPower f).now = s.now := rfl
@[simp] theorem State.modPower_freeCtr (s : State) (f : Power → Power) : (s.modPower f).freeCtr = s.freeCtr := rfl
@[simp] theorem State.modPower_cts (s : State) (f : Power → Power) : (s.modPower f).cts = s.cts := rfl
@[simp] theorem State.modPower_cp (s : State) (f : Power → Power) : (s.modPower f).cp = s.cp := rfl
@[simp] theorem State.modPower_cabs (s : State) (f : Power → Power) : (s.modPower f).cabs = s.cabs := rfl
@[simp] theorem State.modPower_streams (s : State) (f : Power → Power) : (s.modPower f).streams = s.streams := rfl
@[simp] theorem State.modPower_jobs (s : State) (f : Power → Power) : (s.modPower f).jobs = s.jobs := rfl
@[simp] theorem State.modPower_tensors (s : State) (f : Power → Power) : (s.modPower f).tensors = s.tensors := rfl
@[simp] theorem State.modPower_programs (s : State) (f : Power → Power) : (s.modPower f).programs = s.programs := rfl
@[simp] theorem State.modPower_slots (s : State) (f : Power → Power) : (s.modPower f).slots = s.slots := rfl
@[simp] theorem State.modPower_slotGens (s : State) (f : Power → Power) : (s.modPower f).slotGens = s.slotGens := rfl
@[simp] theorem State.modPower_residencies (s : State) (f : Power → Power) : (s.modPower f).residencies = s.residencies := rfl
@[simp] theorem State.modPower_fetches (s : State) (f : Power → Power) : (s.modPower f).fetches = s.fetches := rfl
@[simp] theorem State.modPower_nextFetch (s : State) (f : Power → Power) : (s.modPower f).nextFetch = s.nextFetch := rfl
@[simp] theorem State.modPower_fetchOrder (s : State) (f : Power → Power) : (s.modPower f).fetchOrder = s.fetchOrder := rfl
@[simp] theorem State.modPower_xclaims (s : State) (f : Power → Power) : (s.modPower f).xclaims = s.xclaims := rfl
@[simp] theorem State.modPower_consents (s : State) (f : Power → Power) : (s.modPower f).consents = s.consents := rfl
@[simp] theorem State.modPower_remakeQ (s : State) (f : Power → Power) : (s.modPower f).remakeQ = s.remakeQ := rfl
@[simp] theorem State.modPower_notes (s : State) (f : Power → Power) : (s.modPower f).notes = s.notes := rfl
@[simp] theorem State.modPower_requests (s : State) (f : Power → Power) : (s.modPower f).requests = s.requests := rfl
@[simp] theorem State.modPower_nextRequest (s : State) (f : Power → Power) : (s.modPower f).nextRequest = s.nextRequest := rfl
@[simp] theorem State.modPower_useClock (s : State) (f : Power → Power) : (s.modPower f).useClock = s.useClock := rfl
@[simp] theorem State.modPower_dies (s : State) (f : Power → Power) : (s.modPower f).dies = s.dies := rfl
@[simp] theorem State.modPower_clusters (s : State) (f : Power → Power) : (s.modPower f).clusters = s.clusters := rfl
@[simp] theorem State.modPower_tiles (s : State) (f : Power → Power) : (s.modPower f).tiles = s.tiles := rfl
@[simp] theorem State.modPower_grants (s : State) (f : Power → Power) : (s.modPower f).grants = s.grants := rfl
@[simp] theorem State.modPower_flights (s : State) (f : Power → Power) : (s.modPower f).flights = s.flights := rfl
@[simp] theorem State.modPower_vengines (s : State) (f : Power → Power) : (s.modPower f).vengines = s.vengines := rfl
@[simp] theorem State.modPower_runs (s : State) (f : Power → Power) : (s.modPower f).runs = s.runs := rfl
@[simp] theorem State.modPower_nextRun (s : State) (f : Power → Power) : (s.modPower f).nextRun = s.nextRun := rfl
@[simp] theorem State.modPower_reductions (s : State) (f : Power → Power) : (s.modPower f).reductions = s.reductions := rfl
@[simp] theorem State.modPower_nextRed (s : State) (f : Power → Power) : (s.modPower f).nextRed = s.nextRed := rfl
@[simp] theorem State.modPower_nextStore (s : State) (f : Power → Power) : (s.modPower f).nextStore = s.nextStore := rfl
@[simp] theorem State.modPower_versions (s : State) (f : Power → Power) : (s.modPower f).versions = s.versions := rfl
@[simp] theorem State.modPower_stores (s : State) (f : Power → Power) : (s.modPower f).stores = s.stores := rfl
@[simp] theorem State.modPower_hopsBroken (s : State) (f : Power → Power) : (s.modPower f).hopsBroken = s.hopsBroken := rfl
@[simp] theorem State.modPower_hopOrder (s : State) (f : Power → Power) : (s.modPower f).hopOrder = s.hopOrder := rfl
@[simp] theorem State.modPower_pages (s : State) (f : Power → Power) : (s.modPower f).pages = s.pages := rfl
@[simp] theorem State.modPower_mem (s : State) (f : Power → Power) : (s.modPower f).mem = s.mem := rfl
@[simp] theorem State.modPower_merges (s : State) (f : Power → Power) : (s.modPower f).merges = s.merges := rfl
@[simp] theorem State.modPower_hbm (s : State) (f : Power → Power) : (s.modPower f).hbm = s.hbm := rfl
@[simp] theorem State.modPower_rot (s : State) (f : Power → Power) : (s.modPower f).rot = s.rot := rfl
@[simp] theorem State.modPower_edges (s : State) (f : Power → Power) : (s.modPower f).edges = s.edges := rfl
@[simp] theorem State.modPower_power (s : State) (f : Power → Power) : (s.modPower f).power = f s.power := rfl
@[simp] theorem State.modPower_telem (s : State) (f : Power → Power) : (s.modPower f).telem = s.telem := rfl
@[simp] theorem State.modPower_bus (s : State) (f : Power → Power) : (s.modPower f).bus = s.bus := rfl
@[simp] theorem State.modPower_sector (s : State) (f : Power → Power) : (s.modPower f).sector = s.sector := rfl

/-! ## modStream -/

@[simp] theorem State.modStream_pending (s : State) (i : Nat) (f : Stream → Stream) : (s.modStream i f).pending = s.pending := rfl
@[simp] theorem State.modStream_now (s : State) (i : Nat) (f : Stream → Stream) : (s.modStream i f).now = s.now := rfl
@[simp] theorem State.modStream_freeCtr (s : State) (i : Nat) (f : Stream → Stream) : (s.modStream i f).freeCtr = s.freeCtr := rfl
@[simp] theorem State.modStream_cts (s : State) (i : Nat) (f : Stream → Stream) : (s.modStream i f).cts = s.cts := rfl
@[simp] theorem State.modStream_cp (s : State) (i : Nat) (f : Stream → Stream) : (s.modStream i f).cp = s.cp := rfl
@[simp] theorem State.modStream_cabs (s : State) (i : Nat) (f : Stream → Stream) : (s.modStream i f).cabs = s.cabs := rfl
@[simp] theorem State.modStream_streams (s : State) (i : Nat) (f : Stream → Stream) : (s.modStream i f).streams = updFirst (fun x => x.id.val == i) f s.streams := rfl
@[simp] theorem State.modStream_jobs (s : State) (i : Nat) (f : Stream → Stream) : (s.modStream i f).jobs = s.jobs := rfl
@[simp] theorem State.modStream_tensors (s : State) (i : Nat) (f : Stream → Stream) : (s.modStream i f).tensors = s.tensors := rfl
@[simp] theorem State.modStream_programs (s : State) (i : Nat) (f : Stream → Stream) : (s.modStream i f).programs = s.programs := rfl
@[simp] theorem State.modStream_slots (s : State) (i : Nat) (f : Stream → Stream) : (s.modStream i f).slots = s.slots := rfl
@[simp] theorem State.modStream_slotGens (s : State) (i : Nat) (f : Stream → Stream) : (s.modStream i f).slotGens = s.slotGens := rfl
@[simp] theorem State.modStream_residencies (s : State) (i : Nat) (f : Stream → Stream) : (s.modStream i f).residencies = s.residencies := rfl
@[simp] theorem State.modStream_fetches (s : State) (i : Nat) (f : Stream → Stream) : (s.modStream i f).fetches = s.fetches := rfl
@[simp] theorem State.modStream_nextFetch (s : State) (i : Nat) (f : Stream → Stream) : (s.modStream i f).nextFetch = s.nextFetch := rfl
@[simp] theorem State.modStream_fetchOrder (s : State) (i : Nat) (f : Stream → Stream) : (s.modStream i f).fetchOrder = s.fetchOrder := rfl
@[simp] theorem State.modStream_xclaims (s : State) (i : Nat) (f : Stream → Stream) : (s.modStream i f).xclaims = s.xclaims := rfl
@[simp] theorem State.modStream_consents (s : State) (i : Nat) (f : Stream → Stream) : (s.modStream i f).consents = s.consents := rfl
@[simp] theorem State.modStream_remakeQ (s : State) (i : Nat) (f : Stream → Stream) : (s.modStream i f).remakeQ = s.remakeQ := rfl
@[simp] theorem State.modStream_notes (s : State) (i : Nat) (f : Stream → Stream) : (s.modStream i f).notes = s.notes := rfl
@[simp] theorem State.modStream_requests (s : State) (i : Nat) (f : Stream → Stream) : (s.modStream i f).requests = s.requests := rfl
@[simp] theorem State.modStream_nextRequest (s : State) (i : Nat) (f : Stream → Stream) : (s.modStream i f).nextRequest = s.nextRequest := rfl
@[simp] theorem State.modStream_useClock (s : State) (i : Nat) (f : Stream → Stream) : (s.modStream i f).useClock = s.useClock := rfl
@[simp] theorem State.modStream_dies (s : State) (i : Nat) (f : Stream → Stream) : (s.modStream i f).dies = s.dies := rfl
@[simp] theorem State.modStream_clusters (s : State) (i : Nat) (f : Stream → Stream) : (s.modStream i f).clusters = s.clusters := rfl
@[simp] theorem State.modStream_tiles (s : State) (i : Nat) (f : Stream → Stream) : (s.modStream i f).tiles = s.tiles := rfl
@[simp] theorem State.modStream_grants (s : State) (i : Nat) (f : Stream → Stream) : (s.modStream i f).grants = s.grants := rfl
@[simp] theorem State.modStream_flights (s : State) (i : Nat) (f : Stream → Stream) : (s.modStream i f).flights = s.flights := rfl
@[simp] theorem State.modStream_vengines (s : State) (i : Nat) (f : Stream → Stream) : (s.modStream i f).vengines = s.vengines := rfl
@[simp] theorem State.modStream_runs (s : State) (i : Nat) (f : Stream → Stream) : (s.modStream i f).runs = s.runs := rfl
@[simp] theorem State.modStream_nextRun (s : State) (i : Nat) (f : Stream → Stream) : (s.modStream i f).nextRun = s.nextRun := rfl
@[simp] theorem State.modStream_reductions (s : State) (i : Nat) (f : Stream → Stream) : (s.modStream i f).reductions = s.reductions := rfl
@[simp] theorem State.modStream_nextRed (s : State) (i : Nat) (f : Stream → Stream) : (s.modStream i f).nextRed = s.nextRed := rfl
@[simp] theorem State.modStream_nextStore (s : State) (i : Nat) (f : Stream → Stream) : (s.modStream i f).nextStore = s.nextStore := rfl
@[simp] theorem State.modStream_versions (s : State) (i : Nat) (f : Stream → Stream) : (s.modStream i f).versions = s.versions := rfl
@[simp] theorem State.modStream_stores (s : State) (i : Nat) (f : Stream → Stream) : (s.modStream i f).stores = s.stores := rfl
@[simp] theorem State.modStream_hopsBroken (s : State) (i : Nat) (f : Stream → Stream) : (s.modStream i f).hopsBroken = s.hopsBroken := rfl
@[simp] theorem State.modStream_hopOrder (s : State) (i : Nat) (f : Stream → Stream) : (s.modStream i f).hopOrder = s.hopOrder := rfl
@[simp] theorem State.modStream_pages (s : State) (i : Nat) (f : Stream → Stream) : (s.modStream i f).pages = s.pages := rfl
@[simp] theorem State.modStream_mem (s : State) (i : Nat) (f : Stream → Stream) : (s.modStream i f).mem = s.mem := rfl
@[simp] theorem State.modStream_merges (s : State) (i : Nat) (f : Stream → Stream) : (s.modStream i f).merges = s.merges := rfl
@[simp] theorem State.modStream_hbm (s : State) (i : Nat) (f : Stream → Stream) : (s.modStream i f).hbm = s.hbm := rfl
@[simp] theorem State.modStream_rot (s : State) (i : Nat) (f : Stream → Stream) : (s.modStream i f).rot = s.rot := rfl
@[simp] theorem State.modStream_edges (s : State) (i : Nat) (f : Stream → Stream) : (s.modStream i f).edges = s.edges := rfl
@[simp] theorem State.modStream_power (s : State) (i : Nat) (f : Stream → Stream) : (s.modStream i f).power = s.power := rfl
@[simp] theorem State.modStream_telem (s : State) (i : Nat) (f : Stream → Stream) : (s.modStream i f).telem = s.telem := rfl
@[simp] theorem State.modStream_bus (s : State) (i : Nat) (f : Stream → Stream) : (s.modStream i f).bus = s.bus := rfl
@[simp] theorem State.modStream_sector (s : State) (i : Nat) (f : Stream → Stream) : (s.modStream i f).sector = s.sector := rfl

/-! ## modSession -/

@[simp] theorem State.modSession_pending (s : State) (n : Nat) (f : Session → Session) : (s.modSession n f).pending = s.pending := rfl
@[simp] theorem State.modSession_now (s : State) (n : Nat) (f : Session → Session) : (s.modSession n f).now = s.now := rfl
@[simp] theorem State.modSession_freeCtr (s : State) (n : Nat) (f : Session → Session) : (s.modSession n f).freeCtr = s.freeCtr := rfl
@[simp] theorem State.modSession_cts (s : State) (n : Nat) (f : Session → Session) : (s.modSession n f).cts = s.cts := rfl
@[simp] theorem State.modSession_cp (s : State) (n : Nat) (f : Session → Session) : (s.modSession n f).cp = s.cp := rfl
@[simp] theorem State.modSession_cabs (s : State) (n : Nat) (f : Session → Session) : (s.modSession n f).cabs = s.cabs := rfl
@[simp] theorem State.modSession_streams (s : State) (n : Nat) (f : Session → Session) : (s.modSession n f).streams = s.streams := rfl
@[simp] theorem State.modSession_jobs (s : State) (n : Nat) (f : Session → Session) : (s.modSession n f).jobs = s.jobs := rfl
@[simp] theorem State.modSession_tensors (s : State) (n : Nat) (f : Session → Session) : (s.modSession n f).tensors = s.tensors := rfl
@[simp] theorem State.modSession_programs (s : State) (n : Nat) (f : Session → Session) : (s.modSession n f).programs = s.programs := rfl
@[simp] theorem State.modSession_slots (s : State) (n : Nat) (f : Session → Session) : (s.modSession n f).slots = s.slots := rfl
@[simp] theorem State.modSession_slotGens (s : State) (n : Nat) (f : Session → Session) : (s.modSession n f).slotGens = s.slotGens := rfl
@[simp] theorem State.modSession_residencies (s : State) (n : Nat) (f : Session → Session) : (s.modSession n f).residencies = s.residencies := rfl
@[simp] theorem State.modSession_fetches (s : State) (n : Nat) (f : Session → Session) : (s.modSession n f).fetches = s.fetches := rfl
@[simp] theorem State.modSession_nextFetch (s : State) (n : Nat) (f : Session → Session) : (s.modSession n f).nextFetch = s.nextFetch := rfl
@[simp] theorem State.modSession_fetchOrder (s : State) (n : Nat) (f : Session → Session) : (s.modSession n f).fetchOrder = s.fetchOrder := rfl
@[simp] theorem State.modSession_xclaims (s : State) (n : Nat) (f : Session → Session) : (s.modSession n f).xclaims = s.xclaims := rfl
@[simp] theorem State.modSession_consents (s : State) (n : Nat) (f : Session → Session) : (s.modSession n f).consents = s.consents := rfl
@[simp] theorem State.modSession_remakeQ (s : State) (n : Nat) (f : Session → Session) : (s.modSession n f).remakeQ = s.remakeQ := rfl
@[simp] theorem State.modSession_notes (s : State) (n : Nat) (f : Session → Session) : (s.modSession n f).notes = s.notes := rfl
@[simp] theorem State.modSession_requests (s : State) (n : Nat) (f : Session → Session) : (s.modSession n f).requests = s.requests := rfl
@[simp] theorem State.modSession_nextRequest (s : State) (n : Nat) (f : Session → Session) : (s.modSession n f).nextRequest = s.nextRequest := rfl
@[simp] theorem State.modSession_useClock (s : State) (n : Nat) (f : Session → Session) : (s.modSession n f).useClock = s.useClock := rfl
@[simp] theorem State.modSession_dies (s : State) (n : Nat) (f : Session → Session) : (s.modSession n f).dies = s.dies := rfl
@[simp] theorem State.modSession_clusters (s : State) (n : Nat) (f : Session → Session) : (s.modSession n f).clusters = s.clusters := rfl
@[simp] theorem State.modSession_tiles (s : State) (n : Nat) (f : Session → Session) : (s.modSession n f).tiles = s.tiles := rfl
@[simp] theorem State.modSession_grants (s : State) (n : Nat) (f : Session → Session) : (s.modSession n f).grants = s.grants := rfl
@[simp] theorem State.modSession_flights (s : State) (n : Nat) (f : Session → Session) : (s.modSession n f).flights = s.flights := rfl
@[simp] theorem State.modSession_vengines (s : State) (n : Nat) (f : Session → Session) : (s.modSession n f).vengines = s.vengines := rfl
@[simp] theorem State.modSession_runs (s : State) (n : Nat) (f : Session → Session) : (s.modSession n f).runs = s.runs := rfl
@[simp] theorem State.modSession_nextRun (s : State) (n : Nat) (f : Session → Session) : (s.modSession n f).nextRun = s.nextRun := rfl
@[simp] theorem State.modSession_reductions (s : State) (n : Nat) (f : Session → Session) : (s.modSession n f).reductions = s.reductions := rfl
@[simp] theorem State.modSession_nextRed (s : State) (n : Nat) (f : Session → Session) : (s.modSession n f).nextRed = s.nextRed := rfl
@[simp] theorem State.modSession_nextStore (s : State) (n : Nat) (f : Session → Session) : (s.modSession n f).nextStore = s.nextStore := rfl
@[simp] theorem State.modSession_versions (s : State) (n : Nat) (f : Session → Session) : (s.modSession n f).versions = s.versions := rfl
@[simp] theorem State.modSession_stores (s : State) (n : Nat) (f : Session → Session) : (s.modSession n f).stores = s.stores := rfl
@[simp] theorem State.modSession_hopsBroken (s : State) (n : Nat) (f : Session → Session) : (s.modSession n f).hopsBroken = s.hopsBroken := rfl
@[simp] theorem State.modSession_hopOrder (s : State) (n : Nat) (f : Session → Session) : (s.modSession n f).hopOrder = s.hopOrder := rfl
@[simp] theorem State.modSession_pages (s : State) (n : Nat) (f : Session → Session) : (s.modSession n f).pages = s.pages := rfl
@[simp] theorem State.modSession_mem (s : State) (n : Nat) (f : Session → Session) : (s.modSession n f).mem = s.mem := rfl
@[simp] theorem State.modSession_merges (s : State) (n : Nat) (f : Session → Session) : (s.modSession n f).merges = s.merges := rfl
@[simp] theorem State.modSession_hbm (s : State) (n : Nat) (f : Session → Session) : (s.modSession n f).hbm = s.hbm := rfl
@[simp] theorem State.modSession_rot (s : State) (n : Nat) (f : Session → Session) : (s.modSession n f).rot = { s.rot with sessions := updFirst (fun x => x.n.val == n) f s.rot.sessions } := rfl
@[simp] theorem State.modSession_edges (s : State) (n : Nat) (f : Session → Session) : (s.modSession n f).edges = s.edges := rfl
@[simp] theorem State.modSession_power (s : State) (n : Nat) (f : Session → Session) : (s.modSession n f).power = s.power := rfl
@[simp] theorem State.modSession_telem (s : State) (n : Nat) (f : Session → Session) : (s.modSession n f).telem = s.telem := rfl
@[simp] theorem State.modSession_bus (s : State) (n : Nat) (f : Session → Session) : (s.modSession n f).bus = s.bus := rfl
@[simp] theorem State.modSession_sector (s : State) (n : Nat) (f : Session → Session) : (s.modSession n f).sector = s.sector := rfl

/-! ## modGlove -/

@[simp] theorem State.modGlove_pending (s : State) (g : Nat) (f : Glove → Glove) : (s.modGlove g f).pending = s.pending := rfl
@[simp] theorem State.modGlove_now (s : State) (g : Nat) (f : Glove → Glove) : (s.modGlove g f).now = s.now := rfl
@[simp] theorem State.modGlove_freeCtr (s : State) (g : Nat) (f : Glove → Glove) : (s.modGlove g f).freeCtr = s.freeCtr := rfl
@[simp] theorem State.modGlove_cts (s : State) (g : Nat) (f : Glove → Glove) : (s.modGlove g f).cts = s.cts := rfl
@[simp] theorem State.modGlove_cp (s : State) (g : Nat) (f : Glove → Glove) : (s.modGlove g f).cp = s.cp := rfl
@[simp] theorem State.modGlove_cabs (s : State) (g : Nat) (f : Glove → Glove) : (s.modGlove g f).cabs = s.cabs := rfl
@[simp] theorem State.modGlove_streams (s : State) (g : Nat) (f : Glove → Glove) : (s.modGlove g f).streams = s.streams := rfl
@[simp] theorem State.modGlove_jobs (s : State) (g : Nat) (f : Glove → Glove) : (s.modGlove g f).jobs = s.jobs := rfl
@[simp] theorem State.modGlove_tensors (s : State) (g : Nat) (f : Glove → Glove) : (s.modGlove g f).tensors = s.tensors := rfl
@[simp] theorem State.modGlove_programs (s : State) (g : Nat) (f : Glove → Glove) : (s.modGlove g f).programs = s.programs := rfl
@[simp] theorem State.modGlove_slots (s : State) (g : Nat) (f : Glove → Glove) : (s.modGlove g f).slots = s.slots := rfl
@[simp] theorem State.modGlove_slotGens (s : State) (g : Nat) (f : Glove → Glove) : (s.modGlove g f).slotGens = s.slotGens := rfl
@[simp] theorem State.modGlove_residencies (s : State) (g : Nat) (f : Glove → Glove) : (s.modGlove g f).residencies = s.residencies := rfl
@[simp] theorem State.modGlove_fetches (s : State) (g : Nat) (f : Glove → Glove) : (s.modGlove g f).fetches = s.fetches := rfl
@[simp] theorem State.modGlove_nextFetch (s : State) (g : Nat) (f : Glove → Glove) : (s.modGlove g f).nextFetch = s.nextFetch := rfl
@[simp] theorem State.modGlove_fetchOrder (s : State) (g : Nat) (f : Glove → Glove) : (s.modGlove g f).fetchOrder = s.fetchOrder := rfl
@[simp] theorem State.modGlove_xclaims (s : State) (g : Nat) (f : Glove → Glove) : (s.modGlove g f).xclaims = s.xclaims := rfl
@[simp] theorem State.modGlove_consents (s : State) (g : Nat) (f : Glove → Glove) : (s.modGlove g f).consents = s.consents := rfl
@[simp] theorem State.modGlove_remakeQ (s : State) (g : Nat) (f : Glove → Glove) : (s.modGlove g f).remakeQ = s.remakeQ := rfl
@[simp] theorem State.modGlove_notes (s : State) (g : Nat) (f : Glove → Glove) : (s.modGlove g f).notes = s.notes := rfl
@[simp] theorem State.modGlove_requests (s : State) (g : Nat) (f : Glove → Glove) : (s.modGlove g f).requests = s.requests := rfl
@[simp] theorem State.modGlove_nextRequest (s : State) (g : Nat) (f : Glove → Glove) : (s.modGlove g f).nextRequest = s.nextRequest := rfl
@[simp] theorem State.modGlove_useClock (s : State) (g : Nat) (f : Glove → Glove) : (s.modGlove g f).useClock = s.useClock := rfl
@[simp] theorem State.modGlove_dies (s : State) (g : Nat) (f : Glove → Glove) : (s.modGlove g f).dies = s.dies := rfl
@[simp] theorem State.modGlove_clusters (s : State) (g : Nat) (f : Glove → Glove) : (s.modGlove g f).clusters = s.clusters := rfl
@[simp] theorem State.modGlove_tiles (s : State) (g : Nat) (f : Glove → Glove) : (s.modGlove g f).tiles = s.tiles := rfl
@[simp] theorem State.modGlove_grants (s : State) (g : Nat) (f : Glove → Glove) : (s.modGlove g f).grants = s.grants := rfl
@[simp] theorem State.modGlove_flights (s : State) (g : Nat) (f : Glove → Glove) : (s.modGlove g f).flights = s.flights := rfl
@[simp] theorem State.modGlove_vengines (s : State) (g : Nat) (f : Glove → Glove) : (s.modGlove g f).vengines = s.vengines := rfl
@[simp] theorem State.modGlove_runs (s : State) (g : Nat) (f : Glove → Glove) : (s.modGlove g f).runs = s.runs := rfl
@[simp] theorem State.modGlove_nextRun (s : State) (g : Nat) (f : Glove → Glove) : (s.modGlove g f).nextRun = s.nextRun := rfl
@[simp] theorem State.modGlove_reductions (s : State) (g : Nat) (f : Glove → Glove) : (s.modGlove g f).reductions = s.reductions := rfl
@[simp] theorem State.modGlove_nextRed (s : State) (g : Nat) (f : Glove → Glove) : (s.modGlove g f).nextRed = s.nextRed := rfl
@[simp] theorem State.modGlove_nextStore (s : State) (g : Nat) (f : Glove → Glove) : (s.modGlove g f).nextStore = s.nextStore := rfl
@[simp] theorem State.modGlove_versions (s : State) (g : Nat) (f : Glove → Glove) : (s.modGlove g f).versions = s.versions := rfl
@[simp] theorem State.modGlove_stores (s : State) (g : Nat) (f : Glove → Glove) : (s.modGlove g f).stores = s.stores := rfl
@[simp] theorem State.modGlove_hopsBroken (s : State) (g : Nat) (f : Glove → Glove) : (s.modGlove g f).hopsBroken = s.hopsBroken := rfl
@[simp] theorem State.modGlove_hopOrder (s : State) (g : Nat) (f : Glove → Glove) : (s.modGlove g f).hopOrder = s.hopOrder := rfl
@[simp] theorem State.modGlove_pages (s : State) (g : Nat) (f : Glove → Glove) : (s.modGlove g f).pages = s.pages := rfl
@[simp] theorem State.modGlove_mem (s : State) (g : Nat) (f : Glove → Glove) : (s.modGlove g f).mem = s.mem := rfl
@[simp] theorem State.modGlove_merges (s : State) (g : Nat) (f : Glove → Glove) : (s.modGlove g f).merges = s.merges := rfl
@[simp] theorem State.modGlove_hbm (s : State) (g : Nat) (f : Glove → Glove) : (s.modGlove g f).hbm = s.hbm := rfl
@[simp] theorem State.modGlove_rot (s : State) (g : Nat) (f : Glove → Glove) : (s.modGlove g f).rot = { s.rot with gloves := updFirst (fun x => x.id.toNat == g) f s.rot.gloves } := rfl
@[simp] theorem State.modGlove_edges (s : State) (g : Nat) (f : Glove → Glove) : (s.modGlove g f).edges = s.edges := rfl
@[simp] theorem State.modGlove_power (s : State) (g : Nat) (f : Glove → Glove) : (s.modGlove g f).power = s.power := rfl
@[simp] theorem State.modGlove_telem (s : State) (g : Nat) (f : Glove → Glove) : (s.modGlove g f).telem = s.telem := rfl
@[simp] theorem State.modGlove_bus (s : State) (g : Nat) (f : Glove → Glove) : (s.modGlove g f).bus = s.bus := rfl
@[simp] theorem State.modGlove_sector (s : State) (g : Nat) (f : Glove → Glove) : (s.modGlove g f).sector = s.sector := rfl

/-! ## modRun -/

@[simp] theorem State.modRun_pending (s : State) (i : BitVec 32) (f : Run → Run) : (s.modRun i f).pending = s.pending := rfl
@[simp] theorem State.modRun_now (s : State) (i : BitVec 32) (f : Run → Run) : (s.modRun i f).now = s.now := rfl
@[simp] theorem State.modRun_freeCtr (s : State) (i : BitVec 32) (f : Run → Run) : (s.modRun i f).freeCtr = s.freeCtr := rfl
@[simp] theorem State.modRun_cts (s : State) (i : BitVec 32) (f : Run → Run) : (s.modRun i f).cts = s.cts := rfl
@[simp] theorem State.modRun_cp (s : State) (i : BitVec 32) (f : Run → Run) : (s.modRun i f).cp = s.cp := rfl
@[simp] theorem State.modRun_cabs (s : State) (i : BitVec 32) (f : Run → Run) : (s.modRun i f).cabs = s.cabs := rfl
@[simp] theorem State.modRun_streams (s : State) (i : BitVec 32) (f : Run → Run) : (s.modRun i f).streams = s.streams := rfl
@[simp] theorem State.modRun_jobs (s : State) (i : BitVec 32) (f : Run → Run) : (s.modRun i f).jobs = s.jobs := rfl
@[simp] theorem State.modRun_tensors (s : State) (i : BitVec 32) (f : Run → Run) : (s.modRun i f).tensors = s.tensors := rfl
@[simp] theorem State.modRun_programs (s : State) (i : BitVec 32) (f : Run → Run) : (s.modRun i f).programs = s.programs := rfl
@[simp] theorem State.modRun_slots (s : State) (i : BitVec 32) (f : Run → Run) : (s.modRun i f).slots = s.slots := rfl
@[simp] theorem State.modRun_slotGens (s : State) (i : BitVec 32) (f : Run → Run) : (s.modRun i f).slotGens = s.slotGens := rfl
@[simp] theorem State.modRun_residencies (s : State) (i : BitVec 32) (f : Run → Run) : (s.modRun i f).residencies = s.residencies := rfl
@[simp] theorem State.modRun_fetches (s : State) (i : BitVec 32) (f : Run → Run) : (s.modRun i f).fetches = s.fetches := rfl
@[simp] theorem State.modRun_nextFetch (s : State) (i : BitVec 32) (f : Run → Run) : (s.modRun i f).nextFetch = s.nextFetch := rfl
@[simp] theorem State.modRun_fetchOrder (s : State) (i : BitVec 32) (f : Run → Run) : (s.modRun i f).fetchOrder = s.fetchOrder := rfl
@[simp] theorem State.modRun_xclaims (s : State) (i : BitVec 32) (f : Run → Run) : (s.modRun i f).xclaims = s.xclaims := rfl
@[simp] theorem State.modRun_consents (s : State) (i : BitVec 32) (f : Run → Run) : (s.modRun i f).consents = s.consents := rfl
@[simp] theorem State.modRun_remakeQ (s : State) (i : BitVec 32) (f : Run → Run) : (s.modRun i f).remakeQ = s.remakeQ := rfl
@[simp] theorem State.modRun_notes (s : State) (i : BitVec 32) (f : Run → Run) : (s.modRun i f).notes = s.notes := rfl
@[simp] theorem State.modRun_requests (s : State) (i : BitVec 32) (f : Run → Run) : (s.modRun i f).requests = s.requests := rfl
@[simp] theorem State.modRun_nextRequest (s : State) (i : BitVec 32) (f : Run → Run) : (s.modRun i f).nextRequest = s.nextRequest := rfl
@[simp] theorem State.modRun_useClock (s : State) (i : BitVec 32) (f : Run → Run) : (s.modRun i f).useClock = s.useClock := rfl
@[simp] theorem State.modRun_dies (s : State) (i : BitVec 32) (f : Run → Run) : (s.modRun i f).dies = s.dies := rfl
@[simp] theorem State.modRun_clusters (s : State) (i : BitVec 32) (f : Run → Run) : (s.modRun i f).clusters = s.clusters := rfl
@[simp] theorem State.modRun_tiles (s : State) (i : BitVec 32) (f : Run → Run) : (s.modRun i f).tiles = s.tiles := rfl
@[simp] theorem State.modRun_grants (s : State) (i : BitVec 32) (f : Run → Run) : (s.modRun i f).grants = s.grants := rfl
@[simp] theorem State.modRun_flights (s : State) (i : BitVec 32) (f : Run → Run) : (s.modRun i f).flights = s.flights := rfl
@[simp] theorem State.modRun_vengines (s : State) (i : BitVec 32) (f : Run → Run) : (s.modRun i f).vengines = s.vengines := rfl
@[simp] theorem State.modRun_runs (s : State) (i : BitVec 32) (f : Run → Run) : (s.modRun i f).runs = updFirst (fun x => x.id == i) f s.runs := rfl
@[simp] theorem State.modRun_nextRun (s : State) (i : BitVec 32) (f : Run → Run) : (s.modRun i f).nextRun = s.nextRun := rfl
@[simp] theorem State.modRun_reductions (s : State) (i : BitVec 32) (f : Run → Run) : (s.modRun i f).reductions = s.reductions := rfl
@[simp] theorem State.modRun_nextRed (s : State) (i : BitVec 32) (f : Run → Run) : (s.modRun i f).nextRed = s.nextRed := rfl
@[simp] theorem State.modRun_nextStore (s : State) (i : BitVec 32) (f : Run → Run) : (s.modRun i f).nextStore = s.nextStore := rfl
@[simp] theorem State.modRun_versions (s : State) (i : BitVec 32) (f : Run → Run) : (s.modRun i f).versions = s.versions := rfl
@[simp] theorem State.modRun_stores (s : State) (i : BitVec 32) (f : Run → Run) : (s.modRun i f).stores = s.stores := rfl
@[simp] theorem State.modRun_hopsBroken (s : State) (i : BitVec 32) (f : Run → Run) : (s.modRun i f).hopsBroken = s.hopsBroken := rfl
@[simp] theorem State.modRun_hopOrder (s : State) (i : BitVec 32) (f : Run → Run) : (s.modRun i f).hopOrder = s.hopOrder := rfl
@[simp] theorem State.modRun_pages (s : State) (i : BitVec 32) (f : Run → Run) : (s.modRun i f).pages = s.pages := rfl
@[simp] theorem State.modRun_mem (s : State) (i : BitVec 32) (f : Run → Run) : (s.modRun i f).mem = s.mem := rfl
@[simp] theorem State.modRun_merges (s : State) (i : BitVec 32) (f : Run → Run) : (s.modRun i f).merges = s.merges := rfl
@[simp] theorem State.modRun_hbm (s : State) (i : BitVec 32) (f : Run → Run) : (s.modRun i f).hbm = s.hbm := rfl
@[simp] theorem State.modRun_rot (s : State) (i : BitVec 32) (f : Run → Run) : (s.modRun i f).rot = s.rot := rfl
@[simp] theorem State.modRun_edges (s : State) (i : BitVec 32) (f : Run → Run) : (s.modRun i f).edges = s.edges := rfl
@[simp] theorem State.modRun_power (s : State) (i : BitVec 32) (f : Run → Run) : (s.modRun i f).power = s.power := rfl
@[simp] theorem State.modRun_telem (s : State) (i : BitVec 32) (f : Run → Run) : (s.modRun i f).telem = s.telem := rfl
@[simp] theorem State.modRun_bus (s : State) (i : BitVec 32) (f : Run → Run) : (s.modRun i f).bus = s.bus := rfl
@[simp] theorem State.modRun_sector (s : State) (i : BitVec 32) (f : Run → Run) : (s.modRun i f).sector = s.sector := rfl

/-! ## modJob -/

@[simp] theorem State.modJob_pending (s : State) (st : Fin 4096) (q : BitVec 32) (f : Job → Job) : (s.modJob st q f).pending = s.pending := rfl
@[simp] theorem State.modJob_now (s : State) (st : Fin 4096) (q : BitVec 32) (f : Job → Job) : (s.modJob st q f).now = s.now := rfl
@[simp] theorem State.modJob_freeCtr (s : State) (st : Fin 4096) (q : BitVec 32) (f : Job → Job) : (s.modJob st q f).freeCtr = s.freeCtr := rfl
@[simp] theorem State.modJob_cts (s : State) (st : Fin 4096) (q : BitVec 32) (f : Job → Job) : (s.modJob st q f).cts = s.cts := rfl
@[simp] theorem State.modJob_cp (s : State) (st : Fin 4096) (q : BitVec 32) (f : Job → Job) : (s.modJob st q f).cp = s.cp := rfl
@[simp] theorem State.modJob_cabs (s : State) (st : Fin 4096) (q : BitVec 32) (f : Job → Job) : (s.modJob st q f).cabs = s.cabs := rfl
@[simp] theorem State.modJob_streams (s : State) (st : Fin 4096) (q : BitVec 32) (f : Job → Job) : (s.modJob st q f).streams = s.streams := rfl
@[simp] theorem State.modJob_jobs (s : State) (st : Fin 4096) (q : BitVec 32) (f : Job → Job) : (s.modJob st q f).jobs = updFirst (fun j => j.stream == st && j.seq == q) f s.jobs := rfl
@[simp] theorem State.modJob_tensors (s : State) (st : Fin 4096) (q : BitVec 32) (f : Job → Job) : (s.modJob st q f).tensors = s.tensors := rfl
@[simp] theorem State.modJob_programs (s : State) (st : Fin 4096) (q : BitVec 32) (f : Job → Job) : (s.modJob st q f).programs = s.programs := rfl
@[simp] theorem State.modJob_slots (s : State) (st : Fin 4096) (q : BitVec 32) (f : Job → Job) : (s.modJob st q f).slots = s.slots := rfl
@[simp] theorem State.modJob_slotGens (s : State) (st : Fin 4096) (q : BitVec 32) (f : Job → Job) : (s.modJob st q f).slotGens = s.slotGens := rfl
@[simp] theorem State.modJob_residencies (s : State) (st : Fin 4096) (q : BitVec 32) (f : Job → Job) : (s.modJob st q f).residencies = s.residencies := rfl
@[simp] theorem State.modJob_fetches (s : State) (st : Fin 4096) (q : BitVec 32) (f : Job → Job) : (s.modJob st q f).fetches = s.fetches := rfl
@[simp] theorem State.modJob_nextFetch (s : State) (st : Fin 4096) (q : BitVec 32) (f : Job → Job) : (s.modJob st q f).nextFetch = s.nextFetch := rfl
@[simp] theorem State.modJob_fetchOrder (s : State) (st : Fin 4096) (q : BitVec 32) (f : Job → Job) : (s.modJob st q f).fetchOrder = s.fetchOrder := rfl
@[simp] theorem State.modJob_xclaims (s : State) (st : Fin 4096) (q : BitVec 32) (f : Job → Job) : (s.modJob st q f).xclaims = s.xclaims := rfl
@[simp] theorem State.modJob_consents (s : State) (st : Fin 4096) (q : BitVec 32) (f : Job → Job) : (s.modJob st q f).consents = s.consents := rfl
@[simp] theorem State.modJob_remakeQ (s : State) (st : Fin 4096) (q : BitVec 32) (f : Job → Job) : (s.modJob st q f).remakeQ = s.remakeQ := rfl
@[simp] theorem State.modJob_notes (s : State) (st : Fin 4096) (q : BitVec 32) (f : Job → Job) : (s.modJob st q f).notes = s.notes := rfl
@[simp] theorem State.modJob_requests (s : State) (st : Fin 4096) (q : BitVec 32) (f : Job → Job) : (s.modJob st q f).requests = s.requests := rfl
@[simp] theorem State.modJob_nextRequest (s : State) (st : Fin 4096) (q : BitVec 32) (f : Job → Job) : (s.modJob st q f).nextRequest = s.nextRequest := rfl
@[simp] theorem State.modJob_useClock (s : State) (st : Fin 4096) (q : BitVec 32) (f : Job → Job) : (s.modJob st q f).useClock = s.useClock := rfl
@[simp] theorem State.modJob_dies (s : State) (st : Fin 4096) (q : BitVec 32) (f : Job → Job) : (s.modJob st q f).dies = s.dies := rfl
@[simp] theorem State.modJob_clusters (s : State) (st : Fin 4096) (q : BitVec 32) (f : Job → Job) : (s.modJob st q f).clusters = s.clusters := rfl
@[simp] theorem State.modJob_tiles (s : State) (st : Fin 4096) (q : BitVec 32) (f : Job → Job) : (s.modJob st q f).tiles = s.tiles := rfl
@[simp] theorem State.modJob_grants (s : State) (st : Fin 4096) (q : BitVec 32) (f : Job → Job) : (s.modJob st q f).grants = s.grants := rfl
@[simp] theorem State.modJob_flights (s : State) (st : Fin 4096) (q : BitVec 32) (f : Job → Job) : (s.modJob st q f).flights = s.flights := rfl
@[simp] theorem State.modJob_vengines (s : State) (st : Fin 4096) (q : BitVec 32) (f : Job → Job) : (s.modJob st q f).vengines = s.vengines := rfl
@[simp] theorem State.modJob_runs (s : State) (st : Fin 4096) (q : BitVec 32) (f : Job → Job) : (s.modJob st q f).runs = s.runs := rfl
@[simp] theorem State.modJob_nextRun (s : State) (st : Fin 4096) (q : BitVec 32) (f : Job → Job) : (s.modJob st q f).nextRun = s.nextRun := rfl
@[simp] theorem State.modJob_reductions (s : State) (st : Fin 4096) (q : BitVec 32) (f : Job → Job) : (s.modJob st q f).reductions = s.reductions := rfl
@[simp] theorem State.modJob_nextRed (s : State) (st : Fin 4096) (q : BitVec 32) (f : Job → Job) : (s.modJob st q f).nextRed = s.nextRed := rfl
@[simp] theorem State.modJob_nextStore (s : State) (st : Fin 4096) (q : BitVec 32) (f : Job → Job) : (s.modJob st q f).nextStore = s.nextStore := rfl
@[simp] theorem State.modJob_versions (s : State) (st : Fin 4096) (q : BitVec 32) (f : Job → Job) : (s.modJob st q f).versions = s.versions := rfl
@[simp] theorem State.modJob_stores (s : State) (st : Fin 4096) (q : BitVec 32) (f : Job → Job) : (s.modJob st q f).stores = s.stores := rfl
@[simp] theorem State.modJob_hopsBroken (s : State) (st : Fin 4096) (q : BitVec 32) (f : Job → Job) : (s.modJob st q f).hopsBroken = s.hopsBroken := rfl
@[simp] theorem State.modJob_hopOrder (s : State) (st : Fin 4096) (q : BitVec 32) (f : Job → Job) : (s.modJob st q f).hopOrder = s.hopOrder := rfl
@[simp] theorem State.modJob_pages (s : State) (st : Fin 4096) (q : BitVec 32) (f : Job → Job) : (s.modJob st q f).pages = s.pages := rfl
@[simp] theorem State.modJob_mem (s : State) (st : Fin 4096) (q : BitVec 32) (f : Job → Job) : (s.modJob st q f).mem = s.mem := rfl
@[simp] theorem State.modJob_merges (s : State) (st : Fin 4096) (q : BitVec 32) (f : Job → Job) : (s.modJob st q f).merges = s.merges := rfl
@[simp] theorem State.modJob_hbm (s : State) (st : Fin 4096) (q : BitVec 32) (f : Job → Job) : (s.modJob st q f).hbm = s.hbm := rfl
@[simp] theorem State.modJob_rot (s : State) (st : Fin 4096) (q : BitVec 32) (f : Job → Job) : (s.modJob st q f).rot = s.rot := rfl
@[simp] theorem State.modJob_edges (s : State) (st : Fin 4096) (q : BitVec 32) (f : Job → Job) : (s.modJob st q f).edges = s.edges := rfl
@[simp] theorem State.modJob_power (s : State) (st : Fin 4096) (q : BitVec 32) (f : Job → Job) : (s.modJob st q f).power = s.power := rfl
@[simp] theorem State.modJob_telem (s : State) (st : Fin 4096) (q : BitVec 32) (f : Job → Job) : (s.modJob st q f).telem = s.telem := rfl
@[simp] theorem State.modJob_bus (s : State) (st : Fin 4096) (q : BitVec 32) (f : Job → Job) : (s.modJob st q f).bus = s.bus := rfl
@[simp] theorem State.modJob_sector (s : State) (st : Fin 4096) (q : BitVec 32) (f : Job → Job) : (s.modJob st q f).sector = s.sector := rfl

/-! ## modSlot -/

@[simp] theorem State.modSlot_pending (s : State) (c : Cab) (n : Nat) (f : Slot → Slot) : (s.modSlot c n f).pending = s.pending := rfl
@[simp] theorem State.modSlot_now (s : State) (c : Cab) (n : Nat) (f : Slot → Slot) : (s.modSlot c n f).now = s.now := rfl
@[simp] theorem State.modSlot_freeCtr (s : State) (c : Cab) (n : Nat) (f : Slot → Slot) : (s.modSlot c n f).freeCtr = s.freeCtr := rfl
@[simp] theorem State.modSlot_cts (s : State) (c : Cab) (n : Nat) (f : Slot → Slot) : (s.modSlot c n f).cts = s.cts := rfl
@[simp] theorem State.modSlot_cp (s : State) (c : Cab) (n : Nat) (f : Slot → Slot) : (s.modSlot c n f).cp = s.cp := rfl
@[simp] theorem State.modSlot_cabs (s : State) (c : Cab) (n : Nat) (f : Slot → Slot) : (s.modSlot c n f).cabs = s.cabs := rfl
@[simp] theorem State.modSlot_streams (s : State) (c : Cab) (n : Nat) (f : Slot → Slot) : (s.modSlot c n f).streams = s.streams := rfl
@[simp] theorem State.modSlot_jobs (s : State) (c : Cab) (n : Nat) (f : Slot → Slot) : (s.modSlot c n f).jobs = s.jobs := rfl
@[simp] theorem State.modSlot_tensors (s : State) (c : Cab) (n : Nat) (f : Slot → Slot) : (s.modSlot c n f).tensors = s.tensors := rfl
@[simp] theorem State.modSlot_programs (s : State) (c : Cab) (n : Nat) (f : Slot → Slot) : (s.modSlot c n f).programs = s.programs := rfl
@[simp] theorem State.modSlot_slots (s : State) (c : Cab) (n : Nat) (f : Slot → Slot) : (s.modSlot c n f).slots = updFirst (fun x => x.cab == c && x.slot == n) f s.slots := rfl
@[simp] theorem State.modSlot_slotGens (s : State) (c : Cab) (n : Nat) (f : Slot → Slot) : (s.modSlot c n f).slotGens = s.slotGens := rfl
@[simp] theorem State.modSlot_residencies (s : State) (c : Cab) (n : Nat) (f : Slot → Slot) : (s.modSlot c n f).residencies = s.residencies := rfl
@[simp] theorem State.modSlot_fetches (s : State) (c : Cab) (n : Nat) (f : Slot → Slot) : (s.modSlot c n f).fetches = s.fetches := rfl
@[simp] theorem State.modSlot_nextFetch (s : State) (c : Cab) (n : Nat) (f : Slot → Slot) : (s.modSlot c n f).nextFetch = s.nextFetch := rfl
@[simp] theorem State.modSlot_fetchOrder (s : State) (c : Cab) (n : Nat) (f : Slot → Slot) : (s.modSlot c n f).fetchOrder = s.fetchOrder := rfl
@[simp] theorem State.modSlot_xclaims (s : State) (c : Cab) (n : Nat) (f : Slot → Slot) : (s.modSlot c n f).xclaims = s.xclaims := rfl
@[simp] theorem State.modSlot_consents (s : State) (c : Cab) (n : Nat) (f : Slot → Slot) : (s.modSlot c n f).consents = s.consents := rfl
@[simp] theorem State.modSlot_remakeQ (s : State) (c : Cab) (n : Nat) (f : Slot → Slot) : (s.modSlot c n f).remakeQ = s.remakeQ := rfl
@[simp] theorem State.modSlot_notes (s : State) (c : Cab) (n : Nat) (f : Slot → Slot) : (s.modSlot c n f).notes = s.notes := rfl
@[simp] theorem State.modSlot_requests (s : State) (c : Cab) (n : Nat) (f : Slot → Slot) : (s.modSlot c n f).requests = s.requests := rfl
@[simp] theorem State.modSlot_nextRequest (s : State) (c : Cab) (n : Nat) (f : Slot → Slot) : (s.modSlot c n f).nextRequest = s.nextRequest := rfl
@[simp] theorem State.modSlot_useClock (s : State) (c : Cab) (n : Nat) (f : Slot → Slot) : (s.modSlot c n f).useClock = s.useClock := rfl
@[simp] theorem State.modSlot_dies (s : State) (c : Cab) (n : Nat) (f : Slot → Slot) : (s.modSlot c n f).dies = s.dies := rfl
@[simp] theorem State.modSlot_clusters (s : State) (c : Cab) (n : Nat) (f : Slot → Slot) : (s.modSlot c n f).clusters = s.clusters := rfl
@[simp] theorem State.modSlot_tiles (s : State) (c : Cab) (n : Nat) (f : Slot → Slot) : (s.modSlot c n f).tiles = s.tiles := rfl
@[simp] theorem State.modSlot_grants (s : State) (c : Cab) (n : Nat) (f : Slot → Slot) : (s.modSlot c n f).grants = s.grants := rfl
@[simp] theorem State.modSlot_flights (s : State) (c : Cab) (n : Nat) (f : Slot → Slot) : (s.modSlot c n f).flights = s.flights := rfl
@[simp] theorem State.modSlot_vengines (s : State) (c : Cab) (n : Nat) (f : Slot → Slot) : (s.modSlot c n f).vengines = s.vengines := rfl
@[simp] theorem State.modSlot_runs (s : State) (c : Cab) (n : Nat) (f : Slot → Slot) : (s.modSlot c n f).runs = s.runs := rfl
@[simp] theorem State.modSlot_nextRun (s : State) (c : Cab) (n : Nat) (f : Slot → Slot) : (s.modSlot c n f).nextRun = s.nextRun := rfl
@[simp] theorem State.modSlot_reductions (s : State) (c : Cab) (n : Nat) (f : Slot → Slot) : (s.modSlot c n f).reductions = s.reductions := rfl
@[simp] theorem State.modSlot_nextRed (s : State) (c : Cab) (n : Nat) (f : Slot → Slot) : (s.modSlot c n f).nextRed = s.nextRed := rfl
@[simp] theorem State.modSlot_nextStore (s : State) (c : Cab) (n : Nat) (f : Slot → Slot) : (s.modSlot c n f).nextStore = s.nextStore := rfl
@[simp] theorem State.modSlot_versions (s : State) (c : Cab) (n : Nat) (f : Slot → Slot) : (s.modSlot c n f).versions = s.versions := rfl
@[simp] theorem State.modSlot_stores (s : State) (c : Cab) (n : Nat) (f : Slot → Slot) : (s.modSlot c n f).stores = s.stores := rfl
@[simp] theorem State.modSlot_hopsBroken (s : State) (c : Cab) (n : Nat) (f : Slot → Slot) : (s.modSlot c n f).hopsBroken = s.hopsBroken := rfl
@[simp] theorem State.modSlot_hopOrder (s : State) (c : Cab) (n : Nat) (f : Slot → Slot) : (s.modSlot c n f).hopOrder = s.hopOrder := rfl
@[simp] theorem State.modSlot_pages (s : State) (c : Cab) (n : Nat) (f : Slot → Slot) : (s.modSlot c n f).pages = s.pages := rfl
@[simp] theorem State.modSlot_mem (s : State) (c : Cab) (n : Nat) (f : Slot → Slot) : (s.modSlot c n f).mem = s.mem := rfl
@[simp] theorem State.modSlot_merges (s : State) (c : Cab) (n : Nat) (f : Slot → Slot) : (s.modSlot c n f).merges = s.merges := rfl
@[simp] theorem State.modSlot_hbm (s : State) (c : Cab) (n : Nat) (f : Slot → Slot) : (s.modSlot c n f).hbm = s.hbm := rfl
@[simp] theorem State.modSlot_rot (s : State) (c : Cab) (n : Nat) (f : Slot → Slot) : (s.modSlot c n f).rot = s.rot := rfl
@[simp] theorem State.modSlot_edges (s : State) (c : Cab) (n : Nat) (f : Slot → Slot) : (s.modSlot c n f).edges = s.edges := rfl
@[simp] theorem State.modSlot_power (s : State) (c : Cab) (n : Nat) (f : Slot → Slot) : (s.modSlot c n f).power = s.power := rfl
@[simp] theorem State.modSlot_telem (s : State) (c : Cab) (n : Nat) (f : Slot → Slot) : (s.modSlot c n f).telem = s.telem := rfl
@[simp] theorem State.modSlot_bus (s : State) (c : Cab) (n : Nat) (f : Slot → Slot) : (s.modSlot c n f).bus = s.bus := rfl
@[simp] theorem State.modSlot_sector (s : State) (c : Cab) (n : Nat) (f : Slot → Slot) : (s.modSlot c n f).sector = s.sector := rfl

/-! ## modRequest -/

@[simp] theorem State.modRequest_pending (s : State) (i : Nat) (f : Request → Request) : (s.modRequest i f).pending = s.pending := rfl
@[simp] theorem State.modRequest_now (s : State) (i : Nat) (f : Request → Request) : (s.modRequest i f).now = s.now := rfl
@[simp] theorem State.modRequest_freeCtr (s : State) (i : Nat) (f : Request → Request) : (s.modRequest i f).freeCtr = s.freeCtr := rfl
@[simp] theorem State.modRequest_cts (s : State) (i : Nat) (f : Request → Request) : (s.modRequest i f).cts = s.cts := rfl
@[simp] theorem State.modRequest_cp (s : State) (i : Nat) (f : Request → Request) : (s.modRequest i f).cp = s.cp := rfl
@[simp] theorem State.modRequest_cabs (s : State) (i : Nat) (f : Request → Request) : (s.modRequest i f).cabs = s.cabs := rfl
@[simp] theorem State.modRequest_streams (s : State) (i : Nat) (f : Request → Request) : (s.modRequest i f).streams = s.streams := rfl
@[simp] theorem State.modRequest_jobs (s : State) (i : Nat) (f : Request → Request) : (s.modRequest i f).jobs = s.jobs := rfl
@[simp] theorem State.modRequest_tensors (s : State) (i : Nat) (f : Request → Request) : (s.modRequest i f).tensors = s.tensors := rfl
@[simp] theorem State.modRequest_programs (s : State) (i : Nat) (f : Request → Request) : (s.modRequest i f).programs = s.programs := rfl
@[simp] theorem State.modRequest_slots (s : State) (i : Nat) (f : Request → Request) : (s.modRequest i f).slots = s.slots := rfl
@[simp] theorem State.modRequest_slotGens (s : State) (i : Nat) (f : Request → Request) : (s.modRequest i f).slotGens = s.slotGens := rfl
@[simp] theorem State.modRequest_residencies (s : State) (i : Nat) (f : Request → Request) : (s.modRequest i f).residencies = s.residencies := rfl
@[simp] theorem State.modRequest_fetches (s : State) (i : Nat) (f : Request → Request) : (s.modRequest i f).fetches = s.fetches := rfl
@[simp] theorem State.modRequest_nextFetch (s : State) (i : Nat) (f : Request → Request) : (s.modRequest i f).nextFetch = s.nextFetch := rfl
@[simp] theorem State.modRequest_fetchOrder (s : State) (i : Nat) (f : Request → Request) : (s.modRequest i f).fetchOrder = s.fetchOrder := rfl
@[simp] theorem State.modRequest_xclaims (s : State) (i : Nat) (f : Request → Request) : (s.modRequest i f).xclaims = s.xclaims := rfl
@[simp] theorem State.modRequest_consents (s : State) (i : Nat) (f : Request → Request) : (s.modRequest i f).consents = s.consents := rfl
@[simp] theorem State.modRequest_remakeQ (s : State) (i : Nat) (f : Request → Request) : (s.modRequest i f).remakeQ = s.remakeQ := rfl
@[simp] theorem State.modRequest_notes (s : State) (i : Nat) (f : Request → Request) : (s.modRequest i f).notes = s.notes := rfl
@[simp] theorem State.modRequest_requests (s : State) (i : Nat) (f : Request → Request) : (s.modRequest i f).requests = updFirst (fun x => x.id == i) f s.requests := rfl
@[simp] theorem State.modRequest_nextRequest (s : State) (i : Nat) (f : Request → Request) : (s.modRequest i f).nextRequest = s.nextRequest := rfl
@[simp] theorem State.modRequest_useClock (s : State) (i : Nat) (f : Request → Request) : (s.modRequest i f).useClock = s.useClock := rfl
@[simp] theorem State.modRequest_dies (s : State) (i : Nat) (f : Request → Request) : (s.modRequest i f).dies = s.dies := rfl
@[simp] theorem State.modRequest_clusters (s : State) (i : Nat) (f : Request → Request) : (s.modRequest i f).clusters = s.clusters := rfl
@[simp] theorem State.modRequest_tiles (s : State) (i : Nat) (f : Request → Request) : (s.modRequest i f).tiles = s.tiles := rfl
@[simp] theorem State.modRequest_grants (s : State) (i : Nat) (f : Request → Request) : (s.modRequest i f).grants = s.grants := rfl
@[simp] theorem State.modRequest_flights (s : State) (i : Nat) (f : Request → Request) : (s.modRequest i f).flights = s.flights := rfl
@[simp] theorem State.modRequest_vengines (s : State) (i : Nat) (f : Request → Request) : (s.modRequest i f).vengines = s.vengines := rfl
@[simp] theorem State.modRequest_runs (s : State) (i : Nat) (f : Request → Request) : (s.modRequest i f).runs = s.runs := rfl
@[simp] theorem State.modRequest_nextRun (s : State) (i : Nat) (f : Request → Request) : (s.modRequest i f).nextRun = s.nextRun := rfl
@[simp] theorem State.modRequest_reductions (s : State) (i : Nat) (f : Request → Request) : (s.modRequest i f).reductions = s.reductions := rfl
@[simp] theorem State.modRequest_nextRed (s : State) (i : Nat) (f : Request → Request) : (s.modRequest i f).nextRed = s.nextRed := rfl
@[simp] theorem State.modRequest_nextStore (s : State) (i : Nat) (f : Request → Request) : (s.modRequest i f).nextStore = s.nextStore := rfl
@[simp] theorem State.modRequest_versions (s : State) (i : Nat) (f : Request → Request) : (s.modRequest i f).versions = s.versions := rfl
@[simp] theorem State.modRequest_stores (s : State) (i : Nat) (f : Request → Request) : (s.modRequest i f).stores = s.stores := rfl
@[simp] theorem State.modRequest_hopsBroken (s : State) (i : Nat) (f : Request → Request) : (s.modRequest i f).hopsBroken = s.hopsBroken := rfl
@[simp] theorem State.modRequest_hopOrder (s : State) (i : Nat) (f : Request → Request) : (s.modRequest i f).hopOrder = s.hopOrder := rfl
@[simp] theorem State.modRequest_pages (s : State) (i : Nat) (f : Request → Request) : (s.modRequest i f).pages = s.pages := rfl
@[simp] theorem State.modRequest_mem (s : State) (i : Nat) (f : Request → Request) : (s.modRequest i f).mem = s.mem := rfl
@[simp] theorem State.modRequest_merges (s : State) (i : Nat) (f : Request → Request) : (s.modRequest i f).merges = s.merges := rfl
@[simp] theorem State.modRequest_hbm (s : State) (i : Nat) (f : Request → Request) : (s.modRequest i f).hbm = s.hbm := rfl
@[simp] theorem State.modRequest_rot (s : State) (i : Nat) (f : Request → Request) : (s.modRequest i f).rot = s.rot := rfl
@[simp] theorem State.modRequest_edges (s : State) (i : Nat) (f : Request → Request) : (s.modRequest i f).edges = s.edges := rfl
@[simp] theorem State.modRequest_power (s : State) (i : Nat) (f : Request → Request) : (s.modRequest i f).power = s.power := rfl
@[simp] theorem State.modRequest_telem (s : State) (i : Nat) (f : Request → Request) : (s.modRequest i f).telem = s.telem := rfl
@[simp] theorem State.modRequest_bus (s : State) (i : Nat) (f : Request → Request) : (s.modRequest i f).bus = s.bus := rfl
@[simp] theorem State.modRequest_sector (s : State) (i : Nat) (f : Request → Request) : (s.modRequest i f).sector = s.sector := rfl

/-! ## modRed -/

@[simp] theorem State.modRed_pending (s : State) (i : BitVec 24) (f : Reduction → Reduction) : (s.modRed i f).pending = s.pending := rfl
@[simp] theorem State.modRed_now (s : State) (i : BitVec 24) (f : Reduction → Reduction) : (s.modRed i f).now = s.now := rfl
@[simp] theorem State.modRed_freeCtr (s : State) (i : BitVec 24) (f : Reduction → Reduction) : (s.modRed i f).freeCtr = s.freeCtr := rfl
@[simp] theorem State.modRed_cts (s : State) (i : BitVec 24) (f : Reduction → Reduction) : (s.modRed i f).cts = s.cts := rfl
@[simp] theorem State.modRed_cp (s : State) (i : BitVec 24) (f : Reduction → Reduction) : (s.modRed i f).cp = s.cp := rfl
@[simp] theorem State.modRed_cabs (s : State) (i : BitVec 24) (f : Reduction → Reduction) : (s.modRed i f).cabs = s.cabs := rfl
@[simp] theorem State.modRed_streams (s : State) (i : BitVec 24) (f : Reduction → Reduction) : (s.modRed i f).streams = s.streams := rfl
@[simp] theorem State.modRed_jobs (s : State) (i : BitVec 24) (f : Reduction → Reduction) : (s.modRed i f).jobs = s.jobs := rfl
@[simp] theorem State.modRed_tensors (s : State) (i : BitVec 24) (f : Reduction → Reduction) : (s.modRed i f).tensors = s.tensors := rfl
@[simp] theorem State.modRed_programs (s : State) (i : BitVec 24) (f : Reduction → Reduction) : (s.modRed i f).programs = s.programs := rfl
@[simp] theorem State.modRed_slots (s : State) (i : BitVec 24) (f : Reduction → Reduction) : (s.modRed i f).slots = s.slots := rfl
@[simp] theorem State.modRed_slotGens (s : State) (i : BitVec 24) (f : Reduction → Reduction) : (s.modRed i f).slotGens = s.slotGens := rfl
@[simp] theorem State.modRed_residencies (s : State) (i : BitVec 24) (f : Reduction → Reduction) : (s.modRed i f).residencies = s.residencies := rfl
@[simp] theorem State.modRed_fetches (s : State) (i : BitVec 24) (f : Reduction → Reduction) : (s.modRed i f).fetches = s.fetches := rfl
@[simp] theorem State.modRed_nextFetch (s : State) (i : BitVec 24) (f : Reduction → Reduction) : (s.modRed i f).nextFetch = s.nextFetch := rfl
@[simp] theorem State.modRed_fetchOrder (s : State) (i : BitVec 24) (f : Reduction → Reduction) : (s.modRed i f).fetchOrder = s.fetchOrder := rfl
@[simp] theorem State.modRed_xclaims (s : State) (i : BitVec 24) (f : Reduction → Reduction) : (s.modRed i f).xclaims = s.xclaims := rfl
@[simp] theorem State.modRed_consents (s : State) (i : BitVec 24) (f : Reduction → Reduction) : (s.modRed i f).consents = s.consents := rfl
@[simp] theorem State.modRed_remakeQ (s : State) (i : BitVec 24) (f : Reduction → Reduction) : (s.modRed i f).remakeQ = s.remakeQ := rfl
@[simp] theorem State.modRed_notes (s : State) (i : BitVec 24) (f : Reduction → Reduction) : (s.modRed i f).notes = s.notes := rfl
@[simp] theorem State.modRed_requests (s : State) (i : BitVec 24) (f : Reduction → Reduction) : (s.modRed i f).requests = s.requests := rfl
@[simp] theorem State.modRed_nextRequest (s : State) (i : BitVec 24) (f : Reduction → Reduction) : (s.modRed i f).nextRequest = s.nextRequest := rfl
@[simp] theorem State.modRed_useClock (s : State) (i : BitVec 24) (f : Reduction → Reduction) : (s.modRed i f).useClock = s.useClock := rfl
@[simp] theorem State.modRed_dies (s : State) (i : BitVec 24) (f : Reduction → Reduction) : (s.modRed i f).dies = s.dies := rfl
@[simp] theorem State.modRed_clusters (s : State) (i : BitVec 24) (f : Reduction → Reduction) : (s.modRed i f).clusters = s.clusters := rfl
@[simp] theorem State.modRed_tiles (s : State) (i : BitVec 24) (f : Reduction → Reduction) : (s.modRed i f).tiles = s.tiles := rfl
@[simp] theorem State.modRed_grants (s : State) (i : BitVec 24) (f : Reduction → Reduction) : (s.modRed i f).grants = s.grants := rfl
@[simp] theorem State.modRed_flights (s : State) (i : BitVec 24) (f : Reduction → Reduction) : (s.modRed i f).flights = s.flights := rfl
@[simp] theorem State.modRed_vengines (s : State) (i : BitVec 24) (f : Reduction → Reduction) : (s.modRed i f).vengines = s.vengines := rfl
@[simp] theorem State.modRed_runs (s : State) (i : BitVec 24) (f : Reduction → Reduction) : (s.modRed i f).runs = s.runs := rfl
@[simp] theorem State.modRed_nextRun (s : State) (i : BitVec 24) (f : Reduction → Reduction) : (s.modRed i f).nextRun = s.nextRun := rfl
@[simp] theorem State.modRed_reductions (s : State) (i : BitVec 24) (f : Reduction → Reduction) : (s.modRed i f).reductions = updFirst (fun x => x.id == i && x.era == 0) f s.reductions := rfl
@[simp] theorem State.modRed_nextRed (s : State) (i : BitVec 24) (f : Reduction → Reduction) : (s.modRed i f).nextRed = s.nextRed := rfl
@[simp] theorem State.modRed_nextStore (s : State) (i : BitVec 24) (f : Reduction → Reduction) : (s.modRed i f).nextStore = s.nextStore := rfl
@[simp] theorem State.modRed_versions (s : State) (i : BitVec 24) (f : Reduction → Reduction) : (s.modRed i f).versions = s.versions := rfl
@[simp] theorem State.modRed_stores (s : State) (i : BitVec 24) (f : Reduction → Reduction) : (s.modRed i f).stores = s.stores := rfl
@[simp] theorem State.modRed_hopsBroken (s : State) (i : BitVec 24) (f : Reduction → Reduction) : (s.modRed i f).hopsBroken = s.hopsBroken := rfl
@[simp] theorem State.modRed_hopOrder (s : State) (i : BitVec 24) (f : Reduction → Reduction) : (s.modRed i f).hopOrder = s.hopOrder := rfl
@[simp] theorem State.modRed_pages (s : State) (i : BitVec 24) (f : Reduction → Reduction) : (s.modRed i f).pages = s.pages := rfl
@[simp] theorem State.modRed_mem (s : State) (i : BitVec 24) (f : Reduction → Reduction) : (s.modRed i f).mem = s.mem := rfl
@[simp] theorem State.modRed_merges (s : State) (i : BitVec 24) (f : Reduction → Reduction) : (s.modRed i f).merges = s.merges := rfl
@[simp] theorem State.modRed_hbm (s : State) (i : BitVec 24) (f : Reduction → Reduction) : (s.modRed i f).hbm = s.hbm := rfl
@[simp] theorem State.modRed_rot (s : State) (i : BitVec 24) (f : Reduction → Reduction) : (s.modRed i f).rot = s.rot := rfl
@[simp] theorem State.modRed_edges (s : State) (i : BitVec 24) (f : Reduction → Reduction) : (s.modRed i f).edges = s.edges := rfl
@[simp] theorem State.modRed_power (s : State) (i : BitVec 24) (f : Reduction → Reduction) : (s.modRed i f).power = s.power := rfl
@[simp] theorem State.modRed_telem (s : State) (i : BitVec 24) (f : Reduction → Reduction) : (s.modRed i f).telem = s.telem := rfl
@[simp] theorem State.modRed_bus (s : State) (i : BitVec 24) (f : Reduction → Reduction) : (s.modRed i f).bus = s.bus := rfl
@[simp] theorem State.modRed_sector (s : State) (i : BitVec 24) (f : Reduction → Reduction) : (s.modRed i f).sector = s.sector := rfl

/-! ## What the accessors read -/

theorem State.modCt_ct (s : State) (c k : Ct) (f : CtDie → CtDie) (hc : k.val < s.cts.length) :
    (s.modCt c f).ct k = if c = k then f (s.ct k) else s.ct k := by
  unfold State.ct State.modCt
  rw [getD_updAt]
  by_cases ne : c = k
  · subst ne; rw [if_pos ⟨rfl, hc⟩, if_pos rfl]
  · rw [if_neg fun q => ne (Fin.ext q.1), if_neg ne]

theorem State.modCt_ct_ne (s : State) (c k : Ct) (f : CtDie → CtDie) (ne : c ≠ k) : (s.modCt c f).ct k = s.ct k := by
  unfold State.ct State.modCt
  rw [getD_updAt, if_neg fun q => ne (Fin.ext q.1)]

theorem State.modCab_cab (s : State) (c k : Cab) (f : Cabinet → Cabinet) (hc : k.val < s.cabs.length) :
    (s.modCab c f).cab k = if c = k then f (s.cab k) else s.cab k := by
  unfold State.cab State.modCab
  rw [getD_updAt]
  by_cases ne : c = k
  · subst ne; rw [if_pos ⟨rfl, hc⟩, if_pos rfl]
  · rw [if_neg fun q => ne (Fin.ext q.1), if_neg ne]

theorem State.modCab_cab_ne (s : State) (c k : Cab) (f : Cabinet → Cabinet) (ne : c ≠ k) : (s.modCab c f).cab k = s.cab k := by
  unfold State.cab State.modCab
  rw [getD_updAt, if_neg fun q => ne (Fin.ext q.1)]

theorem State.modDie_die (s : State) (d k : Die) (f : DieSt → DieSt) (hd : k.val < s.dies.length) :
    (s.modDie d f).die k = if d = k then f (s.die k) else s.die k := by
  unfold State.die State.modDie
  rw [getD_updAt]
  by_cases ne : d = k
  · subst ne; rw [if_pos ⟨rfl, hd⟩, if_pos rfl]
  · rw [if_neg fun q => ne (Fin.ext q.1), if_neg ne]

theorem State.modDie_die_ne (s : State) (d k : Die) (f : DieSt → DieSt) (ne : d ≠ k) : (s.modDie d f).die k = s.die k := by
  unfold State.die State.modDie
  rw [getD_updAt, if_neg fun q => ne (Fin.ext q.1)]

theorem State.modStk_stk (s : State) (h k : Stack) (f : StackSt → StackSt) (hh : k.val < s.hbm.length) :
    (s.modStk h f).stk k = if h = k then f (s.stk k) else s.stk k := by
  unfold State.stk State.modStk
  rw [getD_updAt]
  by_cases ne : h = k
  · subst ne; rw [if_pos ⟨rfl, hh⟩, if_pos rfl]
  · rw [if_neg fun q => ne (Fin.ext q.1), if_neg ne]

theorem State.modStk_stk_ne (s : State) (h k : Stack) (f : StackSt → StackSt) (ne : h ≠ k) : (s.modStk h f).stk k = s.stk k := by
  unfold State.stk State.modStk
  rw [getD_updAt, if_neg fun q => ne (Fin.ext q.1)]

theorem State.modEdge_edge (s : State) (e k : Edge) (f : EdgeSt → EdgeSt) (he : k.val < s.edges.length) :
    (s.modEdge e f).edge k = if e = k then f (s.edge k) else s.edge k := by
  unfold State.edge State.modEdge
  rw [getD_updAt]
  by_cases ne : e = k
  · subst ne; rw [if_pos ⟨rfl, he⟩, if_pos rfl]
  · rw [if_neg fun q => ne (Fin.ext q.1), if_neg ne]

theorem State.modEdge_edge_ne (s : State) (e k : Edge) (f : EdgeSt → EdgeSt) (ne : e ≠ k) : (s.modEdge e f).edge k = s.edge k := by
  unfold State.edge State.modEdge
  rw [getD_updAt, if_neg fun q => ne (Fin.ext q.1)]

/-! ## modCluster -/

@[simp] theorem State.modCluster_pending (s : State) (d : Die) (c : Phys) (f : ClusterSt → ClusterSt) :
    (s.modCluster d c f).pending = s.pending := by
  unfold State.modCluster; split <;> rfl
@[simp] theorem State.modCluster_now (s : State) (d : Die) (c : Phys) (f : ClusterSt → ClusterSt) :
    (s.modCluster d c f).now = s.now := by
  unfold State.modCluster; split <;> rfl
@[simp] theorem State.modCluster_freeCtr (s : State) (d : Die) (c : Phys) (f : ClusterSt → ClusterSt) :
    (s.modCluster d c f).freeCtr = s.freeCtr := by
  unfold State.modCluster; split <;> rfl
@[simp] theorem State.modCluster_cts (s : State) (d : Die) (c : Phys) (f : ClusterSt → ClusterSt) :
    (s.modCluster d c f).cts = s.cts := by
  unfold State.modCluster; split <;> rfl
@[simp] theorem State.modCluster_cp (s : State) (d : Die) (c : Phys) (f : ClusterSt → ClusterSt) :
    (s.modCluster d c f).cp = s.cp := by
  unfold State.modCluster; split <;> rfl
@[simp] theorem State.modCluster_cabs (s : State) (d : Die) (c : Phys) (f : ClusterSt → ClusterSt) :
    (s.modCluster d c f).cabs = s.cabs := by
  unfold State.modCluster; split <;> rfl
@[simp] theorem State.modCluster_streams (s : State) (d : Die) (c : Phys) (f : ClusterSt → ClusterSt) :
    (s.modCluster d c f).streams = s.streams := by
  unfold State.modCluster; split <;> rfl
@[simp] theorem State.modCluster_jobs (s : State) (d : Die) (c : Phys) (f : ClusterSt → ClusterSt) :
    (s.modCluster d c f).jobs = s.jobs := by
  unfold State.modCluster; split <;> rfl
@[simp] theorem State.modCluster_tensors (s : State) (d : Die) (c : Phys) (f : ClusterSt → ClusterSt) :
    (s.modCluster d c f).tensors = s.tensors := by
  unfold State.modCluster; split <;> rfl
@[simp] theorem State.modCluster_programs (s : State) (d : Die) (c : Phys) (f : ClusterSt → ClusterSt) :
    (s.modCluster d c f).programs = s.programs := by
  unfold State.modCluster; split <;> rfl
@[simp] theorem State.modCluster_slots (s : State) (d : Die) (c : Phys) (f : ClusterSt → ClusterSt) :
    (s.modCluster d c f).slots = s.slots := by
  unfold State.modCluster; split <;> rfl
@[simp] theorem State.modCluster_slotGens (s : State) (d : Die) (c : Phys) (f : ClusterSt → ClusterSt) :
    (s.modCluster d c f).slotGens = s.slotGens := by
  unfold State.modCluster; split <;> rfl
@[simp] theorem State.modCluster_residencies (s : State) (d : Die) (c : Phys) (f : ClusterSt → ClusterSt) :
    (s.modCluster d c f).residencies = s.residencies := by
  unfold State.modCluster; split <;> rfl
@[simp] theorem State.modCluster_fetches (s : State) (d : Die) (c : Phys) (f : ClusterSt → ClusterSt) :
    (s.modCluster d c f).fetches = s.fetches := by
  unfold State.modCluster; split <;> rfl
@[simp] theorem State.modCluster_nextFetch (s : State) (d : Die) (c : Phys) (f : ClusterSt → ClusterSt) :
    (s.modCluster d c f).nextFetch = s.nextFetch := by
  unfold State.modCluster; split <;> rfl
@[simp] theorem State.modCluster_fetchOrder (s : State) (d : Die) (c : Phys) (f : ClusterSt → ClusterSt) :
    (s.modCluster d c f).fetchOrder = s.fetchOrder := by
  unfold State.modCluster; split <;> rfl
@[simp] theorem State.modCluster_xclaims (s : State) (d : Die) (c : Phys) (f : ClusterSt → ClusterSt) :
    (s.modCluster d c f).xclaims = s.xclaims := by
  unfold State.modCluster; split <;> rfl
@[simp] theorem State.modCluster_consents (s : State) (d : Die) (c : Phys) (f : ClusterSt → ClusterSt) :
    (s.modCluster d c f).consents = s.consents := by
  unfold State.modCluster; split <;> rfl
@[simp] theorem State.modCluster_remakeQ (s : State) (d : Die) (c : Phys) (f : ClusterSt → ClusterSt) :
    (s.modCluster d c f).remakeQ = s.remakeQ := by
  unfold State.modCluster; split <;> rfl
@[simp] theorem State.modCluster_notes (s : State) (d : Die) (c : Phys) (f : ClusterSt → ClusterSt) :
    (s.modCluster d c f).notes = s.notes := by
  unfold State.modCluster; split <;> rfl
@[simp] theorem State.modCluster_requests (s : State) (d : Die) (c : Phys) (f : ClusterSt → ClusterSt) :
    (s.modCluster d c f).requests = s.requests := by
  unfold State.modCluster; split <;> rfl
@[simp] theorem State.modCluster_nextRequest (s : State) (d : Die) (c : Phys) (f : ClusterSt → ClusterSt) :
    (s.modCluster d c f).nextRequest = s.nextRequest := by
  unfold State.modCluster; split <;> rfl
@[simp] theorem State.modCluster_useClock (s : State) (d : Die) (c : Phys) (f : ClusterSt → ClusterSt) :
    (s.modCluster d c f).useClock = s.useClock := by
  unfold State.modCluster; split <;> rfl
@[simp] theorem State.modCluster_dies (s : State) (d : Die) (c : Phys) (f : ClusterSt → ClusterSt) :
    (s.modCluster d c f).dies = s.dies := by
  unfold State.modCluster; split <;> rfl
@[simp] theorem State.modCluster_tiles (s : State) (d : Die) (c : Phys) (f : ClusterSt → ClusterSt) :
    (s.modCluster d c f).tiles = s.tiles := by
  unfold State.modCluster; split <;> rfl
@[simp] theorem State.modCluster_grants (s : State) (d : Die) (c : Phys) (f : ClusterSt → ClusterSt) :
    (s.modCluster d c f).grants = s.grants := by
  unfold State.modCluster; split <;> rfl
@[simp] theorem State.modCluster_flights (s : State) (d : Die) (c : Phys) (f : ClusterSt → ClusterSt) :
    (s.modCluster d c f).flights = s.flights := by
  unfold State.modCluster; split <;> rfl
@[simp] theorem State.modCluster_vengines (s : State) (d : Die) (c : Phys) (f : ClusterSt → ClusterSt) :
    (s.modCluster d c f).vengines = s.vengines := by
  unfold State.modCluster; split <;> rfl
@[simp] theorem State.modCluster_runs (s : State) (d : Die) (c : Phys) (f : ClusterSt → ClusterSt) :
    (s.modCluster d c f).runs = s.runs := by
  unfold State.modCluster; split <;> rfl
@[simp] theorem State.modCluster_nextRun (s : State) (d : Die) (c : Phys) (f : ClusterSt → ClusterSt) :
    (s.modCluster d c f).nextRun = s.nextRun := by
  unfold State.modCluster; split <;> rfl
@[simp] theorem State.modCluster_reductions (s : State) (d : Die) (c : Phys) (f : ClusterSt → ClusterSt) :
    (s.modCluster d c f).reductions = s.reductions := by
  unfold State.modCluster; split <;> rfl
@[simp] theorem State.modCluster_nextRed (s : State) (d : Die) (c : Phys) (f : ClusterSt → ClusterSt) :
    (s.modCluster d c f).nextRed = s.nextRed := by
  unfold State.modCluster; split <;> rfl
@[simp] theorem State.modCluster_nextStore (s : State) (d : Die) (c : Phys) (f : ClusterSt → ClusterSt) :
    (s.modCluster d c f).nextStore = s.nextStore := by
  unfold State.modCluster; split <;> rfl
@[simp] theorem State.modCluster_versions (s : State) (d : Die) (c : Phys) (f : ClusterSt → ClusterSt) :
    (s.modCluster d c f).versions = s.versions := by
  unfold State.modCluster; split <;> rfl
@[simp] theorem State.modCluster_stores (s : State) (d : Die) (c : Phys) (f : ClusterSt → ClusterSt) :
    (s.modCluster d c f).stores = s.stores := by
  unfold State.modCluster; split <;> rfl
@[simp] theorem State.modCluster_hopsBroken (s : State) (d : Die) (c : Phys) (f : ClusterSt → ClusterSt) :
    (s.modCluster d c f).hopsBroken = s.hopsBroken := by
  unfold State.modCluster; split <;> rfl
@[simp] theorem State.modCluster_hopOrder (s : State) (d : Die) (c : Phys) (f : ClusterSt → ClusterSt) :
    (s.modCluster d c f).hopOrder = s.hopOrder := by
  unfold State.modCluster; split <;> rfl
@[simp] theorem State.modCluster_pages (s : State) (d : Die) (c : Phys) (f : ClusterSt → ClusterSt) :
    (s.modCluster d c f).pages = s.pages := by
  unfold State.modCluster; split <;> rfl
@[simp] theorem State.modCluster_mem (s : State) (d : Die) (c : Phys) (f : ClusterSt → ClusterSt) :
    (s.modCluster d c f).mem = s.mem := by
  unfold State.modCluster; split <;> rfl
@[simp] theorem State.modCluster_merges (s : State) (d : Die) (c : Phys) (f : ClusterSt → ClusterSt) :
    (s.modCluster d c f).merges = s.merges := by
  unfold State.modCluster; split <;> rfl
@[simp] theorem State.modCluster_hbm (s : State) (d : Die) (c : Phys) (f : ClusterSt → ClusterSt) :
    (s.modCluster d c f).hbm = s.hbm := by
  unfold State.modCluster; split <;> rfl
@[simp] theorem State.modCluster_rot (s : State) (d : Die) (c : Phys) (f : ClusterSt → ClusterSt) :
    (s.modCluster d c f).rot = s.rot := by
  unfold State.modCluster; split <;> rfl
@[simp] theorem State.modCluster_edges (s : State) (d : Die) (c : Phys) (f : ClusterSt → ClusterSt) :
    (s.modCluster d c f).edges = s.edges := by
  unfold State.modCluster; split <;> rfl
@[simp] theorem State.modCluster_power (s : State) (d : Die) (c : Phys) (f : ClusterSt → ClusterSt) :
    (s.modCluster d c f).power = s.power := by
  unfold State.modCluster; split <;> rfl
@[simp] theorem State.modCluster_telem (s : State) (d : Die) (c : Phys) (f : ClusterSt → ClusterSt) :
    (s.modCluster d c f).telem = s.telem := by
  unfold State.modCluster; split <;> rfl
@[simp] theorem State.modCluster_bus (s : State) (d : Die) (c : Phys) (f : ClusterSt → ClusterSt) :
    (s.modCluster d c f).bus = s.bus := by
  unfold State.modCluster; split <;> rfl
@[simp] theorem State.modCluster_sector (s : State) (d : Die) (c : Phys) (f : ClusterSt → ClusterSt) :
    (s.modCluster d c f).sector = s.sector := by
  unfold State.modCluster; split <;> rfl

/-! ## Shape and numbers -/

/-- The parts that a state of the right shape has. -/
theorem State.shape_lengths {s : State} (h : s.shape = true) :
    s.cts.length = 2 ∧ s.cabs.length = 16 ∧ s.dies.length = 16 ∧ s.hbm.length = 32 ∧ s.edges.length = 4 := by
  simp only [State.shape, Bool.and_eq_true, beq_iff_eq] at h
  exact ⟨h.1.1.1.1.1, h.1.1.1.1.2, h.1.1.1.2, h.1.1.2, h.1.2⟩

end Sys2Proof.Machine
end

