-- ==== Sys2Proof/Machine/Views.lean ====
section
/-!
DEFINITION. What is seen of tenant work: a tenant's session sees the states of its own requests (R55), the operator sees what the left
column of R76 lists and nothing else. Pins and what the management controller shows stand beside it. Each view is a function of State
alone, so what it does not read is withheld.
-/

namespace Sys2Proof.Machine

/-- What a tenant's session shows of one of its requests (R55): its state and its completion code. -/
structure RequestSeen where
  id : Nat
  state : Fin 5
  code : Nat
  deriving DecidableEq, Repr

/-- What the operator sees of a request (R76): the tenant, the drawer by reference, its state and code, and the times of admission and of
completion quantised to 1 ms. -/
structure RequestShown where
  id : Nat
  tenant : BitVec 32
  drawer : Word
  cab : Cab
  state : Fin 5
  code : Nat
  admitted : Nat
  ended : Nat
  deriving DecidableEq, Repr

/-- What the operator sees of a seating's last pass (R76): its id, its row count rounded to a multiple of 64, and its pass time. -/
structure SeatingShown where
  die : Die
  seating : BitVec 16
  rows : Nat
  time : Nat
  deriving DecidableEq, Repr

/-- The span groups for which SHELF_INCOMPLETE is reported (R363): those of a cabinet with a shelf that hold a die with a missing stack and
no supplier. The spec names no report class for it (assumption 91). -/
def State.incompleteGroups (s : State) (c : Cab) : List Die :=
  if (s.cab c).shelf.isNone then []
  else (s.cab c).groups.filter fun g => (s.groupOfCab c g).any fun d =>
    ((stacksOf d).any fun h => (s.stk h).failed) && (s.suppliersOf d).isEmpty

/-- A time quantised to 1 ms (R76). The spec does not say to which side: down. -/
def quantised (t : Nat) : Nat := t / 1000000 * 1000000

/-- A row count rounded to a multiple of 64 (R76). The spec does not say to which side: up. -/
def rounded64 (n : Nat) : Nat := cdiv n 64 * 64

/-- The requests of a session as the session shows them (R55). -/
def State.sessionRequests (s : State) (n : Sess) : List RequestSeen :=
  (s.requests.filter fun q => q.session == n).map fun q => { id := q.id, state := q.state, code := q.code }

/-- The requests as the operator sees them (R55, R76). -/
def State.operatorRequests (s : State) : List RequestShown :=
  s.requests.map fun q =>
    { id := q.id, tenant := q.tenant, drawer := q.ask.handle, cab := q.cab, state := q.state, code := q.code
      admitted := if q.state = RState.queued then 0 else quantised q.admitted, ended := quantised q.ended }

/-- The seatings as the operator sees them, from each die's last pass (R76). -/
def State.operatorSeatings (s : State) : List SeatingShown :=
  (List.finRange 16).filterMap fun d =>
    (s.die d).passStatus.map fun p => { die := d, seating := p.seating, rows := rounded64 p.rows, time := p.ended - p.started }

/-! ## Pins and what the management controller shows (R467, R470, R492) -/

/-- PPS_OUT is high for 100 µs from each whole second of module time on (R467). -/
def State.ppsOut (s : State) : Bool := s.power.started && decide (s.now % 1000000000 < 100000)

/-- ThrottleLevel (R470): the level coarsened to steps of 8, downward as the counters of R396 are. -/
def State.throttleLevel (s : State) : Nat := s.power.throttle / 8 * 8

/-- The clock is in holdover (R493). -/
def State.inHoldover (s : State) : Bool := s.power.ptp == 2

end Sys2Proof.Machine
end

