-- ==== Sys2Proof/Tests/Slice0.lean ====
section
/-!
SUPPORT. Small tests of one step each, the smoke test of WellFormed, and for the statements with hypotheses a state and operands that
meet them. Expected values are worked out from the rules that the names and comments cite.
-/

namespace Sys2Proof.Tests

set_option Elab.async false

open Sys2Proof Sys2Proof.Machine

/-! ## States -/

/-- A module after a full start without a standby: every part present, nothing configured. -/
def up : State :=
  { State.reset with
    now := 4000000000,
    cts := [{ CtDie.reset with side := 0, reached8 := true }, { CtDie.reset with side := 5, reached8 := true }],
    dies := List.replicate 16 (bootDie []), hbm := List.replicate 32 (bootStack false 64 8 false),
    edges := List.replicate 4 { EdgeSt.reset with inService := true, linkUp := true, attach := 3 },
    rot := { Rot.reset with transition := 0 },
    power := { Power.reset with resetLow := false, dataRails := true, started := true } }

/-- The same with a standby. -/
def duo : State := up.modCt 1 fun c => { c with side := 1 }

/-- A request with a payload that matches its LENGTH. -/
def ask (stream : Fin 4096) (ws : List Word) : Req :=
  { stream := stream, mseq := 1, kind := 0, length := BitVec.ofNat 16 (8 * ws.length), word1 := 0, payload := ws }

/-- Tray 0 and pigeonhole 0 of CT0, and the session with number 0. -/
def box : Src := .tray 0 0
def hole : Src := .pigeon 0 0
def sess : Src := .session 0

/-- The next state of a command. -/
def after (i : Instr) (s : State) : State :=
  match exec i s with
  | .next t => t
  | _ => s

/-! ## WellFormed refuses -/

def someIssue : MatIssue :=
  { die := 0, jobSeq := 0, opIndex := 0, words := [], weights := ⟨[], [], []⟩, bias := ⟨0, []⟩, elems := ⟨0, []⟩ }

def someImage (n : Nat) : BootImage := { stage := n, meas := 0, svn := 0, keyId := Config.ralumRootId, verified := true, raiseSvn := false }

def someReport : Report :=
  { cls := 12, severity := 0, block := 0, unit := 0, die := 0, cab := none, d2 := 0, d3 := 0, touched := [] }

def someFrame : Frame :=
  { bytes := 60, pause := false, vlan := 0, udp := true, v6 := false, dst := 0, src := 0, dstPort := 0, srcPort := 0, sumsOk := true,
    fcsOk := true, hash := 0, content := List.replicate 60 0, datagram := [] }

def somePacket : Packet :=
  { src := .die 0, dst := 1, cls := 0, cab := 0, glove := 0, genBit := false, run := none, seqNo := 0, body := [] }

def someInit : SessionInit :=
  { tenant := 42, cab := 0, nonce := 0, ct := List.replicate 1088 0, pk := [], sigOk := true, src := 0, srcPort := 0, msgId := 0 }

def someFacts : StartFacts :=
  { clock := some 0, failedClusters := [], failedStacks := [], failedEdges := [], recovery := [], slow := [], spareRows := 64,
    spareLanes := 8, spares := [], withdrawn := [], images := [], otherSlot := [], pendingFails := [] }

theorem test_wf_request : (Instr.queryCaps hole (ask 0 (List.replicate 7 0))).wf = false := by decide
theorem test_wf_undefined : (Instr.undefinedOpcode box (ask 0 []) 0x0001).wf = false := by decide +kernel
theorem test_wf_issue : (Instr.shelfFwd someIssue).wf = false := by decide
theorem test_wf_operand :
    (Instr.shelfFwd { someIssue with words := [0x0100000000000000, 0, 0, 0, 0x1000000, 0, 0, 0] }).wf = false := by decide +kernel
theorem test_wf_vector : (Instr.vectorDescriptor 0 0 0 []).wf = false := by decide
/-- VADD's fields with all but TYPE zero, XF 7 naming TYPE itself (R202). -/
def plainFields (ty : Fin 8) : RFields := ⟨ty, 0, false, 0, false, 0, 0, 0, false, 7, false, 0, false⟩
/-- VADD of TYPE 7, which no table defines (R190, R202). -/
theorem test_wf_instruction : (Instr.vadd ⟨0, 0⟩ (plainFields 7)).wf = false ∧ (Instr.vadd ⟨0, 0⟩ (plainFields 0)).wf = true := by
  decide +kernel
theorem test_wf_size : (Instr.registerWrite 0 0 3 0).wf = false := by decide
theorem test_wf_sector : (Instr.sectorWrite 0 ⟨0, 0, .engine, ⟨0, 0, 0, 0, none, none⟩⟩ 60 (List.replicate 8 0) []).wf = false := by decide
theorem test_wf_err : (Instr.sweepStep 0 0 [(3, 1), (3, 2)]).wf = false := by decide
theorem test_wf_power : (Instr.powerWindow 0 0 []).wf = false := by decide
theorem test_wf_temps : (Instr.temperatureWindow 0 []).wf = false := by decide
theorem test_wf_update : (Instr.updateService 0 [someImage 1]).wf = false := by decide
theorem test_wf_report : (Instr.faultReport { someReport with cls := 23 }).wf = false := by decide
theorem test_wf_frame : (Instr.frameReceive 0 { someFrame with bytes := 59 }).wf = false := by decide
theorem test_wf_record : (Instr.dataRecord ⟨0, 0, true, 0, 0, ⟨0, 0⟩⟩ [[0]] 0).wf = false := by decide
theorem test_wf_init : (Instr.sessionInit 0 { someInit with ct := [] }).wf = false := by decide
theorem test_wf_start : (Instr.modResetNRelease { someFacts with images := [(0, [someImage 9])] }).wf = false := by decide
theorem test_wf_packet : (Instr.latticePacket { somePacket with dst := 0 }).wf = false := by decide
/-- Well-formed ones pass. -/
theorem test_wf_passes : (Instr.queryCaps hole (ask 0 [])).wf = true ∧ (Instr.faultReport someReport).wf = true ∧
    (Instr.frameReceive 0 someFrame).wf = true ∧ (Instr.sessionInit 0 someInit).wf = true ∧
    (Instr.modResetNRelease someFacts).wf = true ∧ (Instr.latticePacket somePacket).wf = true ∧
    (Instr.updateService 0 ((List.range 8).map fun n => someImage (n + 1))).wf = true := by decide +kernel

/-! ## Words of the vector engine, written out from R202 -/

/-- The VFMA word of R220's worked example: OPC 0x04, VD 4, VA 1, VB 16, VC 4, XF 7, BA 1. -/
theorem test_decode_vfma : vDecode ⟨2, 3⟩ 0x0404006047800000 =
    some (.vfma ⟨2, 3⟩ ⟨0, 4, false, 0, false, 1, 16, 4, false, 7, true, 0, false⟩) := by decide +kernel

/-- R220: VLD of v16 from stream 1 at OFF 96, and VST of v4 to stream 2. -/
theorem test_decode_memory :
    vDecode ⟨0, 0⟩ 0x3010000803000000 = some (.vld ⟨0, 0⟩ ⟨0, 16, false, 0, false, 0, 1, 96, 0⟩) ∧
      vDecode ⟨0, 0⟩ 0x3100011000000000 = some (.vst ⟨0, 0⟩ ⟨0, 0, false, 0, false, 4, 2, 0, 0⟩) := by decide +kernel

/-- Class I: VBCAST of 0x3F80_0000 to v1, predicated on m5, zeroing: 0x16, TYPE 0 and VD 1, MEN 1, MS 5, ZM 1. -/
theorem test_decode_immediate : vDecode ⟨0, 0⟩ 0x1601d8003f800000 =
    some (.vbcast ⟨0, 0⟩ ⟨0, 1, true, 5, true, 0x3f800000⟩) := by decide +kernel

/-- Class T: TLD of v2 from engine 5, tile 6, row 127, C 1: 0x38, TYPE 3 and VD 2, ENG and TILE 0x2E, ROW and C 0xFF. -/
theorem test_decode_tile : vDecode ⟨0, 0⟩ 0x3862002eff000000 =
    some (.tld ⟨0, 0⟩ ⟨2, false, 0, false, 0, 5, 6, 127, true⟩) := by decide +kernel

/-- An opcode that no table defines (R204). -/
theorem test_decode_reserved : vDecode ⟨0, 0⟩ 0x0e00000000000000 = none := by decide +kernel

/-! ## Numbers -/

/-- R125: the largest finite values and canonical NaNs of the table. -/
theorem test_formats : fFP32.maxCode false = 0x7f7fffff ∧ fFP16.maxCode false = 0x7bff ∧ fBF16.maxCode false = 0x7f7f ∧
    fE4M3.maxCode false = 0x7e ∧ fE5M2.maxCode false = 0x7b ∧ fAF42.maxCode false = 0x1ffbfffffff ∧ fE4M3.nanCode = 0x7f ∧
    fE5M2.nanCode = 0x7e ∧ fAF42.nanCode = 0x1ffe0000000 := by decide +kernel

/-- R126, the ends of its rows: 0x7C of E5M2 is an infinity, 0x7D and 0x7F are NaNs, 0x7E of E4M3 is 448. -/
theorem test_nan_codes : fE5M2.dec 0x7c = .inf false ∧ fE5M2.dec 0x7d = .nan ∧ fE5M2.dec 0x7f = .nan ∧ fE4M3.dec 0xff = .nan ∧
    fE4M3.dec 0x7e = .fin false 14 5 := by decide +kernel

/-- R159: 2^30 + 1/2 lies between two AF42 values and goes to the even one, as 2^30 + 3/2 does; 2^1024 saturates. -/
theorem test_round_ties : af (roundAF (.fin false (2 ^ 32 + 1) (-1))).1 = .fin false (2 ^ 30) 1 ∧
    af (roundAF (.fin false (2 ^ 32 + 3) (-1))).1 = .fin false (2 ^ 30 + 1) 1 ∧
    roundAF (.fin true 1 1024) = (0x3ffbfffffff, true) := by decide +kernel

/-- The worked example after R165: group sums 2^40, 1 and -2^40 in PLAIN mode leave 0, in COMPENSATED mode s + c reads 1. -/
def cancels : List Elem :=
  (List.range 12).map fun i =>
    let c := if i = 0 then 0x5380 else if i = 4 then 0x3f80 else if i = 8 then 0xd380 else 0
    ⟨c, fBF16.dec c⟩
def ones : List Elem := List.replicate 12 ⟨0x3f80, fBF16.dec 0x3f80⟩

theorem test_plain_cancels : (dotGroupOrder 0 4 16 cancels ones Entry.empty).read false = 0 := by decide +kernel
theorem test_compensated_keeps : (dotGroupOrder 1 4 16 cancels ones Entry.empty).read true = 0xffc0000000 := by decide +kernel

/-- R345, R346: one wrong symbol at the first and last data and check symbol is corrected, in an address symbol it is a mismatch, two wrong
symbols are uncorrectable. -/
theorem test_sector_code : decodeSector [(0, 1)] = .corrected 0 ∧ decodeSector [(67, 255)] = .corrected 67 ∧
    decodeSector [(68, 1)] = .mismatch ∧ decodeSector [(72, 255)] = .mismatch ∧ decodeSector [(3, 1), (9, 1)] = .uncorrectable := by
  decide +kernel

/-! ## The queue, reset, mailboxes -/

/-- StepRunsFrontCommand, QueueIsConsumed: a queue with a command, and an empty one. -/
theorem witness_queue : { up with pending := [.heartbeat 0] }.pending = .heartbeat 0 :: [] ∧ up.pending = [] ∧
    (after (.heartbeat 0) up).pending = [] := by decide +kernel

/-- StepKeepsMemoriesCanonical, StepKeepsParts, StepKeepsNumbersUnique: a state that meets them, with memory written. -/
theorem witness_invariants :
    let s := { up with mem := [(5, 1)], pending := [.heartbeat 0] }
    s.memsWf = true ∧ s.shape = true ∧ (s.requests.map Request.id).Nodup ∧ (∀ q ∈ s.requests, q.id < s.nextRequest) ∧
      (s.streams.map Stream.id).Nodup ∧ (s.rot.sessions.map Session.n).Nodup := by decide +kernel

theorem witness_idsUnique : up.idsUnique := ⟨by decide +kernel, by decide +kernel, by decide +kernel, by decide +kernel⟩

/-- MailboxRegisters: the windows live; GO posts where STATUS is IDLE and sets OVERRUN where it is not (R414). -/
theorem witness_pigeonhole : up.ctLives 0 = true ∧
    (let p := ((after (.pigeonholeGo 0 3 1) up).ct 0).pigeons.getD 3 Pigeon.reset
     p.status = 1 ∧ p.go = true ∧ p.overrun = false) ∧
    (let s := up.modPigeon 0 3 fun p => { p with status := 2 }
     ((after (.pigeonholeGo 0 3 1) s).ct 0).pigeons.getD 3 Pigeon.reset = { Pigeon.reset with status := 2, overrun := true }) ∧
    (let s := up.modPigeon 0 3 fun p => { p with status := 3, done := true }
     let p := ((after (.pigeonholeDone 0 3 3) s).ct 0).pigeons.getD 3 Pigeon.reset
     p.status = 1 ∧ p.done = false) := by decide +kernel

/-- R417: OUT_TAIL may lead OUT_HEAD by 64 words and by no more; IN_HEAD may reach IN_TAIL and no further. -/
theorem witness_tray :
    (let t := ((after (.outTailWrite 0 1 64) up).ct 0).trays.getD 1 Tray.reset
     t.outTail = 64 ∧ t.overrun = false) ∧
    (let t := ((after (.outTailWrite 0 1 65) up).ct 0).trays.getD 1 Tray.reset
     t.outTail = 0 ∧ t.overrun = true) ∧
    (let t := ((after (.inHeadWrite 0 1 1) up).ct 0).trays.getD 1 Tray.reset
     t.inHead = 0 ∧ t.overrun = true) := by decide +kernel

/-- CoreWrites: eight bytes of control memory, least significant first (R6); three bytes fault; DATA2 while IDLE and while POSTED. -/
theorem witness_core_memory : up.shape = true ∧ (up.ct 0).reached8 = true ∧ up.ctLives 0 = true ∧
    (let t := after (.registerWrite 0 0x1000 8 0x1122334455667788) up
     (t.ct 0).mem.read 0x1000 8 = [0x88, 0x77, 0x66, 0x55, 0x44, 0x33, 0x22, 0x11] ∧ t.bus.fault = false) ∧
    (after (.registerWrite 0 0x1000 3 1) up).bus.fault = true := by decide +kernel

theorem witness_core_pigeonhole :
    (let p := ((after (.registerWrite 0 0xf000000508 4 0xabcd) up).ct 0).pigeons.getD 5 Pigeon.reset
     p.data.getD 2 0 = 0xabcd ∧ p.overrun = false) ∧
    (let s := up.modPigeon 0 5 fun p => { p with status := 1 }
     let p := ((after (.registerWrite 0 0xf000000508 4 0xabcd) s).ct 0).pigeons.getD 5 Pigeon.reset
     p.data.getD 2 0 = 0 ∧ p.overrun = true) ∧
    (after (.registerWrite 0 0xf000000508 2 1) up).bus.fault = true := by decide +kernel

/-- A message of two words in the OUT ring of tray 1, and one whose LENGTH is no multiple of 8. -/
def posted (len : Nat) : State :=
  up.modTray 0 1 fun t => { t with out := updAt 0 (fun _ => header0 0x0082 7 0 0 len) t.out, outTail := 2 }

/-- ChannelsCarryMessages: a whole message, a bad LENGTH (R418), a side that takes no messages, a ring with room and a full one. -/
theorem witness_doorbell : (posted 0).listens 0 = true ∧
    (let t := ((after (.doorbell 0 1 0) (posted 0)).ct 0).trays.getD 1 Tray.reset
     t.inbox = [[header0 0x0082 7 0 0 0, 0]] ∧ t.outHead = 2) ∧
    (let t := ((after (.doorbell 0 1 0) (posted 4)).ct 0).trays.getD 1 Tray.reset
     t.inbox = [[header0 0x0082 7 0 0 4, 0]] ∧ t.outHead = 2) ∧
    (let t := ((after (.doorbell 0 1 0) (posted 8)).ct 0).trays.getD 1 Tray.reset
     t.inbox = [] ∧ t.outHead = 0) ∧
    ((posted 0).modCt 0 fun c => { c with side := 2 }).listens 0 = false := by decide +kernel

theorem witness_messages : up.cpRuns = true ∧ up.hasStandby = false ∧ (0 : Ct) = up.cp.active ∧
    (let t := up.emit ⟨.tray 0 1, [7, 8]⟩
     (((t.ct 0).trays.getD 1 Tray.reset).inn.take 2 = [7, 8]) ∧ ((t.ct 0).trays.getD 1 Tray.reset).inTail = 2) ∧
    (let full : State := up.modTray 0 1 fun t => { t with inTail := 63 }
     (((full.emit ⟨.tray 0 1, [7, 8]⟩).ct 0).trays.getD 1 Tray.reset).held = [[7, 8]]) ∧
    (let s := up.modTray 0 1 fun t => { t with held := [[7, 8]] }
     let t := ((after (.heldResponseWrite (.tray 0 1)) s).ct 0).trays.getD 1 Tray.reset
     t.held = [] ∧ t.inTail = 2) := by decide +kernel

/-- R413: a response in a pigeonhole, zero beyond its length, DONE set. -/
theorem test_pigeonhole_response :
    (let p := ((up.emit ⟨.pigeon 0 1, [0x0000000200000001]⟩).ct 0).pigeons.getD 1 Pigeon.reset
     p.data = [1, 2] ++ List.replicate 14 0 ∧ p.done = true ∧ p.status = 3) := by decide +kernel

/-! ## A module at work -/

def layer : LayerInfo := { bytes := 2 ^ 30, projs := [{ proj := 0, k := 512, n := 512, adaptable := true }], xexperts := false }

def image : ShelfImage := { bytes := [], meas := 7, layers := [layer], context := 4096, kvBytesPerToken := 65536, rowBytes := 16384 }

def programImage : ProgramImage :=
  { programId := 9, shelfMeas := 7, sigOk := true, meas := 0, descs := [], text := [], tensors := [], savedBytes := 0 }

/-- CAB1 is READY on CD04, CAB2 has CD08 and CD09 and no shelf, CAB3 mounts on CD10. -/
def ready : Cabinet :=
  { Cabinet.reset with dies := 0x0010, span := 1, state := 3, shelf := some image, split := [1], serving := some 1 }

def tenantGlove : Glove := { madeGlove 0x100 2 0 42 0 0 with standbyAcked := true }

/-- Streams: 1 serves CAB1, 5 is tenant 42's, 6 the operator's, 7 the operator's and halted. -/
def streamOf (id : Fin 4096) (owner : Fin 3) (tenant : BitVec 32) : Stream :=
  { Stream.module with id := id, cab := 1, owner := owner, tenant := tenant }

def opened : Session :=
  { n := 0, tenant := 42, cab := 1, nonce := 0, ct := [], keyId := 0, answer := [], opened := 0, draining := false, rxHigh := none,
    seen := [], rxNext := 0, ackHigh := none, txNext := 0, txAckNext := 0, unacked := [], toSend := [], inbox := [], ackDue := false,
    discarded := 0, src := 0, srcPort := 0, eventMseq := 0, served := [] }

/-- START_RUN's words: source 0, out handle 5, dataset 6, CAB1, CD04, rank 1, one sequence a step, program 9. -/
def runWords : List Word :=
  [0, 0, 5, 6, 0x1001010000010000 + 0x3f80, 0x0000000900000000, 0, 0, 0]

def runIn (id : BitVec 32) (state : Fin 8) (inStep : Bool) : Run :=
  { runOf id 42 5 runWords 3 none 7 none none with state := state, inStep := inStep }

def slotOf (n : Nat) (state : Fin 8) (run : Option (BitVec 32)) : Slot :=
  { cab := 1, slot := n, gen := 1, state := state, handle := BitVec.ofNat 64 (20 + n), version := 1,
    tenant := 42, known := true, rank := 1, experts := 0, sharePages := 0, lastCode := 0, lastUse := 0, run := run, unbind := false,
    evictReplies := [], lastDies := 0, image := none }

def pinned (n : Nat) (pins : Nat) : Residency :=
  { cab := 1, slot := n, group := 4, state := 1, pins := pins, pages := 0, lastRead := 0, image := none }

def work : State :=
  { up with
    cabs := [Cabinet.reset, ready, { Cabinet.reset with dies := 0x0300, span := 2, state := 1 },
             { Cabinet.reset with dies := 0x0400, span := 1, state := 2, shelf := some image, split := [1], mountAsked := 7 }] ++
            List.replicate 12 Cabinet.reset,
    streams := [Stream.module, servingStream 1 1, streamOf 5 1 42, streamOf 6 0 0, { streamOf 7 0 0 with halted := true }],
    programs := [{ cab := 1, image := programImage }],
    slots := [slotOf 0 1 none, slotOf 1 1 none, slotOf 3 1 (some 1)],
    residencies := [pinned 0 0, pinned 1 1],
    runs := [runIn 1 1 true, runIn 2 5 false, runIn 3 3 true, runIn 4 6 false],
    rot := { up.rot with tenants := [(42, 0)], gloves := [tenantGlove], sessions := [opened], nextNew := 0x101 } }

/-- Every Ilnil command is admitted somewhere: on tray 0 for stream 0 and the operator's stream, on the session for its tenant's. -/
def admitted : List (CmdInfo × Src × Req) :=
  let zero := fun (info : CmdInfo) (ws : List Word) => (info, box, ask 0 ws)
  let mine := fun (info : CmdInfo) (ws : List Word) => (info, sess, ask 5 ws)
  let n := fun (k : Nat) => List.replicate k (0 : Word)
  [zero infoQueryCaps [], zero infoResync (n 2), zero infoSetEventTray (n 1), zero infoTakeOver (n 1),
   zero infoConfigureCabinet (n 1), zero infoMountShelf (n 11), zero infoUnmountShelf (n 1), zero infoSetAdmission (n 2),
   zero infoLoadProgram (n 3), zero infoCreateStream (n 1), zero infoDestroyStream (n 1), (infoSubmitJob, box, ask 6 (n 4)),
   (infoResumeStream, box, ask 7 (n 1)), mine infoBindDrawer (n 3), mine infoUnbindDrawer (n 3), mine infoPrefetchDrawer (n 3),
   mine infoEvictDrawer (n 3), mine infoDrawerStatus (n 3)] ++
  [zero infoSetDrawerCache (n 1), mine infoSetRemakeConsent (n 3), zero infoCatalogDeliver (n 2), mine infoStartRun (n 9),
   mine infoStopRun (n 1), mine infoEndRun (n 1), mine infoPublishRun (n 1), mine infoResumeRun (n 1), mine infoRunStatus (n 1),
   mine infoSetRunRate (n 1), zero infoCatalogStored (n 1), mine infoSetReduction (n 2), mine infoSetThinning (n 2),
   mine infoReductionStatus (n 1), zero infoMemoryStatus (n 1), zero infoAttest (n 5), zero infoAddTenant (n 9),
   zero infoRemoveTenant (n 1), mine infoGloveClose [], (infoGloveOpen, sess, ask 0 (n 4)), mine infoRotateGlove (n 1),
   mine infoGloveStatus (n 1), mine infoConsentInstall (n 2), mine infoConsentRevoke (n 4), zero infoDebugOpen (n 7),
   zero infoDebugClose (n 1), zero infoTelemetryRead (n 1), zero infoResetCluster (n 1), zero infoResetDie (n 1),
   zero infoResetCabinet (n 1), zero infoSetPolicy (n 2), zero infoErrorLogRead (n 3), zero infoReserveStatus []] ++
  [zero infoClaim (n 3), zero infoRelease (n 3), zero infoSetEdgeAddr (n 3), zero infoSetEdgeRings (n 2), zero infoEdgeStatus (n 1)]

theorem witness_admitted : (admitted.all fun p => work.admits p.1 p.2.1 p.2.2) = true ∧ admitted.length = 56 ∧ work.shape = true := by
  decide +kernel

theorem witness_work : work.idsUnique := ⟨by decide +kernel, by decide +kernel, by decide +kernel, by decide +kernel⟩

/-! ## Commands that end -/

/-- A command that goes through ends with this code and payload, and the state differs from `u` in messages only. -/
def said (i : Instr) (info : CmdInfo) (src : Src) (req : Req) (s : State) (code : Nat) (words : List Word) (u : State) : Bool :=
  s.admits info src req &&
    match exec i s with
    | .next t => t.answered (replyOf info src req) 0 code words && decide (t.quiet = u.quiet)
    | _ => false

/-- The same on tray 0 for stream 0, and on the tenant's session for stream 5. -/
def zero (cmd : Src → Req → Instr) (info : CmdInfo) (ws : List Word) (s : State) (code : Nat) (words : List Word := []) (u : State := s) :
    Bool := said (cmd box (ask 0 ws)) info box (ask 0 ws) s code words u
def mine (cmd : Src → Req → Instr) (info : CmdInfo) (ws : List Word) (s : State) (code : Nat) (words : List Word := []) (u : State := s) :
    Bool := said (cmd sess (ask 5 ws)) info sess (ask 5 ws) s code words u

/-- A command that goes through is accepted and stays open. -/
def kept (i : Instr) (info : CmdInfo) (src : Src) (req : Req) (s : State) (jobSeq : Nat) (P : State → Bool) : Bool :=
  s.admits info src req &&
    match exec i s with
    | .next t => t.acceptedReq (replyOf info src req) jobSeq && P t
    | _ => false

/-- A command that goes through ends, whatever its code. -/
def finishes (i : Instr) (info : CmdInfo) (src : Src) (req : Req) (s : State) (P : State → Bool) : Bool :=
  s.admits info src req &&
    match exec i s with
    | .next t => t.ended (replyOf info src req) && P t
    | _ => false

/-- A word with fields at their low bits. -/
def wd (l : List (Nat × Nat)) : Word := word ((l.map fun p => p.2 <<< p.1).sum)

/-! ## Refusals, journal, take-over -/

def short : Req := { ask 0 [] with length := 7 }

theorem witness_refused : up.cpRuns = true ∧ up.ctOf box = up.cp.active ∧ up.takes box = true ∧
    up.cp.heldCmds.contains (replyOf infoQueryCaps box short) = false ∧
    (up.takeFrom box (reqWords infoQueryCaps.opcode short)).isSome = true ∧ (up.resend (replyOf infoQueryCaps box short)).isNone = true ∧
    (up.openReq? (chanKey box) short.mseq).isNone = true ∧ headerCode box short = some Code.badLength ∧
    (after (.queryCaps box short) up).answered (replyOf infoQueryCaps box short) 0 Code.badLength [] = true ∧
    (after (.queryCaps box short) up).quiet = up.quiet := by decide +kernel

/-- RefusalCodes, clause by clause: secure channel, response too long, no such stream, a tenant's stream on a mailbox, LENGTH 7, 504
and 496, a reserved field. -/
theorem witness_refusal_codes :
    (let tray48 : Src := .tray 0 48
     secureSrc tray48 = true ∧ infoQueryCaps.secure = false ∧
       work.routeCode infoQueryCaps tray48 (ask 0 []) = some Code.wrongChannel) ∧
    (infoQueryCaps.hole = false ∧ work.routeCode infoQueryCaps (.pigeon 0 23) (ask 0 []) = some Code.channelUnsuited) ∧
    (work.stream? 4095 = none ∧ work.routeCode infoQueryCaps (.tray 0 47) (ask 4095 []) = some Code.streamUnknown) ∧
    ((work.stream? 5).map Stream.owner = some 1 ∧ work.routeCode infoSubmitJob box (ask 5 []) = some Code.wrongChannel) ∧
    headerCode box short = some Code.badLength ∧ headerCode box { ask 0 [] with length := 504 } = some Code.badLength ∧
    headerCode box (ask 0 (List.replicate 62 0)) = none ∧
    headerCode box { ask 0 [0] with kind := 1 } = some Code.reservedNonzero := by decide +kernel

theorem witness_undefined : definedOpcodes.contains 0x00ff = false ∧
    (let info : CmdInfo := ⟨0x00ff, 0, 496, .zeroOrOwn, true, false, false, [], none⟩
     up.admits info box (ask 0 []) = true ∧
       (after (.undefinedOpcode box (ask 0 []) 0x00ff) up).answered (replyOf info box (ask 0 [])) 0 Code.unknownOpcode [] = true) ∧
    (let far : Src := .tray 0 55
     let info : CmdInfo := ⟨0x00ff, 0, 496, .zeroOrOwn, true, false, false, [], none⟩
     (up.takeFrom far (reqWords 0x00ff (ask 0 []))).isSome = true ∧
       (after (.undefinedOpcode far (ask 0 []) 0x00ff) up).answered (replyOf info far (ask 0 [])) 0 Code.wrongChannel [] = true) := by
  decide +kernel

theorem witness_standby : duo.shape = true ∧ duo.side 1 = 1 ∧ duo.cp.takingOver = none ∧
    headerCode (.pigeon 1 0) (ask 0 []) = none ∧ duo.openReq? (chanKey (.pigeon 1 0)) 1 = none ∧
    (duo.ct 1).pigeons.getD 0 Pigeon.reset = Pigeon.reset ∧
    (let p := ((after (.reserveStatus (.pigeon 1 0) (ask 0 [])) duo).ct 1).pigeons.getD 0 Pigeon.reset
     p.done = true ∧ p.status = 3 ∧
       p.data.take 4 = (halves [header0 0x0082 1 0 Kind.completion 0, header1 0 Code.notActive false 0])) := by decide +kernel

def note : OutMsg := ⟨.tray 0 1, [7, 8]⟩

theorem witness_journal : duo.hasStandby = true ∧
    (let s := duo.modCp fun c => { c with jSent := [note] }
     after .journalEntry s = s.modCp fun c => { c with jSent := [], jAcked := [note] }) ∧
    (let s := duo.modCp fun c => { c with jAcked := [note] }
     (((after .journalAck s).ct 0).trays.getD 1 Tray.reset).inTail = 2 ∧ (after .journalAck s).cp.jAcked = []) ∧
    (duo.side 0 = 0 ∧ (after (.heartbeat 1) duo).cp.lastBeat = [0, 4000000000]) := by decide +kernel

theorem witness_take_over :
    (duo.side 0 ≤ 3 ∧ (duo.ct 0).reached8 = true ∧ duo.side (otherCt 0) ≤ 1) ∧
    (let t := after (.heartbeatLost 0) duo
     t.side 0 = 5 ∧ t.side 1 = 1 ∧ t.cp.takingOver = none) ∧
    (let s := duo.modCp fun c => { c with policies := updAt 8 (fun p => { p with on := true }) c.policies }
     let t := after (.heartbeatLost 0) s
     t.side 0 = 5 ∧ t.side 1 = 2 ∧ t.cp.takingOver = some 1 ∧ (after .takeOverComplete t).cp.active = 1 ∧
       (after .takeOverComplete t).side 1 = 0 ∧ (after .takeOverComplete t).cp.failovers = 1) ∧
    (let src : Src := .tray 1 0
     let req := ask 0 [0]
     duo.admitsStandby infoTakeOver src req = true ∧ (after (.takeOver src req) duo).cp.takingOver = some 1 ∧
       (after (.takeOver src req) duo).side 1 = 2) ∧
    zero .takeOver infoTakeOver [0] duo Code.notStandby = true := by decide +kernel

/-! ## Records and settings -/

theorem witness_records :
    zero .queryCaps infoQueryCaps [] work Code.ok work.caps = true ∧
    zero .reserveStatus infoReserveStatus [] work Code.ok work.reserveWords = true ∧
    zero .edgeStatus infoEdgeStatus [wd [(62, 3)]] work Code.ok (work.edgeWords 3) = true ∧
    zero .memoryStatus infoMemoryStatus [wd [(59, 31)]] work Code.ok (work.memoryWords 31) = true ∧
    zero .telemetryRead infoTelemetryRead [wd [(60, 1)]] work Code.ok (work.telemetryWords 1) = true := by decide +kernel

/-- R74: FP8_TFLOPS with every die in service, and with one fewer. -/
theorem witness_caps : up.activeClusters = 128 ∧ bits (wordAt up.caps 6) 31 0 = 43620 ∧
    (let s := up.modDie 15 fun d => { d with inService := false }
     s.activeClusters = 120 ∧ bits (wordAt s.caps 6) 31 0 = 40894) := by decide +kernel

/-- ReserveRecord: nothing retired, 96 clusters' worth when four dies are gone (R455). -/
theorem witness_reserve : (∀ d ∈ up.dies, d.mapNow.length ≤ 9) ∧ wordAt up.reserveWords 0 = wd [(60, 4), (44, 0), (26, 1)] ∧
    wordAt up.reserveWords 2 = wd [(32, 128), (0, 43620)] ∧ wordAt up.reserveWords 3 = 4000000000 ∧
    ((work.routeCode infoReserveStatus box (ask 6 [])).isSome = true ∧ (work.stream? 6).isSome = true) := by decide +kernel

def otherTenant (s : State) : State :=
  { s with slots := s.slots.map fun x => { x with tenant := 43 }, runs := s.runs.map fun x => { x with tenant := 43 } }

def openRed : Reduction :=
  { id := 9, run := 1, step := 0, position := 0, chain := [4, 5], owner := 5, descending := false, ordered := false, bcast := false,
    wire := 0, firstParam := 0, elems := 1, deadline := 100, tauExp := 20, headroom := 7, state := 0, cause := 0, ready := 0, queued := 0,
    marked := 0, late := 0, due := false, opened := true, era := 0, thinned := false, items := [], acc := none, result := [], r := 0,
    openTime := 0, closeTime := 0 }

theorem witness_object_records :
    (mine .drawerStatus infoDrawerStatus [0, wd [(60, 1), (44, 2)], 0] work Code.slotNotBound = true ∧
      mine .drawerStatus infoDrawerStatus [0, wd [(60, 1)], 0] (otherTenant work) Code.notOwner = true ∧
      mine .drawerStatus infoDrawerStatus [0, wd [(60, 1)], 0] work Code.ok (work.drawerWords (slotOf 0 1 none) true) = true ∧
      zero .drawerStatus infoDrawerStatus [0, wd [(60, 1)], 0] work Code.ok (work.drawerWords (slotOf 0 1 none) false) = true) ∧
    (mine .runStatus infoRunStatus [wd [(32, 99)]] work Code.runNotFound = true ∧
      mine .runStatus infoRunStatus [wd [(32, 1)]] (otherTenant work) Code.notOwner = true ∧
      mine .runStatus infoRunStatus [wd [(32, 1)]] work Code.ok (runWordsOf (runIn 1 1 true) true) = true) ∧
    (let s := { work with reductions := [openRed] }
     mine .reductionStatus infoReductionStatus [wd [(32, 99)]] s Code.runNotFound = true ∧
       mine .reductionStatus infoReductionStatus [wd [(32, 1), (8, 8)]] s Code.reductionNotFound = true ∧
       mine .reductionStatus infoReductionStatus [wd [(32, 1), (8, 9)]] s Code.ok (redWords openRed true) = true) ∧
    (zero .gloveStatus infoGloveStatus [wd [(48, 0x200)]] work Code.valueOutOfRange = true ∧
      mine .gloveStatus infoGloveStatus [wd [(48, 0x200)]] work Code.notOwner = true ∧
      mine .gloveStatus infoGloveStatus [0] work Code.ok (work.gloveWords tenantGlove true) = true) := by decide +kernel

/-- BufferedRecords: a buffer that is not aligned, one a byte too short for the summary, one that fits. -/
theorem witness_resync :
    let u := up.entered infoResync box (ask 0 [0, 0])
    let secs := u.sections none (replyOf infoResync box (ask 0 [0, 0]))
    let n := 8 * (u.summaryHead 0 secs 0 ++ secs.flatten.flatten).length
    zero .resync infoResync [1, 64] up Code.bufferInvalid = true ∧
      zero .resync infoResync [0, word (n - 1)] up Code.bufferTooSmall [word n] = true ∧
      up.admits infoResync box (ask 0 [0, word n]) = true ∧
      (after (.resync box (ask 0 [0, word n])) up).answered (replyOf infoResync box (ask 0 [0, word n])) 0 Code.ok [word n] = true := by
  decide +kernel

def logged : State := up.modCt 0 fun c => { c with log := [List.replicate 8 5], logSeq := 1, logWritten := 1 }

theorem witness_error_log : zero .errorLogRead infoErrorLogRead [1, 64, 0] logged Code.bufferInvalid = true ∧
    zero .errorLogRead infoErrorLogRead [64, 64, 0] logged Code.ok [wd [(32, 1)]]
      ((logged.writeCtl 64 (wordsToBytes (List.replicate 8 5))).modCt 0 fun y => { y with logRead := 1 }) = true := by decide +kernel

theorem witness_attest_hypotheses : work.admits infoAttest box (ask 0 (List.replicate 5 0)) = true ∧
    bitAt (wordAt (List.replicate 5 0) 0) 58 = false := by decide +kernel

theorem witness_event_tray :
    zero .setEventTray infoSetEventTray [wd [(58, 47)]] up Code.ok [] (up.modCp fun c => { c with eventTray := 47 }) = true ∧
      zero .setEventTray infoSetEventTray [wd [(58, 48)]] up Code.valueOutOfRange = true := by decide +kernel

theorem witness_settings :
    (let w0 := fun (target wait prefill : Nat) => wd [(60, 1), (59, 1), (46, target), (32, wait), (19, prefill)]
     let w1 := fun (bwd quota : Nat) => wd [(49, bwd), (33, quota)]
     zero .setAdmission infoSetAdmission [w0 4096 10000 4096, w1 20000 1] work Code.ok []
         (work.modCab 1 fun x => { x with adm := ⟨4096, 10000, 4096, 20000, 1, true⟩ }) = true ∧
       zero .setAdmission infoSetAdmission [w0 4097 0 128, w1 500 1] work Code.valueOutOfRange = true ∧
       zero .setAdmission infoSetAdmission [w0 1 0 192, w1 500 1] work Code.valueOutOfRange = true) ∧
    (zero .setPolicy infoSetPolicy [wd [(56, 9), (55, 1)], 0] up Code.ok []
        (up.modCp fun c => { c with policies := updAt 8 (fun _ => ⟨true, 0, 0⟩) c.policies }) = true ∧
      zero .setPolicy infoSetPolicy [wd [(56, 1), (55, 1), (0, 7)], 0] up Code.valueOutOfRange = true ∧
      zero .setPolicy infoSetPolicy [wd [(56, 10), (55, 1), (0, 7)], wd [(32, 5)]] up Code.valueOutOfRange = true) ∧
    (let a := wd [(62, 1), (60, 2), (58, 1), (46, 5), (32, 9216)]
     let s := up.modEdge 1 fun y => { y with addrs := updAt 2 (fun _ => ⟨false, true, 5, 9216, 7⟩) y.addrs }
     zero .setEdgeAddr infoSetEdgeAddr [a, 7, 0] up Code.ok [] s = true ∧
       zero .setEdgeAddr infoSetEdgeAddr [a, 0, 1] up Code.reservedNonzero = true ∧
       zero .setEdgeAddr infoSetEdgeAddr [wd [(58, 1), (32, 1517)], 7, 0] up Code.valueOutOfRange = true ∧
       zero .setEdgeAddr infoSetEdgeAddr [wd [(58, 1), (32, 1518)], 7, 0] s Code.addressInUse = true) ∧
    (zero .setEdgeRings infoSetEdgeRings [wd [(58, 9), (57, 1), (43, 64)], 0x1000] up Code.ok []
        (up.modEdge 0 fun x => { x with rings := updAt 9 (fun _ => ⟨true, 0x1000, 64, true, false, 0⟩) x.rings }) = true ∧
      zero .setEdgeRings infoSetEdgeRings [wd [(43, 96)], 0x1000] up Code.valueOutOfRange = true ∧
      zero .setEdgeRings infoSetEdgeRings [wd [(43, 64)], 0x1001] up Code.bufferInvalid = true) := by decide +kernel

theorem witness_drawer_cache :
    zero .setDrawerCache infoSetDrawerCache [wd [(60, 1), (52, 64)]] work Code.ok [] (work.modCab 1 fun x => { x with cacheGib := 64 }) = true ∧
      zero .setDrawerCache infoSetDrawerCache [wd [(60, 1), (52, 65)]] work Code.valueOutOfRange = true ∧
      zero .setDrawerCache infoSetDrawerCache [wd [(60, 1)]] work Code.valueOutOfRange = true ∧
      (∀ d ∈ diesOf (work.cab 1).dies, 512 * 64 ≤ work.drawerPages 1 d + work.freeOnDie d) := by decide +kernel

/-- RunCommandRefusals and TenantSettings: no such run, another tenant's, a state that the command is not accepted in, the bounds. -/
theorem witness_run_settings :
    (mine .stopRun infoStopRun [wd [(32, 99)]] work Code.runNotFound = true ∧
      mine .endRun infoEndRun [wd [(32, 1)]] work Code.runState = true ∧
      mine .setRunRate infoSetRunRate [wd [(32, 1)]] (otherTenant work) Code.notOwner = true) ∧
    (mine .setRunRate infoSetRunRate [wd [(32, 1), (0, 0x3f800000)]] work Code.ok []
        (work.modRun 1 fun y => { y with lrNext := some 0x3f800000 }) = true ∧
      mine .setRunRate infoSetRunRate [wd [(32, 1), (0, 0xbf800000)]] work Code.valueOutOfRange = true) ∧
    (let w1 := fun (tau wire head bucket : Nat) => wd [(58, tau), (55, wire), (52, head), (28, bucket)]
     mine .setReduction infoSetReduction [wd [(32, 1), (0, 100)], w1 24 4 7 4096] work Code.ok []
         (work.modRun 1 fun y => { y with settingsNext := some ⟨100, 24, 4, 7, 4096⟩ }) = true ∧
       mine .setReduction infoSetReduction [wd [(32, 1), (0, 99)], w1 24 4 7 4096] work Code.valueOutOfRange = true ∧
       mine .setReduction infoSetReduction [wd [(32, 1), (0, 100)], w1 24 4 5 4096] work Code.valueOutOfRange = true ∧
       mine .setReduction infoSetReduction [wd [(32, 1), (0, 100)], w1 24 4 4 6144] work Code.valueOutOfRange = true) ∧
    (mine .setThinning infoSetThinning [wd [(32, 1)], wd [(28, 4)]] work Code.ok []
        (work.modRun 1 fun y => { y with thinNext := y.thinNext ++ [(0, 0, 8)] }) = true ∧
      mine .setThinning infoSetThinning [wd [(32, 1)], wd [(28, 5)]] work Code.valueOutOfRange = true ∧
      mine .setThinning infoSetThinning [wd [(32, 1)], wd [(32, 1), (28, 1)]] work Code.valueOutOfRange = true) ∧
    (let s := { work with now := 1000 }
     mine .setRemakeConsent infoSetRemakeConsent [6, wd [(60, 1), (0, 5)], 1001] s Code.ok []
         { s with consents := [⟨42, 1, 6, 5, 1001⟩] } = true ∧
       mine .setRemakeConsent infoSetRemakeConsent [6, wd [(60, 1)], 1000] { s with consents := [⟨42, 1, 6, 5, 1001⟩] } Code.ok []
         s = true ∧
       mine .setRemakeConsent infoSetRemakeConsent [6, wd [(60, 1)], 1001] s Code.valueOutOfRange = true) := by decide +kernel

/-! ## Cabinets, shelves, programs, streams -/

theorem witness_configure :
    zero .configureCabinet infoConfigureCabinet [wd [(60, 1), (56, 1), (40, 0x10)]] work Code.cabinetBusy = true ∧
    zero .configureCabinet infoConfigureCabinet [wd [(60, 2)]] work Code.ok [] (work.modCab 2 fun x => { x with dies := 0, span := 0, state := 0 }) =
      true ∧
    zero .configureCabinet infoConfigureCabinet [wd [(60, 2), (56, 3), (40, 1)]] work Code.spanInvalid = true ∧
    zero .configureCabinet infoConfigureCabinet [wd [(60, 2), (56, 1), (40, 0x11)]] work Code.dieInUse = true ∧
    zero .configureCabinet infoConfigureCabinet [wd [(60, 2), (56, 2), (40, 0x0300 + 1)]] work Code.spanInvalid = true ∧
    zero .configureCabinet infoConfigureCabinet [wd [(60, 2), (56, 4), (40, 0xf)]] work Code.ok []
      (work.modCab 2 fun x => { x with dies := 0xf, span := 4, state := 1 }) = true ∧
    (work.cabOfDie 15 = none ∧ after (.passStart 15 false) work = work) := by decide +kernel

def twoLayers : ShelfImage := { image with layers := [{ layer with bytes := 2 ^ 21 }, { layer with bytes := 2 ^ 21 + 1 }] }

def mountWords (c off len : Nat) : List Word := [wd [(60, c)], word off, word len, 7, 0, 0, 0, 0, 0, 0, 0]

def mounted (img : Option ShelfImage) : Src → Req → Instr := fun a b => .mountShelf a b img

theorem witness_mount_begins :
    (let s := work.modCab 2 fun x => { x with state := 4 }
     let req := ask 0 (mountWords 2 0 4096)
     s.admits infoMountShelf box req = true ∧
       (after (.mountShelf box req none) s).cp.heldCmds = [replyOf infoMountShelf box req]) ∧
    zero (mounted (some image)) infoMountShelf (mountWords 0 0 4096) work Code.valueOutOfRange = true ∧
    zero (mounted (some image)) infoMountShelf (mountWords 1 0 4096) work Code.cabinetBusy = true ∧
    zero (mounted (some image)) infoMountShelf (mountWords 2 1 4096) work Code.valueOutOfRange = true ∧
    zero (mounted (some image)) infoMountShelf (mountWords 2 0 (2 * portionMax + 1)) work Code.shelfTooLarge = true ∧
    (let req := ask 0 (mountWords 2 0 (2 * portionMax))
     kept (.mountShelf box req (some twoLayers)) infoMountShelf box req work 0 (fun t =>
         (t.cab 2).state == 2 && (t.cab 2).split == [1, 1] && t.pages.length == 3 && (t.cab 2).mountAsked == 7) = true ∧
       kept (.mountShelf box req none) infoMountShelf box req work 0 (fun t => (t.cab 2).state == 2 && (t.cab 2).shelf == none) = true ∧
       finishes (.mountShelf box req (some image)) infoMountShelf box req work (fun t => (t.cab 2).state == 1 && t.streams == work.streams) =
         true) := by decide +kernel

theorem witness_mount_completes :
    ((work.cab 3).state = 2 ∧ (work.cab 3).shelf.map ShelfImage.meas = some (work.cab 3).mountAsked ∧ work.freeStream = some 2 ∧
      (let t := after (.mountComplete 3) work
       (t.cab 3).state = 3 ∧ (t.cab 3).serving = some 2 ∧ t.streams = work.streams ++ [servingStream 2 3] ∧
         (∀ k ∈ (work.die 10).map, (t.cluster 10 k).slots.map GSlot.glove = [0x13]))) ∧
    (let s := work.modCab 3 fun x => { x with mountAsked := 8 }
     let t := after (.mountComplete 3) s
     (t.cab 3).state = 1 ∧ (t.cab 3).shelf = none ∧ t.streams = s.streams) := by decide +kernel

def askOf (tokens : Nat) : ServeReq := { handle := 0, rowTag := 0, promptRows := 2, tokens := tokens }

def requestOf (id : Nat) (state : Fin 5) : Request :=
  { id := id, session := 0, tenant := 42, cab := 1, ask := askOf 3, state := state, code := 0, group := some 4, slot := none, placed := 0,
    delivered := 0, ready := 0, since := 0, seq := id, kvPages := 0, inPass := false, passedOver := false, arrived := 0, admitted := 0, ended := 0, pinned := false,
    out := [], record := [] }

/-- A state without runs, in which request 0 of CAB1 is in this state. -/
def serving (state : Fin 5) : State := { work with runs := [], slots := [], residencies := [], requests := [requestOf 0 state], nextRequest := 1 }

theorem witness_unmount :
    zero .unmountShelf infoUnmountShelf [wd [(60, 2)]] work Code.noShelf = true ∧
    (let req := ask 0 [wd [(60, 1)]]
     let s := serving 2
     (s.liveIn 1 = true ∧ s.runs = []) ∧
       kept (.unmountShelf box req) infoUnmountShelf box req s 0 (fun t =>
         (t.cab 1).state == 4 && (t.cab 1).unmount == some (false, [replyOf infoUnmountShelf box req])) = true ∧
       finishes (.unmountShelf box req) infoUnmountShelf box req (serving 3) (fun t =>
         (t.cab 1).state == 1 && (t.cab 1).shelf == none && t.programs == [] && (t.cab 3 == (serving 3).cab 3)) = true) ∧
    (let req := ask 0 [wd [(60, 1), (59, 1)]]
     finishes (.unmountShelf box req) infoUnmountShelf box req (serving 2) (fun t =>
       t.requests.all fun q => q.state == 4 && q.code == Code.shelfUnmounted) = true) := by decide +kernel

def loaded (img : ProgramImage) : Src → Req → Instr := fun a b => .loadProgram a b (some img)

theorem witness_load_program :
    let ok := { programImage with programId := 10 }
    zero (loaded ok) infoLoadProgram [wd [(60, 2), (0, 10)], 0, 64] work Code.noShelf = true ∧
    zero (loaded ok) infoLoadProgram [wd [(60, 1), (0, 10)], 1, 64] work Code.bufferInvalid = true ∧
    zero (loaded ok) infoLoadProgram [wd [(60, 1), (0, 9)], 0, 64] work Code.valueOutOfRange = true ∧
    zero (fun a b => .loadProgram a b none) infoLoadProgram [wd [(60, 1), (0, 10)], 0, 64] work Code.programInvalid = true ∧
    zero (loaded programImage) infoLoadProgram [wd [(60, 1), (0, 10)], 0, 64] work Code.programInvalid = true ∧
    zero (loaded { ok with shelfMeas := 8 }) infoLoadProgram [wd [(60, 1), (0, 10)], 0, 64] work Code.shelfMismatch = true ∧
    (∃ u, work.allocAll? [(4, 1)] PKind.program 0x11 1 10 = some u ∧
      (let v := u.fillPages (u.turnPages 4 fun p => p.kind == PKind.program && p.cab == 1 && p.ownerRef == 10) (List.replicate 64 0)
       zero (loaded ok) infoLoadProgram [wd [(60, 1), (0, 10)], 0, 64] work Code.ok []
         { v with programs := v.programs ++ [{ cab := 1, image := ok }] } = true)) :=
  ⟨by decide +kernel, by decide +kernel, by decide +kernel, by decide +kernel, by decide +kernel, by decide +kernel,
    (work.allocAll? [(4, 1)] PKind.program 0x11 1 10).getD work, by decide +kernel, by decide +kernel⟩

theorem witness_create_stream :
    let w := fun (owner major minor tenant : Nat) => [wd [(60, 1), (58, owner), (50, major), (42, minor), (0, tenant)]]
    zero .createStream infoCreateStream (w 0 2 0 0) work Code.versionUnsupported = true ∧
    zero .createStream infoCreateStream (w 0 1 1 0) work Code.versionUnsupported = true ∧
    zero .createStream infoCreateStream (w 2 1 0 42) work Code.valueOutOfRange = true ∧
    zero .createStream infoCreateStream (w 0 1 0 1) work Code.valueOutOfRange = true ∧
    zero .createStream infoCreateStream (w 1 1 0 43) work Code.tenantUnknown = true ∧
    work.freeStream = some 2 ∧
    zero .createStream infoCreateStream (w 1 1 0 42) work Code.ok [wd [(52, 2)]]
      { work with streams := work.streams ++ [⟨2, 1, 1, 42, 0, 0, false, false, []⟩] } = true := by decide +kernel

def reply0 : Reply := ⟨box, 77, 6, 0x0022⟩

def jobOf (seq : BitVec 32) (phase : Fin 3) : Job :=
  { stream := 6, seq := seq, program := 9, entry := 0, tiles := 1, count := 1, dies := 0x10, slot := none, slotGen := 0, pins := [], status := 0x44, bindings := [],
    reply := reply0, phase := phase, retired := 0, endCode := 0, record := [] }

theorem witness_destroy_stream :
    let w := fun (n : Nat) => [wd [(52, n)]]
    zero .destroyStream infoDestroyStream (w 4) work Code.streamUnknown = true ∧
    zero .destroyStream infoDestroyStream (w 1) work Code.wrongStream = true ∧
    (let s := { work with jobs := [jobOf 0 0] }
     let req := ask 0 (w 6)
     kept (.destroyStream box req) infoDestroyStream box req s 0 (fun t => (t.stream? 6).map Stream.isClosing == some true) = true ∧
       finishes (.destroyStream box req) infoDestroyStream box req work (fun t =>
         t.stream? 6 == none && t.stream? 7 == work.stream? 7) = true) ∧
    (let s := { work with jobs := [{ jobOf 0 0 with stream := 7 }] }
     let req := ask 0 (w 7)
     finishes (.destroyStream box req) infoDestroyStream box req s (fun t => t.stream? 7 == none && t.jobs == []) = true) := by
  decide +kernel

/-! ## Jobs -/

/-- SHELF_FWD: BF16, two rows at unit 0x20000 of one cluster, K = 4, N = 1, output to tensor 0x55 (R110). -/
def fwdWords : List Word :=
  [wd [(56, 1), (52, 2), (48, 2), (44, 2), (30, 1), (29, 1)], wd [(44, 0x20000), (34, 2), (24, 1), (16, 1), (8, 0xff), (0, 1)], 0, 0,
   wd [(44, 4), (24, 1)], wd [(48, 0x3f80)], wd [(48, 0xffff)], wd [(0, 0x55)]]

def withProgram (descs : List (List Word)) (text : List Word) : State :=
  { work with programs := [{ cab := 1, image := { programImage with descs := descs, text := text } }] }

/-- SUBMIT_JOB for program 9 on CD04: entry 0, TILES 1, status tensor 0x44 and tensor 0x55, both new. -/
def jobWords (entry tiles count : Nat) (handle : Word) : List Word :=
  [wd [(32, 9), (12, entry), (8, tiles)], wd [(44, count), (28, 0x10), (22, 2)], handle, wd [(32, 0x44)],
   wd [(32, 0x44), (30, 1)], 64, wd [(32, 0x55), (30, 1)], 64]

/-- A command for stream `n` on tray 0. -/
def theirs (n : Fin 4096) (cmd : Src → Req → Instr) (info : CmdInfo) (ws : List Word) (s : State) (code : Nat) : Bool :=
  said (cmd box (ask n ws)) info box (ask n ws) s code [] s

theorem witness_submit_refused :
    let s := withProgram [fwdWords] []
    let job := jobWords 0 1 1 0
    theirs 6 .submitJob infoSubmitJob (job ++ [0]) s Code.badLength = true ∧
    theirs 6 .submitJob infoSubmitJob (updAt 0 (fun w => w + 1) job) s Code.reservedNonzero = true ∧
    theirs 6 .submitJob infoSubmitJob job (s.modStream 6 fun x => { x with isClosing := true }) Code.streamClosing = true ∧
    theirs 6 .submitJob infoSubmitJob job (s.modStream 6 fun x => { x with cab := 2 }) Code.noShelf = true ∧
    theirs 6 .submitJob infoSubmitJob (jobWords 1 1 1 0) s Code.valueOutOfRange = true ∧
    theirs 6 .submitJob infoSubmitJob (jobWords 0 0 1 0) s Code.descriptorInvalid = true ∧
    theirs 6 .submitJob infoSubmitJob (jobWords 0 1 1 20) s Code.notOwner = true := by decide +kernel

theorem witness_submit :
    let s := withProgram [fwdWords] []
    let req := ask 6 (jobWords 0 1 1 0)
    s.jobCode (streamOf 6 0 0) (jobAsk (jobWords 0 1 1 0)) = none ∧
    kept (.submitJob box req) infoSubmitJob box req s 0 (fun t =>
      t.stream? 6 == some { streamOf 6 0 0 with nextSeq := 1 } && t.jobs.map (fun j => (j.seq, j.phase, j.program, j.dies)) == [(0, 0, 9, 0x10)] &&
        t.tensors.map (fun v => (v.handle, v.die, v.bytes)) == [(0x44, 4, 64), (0x55, 4, 64)]) = true := by decide +kernel

/-- A tenant's job with the drawer in slot 1, which is resident: its pin joins the one that is there. -/
theorem witness_submit_pins :
    let s := withProgram [fwdWords] []
    let req := ask 5 (jobWords 0 1 1 21)
    kept (.submitJob sess req) infoSubmitJob sess req s 0 (fun t => (t.residency? 1 1 4).map Residency.pins == some 2) = true := by
  decide +kernel

def halted (j : Job) (s : State) : State := { s.modStream 6 (fun x => { x with halted := true }) with jobs := [j] }

theorem witness_job_start :
    let s := withProgram [fwdWords] []
    let go := fun (s : State) => after (.jobStart 6 0) s
    let one := { s with jobs := [jobOf 0 0] }
    (go (halted (jobOf 0 0) s) = halted (jobOf 0 0) s ∧ go { s with jobs := [jobOf 0 1] } = { s with jobs := [jobOf 0 1] }) ∧
    (one.fetched 1 (jobOf 0 0) = true ∧ (one.grantJob? (jobOf 0 0)).isSome = true ∧
      ((go one).jobs.map Job.phase, (go one).grants.map fun g => (g.stream, g.die, g.cl, g.tiles.length)) =
        ([1], List.replicate 8 (6, 4, 0, 1))) ∧
    (let s := { s with jobs := [{ jobOf 0 0 with slot := some 0, slotGen := 0, pins := [4] }], residencies := [{ pinned 0 1 with state := 0 }] }
     s.unboundFor 1 ((s.job? 6 0).getD (jobOf 0 0)) = false ∧ go s = s) ∧
    (let s := { s with jobs := [{ jobOf 0 0 with slot := some 9 }] }
     s.unboundFor 1 ((s.job? 6 0).getD (jobOf 0 0)) = true ∧ (go s).jobs = []) ∧
    (let s := { one with programs := [] }
     (go s).jobs = []) := by decide +kernel

theorem witness_resume_stream :
    theirs 6 .resumeStream infoResumeStream [0] work Code.streamNotHalted = true ∧
    (let req := ask 7 [0]
     said (.resumeStream box req) infoResumeStream box req work Code.ok [] (work.modStream 7 fun x => { x with halted := false }) = true) ∧
    (let s := { work with jobs := [{ jobOf 0 0 with stream := 7 }] }
     let req := ask 7 [1]
     finishes (.resumeStream box req) infoResumeStream box req s (fun t => t.jobs == [] && (t.stream? 7).map Stream.halted == some false) = true) := by
  decide +kernel

/-! ## Drawers -/

def bindWords (handle : Nat) (asked : Nat) : List Word := [word handle, wd [(60, 1)], wd [(32, asked)]]

theorem witness_bind :
    mine .bindDrawer infoBindDrawer (bindWords 0 0) work Code.valueOutOfRange = true ∧
    mine .bindDrawer infoBindDrawer (bindWords 20 0) (otherTenant work) Code.notOwner = true ∧
    mine .bindDrawer infoBindDrawer (bindWords 20 1) work Code.ok [wd [(32, 1)]] = true ∧
    mine .bindDrawer infoBindDrawer (bindWords 20 0) work Code.ok [wd [(32, 1)]] = true ∧
    (let s := { work with slots := work.slots.map fun x => { x with version := 2 } }
     mine .bindDrawer infoBindDrawer (bindWords 20 1) s Code.valueOutOfRange = true) ∧
    (let t := after (.bindDrawer sess (ask 5 (bindWords 20 2))) work
     (t.slot? 1 2).map (fun x => (x.handle, x.version, x.state)) = some (20, 2, 1) ∧
       ((t.slot? 1 0).map Slot.state = some SState.retiring ∨ t.slot? 1 0 = none)) ∧
    mine .bindDrawer infoBindDrawer (bindWords 30 0) work Code.ok [wd [(48, 2), (32, 1)]]
      { work with slots := work.slots ++ [{ slotOf 2 1 none with handle := 30, version := 0, rank := 0, lastUse := 1 }],
                  slotGens := [((1, 2), 1)] } = true := by decide +kernel

def slotWords (n dies : Nat) : List Word := [0, wd [(60, 1), (44, n), (28, dies)], 0]

theorem witness_release :
    mine .unbindDrawer infoUnbindDrawer (slotWords 2 0) work Code.slotNotBound = true ∧
    mine .unbindDrawer infoUnbindDrawer (slotWords 0 0) (otherTenant work) Code.notOwner = true ∧
    mine .unbindDrawer infoUnbindDrawer (slotWords 3 0) work Code.slotNotBound = true ∧
    (let req := ask 5 (slotWords 0 0)
     finishes (.unbindDrawer sess req) infoUnbindDrawer sess req work (fun t => t.slot? 1 0 == none && t.residenciesOf 1 0 == []) = true) ∧
    (let req := ask 5 (slotWords 1 0)
     kept (.unbindDrawer sess req) infoUnbindDrawer sess req work 0 (fun t =>
       (t.slot? 1 1).map (fun x => (x.state, x.unbind)) == some (SState.evictPending, true)) = true) ∧
    mine .evictDrawer infoEvictDrawer (slotWords 0 0x20) work Code.valueOutOfRange = true ∧
    mine .evictDrawer infoEvictDrawer (slotWords 3 0x10) work Code.slotNotBound = true ∧
    (let req := ask 5 (slotWords 0 0x10)
     finishes (.evictDrawer sess req) infoEvictDrawer sess req work (fun t => t.residenciesOf 1 0 == [] && (t.slot? 1 0).isSome) = true) ∧
    (let req := ask 5 [0, wd [(60, 1), (28, 0x10), (27, 1)], 0]
     finishes (.evictDrawer sess req) infoEvictDrawer sess req work (fun t => t.slot? 1 0 == none) = true) ∧
    mine .prefetchDrawer infoPrefetchDrawer (slotWords 0 0x20) work Code.valueOutOfRange = true ∧
    mine .prefetchDrawer infoPrefetchDrawer (slotWords 0 0x10) work Code.ok = true ∧
    (let s := { work with residencies := [] }
     let req := ask 5 (slotWords 0 0x10)
     kept (.prefetchDrawer sess req) infoPrefetchDrawer sess req s 0 (fun t =>
       t.fetches.map (fun f => (f.cab, f.slot, f.group, f.handle)) == [(1, 0, 4, 20)]) = true) ∧
    (let s := { work with slots := work.slots.map fun x => { x with state := SState.stale, lastCode := Code.staleShelf } }
     prefetchCode { slotOf 0 4 none with lastCode := Code.staleShelf } = some Code.staleShelf ∧
       mine .prefetchDrawer infoPrefetchDrawer (slotWords 0 0x10) s Code.staleShelf = true) := by decide +kernel

/-! ## Fetches and runs -/

/-- A drawer of rank 1 for projection 0 of layer 0, and its catalog object. -/
def drawer : DrawerImage :=
  { header := [wd [(56, 1), (48, 1), (0, 1)], 20, wd [(32, 42), (0, 1)], 0x20000, wd [(48, 0x3f80)], 0, 0, 0, 7, 0, 0, 0, 0, 0, 0, 0],
    projTable := [(wd [(20, 512), (0, 512)], 0x10000)], expertTable := [], factors := [⟨[], [], [], []⟩], experts := [] }

def object (h : Word) (v : BitVec 32) : CatObj :=
  { handle := h, version := v, tenant := 42, bytes := 0x20000, meas := 7, tagsOk := true, image := some drawer, dataset := none,
    runWords := [] }

def fetchOf (step : Fin 8) : Fetch :=
  { id := 0, cab := 1, slot := 0, group := 4, handle := 20, version := 1, step := step, order := 1, dataset := false, run := none,
    replies := [] }

def fetching (step : Fin 8) (cat : List CatObj) : State :=
  { work with fetches := [fetchOf step], nextFetch := 1, residencies := [{ pinned 0 0 with state := 0 }] }.modCt 0 fun c =>
    { c with catalog := cat }

def delivered (obj : Option CatObj) : Src → Req → Instr := fun a b => .catalogDeliver a b obj

theorem witness_fetch :
    zero (delivered none) infoCatalogDeliver [wd [(56, 0)], 5] (fetching FStep.pages []) Code.valueOutOfRange = true ∧
    zero (delivered none) infoCatalogDeliver [wd [(56, 3)], 0] (fetching FStep.catalog []) Code.valueOutOfRange = true ∧
    (let req := ask 0 [wd [(56, 1)], 0]
     finishes (.catalogDeliver box req none) infoCatalogDeliver box req (fetching FStep.catalog []) (fun t =>
       t.fetches == [] && (t.slot? 1 0).map (fun x => (x.state, x.lastCode)) == some (SState.failed, Code.drawerNotFound)) = true) ∧
    (let req := ask 0 [0, word (cipherBytes 0x20000)]
     let s := fetching FStep.catalog []
     let s := { s with fetches := [{ fetchOf FStep.catalog with run := some 1 }] }
     finishes (.catalogDeliver box req (some (object 20 1))) infoCatalogDeliver box req s (fun t =>
       t.fetches == [{ fetchOf FStep.pieces with run := some 1 }] && t.catalog == [object 20 1]) = true) ∧
    (let s := fetching FStep.catalog []
     after (.fetchResume 0) s = s ∧ after (.fetchComplete 0) s = s) := by decide +kernel

theorem witness_fetch_pages :
    let s := fetching FStep.pages [object 20 1]
    (s.objOf (fetchOf FStep.pages) = some (object 20 1) ∧ (s.reserve? 1 0 4 drawer 0x100).isSome = true) ∧
      (let t := after (.fetchResume 0) s
       t.fetches.map Fetch.step = [FStep.pieces] ∧ t.pages.map (fun p => (p.glove, p.kind)) = [(0x100, PKind.drawer)]) ∧
    (let s := fetching FStep.pieces [object 20 1]
     s.intakeCode (fetchOf FStep.pieces) (object 20 1) false = none ∧
       (let t := after (.fetchComplete 0) s
        t.fetches = [] ∧ (t.slot? 1 0).map (fun x => (x.rank, x.image)) = some (1, some drawer) ∧
          (t.residency? 1 0 4).map Residency.state = some 1 ∧ (t.cab 1).counters.fetches = 1)) := by decide +kernel

/-- START_RUN on CAB1 (R263): AdamW, a fresh drawer of rank 1, learning rate 1.0, epsilon 1.0, one page-GiB of saved state. -/
def startWords : List Word :=
  [0, 0, 50, 60, wd [(60, 1), (44, 0x10), (36, 1), (16, 1), (0, 0x3f80)], wd [(32, 9), (0, 2)], wd [(32, 0x3f800000)], 0,
   wd [(32, 0x3f800000), (16, 1)]]

theorem witness_start_run :
    mine .startRun infoStartRun (updAt 0 (fun _ => 20) startWords) (otherTenant work) Code.notOwner = true ∧
    mine .startRun infoStartRun startWords (work.modCab 1 fun x => { x with state := 4 }) Code.noShelf = true ∧
    mine .startRun infoStartRun (updAt 4 (fun _ => wd [(60, 1), (44, 0x30), (36, 1), (16, 1)]) startWords) work Code.spanInvalid = true ∧
    mine .startRun infoStartRun (updAt 5 (fun _ => wd [(32, 8), (0, 2)]) startWords) work Code.descriptorInvalid = true ∧
    mine .startRun infoStartRun (updAt 2 (fun _ => 0) startWords) work Code.valueOutOfRange = true ∧
    mine .startRun infoStartRun startWords { work with runs := List.replicate 1024 (runIn 1 1 false) } Code.runLimit = true := by
  decide +kernel

/-- The same with a source drawer that is to be fetched, so that no fresh drawer is drawn here. -/
def sourceWords : List Word :=
  [21, 0, 50, 60, wd [(60, 1), (44, 0x10), (16, 1)], wd [(32, 9), (0, 2)], wd [(32, 0x3f800000)], 0, wd [(32, 0x3f800000), (16, 1)]]

theorem witness_run_starts :
    let req := ask 5 sourceWords
    work.runCode 42 sourceWords = none ∧
    kept (.startRun sess req) infoStartRun sess req work 0 (fun t =>
      t.nextRun == 2 && (t.runs.drop 4).map (fun x => (x.id, x.state, x.tenant, x.cab, x.source, x.outHandle, x.dataset, x.maxSteps)) ==
          [(1, RunSt.starting, 42, 1, 21, 50, 60, 2)] &&
        t.fetches.map (fun f => (f.handle, f.dataset, f.run)) == [(21, false, some 1), (60, true, some 1)]) = true := by decide +kernel

/-- Run 1 runs between steps, run 2 is stopped and run 3 in a step; run 1's slot has an image. -/
def running : State :=
  { work with runs := [runIn 1 1 false, runIn 2 5 false, runIn 3 1 true],
              slots := [slotOf 0 1 none, slotOf 1 1 none, { slotOf 3 1 (some 1) with image := some drawer }] }

theorem witness_run_commands :
    (let req := ask 5 [wd [(32, 1)]]
     said (.stopRun sess req) infoStopRun sess req running Code.ok [] (running.modRun 1 fun y => { y with state := RunSt.stopped }) = true) ∧
    (let req := ask 5 [wd [(32, 3)]]
     kept (.stopRun sess req) infoStopRun sess req running 0 (fun t =>
       (t.run? 3).map (fun y => (y.state, y.stopping, y.inStep)) == some (RunSt.stopping, true, true)) = true) ∧
    (let req := ask 5 [wd [(32, 3), (0, 1)]]
     finishes (.stopRun sess req) infoStopRun sess req running (fun t =>
       (t.run? 3).map (fun y => (y.state, y.inStep, y.lastCode)) == some (RunSt.stopped, false, Code.stepDiscarded)) = true) ∧
    (let req := ask 5 [wd [(32, 2)]]
     finishes (.endRun sess req) infoEndRun sess req running (fun t => t.runs.map Run.id == [1, 3]) = true) ∧
    mine .publishRun infoPublishRun [wd [(32, 2)]] (running.modRun 2 fun y => { y with lastCode := Code.runStateLost }) Code.runStateLost = true ∧
    mine .publishRun infoPublishRun [wd [(32, 2)]] (running.modRun 2 fun y => { y with slot := 9 }) Code.runState = true ∧
    (let req := ask 5 [wd [(32, 1)]]
     kept (.publishRun sess req) infoPublishRun sess req running 0 (fun t =>
       t.stores.map (fun x => (x.handle, x.version, x.run, x.reply)) == [(5, 1, 1, some (replyOf infoPublishRun sess req))] &&
         t.versions == [(5, 1)]) = true) := by decide +kernel

/-- RESUME_RUN at the dataset's end, and with a sequence of four rows left. -/
theorem witness_resume_run :
    mine .resumeRun infoResumeRun [wd [(32, 2)]] (running.modRun 2 fun y => { y with unmounted := true }) Code.runState = true ∧
    (let req := ask 5 [wd [(32, 2)]]
     finishes (.resumeRun sess req) infoResumeRun sess req running (fun t => (t.run? 2).map Run.state == some RunSt.done) = true ∧
     finishes (.resumeRun sess req) infoResumeRun sess req (running.modRun 2 fun y => { y with seqs := [(4, 3)], maxSteps := 2 }) (fun t =>
       (t.run? 2).map (fun y => (y.state, y.inStep, y.cursor)) == some (RunSt.running, true, 1)) = true) := by decide +kernel

def storing : State :=
  { work with stores := [{ id := 0, handle := 70, version := 1, cab := 1, run := 1, tenant := 42, reply := some ⟨sess, 9, 5, 0x0043⟩ }] }

theorem witness_stored :
    zero .catalogStored infoCatalogStored [9] storing Code.valueOutOfRange = true ∧
    zero .catalogStored infoCatalogStored [wd [(56, 1)]] storing Code.valueOutOfRange = true ∧
    (let req := ask 0 [0]
     finishes (.catalogStored box req) infoCatalogStored box req storing (fun t =>
       t.stores == [] && (t.slot? 1 2).map (fun x => (x.handle, x.version, x.tenant)) == some (70, 1, 42)) = true) ∧
    (let req := ask 0 [wd [(56, 2)]]
     let s := storing.modCt 0 fun c => { c with catalog := [object 70 1, object 20 1] }
     finishes (.catalogStored box req) infoCatalogStored box req s (fun t => t.stores == [] && t.catalog == [object 20 1]) = true) := by
  decide +kernel

/-- REMAKE_START: slot 0 of CAB1 is stale, its catalog entry names the words of its run, its tenant consents. -/
def stale : State :=
  { work with slots := [slotOf 0 4 none], remakeQ := [(1, 0)], consents := [⟨42, 1, 60, 5, 2 ^ 40⟩], runs := [] }.modCt 0 fun c =>
    { c with catalog := [{ object 20 1 with runWords := sourceWords }] }

def noQueue (s : State) : State := { s with remakeQ := [] }
def noSlots : State := { stale with slots := [] }
def noConsent : State := { stale with consents := [] }

theorem witness_remake :
    after (.remakeStart 2) stale = stale ∧ after (.remakeStart 1) noSlots = noQueue noSlots ∧
    after (.remakeStart 1) noConsent = noQueue noConsent ∧
    (stale.runCode 42 (stale.remakeWords 1 (slotOf 0 4 none) ⟨42, 1, 60, 5, 2 ^ 40⟩) = none ∧
      (let t := after (.remakeStart 1) stale
       t.slots.map Slot.state = [SState.remaking, SState.bound] ∧
         t.runs.map (fun z => (z.id, z.remakeOf, z.source, z.outHandle)) = [(1, some 0, 20, 20)] ∧
         t.runs.map (fun z => (z.dataset, z.maxSteps, z.stream, z.tenant)) = [(60, 5, 0, 42)])) := by decide +kernel

/-! ## Gloves -/

def noGlove : State := work.modRot fun r => { r with gloves := [] }

theorem witness_gloves_open :
    zero .addTenant infoAddTenant ([wd [(32, 42)]] ++ List.replicate 8 0) work Code.tenantBound = true ∧
    zero .addTenant infoAddTenant ([wd [(32, 43)]] ++ 5 :: List.replicate 7 0) work Code.ok []
      (work.modRot fun r => { r with tenants := [(42, 0), (43, 5)] }) = true ∧
    (let req := ask 0 [1, 2, 3, 4]
     said (.gloveOpen sess req) infoGloveOpen sess req work Code.ok [wd [(48, 0x100)]] work = true ∧
       said (.gloveOpen sess req) infoGloveOpen sess req (work.modGlove 0x100 fun g => { g with phase := 6 }) Code.gloveClosed []
         (work.modGlove 0x100 fun g => { g with phase := 6 }) = true ∧
       finishes (.gloveOpen sess req) infoGloveOpen sess req noGlove (fun t =>
         t.rot.gloves.map (fun g => (g.id, g.gen, g.tenant)) == [(0x101, 1, 42)] && t.rot.nextNew == 0x102) = true ∧
       finishes (.gloveOpen sess req) infoGloveOpen sess req (noGlove.modRot fun r => { r with nextNew := 0x4100, freed := [0x150] })
         (fun t => t.rot.gloves.map Glove.id == [0x150] && t.rot.freed == []) = true ∧
       said (.gloveOpen sess req) infoGloveOpen sess req (noGlove.modRot fun r => { r with nextNew := 0x4100 }) Code.gloveLimit []
         (noGlove.modRot fun r => { r with nextNew := 0x4100 }) = true) := by decide +kernel

theorem witness_gloves_close :
    zero .removeTenant infoRemoveTenant [wd [(32, 43)]] work Code.tenantUnknown = true ∧
    (let t := after (.removeTenant box (ask 0 [wd [(32, 42)]])) work
     work.admits infoRemoveTenant box (ask 0 [wd [(32, 42)]]) = true ∧ t.runs = [] ∧ t.rot.sessions = [] ∧
       (∀ x ∈ t.streams, x.owner = 1 → x.isClosing = true)) ∧
    (let t := after (.gloveClose sess (ask 5 [])) work
     work.admits infoGloveClose sess (ask 5 []) = true ∧ t.runs = [] ∧ t.rot.sessions.map (fun x => (x.n, x.draining)) ⊆ [(0, true)]) := by
  decide +kernel

/-- The tenant's glove is worn by cluster 0 of CD04. -/
def worn (g : Glove) : State :=
  { work with rot := { work.rot with gloves := [g] },
              clusters := [{ die := 4, cl := 0, slots := [⟨1, 0x100, 0, none, 1⟩], lines := [], pieces := [], bufs := [], rowMem := [], unitTags := [] }],
              pages := [⟨8, 0, 1, 0x100, 1, PKind.drawer, false, false, 0, 0⟩] }

def blk : GBlock := .cluster 4 0
def due (phase : Fin 8) (l : List GBlock) : Glove := { tenantGlove with phase := phase, waiting := l }

theorem witness_rotate :
    (let w := [wd [(48, 0x100)]]
     let req := ask 0 w
     zero .rotateGlove infoRotateGlove [wd [(48, 0x300)]] work Code.valueOutOfRange = true ∧
       zero .rotateGlove infoRotateGlove w (worn (due 6 [])) Code.gloveClosed = true ∧
       zero .rotateGlove infoRotateGlove w (worn (due 3 [])) Code.rotationInProgress = true ∧
       kept (.rotateGlove box req) infoRotateGlove box req (worn tenantGlove) 0 (fun t =>
         t.rot.gloves.map (fun g => (g.phase, g.waiting)) == [(2, [blk, .edge 0])]) = true ∧
       kept (.rotateGlove box req) infoRotateGlove box req ((worn tenantGlove).modCt 1 fun c => { c with side := 1 }) 0 (fun t =>
         t.rot.gloves.map Glove.phase == [1]) = true) := by decide +kernel

theorem witness_glove_acks :
    (let s := (worn { due 1 [] with standbyAcked := false }).modCt 1 fun c => { c with side := 1 }
     (after (.gloveChangeAck 0x100) s).rot.gloves.map (fun g => (g.standbyAcked, g.phase)) = [(true, 1)] ∧
       (after (.gloveChangeAck 0x100) (after (.gloveChangeAck 0x100) s)).rot.gloves.map (fun g => (g.phase, g.waiting)) =
         [(2, [blk, .edge 0])]) ∧
    after (.gloveInstallationAck 0x100 blk) (worn (due 4 [blk])) = worn (due 4 [blk]) ∧
    after (.gloveInstallationAck 0x100 blk) (worn (due 2 [blk, .edge 0])) = worn (due 2 [.edge 0]) ∧
    (after (.gloveInstallationAck 0x100 blk) (worn (due 2 [blk]))).rot.gloves =
      [{ tenantGlove with phase := 3, gen := 2, prevHeld := true, prevPages := 1, rotateTime := 4000000000 }] ∧
    (after (.drainConfirm 0x100 blk) (worn (due 4 [blk]))).rot.gloves = [due 5 [blk, .edge 0]] ∧
    (after (.gloveErasureAck 0x100 blk) (worn { due 5 [blk] with prevHeld := true })).rot.gloves = [tenantGlove] ∧
    (let t := after (.gloveErasureAck 0x100 blk) (worn { due 7 [blk] with removing := true })
     t.rot.gloves = [] ∧ t.rot.tenants = [] ∧ t.clusters.map ClusterSt.slots = [[]]) := by decide +kernel

/-! ## Consent, debug channels, claims -/

def token (scope : BitVec 16) : Token := { id := 5, cab := 1, scope := scope, tenant := 42, notBefore := 0, expiry := 2 ^ 40, phase := 1 }

def consented (scope : BitVec 16) : State := work.modRot fun r => { r with tokens := [token scope] }

theorem witness_install :
    zero .resync infoResync [1, 0] work Code.bufferInvalid = true ∧
    (let install : Src → Req → Instr := fun a b => .consentInstall a b true
     zero install infoConsentInstall [0, 0, 0] work Code.badLength = true ∧
       zero install infoConsentInstall [1, 4621] work Code.bufferInvalid = true ∧
       zero install infoConsentInstall [0, 4620] work Code.valueOutOfRange = true) := by decide +kernel

theorem witness_tokens :
    (after (.tokenInForce 5) (work.modRot fun r => { r with tokens := [{ token 1 with phase := 0 }] })).rot.tokens = [token 1] ∧
    after (.tokenExpiry 6) (consented 1) = consented 1 ∧
    (after (.tokenExpiry 5) (consented 1)).rot.tokens = [] ∧
    mine .consentRevoke infoConsentRevoke [6, 0, 0, 0] (consented 1) Code.valueOutOfRange = true ∧
    (let s := (consented 1).modRot fun r => { r with tokens := [{ token 1 with tenant := 43 }] }
     mine .consentRevoke infoConsentRevoke [5, 0, 0, 0] s Code.notOwner = true) ∧
    mine .consentRevoke infoConsentRevoke [5, 0, 0, 0] (consented 1) Code.ok [] ((consented 1).endToken 5) = true := by decide +kernel

def openWords (scope addr len : Nat) : List Word := [5, 0, 0, 0, wd [(48, scope)], word addr, word len]

theorem witness_debug :
    zero .debugOpen infoDebugOpen (openWords 1 1 1088) (consented 1) Code.bufferInvalid = true ∧
    zero .debugOpen infoDebugOpen (openWords 1 0 1088) work Code.denied = true ∧
    zero .debugOpen infoDebugOpen (openWords 3 0 1088) (consented 1) Code.denied = true ∧
    zero .debugOpen infoDebugOpen (openWords 1 0 1087) (consented 1) Code.bufferTooSmall = true ∧
    (let s := (consented 1).modCp fun c => { c with traceRing := some (.stream 0) }
     zero .debugOpen infoDebugOpen (openWords 1 0 1088) s Code.busy = true) ∧
    ((consented 1).admits infoDebugOpen box (ask 0 (openWords 1 0 1088)) = true ∧ (consented 1).cp.traceRing = none) ∧
    zero .debugClose infoDebugClose [wd [(48, 1)]] work Code.valueOutOfRange = true ∧
    (let s := ((consented 1).modCp fun c => { c with traceRing := some (.debug 1) }).modRot fun r =>
       { r with debugChans := [⟨1, 5, 1, 0, 1088, false⟩] }
     zero .debugClose infoDebugClose [wd [(48, 1)]] s Code.ok [] (consented 1) = true) := by decide +kernel

def timerOf (armed : Bool) : TimerClaim := { die := 3, timer := 2, stream := 0, due := 50, period := 10, armed := armed, count := 0 }
def timed (armed : Bool) : State := work.modCp fun c => { c with timers := [timerOf armed] }

theorem witness_claims :
    let timer := wd [(60, 2), (56, 3), (54, 2)]
    zero .claim infoClaim [wd [(60, 1)], 0, 0] work Code.wrongStream = true ∧
    zero .claim infoClaim [wd [(60, 3)], 0, 0] work Code.valueOutOfRange = true ∧
    zero .claim infoClaim [timer, 50, 10] work Code.ok [] (timed true) = true ∧
    zero .claim infoClaim [timer, 50, 10] (timed true) Code.busy = true ∧
    zero .release infoRelease [timer, 0, 0] (timed true) Code.ok [] work = true ∧
    zero .release infoRelease [timer, 0, 0] work Code.notClaimed = true ∧
    zero .claim infoClaim [0, 0, 0] work Code.ok [] (work.modCp fun c => { c with traceRing := some (.stream 0) }) = true ∧
    zero .claim infoClaim [0, 0, 0] (work.modCp fun c => { c with traceRing := some (.stream 6) }) Code.busy = true ∧
    zero .release infoRelease [0, 0, 0] work Code.notClaimed = true ∧
    after (.generalTimerExpiry 3 2) work = work ∧ after (.generalTimerExpiry 3 2) (timed false) = timed false ∧
    (after (.generalTimerExpiry 3 2) (timed true)).cp.timers = [{ timerOf true with count := 1, due := 60 }] := by decide +kernel

/-! ## Resets -/

def resetting (a : Scope) : State :=
  work.modCp fun c => { c with resets := [{ scope := a, replies := [reply0], words := [], started := true }] }

theorem witness_resets :
    zero .resetCluster infoResetCluster [wd [(60, 4), (56, 9)]] work Code.valueOutOfRange = true ∧
    zero .resetCabinet infoResetCabinet [0] work Code.valueOutOfRange = true ∧
    (let req := ask 0 [wd [(60, 4), (56, 8)]]
     kept (.resetCluster box req) infoResetCluster box req (resetting (.die 4)) 0 (fun t =>
         t.cp.resets.map (fun j => (j.scope, j.replies.length)) == [(.die 4, 2)]) = true ∧
       kept (.resetCluster box req) infoResetCluster box req work 0 (fun t =>
         t.cp.resets.map (fun j => (j.scope, j.started)) == [(.cluster 4 8, true)] && (t.die 4).clusters[8]? == some 3) = true) ∧
    (let req := ask 0 [wd [(60, 4)]]
     (resetting (.cluster 4 8)).admits infoResetDie box req = true ∧ (resetting (.cluster 4 8)).resetWaits (.die 4) = true ∧
       (after (.resetDie box req) (resetting (.cluster 4 8))).cp.resets.map ResetJob.started = [true, false] ∧
       kept (.resetDie box req) infoResetDie box req work 0 (fun t => (t.die 4).clusters == List.replicate 9 3) = true) ∧
    (let req := ask 0 [wd [(60, 1), (59, 1)]]
     kept (.resetCabinet box req) infoResetCabinet box req work 0 (fun t => (t.cab 1).state == 5) = true) := by decide +kernel

theorem witness_resets_complete :
    after (.resetComplete (.die 4)) work = work ∧
    (let s := (resetting (.cluster 4 8)).modDie 4 fun d => { d with clusters := updAt 8 (fun _ => 3) d.clusters }
     let t := after (.resetComplete (.cluster 4 8)) s
     t.cp.resets = [] ∧ (t.die 4).clusters[8]? = some (if (s.die 4).mapNow.contains 8 then 0 else 1)) ∧
    (let s := (resetting (.cabinet 1 true)).modCab 1 fun c => { c with state := 5 }
     ((after (.resetComplete (.cabinet 1 true)) s).cab 1).state = 3) ∧
    (let s := (resetting (.cabinet 1 false)).modCab 1 fun c => { c with state := 5 }
     ((after (.resetComplete (.cabinet 1 false)) s).cab 1).state = 1) := by decide +kernel

/-! ## Serving -/

def idle : State := { serving 3 with requests := [] }

theorem witness_serving_request :
    after (.servingRequest 1 (askOf 3)) idle = idle ∧ idle.freeCtr = 0 ∧
    (after (.servingRequest 0 { askOf 3 with rowTag := 0x4000 }) idle).requests.map (fun q => (q.state, q.code)) =
      [(RState.ended, Code.rowTagInvalid)] ∧
    (let s := idle.modCab 1 fun x => { x with adm := { x.adm with isOpen := false } }
     (after (.servingRequest 0 (askOf 3)) s).requests.map (fun q => (q.id, q.state)) = [(1, RState.queued)]) ∧
    (idle.chooseGroup 1 none (askOf 3) = some 4 ∧
      (let t := after (.servingRequest 0 (askOf 3)) idle
       t.requests.map (fun q => (q.state, q.group, q.ready, q.kvPages, q.admitted)) = [(RState.admitted, some 4, 2, 1, 4000000000)] ∧
         t.pages.map (fun p => (p.kind, p.glove)) = [(PKind.kv, 0x100)])) := by decide +kernel

theorem witness_retest :
    after (.admissionRetest 7) idle = idle ∧
    (let s := (serving 0).modCab 1 fun x => { x with state := 4 }
     after (.admissionRetest 0) s = s) ∧
    (after (.admissionRetest 0) (serving 0)).requests.map (fun q => (q.state, q.group, q.ready)) = [(RState.admitted, some 4, 2)] := by
  decide +kernel

/-- A request admitted to CD04 with two rows waiting; the wait has expired. -/
def waiting : State :=
  ((serving 1).modRequest 0 fun q => { q with ready := 2 }).modDie 4 fun d => { d with waitExpired := true }

theorem witness_pass_start :
    ((waiting.cab 1).groups = [4] ∧ (waiting.fillForward 1 4).map (fun r => (r.cluster, r.kind, r.request)) =
        [(0, 0, some 0), (0, 0, some 0)]) ∧
    (after (.admitWaitExpiry 4) (waiting.modDie 4 fun d => { d with waitExpired := false }) = waiting ∧
      after (.admitWaitExpiry 5) waiting = waiting) ∧
    (let s := waiting.modDie 4 fun d => { d with waitExpired := false }
     after (.passStart 4 false) s = s) ∧
    after (.passStart 4 true) waiting = waiting ∧
    (let t := after (.passStart 4 false) waiting
     ((t.die 4).pass.map fun p => (p.trans, p.rows.length, p.unseated, p.started)) = some (false, 2, [], 4000000000) ∧
       (t.die 4).seatIndex = 1 ∧ (t.cab 1).counters.passes = 1 ∧ (t.cab 1).counters.rows = 2 ∧
       t.requests.map (fun q => (q.state, q.inPass, q.ready)) = [(RState.seated, true, 0)]) := by decide +kernel

def inPass : State := after (.passStart 4 false) waiting

def fillOf : PanelFill :=
  { buffer := 1, layer := 0, proj := 0, trans := false, fmt := 2, first := 0, panels := [⟨[List.replicate 4 0x3f80], [], []⟩] }

/-- A pass on a shelf whose one projection has K = 4 and N = 1. -/
def thin (s : State) : State :=
  s.modCab 1 fun c => { c with shelf := some { image with layers := [{ layer with projs := [{ proj := 0, k := 4, n := 1, adaptable := true }] }] } }

/-- PassesFlow: a fill of an empty buffer and of one that is not; the last position delivers token 99, and the last token ends the request. -/
theorem witness_pass_flow :
    (let s := thin inPass
     let t := after (.panelBufferFill ⟨4, 0⟩ fillOf) s
     ((s.logicalOf 4 0).isSome = true ∧ (s.die 4).map.Nodup ∧ s.shape = true ∧ (s.fillNext 1 4 fillOf).isSome = true) ∧
       (t.cluster 4 0).bufs[1]? = some { state := 1, own := 8192 / 8, fill := some fillOf } ∧ (t.die 4).panelNext = none ∧
       after (.panelBufferFill ⟨4, 0⟩ fillOf) t = t) ∧
    (let t := after (.passEnd 4 [(0, 99)]) inPass
     (t.die 4).pass = none ∧ (t.die 4).tokensOnWay = [0] ∧ t.requests.map (fun q => (q.delivered, q.out, q.inPass)) = [(1, [99], false)] ∧
       (after (.tokenIdsArrival 4) t).requests.map Request.ready = [1]) ∧
    (let s := inPass.modRequest 0 fun q => { q with delivered := 2 }
     (after (.passEnd 4 [(0, 99)]) s).requests.map (fun q => (q.state, q.code, q.delivered)) = [(RState.done, Code.ok, 3)]) := by
  decide +kernel

def aPass (trans : Bool) : Pass :=
  { seating := 5, trans := trans, rows := [], unseated := [], started := 0, tokens := [], clips := 0, withheld := false, mid := false }

theorem witness_pass_moves :
    after (.boundaryRowsArrival 4) idle = idle ∧
    (let s := idle.modDie 4 fun d => { d with onLink := [aPass false] }
     after (.boundaryRowsArrival 4) s = idle.modDie 4 fun d => { d with arrived := [aPass false] }) ∧
    (let s := idle.modDie 4 fun d => { d with pass := some (aPass true), segment := 3 }
     after (.segmentEnd 4) s = s.modDie 4 fun d => { d with pass := none, arrived := [{ aPass true with mid := true }], segment := 0 }) ∧
    (let s := idle.modDie 4 fun d => { d with pass := some (aPass false) }
     after (.segmentEnd 4) s = s) ∧
    (let b : ABlock := ⟨3, true, 1, 0, 0, none, []⟩
     after (.activationStoreBlockZeroing 4 3) (idle.modDie 4 fun d => { d with blocks := [b] }) = idle) ∧
    (let s := idle.modDie 4 fun d => { d with arrived := [aPass false] }
     ((after (.passStart 4 false) s).die 4).pass = some { aPass false with started := 4000000000 }) := by decide +kernel

/-- On a cabinet of span 2 the rows of position 0 go to the next die. -/
theorem witness_pass_hands_over :
    let row : SeatRow := ⟨0, 0, 0xffff, 1, 0x100, some 0, none, 0, 0, []⟩
    let s := ((waiting.modCab 1 fun c => { c with dies := 0x30, span := 2 }).modDie 4 fun d =>
      { d with pass := some { aPass false with rows := [row] } })
    (s.liveRows [row] = [row] ∧ posOf 2 4 = 0) ∧
      ((after (.passEnd 4 []) s).die 5).onLink.map (fun p => p.rows.map fun r => (r.request, r.cluster, r.pos, r.tag)) = [[(some 0, 0, 0, 0xffff)]] := by decide +kernel

/-! ## The vector engine -/

/-- A descriptor of the serving stream on CD04, cluster 0: streams 1 and 2 in the row region at units 0x20000 and 0x20100 (R198). -/
def vecWords : List Word :=
  [wd [(56, 0x10), (36, 64), (12, 1)], wd [(36, 7), (20, 1), (8, 1), (0, 1)], wd [(48, 0xffff)], 0, 0, wd [(32, 0x20000)],
   wd [(32, 0x20100)], 0, 0, 0, 0, 0]

def u0 : VUnit := ⟨4, 0⟩

/-- Every element of a register, `n` of `w` bits. -/
def splat (n w x : Nat) : BitVec 4096 := BitVec.ofNat 4096 (((List.range n).map fun i => x <<< (w * i)).sum)

/-- An engine with these registers, at the start of its body. -/
def eng (l : List (Nat × BitVec 4096)) : VEngine :=
  { VEngine.load u0 vecWords 0 0 with regs := l.foldl (fun rs p => updAt p.1 (fun _ => p.2) rs) (List.replicate 32 0) }

def vs (v : VEngine) : State := { work with vengines := [v] }
def ran (i : Instr) (v : VEngine) : VEngine := ((after i (vs v)).vengines.head?).getD v

/-- Class R fields: VD 3, VA 1, VB 2, VC 4, XF 7, so that VD's type is the source's. -/
def rf (ty : Fin 8) : RFields := ⟨ty, 3, false, 0, false, 1, 2, 4, false, 7, false, 0, false⟩

/-- FP32 registers: 1 holds 4.0, 2 holds 2.0, 4 holds 1.0. -/
def floats : VEngine := eng [(1, splat 128 32 0x40800000), (2, splat 128 32 0x40000000), (4, splat 128 32 0x3f800000)]

/-- The hypotheses of VecRuns, and of VecLanes: no mark is another owner's, no element of a type other than W is bad. -/
theorem witness_vector_runs : (vs floats).vReady u0 (wordR 0x01 (rf 0)) = some floats ∧ ((vs floats).vengines.map VEngine.u).Nodup ∧
    floats.regs.length = 32 ∧ floats.masks.length = 8 ∧ floats.regMarks.length = 32 ∧ floats.maskMarks.length = 8 ∧
    joinMarks 0xffff (floats.marksOf 0 1 ++ floats.marksOf 0 2) = some Mark.neutral ∧
    (vdesc vecWords).owner = 0xffff := by decide +kernel

theorem witness_no_bad_element (ty x : Nat) (h : ty ≠ 3) : badW ty x = false := by simp [badW, h]

def foreignMarks : VEngine := { floats with regMarks := updAt 1 (fun _ => ⟨1, 5⟩) (updAt 2 (fun _ => ⟨1, 6⟩) floats.regMarks) }

/-- R195: rows of two owners do not meet. -/
theorem witness_marks_differ : joinMarks 0xffff (foreignMarks.marksOf 0 1 ++ foreignMarks.marksOf 0 2) = none ∧
    (work.policy 2).on = false ∧ (ran (.vadd u0 (rf 0)) foreignMarks).stopped = true ∧
    (ran (.vadd u0 (rf 0)) foreignMarks).isolation = true ∧ (ran (.vadd u0 (rf 0)) foreignMarks).regs = foreignMarks.regs := by
  decide +kernel

/-- The same, with the first element alone active under m0. -/
def pf (ty : Fin 8) : RFields := { rf ty with men := true }
def first (v : VEngine) : VEngine := { v with masks := updAt 0 (fun _ => 1) v.masks }

/-- R204: 4 and 2, with 1 as the third operand. -/
theorem test_vector_arithmetic :
    ([Instr.vadd u0 (pf 0), .vsub u0 (pf 0), .vmul u0 (pf 0), .vfma u0 (pf 0), .vmin u0 (pf 0), .vmax u0 (pf 0), .vabs u0 (pf 0),
      .vneg u0 (pf 0), .vdiv u0 (pf 0), .vsqrt u0 (pf 0), .vmuldiv u0 (pf 0)].map fun i => (ran i (first floats)).elem 0 3 0) =
    [0x40c00000, 0x40000000, 0x41000000, 0x41100000, 0x40000000, 0x40800000, 0x40800000, 0xc0800000, 0x40000000, 0x40000000,
      0x41000000] := by decide +kernel

/-- The conversion of FP32 4.0 to BF16 into elements 0 to 127 (R206), and e^0 = 1. -/
theorem test_vector_convert :
    (ran (.vcvt u0 { pf 2 with xf := 0 }) (first floats)).elem 2 3 0 = 0x4080 ∧
    (ran (.vexp u0 (pf 0)) (first (eng []))).elem 0 3 0 = 0x3f800000 := by decide +kernel

/-- R203: under a mask with bit 0 of the first element only, others keep their value, or read 0 with ZM. -/
theorem test_vector_predicate :
    let v := { floats with masks := updAt 0 (fun _ => 1) floats.masks, regs := updAt 3 (fun _ => splat 128 32 7) floats.regs }
    let f : RFields := ⟨0, 3, true, 0, false, 1, 2, 4, false, 7, false, 0, false⟩
    ((ran (.vadd u0 f) v).elem 0 3 0, (ran (.vadd u0 f) v).elem 0 3 1) = (0x40c00000, 7) ∧
      ((ran (.vadd u0 { f with zm := true }) v).elem 0 3 0, (ran (.vadd u0 { f with zm := true }) v).elem 0 3 1) = (0x40c00000, 0) := by
  decide +kernel

/-- VCMP GT, the mask operations and MRANGE: bit 4 e of a mask stands for element e of a 32-bit type (R191). -/
theorem test_vector_masks :
    let f : RFields := ⟨0, 3, false, 0, false, 1, 2, 4, false, 4, false, 0, false⟩
    let v := { floats with masks := [0, 0x3, 0x5, 0, 0, 0, 0, 0] }
    ((ran (.vcmp u0 f) floats).maskBit 3 0, (ran (.vcmp u0 f) floats).maskBit 3 508) = (true, true) ∧
      (ran (.vcmp u0 { f with xf := 2 }) floats).maskBit 3 0 = false ∧
      ((ran (.mand u0 (rf 6)) v).masks.getD 3 0, (ran (.mor u0 (rf 6)) v).masks.getD 3 0) = (1, 7) ∧
      (ran (.mnot u0 (rf 6)) v).masks.getD 3 0 = ~~~(0x3 : BitVec 512) ∧
      ((ran (.mrange u0 ⟨6, 3, false, 0, false, 0x00040002⟩) v).masks.getD 3 0) = 0xc := by decide +kernel

theorem test_vector_bits :
    let v := eng [(1, splat 128 32 0xc), (2, splat 128 32 0xa)]
    let m := { v with masks := [0, 0, 0, 0, 1, 0, 0, 0] }
    ([Instr.vand u0 (rf 4), .vor u0 (rf 4), .vxor u0 (rf 4), .vshl u0 (rf 4), .vshr u0 (rf 4), .vsra u0 (rf 4)].map fun i =>
      (ran i v).elem 4 3 1) = [8, 0xe, 6, 0x3000, 0, 0] ∧
    (ran (.vbcast u0 ⟨4, 3, false, 0, false, 0x12345678⟩) v).elem 4 3 127 = 0x12345678 ∧
    ((ran (.vsel u0 (rf 4)) m).elem 4 3 0, (ran (.vsel u0 (rf 4)) m).elem 4 3 1) = (0xc, 0xa) := by decide +kernel

/-- R208: the sum of 128 times 4.0; a fully masked ARGMAX. R211: W 1.0 as BF16 and remainder, and back. R213: VGETF reads and clears. -/
theorem test_vector_reductions :
    (ran (.vred u0 { rf 0 with xf := 0 }) floats).reg 3 = 0x44000000 ∧
    (let f : RFields := { rf 3 with vd := 12, va := 8, vb := 10 }
     let w := eng [(8, splat 128 32 0xc0000000), (9, splat 128 32 0xff)]
     ((ran (.vsplit u0 f) w).elem 2 12 0, (ran (.vsplit u0 f) w).elem 6 13 0) = (0x3f80, 0)) ∧
    (let f : RFields := { rf 3 with vd := 12, va := 8, vb := 10 }
     (ran (.vjoin u0 f) (eng [(8, splat 256 16 0x3f80)])).elem 3 12 0 = 0xffc0000000) ∧
    (let v := { floats with flags := [((1, 0), 5)] }
     ((ran (.vgetf u0 { rf 6 with xf := 0 }) v).elem 6 3 0, (ran (.vgetf u0 { rf 6 with xf := 0 }) v).flag 1 0) = (5, 0)) := by
  decide +kernel

/-- CD04's cluster 0 with these bytes from unit 0x20000 on. -/
def rowsOf (v : VEngine) (bs : List Byte) : State :=
  { vs v with clusters := [{ die := 4, cl := 0, slots := [], lines := [], pieces := [], bufs := [], unitTags := [],
                             rowMem := (bs.zipIdx.map fun b => (0x800000 + b.2, b.1)).filter fun c => c.2 != 0 }] }
def head (s : State) : VEngine := (s.vengines.head?).getD floats
def rowNum (s : State) (a n : Nat) : Nat := (s.cluster 4 0).rowMem.num a n

/-- Class M fields: VD 4, VA 2 and an address stream. -/
def mf (ty : Fin 8) (as : Fin 8) : MFields := ⟨ty, 4, false, 0, false, 2, as, 0, 0⟩

/-- VLD and VLDB from stream 1, VST to stream 2 at unit 0x20100 (R200). -/
theorem test_vector_memory :
    let s := rowsOf floats (leBytes 4 0x3f800000 ++ leBytes 4 0x40000000)
    (let v := head (after (.vld u0 (mf 0 1)) s)
     [v.elem 0 4 0, v.elem 0 4 1, v.elem 0 4 127] = [0x3f800000, 0x40000000, 0]) ∧
    (head (after (.vldb u0 (mf 0 1)) s)).elem 0 4 127 = 0x3f800000 ∧
    (let t := after (.vst u0 { mf 0 2 with men := true }) (rowsOf (first floats) [])
     [rowNum t 0x804000 4, rowNum t 0x804004 4, rowNum t 0x803ffc 4] = [0x40000000, 0, 0]) := by
  decide +kernel

/-- The hypotheses of VectorMemory: the engine stands at the word, the place is there, its units are the shelf's. -/
theorem witness_vector_memory :
    let s := rowsOf floats (leBytes 4 0x3f800000)
    let r := floats.reach (vdesc vecWords) (wordM 0x30 (mf 0 1))
    s.vReady u0 (wordM 0x30 (mf 0 1)) = some floats ∧ s.vPlace? floats (vdesc vecWords) 1 r.1 = some (.rows 0x800000) ∧ r.2 = 512 ∧
      s.vWaits floats 512 (.rows 0x800000) = false ∧ s.loadMark floats (vdesc vecWords) (.rows 0x800000) 512 = some Mark.neutral ∧
      (s.storeBytes floats (vdesc vecWords) (.rows 0x800000) Mark.neutral [some 1]).isSome = true ∧
      floats.cursors.length = 8 ∧ floats.fbBytes.length = 8 := by decide +kernel

/-- VectorPackedRows: no unit of the cluster carries a mark. -/
theorem witness_shares_slots : SharesSlots ((rowsOf floats []).cluster 4 0) := fun _ _ _ => rfl

/-- A row of 64 MXFP8 (E4M3) codes: 0x38 is 1.0, scale byte 0x7F is 1, beyond the row +0 (R132, R210). -/
theorem test_mx_load :
    let s := rowsOf floats (List.replicate 64 0x38 ++ [0x7f, 0x80])
    let v := head (after (.vldmx u0 (mf 3 1)) s)
    [v.elem 3 4 0, v.elem 3 4 31, v.elem 3 4 64] = [0xffc0000000, 0xffc0000000, 0] ∧ v.elem 3 4 32 = 0x10000000000 ∧
      v.cursors.getD 1 9 = 128 := by decide +kernel

/-- FB16 rows: 64 BF16 elements stored and loaded again; beyond the row +0 (R145, R210). -/
theorem test_fb_round_trip :
    let s := rowsOf (eng [(2, splat 256 16 0x3f80)]) []
    let t := after (.vfbst u0 (mf 2 2)) s
    let b := head { t with vengines := t.vengines.map fun v => { v with cursors := List.replicate 8 0, fbBytes := List.replicate 8 0 } }
    let v := head (after (.vfbld u0 (mf 2 2)) { t with vengines := [b] })
    [v.elem 2 4 0, v.elem 2 4 63, v.elem 2 4 64] = [0x3f80, 0x3f80, 0] := by decide +kernel

/-- Tile 2 of engine 5 belongs to the serving stream as its logical tile 0; row 3, column 7 holds 1.0. -/
def tiled : State :=
  { vs (eng [(2, splat 128 32 0xc0000000), (3, splat 128 32 0xff)]) with
    grants := [{ stream := 1, die := 4, cl := 0, engine := 5, tiles := [2] }],
    tiles := [{ die := 4, cl := 0, engine := 5, pt := 2, owner := some 1, pair := false, sat := true,
                entries := [((3, 7), 0xffc0000000)], rowMarks := [] }] }

theorem test_tiles :
    (tiled.tileBusy (head tiled) 5 [0] = false ∧ (tiled.vTiles? (head tiled) 5 [0]).isSome = true) ∧
    (let v := head (after (.tld u0 ⟨4, false, 0, false, 0, 5, 0, 3, false⟩) tiled)
     [v.elem 3 4 7, v.elem 3 4 8] = [0xffc0000000, 0]) ∧
    (let t := after (.tst u0 ⟨0, false, 0, false, 2, 5, 0, 4, false⟩) tiled
     ((t.tile 4 0 5 2).entry 4 0, (t.tile 4 0 5 2).entry 3 7, (t.tile 4 0 5 2).entry 5 0, (t.tile 4 0 5 2).sat) =
       (0xffc0000000, 0xffc0000000, 0, true)) := by decide +kernel

/-! ## SPDM, reports, power, clocks -/

/-- Each request is answered on the management route by the active die; it waits where no RoTP runs, and is answered once one does. -/
theorem witness_spdm : up.responder .management = some 0 ∧
    (after (.getVersion .management) up).rot.spdmOut = [(.management, .version 1 3)] ∧
    (after (.spdmUnsupportedRequest .management 0x82) up).rot.spdmOut = [(.management, .unsupportedRequest 0x82)] ∧
    (after (.getCertificate .management 1) up).rot.spdmOut = [(.management, .unsupportedRequest 0x82)] ∧
    (after (.getMeasurements .management 0 5) up).rot.spdmOut = [(.management, .unsupportedRequest 0xe0)] ∧
    (after (.getMeasurements .management 9 5) up).rot.spdmOut = [(.management, .unsupportedRequest 0xe0)] ∧
    (up.routeCab .management = none ∧
      (after (.getMeasurements .management 0xf1 5) up).rot.spdmOut = [(.management, .unsupportedRequest 0xe0)]) ∧
    work.routeCab (.edge 0 (some 0) 7) = some 1 ∧ (up.reaches .management, up.reaches (.edge 0 (some 9) 7)) = (true, false) ∧
    (after (.getVersion (.edge 0 (some 9) 7)) up) = up ∧ (after (.getVersion (.edge 0 none 7)) up).rot.spdmOut = [(.edge 0 none 7, .version 1 3)] ∧
    (let s := up.modCt 0 fun c => { c with side := 3 }
     s.reaches .management = true ∧ s.responder .management = none ∧
     (after (.getVersion .management) s).rot.spdmHeld = [(.management, .version)] ∧
     ((after (.getVersion .management) s).modCt 0 fun c => { c with side := 0 }).answerHeld.rot.spdmOut = [(.management, .version 1 3)]) ∧
    (let s := after (.modResetNRelease { someFacts with slow := [0, 1] }) State.reset
     s.responder .management = some 0 ∧ s.reportState 0 = 2) := by decide +kernel

def report12 : Report :=
  { cls := 12, severity := 2, block := 9, unit := 0, die := 0, cab := none, d2 := 0, d3 := 0, touched := [] }

theorem witness_reports : up.cpRuns = true ∧ ((up.policy 1).on, (up.policy 2).on, (up.policy 6).on) = (false, false, false) ∧
    (let t := after (.faultReport report12) up
     (t.ct 0).log.length = 1 ∧ (t.ct 0).logSeq = 1 ∧ (t.ct 1).log = [] ∧ t.quiet = (let u := reported up report12; u).quiet) ∧
    after (.faultReport { report12 with cls := 13 }) up = up ∧
    (after (.linkEvent 7 3 7 true) up).quiet =
      (reported up { report12 with cls := 10, block := 7, unit := 3, d2 := wd [(32, 7)] }).quiet ∧
    (let x : Sensor := ⟨1, 0, 3, 5⟩
     after (.thermalWarnRepeat x) up = up ∧ (after (.thermalWarn x) up).cp.warm = [x] ∧
       ((after (.thermalWarnRepeat x) (after (.thermalWarn x) up)).ct 0).log.length = 1) := by decide +kernel

/-- R446: a CORRECTED report of the same place within a second raises REPEAT of its entry, and no entry is added. -/
theorem test_log_repeat :
    let e : LogEntry := reportEntry { report12 with severity := 0 } 1000 0xff 0
    let x := (CtDie.reset.logOne e (fun _ => 1000) 1000 true).1
    x.log.length = 1 ∧ x.logSeq = 1 ∧ (x.logOne e (fun _ => 1000) 2000 true).1.log.length = 1 ∧
      (x.logOne e (fun _ => 1000) 2000 false).1.log.length = 2 := by decide +kernel

theorem witness_trip :
    (let x : Sensor := ⟨10, 0, 0, 1⟩
     let t := after (.thermalTrip x) up
     up.power.pwrOk = true ∧ t.power.pwrOk = false ∧ t.power.lockedOff = true ∧ t.power.started = false ∧ after (.thermalTrip x) t = t) ∧
    (let x : Sensor := ⟨1, 0, 3, 1⟩
     let t := after (.thermalTrip x) work
     work.power.dataRails = true ∧ t.cp.tripped = true ∧ t.power.dataRails = false ∧ t.power.started = true ∧
       (∀ d ∈ t.dies, d.inService = false) ∧ t.rot.sessions = [] ∧ after (.thermalTrip x) t = t) := by decide +kernel

theorem witness_telemetry :
    after (.powerWindow 1 5 []) up = up ∧ after (.temperatureWindow 100000000 []) up = up ∧ after (.counterSample 1) up = up ∧
    (let t := after (.powerWindow 100000000 75000 [24999, 25000]) up
     t.telem.modulePower = 2 ∧ t.telem.cabPower.take 3 = [0, 1, 0] ∧ t.telem.powerTime = 100000000) ∧
    (after (.temperatureWindow 1000000000 [45499, 45500]) up).telem.temps.take 2 = [45, 46] ∧
    (let s := up.modCab 2 fun c => { c with counters := { c.counters with passes := 2047, rows := 1024 } }
     (after (.counterSample 1000000000) s).telem.counts[2]? = some [1024, 1024, 0, 0, 0, 0]) := by decide +kernel

theorem witness_power :
    (let s := up.modPower fun p => { p with throttle := 5 }
     [(after (.throttleStep 10000001) s).power.throttle, (after (.throttleStep 10000000) s).power.throttle,
       (after (.throttleStep 9700000) s).power.throttle, (after (.throttleStep 9699999) s).power.throttle] = [6, 5, 5, 4]) ∧
    (after (.throttleStep 99999999) (up.modPower fun p => { p with throttle := 48 })).power.throttle = 48 ∧
    after (.throttleStep 99999999) State.reset = State.reset ∧
    after .throttleHeld up = up ∧
    ((after .throttleHeld (up.modPower fun p => { p with throttle := 48 })).ct 0).log.length = 1 ∧
    (let t := after (.powerFault 1) up
     t.power.bladeFault = [false, true] ∧ t.power.effective = 5500 ∧ (after .bladeInRating t).power.bladeFault = [false, false]) ∧
    [(after (.powerLimitWatts 4000) up).power.limit, (after (.powerLimitWatts 3950) up).power.limit,
      (after (.powerLimitWatts 10001) up).power.limit] = [4000, 10000, 10000] ∧
    ((after (.activePreference 1) up).power.preferred, (after (.startLimitSeconds 60) up).power.startLimit) = (1, 60) ∧
    (after (.operatorKeyId 9) up).cts.map CtDie.opKeyNext = [9, 9] := by decide +kernel

/-- PowerAndReset: input lost and back, MOD_RESET_N, overvoltage, no reference clock. -/
theorem witness_power_cycle :
    (let t := after .inputTurnOff work
     t.power.pwrOk = false ∧ t.streams = [Stream.module] ∧ t.runs = [] ∧ (after .inputTurnOn t).power.pwrOk = true) ∧
    after .inputTurnOn up = up ∧
    (let t := after .overvoltage up
     t.power.lockedOff = true ∧ after .inputTurnOn t = t) ∧
    (let t := after .modResetNAssert work
     t.power.resetLow = true ∧ t.rot.tenants = [] ∧ t.power.pwrOk = true ∧
       after (.modResetNRelease { someFacts with clock := none }) t = t.modPower fun p => { p with resetLow := false }) ∧
    after (.modResetNRelease someFacts) up = up := by decide +kernel

/-- ModuleStarts: both dies ready, the preferred one in recovery, the preferred one slow. -/
theorem witness_start :
    (State.reset.power.pwrOk = true ∧ State.reset.power.resetLow = true) ∧
    (let t := after (.modResetNRelease someFacts) State.reset
     (t.side 0, t.side 1, t.cp.active, t.power.started, t.rot.bootCount) = (0, 1, 0, true, 1) ∧ t.dies.length = 16 ∧
       (∀ d ∈ t.dies, d.inService = true)) ∧
    (let t := after (.modResetNRelease { someFacts with recovery := [0] }) State.reset
     (t.side 0, t.side 1, t.cp.active, t.power.choice) = (6, 0, 1, some 1)) ∧
    (let t := after (.modResetNRelease { someFacts with slow := [0] }) State.reset
     (t.side 0, t.side 1) = (2, 2) ∧ (let u := after .startLimit t; (u.side 0, u.side 1, u.cp.active) = (2, 0, 1))) := by decide +kernel

/-- Eight images, one of each stage from 1 to 8, signed under RALUM_ROOT_ID. -/
def imageSet : List BootImage := (List.range 8).map fun n => { someImage (n + 1) with svn := 3 }

theorem witness_control_dies :
    after .startLimit up = up ∧
    (after (.controlDieReset 0 true) duo).side 0 = 3 ∧
    ((after (.controlDieReset 1 true) duo).side 1, (after (.controlDieReset 1 false) duo).side 1) = (1, 6) ∧
    (let t := after (.controlDiePower 1 false) duo
     t.side 1 = 4 ∧ t.hasStandby = false ∧ after (.controlDieReset 1 true) t = t ∧ (after (.controlDiePower 1 true) t).side 1 = 1) ∧
    after (.controlDiePower 0 false) duo = duo ∧
    (let s := duo.modCt 1 fun c => { c with pendingImgs := imageSet }
     ((after (.updateService 1 (imageSet.take 7 ++ [someImage 7])) s).ct 1).pendingImgs = []) := by decide +kernel

/-- CT1's operator key id is RALUM_ROOT_ID here, so that one key signs every stage. -/
def keyed : State := duo.modCt 1 fun c => { c with opKeyNext := Config.ralumRootId }

/-- FirmwareIsStaged: a set of eight images that pass (R369). -/
theorem witness_firmware :
    (keyed.power.started = true ∧ keyed.ctLives 1 = true ∧ keyed.cts.length = 2) ∧ imageSet.length = 8 ∧
      (∀ n, n < 8 → (imageSet.filter fun x => x.stage == n + 1).length = 1) ∧
      ∀ x ∈ imageSet, x.verified = true ∧ x.keyId = (keyed.ct 1).requiredKey x.stage ∧
        ((keyed.ct 1).svnMin.getD x.stage 0).toNat ≤ x.svn.toNat := by
  refine ⟨by decide +kernel, by decide +kernel, by decide +kernel, fun x hx => ?_⟩
  obtain ⟨n, hn, rfl⟩ := List.mem_map.1 hx
  refine ⟨rfl, ?_, ?_⟩
  · simp only [CtDie.requiredKey]
    split <;> rfl
  · exact (by decide +kernel : ∀ n ∈ List.range 8, ((keyed.ct 1).svnMin.getD (n + 1) 0).toNat ≤ 3) n hn

theorem witness_clocks :
    after (.refclkSwitch []) up = (up.modPower fun p => { p with refclk := 1 }) ∧
    after (.refclkSwitch []) (after (.refclkSwitch []) up) = after (.refclkSwitch []) up ∧
    after .ppsIn State.reset = State.reset ∧ (after .ppsIn up).power.ppsSeen = true ∧
    after .holdover up = up ∧
    (let t := after (.ptpLock 5000000000) up
     (t.now, t.power.ptp, t.power.stepTo, t.power.stepBy) = (5000000000, 1, 5000000000, 1000000000) ∧
       (after .holdover t).power.ptp = 2 ∧ (after (.ptpLock 9) (after .holdover t)).power.ptp = 1 ∧ (after (.ptpLock 9) t).now = 5000000000) ∧
    (let t := after (.ptpLock 4000000000) up
     (t.now, t.power.ptp, t.power.stepBy) = (4000000000, 1, 0)) ∧
    ((after (.ptpLock 5000000000) (timed true)).cp.timers.all fun x => decide (5000000000 ≤ x.due)) = true := by decide +kernel

/-! ## Edge ports and sessions -/

/-- Edge die 0 answers to address 7 on VLAN 0; a protected or unprotected datagram for it. -/
def addressed : State :=
  work.modEdge 0 fun x => { x with addrs := updAt 0 (fun _ => ⟨false, true, 0, 1518, 7⟩) x.addrs }
def datagram (w0 w1 : Nat) (sumsOk : Bool) : Frame :=
  { someFrame with dst := 7, dstPort := 28442, sumsOk := sumsOk, datagram := leBytes 8 w0 ++ leBytes 8 w1 }
def rx (s : State) : State := s.modEdge 0 fun x => { x with rxFrames := x.rxFrames + 1 }
def lost (s : State) : State := s.modEdge 0 fun x => { x with rxFrames := x.rxFrames + 1, discarded := x.discarded + 1 }

theorem witness_frames :
    (let s := work.modEdge 0 fun x => { x with linkUp := false }
     after (.frameReceive 0 someFrame) s = s) ∧
    after (.frameReceive 0 { someFrame with bytes := 9217 }) work = lost work ∧
    after (.frameReceive 0 { someFrame with pause := true }) work = lost work ∧
    after (.frameReceive 0 (datagram (2 ^ 56 + 0x10 <<< 48) 0 false)) addressed = lost addressed ∧
    after (.frameReceive 0 (datagram (2 ^ 56 + 0x10 <<< 48) 0 true)) addressed = rx addressed ∧
    after (.frameReceive 0 (datagram (2 ^ 56 + 0x10 <<< 48 + 1 <<< 35) 0 true)) addressed = lost addressed ∧
    after (.frameReceive 0 (datagram (2 ^ 56 + 3 <<< 48) 0 true)) addressed = lost addressed ∧
    after (.frameReceive 0 (datagram (2 ^ 56 + 1 <<< 48 + 1 <<< 8) 0 true)) addressed = lost addressed ∧
    after (.frameReceive 0 (datagram (2 ^ 56 + 1 <<< 48) (5 <<< 32) true)) addressed = rx addressed := by decide +kernel

/-- Two fragments of message 5: the first is held, the second completes it; another total does not fit. -/
theorem witness_fragments :
    let t := after (.frameReceive 0 (datagram (2 ^ 56 + 1 <<< 48 + 1) (5 <<< 32) true)) addressed
    (t.edge 0).frags = [⟨5, 2, [0]⟩] ∧
      ((after (.frameReceive 0 (datagram (2 ^ 56 + 1 <<< 48 + 1 <<< 8 + 1) (5 <<< 32) true)) t).edge 0).frags = [] ∧
      after (.frameReceive 0 (datagram (2 ^ 56 + 1 <<< 48 + 2) (5 <<< 32) true)) t = lost t ∧
      ((after (.fragmentTimeout 0 5) t).edge 0).frags = [] := by decide +kernel

def ring (copyBad : Bool) : ERing := { installed := true, base := 0x1000, count := 64, irq := true, copyBad := copyBad, nextDesc := 63 }

/-- Receive ring 0 and transmit ring 0, their descriptors at 0x13f0: 60 bytes at 0x8000, owned by the edge die. -/
def ringed (k : Nat) : State :=
  (work.modEdge 0 fun x => { x with rings := updAt k (fun _ => ring false) x.rings }).writeCtl 0x13f0
    (leBytes 8 0x8000 ++ leBytes 8 (60 <<< 48 + 1 <<< 47))

def content : List Byte := List.replicate 59 0 ++ [9]

theorem witness_rings :
    after (.frameReceive 0 someFrame) work = (work.modEdge 0 fun x => { x with rxFrames := 1, rxNoDesc := 1 }) ∧
    after (.frameReceive 0 { someFrame with fcsOk := false }) (ringed 0) = lost (ringed 0) ∧
    (let t := after (.frameReceive 0 { someFrame with hash := 8, content := content }) (ringed 0)
     (t.ct 0).mem.read 0x803b 1 = [9] ∧ (t.ct 0).mem.num 0x13f8 8 = 60 <<< 48 + 8 ∧
       (((t.edge 0).rings.getD 0 ERing.reset).nextDesc, (t.edge 0).ringIrqs) = (0, [0])) ∧
    after (.txRingPoll 0 0) work = work ∧
    (let t := after (.txRingPoll 0 0) (ringed 8)
     (t.edge 0).out = [.frame 0 (List.replicate 60 0)] ∧ (t.ct 0).mem.num 0x13f8 8 = 60 <<< 48 ∧ (t.edge 0).txFrames = 1 ∧
       after (.txRingPoll 0 0) t = t) ∧
    (let s := (ringed 8).writeCtl 0x13f0 (leBytes 8 0x8001)
     ((after (.txRingPoll 0 0) s).edge 0).discarded = 1) := by decide +kernel

theorem witness_edges :
    (let s := work.modEdge 0 fun x => { x with linkUp := false }
     after (.linkUp 0) s = work ∧ after (.linkUp 0) State.reset = State.reset) ∧
    after (.edgeEvent 0 1) State.reset = State.reset ∧
    (let t := after (.edgeEvent 0 0) work
     (t.edge 0).linkUp = false ∧ (t.edge 0).inService = true ∧ (t.ct 0).log.length = 1) ∧
    (let t := after (.edgeEvent 0 2) (work.modEdge 0 fun x => { x with attach := 1 })
     (t.edge 0).inService = true ∧ (t.edge 0).attach = 1) ∧
    (let t := after (.edgeEvent 0 1) (work.modEdge 0 fun x => { x with attach := 1 })
     (t.edge 0).inService = false ∧ t.rot.sessions = []) := by decide +kernel

/-- The key bound to tenant 42 is 0, and its digest here stands for that of an empty key. -/
theorem witness_session_init :
    (let s := work.modEdge 0 fun x => { x with inService := false }
     after (.sessionInit 0 someInit) s = s) ∧
    (work.repeated 0 someInit = none ∧ work.boundKey 43 = none ∧
      ((after (.sessionInit 0 { someInit with tenant := 43 }) work).edge 0).out =
        [.plain 0 0 4 0 (leBytes 4 Code.tenantUnknown ++ List.replicate 4 0)]) ∧
    ((after (.sessionInit 0 { someInit with sigOk := false }) work).edge 0).out =
      [.plain 0 0 4 0 (leBytes 4 Code.sessionAuthFailed ++ List.replicate 4 0)] ∧
    work.freeSession 0 = some 1 := by decide +kernel

def recordOf (counter : Nat) (tagOk : Bool) : Record := { session := 0, counter := word counter, tagOk := tagOk, src := 8, srcPort := 9, ack := ⟨1, 0⟩ }
def msg : List Word := [header0 0x0065 7 5 0 0, 0]

theorem witness_records_taken :
    (let s := work.modRot fun r => { r with sessions := [] }
     after (.dataRecord (recordOf 0 true) [msg] 0) s = s ∧ after (.closeRecord (recordOf 0 true)) s = s) ∧
    after (.dataRecord (recordOf 0 false) [msg] 0) work = (work.modSession 0 fun y => { y with discarded := 1 }) ∧
    (let s := work.modSession 0 fun y => { y with rxHigh := some 100, seen := [36] }
     opened.takes 0 = true ∧ after (.dataRecord (recordOf 36 true) [msg] 0) s =
         (s.modSession 0 fun y => { y with src := 8, srcPort := 9, discarded := 1, ackDue := true })) ∧
    (let t := after (.dataRecord (recordOf 37 true) [msg] 0) (work.modSession 0 fun y => { y with rxHigh := some 100, seen := [36] })
     t.rot.sessions.map (fun y => (y.inbox, y.seen.contains 37, y.src, y.discarded)) = [([msg], true, 8, 0)]) ∧
    (after (.dataRecord (recordOf (2 ^ 48) true) [msg] 0) work).rot.sessions = [] ∧
    (after (.closeRecord (recordOf 0 true)) work).rot.sessions = [] ∧
    (takeMessages [msg, msg.take 1], takeMessages [[header0 0x0065 7 5 0 4, 0], msg]) = (([msg], 1), ([[header0 0x0065 7 5 0 4, 0]], 0)) := by
  decide +kernel

theorem witness_acks :
    after (.ackRecord (recordOf 0 true)) work = (work.modSession 0 fun y => { y with discarded := 1 }) ∧
    (let s := work.modSession 0 fun y => { y with unacked := [⟨0, false, 0, 0, [], 1, 200⟩] }
     let t := after (.ackRecord (recordOf (2 ^ 63) true)) s
     t.rot.sessions.map (fun y => (y.ackHigh, y.unacked)) = [(some (2 ^ 63), [])] ∧
       after (.ackRecord (recordOf (2 ^ 63) true)) t = (t.modSession 0 fun y => { y with discarded := 1 })) ∧
    (after (.ackRecord (recordOf (2 ^ 63 + 2 ^ 48) true)) work).rot.sessions = [] ∧
    (let u : SentRecord := ⟨3, false, 0, 0, [msg], 1, 40000⟩
     let s := work.modSession 0 fun y => { y with unacked := [u] }
     (after (.recordResend 0 3) s).rot.sessions.map Session.unacked = [[{ u with sends := 2, intervalUs := 50000 }]] ∧
       ((after (.recordResend 0 3) s).edge 0).txFrames = 1 ∧ after (.recordResend 0 4) s = s) ∧
    after (.ackTimer 0) work = work ∧
    (let t := after (.ackTimer 0) (work.modSession 0 fun y => { y with ackDue := true })
     t.rot.sessions.map (fun y => (y.ackDue, y.txAckNext)) = [(false, 1)] ∧
       (t.edge 0).out = [.record 0 0x11 (2 ^ 63) 0 opened.ackMap [] 0 0]) := by decide +kernel

/-! ## Memory pages, sectors, the aperture, the lattice -/

/-- Stack 8 of CD04: page 0 holds a drawer under glove 0x100, page 1 is the operator's, page 2 is being filled. The glove is cached. -/
def pageAt (n : Fin 32768) (kind : Fin 16) (glove : BitVec 16) (zeroing : Bool) : Page :=
  { Page.reset 8 n with kind := kind, glove := glove, cab := 1, zeroing := zeroing }
def base : Nat := 8 * 2 ^ 36
def paged : State :=
  { work with mem := [(base, 7), (base + 63, 9), (base + 2 ^ 22, 5)],
              pages := [pageAt 0 PKind.drawer 0x100 false, pageAt 1 PKind.operator 0 false, pageAt 2 PKind.kv 0x100 true] }.modStk 8 fun x =>
    { x with cache := [(0x100, 1)] }
def reader (source : MemSource) : Accessor := ⟨0x100, 1, source, ⟨0, 0, 0, 0, none, none⟩⟩
def at8 (n : Nat) : BitVec 41 := BitVec.ofNat 41 (base + n)

/-- R345, R346, R352, R353: no error; one symbol in error; two; an access of another glove; a page being filled; a stack without service. -/
theorem witness_sector_read :
    let go := fun (n : Nat) (err : List (Fin 73 × Byte)) => after (.sectorRead (at8 n) (reader .engine) err (at8 n)) paged
    ((paged.stk (stackOf base)).inService = true ∧ (paged.page (stackOf base) (pageOf base)).zeroing = false ∧
      (reader .engine).glove ∈ (paged.stk (stackOf base)).cache.map Prod.fst) ∧ (paged.memsWf = true ∧ paged.hbm.length = 32) ∧
    ((paged.page 8 0).serves (reader .engine) false = true ∧ (go 0 []).sector = ⟨0, 7 :: List.replicate 62 0 ++ [9]⟩) ∧
    ((go 0 [(63, 5)]).sector = ⟨0, 7 :: List.replicate 62 0 ++ [9]⟩ ∧ ((go 0 [(63, 5)]).stk 8).corrected = 1) ∧
    (decodeSector (errorOf [(3, 1), (9, 2)] base base) = .uncorrectable ∧
      (go 0 [(3, 1), (9, 2)]).sector = ⟨Code.dataUncorrectable, []⟩ ∧ ((go 0 [(3, 1), (9, 2)]).stk 8).uncorrectable = 1) ∧
    ((go (2 ^ 21) []).sector.code = Code.pageAccessFault ∧ go (2 ^ 22) [] = paged) ∧
    (let t := after (.sectorRead (at8 0) (reader .engine) [] (at8 64)) paged
     t.sector.code = Code.dataUncorrectable ∧ (t.stk 8).mismatch = 1) := by decide +kernel

/-- R347, R349: a whole sector is written; part of one waits in the merge buffer until it is flushed. -/
theorem witness_sector_write :
    let part := Instr.sectorWrite (at8 0) (reader .engine) 60 [1, 2] []
    let t := after part paged
    (after (.sectorWrite (at8 64) (reader .engine) 0 (List.replicate 64 3) []) paged).mem.read (base + 63) 3 = [9, 3, 3] ∧
    (t.sector = ⟨0, []⟩ ∧ t.mem = paged.mem ∧ t.merges.map MergeEntry.bytes = [[(60, 1), (61, 2)]]) ∧
    ((after (.mergeFlush 8 0 []) t).mem.read (base + 59) 5 = [0, 1, 2, 0, 9] ∧ (after (.mergeFlush 8 0 []) t).merges = []) ∧
    after (.mergeFlush 8 1 []) t = t ∧
    (after (.sectorWrite (at8 0) { reader .engine with glove := 0x200 } 0 [1] []) paged).sector.code = Code.pageAccessFault := by
  decide +kernel

/-- R339: the fill ends with zeros everywhere in the page. -/
theorem witness_fill : (paged.page 8 2).zeroing = true ∧
    (let t := after (.allocationFill 8 2) paged
     t.mem = [(base, 7), (base + 63, 9)] ∧ (t.page 8 2).zeroing = false ∧ t.page 8 0 = paged.page 8 0) ∧
    after (.allocationFill 8 0) paged = paged := by decide +kernel

/-- R342: glove 0x100 rotates to generation 1. -/
def sweeping (mark : Fin 32768) : State :=
  let s := { paged with rot := { paged.rot with gloves := [{ tenantGlove with gen := 1, phase := 3, prevHeld := true, prevPages := 2 }] } }
  s.setPage { s.page 8 0 with mark := mark, sweep := decide (0 < mark.val) }
theorem witness_sweep :
    (let t := after (.sweepStep 8 0 []) (sweeping 0)
     ((t.page 8 0).sweep, (t.page 8 0).mark, (t.page 8 0).keyGen) = (true, 1, 0)) ∧
    (let t := after (.sweepStep 8 0 []) (sweeping 32767)
     ((t.page 8 0).sweep, (t.page 8 0).mark, (t.page 8 0).keyGen) = (false, 0, 1)) ∧
    after (.sweepStep 8 0 []) paged = paged := by decide +kernel

/-- R355: patrol reads sector 5 next; after it the WITHDRAWN page 0 has no more of its sectors read. -/
theorem witness_patrol :
    let s := paged.modStk 8 fun x => { x with patrolNext := 5 }
    (s.patrolSector 8 5 = 5 ∧ ((after (.patrolScrub 8 5 []) s).stk 8).patrolNext = 6 ∧ after (.patrolScrub 8 6 []) s = s) ∧
    (let s := s.setPage { s.page 8 0 with kind := PKind.withdrawn }
     s.patrolSector 8 5 = 32768) ∧
    (let s := s.modStk 8 fun x => { x with patrolNext := 2 ^ 30 - 1 }
     let t := after (.patrolScrub 8 (BitVec.ofNat 30 (2 ^ 30 - 1)) []) s
     (t.stk 8).patrolNext = 0 ∧ (t.stk 8).patrolTime = s.now) := by decide +kernel

theorem witness_on_die : after (.onDieRead 8 0) paged = paged ∧ ((after (.onDieRead 8 3) paged).stk 8).onDie = 3 ∧
    ((after (.onDieRead 8 3) paged).ct 0).log.length = 1 := by decide +kernel

/-- R348: the aperture: plaintext of an operator page, ciphertext of another, a free page, an address outside. -/
theorem witness_aperture :
    let addr := fun (n : Nat) => BitVec.ofNat 48 (0x10000000000 + base + n)
    let s := { paged with mem := paged.mem.write (base + 2 ^ 21) [1, 2] }
    (s.memsWf = true ∧ (s.ct 0).reached8 = true ∧ apertureOf (addr (2 ^ 21)).toNat 2 = some (base + 2 ^ 21)) ∧
    ((after (.hbmApertureRead 0 (addr (2 ^ 21)) 2) s).bus = ⟨0, false, [1, 2]⟩) ∧
    (sectorsOf base 2 = [base] ∧ (s.page 8 0).kind = PKind.drawer ∧ (after (.hbmApertureRead 0 (addr 0) 2) s).bus.fault = false) ∧
    ((after (.hbmApertureRead 0 (addr (2 ^ 23)) 2) s).bus = ⟨0, true, []⟩) ∧
    (apertureOf 0 2 = none ∧ (after (.hbmApertureRead 0 0 2) s).bus = ⟨0, true, []⟩) ∧
    ((after (.hbmApertureWrite 0 (addr (2 ^ 21)) [4]) s).mem.read (base + 2 ^ 21) 2 = [4, 2]) ∧
    ((after (.hbmApertureWrite 0 (addr 0) [4]) s).bus = ⟨0, true, []⟩ ∧ (after (.hbmApertureWrite 0 (addr 0) [4]) s).mem = s.mem) := by
  decide +kernel

/-- R23: a packet of CAB1 on CD04, under its shelf's glove; the same again; one of another cabinet; one under a glove not held. -/
theorem witness_lattice :
    let p : Packet := { somePacket with src := .die 5, dst := 4, cab := 1, glove := 0 }
    let t := after (.latticePacket p) work
    (work.cabOfDie 4 = some 1 ∧ (t.die 4).packets = [p] ∧ after (.latticePacket p) t = t) ∧
    (((after (.latticePacket { p with cab := 2 }) work).ct 0).log.length = 1) ∧
    (work.holdsGen 4 0x100 false = false ∧ ((after (.latticePacket { p with glove := 0x100 }) work).ct 0).log.length = 1 ∧
      (after (.latticePacket { p with glove := 0x100 }) work).dies = work.dies) := by decide +kernel

/-! ## Matrix descriptors -/

/-- The job of `withProgram [fwdWords]` in phase 1, cluster 0 of CD04 with rows [1, 2, 3, 4] and [1, 1, 1, 1] in BF16. -/
def seated : State :=
  { after (.jobStart 6 0) (after (.submitJob box (ask 6 (jobWords 0 1 1 0))) (withProgram [fwdWords] [])) with
    clusters := [{ die := 4, cl := 0, slots := [], lines := [], pieces := [], unitTags := [],
                   bufs := [⟨1, 0, some fillOf⟩, ⟨0, 0, none⟩],
                   rowMem := ((leBytes 8 0x4080404040003f80 ++ List.replicate 56 0 ++ leBytes 8 0x3f803f803f803f80).zipIdx.map
                     fun (b : Byte × Nat) => (0x800000 + b.2, b.1)).filter fun c => c.2 != 0 }] }
/-- The descriptor with STREAM filled (R109), a column of ones as its weights. -/
def fwd : MatIssue :=
  { die := 4, jobSeq := 0, opIndex := 0, words := updAt 0 (fun w => w + wd [(12, 6)]) fwdWords,
    weights := ⟨[List.replicate 4 0x3f80], [], []⟩, bias := ⟨0, []⟩, elems := ⟨0, []⟩ }
def fwdIssue : Option Issue := seated.issue? 4 0 0 fwd.words 1 (some false)

/-- The hypotheses of MatrixMayIssue and of both statements about it; a job's tiles were granted when it started (R85). -/
theorem witness_matrix_may_issue :
    let d := mdesc fwd.words
    let cs := seated.namedClusters 4 1
    (d.op = 1 ∧ fwd.words.length = 8 ∧ d.invalid = false ∧ d.clusterMask = 1 ∧ d.bsrc = 0 ∧ d.trans = false) ∧
    (fwdIssue.map (fun x => (x.cab, x.st, x.job.map Job.seq, x.pass.isNone)) = some (1, 6, some 0, true)) ∧
    (cs = [(0, 0)] ∧ Nat.log2 d.clusterMask < (seated.die 4).map.length ∧ (seated.die 4).map.Nodup) ∧
    ((fwdIssue.map fun x =>
        let u := ((seated.wearFor x 4 cs).servingTiles x 4 d cs).getD seated
        (seated.matrixWaits x fwd d cs, ((seated.wearFor x 4 cs).servingTiles x 4 d cs).isSome,
          (u.foreignRows x d (u.operands x fwd) 4 cs).isEmpty)) = some (false, true, true)) ∧
    ((seated.policy 1).on, (seated.policy 2).on, (seated.policy 6).on) = (false, false, false) ∧
    ((fwdIssue.map fun x => ((seated.rowSide x d 4 (seated.rowInfo x d 4 0 0 1) []).isNone, (seated.rowInfo x d 4 0 0 1).out)) =
      some (true, false)) ∧
    seated.ownsTiles 6 4 0 d = true ∧ (∀ g ∈ seated.grants, g.tiles.Nodup) := by decide +kernel

/-- R80, R82, R113, R180: 1 + 2 + 3 + 4 and 1 + 1 + 1 + 1 in tile entries (0, 0) of engines 0 and 4, and in the output tensor as BF16. -/
theorem test_shelf_fwd :
    let d := mdesc fwd.words
    let t := after (.shelfFwd fwd) seated
    (d.eng 0 0 = 0 ∧ d.eng 1 0 = 4 ∧ d.key 1 0 = (0, 0) ∧ d.kept 0 = true) ∧
    ((assocGet (0, 0) (t.ltile 6 4 0 0 0).entries).map (fun v => af v.toNat) = some (af (roundAF (.fin false 10 0)).1)) ∧
    ((assocGet (0, 0) (t.ltile 6 4 0 4 0).entries).map (fun v => af v.toNat) = some (af (roundAF (.fin false 4 0)).1)) ∧
    (t.flights.map fun f => (f.stream, f.phase, f.traps, f.isolation)) = [(6, 2, [], false)] ∧
    ((t.tensors.filter fun b => b.handle == 0x55).map fun b => b.data.take 2) = [[(0, 0x20), (1, 0x41)]] := by decide +kernel

/-- A descriptor of another op, one whose job has not started, one again while its tiles are in flight. -/
theorem witness_matrix_waits :
    after (.shelfBwd fwd) seated = seated ∧
    (let s := { seated with jobs := [] }
     seated.issue? 4 0 1 fwd.words 1 (some false) = none ∧ after (.shelfFwd fwd) s = s) ∧
    (let t := after (.shelfFwd fwd) seated
     after (.shelfFwd fwd) t = t) := by decide +kernel

/-- R86: the tiles are another stream's; the job ends and the isolation fault is logged. -/
theorem witness_tiles_not_owned :
    let s := { seated with tiles := seated.tiles.map fun x => { x with owner := some 7 } }
    s.ownsTiles 6 4 0 (mdesc fwd.words) = false ∧
    ((s.policy 1).on = false ∧ (s.policy 2).on = false ∧ (s.policy 6).on = false) ∧
    (let t := after (.shelfFwd fwd) s
     t.flights = [] ∧ t.jobs = [] ∧ (t.ct 0).log.length = 1) := by decide +kernel

/-- R188: the only descriptor of the job retires, and with it the job ends; of a job of two the first retires. -/
theorem witness_retires :
    let t := after (.shelfFwd fwd) seated
    let reply := replyOf infoSubmitJob box (ask 6 (jobWords 0 1 1 0))
    (t.cpRuns = true ∧ t.awaits reply = true ∧ t.dies.length = 16 ∧ after (.descriptorRetire 4 6 0 0) seated = seated ∧
      after (.scalePass2 4 6 0 0) seated = seated) ∧
    (let u := after (.descriptorRetire 4 6 0 0) t
     u.flights = [] ∧ u.jobs = [] ∧ u.grants = [] ∧ u.answered reply 0 Code.ok [] = true) ∧
    (let s := { t with jobs := t.jobs.map fun j => { j with count := 2 } }
     let u := after (.descriptorRetire 4 6 0 0) s
     u.flights = [] ∧ u.jobs.map (fun j => (j.phase, j.retired)) = [(1, 1)] ∧ (u.die 4).queue = [(6, 0, 0)] ∧
       (u.tensor? 6 0x44 4).isSome = true) := by decide +kernel

/-- R136: the second pass of a descriptor with SCALE_SRC 1. -/
theorem witness_scale_pass :
    let f : Flight := { die := 4, stream := 6, issue := { fwd with words := updAt 5 (fun w => w + wd [(44, 1)]) fwd.words }, phase := 1,
                        counts := Counts.zero, clusters := 1, skipped := [], exps := [3], traps := [], isolation := false }
    let s := { seated with flights := [f] }
    s.cabOfDie 4 = some 1 ∧ (after (.scalePass2 4 6 0 0) s).flights.map Flight.phase = [2] ∧
      after (.descriptorRetire 4 6 0 0) s = s := by decide +kernel

/-- R198, R199: a descriptor of the serving stream starts its engine in a pass; it waits for an engine at work, and without a pass. -/
theorem witness_vector_starts :
    let go := Instr.vectorDescriptor 4 0 0 vecWords
    let d := vdesc vecWords
    (vecWords.length = 12 ∧ d.op = 0x10 ∧ d.library = false ∧ d.inner ≠ 0 ∧ d.outer ≠ 0 ∧ d.opro + d.pro + d.epi + d.oepi ≤ d.bodyLen) ∧
    (inPass.issue? 4 0 0 vecWords d.clusterMask none).isSome = true ∧ inPass.namedClusters 4 d.clusterMask = [(0, 0)] ∧
    ((after go inPass).vengines.filter fun v => v.u == u0).map (fun v => (v.desc, v.stopped)) = [(vecWords, false)] ∧
    (after go (after go inPass) = after go inPass ∧ after go idle = idle) := by decide +kernel

/-- R188: an engine that stopped retires. -/
theorem witness_engine_retires :
    let words := updAt 0 (fun w => w + wd [(12, 5)]) vecWords
    let s := { seated with jobs := seated.jobs.map (fun j => { j with count := 2 }), vengines := [VEngine.load u0 words 0 0] }
    let stopped := { s with vengines := s.vengines.map fun v => { v with stopped := true } }
    after (.descriptorRetire 4 6 0 0) s = s ∧
      (after (.descriptorRetire 4 6 0 0) stopped).vengines.map (fun v => v.isOp 4 6 0 0) = [false] ∧
      (after (.descriptorRetire 4 6 0 0) stopped).jobs.map Job.retired = [1] := by decide +kernel

/-! ## The hatband and the commit of a step -/

/-- Run 1 on CD04 and CD05: four parameters, of which CD05's shard is 0 and 1, since it comes before CD04 in the ring (R24, R279); the gradients of parameter 0 are 1 and 2. -/
def small : DrawerImage := { drawer with projTable := [(wd [(20, 2), (0, 2)], 0x10000)] }
def oneAF : Nat := 0xffc0000000
def twoAF : Nat := (roundAF (.fin false 2 0)).1
def threeAF : Nat := (roundAF (.fin false 3 0)).1
def worker (d : Die) (g : Nat) : RunDie :=
  { die := d, gbuf := [(0, BitVec.ofNat 42 g)], feedback := [], feedbackNext := [], tokens := 3, fwdRows := 0, backRows := 1, backwardDone := true,
    isReady := false, switched := false, lost := false, counts := Counts.zero }
def trainRun : Run :=
  { runIn 1 1 true with dies := 0x30, perDie := [worker 4 oneAF, worker 5 twoAF], current := [⟨0, 0, 0x3f80, 0x80, 0, 0⟩] }
def training (x : Reduction) : State :=
  { work with runs := [trainRun], slots := [{ slotOf 3 1 (some 1) with image := some small }], reductions := [x] }.modCab 1 fun c =>
    { c with dies := 0x30 }
def item4 : Item := { newItem 0 7 4 [oneAF] 3 with nextHop := 5, waiting := false }
def firstRed (s : State) : Reduction := (s.reductions.head?).getD openRed

/-- R301, R304, R309: CD04's contribution leaves for CD05; of a dropped member it is late; before the bucket opens nothing enters; on a
chain of one die the bucket closes at once. -/
theorem witness_contribution :
    let s := training openRed
    ((s.die 4).inService = true ∧ s.run? 1 = some trainRun ∧ trainRun.onDie 4 = some (worker 4 oneAF) ∧ s.contributes trainRun (worker 4 oneAF) = true ∧
      s.runSlotImage trainRun = some small ∧ s.contribution trainRun small openRed (worker 4 oneAF) = [oneAF] ∧ s.portBusy openRed 4 = false) ∧
    (let t := after (.contributionReady 4 9) s
     (firstRed t).items = [item4] ∧ (firstRed t).ready = 0x10 ∧ (firstRed t).queued = 0 ∧ (firstRed t).state = 0) ∧
    (let t := after (.contributionReady 4 9) (training { openRed with ordered := true })
     (firstRed t).items = [item4]) ∧
    ((firstRed (after (.contributionReady 4 9) (training { openRed with marked := 0x10 }))).late = 0x10) ∧
    (let s := training { openRed with opened := false }
     after (.contributionReady 4 9) s = s) ∧
    (let s := training { openRed with chain := [5], owner := 5 }
     (firstRed (after (.contributionReady 5 9) s)).result = [BitVec.ofNat 42 twoAF] ∧ (firstRed (after (.contributionReady 5 9) s)).state = 1) := by
  decide +kernel

/-- R304 to R306, R316: the item meets the owner, whose own contribution comes before or after it; the sum passes its check. -/
theorem witness_item_meets :
    let s := training { openRed with items := [item4], ready := 0x10 }
    let t := after (.hatbandItem 9 4) s
    ((firstRed t).acc = some item4 ∧ (firstRed t).state = 0 ∧ (firstRed t).items = []) ∧
    (let u := after (.contributionReady 5 9) t
     (firstRed u).state = 1 ∧ (firstRed u).result = [BitVec.ofNat 42 threeAF] ∧ (firstRed u).tokens = 6) ∧
    after (.hatbandItem 9 5) s = s ∧
    (let ord := { openRed with items := [item4], ready := 0x10, ordered := true }
     (firstRed (after (.hatbandItem 9 4) (training ord))).items = [{ item4 with waiting := true }] ∧
       (firstRed (after (.hatbandItem 9 4) (training { ord with ready := 0x30 }))).result = [BitVec.ofNat 42 threeAF] ∧
       (firstRed (after (.hatbandItem 9 4) (training { ord with marked := 0x20 }))).result = [BitVec.ofNat 42 oneAF]) ∧
    (let queued := { openRed with chain := [4, 5, 6], owner := 6, items := [item4], queued := 0x20 }
     (firstRed (after (.hatbandItem 9 4) (training queued))).items.map (fun i => (i.nextHop, i.held)) = [(6, 0x30)]) ∧
    s.overtakes (firstRed s) item4 = false ∧ s.brokenHops < 2 := by decide +kernel

/-- R317, R318: CD04 is dropped at the deadline with its tokens. -/
theorem witness_deadline :
    let s := training { openRed with ready := 0x20, acc := some (newItem 0 7 5 [twoAF] 3) }
    let t := after (.deadline 9) s
    ((firstRed t).due = true ∧ (firstRed t).marked = 0x10 ∧
      (firstRed t).items.map (fun i => (i.origin, i.nextHop, i.dropped, i.droppedTokens)) = [(4, 5, 0x10, 3)]) ∧
    (let u := after (.hatbandItem 9 4) t
     (firstRed u).state = 1 ∧ (firstRed u).result = [BitVec.ofNat 42 twoAF]) ∧
    after (.deadline 9) (training openRed) = training openRed ∧
    ((firstRed (after (.deadline 9) (training { openRed with ready := 0x30 }))).due = true) := by decide +kernel

/-- R316: a sum that differs from its checksum fails, and READY of its owner waits. -/
theorem witness_bucket_fails :
    let bad : Item := { newItem 0 7 5 [twoAF] 3 with held := 0x30, cs := BitVec.ofNat 42 oneAF }
    let x : Reduction := { openRed with acc := some bad }
    (checkSum 20 [twoAF] bad).2 = some Code.checksumMismatch ∧ (x.settle 5).state = 2 ∧ (x.settle 5).cause = Code.checksumMismatch ∧
    ({ x with acc := some { bad with cs := BitVec.ofNat 42 twoAF } }.settle 5).state = 1 ∧
    (let s := training (x.settle 5)
     s.run? 1 = some trainRun ∧ (0 : Nat) = posOf (s.spanOf trainRun) 5 ∧ after (.ownerReady 1 5) s = s) := by decide +kernel

/-- R320: the item on the hop between CD04 and CD05 is lost, and the step with it. -/
theorem witness_hop_broken :
    let hop : Fin 16 := Fin.ofNat 16 (ringPos 4)
    let s := training { openRed with items := [item4], ready := 0x10 }
    ((after (.hopBroken hop) s).run? 1).map (fun r => r.retries) = some 1 ∧ ((after (.hopBroken hop) work).ct 0).log.length = 1 ∧
    (after (.hopBroken hop) work).hopsBroken = BitVec.ofNat 16 (2 ^ hop.val) := by decide +kernel

/-- R280 to R284: both owners are ready; without a standby the step is committed, with one at its acknowledgement. -/
theorem witness_step_commits :
    let closed : Reduction := { openRed with state := 1, result := [BitVec.ofNat 42 threeAF], acc := some (newItem 0 7 5 [threeAF] 6) }
    let s := training closed
    let r := fun (t : State) => (t.run? 1).getD trainRun
    (s.shardReduced trainRun 4 = true ∧ s.shardReduced trainRun 5 = true ∧ s.hasStandby = false) ∧
    (let t := after (.ownerReady 1 4) s
     (r t).state = 1 ∧ (r t).perDie.map RunDie.isReady = [true, false] ∧ after (.ownerReady 1 4) t = t ∧
       (let u := after (.ownerReady 1 5) t
        ((r u).state, (r u).epoch, (r u).current) = (RunSt.committing, 1, trainRun.current) ∧
          (r u).shadow.map (fun p => p.index) = [0] ∧ u.reductions.map (fun x => x.era) = [1])) ∧
    (let s := s.modRun 1 fun y => { y with state := RunSt.committing, perDie := y.perDie.map fun x => { x with switched := true } }
     let u := after (.commitPoint 1) s
     (r u).epoch = 1 ∧ (r u).perDie.map RunDie.switched = [false, false] ∧ u.reductions.map (fun x => x.era) = [1]) ∧
    after (.commitPoint 1) s = s ∧ after (.ownerReady 9 4) s = s := by decide +kernel

/-! ## Commands complete -/

/-- CommandsComplete, records: the requests that it names are admitted, with buffers of control memory; what they return. -/
theorem witness_records_complete : work.idsUnique ∧
    (work.admits infoQueryCaps box (ask 0 []) = true ∧ work.admits infoMemoryStatus box (ask 0 [0]) = true ∧
      work.admits infoEdgeStatus box (ask 0 [0]) = true ∧ work.admits infoTelemetryRead box (ask 0 [0]) = true ∧
      work.admits infoAttest box (ask 0 (List.replicate 5 0)) = true) ∧
    (logged.admits infoErrorLogRead box (ask 0 [64, 64, 0]) = true ∧ logged.buffer? box 64 64 = some 64) ∧
    (up.admits infoResync box (ask 0 [0, 4096]) = true ∧ up.buffer? box 0 4096 = some 0) :=
  ⟨witness_work, by decide +kernel, by decide +kernel, by decide +kernel⟩

theorem witness_fetch_ids : FetchIdsAreNew work ∧ FetchIdsAreNew (fetching FStep.pages []) :=
  ⟨⟨by decide +kernel, by decide +kernel⟩, ⟨by decide +kernel, by decide +kernel⟩⟩

/-- CommandsComplete, drawers: handle 77 takes slot 2; slot 0 is unbound and evicted, and fetched where it is not resident. -/
theorem witness_drawers_complete :
    (let req := ask 5 (bindWords 77 0)
     work.admits infoBindDrawer sess req = true ∧ work.foreign (replyOf infoBindDrawer sess req) (work.ownerOf 77) = false ∧
       work.slotOf 1 77 = none ∧ firstFree (fun n => (work.slot? 1 n).isSome) 16384 0 = some 2 ∧
       ((after (.bindDrawer sess req) work).slot? 1 2).map (fun x => (x.handle, x.state, x.gen)) = some (77, SState.bound, 1)) ∧
    (let x := slotOf 0 1 none
     work.slot? 1 (slotField (slotWords 0 0x10)) = some x ∧ x.run = none ∧ x.state = SState.bound ∧ work.fetches = [] ∧
       (∀ y ∈ work.residenciesOf 1 0, y.pins = 0 ∧ y.state ≠ 2) ∧
       (let req := ask 5 (slotWords 0 0)
        work.admits infoUnbindDrawer sess req = true ∧ work.foreign (replyOf infoUnbindDrawer sess req) x.owner? = false) ∧
       (let req := ask 5 (slotWords 0 0x10)
        work.admits infoEvictDrawer sess req = true ∧ work.foreign (replyOf infoEvictDrawer sess req) x.owner? = false ∧
          work.outside 1 (diesField (slotWords 0 0x10)) = false) ∧
       (let s := { work with residencies := [] }
        let req := ask 5 (slotWords 0 0x10)
        s.admits infoPrefetchDrawer sess req = true ∧ prefetchCode x = none ∧ s.catalog = [] ∧ (4 : Die) ∈ (s.cab 1).groups ∧
          (∃ d ∈ s.groupOfCab 1 4, hasDie (diesField (slotWords 0 0x10)) d.val = true) ∧ s.residency? 1 0 4 = none ∧ s.nextFetch = 0)) := by
  decide +kernel

/-- CommandsComplete, fetches: a dataset is delivered; a drawer's fetch waits for pages and has them; it completes. -/
theorem witness_fetches_complete :
    (let f := { fetchOf FStep.catalog with dataset := true }
     let s := { fetching FStep.catalog [] with fetches := [f] }
     let req := ask 0 [0, word (cipherBytes 0x20000)]
     s.fetch? 0 = some f ∧ s.admits infoCatalogDeliver box req = true ∧ (object 20 1).bytes ≤ maxImage ∧ s.catalog = [] ∧
       ((after (.catalogDeliver box req (some (object 20 1))) s).fetch? 0).map Fetch.step = some FStep.pieces) ∧
    (let f := fetchOf FStep.pages
     let s := fetching FStep.pages [object 20 1]
     let v := s.modSlot 1 0 fun x => if x.run.isSome then x else { x with version := 1, tenant := x.owner?.getD 42, known := true }
     s.shape = true ∧ s.fetch? 0 = some f ∧ s.objOf f = some (object 20 1) ∧ (s.cab 1).cacheReplies = [] ∧
       ((s.tenantGlove? 42).map Glove.id).getD 0 = 0x100 ∧ ((v.reserve? 1 0 4 drawer 0x100).map State.fetches) = some s.fetches) ∧
    (let f := fetchOf FStep.pieces
     let s := fetching FStep.pieces [object 20 1]
     s.intakeCode f (object 20 1) false = none ∧ (s.slot? 1 0).isSome = true ∧ (s.residency? 1 0 4).map Residency.state = some 0 ∧
       ((after (.fetchComplete 0) s).residency? 1 0 4).map (fun y => (y.state, y.image)) = some (1, some drawer)) := by
  decide +kernel

/-- CommandsComplete, the vector engine: no mask governs, the marks of integer, W and BF16 operands agree, W codes fit in 42 bits. -/
theorem witness_masks_complete :
    let w := eng [(1, splat 128 32 5), (2, splat 128 32 3)]
    let f : RFields := { rf 4 with xf := 0 }
    (f.men = false ∧ f.ba = false) ∧ ((vs w).vReady u0 (wordR 0x10 f) = some w ∧ (vs w).vReady u0 (wordR 0x21 f) = some w) ∧
      joinMarks 0xffff (w.marksOf 4 1 ++ w.marksOf 4 2) = some Mark.neutral ∧
      joinMarks 0xffff [w.maskMark 1, w.maskMark 2] = some Mark.neutral ∧ joinMarks 0xffff [] = some Mark.neutral ∧
      (∀ e, e < 128 → w.elem 3 4 e < 2 ^ 42) ∧ joinMarks 0xffff (w.marksOf 3 4 ++ w.marksOf 2 12 ++ w.marksOf 6 13) = some Mark.neutral ∧
      ((vs w).vReady u0 (wordI 0x14 ⟨4, 1, false, 0, false, 0x00050002⟩) = some w) := by decide +kernel

/-! ## Worked examples of the spec and short checks of its tables -/

/-- The worked example of R346: the address word of 0xB0_1234_5640. -/
theorem test_address_symbols : addrSymbols 0xb012345640 = [0x59, 0xd1, 0x48, 0xc0, 0x02] := by decide +kernel

/-- R220: the section Main of group 0, and the number of instructions without and with a flag tensor. -/
theorem test_strict_body : ((strictBody 0 false).drop 25).take 2 = [0x0404006047800000, 0x3010000803000000] ∧
    (strictBody 0 false).length = 24 + 1 + 24 + 12 ∧ (strictBody 0 true).length = 24 + 1 + 24 + 36 := by decide +kernel

/-- R225: of equal maxima the lowest column, of NaNs the lowest. -/
theorem test_greedy : greedy [.fin false 1 0, .fin false 3 0, .fin false 3 0] = 1 ∧ greedy [.fin false 9 0, .nan, .nan] = 1 := by
  decide +kernel

/-- R21, R22: 24 links; the way from CD01 to CD14 goes along its row to column 2, then down that column. -/
theorem test_lattice : latticeLinks.length = 24 ∧ latticeRoute 1 14 = [1, 2, 6, 10, 14] ∧ latticeHops 1 14 = 4 := by decide +kernel

/-- R88, R89: bytes of a BF16 panel and how many a buffer holds; K ascends within a block of 512 columns. -/
theorem test_panels : panelBytes 2 = 524288 ∧ panelsPerBuffer 2 false = 4 ∧
    (List.range 4).map (panelAt 1024) = [(0, 0), (0, 1), (1, 0), (1, 1)] := by decide +kernel

/-! ## A token that is taken -/

/-- A token of 4,621 bytes for this device, CAB1, scope 1 and tenant 42, from time 0 to 2^40 ns (R399). -/
def tokenHead : List Byte := [1, 1] ++ leBytes 2 1 ++ leBytes 4 42 ++ leBytes 8 0 ++ leBytes 8 (2 ^ 40) ++ List.replicate 8 0
def tokenText : List Byte := tokenHead ++ bytes512 deviceId ++ List.replicate 4525 0

theorem tokenText_device : BitVec.ofNat 512 (span tokenText 32 96) = deviceId := by
  have h : (tokenText.drop 32).take 64 = leBytes 64 deviceId.toNat := by
    have hd : tokenText = tokenHead ++ (leBytes 64 deviceId.toNat ++ List.replicate 4525 0) := by
      rw [tokenText, List.append_assoc]; rfl
    rw [hd, List.drop_left' (by decide), List.take_left' (by rfl)]
  rw [span, h, ofLe_leBytes, show 256 ^ 64 = 2 ^ 512 by decide +kernel, Nat.mod_eq_of_lt deviceId.isLt]
  simp

theorem control_memory (m : Mem) :
    ((work.modCt 0 fun c => { c with mem := m }).ct (work.modCt 0 fun c => { c with mem := m }).cp.active).mem = m := rfl

/-- The token stands in the buffer, and R399 does not refuse it. -/
theorem witness_token_taken :
    let s := work.modCt 0 fun c => { c with mem := Mem.write [] 0 tokenText }
    (s.ct s.cp.active).mem.read 0 4621 = tokenText ∧ s.tokenOk tokenText true none = true ∧ s.rot.tokens.length < 64 := by
  intro s
  have hl : tokenText.length = 4621 := by decide +kernel
  refine ⟨?_, ?_, by decide +kernel⟩
  · rw [control_memory, ← hl, Mem.read_write (by decide)]
  · simp only [State.tokenOk, tokenText_device, beq_self_eq_true, Bool.and_true]
    decide +kernel

/-! ## A stream table that is full -/

theorem firstFree_none (used : Nat → Bool) (n lo : Nat) (h : ∀ k, lo ≤ k → k < lo + n → used k = true) :
    firstFree used n lo = none := by
  induction n generalizing lo with
  | zero => rfl
  | succ n ih => rw [firstFree, if_pos (h lo (by omega) (by omega)), ih _ fun k h1 h2 => h k (by omega) (by omega)]

def crowd : List Stream := (List.finRange 4096).map fun k => streamOf k 0 0
def crowded : State := { work with streams := crowd }
theorem crowded_streams : crowded.streams = (List.finRange 4096).map fun k => streamOf k 0 0 := by rw [crowded, crowd]

/-- Ids 1 to 4095 are all taken (R60). -/
theorem witness_no_stream_free : crowded.freeStream = none := by
  refine firstFree_none _ _ _ fun k _ hk => ?_
  have hk' : k < 4096 := by omega
  rw [State.stream?, crowded_streams, List.find?_isSome]
  exact ⟨streamOf ⟨k, hk'⟩ 0 0, List.mem_map.2 ⟨⟨k, hk'⟩, List.mem_finRange _, rfl⟩, by simp [streamOf]⟩
end Sys2Proof.Tests
end

section
/-!
SUPPORT. What keeps request, stream and session numbers unique (`State.idsUnique`): the rules for the shapes of which meanings are
made, and for the operations on the parts of the state and on messages.
-/

namespace Sys2Proof.Machine

variable {s t : State}

/-! ## The numbers that `State.idsUnique` speaks of -/

/-- The numbers of a state's requests, streams and sessions, and the next request's. -/
def State.numbers (s : State) : List Nat × Nat × List (Fin 4096) × List Sess :=
  (s.requests.map Request.id, s.nextRequest, s.streams.map Stream.id, s.rot.sessions.map Session.n)

theorem State.idsUnique_iff_numbers : s.idsUnique ↔
    s.numbers.1.Nodup ∧ (∀ i ∈ s.numbers.1, i < s.numbers.2.1) ∧ s.numbers.2.2.1.Nodup ∧ s.numbers.2.2.2.Nodup := by
  simp [State.idsUnique, State.numbers]

theorem firstFree_some {used : Nat → Bool} {n lo k : Nat} (h : firstFree used n lo = some k) :
    used k = false ∧ lo ≤ k ∧ k < lo + n := by
  induction n generalizing lo with
  | zero => cases h
  | succ n ih =>
    unfold firstFree at h
    split at h
    · obtain ⟨hk, hlo, hhi⟩ := ih h
      exact ⟨hk, by omega, by omega⟩
    next hu => cases h; exact ⟨by simpa using hu, by omega, by omega⟩

/-- The number that CREATE_STREAM and MOUNT_COMPLETE give a stream is no stream's (R60, R61). -/
theorem freeStream_free {n : Nat} (h : s.freeStream = some n) : s.stream? (Fin.ofNat 4096 n).val = none := by
  obtain ⟨hn, -, hlt⟩ := firstFree_some h
  simpa [Nat.mod_eq_of_lt (show n < 4096 by omega)] using hn

/-- The number that SESSION_INIT gives a session is no session's (R382). -/
theorem freeSession_free {e : Edge} {n : Nat} (h : s.freeSession e = some n) : s.session? (Fin.ofNat 8192 n).val = none := by
  obtain ⟨k, hk, rfl⟩ := Option.map_eq_some_iff.1 h
  obtain ⟨hfree, -, hlt⟩ := firstFree_some hk
  have he := e.isLt
  simp only [Bool.or_eq_false_iff, Option.isSome_eq_false_iff, Option.isNone_iff_eq_none] at hfree
  simpa [Nat.mod_eq_of_lt (show 2048 * e.val + k < 8192 by omega)] using hfree.1

/-- GLOVE_OPEN's search for a free glove leaves the sessions. -/
theorem freeGlove_sessions {x y : Rot} {id : BitVec 16} (h : x.freeGlove = some (id, y)) : y.sessions = x.sessions := by
  unfold Rot.freeGlove at h
  split at h
  · cases h; rfl
  · split at h
    · cases h; rfl
    · cases h

namespace State.idsUnique

/-- A state with the same numbers. -/
theorem congr (h : s.idsUnique) (e : t.numbers = s.numbers) : t.idsUnique := by
  rwa [idsUnique_iff_numbers, e, ← idsUnique_iff_numbers]

/-- Sessions and streams may go; requests stay in the module's record. -/
theorem of_sublist (h : s.idsUnique) (hq : t.requests = s.requests) (hn : t.nextRequest = s.nextRequest)
    (hs : t.streams.Sublist s.streams) (hx : t.rot.sessions.Sublist s.rot.sessions) : t.idsUnique := by
  obtain ⟨hr, hlt, hst, hse⟩ := h
  exact ⟨hq ▸ hr, hq ▸ hn ▸ hlt, (hs.map _).nodup hst, (hx.map _).nodup hse⟩

/-- The state that stands beside a value. -/
theorem of_snd {α : Type} {p : α × State} {a : α} (h : p.2.idsUnique) (e : p = (a, s)) : s.idsUnique := by
  rwa [e] at h

/-- Streams that go take their numbers with them. -/
theorem filterStreams (h : s.idsUnique) {p xs ps as} :
    ({ s with streams := s.streams.filter p, xclaims := xs, programs := ps, rot := { s.rot with assemblies := as } } : State).idsUnique :=
  h.of_sublist rfl rfl List.filter_sublist (.refl _)

/-- A record update that leaves requests, streams and sessions as they were, whatever it does to the other fields. -/
theorem frame (h : s.idsUnique)
    {pending now freeCtr cts cp cabs jobs tensors programs slots slotGens residencies fetches nextFetch fetchOrder
    xclaims consents remakeQ notes useClock dies clusters tiles grants flights vengines runs nextRun reductions nextRed
    nextStore versions stores hopsBroken hopOrder pages mem merges hbm edges power telem bus sector} :
    State.idsUnique
      ⟨pending, now, freeCtr, cts, cp, cabs, s.streams, jobs, tensors, programs, slots, slotGens, residencies,
      fetches, nextFetch, fetchOrder, xclaims, consents, remakeQ, notes, s.requests, s.nextRequest, useClock,
      dies, clusters, tiles, grants, flights, vengines, runs, nextRun, reductions, nextRed, nextStore, versions,
      stores, hopsBroken, hopOrder, pages, mem, merges, hbm, s.rot, edges, power, telem, bus, sector⟩ :=
  h

theorem setRot (h : s.idsUnique) {r} (hr : r.sessions = s.rot.sessions) : ({ s with rot := r } : State).idsUnique :=
  h.of_sublist rfl rfl (.refl _) (by rw [hr])

/-- Message traffic moves no number. -/
theorem of_quiet (h : s.idsUnique) (e : t.quiet = s.quiet) : t.idsUnique := by
  have hx : ∀ u : State, u.quiet.rot.sessions.map Session.n = u.rot.sessions.map Session.n := fun u => by
    simp [State.quiet, Rot.quiet, Session.quiet, Function.comp_def]
  refine h.congr ?_
  rw [State.numbers, State.numbers, ← hx t, ← hx s, e, quiet_requests e, quiet_nextRequest e, quiet_streams e]

/-! ## The shapes of a meaning -/

theorem ite {c : Prop} {_ : Decidable c} (ht : t.idsUnique) (hs : s.idsUnique) : (if c then t else s).idsUnique := by
  split <;> assumption

theorem iteFst {α : Type} {c : Prop} {_ : Decidable c} {p q : State × α} (hp : p.1.idsUnique) (hq : q.1.idsUnique) :
    (if c then p else q).1.idsUnique := by
  split <;> assumption

/-- A change that is made under a condition. -/
theorem when {c : Prop} {_ : Decidable c} (h : s.idsUnique) (k : s.idsUnique → t.idsUnique) :
    (if c then t else s).idsUnique := (k h).ite h

/-- A change that is made unless a condition holds. -/
theorem whenNot {c : Prop} {_ : Decidable c} (h : s.idsUnique) (k : s.idsUnique → t.idsUnique) :
    (if c then s else t).idsUnique := h.ite (k h)

theorem foldl {α : Type} {f : State → α → State} {l : List α} (h : s.idsUnique)
    (hf : ∀ s x, s.idsUnique → (f s x).idsUnique) : (l.foldl f s).idsUnique := by
  induction l generalizing s with
  | nil => exact h
  | cons a l ih => exact ih (hf _ _ h)

/-- Steps that carry something beside the state. -/
theorem foldlFst {α β : Type} {f : State × β → α → State × β} {l : List α} {p : State × β} (h : p.1.idsUnique)
    (hf : ∀ p x, p.1.idsUnique → (f p x).1.idsUnique) : (l.foldl f p).1.idsUnique := by
  induction l generalizing p with
  | nil => exact h
  | cons a l ih => exact ih (hf _ _ h)

/-! ## Parts of the state -/

theorem modCt (h : s.idsUnique) {c f} : (s.modCt c f).idsUnique := h
theorem modCab (h : s.idsUnique) {c f} : (s.modCab c f).idsUnique := h
theorem modDie (h : s.idsUnique) {d f} : (s.modDie d f).idsUnique := h
theorem modStk (h : s.idsUnique) {k f} : (s.modStk k f).idsUnique := h
theorem modEdge (h : s.idsUnique) {e f} : (s.modEdge e f).idsUnique := h
theorem modCp (h : s.idsUnique) {f} : (s.modCp f).idsUnique := h
theorem modPower (h : s.idsUnique) {f} : (s.modPower f).idsUnique := h
theorem modGlove (h : s.idsUnique) {g f} : (s.modGlove g f).idsUnique := h
theorem modRun (h : s.idsUnique) {i f} : (s.modRun i f).idsUnique := h
theorem modJob (h : s.idsUnique) {i q f} : (s.modJob i q f).idsUnique := h
theorem modSlot (h : s.idsUnique) {c n f} : (s.modSlot c n f).idsUnique := h
theorem tick (h : s.idsUnique) : s.tick.2.idsUnique := h
theorem fresh (h : s.idsUnique) : s.fresh.2.idsUnique := h

theorem modCluster (h : s.idsUnique) {d c f} : (s.modCluster d c f).idsUnique := by
  unfold State.modCluster
  split <;> exact h

/-- A change of the RoTP's state that leaves each session its number. -/
theorem modRotOf (h : s.idsUnique) {f} (hf : ∀ r, (f r).sessions.map Session.n = r.sessions.map Session.n) : (s.modRot f).idsUnique :=
  h.congr (by simp [State.numbers, hf])

theorem modRequestOf (h : s.idsUnique) {i f} (hf : ∀ x, (f x).id = x.id) : (s.modRequest i f).idsUnique :=
  h.congr (by simp [State.numbers, State.modRequest, map_updFirst_of Request.id _ f hf])

/-! Record updates of the RoTP's state, a stream, a session or a request that leave the sessions or the number. -/

theorem modRot (h : s.idsUnique)
    {gloves freed nextNew tenants tokens assemblies debugChans nextDebug transition opKey pendingCt ekOwner ekSerial bootCount spdmOut
    spdmHeld : Rot → _} :
    (s.modRot fun r => ⟨gloves r, freed r, nextNew r, tenants r, r.sessions, tokens r, assemblies r, debugChans r, nextDebug r,
      transition r, opKey r, pendingCt r, ekOwner r, ekSerial r, bootCount r, spdmOut r, spdmHeld r⟩).idsUnique := h

theorem modStream (h : s.idsUnique) {i} {cab owner tenant minor nextSeq halted isClosing closing : Stream → _} :
    (s.modStream i fun x =>
      ⟨x.id, cab x, owner x, tenant x, minor x, nextSeq x, halted x, isClosing x, closing x⟩).idsUnique :=
  h.congr (by simp [State.numbers, State.modStream, map_updFirst_of Stream.id])

theorem modSession (h : s.idsUnique) {i}
    {tenant cab nonce ct keyId answer opened draining rxHigh seen rxNext ackHigh txNext txAckNext unacked toSend inbox ackDue discarded
    src srcPort eventMseq served : Session → _} :
    (s.modSession i fun x => ⟨x.n, tenant x, cab x, nonce x, ct x, keyId x, answer x, opened x, draining x, rxHigh x, seen x, rxNext x,
      ackHigh x, txNext x, txAckNext x, unacked x, toSend x, inbox x, ackDue x, discarded x, src x, srcPort x, eventMseq x,
      served x⟩).idsUnique :=
  h.modRotOf fun _ => by simp [map_updFirst_of Session.n]

theorem modRequest (h : s.idsUnique) {i}
    {session tenant cab ask state code group slot placed delivered ready since seq kvPages inPass passedOver arrived admitted ended
    pinned out record : Request → _} :
    (s.modRequest i fun x => ⟨x.id, session x, tenant x, cab x, ask x, state x, code x, group x, slot x, placed x, delivered x, ready x,
      since x, seq x, kvPages x, inPass x, passedOver x, arrived x, admitted x, ended x, pinned x, out x, record x⟩).idsUnique :=
  h.modRequestOf fun _ => rfl

/-- Requests that a change leaves in their order under their numbers. -/
theorem mapRequests (h : s.idsUnique) {f rs} (hf : ∀ x, (f x).id = x.id) :
    ({ s with requests := s.requests.map f, runs := rs } : State).idsUnique :=
  h.congr (by simp [State.numbers, Function.comp_def, hf])

/-- The next request takes the next number. -/
theorem addRequest (h : s.idsUnique) {q : Request} (hq : q.id = s.nextRequest) :
    ({ s with requests := s.requests ++ [q], nextRequest := s.nextRequest + 1 } : State).idsUnique := by
  obtain ⟨hr, hlt, hst, hse⟩ := h
  refine ⟨?_, fun x hx => ?_, hst, hse⟩
  · show (List.map Request.id (s.requests ++ [q])).Nodup
    rw [List.map_append, List.nodup_append]
    refine ⟨hr, by simp, fun a ha b hb e => ?_⟩
    obtain ⟨y, hy, rfl⟩ := List.mem_map.1 ha
    have := hlt y hy
    simp_all
  · show x.id < s.nextRequest + 1
    obtain hx | hx := List.mem_append.1 hx
    · exact Nat.lt_succ_of_lt (hlt x hx)
    · simp_all

/-- A session whose number none has. -/
theorem addSession (h : s.idsUnique) {x : Session} {n : Sess} (hn : s.session? n.val = .none) {f : Rot → Rot}
    (hf : (f s.rot).sessions = s.rot.sessions ++ [x]) (hx : x.n = n) : (s.modRot f).idsUnique := by
  obtain ⟨hr, hlt, hst, hse⟩ := h
  refine ⟨hr, hlt, hst, ?_⟩
  have hnew : x.n ∉ s.rot.sessions.map Session.n := by
    intro hm
    obtain ⟨y, hy, he⟩ := List.mem_map.1 hm
    simpa [he, hx] using List.find?_eq_none.1 hn y hy
  show (List.map Session.n (f s.rot).sessions).Nodup
  rw [hf, List.map_append, List.nodup_append]
  exact ⟨hse, by simp, fun a ha b hb e => hnew (by simp_all)⟩

/-- A stream whose number none has. -/
theorem addStream (h : s.idsUnique) {x : Stream} {n : Fin 4096} (hn : s.stream? n.val = .none) (hx : x.id = n) :
    ({ s with streams := s.streams ++ [x] } : State).idsUnique := by
  obtain ⟨hr, hlt, hst, hse⟩ := h
  refine ⟨hr, hlt, ?_, hse⟩
  have hnew : x.id ∉ s.streams.map Stream.id := by
    intro hm
    obtain ⟨y, hy, he⟩ := List.mem_map.1 hm
    simpa [he, hx] using List.find?_eq_none.1 hn y hy
  show (List.map Stream.id (s.streams ++ [x])).Nodup
  rw [List.map_append, List.nodup_append]
  exact ⟨hst, by simp, fun a ha b hb e => hnew (by simp_all)⟩

/-! ## Messages -/

theorem setChan (h : s.idsUnique) {k l} : (s.setChan k l).idsUnique := h
theorem modReq (h : s.idsUnique) {k m f} : (s.modReq k m f).idsUnique := h
theorem jTake (h : s.idsUnique) {r} : (s.jTake r).idsUnique := h
theorem sendRecord (h : s.idsUnique) {x ty c ms} : (s.sendRecord x ty c ms).idsUnique := h.of_quiet (quiet_sendRecord ..)
theorem sendWaiting (h : s.idsUnique) {n k} : (s.sendWaiting n k).idsUnique := h.of_quiet (quiet_sendWaiting ..)
theorem deliver (h : s.idsUnique) {o} : (s.deliver o).idsUnique := h.of_quiet (quiet_deliver ..)
theorem emit (h : s.idsUnique) {o} : (s.emit o).idsUnique := h.of_quiet (quiet_emit ..)
theorem emitAll (h : s.idsUnique) {d ms} : (s.emitAll d ms).idsUnique := h.of_quiet (quiet_emitAll ..)
theorem accept (h : s.idsUnique) {r q} : (s.accept r q).idsUnique := h.of_quiet (quiet_accept ..)
theorem finish (h : s.idsUnique) {r q c p} : (s.finish r q c p).idsUnique := h.of_quiet (quiet_finish ..)
theorem complete (h : s.idsUnique) {r c p} : (s.complete r c p).idsUnique := h.of_quiet (quiet_complete ..)
theorem completeAll (h : s.idsUnique) {r c p} : (s.completeAll r c p).idsUnique := h.of_quiet (quiet_completeAll ..)
theorem refuseRaw (h : s.idsUnique) {r c} : (s.refuseRaw r c).idsUnique := h.of_quiet (quiet_refuseRaw ..)
theorem postEvent (h : s.idsUnique) {o i p} : (s.postEvent o i p).idsUnique := h.of_quiet (quiet_postEvent ..)
theorem postSession (h : s.idsUnique) {n o i p} : (s.postSession n o i p).idsUnique := h.of_quiet (quiet_postSession ..)
theorem postStream (h : s.idsUnique) {o i p} : (s.postStream o i p).idsUnique := h.of_quiet (quiet_postStream ..)
theorem postTenant (h : s.idsUnique) {n o i p} : (s.postTenant n o i p).idsUnique := h.of_quiet (quiet_postTenant ..)

end State.idsUnique

/-- An answer whose state, if it is a next one, has unique numbers. -/
def KeepsIds (o : Out) : Prop := ∀ t, o = .next t → t.idsUnique

theorem KeepsIds.next (h : s.idsUnique) : KeepsIds (.next s) := fun _ e => by cases e; exact h

/-- An operation that may be refused leaves, where it is not, a state whose numbers are unique. -/
def OptIds (o : Option State) : Prop := ∀ t ∈ o, t.idsUnique

namespace OptIds

theorem some (h : s.idsUnique) : OptIds (.some s) := fun _ e => by cases e; exact h
theorem none : OptIds .none := fun _ e => by cases e

theorem ite {c : Prop} {_ : Decidable c} {o o' : Option State} (h : OptIds o) (h' : OptIds o') : OptIds (if c then o else o') := by
  split <;> assumption

theorem bind {o : Option State} {f : State → Option State} (ho : OptIds o) (hf : ∀ s, s.idsUnique → OptIds (f s)) :
    OptIds (o.bind f) := by
  cases o with
  | none => exact none
  | some s => exact hf s (ho s rfl)

/-- Operations in order, all of them or none. -/
theorem foldlBind {α : Type} {f : State → α → Option State} {l : List α} {o : Option State} (ho : OptIds o)
    (hf : ∀ s x, s.idsUnique → OptIds (f s x)) : OptIds (l.foldl (fun acc x => acc.bind fun s => f s x) o) := by
  induction l generalizing o with
  | nil => exact ho
  | cons a l ih => exact ih (ho.bind fun s h => hf s a h)

end OptIds

/-- What an instruction of the vector engine comes to: where it has an effect, on a state whose numbers are unique. -/
def VEnd.KeepsIds : VEnd → Prop
  | .ok s _ _ _ => s.idsUnique
  | _ => True

namespace VEnd.KeepsIds

theorem of_ok {e : VEnd} {v evs m} (h : e.KeepsIds) (he : e = .ok s v evs m) : s.idsUnique := by
  subst he
  exact h

theorem ok (h : s.idsUnique) {v evs m} : (VEnd.ok s v evs m).KeepsIds := h

theorem ite {c : Prop} {_ : Decidable c} {e e' : VEnd} (h : e.KeepsIds) (h' : e'.KeepsIds) : (if c then e else e').KeepsIds := by
  split <;> assumption

theorem withMarks {owner ms} {k : Mark → VEnd} (hk : ∀ m, (k m).KeepsIds) : (withMarks owner ms k).KeepsIds := by
  unfold Machine.withMarks
  split
  · exact hk _
  · trivial

theorem vLoadAt {v d as off n} {k : List Byte → Mark → VEnd} (hk : ∀ b m, (k b m).KeepsIds) :
    (vLoadAt s v d as off n k).KeepsIds := by
  unfold Machine.vLoadAt
  split
  · trivial
  · refine .ite trivial ?_
    split
    · trivial
    · exact hk _ _

end VEnd.KeepsIds

theorem State.idsUnique.getD (h : s.idsUnique) {o : Option State} (ho : OptIds o) : (o.getD s).idsUnique := by
  cases o with
  | none => exact h
  | some t => exact ho t rfl

theorem State.idsUnique.takeFrom (h : s.idsUnique) {src ws} : OptIds (s.takeFrom src ws) :=
  fun t e => h.of_quiet (quiet_takeFrom s t src ws e)

end Sys2Proof.Machine
end

section
/-!
SUPPORT. The operations that commands share keep request, stream and session numbers unique, in the order of the files that define
them. An operation that may be refused has its law as `OptIds`, a library body of the vector engine as `VEnd.KeepsIds`.
-/

namespace Sys2Proof.Machine

variable {s t : State}

/-! ## The operations that all commands share -/

theorem State.idsUnique.resend (h : s.idsUnique) {r} : OptIds (s.resend r) := by
  unfold State.resend
  split
  · exact .none
  · refine .ite (.ite (.some h.refuseRaw) (.some ?_)) (.ite (.some h.refuseRaw) .none)
    split
    · exact h.setChan.emitAll
    · exact h.setChan.emitAll
    · exact h.setChan

theorem State.idsUnique.runBody (h : s.idsUnique) {info r ws body}
    (hb : ∀ r ws s, s.idsUnique → (body r ws s).idsUnique) :
    (s.runBody info r ws body).idsUnique := by
  unfold State.runBody
  split
  · exact hb _ _ _ h
  · exact h.modCp.ite (hb _ _ _ h.modCp)

theorem State.idsUnique.runActive (h : s.idsUnique) {info src req r body}
    (hb : ∀ r ws s, s.idsUnique → (body r ws s).idsUnique) :
    (s.runActive info src req r body).idsUnique := by
  unfold State.runActive
  split
  · exact h.refuseRaw.ite h.jTake.complete
  · split
    next heq => exact h.resend _ heq
    · dsimp only
      split
      · exact h.jTake.complete
      · exact h.jTake.runBody hb

theorem State.idsUnique.runStandby (h : s.idsUnique) {info src req r body}
    (hb : ∀ r ws s, s.idsUnique → (body r ws s).idsUnique) :
    (s.runStandby info src req r body).idsUnique := by
  unfold State.runStandby
  split
  · exact h.refuseRaw
  · refine h.refuseRaw.ite (.ite ?_ h.refuseRaw)
    split
    · exact h.refuseRaw
    · exact hb _ _ _ h

/-- A command keeps numbers unique where its body does. -/
theorem State.idsUnique.ilnil (h : s.idsUnique) {info src req body}
    (hb : ∀ r ws s, s.idsUnique → (body r ws s).idsUnique) :
    (s.ilnil info src req body).idsUnique := by
  unfold State.ilnil
  refine h.ite ((h.runBody hb).ite ?_)
  split
  · exact h
  next heq => exact ((h.takeFrom _ heq).runStandby hb).ite ((h.takeFrom _ heq).runActive hb)

theorem State.idsUnique.writeCtl (h : s.idsUnique) {off bs} : (s.writeCtl off bs).idsUnique := h.modCt

theorem State.idsUnique.noticeOne (h : s.idsUnique) {e t} : (s.noticeOne e t).idsUnique := by
  unfold State.noticeOne
  dsimp only
  split
  · split
    · exact h.postSession
    · exact h
  · split
    · split
      · exact h.postTenant.ite h.postStream
      · exact h
    · exact h.postStream

theorem State.idsUnique.logReport (h : s.idsUnique) {r policy action} : (s.logReport r policy action).idsUnique := by
  unfold State.logReport
  dsimp only
  generalize hp : List.foldl _ (s, false) _ = p
  have hu : p.1.idsUnique := hp ▸ .foldlFst h fun p c h => by split <;> exact h
  refine .foldl (.ite (.postEvent ?_) (.ite (.postEvent ?_) (.ite ?_ (.postEvent ?_)))) fun _ _ h => h.noticeOne
  all_goals exact hu.when fun h => h.modPower

/-! ## Capabilities -/

theorem State.idsUnique.checkReserves (h : s.idsUnique) : s.checkReserves.idsUnique :=
  h.modCp.foldl fun _ _ h => h.logReport.postEvent

/-! ## Gloves -/

theorem State.idsUnique.dropSession (h : s.idsUnique) {n tell} : (s.dropSession n tell).idsUnique := by
  unfold State.dropSession
  split
  · exact h
  · exact (h.when fun h => h.sendRecord).setChan.modCp.of_sublist rfl rfl (.refl _) List.filter_sublist

theorem State.idsUnique.settleDraining (h : s.idsUnique) : s.settleDraining.idsUnique :=
  h.foldl fun _ _ h => h.dropSession

theorem State.idsUnique.unwear (h : s.idsUnique) {g b} : (s.unwear g b).idsUnique := by
  unfold State.unwear
  split
  · exact h.frame
  · exact h.modStk
  · exact h

theorem State.idsUnique.eraseGlove (h : s.idsUnique) {g} : (s.eraseGlove g).idsUnique :=
  (h.foldl fun _ _ h => h.unwear).modRot.completeAll.settleDraining

theorem State.idsUnique.discardGlove (h : s.idsUnique) {id} : (s.discardGlove id).idsUnique := by
  unfold State.discardGlove
  split
  · exact h
  · exact h.eraseGlove.completeAll

theorem State.idsUnique.wearGens (h : s.idsUnique) {g gen prev} : (s.wearGens g gen prev).idsUnique := h.frame
theorem State.idsUnique.advanceGlove (h : s.idsUnique) {g} : (s.advanceGlove g).idsUnique := h.wearGens.modGlove

theorem State.idsUnique.gloveStep (h : s.idsUnique) {id fuel} : (s.gloveStep id fuel).idsUnique := by
  induction fuel generalizing s with
  | zero => exact h
  | succ fuel ih =>
    unfold State.gloveStep
    split
    · exact h
    · exact h.ite (.ite (ih h.advanceGlove) (.ite (ih h.modGlove) (.ite (ih h.modGlove)
        (.ite h.wearGens.modGlove.completeAll (h.eraseGlove.ite h)))))

theorem State.idsUnique.installGlove (h : s.idsUnique) {id} : (s.installGlove id).idsUnique := by
  unfold State.installGlove
  split
  · exact h
  · exact h.modGlove.gloveStep

theorem State.idsUnique.beginErase (h : s.idsUnique) {id} : (s.beginErase id).idsUnique := by
  unfold State.beginErase
  split
  · exact h
  · exact h.modGlove.gloveStep

theorem State.idsUnique.settleSweeps (h : s.idsUnique) : s.settleSweeps.idsUnique := h.foldl fun _ _ h => h.gloveStep

theorem State.idsUnique.blocksGone (h : s.idsUnique) {p} : (s.blocksGone p).idsUnique :=
  h.modRot.foldl fun _ _ h => h.gloveStep

/-! ## Pages and sweeps -/

theorem State.idsUnique.setPage (h : s.idsUnique) {x} : (s.setPage x).idsUnique := h.frame

theorem State.idsUnique.allocOn (h : s.idsUnique) {k1 n kind g c owner} : (s.allocOn k1 n kind g c owner).1.idsUnique :=
  h.frame

theorem State.idsUnique.alloc? (h : s.idsUnique) {d n kind g c owner} :
    ∀ p ∈ s.alloc? d n kind g c owner, p.1.idsUnique := by
  unfold State.alloc?
  split
  · exact fun _ e => by cases e
  · exact fun _ e => by cases e; exact h

theorem State.idsUnique.freePages (h : s.idsUnique) {p} : (s.freePages p).idsUnique :=
  State.idsUnique.settleSweeps h.frame

theorem State.idsUnique.fillPages (h : s.idsUnique) {ps bs} : (s.fillPages ps bs).idsUnique := by
  induction ps generalizing s bs with
  | nil => exact h
  | cons p ps ih =>
    unfold State.fillPages
    exact ih (.setPage h.frame)

theorem State.idsUnique.allocAll? (h : s.idsUnique) {req kind g c owner} : OptIds (s.allocAll? req kind g c owner) := by
  refine .foldlBind (.some h) fun s x h t e => ?_
  obtain ⟨p, hp, rfl⟩ := Option.map_eq_some_iff.1 e
  exact h.alloc? p hp

/-! ## Residencies -/

theorem State.idsUnique.modResidency (h : s.idsUnique) {c n g f} : (s.modResidency c n g f).idsUnique := h.frame
theorem State.idsUnique.dropClaims (h : s.idsUnique) {c n} : (s.dropClaims c n).idsUnique := h.frame.ite h

theorem State.idsUnique.answerFetch (h : s.idsUnique) {rs code} : (s.answerFetch rs code).idsUnique :=
  h.foldl fun _ _ h => h.ite h.frame.complete

theorem State.idsUnique.releaseResidency (h : s.idsUnique) {c n g} : (s.releaseResidency c n g).idsUnique := by
  unfold State.releaseResidency
  refine .dropClaims (.frame (.freePages ?_))
  split
  · exact h.ite h.modSlot
  · exact h

theorem State.idsUnique.freeSlot (h : s.idsUnique) {c n} : (s.freeSlot c n).idsUnique :=
  (h.frame.foldl fun _ _ h => h.releaseResidency).freePages.frame.dropClaims.completeAll.answerFetch

theorem State.idsUnique.settleEvict (h : s.idsUnique) {c n} : (s.settleEvict c n).idsUnique := by
  unfold State.settleEvict
  split
  · exact h
  · exact h.freeSlot.ite h.modSlot.completeAll

theorem State.idsUnique.settleCache (h : s.idsUnique) {c} : (s.settleCache c).idsUnique := h.modCab.completeAll.ite h
theorem State.idsUnique.pin (h : s.idsUnique) {c n g} : (s.pin c n g).idsUnique := h.modResidency

theorem State.idsUnique.evictOne (h : s.idsUnique) {c n g} : (s.evictOne c n g).idsUnique := by
  unfold State.evictOne
  split
  · exact h
  · exact h.frame.answerFetch.releaseResidency.ite h.modResidency

theorem State.idsUnique.unpin (h : s.idsUnique) {c n g} : (s.unpin c n g).idsUnique := by
  unfold State.unpin
  dsimp only
  split
  · exact (h.modResidency.when fun h => h.evictOne).settleEvict.settleCache
  · exact h.modResidency

theorem State.idsUnique.takeSlot (h : s.idsUnique) {c} : ∀ p ∈ s.takeSlot c, p.2.idsUnique := by
  unfold State.takeSlot
  split
  · exact fun _ e => by cases e; exact h
  · intro p e
    obtain ⟨x, -, rfl⟩ := Option.map_eq_some_iff.1 e
    exact h.freeSlot

theorem State.idsUnique.bindSlot (h : s.idsUnique) {c n hd ver owner run} :
    (s.bindSlot c n hd ver owner run).idsUnique :=
  h

theorem State.idsUnique.touchSlot (h : s.idsUnique) {c n} : (s.touchSlot c n).idsUnique := h.tick.modSlot
theorem State.idsUnique.cacheObj (h : s.idsUnique) {o} : (s.cacheObj o).idsUnique := h.modCt

theorem State.idsUnique.writeShare (h : s.idsUnique) {c n g img} : (s.writeShare c n g img).idsUnique :=
  h.foldl fun _ _ h => h.fillPages

/-! ## Jobs, requests and how they end -/

theorem State.idsUnique.releaseShelf (h : s.idsUnique) {c} : (s.releaseShelf c).idsUnique := by
  unfold State.releaseShelf
  dsimp only
  split
  · refine .completeAll (.modCab (.discardGlove (.freePages (.filterStreams ?_))))
    exact ((h.frame.answerFetch.foldl fun _ _ h => h.releaseResidency).foldl fun _ _ h => h.settleEvict).foldl
      fun _ _ h => h.modDie
  · refine .modCab (.discardGlove (.freePages (.filterStreams ?_)))
    exact ((h.frame.answerFetch.foldl fun _ _ h => h.releaseResidency).foldl fun _ _ h => h.settleEvict).foldl
      fun _ _ h => h.modDie

theorem State.idsUnique.settleUnmount (h : s.idsUnique) {c} : (s.settleUnmount c).idsUnique := h.releaseShelf.ite h

theorem State.idsUnique.closeRequest (h : s.idsUnique) {i st code} : (s.closeRequest i st code).idsUnique := by
  unfold State.closeRequest
  split
  · exact h
  · refine h.ite (.settleUnmount ?_)
    split
    · exact (h.modRequest.freePages.when fun h => h.modCab).unpin
    · exact h.modRequest.freePages.when fun h => h.modCab

theorem State.idsUnique.endRequest (h : s.idsUnique) {i code} : (s.endRequest i code).idsUnique := h.closeRequest

theorem State.idsUnique.endRequests (h : s.idsUnique) {p code} : (s.endRequests p code).idsUnique :=
  h.foldl fun _ _ h => h.endRequest

theorem State.idsUnique.setTile (h : s.idsUnique) {t} : (s.setTile t).idsUnique := h.frame

theorem State.idsUnique.grantOne? (h : s.idsUnique) {st n d c e} : OptIds (s.grantOne? st n d c e) :=
  .ite (.some h) (.ite .none (.some ((h.foldl fun _ _ h => h.setTile).frame)))

theorem State.idsUnique.endGrant (h : s.idsUnique) {g} : (s.endGrant g).idsUnique :=
  (h.foldl fun _ _ h => h.setTile).frame

theorem State.idsUnique.modTensor (h : s.idsUnique) {st k2 d f} : (s.modTensor st k2 d f).idsUnique := h.frame
theorem State.idsUnique.freeTensors (h : s.idsUnique) {p} : (s.freeTensors p).idsUnique := h.freePages.frame

theorem State.idsUnique.settleClose (h : s.idsUnique) {t} : (s.settleClose t).idsUnique := by
  unfold State.settleClose
  split
  · exact h
  · exact h.ite ((h.foldl fun _ _ h => h.freeSlot).freePages.beginErase)

theorem State.idsUnique.releaseStream (h : s.idsUnique) {i} : (s.releaseStream i).idsUnique := by
  unfold State.releaseStream
  dsimp only
  split
  · refine .when (.completeAll (.modCp (.filterStreams ?_))) fun h => h.settleClose
    exact (h.foldl fun _ _ h => h.endGrant).freeTensors
  · refine .completeAll (.modCp (.filterStreams ?_))
    exact (h.foldl fun _ _ h => h.endGrant).freeTensors

theorem State.idsUnique.settleStream (h : s.idsUnique) {i} : (s.settleStream i).idsUnique := by
  unfold State.settleStream
  split
  · exact h.releaseStream.ite h
  · exact h

theorem State.idsUnique.settleGrants (h : s.idsUnique) {st} : (s.settleGrants st).idsUnique :=
  h.ite (h.foldl fun _ _ h => h.endGrant)

theorem State.idsUnique.endJob (h : s.idsUnique) {st q code} : (s.endJob st q code).idsUnique := by
  unfold State.endJob
  split
  · exact h
  · refine .settleStream (.settleGrants ?_)
    split
    · exact h.frame.finish.freeTensors.foldl fun _ _ h => h.unpin
    · exact h.frame.finish.freeTensors

theorem State.idsUnique.endJobs (h : s.idsUnique) {p code} : (s.endJobs p code).idsUnique :=
  h.foldl fun _ _ h => h.endJob

/-! ## Runs and reductions -/

theorem State.idsUnique.policyAct (h : s.idsUnique) {policy object} : (s.policyAct policy object).idsUnique :=
  h.logReport

theorem State.idsUnique.allocRun? (h : s.idsUnique) {r img} : OptIds (s.allocRun? r img) :=
  .bind h.allocAll? fun _ h => h.allocAll?

theorem State.idsUnique.freeRunPages (h : s.idsUnique) {id} : (s.freeRunPages id).idsUnique := h.freePages
theorem State.idsUnique.bumpRed (h : s.idsUnique) : s.bumpRed.idsUnique := h.frame

theorem State.idsUnique.addReduction (h : s.idsUnique) {r p chain owner k first elems bcast} :
    (s.addReduction r p chain owner k first elems bcast).idsUnique :=
  h.frame.bumpRed

theorem State.idsUnique.openReductions (h : s.idsUnique) : s.openReductions.idsUnique := h.frame

theorem State.idsUnique.makeReductions (h : s.idsUnique) {r img} : (s.makeReductions r img).idsUnique :=
  (h.foldl fun _ _ h => (h.foldl fun _ _ h => h.foldl fun _ _ h => h.addReduction).whenNot fun h => h.foldl
    fun _ _ h => h.addReduction).openReductions

theorem State.idsUnique.releaseRun (h : s.idsUnique) {id} : (s.releaseRun id).idsUnique := by
  unfold State.releaseRun
  split
  · exact h
  · refine .frame (.modCp ?_)
    split
    · refine .modSlot ?_
      split
      · exact h.freeRunPages.when fun h => h.freeSlot
      · exact h.freeRunPages
    · split
      · exact h.freeRunPages.when fun h => h.freeSlot
      · exact h.freeRunPages

theorem State.idsUnique.tell (h : s.idsUnique) {c n code} : (s.tell c n code).idsUnique := by
  unfold State.tell
  split
  · exact h.frame
  · exact h

theorem State.idsUnique.remakeFail (h : s.idsUnique) {id code} : (s.remakeFail id code).idsUnique := by
  unfold State.remakeFail
  split
  · exact h.tell.releaseRun
  · exact h

theorem State.idsUnique.publish (h : s.idsUnique) {r reply} : (s.publish r reply).idsUnique := by
  unfold State.publish
  split
  · exact h
  · exact h.cacheObj.frame.fresh.postEvent

theorem State.idsUnique.remakeDone (h : s.idsUnique) {id} : (s.remakeDone id).idsUnique := by
  unfold State.remakeDone
  split
  · exact h.ite (h.remakeFail.ite h.publish)
  · exact h

theorem State.idsUnique.startStep (h : s.idsUnique) {id n} : (s.startStep id n).idsUnique := by
  induction n generalizing s with
  | zero => exact h
  | succ n ih =>
    unfold State.startStep
    split
    · exact h
    · refine h.ite (.ite h.modRun.remakeDone (.ite (ih h.modRun) ?_))
      dsimp only
      split
      · exact (h.modRun.foldl fun _ _ h => h.pin).makeReductions
      · exact h.modRun.foldl fun _ _ h => h.pin

theorem State.idsUnique.beginStep (h : s.idsUnique) {id} : (s.beginStep id).idsUnique := h.startStep
theorem State.idsUnique.unpinStep (h : s.idsUnique) {r} : (s.unpinStep r).idsUnique := h.foldl fun _ _ h => h.unpin
theorem State.idsUnique.abandon (h : s.idsUnique) {id} : (s.abandon id).idsUnique := h.frame.openReductions
theorem State.idsUnique.leaveRows (h : s.idsUnique) {p} : (s.leaveRows p).idsUnique := h.frame
theorem State.idsUnique.dropSaved (h : s.idsUnique) {id} : (s.dropSaved id).idsUnique := h.frame
theorem State.idsUnique.dropRows (h : s.idsUnique) {id} : (s.dropRows id).idsUnique := h.leaveRows.dropSaved

theorem State.idsUnique.discardStep (h : s.idsUnique) {id cause st} : (s.discardStep id cause st).idsUnique := by
  unfold State.discardStep
  split
  · exact h
  · exact h.abandon.unpinStep.dropRows.tell.modRun

theorem State.idsUnique.completeStop (h : s.idsUnique) {id} : (s.completeStop id).idsUnique := by
  unfold State.completeStop
  split
  · exact h.modRun.complete
  · exact h.modRun

theorem State.idsUnique.runFail (h : s.idsUnique) {id code} : (s.runFail id code).idsUnique := by
  unfold State.runFail
  split
  · exact h
  · refine .settleUnmount (.remakeFail (.completeStop ?_))
    split
    · exact (h.discardStep.ite h).modRun.complete
    · exact (h.discardStep.ite h).modRun

theorem State.idsUnique.rerunStep (h : s.idsUnique) {id} : (s.rerunStep id).idsUnique := by
  unfold State.rerunStep
  split
  · exact h
  · exact (h.runFail.ite h.modRun.policyAct.beginStep).ite h.modRun.settleUnmount

theorem State.idsUnique.dropStep (h : s.idsUnique) {id cause} : (s.dropStep id cause).idsUnique := by
  unfold State.dropStep
  split
  · exact h
  · exact h.ite (h.discardStep.completeStop.settleUnmount.ite h.discardStep.rerunStep)

theorem State.idsUnique.loseStep (h : s.idsUnique) {id} : (s.loseStep id).idsUnique := h.frame.dropStep

theorem State.idsUnique.commitPoint (h : s.idsUnique) {id} : (s.commitPoint id).idsUnique := by
  unfold State.commitPoint
  refine .modRun (.frame ?_)
  dsimp only
  split
  · exact h.fresh.modCab
  · exact h.fresh

theorem State.idsUnique.finishCommit (h : s.idsUnique) {id} : (s.finishCommit id).idsUnique := by
  unfold State.finishCommit
  split
  · exact h
  · refine .ite (.settleUnmount (.completeStop (.modRun ?_))) (.ite (.beginStep (.modRun ?_)) (.settleUnmount
      (.remakeDone (.modRun ?_))))
    · split
      · exact h.unpinStep.modSlot
      · exact h.unpinStep
    · split
      · exact h.unpinStep.modSlot
      · exact h.unpinStep
    · split
      · exact h.unpinStep.modSlot
      · exact h.unpinStep

theorem State.idsUnique.switchDie (h : s.idsUnique) {id d} : (s.switchDie id d).idsUnique := by
  unfold State.switchDie
  split
  · exact h
  · exact (h.modRun.when fun h => h.finishCommit).ite h

theorem State.idsUnique.settleStart (h : s.idsUnique) {id} : (s.settleStart id).idsUnique := by
  unfold State.settleStart
  split
  · exact h
  · refine h.ite ?_
    split
    · exact h
    · dsimp only
      split
      · split
        · refine .complete (.releaseRun ?_)
          split
          · exact h.tell
          · exact h
        · refine .releaseRun ?_
          split
          · exact h.tell
          · exact h
      next e =>
        have hr := (OptIds.ite (.some h) h.allocRun?) _ e
        refine .beginStep ?_
        split
        · refine .complete (.modRun (.foldl hr fun _ _ h => ?_))
          split
          · exact h.modResidency
          · exact h.frame
        · refine .modRun (.foldl hr fun _ _ h => ?_)
          split
          · exact h.modResidency
          · exact h.frame

theorem State.idsUnique.stopRunFor (h : s.idsUnique) {id code} : (s.stopRunFor id code).idsUnique := by
  unfold State.stopRunFor
  split
  · exact h
  · refine h.modRun.ite (.remakeFail (.completeStop ?_))
    split
    · exact (h.modRun.finishCommit.ite (h.discardStep.ite h)).frame.modRun.complete
    · exact (h.modRun.finishCommit.ite (h.discardStep.ite h)).frame.modRun

/-! ## Fetches -/

theorem State.idsUnique.modFetch (h : s.idsUnique) {id f} : (s.modFetch id f).idsUnique := h.frame
theorem State.idsUnique.claim (h : s.idsUnique) {c n img} : (s.claim c n img).idsUnique := h.frame

theorem State.idsUnique.makeRoom (h : s.idsUnique) {c d n} : OptIds (s.makeRoom c d n) :=
  .ite (.some (.foldlFst h fun _ _ h => by dsimp only; split; exacts [h, h.releaseResidency.settleEvict])) .none

theorem State.idsUnique.reserve? (h : s.idsUnique) {c n g img glove} : OptIds (s.reserve? c n g img glove) :=
  .bind (.foldlBind (.some h) fun _ _ h => h.makeRoom) fun _ h => h.allocAll?

theorem State.idsUnique.addResidency (h : s.idsUnique) {c n g} : (s.addResidency c n g).idsUnique := by
  unfold State.addResidency
  split
  · exact h
  · exact h.frame

theorem State.idsUnique.loadFailed (h : s.idsUnique) {f code} : (s.loadFailed f code).idsUnique := by
  unfold State.loadFailed
  refine .ite ?_ ?_
  · split
    · exact h.frame.answerFetch.runFail
    · exact h.frame.answerFetch
  · split
    · exact h.frame.answerFetch.releaseResidency.runFail
    · dsimp only
      split
      · exact h.frame.answerFetch.modSlot.endRequests.endJobs.releaseResidency.settleEvict.whenNot fun h => h.frame.ite
          h.tell
      · exact h.frame.answerFetch.modSlot.endRequests.endJobs.releaseResidency.settleEvict

theorem State.idsUnique.fromCache (h : s.idsUnique) {f o} : (s.fromCache f o).idsUnique := by
  unfold State.fromCache
  refine h.loadFailed.ite (h.modSlot.modFetch.ite ?_)
  dsimp only
  split
  next e =>
    refine .modFetch ((OptIds.ite .none ?_ : OptIds _) _ e)
    split
    · exact h.modSlot.reserve?
    · exact .some h.modSlot
  · exact h.modSlot.frame.modFetch

theorem State.idsUnique.useObj (h : s.idsUnique) {o} : (s.useObj o).idsUnique := h.modCt

theorem State.idsUnique.runFetch (h : s.idsUnique) {id} : (s.runFetch id).idsUnique := by
  unfold State.runFetch
  split
  · exact h
  · split
    · exact h.useObj.fromCache
    · exact h.fresh.modFetch.postEvent

theorem State.idsUnique.startFetch (h : s.idsUnique) {c n g handle version run dataset replies} :
    (s.startFetch c n g handle version run dataset replies).idsUnique := by
  unfold State.startFetch
  split
  · exact h.modFetch
  · exact (h.frame.whenNot fun h => h.addResidency).whenNot fun h => h.runFetch

theorem State.idsUnique.promote (h : s.idsUnique) {c g n} : (s.promote c g n).idsUnique := by
  induction n generalizing s with
  | zero => exact h
  | succ n ih =>
    unfold State.promote
    refine h.ite ?_
    split
    · exact ih h.modFetch.runFetch
    · exact h

theorem State.idsUnique.promoteAll (h : s.idsUnique) {c} : (s.promoteAll c).idsUnique := h.foldl fun _ _ h => h.promote

theorem State.idsUnique.datasetArrived (h : s.idsUnique) {f o id} : (s.datasetArrived f o id).idsUnique := by
  unfold State.datasetArrived
  split
  · exact h.frame
  · split
    · exact h.loadFailed
    · exact h.frame.modRun.settleStart

theorem State.idsUnique.fetchArrived (h : s.idsUnique) {f o} : (s.fetchArrived f o).idsUnique := by
  unfold State.fetchArrived
  split
  · exact h.datasetArrived
  · exact h.frame
  · dsimp only
    split
    · exact h.loadFailed
    · split
      · refine .settleStart (.answerFetch (.modResidency (.frame (.modSlot ?_))))
        split
        · exact h.claim.writeShare
        · exact h.claim
        · exact h
      · refine .answerFetch (.modResidency (.frame (.modSlot ?_)))
        split
        · exact h.claim.writeShare
        · exact h.claim
        · exact h

theorem State.idsUnique.holdDrawer (h : s.idsUnique) {c k g} : (s.holdDrawer c k g).idsUnique := by
  unfold State.holdDrawer
  split
  · exact h.pin.when fun h => h.startFetch
  · exact h.addResidency.pin.startFetch
  · exact h

theorem State.idsUnique.admitTo (h : s.idsUnique) {q g} : (s.admitTo q g).idsUnique := by
  unfold State.admitTo
  refine h.ite ?_
  dsimp only
  split
  · exact h
  next e =>
    split
    · exact (h.allocAll? _ e).tick.modRequest
    · exact (h.allocAll? _ e).tick.modRequest.touchSlot.holdDrawer

theorem State.idsUnique.slotForRequest (h : s.idsUnique) {c handle} :
    ∀ p ∈ s.slotForRequest c handle, p.2.idsUnique := by
  unfold State.slotForRequest
  split
  · exact fun _ e => by cases e; exact h
  · intro p e
    obtain ⟨x, hx, rfl⟩ := Option.map_eq_some_iff.1 e
    exact (h.takeSlot x hx).bindSlot

theorem State.idsUnique.tryAdmit (h : s.idsUnique) {i} : (s.tryAdmit i).idsUnique := by
  unfold State.tryAdmit
  split
  · exact h
  · refine h.ite (.ite ?_ ?_)
    · split
      · exact h.admitTo
      · exact h
    · split
      · exact h
      next e =>
        split
        · exact h.slotForRequest _ e
        · refine (h.slotForRequest _ e).modRequest.endRequest.ite ((h.slotForRequest _ e).modRequest.endRequest.ite
            ((h.slotForRequest _ e).modRequest.endRequest.ite ((h.slotForRequest _ e).modRequest.ite ?_)))
          split
          · exact (h.slotForRequest _ e).modRequest.admitTo
          · exact (h.slotForRequest _ e).modRequest

theorem State.idsUnique.repin (h : s.idsUnique) {i} : (s.repin i).idsUnique := by
  unfold State.repin
  split
  · exact h
  · split
    · exact h.ite h.modRequest.holdDrawer
    · exact h

theorem State.idsUnique.refetch (h : s.idsUnique) {c k g} : (s.refetch c k g).idsUnique :=
  (h.foldl fun _ _ h => h.modRequest.unpin).evictOne.foldl fun _ _ h => h.repin

/-! ## Reports and policies -/

theorem State.idsUnique.rejoin (h : s.idsUnique) {p} : (s.rejoin p).idsUnique :=
  h.mapRequests fun q => by dsimp only; split <;> rfl

theorem State.idsUnique.stopServing (h : s.idsUnique) {d} : (s.stopServing d).idsUnique := h.frame

theorem State.idsUnique.cutDie (h : s.idsUnique) {d} : (s.cutDie d).idsUnique :=
  (h.foldl fun _ _ h => h.rejoin).stopServing.modDie

theorem State.idsUnique.unseat (h : s.idsUnique) {d p} : (s.unseat d p).idsUnique := h.modDie
theorem State.idsUnique.stopOn (h : s.idsUnique) {d l} : (s.stopOn d l).idsUnique := h.frame

theorem State.idsUnique.cutGroup (h : s.idsUnique) {d} : (s.cutGroup d).idsUnique := by
  unfold State.cutGroup
  split
  · exact h.cutDie
  · exact h.foldl fun _ _ h => h.cutDie

theorem State.idsUnique.clearCluster (h : s.idsUnique) {d c} : (s.clearCluster d c).idsUnique := h.frame
theorem State.idsUnique.abortCluster (h : s.idsUnique) {d c} : (s.abortCluster d c).idsUnique := h.endJobs

theorem State.idsUnique.loseCluster (h : s.idsUnique) {d c} : (s.loseCluster d c).idsUnique := by
  unfold State.loseCluster
  refine .clearCluster ?_
  split
  · exact h.abortCluster.unseat.stopOn
  · exact h.abortCluster

theorem State.idsUnique.dropSteps (h : s.idsUnique) {d cause} : (s.dropSteps d cause).idsUnique :=
  h.foldl fun _ _ h => h.dropStep

theorem State.idsUnique.memberLost (h : s.idsUnique) {d} : (s.memberLost d).idsUnique := h.frame

theorem State.idsUnique.moveRun (h : s.idsUnique) {r dies} : OptIds (s.moveRun r dies) := by
  unfold State.moveRun
  dsimp only
  split
  · exact State.idsUnique.allocRun? (h.freeRunPages.frame.modRun.frame)
  · exact .some (h.freeRunPages.frame.modRun.frame)

theorem State.idsUnique.regroup (h : s.idsUnique) {id d} : (s.regroup id d).idsUnique := by
  unfold State.regroup
  split
  · exact h
  · refine h.ite (h.runFail.ite (h.runFail.ite ?_))
    split
    · exact h.runFail
    next e =>
      obtain ⟨m, -, hm⟩ := Option.bind_eq_some_iff.1 e
      obtain ⟨u, hu, hp⟩ := Option.map_eq_some_iff.1 hm
      obtain ⟨-, rfl⟩ := Prod.mk.inj hp
      exact (h.moveRun _ hu).modRun.policyAct.beginStep

theorem State.idsUnique.runsLoseDie (h : s.idsUnique) {d} : (s.runsLoseDie d).idsUnique :=
  h.foldl fun _ _ h => (h.discardStep.ite h).completeStop.ite ((h.discardStep.ite h).regroup)

theorem State.idsUnique.requeue (h : s.idsUnique) {q} : (s.requeue q).idsUnique := by
  unfold State.requeue
  refine .tryAdmit ?_
  split
  · exact h.freePages.modRequest.unpin
  · exact h.freePages.modRequest

theorem State.idsUnique.migrate (h : s.idsUnique) {c g code} : (s.migrate c g code).idsUnique :=
  h.ite ((h.foldl fun _ _ h => h.requeue).policyAct.ite (h.foldl fun _ _ h => h.endRequest))

theorem State.idsUnique.retireCluster (h : s.idsUnique) {d c} : (s.retireCluster d c).idsUnique := by
  unfold State.retireCluster
  refine h.ite (h.modDie.policyAct.ite (.checkReserves (.dropSteps ?_)))
  split
  · exact h.loseCluster.modDie.modDie.clearCluster.modCp.policyAct
  · exact h.loseCluster.modDie.modDie.policyAct

theorem State.idsUnique.retireDie (h : s.idsUnique) {d} : (s.retireDie d).idsUnique := by
  unfold State.retireDie
  refine h.ite (.checkReserves ?_)
  split
  · exact (h.cutGroup.modDie.policyAct.endJobs.foldl fun _ _ h => h.clearCluster).memberLost.runsLoseDie.migrate
  · exact (h.cutGroup.modDie.policyAct.endJobs.foldl fun _ _ h => h.clearCluster).memberLost.runsLoseDie

theorem State.idsUnique.loseStack (h : s.idsUnique) {k1} : (s.loseStack k1).idsUnique := by
  refine .settleSweeps (.blocksGone (.modStk ?_))
  exact h.of_sublist rfl rfl (.refl _) (.refl _)

theorem State.idsUnique.retireStack (h : s.idsUnique) {k1} : (s.retireStack k1).idsUnique := by
  unfold State.retireStack
  refine h.ite (.checkReserves ?_)
  dsimp only
  split
  · exact (h.loseStack.modDie.policyAct.foldl fun _ _ h => h.dropStep.runFail.ite h.dropStep.modRun).when fun h =>
      h.cutGroup.migrate
  · exact h.loseStack.modDie.policyAct.foldl fun _ _ h => h.dropStep.runFail.ite h.dropStep.modRun

theorem State.idsUnique.note (h : s.idsUnique) {policy object} : (s.note policy object).idsUnique := h.modCp

theorem State.idsUnique.policyCluster (h : s.idsUnique) {r} : (s.policyCluster r).idsUnique := by
  unfold State.policyCluster
  split
  · exact h
  · exact (h.note.ite h).when fun h => h.retireCluster

theorem State.idsUnique.policyDie (h : s.idsUnique) {r spare lostCluster} :
    (s.policyDie r spare lostCluster).idsUnique :=
  (h.note.ite h).when fun h => h.retireDie

theorem State.idsUnique.policyStack (h : s.idsUnique) {r} : (s.policyStack r).idsUnique :=
  h.ite ((h.note.ite h).when fun h => h.retireStack)

theorem State.idsUnique.report (h : s.idsUnique) {r} : (s.report r).idsUnique :=
  h.logReport.whenNot fun h => h.policyCluster.policyDie.policyStack

theorem State.idsUnique.isolation (h : s.idsUnique) {check block unit die cab touched} :
    (s.isolation check block unit die cab touched).idsUnique :=
  h.report

/-! ## Reductions over hatband -/

theorem State.idsUnique.modRed (h : s.idsUnique) {id f} : (s.modRed id f).idsUnique := h.frame
theorem State.idsUnique.trackItems (h : s.idsUnique) : s.trackItems.idsUnique := h.frame

theorem State.idsUnique.pump (h : s.idsUnique) {id d} : (s.pump id d).idsUnique := by
  unfold State.pump
  split
  · exact h
  · refine h.ite ?_
    dsimp only
    split
    · exact h
    · split
      · exact h.modRed
      · exact h

theorem State.idsUnique.afterRed (h : s.idsUnique) {id} : (s.afterRed id).idsUnique := by
  unfold State.afterRed
  split
  · exact h
  · exact h.dropStep.ite (h.dropStep.ite h.openReductions)

theorem State.idsUnique.closeAlone (h : s.idsUnique) {x i codes} : (s.closeAlone x i codes).idsUnique := h.modRed

theorem State.idsUnique.enter (h : s.idsUnique) {x d i} : (s.enter x d i).idsUnique := by
  unfold State.enter
  refine .ite (h.modRed.ite ?_) (h.modRed.ite h.modRed.pump)
  split
  · exact h
  · exact h.modRed

theorem State.idsUnique.dropMember (h : s.idsUnique) {id d} : (s.dropMember id d).idsUnique := by
  unfold State.dropMember
  split
  · exact h
  · refine .ite (h.modRed.ite ?_) h.modRed
    split
    · exact h
    · exact h.modRed

theorem State.idsUnique.reportDrop (h : s.idsUnique) {x m tokens} : (s.reportDrop x m tokens).idsUnique := by
  unfold State.reportDrop
  split
  · exact h
  · exact (h.postTenant.ite h.postStream).postEvent

theorem State.idsUnique.commitStep (h : s.idsUnique) {id} : (s.commitStep id).idsUnique := by
  unfold State.commitStep
  split
  · exact h
  · refine .commitPoint ?_
    dsimp only
    split
    · exact h.modRun
    · exact h

/-! ## Cabinets, shelves and streams -/

theorem State.idsUnique.wear (h : s.idsUnique) {d c g} : (s.wear d c g).idsUnique := h.tick.modCluster

theorem State.idsUnique.endMount (h : s.idsUnique) {c code} : (s.endMount c code).idsUnique :=
  h.freePages.discardGlove.modCab.completeAll

theorem State.idsUnique.writeShelf (h : s.idsUnique) {c i} : (s.writeShelf c i).idsUnique :=
  h.foldl fun _ _ h => h.fillPages

theorem State.idsUnique.startMount (h : s.idsUnique) {r c img meas} : (s.startMount r c img meas).idsUnique := by
  unfold State.startMount
  dsimp only
  split
  · exact h.fresh.modRot.modCab.accept
  · split
    · exact h.fresh.modRot.endMount.complete
    · split
      · exact h.fresh.modRot.endMount.complete
      next e => exact (h.fresh.modRot.allocAll? _ e).modCab.accept

theorem State.idsUnique.unmountBegin (h : s.idsUnique) {c cut rs code} : (s.unmountBegin c cut rs code).idsUnique :=
  ((h.modCab.foldl fun _ _ h => h.stopRunFor).when fun h => h.endRequests).settleUnmount

theorem State.idsUnique.placeProgram (h : s.idsUnique) {r c id off len img} :
    (s.placeProgram r c id off len img).idsUnique := by
  unfold State.placeProgram
  dsimp only
  split
  · exact h.accept.complete
  · refine h.accept.complete.ite (h.accept.complete.ite ?_)
    split
    · exact h.accept.complete
    next e => exact ((h.accept.allocAll? _ e).foldl fun _ _ h => h.fillPages).frame.complete

/-! ## Jobs -/

/-- The definition is unfolded where it stands alone: unfolded at its arguments, the kernel would compute the pages of
  `bytes`. -/
theorem State.idsUnique.newTensor (h : s.idsUnique) {x hd bytes d} : (s.newTensor x hd bytes d).idsUnique := by
  suffices H : ∀ f, f = @State.newTensor → (f s x hd bytes d).idsUnique from H _ rfl
  intro f hf
  delta State.newTensor at hf
  subst hf
  beta_reduce
  extract_lets kind
  split
  · exact h
  next e => exact (h.alloc? _ e).frame

theorem State.idsUnique.pinJob (h : s.idsUnique) {st q c n g} : (s.pinJob st q c n g).idsUnique := by
  unfold State.pinJob
  split
  · exact h.ite (h.addResidency.pin.modJob.whenNot fun h => h.startFetch)
  · exact h

theorem State.idsUnique.pinAll (h : s.idsUnique) {c j} : (s.pinAll c j).idsUnique := by
  unfold State.pinAll
  split
  · exact h
  · exact h.foldl fun _ _ h => h.pinJob

theorem State.idsUnique.acceptJob (h : s.idsUnique) {r x a} : (s.acceptJob r x a).idsUnique := by
  unfold State.acceptJob
  dsimp only
  split
  · exact (h.foldl fun _ _ h => h.foldl fun _ _ h => h.newTensor).frame.modStream.accept
  · exact (h.foldl fun _ _ h => h.foldl fun _ _ h => h.newTensor).frame.modStream.accept.touchSlot.pinAll

theorem State.idsUnique.grantJob? (h : s.idsUnique) {j} : OptIds (s.grantJob? j) :=
  .foldlBind (.some h) fun _ _ h => h.grantOne?

/-! ## Serving -/

theorem State.idsUnique.markPassed (h : s.idsUnique) {c g rows} : (s.markPassed c g rows).idsUnique :=
  h.mapRequests fun q => by split <;> rfl

theorem State.idsUnique.reportPlacement (h : s.idsUnique) {d cab p} : (s.reportPlacement d cab p).idsUnique :=
  h.foldl fun _ _ h => h.foldl fun _ _ h => h.ite h.report

theorem State.idsUnique.seatRows (h : s.idsUnique) {rows} : (s.seatRows rows).idsUnique :=
  h.mapRequests fun q => by dsimp only; split <;> rfl

theorem State.idsUnique.countPass (h : s.idsUnique) {c g rows} : (s.countPass c g rows).idsUnique :=
  (h.modCab.foldl fun _ _ h => h.modGlove).foldl fun _ _ h => h.tick.modResidency.touchSlot

theorem State.idsUnique.putAct (h : s.idsUnique) {d c r} : (s.putAct d c r).idsUnique := by
  unfold State.putAct
  split
  · exact h
  · exact h
  · exact h.modCluster

theorem State.idsUnique.beginPass (h : s.idsUnique) {d c p} : (s.beginPass d c p).idsUnique :=
  ((h.modDie.foldl fun _ _ h => (h.wear.foldl fun _ _ h => h.wear).modCluster).when fun h => h.foldl fun _ _ h =>
    h.putAct).reportPlacement

theorem State.idsUnique.startNew (h : s.idsUnique) {d c g trans rows} : (s.startNew d c g trans rows).idsUnique :=
  (h.ite h.markPassed).seatRows.modDie.countPass.beginPass

theorem State.idsUnique.startArrived (h : s.idsUnique) {d c p} : (s.startArrived d c p).idsUnique := h.modDie.beginPass

theorem State.idsUnique.switchRuns (h : s.idsUnique) {d} : (s.switchRuns d).idsUnique :=
  h.foldl fun _ _ h => h.switchDie

theorem State.idsUnique.reseat (h : s.idsUnique) {rows} : (s.reseat rows).idsUnique :=
  h.mapRequests fun q => by dsimp only; split <;> rfl

theorem State.idsUnique.freeBlocks (h : s.idsUnique) {d seating} : (s.freeBlocks d seating).idsUnique := h.modDie

theorem State.idsUnique.takeBlocks (h : s.idsUnique) {d c g n seating saved data} :
    (s.takeBlocks d c g n seating saved data).idsUnique :=
  h.modDie

theorem State.idsUnique.holdRows (h : s.idsUnique) {d c p} : (s.holdRows d c p).idsUnique :=
  h.foldl fun _ _ h => h.takeBlocks

theorem State.idsUnique.spillSaved (h : s.idsUnique) {d n} : (s.spillSaved d n).idsUnique := h.modDie

theorem State.idsUnique.settleSaved (h : s.idsUnique) {d r} : (s.settleSaved d r).idsUnique := by
  unfold State.settleSaved
  split
  · exact h
  · exact h.takeBlocks.ite h.modDie

theorem State.idsUnique.deliverToken (h : s.idsUnique) {c g i token} : (s.deliverToken c g i token).idsUnique := by
  unfold State.deliverToken
  split
  · exact h
  · refine .ite (.closeRequest (.modRequest (.modSession ?_))) (.modDie (.modRequest (.modSession ?_)))
    · dsimp only
      split
      · exact h.modCab.modGlove
      · exact h.modCab
    · dsimp only
      split
      · exact h.modCab.modGlove
      · exact h.modCab

theorem State.idsUnique.requestsPassed (h : s.idsUnique) {c g p tokens} :
    (s.requestsPassed c g p tokens).idsUnique := by
  unfold State.requestsPassed
  refine h.foldl fun _ _ h => ?_
  split
  · exact h
  · exact h.ite (h.modRequest.when fun h => h.fresh.deliverToken)

theorem State.idsUnique.cutRequests (h : s.idsUnique) {c p} : (s.cutRequests c p).idsUnique :=
  h.ite (h.foldl fun _ _ h => h.ite h.endRequest)

theorem State.idsUnique.runsPassed (h : s.idsUnique) {p} : (s.runsPassed p).idsUnique := h.frame
theorem State.idsUnique.backPassed (h : s.idsUnique) {d p} : (s.backPassed d p).idsUnique := h.frame

theorem State.idsUnique.savePassed (h : s.idsUnique) {d p} : (s.savePassed d p).idsUnique :=
  h.frame.foldl fun _ _ h => h.settleSaved

theorem State.idsUnique.handOver (h : s.idsUnique) {d p} : (s.handOver d p).idsUnique := h.ite h.modDie

theorem State.idsUnique.runAgain (h : s.idsUnique) {d first rows} : (s.runAgain d first rows).idsUnique :=
  h.reseat.ite h.modDie

/-! ## What descriptors share -/

theorem State.idsUnique.wearOnce (h : s.idsUnique) {d c g} : (s.wearOnce d c g).idsUnique := h.ite h.wear

theorem State.idsUnique.wearFor (h : s.idsUnique) {x die cs} : (s.wearFor x die cs).idsUnique := by
  unfold State.wearFor
  split
  · exact (h.foldl fun _ _ h => h.wearOnce).ite h
  · exact h

theorem State.idsUnique.settleJob (h : s.idsUnique) {st q} : (s.settleJob st q).idsUnique := by
  unfold State.settleJob
  split
  · exact h
  · exact h.ite ((h.modStream.ite h).endJob)

theorem State.idsUnique.stopJob (h : s.idsUnique) {st q code record} : (s.stopJob st q code record).idsUnique :=
  h.modJob

theorem State.idsUnique.trapJob (h : s.idsUnique) {x q ts} : (s.trapJob x q ts).idsUnique := by
  unfold State.trapJob
  split
  · exact h
  · exact h.foldl fun _ _ h => h.modJob.ite h.stopJob

theorem State.idsUnique.shelfOperand (h : s.idsUnique) {c d cl layer proj} :
    (s.shelfOperand c d cl layer proj).idsUnique :=
  h.report.postEvent

theorem State.idsUnique.trapServing (h : s.idsUnique) {t} : (s.trapServing t).idsUnique := by
  unfold State.trapServing
  split
  · exact h.modRequest.endRequest.ite h
  · split
    · split
      · exact h.modRun.discardStep.ite h
      · exact h
    · exact h

theorem State.idsUnique.retireDesc (h : s.idsUnique) {d st q op k clusters} :
    (s.retireDesc d st q op k clusters).idsUnique := by
  unfold State.retireDesc
  split
  · exact h
  · exact h.modTensor.modDie.modJob.settleJob.ite (h.modTensor.modDie.modJob.when fun h => h.endJob)

/-! ## Drawers -/

theorem State.idsUnique.bound (h : s.idsUnique) {r c n} : (s.bound r c n).idsUnique := h.complete

theorem State.idsUnique.rebind (h : s.idsUnique) {c old version owner} :
    ∀ p ∈ s.rebind c old version owner, p.2.idsUnique := by
  intro p e
  obtain ⟨x, hx, rfl⟩ := Option.map_eq_some_iff.1 e
  exact (h.takeSlot x hx).modSlot.bindSlot.settleEvict

theorem State.idsUnique.bindHandle (h : s.idsUnique) {r c handle asked} :
    (s.bindHandle r c handle asked).idsUnique := by
  unfold State.bindHandle
  dsimp only
  split
  · refine h.bound.ite (h.complete.ite ?_)
    split
    next e => exact (h.rebind _ e).bound
    · exact h.complete
  · split
    · exact h.complete
    next e => exact (h.takeSlot _ e).bindSlot.bound

theorem State.idsUnique.evictSlot (h : s.idsUnique) {r x m unbind} : (s.evictSlot r x m unbind).idsUnique :=
  ((h.foldl fun _ _ h => h.evictOne).modSlot.ite ((h.foldl fun _ _ h => h.evictOne).freeSlot.complete.ite ((h.foldl
    fun _ _ h => h.evictOne).complete.settleCache))).promoteAll

theorem State.idsUnique.shrinkCache (h : s.idsUnique) {c d} : (s.shrinkCache c d).idsUnique :=
  h.foldl fun _ _ h => h.ite h.releaseResidency.settleEvict

theorem State.idsUnique.nextFetches (h : s.idsUnique) {f} : (s.nextFetches f).idsUnique := h.promote

/-! ## The memory of a stack -/

theorem State.idsUnique.useGlove (h : s.idsUnique) {k1 g} : OptIds (s.useGlove k1 g) := by
  unfold State.useGlove
  refine .ite (.some h.tick.modStk) ?_
  split
  · exact .none
  · refine .ite (.none) (.ite (.some h.tick.modStk) ?_)
    dsimp only
    split
    · exact .some h.tick.modStk
    · exact .none

theorem State.idsUnique.countMem (h : s.idsUnique) {k1 c} : (s.countMem k1 c).idsUnique := h.modStk
theorem State.idsUnique.dropRequestRows (h : s.idsUnique) {i} : (s.dropRequestRows i).idsUnique := h.leaveRows.frame

theorem State.idsUnique.rebuildKv (h : s.idsUnique) {i object} : (s.rebuildKv i object).idsUnique := by
  unfold State.rebuildKv
  split
  · exact h
  · split
    · exact h
    · dsimp only
      split
      · exact h.freePages.endRequest
      next e => exact (h.freePages.allocAll? _ e).dropRequestRows.modRequest.policyAct

theorem State.idsUnique.rewriteShelf (h : s.idsUnique) {d p} : (s.rewriteShelf d p).idsUnique := by
  unfold State.rewriteShelf
  dsimp only
  split
  · exact h.frame
  · exact h

theorem State.idsUnique.withhold (h : s.idsUnique) {d k2 p t} : (s.withhold d k2 p t).idsUnique :=
  (h.modDie.when fun h => h.rewriteShelf.policyAct).ite (h.unseat.refetch.ite ((h.unseat.rebuildKv.ite
    h.unseat.endRequest).ite (h.loseStep.ite h.stopJob.settleJob)))

theorem State.idsUnique.memError (h : s.idsUnique) {addr p c src touched} :
    (s.memError addr p c src touched).idsUnique := by
  unfold State.memError
  dsimp only
  split
  · exact h.countMem
  · exact h.countMem.logReport
  · exact (h.countMem.logReport.whenNot fun h => (h.foldl fun _ _ h => h.withhold).ite (h.withhold.ite (h.foldl
      fun _ _ h => h.withhold))).when fun h => h.policyStack

theorem State.idsUnique.find (h : s.idsUnique) {f page} : (s.find f page).idsUnique := by
  unfold State.find
  refine .ite ?_ (.checkReserves (.logReport ?_))
  · split
    · exact h.frame.modStk
    · exact h.frame
  · split
    · exact h.frame.modStk
    · exact h.frame

theorem State.idsUnique.noteCorrection (h : s.idsUnique) {addr sym} : (s.noteCorrection addr sym).idsUnique :=
  h.modStk.when fun h => h.find

theorem State.idsUnique.scrub (h : s.idsUnique) {addr sym trueData n} : (s.scrub addr sym trueData n).idsUnique :=
  (h.ite h.frame).modStk.noteCorrection

theorem State.idsUnique.decodeRead (h : s.idsUnique) {addr p e src touched} :
    (s.decodeRead addr p e src touched).2.idsUnique := by
  unfold State.decodeRead
  dsimp only
  cases decodeSector e with
  | clean | mismatch | uncorrectable => exact h.fresh.memError
  | corrected k => exact h.fresh.memError.scrub

theorem State.idsUnique.dropMerge (h : s.idsUnique) {k1 sector} : (s.dropMerge k1 sector).idsUnique := h.frame

theorem State.idsUnique.modifySector (h : s.idsUnique) {addr bs err touched} :
    (s.modifySector addr bs err touched).2.idsUnique := by
  unfold State.modifySector
  split
  next e => exact h.decodeRead.of_snd e
  next e => exact (h.decodeRead.of_snd e).frame

theorem State.idsUnique.flush (h : s.idsUnique) {m err} : (s.flush m err).idsUnique :=
  h.dropMerge.frame.ite h.dropMerge.modifySector

theorem State.idsUnique.flushSector (h : s.idsUnique) {k1 sector err} : (s.flushSector k1 sector err).idsUnique := by
  unfold State.flushSector
  split
  · exact h.flush
  · exact h

theorem State.idsUnique.gather (h : s.idsUnique) {k1 sector bs g t err} :
    (s.gather k1 sector bs g t err).idsUnique := by
  unfold State.gather
  split
  · exact h.frame.when fun h => h.flush
  · refine .frame ?_
    split
    · exact h.flush.ite h
    · exact h

theorem State.idsUnique.endAccess (h : s.idsUnique) {t} : (s.endAccess t).idsUnique := by
  unfold State.endAccess
  split
  · exact h.endRequest
  · exact h.dropStep
  · exact h.stopJob.settleJob

theorem State.idsUnique.refuseAccess (h : s.idsUnique) {k1 cab touched} : (s.refuseAccess k1 cab touched).idsUnique :=
  (h.isolation.foldl fun _ _ h => h.endAccess).frame

theorem State.idsUnique.demandRead (h : s.idsUnique) {addr a e} : (s.demandRead addr a e).idsUnique := by
  unfold State.demandRead
  dsimp only
  split
  · exact h
  · exact h.modStk.memError.when fun h => h.find

theorem State.idsUnique.supplyGloves (h : s.idsUnique) {k p src} : OptIds (s.supplyGloves k p src) :=
  .ite (.foldlBind (.some h) fun _ _ h => h.useGlove) (.some h)

theorem State.idsUnique.onBus (h : s.idsUnique) {core fault data} : (s.onBus core fault data).idsUnique := h.frame

theorem State.idsUnique.apertureWrite (h : s.idsUnique) {core addr bytes} :
    (s.apertureWrite core addr bytes).idsUnique := by
  unfold State.apertureWrite
  split
  · exact h.onBus
  · exact h.onBus.ite (h.ite ((h.foldl fun _ _ h => h.flushSector).frame.onBus))

/-! ## Runs on command -/

theorem State.idsUnique.sourceRun (h : s.idsUnique) {r sh} : (s.sourceRun r sh).idsUnique :=
  h.modSlot.ite (h.foldl fun _ _ h => h.startFetch.ite h)

theorem State.idsUnique.fetchDataset (h : s.idsUnique) {r} : (s.fetchDataset r).idsUnique := by
  unfold State.fetchDataset
  split
  · exact h.startFetch
  · exact h

theorem State.idsUnique.createRun (h : s.idsUnique) {t stream ws remakeOf reply} :
    ∀ u, s.createRun t stream ws remakeOf reply = .inr u → u.idsUnique := by
  intro u e
  unfold State.createRun at e
  dsimp only at e
  split at e
  next hs =>
    split at e
    next => cases e
    next hr =>
      cases e
      refine .fetchDataset (.sourceRun ?_)
      have h0 := h.takeSlot _ hs
      have h1 := (OptIds.ite (.allocRun? (.frame ?_)) (.some (.frame ?_)) : OptIds _) _ hr
      · split
        · exact h1.accept
        · exact h1
      all_goals
        split
        · exact h0.bindSlot.modCp
        · exact h0.bindSlot
  · cases e
  · cases e

theorem State.idsUnique.stopNow (h : s.idsUnique) {id} : (s.stopNow id).idsUnique := h.modRun.completeStop

theorem State.idsUnique.bindStored (h : s.idsUnique) {x} : (s.bindStored x).idsUnique := by
  unfold State.bindStored
  refine h.foldl fun _ _ h => ?_
  split
  · refine .ite ?_ h
    split
    next e => exact h.rebind _ e
    · exact h
  · refine .ite ?_ h
    split
    next e => exact (h.takeSlot _ e).bindSlot
    · exact h

/-! ## Mailboxes and the bus -/

theorem State.idsUnique.modPigeon (h : s.idsUnique) {c n f} : (s.modPigeon c n f).idsUnique := h.modCt
theorem State.idsUnique.modTray (h : s.idsUnique) {c n f} : (s.modTray c n f).idsUnique := h.modCt
theorem State.idsUnique.pigeonCtrl (h : s.idsUnique) {c n v} : (s.pigeonCtrl c n v).idsUnique := h.modPigeon.ite h
theorem State.idsUnique.ring (h : s.idsUnique) {c n} : (s.ring c n).idsUnique := h.ite (h.modTray.ite h.modTray)
theorem State.idsUnique.hear (h : s.idsUnique) {c} : (s.hear c).idsUnique := h.modCt
theorem State.idsUnique.trayWrite (h : s.idsUnique) {c n f} : (s.trayWrite c n f).idsUnique := h.modTray.ite h

theorem State.idsUnique.windowWrite (h : s.idsUnique) {c off size v} : (s.windowWrite c off size v).2.idsUnique := by
  have hone : ∀ {u : State} {n f g} {p q : Prop} {_ : Decidable p} {_ : Decidable q}, u.idsUnique →
      (if p then u.modPigeon c n f else if q then u.modPigeon c n g else u).idsUnique :=
    fun h => h.modPigeon.ite (h.modPigeon.ite h)
  unfold State.windowWrite
  dsimp only
  split
  · split
    · exact hone h
    · split
      · exact hone (hone h)
      · exact h
  · split
    · split
      · exact h
      · exact h.modTray.ite (h.modTray.ite (h.modTray.ite (h.ring.ite (h.modTray.ite h))))
    · exact h

theorem State.idsUnique.flushJournal (h : s.idsUnique) {c} : (s.flushJournal c).idsUnique :=
  h.modCp.foldl fun _ _ h => h.deliver

theorem State.idsUnique.tableAlone (h : s.idsUnique) : s.tableAlone.idsUnique :=
  h.modRot.foldl fun _ _ h => h.installGlove

theorem State.idsUnique.beginTakeOver (h : s.idsUnique) {c r} : (s.beginTakeOver c r).idsUnique := h.modCt.modCp

theorem State.idsUnique.dropUncommitted (h : s.idsUnique) : s.dropUncommitted.idsUnique :=
  h.foldl fun _ _ h => h.dropStep

/-! ## Resynchronisation and the journal -/

theorem State.idsUnique.resyncTenant (h : s.idsUnique) {r t ws} : (s.resyncTenant r t ws).idsUnique :=
  h.complete.ite h.complete

theorem State.idsUnique.resyncModule (h : s.idsUnique) {r ws} : (s.resyncModule r ws).idsUnique := by
  unfold State.resyncModule
  dsimp only
  split
  · exact h.complete
  · exact h.complete.ite h.writeCtl.complete

/-! ## Resets of a scope -/

theorem State.idsUnique.resetClusterNow (h : s.idsUnique) {d c} : (s.resetClusterNow d c).idsUnique :=
  h.loseCluster.blocksGone.modDie.dropSteps

theorem State.idsUnique.clearDie (h : s.idsUnique) {d} : (s.clearDie d).idsUnique :=
  (((h.endJobs.cutDie.frame.foldl fun _ _ h => h.clearCluster).foldl fun _ _ h => h.flush).foldl fun _ _ h =>
    h.modStk).blocksGone.modCp.modDie

theorem State.idsUnique.resetDieNow (h : s.idsUnique) {d} : (s.resetDieNow d).idsUnique :=
  h.clearDie.memberLost.runsLoseDie

theorem State.idsUnique.clearCabinet (h : s.idsUnique) {c} : (s.clearCabinet c).idsUnique := by
  unfold State.clearCabinet
  exact (h.endRequests.endJobs.freeTensors.frame.answerFetch.foldl fun _ _ h => (h.foldl fun _ _ h =>
    h.releaseResidency).settleEvict).freePages.settleCache

theorem State.idsUnique.resetCabinetNow (h : s.idsUnique) {c keep} : (s.resetCabinetNow c keep).idsUnique :=
  (((h.endMount.ite h).whenNot fun h => h.foldl fun _ _ h => h.stopRunFor).foldl fun _ _ h =>
    h.resetDieNow).clearCabinet.modCab

theorem State.idsUnique.resetNow (h : s.idsUnique) {a} : (s.resetNow a).idsUnique := by
  unfold State.resetNow
  split
  · exact h.resetClusterNow
  · exact h.resetDieNow
  · exact h.resetCabinetNow

theorem State.idsUnique.startReset (h : s.idsUnique) {j} : (s.startReset j).idsUnique :=
  (h.foldl fun _ _ h => h.accept).modCp.resetNow

theorem State.idsUnique.askReset (h : s.idsUnique) {r a w} : (s.askReset r a w).idsUnique := by
  unfold State.askReset
  split
  · exact h.accept.modCp
  · exact h.modCp.ite h.startReset

theorem State.idsUnique.wakeResets (h : s.idsUnique) : s.wakeResets.idsUnique := by
  unfold State.wakeResets
  refine h.foldl fun _ _ h => h.ite ?_
  dsimp only
  split
  · exact h.modCp.foldl fun _ _ h => h.askReset
  · exact h.modCp.startReset

theorem State.idsUnique.clusterBack (h : s.idsUnique) {d c} : (s.clusterBack d c).idsUnique := by
  unfold State.clusterBack
  dsimp only
  split
  · exact h.modDie.when fun h => h.wear
  · exact h.modDie

theorem State.idsUnique.dieBack (h : s.idsUnique) {d} : (s.dieBack d).idsUnique :=
  h.modDie.foldl fun _ _ h => h.clusterBack

theorem State.idsUnique.cabinetBack (h : s.idsUnique) {c keep} : (s.cabinetBack c keep).idsUnique :=
  (h.releaseShelf.ite h.modCab).foldl fun _ _ h => h.dieBack

/-! ## Attestation -/

theorem State.idsUnique.attestation (h : s.idsUnique) {ct nonce scope tenant} :
    (s.attestation ct nonce scope tenant).2.idsUnique :=
  h.fresh

theorem State.idsUnique.signed (h : s.idsUnique) : s.signed.2.2.idsUnique := h.fresh

theorem State.idsUnique.measurements (h : s.idsUnique) {r ct index nonce} :
    (s.measurements r ct index nonce).2.idsUnique := by
  unfold State.measurements
  dsimp only
  split
  · exact h.signed
  · split
    · exact h.attestation.signed
    · split
      · split
        · exact h.attestation.signed
        · exact h
      · exact h

theorem State.idsUnique.spdmAnswer (h : s.idsUnique) {r ct ask} : (s.spdmAnswer r ct ask).2.idsUnique := by
  cases ask with
  | version | capabilities | algorithms | digests | certificate _ | other _ => exact h
  | challenge _ => exact h.signed
  | measurements _ _ => exact h.measurements

theorem State.idsUnique.spdm (h : s.idsUnique) {r ask} : (s.spdm r ask).idsUnique := by
  unfold State.spdm
  refine h.ite ?_
  split
  · exact h.modRot
  · exact h.spdmAnswer.modRot

theorem State.idsUnique.answerHeld (h : s.idsUnique) : s.answerHeld.idsUnique := h.modRot.foldl fun _ _ h => h.spdm

/-! ## Tenants and gloves on command -/

theorem State.idsUnique.closeSession (h : s.idsUnique) {n tell code} : (s.closeSession n tell code).idsUnique :=
  h.endRequests.dropSession

theorem State.idsUnique.endTenant (h : s.idsUnique) {t carrier} : (s.endTenant t carrier).idsUnique :=
  (((h.endRequests.foldl fun _ _ h => h.modSession.ite h.dropSession).foldl fun _ _ h =>
    h.stopRunFor.releaseRun.settleUnmount).frame.foldl fun _ _ h => h.modStream).foldl fun _ _ h =>
      h.endJobs.settleStream

theorem State.idsUnique.closeGlove (h : s.idsUnique) {r t remove carrier} :
    (s.closeGlove r t remove carrier).idsUnique := by
  unfold State.closeGlove
  dsimp only
  split
  · exact h.accept.endTenant.modRot.complete
  · refine .ite (.modGlove ?_) h.accept.modGlove.endTenant.completeAll.settleClose
    split
    · exact h.accept.modSession
    · exact h.accept

theorem State.idsUnique.blockDone (h : s.idsUnique) {glove b} : (s.blockDone glove b).idsUnique := h.modGlove.gloveStep

/-! ## Consents -/

theorem State.idsUnique.installToken (h : s.idsUnique) {bs sigOk tenant} :
    (s.installToken bs sigOk tenant).2.idsUnique := by
  unfold State.installToken
  dsimp only
  split
  · exact h
  · split
    · exact h
    · exact h.modRot

theorem State.idsUnique.setPieces (h : s.idsUnique) {st bs} : (s.setPieces st bs).idsUnique := h.modRot

theorem State.idsUnique.tokenPiece (h : s.idsUnique) {r tenant ws sigOk} : (s.tokenPiece r tenant ws sigOk).idsUnique :=
  h.complete.ite (h.setPieces.complete.ite (h.setPieces.complete.ite h.setPieces.installToken.complete))

theorem State.idsUnique.endToken (h : s.idsUnique) {id} : (s.endToken id).idsUnique := h.modCp.modRot

/-! ## Edge ports -/

theorem State.idsUnique.giveBack (h : s.idsUnique) {e k g w1} : (s.giveBack e k g w1).idsUnique := h.writeCtl.modEdge
theorem State.idsUnique.countDiscard (h : s.idsUnique) {e} : (s.countDiscard e).idsUnique := h.modEdge
theorem State.idsUnique.countNoDesc (h : s.idsUnique) {e} : (s.countNoDesc e).idsUnique := h.modEdge

theorem State.idsUnique.toRing (h : s.idsUnique) {e f} : (s.toRing e f).idsUnique := by
  unfold State.toRing
  dsimp only
  split
  · exact h.countNoDesc.ite h.countDiscard
  · exact h.countDiscard.ite (h.countNoDesc.ite h.writeCtl.giveBack)

theorem State.idsUnique.takeFragment (h : s.idsUnique) {e id i n} : (s.takeFragment e id i n).idsUnique := by
  unfold State.takeFragment
  refine h.ite ?_
  dsimp only
  split
  · exact h.countDiscard.ite h.modEdge
  · exact h.modEdge

theorem State.idsUnique.takeDatagram (h : s.idsUnique) {e bs} : (s.takeDatagram e bs).idsUnique :=
  h.countDiscard.ite ((h.countDiscard.ite h.takeFragment).ite ((h.countDiscard.ite h).ite h.countDiscard))

theorem State.idsUnique.closeEdge (h : s.idsUnique) {e code} : (s.closeEdge e code).idsUnique :=
  h.foldl fun _ _ h => h.closeSession

theorem State.idsUnique.stopRing (h : s.idsUnique) {g} : (s.stopRing g).idsUnique :=
  h.ite (h.foldl fun _ _ h => h.writeCtl.ite h)

/-! ## Sessions -/

theorem State.idsUnique.sendPlain (h : s.idsUnique) {e m type bs} : (s.sendPlain e m type bs).idsUnique := h.modEdge
theorem State.idsUnique.reject (h : s.idsUnique) {e m code} : (s.reject e m code).idsUnique := h.sendPlain

theorem State.idsUnique.openSession (h : s.idsUnique) {e m n} (hn : s.freeSession e = .some n) :
    (s.openSession m n).idsUnique := by
  unfold State.openSession
  exact h.fresh.addSession (freeSession_free hn) rfl rfl

theorem State.idsUnique.takeAck (h : s.idsUnique) {n a} : (s.takeAck n a).idsUnique := h.modSession.sendWaiting

theorem State.idsUnique.exhaust (h : s.idsUnique) {n} : (s.exhaust n).idsUnique := by
  unfold State.exhaust
  split
  · exact h.closeSession.ite h
  · exact h

theorem State.idsUnique.fromSource (h : s.idsUnique) {r} : (s.fromSource r).idsUnique := h.modSession
theorem State.idsUnique.discardRecord (h : s.idsUnique) {n} : (s.discardRecord n).idsUnique := h.modSession

/-- A sealed record keeps numbers unique where what it does does. -/
theorem State.idsUnique.sealedRecord (h : s.idsUnique) {r f} (hf : ∀ s, s.idsUnique → (f s).idsUnique) :
    (s.sealedRecord r f).idsUnique := by
  unfold State.sealedRecord
  dsimp only
  split
  · exact h
  · exact h.discardRecord.ite (h.fromSource.discardRecord.modSession.ite (h.fromSource.closeSession.ite
      (hf _ h.fromSource.modSession.takeAck)))

/-! ## Faults -/

theorem State.idsUnique.contain (h : s.idsUnique) {d t} : (s.contain d t).idsUnique := by
  unfold State.contain
  split
  · exact h.unseat
  · exact h.dropStep
  · exact h.stopJob.settleJob

theorem State.idsUnique.expireTimer (h : s.idsUnique) {x base} : (s.expireTimer x base).idsUnique := h.modCp.postStream

theorem State.idsUnique.forgetReplies (h : s.idsUnique) : s.forgetReplies.idsUnique :=
  h.congr (by simp [State.numbers, State.forgetReplies, Function.comp_def])

theorem State.idsUnique.darkData (h : s.idsUnique) : s.darkData.idsUnique := h.frame

theorem State.idsUnique.tripData (h : s.idsUnique) : s.tripData.idsUnique :=
  ((h.forgetReplies.completeAll.endRequests.endJobs.foldl fun _ _ h => h.runFail).foldl fun _ _ h =>
    h.closeEdge).darkData.foldl fun _ _ h => h.settleClose.gloveStep

/-! ## Panels -/

theorem State.idsUnique.placePieces (h : s.idsUnique) {c u f k n i} : (s.placePieces c u f k n i).idsUnique :=
  h.modCluster

theorem State.idsUnique.freeBufs (h : s.idsUnique) {die d} : (s.freeBufs die d).idsUnique :=
  h.ite (h.foldl fun _ _ h => h.modCluster)

/-! ## Matrix operations -/

theorem State.idsUnique.tileAfter (h : s.idsUnique) {st die c e t first vals sat pair marks} :
    (s.tileAfter st die c e t first vals sat pair marks).idsUnique := by
  unfold State.tileAfter
  split
  · exact h
  · exact h.setTile

theorem State.idsUnique.writeTiles (h : s.idsUnique) {x d die r sats} : (s.writeTiles x d die r sats).idsUnique :=
  h.foldl fun _ _ h => h.foldl fun _ _ h => h.tileAfter.when fun h => h.tileAfter

theorem State.idsUnique.outTensor (h : s.idsUnique) {x k2 d bytes} : (s.outTensor x k2 d bytes).idsUnique :=
  h.frame.ite h

theorem State.idsUnique.writeOut (h : s.idsUnique) {x d die clusters exps rows k} :
    (s.writeOut x d die clusters exps rows k).1.idsUnique := by
  unfold State.writeOut
  split
  · exact h
  · exact h.outTensor.modTensor

theorem State.idsUnique.servingTiles (h : s.idsUnique) {x die d cs} : OptIds (s.servingTiles x die d cs) :=
  .ite (.some h) (.foldlBind (.some h) fun _ _ h => h.grantOne?)

theorem State.idsUnique.readBufs (h : s.idsUnique) {die cs d} : (s.readBufs die cs d).idsUnique :=
  h.ite (h.foldl fun _ _ h => h.modCluster)

theorem State.idsUnique.isolate (h : s.idsUnique) {x m check code cl ts} : (s.isolate x m check code cl ts).idsUnique :=
  h.isolation.stopJob

theorem State.idsUnique.withholdRows (h : s.idsUnique) {x d die} : (s.withholdRows x d die).idsUnique := h.ite h.modDie
theorem State.idsUnique.countClips (h : s.idsUnique) {m d} : (s.countClips m d).idsUnique := h.ite h.modDie

theorem State.idsUnique.noteShelfNan (h : s.idsUnique) {x m d ts} : (s.noteShelfNan x m d ts).idsUnique := by
  unfold State.noteShelfNan
  split
  · exact h.shelfOperand
  · exact h

theorem State.idsUnique.runMatrix (h : s.idsUnique) {x m d cs} : (s.runMatrix x m d cs).idsUnique := by
  unfold State.runMatrix
  dsimp only
  refine .trapJob (.noteShelfNan (.countClips (.readBufs (State.idsUnique.frame ?_))))
  have hs := fun rs : List (ClusterRun × List RowOut) => h.foldl (l := rs) fun s r h => h.writeTiles (x := x) (d := d)
    (die := m.die) (r := r.1)
    (sats := r.2.flatMap fun o => o.sats.map fun j => (o.p, j))
  exact .iteFst (hs _) (.iteFst (hs _) (hs _).writeOut)

theorem State.idsUnique.matrix (h : s.idsUnique) {op m} : (s.matrix op m).idsUnique := by
  unfold State.matrix
  refine h.ite ?_
  split
  · exact h
  · refine h.endJob.ite (h.ite ?_)
    split
    · exact h
    next e =>
      dsimp only
      split
      · exact (h.wearFor.servingTiles _ e).isolate.settleJob
      · split
        · exact (h.wearFor.servingTiles _ e).runMatrix
        · exact (h.wearFor.servingTiles _ e).isolate.withholdRows.frame

theorem State.idsUnique.addGradients (h : s.idsUnique) {m r vals} : (s.addGradients m r vals).idsUnique := h.modRun

theorem State.idsUnique.settleTrap (h : s.idsUnique) {st t} : (s.settleTrap st t).idsUnique :=
  h.frame.ite (h.frame.ite h.trapServing)

theorem State.idsUnique.retireMatrix (h : s.idsUnique) {f} : (s.retireMatrix f).idsUnique :=
  (h.frame.freeBufs.whenNot fun h => h.foldl fun _ _ h => h.settleTrap).retireDesc

/-! ## The vector engine -/

theorem State.idsUnique.setVEngine (h : s.idsUnique) {v} : (s.setVEngine v).idsUnique := h.frame

theorem State.idsUnique.putBack (h : s.idsUnique) {v a} : (s.putBack v a).idsUnique := by
  unfold State.putBack
  split
  · exact h.modCluster
  · exact h.modTensor
  · exact h.frame
  · exact h.setTile

theorem State.idsUnique.vWithhold (h : s.idsUnique) {v} : (s.vWithhold v).idsUnique :=
  (h.foldl fun _ _ h => h.foldl fun _ _ h => h.putBack).frame

theorem State.idsUnique.vReseat (h : s.idsUnique) {v} : (s.vReseat v).idsUnique := h.ite h.modDie

theorem State.idsUnique.vIsolate (h : s.idsUnique) {v code} : (s.vIsolate v code).idsUnique :=
  h.vWithhold.vReseat.stopJob

theorem State.idsUnique.vLose (h : s.idsUnique) {v m} : (s.vLose v m).idsUnique := by
  unfold State.vLose
  refine h.setVEngine.stopJob.ite (h.setVEngine.vReseat.foldl fun _ _ h => ?_)
  split
  · exact h.endRequest
  · exact h.loseStep
  · exact h

/-- An instruction's end keeps numbers unique where its effect does. -/
theorem State.idsUnique.vFinish (h : s.idsUnique) {v w src e} (he : e.KeepsIds) : (s.vFinish v w src e).idsUnique := by
  cases e with
  | wait => exact h
  | iso _ => exact h.isolation.vIsolate
  | tile => exact h.isolation.vIsolate
  | bad _ => exact h.logReport.vLose
  | ok t _ _ _ => exact (setVEngine he).trapJob

/-- An instruction keeps numbers unique where what it comes to does. -/
theorem State.idsUnique.vRun (h : s.idsUnique) {u w src f} (hf : ∀ s v d, s.idsUnique → (f s v d).KeepsIds) :
    (s.vRun u w src f).idsUnique := by
  unfold State.vRun
  split
  · exact h
  · exact h.vFinish (hf _ _ _ h)

/-! ## Vector arithmetic -/

theorem State.idsUnique.vLanes (h : s.idsUnique) {f v d nops st one} : (Machine.vLanes f v d nops st one s).KeepsIds :=
  .withMarks fun _ => .ite trivial (.ok h)

theorem State.idsUnique.vMaskOut (h : s.idsUnique) {f v d ms res fs} : (Machine.vMaskOut f v d ms res fs s).KeepsIds :=
  .withMarks fun _ => .ok h

theorem State.idsUnique.vPlain (h : s.idsUnique) {ty vd p v d ms val} :
    (Machine.vPlain ty vd p v d ms val s).KeepsIds :=
  .withMarks fun _ => .ok h

/-! ## Vector memory and tiles -/

theorem State.idsUnique.storeBytes (h : s.idsUnique) {v d p m bs} : OptIds (s.storeBytes v d p m bs) := by
  unfold State.storeBytes
  split
  · exact .some h.modCluster
  · exact .ite (.none) (.some h.frame)
  · exact .ite (.none) (.some h.modTensor)

theorem State.idsUnique.vFill (h : s.idsUnique) {ty vd p v d m val upd} :
    (Machine.vFill ty vd p v d m val upd s).KeepsIds :=
  .withMarks fun _ => .ok h

theorem State.idsUnique.vStoreAt (h : s.idsUnique) {v d as off m bs} {k : State → VEngine → VEnd}
    (hk : ∀ s v, s.idsUnique → (k s v).KeepsIds) : (Machine.vStoreAt s v d as off m bs k).KeepsIds := by
  unfold Machine.vStoreAt
  split
  · trivial
  · refine .ite trivial ?_
    split
    · trivial
    next e => exact hk _ _ (h.storeBytes _ e)

/-! ## Library bodies and vector descriptors -/

theorem State.idsUnique.libSoftmax (h : s.idsUnique) {o v d} : (Machine.libSoftmax o s v d).KeepsIds := by
  unfold Machine.libSoftmax
  exact .vLoadAt fun _ _ => .withMarks fun _ => h.vStoreAt fun _ _ h => .ok h

theorem State.idsUnique.libAttn (h : s.idsUnique) {o v d} : (Machine.libAttn o s v d).KeepsIds :=
  .ite trivial (.ite trivial (.withMarks fun _ => h.vStoreAt fun _ _ h => .ok h))

theorem State.idsUnique.chooseToken (h : s.idsUnique) {v o id} : (s.chooseToken v o id).idsUnique := h.ite h.modDie

theorem State.idsUnique.libGreedy (h : s.idsUnique) {o v d} : (Machine.libGreedy o s v d).KeepsIds := by
  unfold Machine.libGreedy
  exact .vLoadAt fun _ _ => .withMarks fun _ => h.vStoreAt fun _ _ h => .ok h.chooseToken

theorem State.idsUnique.libPack (h : s.idsUnique) {o v d} : (Machine.libPack o s v d).KeepsIds := by
  unfold Machine.libPack
  exact .vLoadAt fun _ _ => .withMarks fun _ => h.vStoreAt fun _ _ h => .ok h

theorem State.idsUnique.libUnpack (h : s.idsUnique) {o v d} : (Machine.libUnpack o s v d).KeepsIds := by
  unfold Machine.libUnpack
  dsimp only
  split
  · trivial
  · split
    · trivial
    · exact .vLoadAt fun _ _ => .withMarks fun _ => h.vStoreAt fun _ _ h => .ok h

theorem State.idsUnique.libOptimiser (h : s.idsUnique) {adamw o v d} :
    (Machine.libOptimiser adamw o s v d).KeepsIds := by
  unfold Machine.libOptimiser
  dsimp only
  split
  case' h_1 => refine h.vStoreAt fun _ _ h => ?_
  all_goals
    refine .vLoadAt fun _ _ => .vLoadAt fun _ _ => .vLoadAt fun _ _ => .vLoadAt fun _ _ => .vLoadAt fun _ _ =>
      .ite (.vLoadAt fun _ _ => ?_) ?_
    all_goals
      refine .withMarks fun _ => h.vStoreAt fun _ _ h => h.vStoreAt fun _ _ h => h.vStoreAt fun _ _ h => ?_
      split
      · exact h.vStoreAt fun _ _ h => .ok h
      · exact .ok h

/-- The rows of a body keep numbers unique where one row does. -/
theorem VEnd.KeepsIds.libRows {row : LibRow} (hrow : ∀ o s v d, s.idsUnique → (row o s v d).KeepsIds) {l v}
    (h : s.idsUnique) :
    (libRows row l s v).KeepsIds := by
  induction l generalizing s v with
  | nil => exact h
  | cons o os ih =>
    unfold Machine.libRows
    refine .ite h ?_
    have hr := hrow o s v (vdesc v.desc) h
    split
    next e => rw [e] at hr; exact ih hr
    · exact hr

theorem VEnd.KeepsIds.libBody {n : Nat} {row : LibRow} (hrow : libBody n = some row) {o v d} (h : s.idsUnique) :
    (row o s v d).KeepsIds := by
  unfold Machine.libBody at hrow
  split at hrow
  · cases hrow; exact h.libSoftmax
  · cases hrow; exact h.libAttn
  · cases hrow; exact h.libOptimiser
  · cases hrow; exact h.libOptimiser
  · cases hrow; exact h.libGreedy
  · cases hrow; exact h.libPack
  · cases hrow; exact h.libUnpack
  · cases hrow

/-- What a library body came to keeps numbers unique where its effect and what follows it do. -/
theorem State.idsUnique.libEnd (h : s.idsUnique) {v k e} (hk : ∀ s v, s.idsUnique → (k s v).idsUnique)
    (he : e.KeepsIds) : OptIds (s.libEnd v k e) := by
  cases e with
  | wait => exact .ite .none (.some h.vIsolate)
  | iso _ => exact .some (h.vFinish he)
  | tile => exact .some (h.vFinish he)
  | bad _ => exact .some (h.vFinish he)
  | ok t x _ _ => exact .some (hk t x he)

theorem State.idsUnique.libRun (h : s.idsUnique) {v} : OptIds (s.libRun v) := by
  unfold State.libRun
  split
  · exact .some h
  next e => exact h.libEnd (fun _ _ h => h.setVEngine.trapJob) (.libRows (fun _ _ _ _ h => .libBody e h) h)

theorem State.idsUnique.stageRows (h : s.idsUnique) {v unit m bs} : (s.stageRows v unit m bs).idsUnique := h.modCluster

theorem State.idsUnique.strictStage (h : s.idsUnique) {v} : (s.strictStage v).KeepsIds := by
  unfold State.strictStage
  exact .vLoadAt fun _ _ => .vLoadAt fun _ _ => .withMarks fun _ => .ok (h.stageRows.stageRows.when fun h =>
    h.stageRows)

theorem State.idsUnique.strictNext (h : s.idsUnique) {v} : (s.strictNext v).KeepsIds := by
  unfold State.strictNext
  refine .ite (.ite h.strictStage (h.vStoreAt fun _ _ h => .ok h)) ?_
  dsimp only
  split
  · exact trivial
  · exact h.vStoreAt fun _ _ h => .ite h.strictStage (h.vStoreAt fun _ _ h => .ok h)

theorem State.idsUnique.strictStep (h : s.idsUnique) {v first} : OptIds (s.strictStep v first) :=
  h.libEnd (fun _ _ h => h.setVEngine) (.ite h.strictStage h.strictNext)

theorem State.idsUnique.startVector (h : s.idsUnique) {die cs words q op} : OptIds (s.startVector die cs words q op) :=
  .ite (.some h.frame) (.foldlBind (.some h.frame) fun _ _ h => .ite h.strictStep h.libRun)

theorem State.idsUnique.retireVector (h : s.idsUnique) {die st q op} : (s.retireVector die st q op).idsUnique :=
  h.ite ((h.frame.whenNot fun h => h.foldl fun _ _ h => h.settleTrap).retireDesc)

theorem State.idsUnique.strictGoesOn (h : s.idsUnique) {die st q op} : OptIds (s.strictGoesOn die st q op) :=
  .ite (.some h) (.foldlBind (.some h) fun _ _ h => h.strictStep)

/-! ## Power, start-up and resets -/

/-- A full reset leaves the module's own stream, and neither requests nor sessions. -/
theorem State.idsUnique.fullReset (_h : s.idsUnique) : s.fullReset.idsUnique := by
  simp [State.idsUnique, State.fullReset, State.reset, Rot.reset]

theorem State.idsUnique.powerOff (h : s.idsUnique) {inputOn locked trip} : (s.powerOff inputOn locked trip).idsUnique :=
  h.fullReset.modPower

theorem State.idsUnique.testFail (h : s.idsUnique) {block unit d} : (s.testFail block unit d).idsUnique :=
  h.fresh.report

theorem State.idsUnique.readyReports (h : s.idsUnique) : s.readyReports.idsUnique := by
  unfold State.readyReports
  exact (((h.foldl fun _ _ h => h.testFail.ite (h.foldl fun _ _ h => h.testFail)).foldl fun _ _ h => h.testFail).foldl
    fun _ _ h => h.testFail).checkReserves

theorem State.idsUnique.activate (h : s.idsUnique) {c} : (s.activate c).idsUnique :=
  (((h.modCt.when fun h => h.modCt).modCp.modRot.whenNot fun h => h.modPower).modCp.foldl fun _ _ h =>
    h.emit).readyReports.hear.hear.answerHeld

theorem State.idsUnique.firmwareReport (h : s.idsUnique) {ct img} : (s.firmwareReport ct img).idsUnique := h.logReport

theorem State.idsUnique.bring (h : s.idsUnique) {f clock} : (s.bring f clock).idsUnique :=
  h.fullReset.fresh.of_sublist rfl rfl (.refl _) (.refl _)

theorem State.idsUnique.loseStandby (h : s.idsUnique) {c} : (s.loseStandby c).idsUnique :=
  h.flushJournal.settleDraining.tableAlone.ite (h.modCp.ite h)

theorem State.idsUnique.restartCt (h : s.idsUnique) {c recovers} : (s.restartCt c recovers).idsUnique :=
  h.modCt.answerHeld

theorem State.idsUnique.powerReport (h : s.idsUnique) {blade} : (s.powerReport blade).idsUnique := h.report

end Sys2Proof.Machine
end

section
/-!
SUPPORT. Every command keeps request, stream and session numbers unique, in the order of the files that define them.
-/

namespace Sys2Proof.Machine

variable {s t : State}

/-! ## Capabilities -/

theorem execQueryCaps_keepsIds (h : s.idsUnique) {src req} : KeepsIds (execQueryCaps src req s) :=
  .next (h.ilnil fun _ _ _ h => h.complete)

theorem execReserveStatus_keepsIds (h : s.idsUnique) {src req} : KeepsIds (execReserveStatus src req s) :=
  .next (h.ilnil fun _ _ _ h => h.complete)

/-! ## Pages and sweeps -/

theorem execMemoryStatus_keepsIds (h : s.idsUnique) {src req} : KeepsIds (execMemoryStatus src req s) :=
  .next (h.ilnil fun _ _ _ h => h.complete)

/-! ## Reductions over hatband -/

theorem execContributionReady_keepsIds (h : s.idsUnique) {die red} : KeepsIds (execContributionReady die red s) := by
  refine .next ?_
  split
  · exact h
  · split
    · exact h
    · split
      · exact h
      · refine h.ite (h.dropStep.ite (h.ite (h.frame.ite (h.ite ?_))))
        split
        · exact h.closeAlone.afterRed.ite h.modRed.enter.afterRed.trackItems
        · exact h

theorem execHatbandItem_keepsIds (h : s.idsUnique) {red origin} : KeepsIds (execHatbandItem red origin s) := by
  refine .next ?_
  split
  · exact h
  · split
    · exact h
    · exact h.ite ((((h.ite ((h.modRed.ite (h.modRed.ite h.modRed)).ite (h.modRed.ite
        h.modRed))).pump).afterRed).trackItems)

theorem execDeadline_keepsIds (h : s.idsUnique) {red} : KeepsIds (execDeadline red s) := by
  refine .next ?_
  split
  · exact h
  · exact h.ite (h.modRed.whenNot fun h => (h.foldl fun _ _ h => h.dropMember).reportDrop.afterRed.trackItems)

theorem execOwnerReady_keepsIds (h : s.idsUnique) {run die} : KeepsIds (execOwnerReady run die s) := by
  refine .next ?_
  split
  · exact h
  · refine h.ite ?_
    split
    · exact h.ite (h.modRun.when fun h => h.modRun.whenNot fun h => h.commitStep)
    · exact h

theorem execCommitPoint_keepsIds (h : s.idsUnique) {run} : KeepsIds (execCommitPoint run s) := by
  refine .next ?_
  split
  · exact h
  · exact h.commitStep.ite h

theorem execHopBroken_keepsIds (h : s.idsUnique) {hop} : KeepsIds (execHopBroken hop s) :=
  .next (h.frame.report.openReductions.foldl fun _ _ h => h.dropStep)

/-! ## Cabinets, shelves and streams -/

theorem execConfigureCabinet_keepsIds (h : s.idsUnique) {src req} : KeepsIds (execConfigureCabinet src req s) := by
  refine .next (h.ilnil fun _ _ _ h => ?_)
  dsimp only
  split
  · exact h.complete
  · exact h.modCab.complete

theorem execMountShelf_keepsIds (h : s.idsUnique) {src req img} : KeepsIds (execMountShelf src req img s) := by
  refine .next (h.ilnil fun _ _ _ h => h.modCp.ite ?_)
  split
  · exact h.complete
  · exact h.startMount

theorem execMountComplete_keepsIds (h : s.idsUnique) {cab} : KeepsIds (execMountComplete cab s) := by
  refine .next (h.ite (h.endMount.ite ?_))
  split
  · exact h.endMount
  next n e =>
    have hs := h.addStream (x := servingStream n cab) (freeStream_free e) rfl
    refine .completeAll (.modCab (.foldl (.modGlove ?_) fun _ _ h => h.foldl fun _ _ h => h.wear))
    split
    · exact hs.writeShelf
    · exact hs

theorem execUnmountShelf_keepsIds (h : s.idsUnique) {src req} : KeepsIds (execUnmountShelf src req s) :=
  .next (h.ilnil fun _ _ _ h => h.complete.ite h.accept.unmountBegin)

theorem execSetAdmission_keepsIds (h : s.idsUnique) {src req} : KeepsIds (execSetAdmission src req s) :=
  .next (h.ilnil fun _ _ _ h => h.modCab.complete.ite h.complete)

theorem execLoadProgram_keepsIds (h : s.idsUnique) {src req img} : KeepsIds (execLoadProgram src req img s) := by
  refine .next (h.ilnil fun _ _ _ h => h.complete.ite ?_)
  split
  · exact h.complete
  · exact h.complete.ite h.placeProgram

theorem execCreateStream_keepsIds (h : s.idsUnique) {src req} : KeepsIds (execCreateStream src req s) := by
  refine .next (h.ilnil fun r ws s h => ?_)
  dsimp only
  split
  · exact h.complete
  · split
    · exact h.complete
    next e => exact .complete (h.addStream (freeStream_free e) rfl)

theorem execDestroyStream_keepsIds (h : s.idsUnique) {src req} : KeepsIds (execDestroyStream src req s) := by
  refine .next (h.ilnil fun _ _ _ h => ?_)
  dsimp only
  split
  · exact h.complete
  · exact h.complete.ite ((h.accept.modStream.when fun h => h.endJobs).settleStream)

/-! ## Jobs -/

theorem execSubmitJob_keepsIds (h : s.idsUnique) {src req} : KeepsIds (execSubmitJob src req s) := by
  refine .next (h.ilnil fun _ _ _ h => ?_)
  split
  · exact h.complete
  · refine h.complete.ite (h.complete.ite ?_)
    split
    · exact h.complete
    · exact h.acceptJob

theorem execJobStart_keepsIds (h : s.idsUnique) {stream jobSeq} : KeepsIds (execJobStart stream jobSeq s) := by
  refine .next ?_
  split
  · refine h.ite (h.endJob.ite (h.endJob.ite ?_))
    dsimp only
    split
    · exact h.pinAll
    · refine h.pinAll.ite ?_
      split
      next e => exact (h.pinAll.grantJob? _ e).modJob
      · exact h.pinAll
  · exact h

theorem execResumeStream_keepsIds (h : s.idsUnique) {src req} : KeepsIds (execResumeStream src req s) := by
  refine .next (h.ilnil fun _ _ _ h => ?_)
  split
  · exact h.complete
  · exact h.complete.ite ((h.modStream.when fun h => h.endJobs).settleGrants.complete)

/-! ## Serving -/

theorem execServingRequest_keepsIds (h : s.idsUnique) {session r} : KeepsIds (execServingRequest session r s) := by
  refine .next ?_
  split
  · exact h
  · dsimp only
    split
    · exact (h.addRequest rfl).endRequest
    · split
      · exact (h.addRequest rfl).modGlove.tryAdmit
      · exact (h.addRequest rfl).tryAdmit

theorem execAdmissionRetest_keepsIds (h : s.idsUnique) {request} : KeepsIds (execAdmissionRetest request s) :=
  .next h.tryAdmit.repin

theorem execPassStart_keepsIds (h : s.idsUnique) {die trans} : KeepsIds (execPassStart die trans s) := by
  refine .next ?_
  split
  · exact h
  · refine h.ite (h.switchRuns.ite ?_)
    split
    · exact h.switchRuns.startArrived
    · exact h.switchRuns.whenNot fun h => (h.startNew.ite h).ite (h.ite ((h.ite h.startNew).ite (h.ite h.startNew)))

theorem execAdmitWaitExpiry_keepsIds (h : s.idsUnique) {die} : KeepsIds (execAdmitWaitExpiry die s) := by
  refine .next ?_
  split
  · exact h
  · exact h.ite h.modDie

theorem execPassEnd_keepsIds (h : s.idsUnique) {die tokens} : KeepsIds (execPassEnd die tokens s) := by
  refine .next ?_
  split
  · exact (((h.modDie.freeBlocks.runAgain.when fun h => h.backPassed).savePassed.when fun h =>
      h.requestsPassed.runsPassed).cutRequests.whenNot fun h => h.handOver).settleUnmount
  · exact h

theorem execBoundaryRowsArrival_keepsIds (h : s.idsUnique) {die} : KeepsIds (execBoundaryRowsArrival die s) := by
  refine .next ?_
  split
  · exact h.spillSaved.ite h.modDie.holdRows
  · exact h

theorem execTokenIdsArrival_keepsIds (h : s.idsUnique) {die} : KeepsIds (execTokenIdsArrival die s) :=
  .next (h.modDie.foldl fun _ _ h => h.modRequestOf fun _ => by split <;> rfl)

theorem execSegmentEnd_keepsIds (h : s.idsUnique) {die} : KeepsIds (execSegmentEnd die s) := by
  refine .next ?_
  split
  · exact h.modDie.ite h
  · exact h

theorem execActivationStoreBlockZeroing_keepsIds (h : s.idsUnique) {die blk} :
    KeepsIds (execActivationStoreBlockZeroing die blk s) :=
  .next h.modDie

/-! ## Drawers -/

theorem execBindDrawer_keepsIds (h : s.idsUnique) {src req} : KeepsIds (execBindDrawer src req s) :=
  .next (h.ilnil fun _ _ _ h => h.complete.ite (h.complete.ite h.bindHandle))

theorem execUnbindDrawer_keepsIds (h : s.idsUnique) {src req} : KeepsIds (execUnbindDrawer src req s) := by
  refine .next (h.ilnil fun _ _ _ h => ?_)
  split
  · exact h.complete
  · exact h.complete.ite h.accept.evictSlot

theorem execPrefetchDrawer_keepsIds (h : s.idsUnique) {src req} : KeepsIds (execPrefetchDrawer src req s) := by
  refine .next (h.ilnil fun _ _ _ h => ?_)
  split
  · exact h.complete
  · refine h.complete.ite ?_
    split
    · exact h.complete
    · exact h.accept.complete.ite (h.accept.foldl fun _ _ h => h.startFetch.ite h)

theorem execEvictDrawer_keepsIds (h : s.idsUnique) {src req} : KeepsIds (execEvictDrawer src req s) := by
  refine .next (h.ilnil fun _ _ _ h => ?_)
  split
  · exact h.complete
  · exact h.complete.ite (h.complete.ite h.accept.evictSlot)

theorem execDrawerStatus_keepsIds (h : s.idsUnique) {src req} : KeepsIds (execDrawerStatus src req s) := by
  refine .next (h.ilnil fun _ _ _ h => ?_)
  split
  · exact h.complete
  · exact h.complete

theorem execSetDrawerCache_keepsIds (h : s.idsUnique) {src req} : KeepsIds (execSetDrawerCache src req s) :=
  .next (h.ilnil fun _ _ _ h => h.complete.ite ((h.accept.modCab.foldl fun _ _ h => h.shrinkCache).settleCache))

theorem execSetRemakeConsent_keepsIds (h : s.idsUnique) {src req} : KeepsIds (execSetRemakeConsent src req s) :=
  .next (h.ilnil fun _ _ _ h => h.frame.complete.ite (h.complete.ite (h.complete.ite h.frame.complete)))

theorem execCatalogDeliver_keepsIds (h : s.idsUnique) {src req obj} : KeepsIds (execCatalogDeliver src req obj s) := by
  refine .next (h.ilnil fun _ _ _ h => ?_)
  dsimp only
  split
  · exact h.complete
  · refine h.complete.ite (.ite ?_ h.complete.loadFailed.nextFetches)
    split
    · exact h.complete.cacheObj.fromCache.nextFetches
    · exact (h.complete.cacheObj.fromCache.ite h.complete.cacheObj.runFetch).nextFetches

theorem execFetchResume_keepsIds (h : s.idsUnique) {fetch} : KeepsIds (execFetchResume fetch s) := by
  refine .next ?_
  split
  · exact h
  · refine h.nextFetches.ite (h.ite ?_)
    split
    · exact h.fromCache.nextFetches
    · exact h.runFetch

theorem execFetchComplete_keepsIds (h : s.idsUnique) {fetch} : KeepsIds (execFetchComplete fetch s) := by
  refine .next ?_
  split
  · exact h
  · refine h.ite ?_
    split
    · exact h.runFetch
    · exact (h.ite h.modCab).fetchArrived.nextFetches

/-! ## The memory of a stack -/

theorem execSectorRead_keepsIds (h : s.idsUnique) {addr a err got} : KeepsIds (execSectorRead addr a err got s) := by
  refine .next ((h.demandRead.ite h).ite (h.ite (.ite (h.memError.frame.ite h) (h.ite (h.refuseAccess.ite ?_)))))
  split
  · exact h
  next e =>
    have hu := OptIds.bind h.useGlove (fun _ h => h.supplyGloves) _ e
    dsimp only
    split
    next e => exact (hu.flushSector.decodeRead.of_snd e).frame
    next e => exact (hu.flushSector.decodeRead.of_snd e).frame

theorem execSectorWrite_keepsIds (h : s.idsUnique) {addr a off bytes err} :
    KeepsIds (execSectorWrite addr a off bytes err s) := by
  refine .next (h.ite (h.refuseAccess.ite ?_))
  split
  · exact h
  next e =>
    have hu := h.useGlove _ e
    refine hu.dropMerge.frame.ite (.ite ?_ hu.gather.frame)
    dsimp only
    split
    next e => exact (hu.flushSector.modifySector.of_snd e).frame
    next e => exact (hu.flushSector.modifySector.of_snd e).frame

theorem execMergeFlush_keepsIds (h : s.idsUnique) {st sector err} : KeepsIds (execMergeFlush st sector err s) :=
  .next (h.flushSector.ite h)

theorem execAllocationFill_keepsIds (h : s.idsUnique) {st page} : KeepsIds (execAllocationFill st page s) :=
  .next (h.ite h.setPage.frame)

theorem execSweepStep_keepsIds (h : s.idsUnique) {st page err} : KeepsIds (execSweepStep st page err s) :=
  .next (h.ite (h.flushSector.decodeRead.setPage.ite h.flushSector.decodeRead.setPage.modGlove.settleSweeps))

theorem execPatrolScrub_keepsIds (h : s.idsUnique) {st sector err} : KeepsIds (execPatrolScrub st sector err s) :=
  .next (h.ite h.decodeRead.modStk)

theorem execOnDieRead_keepsIds (h : s.idsUnique) {st count} : KeepsIds (execOnDieRead st count s) :=
  .next (h.ite h.modStk.logReport)

theorem execHbmApertureRead_keepsIds (h : s.idsUnique) {core addr size} :
    KeepsIds (execHbmApertureRead core addr size s) := by
  refine .next (h.ite ?_)
  split
  · exact h.onBus
  · refine (h.foldl fun _ _ h => h.memError).onBus.ite ?_
    split
    · exact h.isolation.onBus
    · exact h.ite ((h.foldl fun _ _ h => h.flushSector).onBus)

theorem execHbmApertureWrite_keepsIds (h : s.idsUnique) {core addr bytes} :
    KeepsIds (execHbmApertureWrite core addr bytes s) :=
  .next (h.apertureWrite.ite h)

/-! ## Runs on command -/

theorem execStartRun_keepsIds (h : s.idsUnique) {src req} : KeepsIds (execStartRun src req s) := by
  refine .next (h.ilnil fun _ _ _ h => ?_)
  dsimp only
  split
  · exact h.complete
  · split
    · exact h.complete
    next e => exact h.createRun _ e

theorem execStopRun_keepsIds (h : s.idsUnique) {src req} : KeepsIds (execStopRun src req s) := by
  refine .next (h.ilnil fun _ _ _ h => ?_)
  split
  · exact h.complete
  · exact h.accept.modRun.stopNow.ite (h.accept.modRun.discardStep.completeStop.ite h.accept.modRun.modRun)

theorem execEndRun_keepsIds (h : s.idsUnique) {src req} : KeepsIds (execEndRun src req s) := by
  refine .next (h.ilnil fun _ _ _ h => ?_)
  split
  · exact h.complete
  · exact h.releaseRun.promoteAll.complete

theorem execPublishRun_keepsIds (h : s.idsUnique) {src req} : KeepsIds (execPublishRun src req s) := by
  refine .next (h.ilnil fun _ _ _ h => ?_)
  split
  · exact h.complete
  · exact h.complete.ite (h.complete.ite h.accept.publish)

theorem execResumeRun_keepsIds (h : s.idsUnique) {src req} : KeepsIds (execResumeRun src req s) := by
  refine .next (h.ilnil fun _ _ _ h => ?_)
  split
  · exact h.complete
  · exact h.complete.ite (h.complete.ite h.modRun.complete.beginStep)

theorem execRunStatus_keepsIds (h : s.idsUnique) {src req} : KeepsIds (execRunStatus src req s) := by
  refine .next (h.ilnil fun _ _ _ h => ?_)
  split
  · exact h.complete
  · exact h.complete

theorem execSetRunRate_keepsIds (h : s.idsUnique) {src req} : KeepsIds (execSetRunRate src req s) := by
  refine .next (h.ilnil fun _ _ _ h => ?_)
  split
  · exact h.complete
  · exact h.complete.ite h.modRun.complete

theorem execCatalogStored_keepsIds (h : s.idsUnique) {src req} : KeepsIds (execCatalogStored src req s) := by
  refine .next (h.ilnil fun _ _ _ h => ?_)
  dsimp only
  split
  · exact h.complete
  · refine h.complete.ite (.ite ?_ ?_)
    · split
      · exact h.frame.complete.bindStored.complete
      · exact h.frame.complete.bindStored.releaseRun
    · split
      · exact h.frame.complete.modCt.complete
      · exact h.frame.complete.modCt.remakeFail

theorem execSetReduction_keepsIds (h : s.idsUnique) {src req} : KeepsIds (execSetReduction src req s) := by
  refine .next (h.ilnil fun _ _ _ h => ?_)
  split
  · exact h.complete
  · split
    · exact h.complete
    · exact h.modRun.complete

theorem execSetThinning_keepsIds (h : s.idsUnique) {src req} : KeepsIds (execSetThinning src req s) := by
  refine .next (h.ilnil fun _ _ _ h => ?_)
  split
  · exact h.complete
  · refine h.complete.ite ?_
    dsimp only
    split
    · exact h.complete
    next e => exact (h.allocAll? _ e).modRun.complete

theorem execReductionStatus_keepsIds (h : s.idsUnique) {src req} : KeepsIds (execReductionStatus src req s) := by
  refine .next (h.ilnil fun _ _ _ h => ?_)
  split
  · exact h.complete
  · split
    · exact h.complete
    · exact h.complete

theorem execRemakeStart_keepsIds (h : s.idsUnique) {cab} : KeepsIds (execRemakeStart cab s) := by
  refine .next (h.ite ?_)
  split
  · exact h
  · dsimp only
    split
    · exact h.frame
    · split
      · exact h.frame
      · refine h.frame.ite ?_
        split
        · exact h.frame.tell
        next e =>
          split at e
          · cases e
          · exact (State.idsUnique.createRun h.frame _ e).modSlot

/-! ## Mailboxes and the bus -/

theorem execPigeonholeGo_keepsIds (h : s.idsUnique) {ct n v} : KeepsIds (execPigeonholeGo ct n v s) :=
  .next h.pigeonCtrl

theorem execPigeonholeDone_keepsIds (h : s.idsUnique) {ct n v} : KeepsIds (execPigeonholeDone ct n v s) :=
  .next h.pigeonCtrl

theorem execWithdraw_keepsIds (h : s.idsUnique) {ct n v} : KeepsIds (execWithdraw ct n v s) :=
  .next h.pigeonCtrl

theorem execPigeonholeOverrunClear_keepsIds (h : s.idsUnique) {ct n v} :
    KeepsIds (execPigeonholeOverrunClear ct n v s) :=
  .next h.pigeonCtrl

theorem execPigeonholeIrqEn_keepsIds (h : s.idsUnique) {ct n v} : KeepsIds (execPigeonholeIrqEn ct n v s) :=
  .next h.pigeonCtrl

theorem execDoorbell_keepsIds (h : s.idsUnique) {ct n x} : KeepsIds (execDoorbell ct n x s) :=
  .next h.ring

theorem execOutTailWrite_keepsIds (h : s.idsUnique) {ct n v} : KeepsIds (execOutTailWrite ct n v s) :=
  .next h.trayWrite

theorem execInHeadWrite_keepsIds (h : s.idsUnique) {ct n v} : KeepsIds (execInHeadWrite ct n v s) :=
  .next h.trayWrite

theorem execTrayOverrunClear_keepsIds (h : s.idsUnique) {ct n v} : KeepsIds (execTrayOverrunClear ct n v s) :=
  .next h.trayWrite

theorem execTrayIrqEn_keepsIds (h : s.idsUnique) {ct n v} : KeepsIds (execTrayIrqEn ct n v s) :=
  .next h.trayWrite

theorem execRegisterWrite_keepsIds (h : s.idsUnique) {core addr size v} :
    KeepsIds (execRegisterWrite core addr size v s) := by
  refine .next (h.ite (h.onBus.ite (.ite h.modCt.onBus (.ite (.ite h.modCt.onBus h.onBus) (.ite h.onBus
    (.ite ?_ (.ite ?_ h.apertureWrite)))))))
  all_goals
    refine h.onBus.ite ?_
    split
    · exact h.onBus
    next e => exact (h.windowWrite.of_snd e).onBus

theorem execHeldResponseWrite_keepsIds (h : s.idsUnique) {src} : KeepsIds (execHeldResponseWrite src s) := by
  refine .next ?_
  split
  · exact h.modPigeon
  · exact h.modTray
  · exact h.sendWaiting

theorem execJournalEntry_keepsIds (h : s.idsUnique) : KeepsIds (execJournalEntry s) := by
  refine .next ?_
  split
  · exact h.modCp.ite h
  · exact h

theorem execJournalAck_keepsIds (h : s.idsUnique) : KeepsIds (execJournalAck s) := by
  refine .next ?_
  split
  · exact h.modCp.deliver.settleDraining.ite h
  · exact h

theorem execHeartbeat_keepsIds (h : s.idsUnique) {ct} : KeepsIds (execHeartbeat ct s) :=
  .next (h.modCp.ite h)

theorem execHeartbeatLost_keepsIds (h : s.idsUnique) {silent} : KeepsIds (execHeartbeatLost silent s) :=
  .next (h.ite (((h.modCt.when fun h => h.modCp).logReport.checkReserves.when fun h => h.policyAct.beginTakeOver).ite
    ((h.modCt.when fun h => h.modCp).logReport.checkReserves.flushJournal.settleDraining.tableAlone)))

theorem execSetEventTray_keepsIds (h : s.idsUnique) {src req} : KeepsIds (execSetEventTray src req s) :=
  .next (h.ilnil fun _ _ _ h => h.complete.ite h.modCp.complete)

theorem execTakeOver_keepsIds (h : s.idsUnique) {src req} : KeepsIds (execTakeOver src req s) :=
  .next (h.ilnil fun _ _ _ h => (h.flushJournal.ite h).beginTakeOver.ite h.complete)

theorem execUndefinedOpcode_keepsIds (h : s.idsUnique) {src req opcode} :
    KeepsIds (execUndefinedOpcode src req opcode s) := by
  refine .next (h.ite ?_)
  split
  · exact h
  next e =>
    refine ((h.takeFrom _ e).runStandby fun _ _ _ h => h).ite ?_
    split
    · exact (h.takeFrom _ e).refuseRaw.ite ((h.takeFrom _ e).jTake.complete)
    · split
      next e' => exact (h.takeFrom _ e).resend _ e'
      · exact (h.takeFrom _ e).jTake.complete

/-! ## Resynchronisation and the journal -/

theorem execResync_keepsIds (h : s.idsUnique) {src req} : KeepsIds (execResync src req s) := by
  refine .next (h.ilnil fun _ _ _ h => ?_)
  split
  · split
    · exact h.resyncTenant
    · exact h
  · exact h.resyncModule

/-! ## Resets of a scope -/

theorem execResetComplete_keepsIds (h : s.idsUnique) {scope} : KeepsIds (execResetComplete scope s) := by
  refine .next ?_
  split
  · exact h
  · refine .wakeResets (.postEvent (.completeAll ?_))
    split
    · exact h.modCp.clusterBack
    · exact h.modCp.dieBack
    · exact h.modCp.cabinetBack

theorem execResetCluster_keepsIds (h : s.idsUnique) {src req} : KeepsIds (execResetCluster src req s) :=
  .next (h.ilnil fun _ _ _ h => h.complete.ite h.askReset)

theorem execResetDie_keepsIds (h : s.idsUnique) {src req} : KeepsIds (execResetDie src req s) :=
  .next (h.ilnil fun _ _ _ h => h.askReset)

theorem execResetCabinet_keepsIds (h : s.idsUnique) {src req} : KeepsIds (execResetCabinet src req s) :=
  .next (h.ilnil fun _ _ _ h => h.complete.ite h.askReset)

/-! ## Attestation -/

theorem execAttest_keepsIds (h : s.idsUnique) {src req} : KeepsIds (execAttest src req s) :=
  .next (h.ilnil fun _ _ _ h => h.complete.ite h.fresh.complete)

theorem execGetVersion_keepsIds (h : s.idsUnique) {r} : KeepsIds (execGetVersion r s) :=
  .next h.spdm

theorem execGetCapabilities_keepsIds (h : s.idsUnique) {r} : KeepsIds (execGetCapabilities r s) :=
  .next h.spdm

theorem execNegotiateAlgorithms_keepsIds (h : s.idsUnique) {r} : KeepsIds (execNegotiateAlgorithms r s) :=
  .next h.spdm

theorem execGetDigests_keepsIds (h : s.idsUnique) {r} : KeepsIds (execGetDigests r s) :=
  .next h.spdm

theorem execGetCertificate_keepsIds (h : s.idsUnique) {r slot} : KeepsIds (execGetCertificate r slot s) :=
  .next h.spdm

theorem execChallenge_keepsIds (h : s.idsUnique) {r nonce} : KeepsIds (execChallenge r nonce s) :=
  .next h.spdm

theorem execGetMeasurements_keepsIds (h : s.idsUnique) {r index nonce} :
    KeepsIds (execGetMeasurements r index nonce s) :=
  .next h.spdm

theorem execSpdmUnsupportedRequest_keepsIds (h : s.idsUnique) {r code} :
    KeepsIds (execSpdmUnsupportedRequest r code s) :=
  .next h.spdm

/-! ## Tenants and gloves on command -/

theorem execAddTenant_keepsIds (h : s.idsUnique) {src req} : KeepsIds (execAddTenant src req s) :=
  .next (h.ilnil fun _ _ _ h => h.complete.ite h.modRot.complete)

theorem execGloveOpen_keepsIds (h : s.idsUnique) {src req} : KeepsIds (execGloveOpen src req s) := by
  refine .next (h.ilnil fun _ _ _ h => ?_)
  dsimp only
  split
  · exact h
  · split
    · exact h.complete.ite h.complete
    · split
      · exact h.complete
      next e => exact (h.setRot (freeGlove_sessions e)).fresh.modRot.complete

theorem execRemoveTenant_keepsIds (h : s.idsUnique) {src req} : KeepsIds (execRemoveTenant src req s) :=
  .next (h.ilnil fun _ _ _ h => h.closeGlove.ite h.complete)

theorem execGloveClose_keepsIds (h : s.idsUnique) {src req} : KeepsIds (execGloveClose src req s) := by
  refine .next (h.ilnil fun _ _ _ h => ?_)
  split
  · split
    · exact h.closeGlove
    · exact h
  · exact h

theorem execRotateGlove_keepsIds (h : s.idsUnique) {src req} : KeepsIds (execRotateGlove src req s) := by
  refine .next (h.ilnil fun _ _ _ h => ?_)
  split
  · exact h.complete
  · exact h.complete.ite (h.complete.ite (h.accept.modGlove.whenNot fun h => h.installGlove))

theorem execGloveStatus_keepsIds (h : s.idsUnique) {src req} : KeepsIds (execGloveStatus src req s) := by
  refine .next (h.ilnil fun _ _ _ h => ?_)
  split
  · exact h.complete
  · exact h.complete

theorem execGloveChangeAck_keepsIds (h : s.idsUnique) {glove} : KeepsIds (execGloveChangeAck glove s) := by
  refine .next ?_
  split
  · exact h
  · exact h.ite (h.modGlove.ite (h.installGlove.ite h))

theorem execGloveInstallationAck_keepsIds (h : s.idsUnique) {glove b} : KeepsIds (execGloveInstallationAck glove b s) :=
  .next (h.blockDone.ite h)

theorem execGloveErasureAck_keepsIds (h : s.idsUnique) {glove b} : KeepsIds (execGloveErasureAck glove b s) :=
  .next (h.blockDone.ite (h.unwear.blockDone.ite h))

theorem execDrainConfirm_keepsIds (h : s.idsUnique) {glove b} : KeepsIds (execDrainConfirm glove b s) :=
  .next (h.blockDone.ite h)

theorem execLatticePacket_keepsIds (h : s.idsUnique) {p} : KeepsIds (execLatticePacket p s) :=
  .next (h.ite (h.isolation.ite (h.isolation.ite h.modDie)))

/-! ## Consents -/

theorem execConsentInstall_keepsIds (h : s.idsUnique) {src req sigOk} :
    KeepsIds (execConsentInstall src req sigOk s) := by
  refine .next (h.ilnil fun _ _ _ h => ?_)
  split
  · split
    · exact h.tokenPiece
    · exact h
  · refine h.complete.ite ?_
    split
    · exact h.complete
    · exact h.complete.ite h.installToken.complete

theorem execTokenInForce_keepsIds (h : s.idsUnique) {token} : KeepsIds (execTokenInForce token s) :=
  .next h.modRot

theorem execTokenExpiry_keepsIds (h : s.idsUnique) {token} : KeepsIds (execTokenExpiry token s) :=
  .next (h.endToken.ite h)

theorem execConsentRevoke_keepsIds (h : s.idsUnique) {src req} : KeepsIds (execConsentRevoke src req s) := by
  refine .next (h.ilnil fun _ _ _ h => ?_)
  dsimp only
  split
  · exact h.complete
  · exact h.endToken.complete.ite h.complete

theorem execDebugOpen_keepsIds (h : s.idsUnique) {src req} : KeepsIds (execDebugOpen src req s) := by
  refine .next (h.ilnil fun _ _ _ h => ?_)
  dsimp only
  split
  · exact h.complete
  · split
    · exact h.complete
    · exact h.complete.ite (h.complete.ite (h.complete.ite ((h.fresh.writeCtl.when fun h => h.modCp).modRot.complete)))

theorem execDebugClose_keepsIds (h : s.idsUnique) {src req} : KeepsIds (execDebugClose src req s) := by
  refine .next (h.ilnil fun _ _ _ h => ?_)
  dsimp only
  split
  · exact h.complete
  · exact h.modRot.modCp.complete

theorem execPowerWindow_keepsIds (h : s.idsUnique) {endTime module cabs} :
    KeepsIds (execPowerWindow endTime module cabs s) :=
  .next (h.ite h.frame)

theorem execTemperatureWindow_keepsIds (h : s.idsUnique) {endTime temps} :
    KeepsIds (execTemperatureWindow endTime temps s) :=
  .next (h.ite h.frame)

theorem execCounterSample_keepsIds (h : s.idsUnique) {time} : KeepsIds (execCounterSample time s) :=
  .next (h.ite h.frame)

theorem execTelemetryRead_keepsIds (h : s.idsUnique) {src req} : KeepsIds (execTelemetryRead src req s) :=
  .next (h.ilnil fun _ _ _ h => h.complete)

/-! ## Edge ports -/

theorem execFrameReceive_keepsIds (h : s.idsUnique) {ed f} : KeepsIds (execFrameReceive ed f s) :=
  .next (h.ite (h.modEdge.countDiscard.ite ((h.modEdge.takeDatagram.ite h.modEdge.countDiscard).ite h.modEdge.toRing)))

theorem execFragmentTimeout_keepsIds (h : s.idsUnique) {ed msgId} : KeepsIds (execFragmentTimeout ed msgId s) :=
  .next h.modEdge

theorem execTxRingPoll_keepsIds (h : s.idsUnique) {ed ring} : KeepsIds (execTxRingPoll ed ring s) := by
  refine .next ?_
  split
  · exact h
  · exact h.ite (h.giveBack.countDiscard.ite h.modEdge.giveBack)

theorem execLinkUp_keepsIds (h : s.idsUnique) {ed} : KeepsIds (execLinkUp ed s) :=
  .next (h.modEdge.ite h)

theorem execEdgeEvent_keepsIds (h : s.idsUnique) {ed which} : KeepsIds (execEdgeEvent ed which s) :=
  .next (h.ite (h.modEdge.report.when fun h => h.modEdge.closeEdge))

theorem execSetEdgeAddr_keepsIds (h : s.idsUnique) {src req} : KeepsIds (execSetEdgeAddr src req s) :=
  .next (h.ilnil fun _ _ _ h => h.complete.ite (h.complete.ite (h.complete.ite h.modEdge.complete)))

theorem execSetEdgeRings_keepsIds (h : s.idsUnique) {src req} : KeepsIds (execSetEdgeRings src req s) := by
  refine .next (h.ilnil fun _ _ _ h => h.complete.ite ?_)
  split
  · exact h.complete
  · exact h.stopRing.modEdge.complete

theorem execEdgeStatus_keepsIds (h : s.idsUnique) {src req} : KeepsIds (execEdgeStatus src req s) :=
  .next (h.ilnil fun _ _ _ h => h.complete)

/-! ## Sessions -/

theorem execSessionInit_keepsIds (h : s.idsUnique) {ed m} : KeepsIds (execSessionInit ed m s) := by
  refine .next (h.ite ?_)
  split
  · exact h.sendPlain
  · split
    · exact h.reject
    · refine h.reject.ite ?_
      split
      · exact h.reject
      next e => exact (h.openSession e).sendPlain

theorem execDataRecord_keepsIds (h : s.idsUnique) {r msgs rest} : KeepsIds (execDataRecord r msgs rest s) :=
  .next (h.sealedRecord fun _ h => h.modSession.exhaust)

theorem execAckRecord_keepsIds (h : s.idsUnique) {r} : KeepsIds (execAckRecord r s) := by
  refine .next ?_
  dsimp only
  split
  · exact h
  · exact h.discardRecord.ite (h.fromSource.discardRecord.ite (h.fromSource.closeSession.ite
      h.fromSource.modSession.takeAck.exhaust))

theorem execCloseRecord_keepsIds (h : s.idsUnique) {r} : KeepsIds (execCloseRecord r s) :=
  .next (h.sealedRecord fun _ h => h.closeSession)

theorem execRecordResend_keepsIds (h : s.idsUnique) {session counter} :
    KeepsIds (execRecordResend session counter s) := by
  refine .next ?_
  split
  · exact h
  · split
    · exact h
    · exact h.ite h.modEdge.modSession

theorem execAckTimer_keepsIds (h : s.idsUnique) {session} : KeepsIds (execAckTimer session s) := by
  refine .next ?_
  split
  · exact h
  · exact h.ite h.sendRecord.modSession.exhaust

/-! ## Faults -/

theorem execSetPolicy_keepsIds (h : s.idsUnique) {src req} : KeepsIds (execSetPolicy src req s) :=
  .next (h.ilnil fun _ _ _ h => h.complete.ite h.modCp.complete)

theorem execErrorLogRead_keepsIds (h : s.idsUnique) {src req} : KeepsIds (execErrorLogRead src req s) := by
  refine .next (h.ilnil fun _ _ _ h => ?_)
  dsimp only
  split
  · exact h.complete
  · exact h.writeCtl.modCt.complete

theorem execFaultReport_keepsIds (h : s.idsUnique) {r} : KeepsIds (execFaultReport r s) :=
  .next (h.ite (((h.foldl fun _ _ h => h.contain).ite h).report))

theorem execLinkEvent_keepsIds (h : s.idsUnique) {block unit replays down} :
    KeepsIds (execLinkEvent block unit replays down s) :=
  .next (h.ite h.report)

theorem execClaim_keepsIds (h : s.idsUnique) {src req} : KeepsIds (execClaim src req s) := by
  refine .next (h.ilnil fun _ _ _ h => ?_)
  dsimp only
  split
  · exact h.complete
  · exact (h.complete.ite h.modCp.complete).ite (h.complete.ite h.modCp.complete)

theorem execRelease_keepsIds (h : s.idsUnique) {src req} : KeepsIds (execRelease src req s) := by
  refine .next (h.ilnil fun _ _ _ h => ?_)
  dsimp only
  split
  · exact h.complete
  · exact (h.modCp.complete.ite h.complete).ite (h.modCp.complete.ite h.complete)

theorem execGeneralTimerExpiry_keepsIds (h : s.idsUnique) {die timer} :
    KeepsIds (execGeneralTimerExpiry die timer s) := by
  refine .next ?_
  split
  · exact h.expireTimer.ite h
  · exact h

theorem execThermalWarn_keepsIds (h : s.idsUnique) {x} : KeepsIds (execThermalWarn x s) :=
  .next (h.ite h.modCp.report)

theorem execThermalWarnRepeat_keepsIds (h : s.idsUnique) {x} : KeepsIds (execThermalWarnRepeat x s) :=
  .next (h.report.ite h)

/-! ## Panels -/

theorem execPanelBufferFill_keepsIds (h : s.idsUnique) {u f} : KeepsIds (execPanelBufferFill u f s) := by
  refine .next ?_
  split
  · dsimp only
    split
    · exact h
    · exact (h.foldl fun _ _ h => h.modCluster.foldl fun _ _ h => h.placePieces).modDie
  · exact h

/-! ## Matrix operations -/

theorem execShelfFwd_keepsIds (h : s.idsUnique) {m} : KeepsIds (execShelfFwd m s) :=
  .next h.matrix

theorem execShelfBwd_keepsIds (h : s.idsUnique) {m} : KeepsIds (execShelfBwd m s) :=
  .next h.matrix

theorem execSeqScore_keepsIds (h : s.idsUnique) {m} : KeepsIds (execSeqScore m s) :=
  .next h.matrix

theorem execSeqMix_keepsIds (h : s.idsUnique) {m} : KeepsIds (execSeqMix m s) :=
  .next h.matrix

theorem execSlotGrad_keepsIds (h : s.idsUnique) {m} : KeepsIds (execSlotGrad m s) := by
  refine .next ?_
  dsimp only
  split
  · exact h.matrix
  · exact h.matrix.whenNot fun h => h.ite h.addGradients

theorem execDrawerMul_keepsIds (h : s.idsUnique) {m} : KeepsIds (execDrawerMul m s) :=
  .next h.matrix

theorem execScalePass2_keepsIds (h : s.idsUnique) {die stream jobSeq opIndex} :
    KeepsIds (execScalePass2 die stream jobSeq opIndex s) := by
  refine .next ?_
  dsimp only
  split
  · exact h.writeOut.frame
  · exact h

/-! ## Vector arithmetic -/

theorem vArith_keepsIds (h : s.idsUnique) {opc fn u f} : KeepsIds (vArith opc fn u f s) :=
  .next (h.vRun fun _ _ _ h => h.vLanes)

theorem execVadd_keepsIds (h : s.idsUnique) {u f} : KeepsIds (execVadd u f s) := vArith_keepsIds h
theorem execVsub_keepsIds (h : s.idsUnique) {u f} : KeepsIds (execVsub u f s) := vArith_keepsIds h
theorem execVmul_keepsIds (h : s.idsUnique) {u f} : KeepsIds (execVmul u f s) := vArith_keepsIds h
theorem execVfma_keepsIds (h : s.idsUnique) {u f} : KeepsIds (execVfma u f s) := vArith_keepsIds h
theorem execVmin_keepsIds (h : s.idsUnique) {u f} : KeepsIds (execVmin u f s) := vArith_keepsIds h
theorem execVmax_keepsIds (h : s.idsUnique) {u f} : KeepsIds (execVmax u f s) := vArith_keepsIds h
theorem execVabs_keepsIds (h : s.idsUnique) {u f} : KeepsIds (execVabs u f s) := vArith_keepsIds h
theorem execVneg_keepsIds (h : s.idsUnique) {u f} : KeepsIds (execVneg u f s) := vArith_keepsIds h
theorem execVdiv_keepsIds (h : s.idsUnique) {u f} : KeepsIds (execVdiv u f s) := vArith_keepsIds h
theorem execVsqrt_keepsIds (h : s.idsUnique) {u f} : KeepsIds (execVsqrt u f s) := vArith_keepsIds h
theorem execVexp_keepsIds (h : s.idsUnique) {u f} : KeepsIds (execVexp u f s) := vArith_keepsIds h
theorem execVdexp_keepsIds (h : s.idsUnique) {u f} : KeepsIds (execVdexp u f s) := vArith_keepsIds h
theorem execVmuldiv_keepsIds (h : s.idsUnique) {u f} : KeepsIds (execVmuldiv u f s) := vArith_keepsIds h

theorem execVcmp_keepsIds (h : s.idsUnique) {u f} : KeepsIds (execVcmp u f s) :=
  .next (h.vRun fun _ _ _ h => .ite trivial h.vMaskOut)

theorem vMaskOp_keepsIds (h : s.idsUnique) {opc two op u f} : KeepsIds (vMaskOp opc two op u f s) :=
  .next (h.vRun fun _ _ _ h => h.vMaskOut)

theorem execMand_keepsIds (h : s.idsUnique) {u f} : KeepsIds (execMand u f s) := vMaskOp_keepsIds h
theorem execMor_keepsIds (h : s.idsUnique) {u f} : KeepsIds (execMor u f s) := vMaskOp_keepsIds h
theorem execMnot_keepsIds (h : s.idsUnique) {u f} : KeepsIds (execMnot u f s) := vMaskOp_keepsIds h

theorem execMrange_keepsIds (h : s.idsUnique) {u f} : KeepsIds (execMrange u f s) :=
  .next (h.vRun fun _ _ _ h => .withMarks fun _ => .ok h)

theorem execVsel_keepsIds (h : s.idsUnique) {u f} : KeepsIds (execVsel u f s) :=
  .next (h.vRun fun _ _ _ h => h.vPlain)

theorem execVbcast_keepsIds (h : s.idsUnique) {u f} : KeepsIds (execVbcast u f s) :=
  .next (h.vRun fun _ _ _ h => h.vPlain)

theorem vBitOp_keepsIds (h : s.idsUnique) {opc op u f} : KeepsIds (vBitOp opc op u f s) :=
  .next (h.vRun fun _ _ _ h => h.vPlain)

theorem execVand_keepsIds (h : s.idsUnique) {u f} : KeepsIds (execVand u f s) := vBitOp_keepsIds h
theorem execVor_keepsIds (h : s.idsUnique) {u f} : KeepsIds (execVor u f s) := vBitOp_keepsIds h
theorem execVxor_keepsIds (h : s.idsUnique) {u f} : KeepsIds (execVxor u f s) := vBitOp_keepsIds h
theorem execVshl_keepsIds (h : s.idsUnique) {u f} : KeepsIds (execVshl u f s) := vBitOp_keepsIds h
theorem execVshr_keepsIds (h : s.idsUnique) {u f} : KeepsIds (execVshr u f s) := vBitOp_keepsIds h
theorem execVsra_keepsIds (h : s.idsUnique) {u f} : KeepsIds (execVsra u f s) := vBitOp_keepsIds h

theorem execVcvt_keepsIds (h : s.idsUnique) {u f} : KeepsIds (execVcvt u f s) := by
  refine .next (h.vRun fun _ v d h => ?_)
  dsimp only
  split
  next e => exact .ok (h.vLanes.of_ok e)
  · exact h.vLanes

theorem execVred_keepsIds (h : s.idsUnique) {u f} : KeepsIds (execVred u f s) :=
  .next (h.vRun fun _ _ _ h => .ite trivial (.withMarks fun _ => .ok h))

theorem execVsplit_keepsIds (h : s.idsUnique) {u f} : KeepsIds (execVsplit u f s) :=
  .next (h.vRun fun _ _ _ h => .ite trivial (.withMarks fun _ => .ok h))

theorem execVjoin_keepsIds (h : s.idsUnique) {u f} : KeepsIds (execVjoin u f s) :=
  .next (h.vRun fun _ _ _ h => .withMarks fun _ => .ok h)

theorem execVgetf_keepsIds (h : s.idsUnique) {u f} : KeepsIds (execVgetf u f s) :=
  .next (h.vRun fun _ _ _ h => .withMarks fun _ => .ok h)

/-! ## Vector memory and tiles -/

theorem execVld_keepsIds (h : s.idsUnique) {u f} : KeepsIds (execVld u f s) :=
  .next (h.vRun fun _ _ _ h => .vLoadAt fun _ _ => .ite trivial h.vFill)

theorem execVldb_keepsIds (h : s.idsUnique) {u f} : KeepsIds (execVldb u f s) :=
  .next (h.vRun fun _ _ _ h => .vLoadAt fun _ _ => .ite trivial h.vFill)

theorem execVst_keepsIds (h : s.idsUnique) {u f} : KeepsIds (execVst u f s) :=
  .next (h.vRun fun _ _ _ h => .withMarks fun _ => .ite trivial (h.vStoreAt fun _ _ h => .ok h))

theorem execVldmx_keepsIds (h : s.idsUnique) {u f} : KeepsIds (execVldmx u f s) :=
  .next (h.vRun fun _ _ _ h => .ite h.vFill (.vLoadAt fun _ _ => .vLoadAt fun _ _ => .ite trivial h.vFill))

theorem execVstmx_keepsIds (h : s.idsUnique) {u f} : KeepsIds (execVstmx u f s) := by
  refine .next (h.vRun fun _ _ _ h => .withMarks fun _ => .ite (.ok h) (.ite trivial ?_))
  split
  · exact h.vStoreAt fun _ _ h => h.vStoreAt fun _ _ h => .ok h
  · exact trivial

theorem execVfbst_keepsIds (h : s.idsUnique) {u f} : KeepsIds (execVfbst u f s) := by
  refine .next (h.vRun fun s v d h => ?_)
  have hs : (if (predM f).men && !(predM f).zm then s.fresh else (0, s)).2.idsUnique := by
    split
    · exact h.fresh
    · exact h
  exact .withMarks fun _ => hs.vStoreAt fun _ _ h => .ite (h.vStoreAt fun _ _ h => .ok h) (.ok h)

theorem execVfbld_keepsIds (h : s.idsUnique) {u f} : KeepsIds (execVfbld u f s) := by
  refine .next (h.vRun fun _ _ _ h => ?_)
  dsimp only
  split
  · exact trivial
  · split
    · exact trivial
    · exact .vLoadAt fun _ _ => h.vFill

theorem execTld_keepsIds (h : s.idsUnique) {u f} : KeepsIds (execTld u f s) := by
  refine .next (h.vRun fun _ _ _ h => .ite trivial ?_)
  split
  · exact h.vFill
  · exact .withMarks fun _ => h.vFill
  · exact trivial

theorem execTst_keepsIds (h : s.idsUnique) {u f} : KeepsIds (execTst u f s) := by
  refine .next (h.vRun fun _ _ _ h => .ite trivial ?_)
  split
  · exact .withMarks fun _ => .ite trivial (.ok h.setTile)
  · exact trivial

/-! ## Library bodies and vector descriptors -/

theorem execVectorDescriptor_keepsIds (h : s.idsUnique) {die jobSeq opIndex words} :
    KeepsIds (execVectorDescriptor die jobSeq opIndex words s) := by
  refine .next (h.ite ?_)
  split
  · exact h
  · exact h.endJob.ite (h.ite (h.getD h.wearFor.startVector))

theorem execDescriptorRetire_keepsIds (h : s.idsUnique) {die stream jobSeq opIndex} :
    KeepsIds (execDescriptorRetire die stream jobSeq opIndex s) := by
  refine .next (h.ite ?_)
  split
  · exact h.retireMatrix.ite h
  · split
    next e => exact (h.strictGoesOn _ e).retireVector
    · exact h

/-! ## Power, start-up and resets -/

theorem execModResetNAssert_keepsIds (h : s.idsUnique) : KeepsIds (execModResetNAssert s) :=
  .next (h.modPower.when fun h => h.fullReset.modPower)

theorem execInputTurnOn_keepsIds (h : s.idsUnique) : KeepsIds (execInputTurnOn s) :=
  .next (h.ite h.modPower)

theorem execInputTurnOff_keepsIds (h : s.idsUnique) : KeepsIds (execInputTurnOff s) :=
  .next h.powerOff

theorem execOvervoltage_keepsIds (h : s.idsUnique) : KeepsIds (execOvervoltage s) :=
  .next h.powerOff

theorem execThermalTrip_keepsIds (h : s.idsUnique) {x} : KeepsIds (execThermalTrip x s) :=
  .next ((h.powerOff.ite h).ite (h.ite h.logReport.tripData))

theorem execModResetNRelease_keepsIds (h : s.idsUnique) {f} : KeepsIds (execModResetNRelease f s) := by
  refine .next (h.ite ?_)
  split
  · exact h.modPower
  · refine .foldl (.ite (.modRot ?_) ?_) fun _ _ h => h.firmwareReport
    · split
      · exact h.bring.activate
      · exact h.bring
    · split
      · exact h.bring.activate
      · exact h.bring

theorem execStartLimit_keepsIds (h : s.idsUnique) : KeepsIds (execStartLimit s) :=
  .next (h.activate.ite h)

theorem execTakeOverComplete_keepsIds (h : s.idsUnique) : KeepsIds (execTakeOverComplete s) := by
  refine .next ?_
  split
  · exact h
  · exact (((h.modCt.modCt.modCp.completeAll.flushJournal.modCp.foldl fun _ _ h =>
      h.emit).postEvent.frame.dropUncommitted.foldl fun _ _ h => h.installGlove).whenNot fun h =>
        h.tableAlone).settleDraining.hear.hear.answerHeld

theorem execControlDieReset_keepsIds (h : s.idsUnique) {ct recovers} : KeepsIds (execControlDieReset ct recovers s) :=
  .next (h.ite (h.modCt.ite h.loseStandby.restartCt))

theorem execControlDiePower_keepsIds (h : s.idsUnique) {ct on} : KeepsIds (execControlDiePower ct on s) :=
  .next (h.ite ((h.restartCt.ite h).ite (h.ite h.loseStandby.modCt)))

theorem execPowerLimitWatts_keepsIds (h : s.idsUnique) {watts} : KeepsIds (execPowerLimitWatts watts s) :=
  .next (h.modPower.ite h)

theorem execActivePreference_keepsIds (h : s.idsUnique) {ct} : KeepsIds (execActivePreference ct s) :=
  .next h.modPower

theorem execStartLimitSeconds_keepsIds (h : s.idsUnique) {seconds} : KeepsIds (execStartLimitSeconds seconds s) :=
  .next h.modPower

theorem execOperatorKeyId_keepsIds (h : s.idsUnique) {keyId} : KeepsIds (execOperatorKeyId keyId s) :=
  .next h.frame

theorem execUpdateService_keepsIds (h : s.idsUnique) {ct images} : KeepsIds (execUpdateService ct images s) :=
  .next (h.ite (h.modCt.modRot.when fun h => h.firmwareReport))

theorem execThrottleStep_keepsIds (h : s.idsUnique) {mean} : KeepsIds (execThrottleStep mean s) :=
  .next (h.ite h.modPower)

theorem execThrottleHeld_keepsIds (h : s.idsUnique) : KeepsIds (execThrottleHeld s) :=
  .next (h.powerReport.ite h)

theorem execPowerFault_keepsIds (h : s.idsUnique) {blade} : KeepsIds (execPowerFault blade s) :=
  .next (h.ite h.modPower.powerReport)

theorem execBladeInRating_keepsIds (h : s.idsUnique) : KeepsIds (execBladeInRating s) :=
  .next h.modPower

theorem execRefclkSwitch_keepsIds (h : s.idsUnique) {retrained} : KeepsIds (execRefclkSwitch retrained s) :=
  .next (h.ite (h.modPower.foldl fun _ _ h => h.report))

theorem execPpsIn_keepsIds (h : s.idsUnique) : KeepsIds (execPpsIn s) :=
  .next (h.modPower.ite h)

theorem execPtpLock_keepsIds (h : s.idsUnique) {grandmaster} : KeepsIds (execPtpLock grandmaster s) :=
  .next (h.ite (h.modPower.ite (h.modPower.whenNot fun h => h.frame.foldl fun _ _ h => h.expireTimer)))

theorem execHoldover_keepsIds (h : s.idsUnique) : KeepsIds (execHoldover s) :=
  .next (h.modPower.ite h)

end Sys2Proof.Machine
end

section
/-!
PROOF. Every step keeps request, stream and session numbers unique.
-/

namespace Sys2Proof.Machine

variable {s t : State}

/-- Whatever command is run, its next state's numbers are unique where its state's are. -/
theorem exec_keepsIds (h : s.idsUnique) (i : Instr) : KeepsIds (exec i s) := by
  cases i with
  | queryCaps => exact execQueryCaps_keepsIds h
  | resync => exact execResync_keepsIds h
  | setEventTray => exact execSetEventTray_keepsIds h
  | takeOver => exact execTakeOver_keepsIds h
  | configureCabinet => exact execConfigureCabinet_keepsIds h
  | mountShelf => exact execMountShelf_keepsIds h
  | mountComplete => exact execMountComplete_keepsIds h
  | unmountShelf => exact execUnmountShelf_keepsIds h
  | setAdmission => exact execSetAdmission_keepsIds h
  | loadProgram => exact execLoadProgram_keepsIds h
  | createStream => exact execCreateStream_keepsIds h
  | destroyStream => exact execDestroyStream_keepsIds h
  | submitJob => exact execSubmitJob_keepsIds h
  | jobStart => exact execJobStart_keepsIds h
  | resumeStream => exact execResumeStream_keepsIds h
  | bindDrawer => exact execBindDrawer_keepsIds h
  | unbindDrawer => exact execUnbindDrawer_keepsIds h
  | prefetchDrawer => exact execPrefetchDrawer_keepsIds h
  | evictDrawer => exact execEvictDrawer_keepsIds h
  | drawerStatus => exact execDrawerStatus_keepsIds h
  | setDrawerCache => exact execSetDrawerCache_keepsIds h
  | setRemakeConsent => exact execSetRemakeConsent_keepsIds h
  | catalogDeliver => exact execCatalogDeliver_keepsIds h
  | startRun => exact execStartRun_keepsIds h
  | stopRun => exact execStopRun_keepsIds h
  | endRun => exact execEndRun_keepsIds h
  | publishRun => exact execPublishRun_keepsIds h
  | resumeRun => exact execResumeRun_keepsIds h
  | runStatus => exact execRunStatus_keepsIds h
  | setRunRate => exact execSetRunRate_keepsIds h
  | catalogStored => exact execCatalogStored_keepsIds h
  | setReduction => exact execSetReduction_keepsIds h
  | setThinning => exact execSetThinning_keepsIds h
  | reductionStatus => exact execReductionStatus_keepsIds h
  | memoryStatus => exact execMemoryStatus_keepsIds h
  | attest => exact execAttest_keepsIds h
  | addTenant => exact execAddTenant_keepsIds h
  | removeTenant => exact execRemoveTenant_keepsIds h
  | gloveClose => exact execGloveClose_keepsIds h
  | gloveOpen => exact execGloveOpen_keepsIds h
  | rotateGlove => exact execRotateGlove_keepsIds h
  | gloveStatus => exact execGloveStatus_keepsIds h
  | consentInstall => exact execConsentInstall_keepsIds h
  | consentRevoke => exact execConsentRevoke_keepsIds h
  | debugOpen => exact execDebugOpen_keepsIds h
  | debugClose => exact execDebugClose_keepsIds h
  | telemetryRead => exact execTelemetryRead_keepsIds h
  | resetCluster => exact execResetCluster_keepsIds h
  | resetDie => exact execResetDie_keepsIds h
  | resetCabinet => exact execResetCabinet_keepsIds h
  | resetComplete => exact execResetComplete_keepsIds h
  | setPolicy => exact execSetPolicy_keepsIds h
  | errorLogRead => exact execErrorLogRead_keepsIds h
  | reserveStatus => exact execReserveStatus_keepsIds h
  | claim => exact execClaim_keepsIds h
  | release => exact execRelease_keepsIds h
  | setEdgeAddr => exact execSetEdgeAddr_keepsIds h
  | setEdgeRings => exact execSetEdgeRings_keepsIds h
  | edgeStatus => exact execEdgeStatus_keepsIds h
  | undefinedOpcode => exact execUndefinedOpcode_keepsIds h
  | pigeonholeGo => exact execPigeonholeGo_keepsIds h
  | pigeonholeDone => exact execPigeonholeDone_keepsIds h
  | withdraw => exact execWithdraw_keepsIds h
  | pigeonholeOverrunClear => exact execPigeonholeOverrunClear_keepsIds h
  | pigeonholeIrqEn => exact execPigeonholeIrqEn_keepsIds h
  | doorbell _ _ v => exact execDoorbell_keepsIds h (x := v)
  | outTailWrite => exact execOutTailWrite_keepsIds h
  | inHeadWrite => exact execInHeadWrite_keepsIds h
  | trayOverrunClear => exact execTrayOverrunClear_keepsIds h
  | trayIrqEn => exact execTrayIrqEn_keepsIds h
  | registerWrite => exact execRegisterWrite_keepsIds h
  | heldResponseWrite => exact execHeldResponseWrite_keepsIds h
  | journalEntry => exact execJournalEntry_keepsIds h
  | journalAck => exact execJournalAck_keepsIds h
  | heartbeat => exact execHeartbeat_keepsIds h
  | heartbeatLost => exact execHeartbeatLost_keepsIds h
  | takeOverComplete => exact execTakeOverComplete_keepsIds h
  | servingRequest => exact execServingRequest_keepsIds h
  | admissionRetest => exact execAdmissionRetest_keepsIds h
  | fetchResume => exact execFetchResume_keepsIds h
  | fetchComplete => exact execFetchComplete_keepsIds h
  | remakeStart => exact execRemakeStart_keepsIds h
  | admitWaitExpiry => exact execAdmitWaitExpiry_keepsIds h
  | passStart => exact execPassStart_keepsIds h
  | panelBufferFill => exact execPanelBufferFill_keepsIds h
  | passEnd => exact execPassEnd_keepsIds h
  | boundaryRowsArrival => exact execBoundaryRowsArrival_keepsIds h
  | tokenIdsArrival => exact execTokenIdsArrival_keepsIds h
  | segmentEnd => exact execSegmentEnd_keepsIds h
  | shelfFwd => exact execShelfFwd_keepsIds h
  | shelfBwd => exact execShelfBwd_keepsIds h
  | seqScore => exact execSeqScore_keepsIds h
  | seqMix => exact execSeqMix_keepsIds h
  | slotGrad => exact execSlotGrad_keepsIds h
  | drawerMul => exact execDrawerMul_keepsIds h
  | scalePass2 => exact execScalePass2_keepsIds h
  | vectorDescriptor => exact execVectorDescriptor_keepsIds h
  | descriptorRetire => exact execDescriptorRetire_keepsIds h
  | vadd => exact execVadd_keepsIds h
  | vsub => exact execVsub_keepsIds h
  | vmul => exact execVmul_keepsIds h
  | vfma => exact execVfma_keepsIds h
  | vmin => exact execVmin_keepsIds h
  | vmax => exact execVmax_keepsIds h
  | vabs => exact execVabs_keepsIds h
  | vneg => exact execVneg_keepsIds h
  | vdiv => exact execVdiv_keepsIds h
  | vsqrt => exact execVsqrt_keepsIds h
  | vexp => exact execVexp_keepsIds h
  | vdexp => exact execVdexp_keepsIds h
  | vmuldiv => exact execVmuldiv_keepsIds h
  | vcmp => exact execVcmp_keepsIds h
  | mand => exact execMand_keepsIds h
  | mor => exact execMor_keepsIds h
  | mnot => exact execMnot_keepsIds h
  | mrange => exact execMrange_keepsIds h
  | vsel => exact execVsel_keepsIds h
  | vbcast => exact execVbcast_keepsIds h
  | vand => exact execVand_keepsIds h
  | vor => exact execVor_keepsIds h
  | vxor => exact execVxor_keepsIds h
  | vshl => exact execVshl_keepsIds h
  | vshr => exact execVshr_keepsIds h
  | vsra => exact execVsra_keepsIds h
  | vcvt => exact execVcvt_keepsIds h
  | vred => exact execVred_keepsIds h
  | vsplit => exact execVsplit_keepsIds h
  | vjoin => exact execVjoin_keepsIds h
  | vgetf => exact execVgetf_keepsIds h
  | vld => exact execVld_keepsIds h
  | vst => exact execVst_keepsIds h
  | vldb => exact execVldb_keepsIds h
  | vldmx => exact execVldmx_keepsIds h
  | vstmx => exact execVstmx_keepsIds h
  | vfbld => exact execVfbld_keepsIds h
  | vfbst => exact execVfbst_keepsIds h
  | tld => exact execTld_keepsIds h
  | tst => exact execTst_keepsIds h
  | contributionReady => exact execContributionReady_keepsIds h
  | hatbandItem => exact execHatbandItem_keepsIds h
  | deadline => exact execDeadline_keepsIds h
  | ownerReady => exact execOwnerReady_keepsIds h
  | commitPoint => exact execCommitPoint_keepsIds h
  | hopBroken => exact execHopBroken_keepsIds h
  | latticePacket => exact execLatticePacket_keepsIds h
  | sectorRead => exact execSectorRead_keepsIds h
  | sectorWrite => exact execSectorWrite_keepsIds h
  | mergeFlush => exact execMergeFlush_keepsIds h
  | hbmApertureRead => exact execHbmApertureRead_keepsIds h
  | hbmApertureWrite => exact execHbmApertureWrite_keepsIds h
  | allocationFill => exact execAllocationFill_keepsIds h
  | sweepStep => exact execSweepStep_keepsIds h
  | patrolScrub => exact execPatrolScrub_keepsIds h
  | onDieRead => exact execOnDieRead_keepsIds h
  | gloveChangeAck => exact execGloveChangeAck_keepsIds h
  | gloveInstallationAck => exact execGloveInstallationAck_keepsIds h
  | gloveErasureAck => exact execGloveErasureAck_keepsIds h
  | drainConfirm => exact execDrainConfirm_keepsIds h
  | frameReceive => exact execFrameReceive_keepsIds h
  | txRingPoll => exact execTxRingPoll_keepsIds h
  | sessionInit => exact execSessionInit_keepsIds h
  | dataRecord => exact execDataRecord_keepsIds h
  | ackRecord => exact execAckRecord_keepsIds h
  | closeRecord => exact execCloseRecord_keepsIds h
  | recordResend => exact execRecordResend_keepsIds h
  | ackTimer => exact execAckTimer_keepsIds h
  | fragmentTimeout => exact execFragmentTimeout_keepsIds h
  | getVersion => exact execGetVersion_keepsIds h
  | getCapabilities => exact execGetCapabilities_keepsIds h
  | negotiateAlgorithms => exact execNegotiateAlgorithms_keepsIds h
  | getDigests => exact execGetDigests_keepsIds h
  | getCertificate => exact execGetCertificate_keepsIds h
  | challenge => exact execChallenge_keepsIds h
  | getMeasurements => exact execGetMeasurements_keepsIds h
  | spdmUnsupportedRequest => exact execSpdmUnsupportedRequest_keepsIds h
  | faultReport => exact execFaultReport_keepsIds h
  | linkEvent => exact execLinkEvent_keepsIds h
  | edgeEvent => exact execEdgeEvent_keepsIds h
  | thermalWarn => exact execThermalWarn_keepsIds h
  | thermalWarnRepeat => exact execThermalWarnRepeat_keepsIds h
  | thermalTrip => exact execThermalTrip_keepsIds h
  | generalTimerExpiry => exact execGeneralTimerExpiry_keepsIds h
  | tokenInForce => exact execTokenInForce_keepsIds h
  | tokenExpiry => exact execTokenExpiry_keepsIds h
  | powerWindow => exact execPowerWindow_keepsIds h
  | temperatureWindow => exact execTemperatureWindow_keepsIds h
  | counterSample => exact execCounterSample_keepsIds h
  | throttleStep => exact execThrottleStep_keepsIds h
  | throttleHeld => exact execThrottleHeld_keepsIds h
  | bladeInRating => exact execBladeInRating_keepsIds h
  | inputTurnOn => exact execInputTurnOn_keepsIds h
  | inputTurnOff => exact execInputTurnOff_keepsIds h
  | overvoltage => exact execOvervoltage_keepsIds h
  | powerFault => exact execPowerFault_keepsIds h
  | modResetNAssert => exact execModResetNAssert_keepsIds h
  | modResetNRelease => exact execModResetNRelease_keepsIds h
  | startLimit => exact execStartLimit_keepsIds h
  | refclkSwitch => exact execRefclkSwitch_keepsIds h
  | ppsIn => exact execPpsIn_keepsIds h
  | ptpLock => exact execPtpLock_keepsIds h
  | holdover => exact execHoldover_keepsIds h
  | powerLimitWatts => exact execPowerLimitWatts_keepsIds h
  | activePreference => exact execActivePreference_keepsIds h
  | startLimitSeconds => exact execStartLimitSeconds_keepsIds h
  | operatorKeyId => exact execOperatorKeyId_keepsIds h
  | controlDiePower => exact execControlDiePower_keepsIds h
  | controlDieReset => exact execControlDieReset_keepsIds h
  | updateService => exact execUpdateService_keepsIds h
  | activationStoreBlockZeroing => exact execActivationStoreBlockZeroing_keepsIds h
  | linkUp => exact execLinkUp_keepsIds h

theorem reset_idsUnique : State.reset.idsUnique := by
  simp [State.idsUnique, State.reset, Rot.reset]

theorem step_idsUnique (h : s.idsUnique) (e : step s = .next t) : t.idsUnique := by
  unfold step at e
  split at e
  · cases e
    unfold State.idle
    exact h.frame.ite h
  next c rest _ => exact exec_keepsIds (s := { s with pending := rest }) h c t e

/-- Settles O6: reset has the module's own stream alone, and `exec_keepsIds` says of each command that it keeps the numbers unique. -/
theorem stepKeepsNumbersUnique : Obligations.StepKeepsNumbersUnique :=
  ⟨reset_idsUnique, fun _ _ => step_idsUnique⟩

end Sys2Proof.Machine
end

section
/-!
REFUTATION. A byte written by a core need not read back where the control die's memory is not in canonical form.
-/

namespace Sys2Proof.Machine

/-- A memory whose addresses do not rise: a write of 0 to address 3 stops at address 10 and leaves the byte at address 3. -/
def unsortedMem : Mem := [(10, 1), (3, 7)]

/-- Reset with MOD_RESET_N released, control die 0 past step 8, and a memory that is not canonical. -/
def unsortedState : State :=
  { State.reset with
    power := { Power.reset with resetLow := false }
    cts := [{ CtDie.reset with reached8 := true, mem := unsortedMem }, CtDie.reset] }

theorem unsortedMem_not_wf : unsortedMem.wf = false := by decide

theorem unsortedMem_set_zero : Mem.set 3 0 unsortedMem = unsortedMem := by decide

/-- The core's write of one zero byte to address 3 ends without a fault and leaves the memory as it was. -/
theorem unsortedState_write : execRegisterWrite 0 3 1 0 unsortedState =
    .next ((unsortedState.modCt 0 fun c => { c with mem := Mem.set 3 0 c.mem }).onBus 0 false []) := rfl

/-- Refutes O8: `CoreWritesControlMemory` does not ask for memories in canonical form. In `unsortedState` a core writes 0 to the byte at
address 3, which held 7 and still does. -/
theorem not_coreWrites : ¬ Obligations.CoreWrites := by
  intro ⟨hmem, _⟩
  have hw := (hmem unsortedState 0 3 1 0 (by decide) rfl rfl).1 (by decide) (by decide)
  obtain ⟨t, ht, hget, -⟩ := hw
  cases unsortedState_write.symm.trans ht
  have h3 : Mem.get 3 (Mem.set 3 0 unsortedMem) = 0 := hget 3
  rw [unsortedMem_set_zero] at h3
  exact absurd h3 (by decide)

end Sys2Proof.Machine
end

section
/-!
SUPPORT. How an Ilnil command is refused: the way of a request that was taken through the active command processor and through the
standby, and a pigeonhole that a refusal is written to.
-/

namespace Sys2Proof.Machine

variable {s t : State} {info : CmdInfo} {src : Src} {req : Req} {r : Reply}

/-! ## The meaning of an Ilnil command -/

/-- A command with a row in the command tables is that row's check and a body. -/
theorem exec_ilnil {i : Instr} (h : ilnilOf i = some (info, src, req)) (s : State) :
    ∃ body, exec i s = .next (s.ilnil info src req body) := by
  unfold ilnilOf at h
  split at h <;> cases h <;> exact ⟨_, rfl⟩

/-- A request that is taken goes to the side of its control die. -/
theorem ilnil_of_taken (htk : s.takes src = true) (hheld : s.cp.heldCmds.contains (replyOf info src req) = false)
    (ht : s.takeFrom src (reqWords info.opcode req) = some t) (body : Reply → List Word → State → State) :
    s.ilnil info src req body =
      if t.side (t.ctOf src) = 1 then t.runStandby info src req (replyOf info src req) body
      else t.runActive info src req (replyOf info src req) body := by
  have hheld' : s.cp.heldCmds.contains
      ({ src := src, mseq := req.mseq, stream := req.stream, opcode := BitVec.ofNat 16 info.opcode } : Reply) = false := hheld
  simp only [State.ilnil, htk, hheld', ht, Bool.not_true, Bool.false_eq_true, if_false]
  rfl

/-! ## What taking a request from its channel leaves -/

theorem ctOf_takeFrom {ws : List Word} (ht : s.takeFrom src ws = some t) : t.ctOf src = s.ctOf src := by
  cases src <;> simp [State.ctOf, cp_takeFrom ht]

theorem side_ctOf_takeFrom {ws : List Word} (ht : s.takeFrom src ws = some t) : t.side (t.ctOf src) = s.side (s.ctOf src) := by
  rw [ctOf_takeFrom ht, side_takeFrom ht]

theorem openReq_takeFrom {ws : List Word} (ht : s.takeFrom src ws = some t) (k : Nat) (m : BitVec 16) :
    t.openReq? k m = s.openReq? k m := by
  rw [State.openReq?, State.openReq?, chan_of_chans (t := s) (by rw [cp_takeFrom ht])]

theorem resend_takeFrom {ws : List Word} (ht : s.takeFrom src ws = some t) (hre : s.resend r = none) : t.resend r = none := by
  rw [resend_eq_none] at hre ⊢
  rwa [chan_of_chans (t := s) (by rw [cp_takeFrom ht]), cp_takeFrom ht]

/-- Where the active command processor runs, a request that leaves one of its channels is not the standby's. -/
theorem side_active_takeFrom {ws : List Word} (ht : s.takeFrom src ws = some t) (hrun : s.cpRuns = true)
    (hct : s.ctOf src = s.cp.active) : t.side (t.ctOf src) ≠ 1 := by
  have h0 : s.side s.cp.active = 0 := by
    simp only [State.cpRuns, Bool.and_eq_true, beq_iff_eq] at hrun
    exact hrun.1
  rw [side_ctOf_takeFrom ht, hct, h0]
  decide

/-! ## Refusals by the active command processor -/

theorem runActive_headerCode {code : Nat} (hc : headerCode src req = some code)
    (hop : (s.openReq? (chanKey src) r.mseq).isNone = true) (body : Reply → List Word → State → State) :
    s.runActive info src req r body = (s.jTake r).complete r code [] := by
  have hn : (s.openReq? (chanKey src) r.mseq).isSome = false := by simpa using hop
  simp [State.runActive, hc, hn]

theorem runActive_routeCode {code : Nat} (hc : headerCode src req = none) (hre : s.resend r = none)
    (hrt : s.routeCode info src req = some code) (body : Reply → List Word → State → State) :
    s.runActive info src req r body = (s.jTake r).complete r code [] := by
  have hrt' : (s.jTake r).routeCode info src req = some code := by rw [routeCode_quiet (quiet_jTake s r), hrt]
  simp [State.runActive, hc, hre, hrt']

/-- A request that is taken and completed at once: its answer stands in the journal, and messages only have moved. -/
theorem answered_taken {ws : List Word} (ht : s.takeFrom r.src ws = some t)
    (hop : (s.openReq? (chanKey r.src) r.mseq).isNone = true) (code : Nat) (p : List Word) :
    ((t.jTake r).complete r code p).answered r 0 code p = true ∧ ((t.jTake r).complete r code p).quiet = s.quiet :=
  ⟨answered_complete _ _ (holds_jTake _ _ (by rwa [openReq_takeFrom ht])), by simp [quiet_takeFrom _ _ _ _ ht]⟩

theorem refusedCommandCompletesWithCode : RefusedCommandCompletesWithCode := by
  intro i info src req s code hi hrun hct htk hheld htf hre hop hcode
  obtain ⟨body, hexec⟩ := exec_ilnil hi s
  obtain ⟨t, ht⟩ := Option.isSome_iff_exists.1 htf
  have hre' := resend_takeFrom ht (Option.isNone_iff_eq_none.1 hre)
  have hrun' : s.ilnil info src req body = (t.jTake (replyOf info src req)).complete (replyOf info src req) code [] := by
    rw [ilnil_of_taken htk hheld ht, if_neg (side_active_takeFrom ht hrun hct)]
    obtain hc | ⟨hc, hrt⟩ := hcode
    · exact runActive_headerCode hc (by rw [openReq_takeFrom ht]; exact hop) body
    · exact runActive_routeCode hc hre' (by rw [routeCode_quiet (quiet_takeFrom _ _ _ _ ht), hrt]) body
  exact ⟨_, by rw [hexec, hrun'], answered_taken (r := replyOf info src req) ht hop code []⟩

/-! ## Which code refuses -/

theorem routeCode_secure (hs : secureSrc src = true) (hi : info.secure = false) :
    s.routeCode info src req = some Code.wrongChannel := by
  simp [State.routeCode, hs, hi]

theorem routeCode_pigeon {ct : Ct} {n : Fin 32} (hn : n.val < 24) (hi : info.hole = false) :
    s.routeCode info (.pigeon ct n) req = some Code.channelUnsuited := by
  simp [State.routeCode, secureSrc, hi, hn]

/-- On a tray that is not secure the stream's code refuses before the payload's. -/
theorem routeCode_tray {ct : Ct} {n : Fin 56} {code : Nat} (hn : n.val < 48)
    (hc : s.boxStreamCode info.rule req.stream = some code) : s.routeCode info (.tray ct n) req = some code := by
  simp [State.routeCode, secureSrc, hn, hc]

theorem boxStreamCode_none {rule : StreamRule} {i : Fin 4096} (hr : rule ≠ .session) (hs : s.stream? i.val = none) :
    s.boxStreamCode rule i = some Code.streamUnknown := by
  simp [State.boxStreamCode, hr, hs]

theorem boxStreamCode_tenant {rule : StreamRule} {i : Fin 4096} {x : Stream} (hs : s.stream? i.val = some x) (hi : i.val ≠ 0)
    (hx : x.owner = 1) : s.boxStreamCode rule i = some Code.wrongChannel := by
  by_cases hr : rule = .session
  · simp [State.boxStreamCode, hr]
  · simp [State.boxStreamCode, hr, hs, hi, hx]

theorem headerCode_length (h : req.length.toNat % 8 ≠ 0 ∨ 496 < req.length.toNat) : headerCode src req = some Code.badLength := by
  have hf : frameOk src req.length.toNat = false := by
    cases src <;> simp [frameOk] <;> omega
  simp [headerCode, hf]

theorem headerCode_reserved (hl : req.length.toNat = 8 * req.payload.length) (hf : frameOk src req.length.toNat = true)
    (hb : bitAt req.word1 15 = false) (h : req.kind ≠ 0 ∨ req.word1 ≠ 0) : headerCode src req = some Code.reservedNonzero := by
  have hr : (req.kind != 0 || req.word1 != 0) = true := by simpa only [Bool.or_eq_true, bne_iff_ne] using h
  have hg : (!frameOk src req.length.toNat || req.length.toNat != 8 * req.payload.length) = false := by simp [hf, ← hl]
  simp only [headerCode, hg, hb, hr, Bool.false_eq_true, if_false, if_true]

theorem refusalCodes : RefusalCodes :=
  ⟨fun _ _ _ _ hs hi => routeCode_secure hs hi,
   fun _ _ _ _ _ hn hi => routeCode_pigeon hn hi,
   fun _ _ _ _ _ hn hr hs => routeCode_tray hn (boxStreamCode_none hr hs),
   fun _ _ _ _ _ _ hn hs hi hx => routeCode_tray hn (boxStreamCode_tenant hs hi hx),
   fun _ _ h => headerCode_length h,
   fun _ _ hl hf hb h => headerCode_reserved hl hf hb h⟩

theorem undefinedOpcodeEnds : UndefinedOpcodeEnds := by
  intro s src req opcode hdef info hrun hct htk htf hhd hre hop
  obtain ⟨t, ht⟩ := Option.isSome_iff_exists.1 htf
  have hr : replyOf info src req = { src := src, mseq := req.mseq, stream := req.stream, opcode := opcode } := by
    simp [replyOf, info]
  have hexec : execUndefinedOpcode src req opcode s = .next ((t.jTake (replyOf info src req)).complete (replyOf info src req)
      (if secureSrc src then Code.wrongChannel else Code.unknownOpcode) []) := by
    have hre' := resend_takeFrom ht (Option.isNone_iff_eq_none.1 hre)
    rw [hr] at hre' ⊢
    simp only [execUndefinedOpcode, hdef, htk, ht, Option.isNone_iff_eq_none.1 hhd, hre', Bool.not_true, Bool.or_false,
      Bool.false_eq_true, if_false, if_neg (side_active_takeFrom ht hrun hct)]
  exact ⟨_, hexec, answered_taken (r := replyOf info src req) ht hop _ []⟩

/-! ## The standby's refusal in a pigeonhole -/

/-- The pigeonhole of a control die. -/
def State.pigeon (s : State) (c : Ct) (n : Fin 32) : Pigeon := (s.ct c).pigeons.getD n.val Pigeon.reset

/-- A control die has its pigeonholes, so that a change of one is seen. -/
def State.hasPigeon (s : State) (c : Ct) (n : Fin 32) : Prop := c.val < s.cts.length ∧ n.val < (s.ct c).pigeons.length

theorem hasPigeon_of_shape (h : s.shape = true) (c : Ct) (n : Fin 32) : s.hasPigeon c n := by
  simp only [State.shape, Bool.and_eq_true, beq_iff_eq, List.all_eq_true] at h
  obtain ⟨⟨⟨⟨⟨hcts, -⟩, -⟩, -⟩, -⟩, hall⟩ := h
  have hc : c.val < s.cts.length := by omega
  have hmem : s.ct c ∈ s.cts := by simp [State.ct, hc]
  exact ⟨hc, by rw [(hall _ hmem).1]; exact n.isLt⟩

theorem ct_modCt_same {c : Ct} {f : CtDie → CtDie} (hc : c.val < s.cts.length) : (s.modCt c f).ct c = f (s.ct c) := by
  rw [State.ct, State.modCt_cts, getD_updAt, if_pos ⟨rfl, hc⟩]
  rfl

@[simp] theorem quiet_modPigeon (s : State) (c : Ct) (n : Fin 32) (f : Pigeon → Pigeon) : (s.modPigeon c n f).quiet = s.quiet :=
  quiet_modCt _ _ _ fun _ => rfl

theorem hasPigeon_modPigeon {c : Ct} {n : Fin 32} {f : Pigeon → Pigeon} (h : s.hasPigeon c n) : (s.modPigeon c n f).hasPigeon c n := by
  obtain ⟨hc, hn⟩ := h
  exact ⟨by simpa [State.modPigeon] using hc, by simpa [State.modPigeon, ct_modCt_same hc] using hn⟩

theorem pigeon_modPigeon {c : Ct} {n : Fin 32} {f : Pigeon → Pigeon} (h : s.hasPigeon c n) :
    (s.modPigeon c n f).pigeon c n = f (s.pigeon c n) := by
  obtain ⟨hc, hn⟩ := h
  rw [State.pigeon, State.modPigeon, ct_modCt_same hc, getD_updAt, if_pos ⟨rfl, hn⟩]
  rfl

/-- A pigeonhole whose message was taken (R413, R414): its words stand in the first registers. -/
def Pigeon.taken (ws : List Word) (p : Pigeon) : Pigeon :=
  { p with data := (halves ws).take 16 ++ p.data.drop ((halves ws).take 16).length, status := 2, go := true }

/-- A request arrives at a pigeonhole that is IDLE and is taken. -/
theorem takeFrom_idle {c : Ct} {n : Fin 32} {ws : List Word} (h : (s.pigeon c n).status = 0) :
    s.takeFrom (.pigeon c n) ws = some (s.modPigeon c n (Pigeon.taken ws)) := by
  have h' : ((s.ct c).pigeons.getD n.val Pigeon.reset).status = 0 := h
  simp only [State.takeFrom, h']
  rfl

/-- The one message of a COMPLETION without a payload (R421). -/
def refusalWords (opcode mseq stream code : Nat) : List Word := [header0 opcode mseq stream Kind.completion 0, header1 0 code false 0]

/-- A refusal by the standby is one message, written to the request's own channel. -/
theorem refuseRaw_standby {code : Nat} (h : s.side (s.ctOf r.src) = 1) :
    s.refuseRaw r code = s.deliver { dest := r.src, words := refusalWords r.opcode.toNat r.mseq.toNat r.stream.val code } := by
  simp [State.refuseRaw, Reply.msgs, msgParts, refusalWords, h]

theorem runStandby_notActive {body : Reply → List Word → State → State} (hhd : headerCode src req = none)
    (hop : s.openReq? (chanKey src) r.mseq = none) (hi : info.opcode ∉ [1, 2, 4]) :
    s.runStandby info src req r body = s.refuseRaw r Code.notActive := by
  simp only [List.mem_cons, List.not_mem_nil, or_false, not_or] at hi
  simp [State.runStandby, hhd, hop, hi]

theorem Pigeon.give_free {p : Pigeon} {ws : List Word} (hd : p.done = false) (hh : p.held = []) : p.give ws = p.fill ws := by
  simp [Pigeon.give, hd, hh]

/-- What the standby does with a command that arrives at an IDLE pigeonhole: it takes it, and writes NOT_ACTIVE there. -/
theorem ilnil_standby_idle {ct : Ct} {n : Fin 32} {body : Reply → List Word → State → State} (hside : s.side ct = 1)
    (hto : s.cp.takingOver = none) (hheld : s.cp.heldCmds.contains (replyOf info (.pigeon ct n) req) = false)
    (hhd : headerCode (.pigeon ct n) req = none) (hop : s.openReq? (chanKey (.pigeon ct n)) req.mseq = none)
    (hi : info.opcode ∉ [1, 2, 4]) (hst : (s.pigeon ct n).status = 0) :
    s.ilnil info (.pigeon ct n) req body =
      (s.modPigeon ct n (Pigeon.taken (reqWords info.opcode req))).modPigeon ct n fun p =>
        p.give (refusalWords (info.opcode % 2 ^ 16) req.mseq.toNat req.stream.val Code.notActive) := by
  have htk : s.takes (.pigeon ct n) = true := by simp [State.takes, State.listens, hside, hto]
  have ht := takeFrom_idle (ws := reqWords info.opcode req) hst
  have hs1 := (side_ctOf_takeFrom ht).trans hside
  rw [ilnil_of_taken htk hheld ht, if_pos hs1, runStandby_notActive hhd ((openReq_takeFrom ht _ _).trans hop) hi, refuseRaw_standby hs1]
  rfl

theorem standbyAnswersNotActive : StandbyAnswersNotActive := by
  intro i info ct n req s hshape hi hcode hside hto hheld hhd hop hst hdone hh
  obtain ⟨body, hexec⟩ := exec_ilnil hi s
  have hp := hasPigeon_of_shape hshape ct n
  rw [ilnil_standby_idle hside hto hheld hhd hop hcode hst] at hexec
  refine ⟨_, hexec, ?_, ?_, ?_⟩
  · rw [quiet_modPigeon, quiet_modPigeon]
  · rfl
  · have hpig := pigeon_modPigeon (hasPigeon_modPigeon (f := Pigeon.taken (reqWords info.opcode req)) hp)
      (f := fun p => p.give (refusalWords (info.opcode % 2 ^ 16) req.mseq.toNat req.stream.val Code.notActive))
    rw [pigeon_modPigeon hp, Pigeon.give_free (p := (s.pigeon ct n).taken _) hdone hh] at hpig
    exact ⟨congrArg Pigeon.status hpig, congrArg Pigeon.done hpig, congrArg Pigeon.data hpig⟩

/-- Settles O10: each way of being refused is a lemma of its own above; a refusal leaves what taking the request left. -/
theorem refusalsComplete : Obligations.RefusalsComplete :=
  ⟨refusedCommandCompletesWithCode, refusalCodes, undefinedOpcodeEnds, standbyAnswersNotActive⟩

end Sys2Proof.Machine
end

section
/-!
SUPPORT. What keeps the module's parts (`State.shape`, R15, R410): the rules for the shapes of which meanings are made, and for the
operations on the parts of the state and on messages.
-/

namespace Sys2Proof.Machine

variable {s t : State}

/-! ## The parts that `State.shape` counts -/

/-- A control die has its 32 pigeonholes and 56 trays (R410). -/
def CtDie.hasChannels (x : CtDie) : Prop := x.pigeons.length = 32 ∧ x.trays.length = 56

/-- The module has the parts that R15 gives it, and each control die its channels. -/
def State.hasParts (s : State) : Prop :=
  s.cts.length = 2 ∧ (∀ x ∈ s.cts, x.hasChannels) ∧ s.cabs.length = 16 ∧ s.dies.length = 16 ∧ s.hbm.length = 32 ∧ s.edges.length = 4

theorem State.shape_iff_hasParts : s.shape = true ↔ s.hasParts := by
  simp only [State.shape, State.hasParts, CtDie.hasChannels, Bool.and_eq_true, beq_iff_eq, List.all_eq_true]
  tauto

theorem forall_mem_updAt {α : Type} {P : α → Prop} {f : α → α} {l : List α} (hl : ∀ x ∈ l, P x) (hf : ∀ x, P x → P (f x)) (i : Nat) :
    ∀ x ∈ updAt i f l, P x := by
  induction l generalizing i with
  | nil => simp [updAt]
  | cons a l ih =>
    obtain ⟨ha, hl⟩ := List.forall_mem_cons.1 hl
    cases i with
    | zero => exact List.forall_mem_cons.2 ⟨hf a ha, hl⟩
    | succ i => exact List.forall_mem_cons.2 ⟨ha, ih hl i⟩

namespace CtDie.hasChannels

/-- A record update that leaves the channels as they were. -/
theorem frame {x : CtDie} (h : x.hasChannels)
    {side fusesLocked poweredDown reached8 mem log logSeq logRead logWritten logOverwritten fuses catalog curSlot running pendingImgs
    svnMin opKeyNext} :
    CtDie.hasChannels ⟨side, fusesLocked, poweredDown, reached8, x.pigeons, x.trays, mem, log, logSeq, logRead, logWritten,
      logOverwritten, fuses, catalog, curSlot, running, pendingImgs, svnMin, opKeyNext⟩ := h

theorem updPigeon {x : CtDie} (h : x.hasChannels) {n f} : ({ x with pigeons := updAt n f x.pigeons } : CtDie).hasChannels :=
  ⟨(length_updAt ..).trans h.1, h.2⟩

theorem updTray {x : CtDie} (h : x.hasChannels) {n f} : ({ x with trays := updAt n f x.trays } : CtDie).hasChannels :=
  ⟨h.1, (length_updAt ..).trans h.2⟩

theorem mapTrays {x : CtDie} (h : x.hasChannels) {f} : ({ x with trays := x.trays.map f } : CtDie).hasChannels :=
  ⟨h.1, (List.length_map _).trans h.2⟩

/-- A reset of a control die leaves its channels in number (R439). -/
theorem kept (x : CtDie) : x.kept.hasChannels := ⟨rfl, rfl⟩

end CtDie.hasChannels

namespace State.hasParts

/-- A state whose lists of parts are as long, and whose control dies have their channels. -/
theorem congr (h : s.hasParts) (hct : t.cts.length = s.cts.length) (hch : ∀ x ∈ t.cts, x.hasChannels)
    (hcab : t.cabs.length = s.cabs.length) (hdie : t.dies.length = s.dies.length) (hstk : t.hbm.length = s.hbm.length)
    (hedge : t.edges.length = s.edges.length) : t.hasParts := by
  obtain ⟨h1, -, h2, h3, h4, h5⟩ := h
  exact ⟨hct.trans h1, hch, hcab.trans h2, hdie.trans h3, hstk.trans h4, hedge.trans h5⟩

theorem channels (h : s.hasParts) : ∀ x ∈ s.cts, x.hasChannels := h.2.1

/-- Every control die has its channels. -/
theorem ct (h : s.hasParts) (c : Ct) : (s.ct c).hasChannels := by
  unfold State.ct
  rw [List.getD_eq_getElem _ _ (by have := h.1; omega)]
  exact h.channels _ (List.getElem_mem _)

/-- The state that stands beside a value. -/
theorem of_snd {α : Type} {p : α × State} {a : α} (h : p.2.hasParts) (e : p = (a, s)) : s.hasParts := by
  rwa [e] at h

/-- A record update that leaves the lists of parts as they were, whatever it does to the other fields. -/
theorem frame (h : s.hasParts)
    {pending now freeCtr cp streams jobs tensors programs slots slotGens residencies fetches nextFetch fetchOrder
    xclaims consents remakeQ notes requests nextRequest useClock clusters tiles grants flights vengines runs nextRun reductions nextRed
    nextStore versions stores hopsBroken hopOrder pages mem merges rot power telem bus sector} :
    State.hasParts
      ⟨pending, now, freeCtr, s.cts, cp, s.cabs, streams, jobs, tensors, programs, slots, slotGens, residencies,
      fetches, nextFetch, fetchOrder, xclaims, consents, remakeQ, notes, requests, nextRequest, useClock,
      s.dies, clusters, tiles, grants, flights, vengines, runs, nextRun, reductions, nextRed, nextStore, versions,
      stores, hopsBroken, hopOrder, pages, mem, merges, s.hbm, rot, s.edges, power, telem, bus, sector⟩ :=
  h

/-! ## The shapes of a meaning -/

theorem ite {c : Prop} {_ : Decidable c} (ht : t.hasParts) (hs : s.hasParts) : (if c then t else s).hasParts := by
  split <;> assumption

theorem iteFst {α : Type} {c : Prop} {_ : Decidable c} {p q : State × α} (hp : p.1.hasParts) (hq : q.1.hasParts) :
    (if c then p else q).1.hasParts := by
  split <;> assumption

/-- A change that is made under a condition. -/
theorem when {c : Prop} {_ : Decidable c} (h : s.hasParts) (k : s.hasParts → t.hasParts) :
    (if c then t else s).hasParts := (k h).ite h

/-- A change that is made unless a condition holds. -/
theorem whenNot {c : Prop} {_ : Decidable c} (h : s.hasParts) (k : s.hasParts → t.hasParts) :
    (if c then s else t).hasParts := h.ite (k h)

theorem foldl {α : Type} {f : State → α → State} {l : List α} (h : s.hasParts)
    (hf : ∀ s x, s.hasParts → (f s x).hasParts) : (l.foldl f s).hasParts :=
  List.foldlRecOn l f h fun s hs x _ => hf s x hs

/-- Steps that carry something beside the state. -/
theorem foldlFst {α β : Type} {f : State × β → α → State × β} {l : List α} {p : State × β} (h : p.1.hasParts)
    (hf : ∀ p x, p.1.hasParts → (f p x).1.hasParts) : (l.foldl f p).1.hasParts :=
  List.foldlRecOn (motive := fun p => p.1.hasParts) l f h fun p hp x _ => hf p x hp

/-! ## Parts of the state -/

theorem modCtOf (h : s.hasParts) {c f} (hf : ∀ x : CtDie, x.hasChannels → (f x).hasChannels) : (s.modCt c f).hasParts :=
  h.congr (length_updAt ..) (forall_mem_updAt h.channels hf _) rfl rfl rfl rfl

/-- A record update of a control die that leaves its channels. -/
theorem modCt (h : s.hasParts) {c}
    {side fusesLocked poweredDown reached8 mem log logSeq logRead logWritten logOverwritten fuses catalog curSlot running pendingImgs
    svnMin opKeyNext : CtDie → _} :
    (s.modCt c fun x => ⟨side x, fusesLocked x, poweredDown x, reached8 x, x.pigeons, x.trays, mem x, log x, logSeq x, logRead x,
      logWritten x, logOverwritten x, fuses x, catalog x, curSlot x, running x, pendingImgs x, svnMin x, opKeyNext x⟩).hasParts :=
  h.modCtOf fun _ hx => hx.frame

theorem modCab (h : s.hasParts) {c f} : (s.modCab c f).hasParts := h.congr rfl h.channels (length_updAt ..) rfl rfl rfl
theorem modDie (h : s.hasParts) {d f} : (s.modDie d f).hasParts := h.congr rfl h.channels rfl (length_updAt ..) rfl rfl
theorem modStk (h : s.hasParts) {k f} : (s.modStk k f).hasParts := h.congr rfl h.channels rfl rfl (length_updAt ..) rfl
theorem modEdge (h : s.hasParts) {e f} : (s.modEdge e f).hasParts := h.congr rfl h.channels rfl rfl rfl (length_updAt ..)

theorem modCp (h : s.hasParts) {f} : (s.modCp f).hasParts := h
theorem modRot (h : s.hasParts) {f} : (s.modRot f).hasParts := h
theorem modPower (h : s.hasParts) {f} : (s.modPower f).hasParts := h
theorem modStream (h : s.hasParts) {i f} : (s.modStream i f).hasParts := h
theorem modSession (h : s.hasParts) {n f} : (s.modSession n f).hasParts := h
theorem modGlove (h : s.hasParts) {g f} : (s.modGlove g f).hasParts := h
theorem modRun (h : s.hasParts) {i f} : (s.modRun i f).hasParts := h
theorem modJob (h : s.hasParts) {i q f} : (s.modJob i q f).hasParts := h
theorem modSlot (h : s.hasParts) {c n f} : (s.modSlot c n f).hasParts := h
theorem modRequest (h : s.hasParts) {i f} : (s.modRequest i f).hasParts := h
theorem tick (h : s.hasParts) : s.tick.2.hasParts := h
theorem fresh (h : s.hasParts) : s.fresh.2.hasParts := h

theorem modCluster (h : s.hasParts) {d c f} : (s.modCluster d c f).hasParts := by
  unfold State.modCluster
  split <;> exact h

/-! A change of all parts of a kind leaves each in its place, and a control die its channels where it leaves one die its. -/

theorem mapCabs (h : s.hasParts) {f} : ({ s with cabs := s.cabs.map f } : State).hasParts :=
  h.congr rfl h.channels (List.length_map _) rfl rfl rfl

theorem mapDies (h : s.hasParts) {f} : ({ s with dies := s.dies.map f } : State).hasParts :=
  h.congr rfl h.channels rfl (List.length_map _) rfl rfl

theorem mapStks (h : s.hasParts) {f} : ({ s with hbm := s.hbm.map f } : State).hasParts :=
  h.congr rfl h.channels rfl rfl (List.length_map _) rfl

theorem mapEdges (h : s.hasParts) {f} : ({ s with edges := s.edges.map f } : State).hasParts :=
  h.congr rfl h.channels rfl rfl rfl (List.length_map _)

theorem mapCts (h : s.hasParts) {f} (hf : ∀ x : CtDie, x.hasChannels → (f x).hasChannels) :
    ({ s with cts := s.cts.map f } : State).hasParts :=
  h.congr (List.length_map _) (List.forall_mem_map.2 fun x hx => hf x (h.channels x hx)) rfl rfl rfl rfl

/-! ## Messages -/

theorem setChan (h : s.hasParts) {k l} : (s.setChan k l).hasParts := h
theorem modReq (h : s.hasParts) {k m f} : (s.modReq k m f).hasParts := h
theorem jTake (h : s.hasParts) {r} : (s.jTake r).hasParts := h
theorem modPigeon (h : s.hasParts) {c n f} : (s.modPigeon c n f).hasParts := h.modCtOf fun _ hx => hx.updPigeon
theorem modTray (h : s.hasParts) {c n f} : (s.modTray c n f).hasParts := h.modCtOf fun _ hx => hx.updTray
theorem sendRecord (h : s.hasParts) {x ty c ms} : (s.sendRecord x ty c ms).hasParts := h.modEdge.modSession

theorem sendWaiting (h : s.hasParts) {n k} : (s.sendWaiting n k).hasParts := by
  induction k generalizing s with
  | zero => exact h
  | succ k ih =>
    unfold State.sendWaiting
    split
    · exact h
    · split
      · exact h
      · exact h.ite (ih h.sendRecord.modSession)

theorem deliver (h : s.hasParts) {o} : (s.deliver o).hasParts := by
  unfold State.deliver
  split
  · exact h.modPigeon
  · exact h.modTray
  · exact h.modSession.sendWaiting

theorem emit (h : s.hasParts) {o} : (s.emit o).hasParts := h.modCp.ite (h.modCp.ite h.deliver)
theorem emitAll (h : s.hasParts) {d ms} : (s.emitAll d ms).hasParts := h.foldl fun _ _ h => h.emit
theorem accept (h : s.hasParts) {r q} : (s.accept r q).hasParts := h.modReq.emitAll

theorem finish (h : s.hasParts) {r q c p} : (s.finish r q c p).hasParts := by
  unfold State.finish
  split
  · exact h.tick.modReq.emitAll
  · split
    · exact h
    · exact h.foldl fun _ _ h => h.deliver

theorem complete (h : s.hasParts) {r c p} : (s.complete r c p).hasParts := h.finish
theorem completeAll (h : s.hasParts) {rs c p} : (s.completeAll rs c p).hasParts := h.foldl fun _ _ h => h.complete

theorem refuseRaw (h : s.hasParts) {r c} : (s.refuseRaw r c).hasParts := h.foldl fun _ _ h => h.deliver.ite h.emit

theorem postEvent (h : s.hasParts) {o i p} : (s.postEvent o i p).hasParts := h.modCp.ite h.modTray.emit

theorem postSession (h : s.hasParts) {n o i p} : (s.postSession n o i p).hasParts := by
  unfold State.postSession
  split
  · exact h
  · exact h.modSession.emit

theorem postStream (h : s.hasParts) {o i p} : (s.postStream o i p).hasParts := by
  unfold State.postStream
  split
  · refine .ite ?_ h.postEvent
    split
    · exact h.postSession
    · exact h
  · exact h.postEvent

theorem postTenant (h : s.hasParts) {n o i p} : (s.postTenant n o i p).hasParts := by
  unfold State.postTenant
  split
  · exact h.postSession
  · exact h

end State.hasParts

/-- An answer whose state, if it is a next one, has the module's parts. -/
def KeepsParts (o : Out) : Prop := ∀ t, o = .next t → t.hasParts

theorem KeepsParts.next (h : s.hasParts) : KeepsParts (.next s) := fun _ e => by cases e; exact h

/-- An operation that may be refused leaves, where it is not, a state with the module's parts. -/
def OptParts (o : Option State) : Prop := ∀ t ∈ o, t.hasParts

namespace OptParts

theorem some (h : s.hasParts) : OptParts (.some s) := fun _ e => by cases e; exact h
theorem none : OptParts .none := fun _ e => by cases e

theorem ite {c : Prop} {_ : Decidable c} {o o' : Option State} (h : OptParts o) (h' : OptParts o') : OptParts (if c then o else o') := by
  split <;> assumption

theorem bind {o : Option State} {f : State → Option State} (ho : OptParts o) (hf : ∀ s, s.hasParts → OptParts (f s)) :
    OptParts (o.bind f) := by
  cases o with
  | none => exact none
  | some s => exact hf s (ho s rfl)

/-- Operations in order, all of them or none. -/
theorem foldlBind {α : Type} {f : State → α → Option State} {l : List α} {o : Option State} (ho : OptParts o)
    (hf : ∀ s x, s.hasParts → OptParts (f s x)) : OptParts (l.foldl (fun acc x => acc.bind fun s => f s x) o) := by
  induction l generalizing o with
  | nil => exact ho
  | cons a l ih => exact ih (ho.bind fun s h => hf s a h)

end OptParts

/-- What an instruction of the vector engine comes to: where it has an effect, on a state with the module's parts. -/
def VEnd.KeepsParts : VEnd → Prop
  | .ok s _ _ _ => s.hasParts
  | _ => True

namespace VEnd.KeepsParts

theorem of_ok {e : VEnd} {v evs m} (h : e.KeepsParts) (he : e = .ok s v evs m) : s.hasParts := by
  subst he
  exact h

theorem ok (h : s.hasParts) {v evs m} : (VEnd.ok s v evs m).KeepsParts := h

theorem ite {c : Prop} {_ : Decidable c} {e e' : VEnd} (h : e.KeepsParts) (h' : e'.KeepsParts) : (if c then e else e').KeepsParts := by
  split <;> assumption

theorem withMarks {owner ms} {k : Mark → VEnd} (hk : ∀ m, (k m).KeepsParts) : (withMarks owner ms k).KeepsParts := by
  unfold Machine.withMarks
  split
  · exact hk _
  · trivial

theorem vLoadAt {v d as off n} {k : List Byte → Mark → VEnd} (hk : ∀ b m, (k b m).KeepsParts) :
    (vLoadAt s v d as off n k).KeepsParts := by
  unfold Machine.vLoadAt
  split
  · trivial
  · refine .ite trivial ?_
    split
    · trivial
    · exact hk _ _

end VEnd.KeepsParts

theorem State.hasParts.getD (h : s.hasParts) {o : Option State} (ho : OptParts o) : (o.getD s).hasParts := by
  cases o with
  | none => exact h
  | some t => exact ho t rfl

theorem State.hasParts.takeFrom (h : s.hasParts) {src ws} : OptParts (s.takeFrom src ws) := by
  unfold State.takeFrom
  split
  · exact .ite .none (.ite (.some h.modPigeon) .none)
  · split
    · exact .some h
    · exact .ite (.some h.modTray) .none
  · split
    · exact .none
    · split
      · exact .some h
      · exact .ite (.some h.modSession) .none

end Sys2Proof.Machine
end

section
/-!
SUPPORT. The operations that commands share keep the module's parts, in the order of the files that define them. An operation that may
be refused has its law as `OptParts`, a library body of the vector engine as `VEnd.KeepsParts`.
-/

namespace Sys2Proof.Machine

variable {s t : State}

/-! ## The operations that all commands share -/

theorem State.hasParts.resend (h : s.hasParts) {r} : OptParts (s.resend r) := by
  unfold State.resend
  split
  · exact .none
  · refine .ite (.ite (.some h.refuseRaw) (.some ?_)) (.ite (.some h.refuseRaw) .none)
    split
    · exact h.setChan.emitAll
    · exact h.setChan.emitAll
    · exact h.setChan

theorem State.hasParts.runBody (h : s.hasParts) {info r ws body}
    (hb : ∀ r ws s, s.hasParts → (body r ws s).hasParts) :
    (s.runBody info r ws body).hasParts := by
  unfold State.runBody
  split
  · exact hb _ _ _ h
  · exact h.modCp.ite (hb _ _ _ h.modCp)

theorem State.hasParts.runActive (h : s.hasParts) {info src req r body}
    (hb : ∀ r ws s, s.hasParts → (body r ws s).hasParts) :
    (s.runActive info src req r body).hasParts := by
  unfold State.runActive
  split
  · exact h.refuseRaw.ite h.jTake.complete
  · split
    next heq => exact h.resend _ heq
    · dsimp only
      split
      · exact h.jTake.complete
      · exact h.jTake.runBody hb

theorem State.hasParts.runStandby (h : s.hasParts) {info src req r body}
    (hb : ∀ r ws s, s.hasParts → (body r ws s).hasParts) :
    (s.runStandby info src req r body).hasParts := by
  unfold State.runStandby
  split
  · exact h.refuseRaw
  · refine h.refuseRaw.ite (.ite ?_ h.refuseRaw)
    split
    · exact h.refuseRaw
    · exact hb _ _ _ h

/-- A command keeps the parts where its body does. -/
theorem State.hasParts.ilnil (h : s.hasParts) {info src req body}
    (hb : ∀ r ws s, s.hasParts → (body r ws s).hasParts) :
    (s.ilnil info src req body).hasParts := by
  unfold State.ilnil
  refine h.ite ((h.runBody hb).ite ?_)
  split
  · exact h
  next heq => exact ((h.takeFrom _ heq).runStandby hb).ite ((h.takeFrom _ heq).runActive hb)

theorem State.hasParts.writeCtl (h : s.hasParts) {off bs} : (s.writeCtl off bs).hasParts := h.modCt

theorem State.hasParts.noticeOne (h : s.hasParts) {e t} : (s.noticeOne e t).hasParts := by
  unfold State.noticeOne
  dsimp only
  split
  · split
    · exact h.postSession
    · exact h
  · split
    · split
      · exact h.postTenant.ite h.postStream
      · exact h
    · exact h.postStream

theorem CtDie.hasChannels.logOne {x : CtDie} (h : x.hasChannels) {e stamp now corrected} :
    (x.logOne e stamp now corrected).1.hasChannels := by
  unfold CtDie.logOne
  split <;> exact h.frame

theorem State.hasParts.logReport (h : s.hasParts) {r policy action} : (s.logReport r policy action).hasParts := by
  unfold State.logReport
  dsimp only
  generalize hp : List.foldl _ (s, false) _ = p
  have hu : p.1.hasParts := hp ▸ .foldlFst h fun _ c h => .iteFst (h.modCtOf fun _ _ => (h.ct c).logOne) h
  refine .foldl (.ite (.postEvent ?_) (.ite (.postEvent ?_) (.ite ?_ (.postEvent ?_)))) fun _ _ h => h.noticeOne
  all_goals exact hu.when fun h => h.modPower

/-! ## Capabilities -/

theorem State.hasParts.checkReserves (h : s.hasParts) : s.checkReserves.hasParts :=
  h.modCp.foldl fun _ _ h => h.logReport.postEvent

/-! ## Gloves -/

theorem State.hasParts.dropSession (h : s.hasParts) {n tell} : (s.dropSession n tell).hasParts := by
  unfold State.dropSession
  split
  · exact h
  · exact (h.when fun h => h.sendRecord).setChan.modCp.frame

theorem State.hasParts.settleDraining (h : s.hasParts) : s.settleDraining.hasParts :=
  h.foldl fun _ _ h => h.dropSession

theorem State.hasParts.unwear (h : s.hasParts) {g b} : (s.unwear g b).hasParts := by
  unfold State.unwear
  split
  · exact h.frame
  · exact h.modStk
  · exact h

theorem State.hasParts.eraseGlove (h : s.hasParts) {g} : (s.eraseGlove g).hasParts :=
  (h.foldl fun _ _ h => h.unwear).modRot.completeAll.settleDraining

theorem State.hasParts.discardGlove (h : s.hasParts) {id} : (s.discardGlove id).hasParts := by
  unfold State.discardGlove
  split
  · exact h
  · exact h.eraseGlove.completeAll

theorem State.hasParts.wearGens (h : s.hasParts) {g gen prev} : (s.wearGens g gen prev).hasParts := h.frame
theorem State.hasParts.advanceGlove (h : s.hasParts) {g} : (s.advanceGlove g).hasParts := h.wearGens.modGlove

theorem State.hasParts.gloveStep (h : s.hasParts) {id fuel} : (s.gloveStep id fuel).hasParts := by
  induction fuel generalizing s with
  | zero => exact h
  | succ fuel ih =>
    unfold State.gloveStep
    split
    · exact h
    · exact h.ite (.ite (ih h.advanceGlove) (.ite (ih h.modGlove) (.ite (ih h.modGlove)
        (.ite h.wearGens.modGlove.completeAll (h.eraseGlove.ite h)))))

theorem State.hasParts.installGlove (h : s.hasParts) {id} : (s.installGlove id).hasParts := by
  unfold State.installGlove
  split
  · exact h
  · exact h.modGlove.gloveStep

theorem State.hasParts.beginErase (h : s.hasParts) {id} : (s.beginErase id).hasParts := by
  unfold State.beginErase
  split
  · exact h
  · exact h.modGlove.gloveStep

theorem State.hasParts.settleSweeps (h : s.hasParts) : s.settleSweeps.hasParts := h.foldl fun _ _ h => h.gloveStep

theorem State.hasParts.blocksGone (h : s.hasParts) {p} : (s.blocksGone p).hasParts :=
  h.modRot.foldl fun _ _ h => h.gloveStep

/-! ## Pages and sweeps -/

theorem State.hasParts.setPage (h : s.hasParts) {x} : (s.setPage x).hasParts := h.frame

theorem State.hasParts.allocOn (h : s.hasParts) {k1 n kind g c owner} : (s.allocOn k1 n kind g c owner).1.hasParts :=
  h.frame

theorem State.hasParts.alloc? (h : s.hasParts) {d n kind g c owner} :
    ∀ p ∈ s.alloc? d n kind g c owner, p.1.hasParts := by
  unfold State.alloc?
  split
  · exact fun _ e => by cases e
  · exact fun _ e => by cases e; exact h

theorem State.hasParts.freePages (h : s.hasParts) {p} : (s.freePages p).hasParts :=
  State.hasParts.settleSweeps h.frame

theorem State.hasParts.fillPages (h : s.hasParts) {ps bs} : (s.fillPages ps bs).hasParts := by
  induction ps generalizing s bs with
  | nil => exact h
  | cons p ps ih =>
    unfold State.fillPages
    exact ih (.setPage h.frame)

theorem State.hasParts.allocAll? (h : s.hasParts) {req kind g c owner} : OptParts (s.allocAll? req kind g c owner) := by
  refine .foldlBind (.some h) fun s x h t e => ?_
  obtain ⟨p, hp, rfl⟩ := Option.map_eq_some_iff.1 e
  exact h.alloc? p hp

/-! ## Residencies -/

theorem State.hasParts.modResidency (h : s.hasParts) {c n g f} : (s.modResidency c n g f).hasParts := h.frame
theorem State.hasParts.dropClaims (h : s.hasParts) {c n} : (s.dropClaims c n).hasParts := h.frame.ite h

theorem State.hasParts.answerFetch (h : s.hasParts) {rs code} : (s.answerFetch rs code).hasParts :=
  h.foldl fun _ _ h => h.ite h.frame.complete

theorem State.hasParts.releaseResidency (h : s.hasParts) {c n g} : (s.releaseResidency c n g).hasParts := by
  unfold State.releaseResidency
  refine .dropClaims (.frame (.freePages ?_))
  split
  · exact h.ite h.modSlot
  · exact h

theorem State.hasParts.freeSlot (h : s.hasParts) {c n} : (s.freeSlot c n).hasParts :=
  (h.frame.foldl fun _ _ h => h.releaseResidency).freePages.frame.dropClaims.completeAll.answerFetch

theorem State.hasParts.settleEvict (h : s.hasParts) {c n} : (s.settleEvict c n).hasParts := by
  unfold State.settleEvict
  split
  · exact h
  · exact h.freeSlot.ite h.modSlot.completeAll

theorem State.hasParts.settleCache (h : s.hasParts) {c} : (s.settleCache c).hasParts := h.modCab.completeAll.ite h
theorem State.hasParts.pin (h : s.hasParts) {c n g} : (s.pin c n g).hasParts := h.modResidency

theorem State.hasParts.evictOne (h : s.hasParts) {c n g} : (s.evictOne c n g).hasParts := by
  unfold State.evictOne
  split
  · exact h
  · exact h.frame.answerFetch.releaseResidency.ite h.modResidency

theorem State.hasParts.unpin (h : s.hasParts) {c n g} : (s.unpin c n g).hasParts := by
  unfold State.unpin
  dsimp only
  split
  · exact (h.modResidency.when fun h => h.evictOne).settleEvict.settleCache
  · exact h.modResidency

theorem State.hasParts.takeSlot (h : s.hasParts) {c} : ∀ p ∈ s.takeSlot c, p.2.hasParts := by
  unfold State.takeSlot
  split
  · exact fun _ e => by cases e; exact h
  · intro p e
    obtain ⟨x, -, rfl⟩ := Option.map_eq_some_iff.1 e
    exact h.freeSlot

theorem State.hasParts.bindSlot (h : s.hasParts) {c n hd ver owner run} :
    (s.bindSlot c n hd ver owner run).hasParts :=
  h

theorem State.hasParts.touchSlot (h : s.hasParts) {c n} : (s.touchSlot c n).hasParts := h.tick.modSlot
theorem State.hasParts.cacheObj (h : s.hasParts) {o} : (s.cacheObj o).hasParts := h.modCt

theorem State.hasParts.writeShare (h : s.hasParts) {c n g img} : (s.writeShare c n g img).hasParts :=
  h.foldl fun _ _ h => h.fillPages

/-! ## Jobs, requests and how they end -/

theorem State.hasParts.releaseShelf (h : s.hasParts) {c} : (s.releaseShelf c).hasParts := by
  unfold State.releaseShelf
  dsimp only
  split
  case' h_1 => refine .completeAll ?_
  all_goals
    refine .modCab (.discardGlove (.freePages (State.hasParts.frame ?_)))
    exact ((h.frame.answerFetch.foldl fun _ _ h => h.releaseResidency).foldl fun _ _ h => h.settleEvict).foldl
      fun _ _ h => h.modDie

theorem State.hasParts.settleUnmount (h : s.hasParts) {c} : (s.settleUnmount c).hasParts := h.releaseShelf.ite h

theorem State.hasParts.closeRequest (h : s.hasParts) {i st code} : (s.closeRequest i st code).hasParts := by
  unfold State.closeRequest
  split
  · exact h
  · refine h.ite (.settleUnmount ?_)
    split
    · exact (h.modRequest.freePages.when fun h => h.modCab).unpin
    · exact h.modRequest.freePages.when fun h => h.modCab

theorem State.hasParts.endRequest (h : s.hasParts) {i code} : (s.endRequest i code).hasParts := h.closeRequest

theorem State.hasParts.endRequests (h : s.hasParts) {p code} : (s.endRequests p code).hasParts :=
  h.foldl fun _ _ h => h.endRequest

theorem State.hasParts.setTile (h : s.hasParts) {t} : (s.setTile t).hasParts := h.frame

theorem State.hasParts.grantOne? (h : s.hasParts) {st n d c e} : OptParts (s.grantOne? st n d c e) :=
  .ite (.some h) (.ite .none (.some ((h.foldl fun _ _ h => h.setTile).frame)))

theorem State.hasParts.endGrant (h : s.hasParts) {g} : (s.endGrant g).hasParts :=
  (h.foldl fun _ _ h => h.setTile).frame

theorem State.hasParts.modTensor (h : s.hasParts) {st k2 d f} : (s.modTensor st k2 d f).hasParts := h.frame
theorem State.hasParts.freeTensors (h : s.hasParts) {p} : (s.freeTensors p).hasParts := h.freePages.frame

theorem State.hasParts.settleClose (h : s.hasParts) {t} : (s.settleClose t).hasParts := by
  unfold State.settleClose
  split
  · exact h
  · exact h.ite ((h.foldl fun _ _ h => h.freeSlot).freePages.beginErase)

theorem State.hasParts.releaseStream (h : s.hasParts) {i} : (s.releaseStream i).hasParts := by
  unfold State.releaseStream
  dsimp only
  split
  case' h_1 => refine .when ?_ fun h => h.settleClose
  all_goals
    refine .completeAll (.modCp (State.hasParts.frame ?_))
    exact (h.foldl fun _ _ h => h.endGrant).freeTensors

theorem State.hasParts.settleStream (h : s.hasParts) {i} : (s.settleStream i).hasParts := by
  unfold State.settleStream
  split
  · exact h.releaseStream.ite h
  · exact h

theorem State.hasParts.settleGrants (h : s.hasParts) {st} : (s.settleGrants st).hasParts :=
  h.ite (h.foldl fun _ _ h => h.endGrant)

theorem State.hasParts.endJob (h : s.hasParts) {st q code} : (s.endJob st q code).hasParts := by
  unfold State.endJob
  split
  · exact h
  · refine .settleStream (.settleGrants ?_)
    split
    · exact h.mapDies.frame.finish.freeTensors.foldl fun _ _ h => h.unpin
    · exact h.mapDies.frame.finish.freeTensors

theorem State.hasParts.endJobs (h : s.hasParts) {p code} : (s.endJobs p code).hasParts :=
  h.foldl fun _ _ h => h.endJob

/-! ## Runs and reductions -/

theorem State.hasParts.policyAct (h : s.hasParts) {policy object} : (s.policyAct policy object).hasParts :=
  h.logReport

theorem State.hasParts.allocRun? (h : s.hasParts) {r img} : OptParts (s.allocRun? r img) :=
  .bind h.allocAll? fun _ h => h.allocAll?

theorem State.hasParts.freeRunPages (h : s.hasParts) {id} : (s.freeRunPages id).hasParts := h.freePages
theorem State.hasParts.bumpRed (h : s.hasParts) : s.bumpRed.hasParts := h.frame

theorem State.hasParts.addReduction (h : s.hasParts) {r p chain owner k first elems bcast} :
    (s.addReduction r p chain owner k first elems bcast).hasParts :=
  h.frame.bumpRed

theorem State.hasParts.openReductions (h : s.hasParts) : s.openReductions.hasParts := h.frame

theorem State.hasParts.makeReductions (h : s.hasParts) {r img} : (s.makeReductions r img).hasParts :=
  (h.foldl fun _ _ h => (h.foldl fun _ _ h => h.foldl fun _ _ h => h.addReduction).whenNot fun h => h.foldl
    fun _ _ h => h.addReduction).openReductions

theorem State.hasParts.releaseRun (h : s.hasParts) {id} : (s.releaseRun id).hasParts := by
  unfold State.releaseRun
  split
  · exact h
  · refine .frame (.modCp ?_)
    split
    case' h_1 => refine .modSlot ?_
    all_goals
      split
      · exact h.freeRunPages.when fun h => h.freeSlot
      · exact h.freeRunPages

theorem State.hasParts.tell (h : s.hasParts) {c n code} : (s.tell c n code).hasParts := by
  unfold State.tell
  split
  · exact h.frame
  · exact h

theorem State.hasParts.remakeFail (h : s.hasParts) {id code} : (s.remakeFail id code).hasParts := by
  unfold State.remakeFail
  split
  · exact h.tell.releaseRun
  · exact h

theorem State.hasParts.publish (h : s.hasParts) {r reply} : (s.publish r reply).hasParts := by
  unfold State.publish
  split
  · exact h
  · exact h.cacheObj.frame.fresh.postEvent

theorem State.hasParts.remakeDone (h : s.hasParts) {id} : (s.remakeDone id).hasParts := by
  unfold State.remakeDone
  split
  · exact h.ite (h.remakeFail.ite h.publish)
  · exact h

theorem State.hasParts.startStep (h : s.hasParts) {id n} : (s.startStep id n).hasParts := by
  induction n generalizing s with
  | zero => exact h
  | succ n ih =>
    unfold State.startStep
    split
    · exact h
    · refine h.ite (.ite h.modRun.remakeDone (.ite (ih h.modRun) ?_))
      dsimp only
      split
      · exact (h.modRun.foldl fun _ _ h => h.pin).makeReductions
      · exact h.modRun.foldl fun _ _ h => h.pin

theorem State.hasParts.beginStep (h : s.hasParts) {id} : (s.beginStep id).hasParts := h.startStep
theorem State.hasParts.unpinStep (h : s.hasParts) {r} : (s.unpinStep r).hasParts := h.foldl fun _ _ h => h.unpin
theorem State.hasParts.abandon (h : s.hasParts) {id} : (s.abandon id).hasParts := h.frame.openReductions
theorem State.hasParts.leaveRows (h : s.hasParts) {p} : (s.leaveRows p).hasParts := h.mapDies
theorem State.hasParts.dropSaved (h : s.hasParts) {id} : (s.dropSaved id).hasParts := h.mapDies
theorem State.hasParts.dropRows (h : s.hasParts) {id} : (s.dropRows id).hasParts := h.leaveRows.dropSaved

theorem State.hasParts.discardStep (h : s.hasParts) {id cause st} : (s.discardStep id cause st).hasParts := by
  unfold State.discardStep
  split
  · exact h
  · exact h.abandon.unpinStep.dropRows.tell.modRun

theorem State.hasParts.completeStop (h : s.hasParts) {id} : (s.completeStop id).hasParts := by
  unfold State.completeStop
  split
  · exact h.modRun.complete
  · exact h.modRun

theorem State.hasParts.runFail (h : s.hasParts) {id code} : (s.runFail id code).hasParts := by
  unfold State.runFail
  split
  · exact h
  · refine .settleUnmount (.remakeFail (.completeStop ?_))
    split
    · exact (h.discardStep.ite h).modRun.complete
    · exact (h.discardStep.ite h).modRun

theorem State.hasParts.rerunStep (h : s.hasParts) {id} : (s.rerunStep id).hasParts := by
  unfold State.rerunStep
  split
  · exact h
  · exact (h.runFail.ite h.modRun.policyAct.beginStep).ite h.modRun.settleUnmount

theorem State.hasParts.dropStep (h : s.hasParts) {id cause} : (s.dropStep id cause).hasParts := by
  unfold State.dropStep
  split
  · exact h
  · exact h.ite (h.discardStep.completeStop.settleUnmount.ite h.discardStep.rerunStep)

theorem State.hasParts.loseStep (h : s.hasParts) {id} : (s.loseStep id).hasParts := h.frame.dropStep

theorem State.hasParts.commitPoint (h : s.hasParts) {id} : (s.commitPoint id).hasParts := by
  unfold State.commitPoint
  refine .modRun (.frame ?_)
  dsimp only
  split
  · exact h.fresh.modCab
  · exact h.fresh

theorem State.hasParts.finishCommit (h : s.hasParts) {id} : (s.finishCommit id).hasParts := by
  unfold State.finishCommit
  split
  · exact h
  · refine .ite (.settleUnmount (.completeStop (.modRun ?_))) (.ite (.beginStep (.modRun ?_)) (.settleUnmount
      (.remakeDone (.modRun ?_))))
    all_goals
      split
      · exact h.unpinStep.modSlot
      · exact h.unpinStep

theorem State.hasParts.switchDie (h : s.hasParts) {id d} : (s.switchDie id d).hasParts := by
  unfold State.switchDie
  split
  · exact h
  · exact (h.modRun.when fun h => h.finishCommit).ite h

theorem State.hasParts.settleStart (h : s.hasParts) {id} : (s.settleStart id).hasParts := by
  unfold State.settleStart
  split
  · exact h
  · refine h.ite ?_
    split
    · exact h
    · dsimp only
      split
      · split
        case' h_1 => refine .complete ?_
        all_goals
          refine .releaseRun ?_
          split
          · exact h.tell
          · exact h
      next e =>
        have hr := (OptParts.ite (.some h) h.allocRun?) _ e
        refine .beginStep ?_
        split
        case' h_1 => refine .complete ?_
        all_goals
          refine .modRun (.foldl hr fun _ _ h => ?_)
          split
          · exact h.modResidency
          · exact h.frame

theorem State.hasParts.stopRunFor (h : s.hasParts) {id code} : (s.stopRunFor id code).hasParts := by
  unfold State.stopRunFor
  split
  · exact h
  · refine h.modRun.ite (.remakeFail (.completeStop ?_))
    split
    · exact (h.modRun.finishCommit.ite (h.discardStep.ite h)).frame.modRun.complete
    · exact (h.modRun.finishCommit.ite (h.discardStep.ite h)).frame.modRun

/-! ## Fetches -/

theorem State.hasParts.modFetch (h : s.hasParts) {id f} : (s.modFetch id f).hasParts := h.frame
theorem State.hasParts.claim (h : s.hasParts) {c n img} : (s.claim c n img).hasParts := h.frame

theorem State.hasParts.makeRoom (h : s.hasParts) {c d n} : OptParts (s.makeRoom c d n) :=
  .ite (.some (.foldlFst h fun _ _ h => by dsimp only; split; exacts [h, h.releaseResidency.settleEvict])) .none

theorem State.hasParts.reserve? (h : s.hasParts) {c n g img glove} : OptParts (s.reserve? c n g img glove) :=
  .bind (.foldlBind (.some h) fun _ _ h => h.makeRoom) fun _ h => h.allocAll?

theorem State.hasParts.addResidency (h : s.hasParts) {c n g} : (s.addResidency c n g).hasParts := by
  unfold State.addResidency
  split
  · exact h
  · exact h.frame

theorem State.hasParts.loadFailed (h : s.hasParts) {f code} : (s.loadFailed f code).hasParts := by
  unfold State.loadFailed
  refine .ite ?_ ?_
  · split
    · exact h.frame.answerFetch.runFail
    · exact h.frame.answerFetch
  · split
    · exact h.frame.answerFetch.releaseResidency.runFail
    · dsimp only
      split
      · exact h.frame.answerFetch.modSlot.endRequests.endJobs.releaseResidency.settleEvict.whenNot fun h => h.frame.ite
          h.tell
      · exact h.frame.answerFetch.modSlot.endRequests.endJobs.releaseResidency.settleEvict

theorem State.hasParts.fromCache (h : s.hasParts) {f o} : (s.fromCache f o).hasParts := by
  unfold State.fromCache
  refine h.loadFailed.ite (h.modSlot.modFetch.ite ?_)
  dsimp only
  split
  next e =>
    refine .modFetch ((OptParts.ite .none ?_ : OptParts _) _ e)
    split
    · exact h.modSlot.reserve?
    · exact .some h.modSlot
  · exact h.modSlot.frame.modFetch

theorem State.hasParts.useObj (h : s.hasParts) {o} : (s.useObj o).hasParts := h.modCt

theorem State.hasParts.runFetch (h : s.hasParts) {id} : (s.runFetch id).hasParts := by
  unfold State.runFetch
  split
  · exact h
  · split
    · exact h.useObj.fromCache
    · exact h.fresh.modFetch.postEvent

theorem State.hasParts.startFetch (h : s.hasParts) {c n g handle version run dataset replies} :
    (s.startFetch c n g handle version run dataset replies).hasParts := by
  unfold State.startFetch
  split
  · exact h.modFetch
  · exact (h.frame.whenNot fun h => h.addResidency).whenNot fun h => h.runFetch

theorem State.hasParts.promote (h : s.hasParts) {c g n} : (s.promote c g n).hasParts := by
  induction n generalizing s with
  | zero => exact h
  | succ n ih =>
    unfold State.promote
    refine h.ite ?_
    split
    · exact ih h.modFetch.runFetch
    · exact h

theorem State.hasParts.promoteAll (h : s.hasParts) {c} : (s.promoteAll c).hasParts := h.foldl fun _ _ h => h.promote

theorem State.hasParts.datasetArrived (h : s.hasParts) {f o id} : (s.datasetArrived f o id).hasParts := by
  unfold State.datasetArrived
  split
  · exact h.frame
  · split
    · exact h.loadFailed
    · exact h.frame.modRun.settleStart

theorem State.hasParts.fetchArrived (h : s.hasParts) {f o} : (s.fetchArrived f o).hasParts := by
  unfold State.fetchArrived
  split
  · exact h.datasetArrived
  · exact h.frame
  · dsimp only
    split
    · exact h.loadFailed
    · split
      case' h_1 => refine .settleStart ?_
      all_goals
        refine .answerFetch (.modResidency (.frame (.modSlot ?_)))
        split
        · exact h.claim.writeShare
        · exact h.claim
        · exact h

theorem State.hasParts.holdDrawer (h : s.hasParts) {c k g} : (s.holdDrawer c k g).hasParts := by
  unfold State.holdDrawer
  split
  · exact h.pin.when fun h => h.startFetch
  · exact h.addResidency.pin.startFetch
  · exact h

theorem State.hasParts.admitTo (h : s.hasParts) {q g} : (s.admitTo q g).hasParts := by
  unfold State.admitTo
  refine h.ite ?_
  dsimp only
  split
  · exact h
  next e =>
    split
    · exact (h.allocAll? _ e).tick.modRequest
    · exact (h.allocAll? _ e).tick.modRequest.touchSlot.holdDrawer

theorem State.hasParts.slotForRequest (h : s.hasParts) {c handle} :
    ∀ p ∈ s.slotForRequest c handle, p.2.hasParts := by
  unfold State.slotForRequest
  split
  · exact fun _ e => by cases e; exact h
  · intro p e
    obtain ⟨x, hx, rfl⟩ := Option.map_eq_some_iff.1 e
    exact (h.takeSlot x hx).bindSlot

theorem State.hasParts.tryAdmit (h : s.hasParts) {i} : (s.tryAdmit i).hasParts := by
  unfold State.tryAdmit
  split
  · exact h
  · refine h.ite (.ite ?_ ?_)
    · split
      · exact h.admitTo
      · exact h
    · split
      · exact h
      next e =>
        split
        · exact h.slotForRequest _ e
        · refine (h.slotForRequest _ e).modRequest.endRequest.ite ((h.slotForRequest _ e).modRequest.endRequest.ite
            ((h.slotForRequest _ e).modRequest.endRequest.ite ((h.slotForRequest _ e).modRequest.ite ?_)))
          split
          · exact (h.slotForRequest _ e).modRequest.admitTo
          · exact (h.slotForRequest _ e).modRequest

theorem State.hasParts.repin (h : s.hasParts) {i} : (s.repin i).hasParts := by
  unfold State.repin
  split
  · exact h
  · split
    · exact h.ite h.modRequest.holdDrawer
    · exact h

theorem State.hasParts.refetch (h : s.hasParts) {c k g} : (s.refetch c k g).hasParts :=
  (h.foldl fun _ _ h => h.modRequest.unpin).evictOne.foldl fun _ _ h => h.repin

/-! ## Reports and policies -/

theorem State.hasParts.rejoin (h : s.hasParts) {p} : (s.rejoin p).hasParts :=
  h

theorem State.hasParts.stopServing (h : s.hasParts) {d} : (s.stopServing d).hasParts := h.frame

theorem State.hasParts.cutDie (h : s.hasParts) {d} : (s.cutDie d).hasParts :=
  (h.foldl fun _ _ h => h.rejoin).stopServing.modDie

theorem State.hasParts.unseat (h : s.hasParts) {d p} : (s.unseat d p).hasParts := h.modDie
theorem State.hasParts.stopOn (h : s.hasParts) {d l} : (s.stopOn d l).hasParts := h.frame

theorem State.hasParts.cutGroup (h : s.hasParts) {d} : (s.cutGroup d).hasParts := by
  unfold State.cutGroup
  split
  · exact h.cutDie
  · exact h.foldl fun _ _ h => h.cutDie

theorem State.hasParts.clearCluster (h : s.hasParts) {d c} : (s.clearCluster d c).hasParts := h.frame
theorem State.hasParts.abortCluster (h : s.hasParts) {d c} : (s.abortCluster d c).hasParts := h.endJobs

theorem State.hasParts.loseCluster (h : s.hasParts) {d c} : (s.loseCluster d c).hasParts := by
  unfold State.loseCluster
  refine .clearCluster ?_
  split
  · exact h.abortCluster.unseat.stopOn
  · exact h.abortCluster

theorem State.hasParts.dropSteps (h : s.hasParts) {d cause} : (s.dropSteps d cause).hasParts :=
  h.foldl fun _ _ h => h.dropStep

theorem State.hasParts.memberLost (h : s.hasParts) {d} : (s.memberLost d).hasParts := h.frame

theorem State.hasParts.moveRun (h : s.hasParts) {r dies} : OptParts (s.moveRun r dies) := by
  unfold State.moveRun
  dsimp only
  split
  · exact State.hasParts.allocRun? (h.freeRunPages.frame.modRun.frame)
  · exact .some (h.freeRunPages.frame.modRun.frame)

theorem State.hasParts.regroup (h : s.hasParts) {id d} : (s.regroup id d).hasParts := by
  unfold State.regroup
  split
  · exact h
  · refine h.ite (h.runFail.ite (h.runFail.ite ?_))
    split
    · exact h.runFail
    next e =>
      obtain ⟨m, -, hm⟩ := Option.bind_eq_some_iff.1 e
      obtain ⟨u, hu, hp⟩ := Option.map_eq_some_iff.1 hm
      obtain ⟨-, rfl⟩ := Prod.mk.inj hp
      exact (h.moveRun _ hu).modRun.policyAct.beginStep

theorem State.hasParts.runsLoseDie (h : s.hasParts) {d} : (s.runsLoseDie d).hasParts :=
  h.foldl fun _ _ h => (h.discardStep.ite h).completeStop.ite ((h.discardStep.ite h).regroup)

theorem State.hasParts.requeue (h : s.hasParts) {q} : (s.requeue q).hasParts := by
  unfold State.requeue
  refine .tryAdmit ?_
  split
  · exact h.freePages.modRequest.unpin
  · exact h.freePages.modRequest

theorem State.hasParts.migrate (h : s.hasParts) {c g code} : (s.migrate c g code).hasParts :=
  h.ite ((h.foldl fun _ _ h => h.requeue).policyAct.ite (h.foldl fun _ _ h => h.endRequest))

theorem State.hasParts.retireCluster (h : s.hasParts) {d c} : (s.retireCluster d c).hasParts := by
  unfold State.retireCluster
  refine h.ite (h.modDie.policyAct.ite (.checkReserves (.dropSteps ?_)))
  split
  · exact h.loseCluster.modDie.modDie.clearCluster.modCp.policyAct
  · exact h.loseCluster.modDie.modDie.policyAct

theorem State.hasParts.retireDie (h : s.hasParts) {d} : (s.retireDie d).hasParts := by
  unfold State.retireDie
  refine h.ite (.checkReserves ?_)
  split
  · exact (h.cutGroup.modDie.policyAct.endJobs.foldl fun _ _ h => h.clearCluster).memberLost.runsLoseDie.migrate
  · exact (h.cutGroup.modDie.policyAct.endJobs.foldl fun _ _ h => h.clearCluster).memberLost.runsLoseDie

theorem State.hasParts.loseStack (h : s.hasParts) {k1} : (s.loseStack k1).hasParts := by
  refine .settleSweeps (.blocksGone (.modStk ?_))
  exact h.frame

theorem State.hasParts.retireStack (h : s.hasParts) {k1} : (s.retireStack k1).hasParts := by
  unfold State.retireStack
  refine h.ite (.checkReserves ?_)
  dsimp only
  split
  · exact (h.loseStack.modDie.policyAct.foldl fun _ _ h => h.dropStep.runFail.ite h.dropStep.modRun).when fun h =>
      h.cutGroup.migrate
  · exact h.loseStack.modDie.policyAct.foldl fun _ _ h => h.dropStep.runFail.ite h.dropStep.modRun

theorem State.hasParts.note (h : s.hasParts) {policy object} : (s.note policy object).hasParts := h.modCp

theorem State.hasParts.policyCluster (h : s.hasParts) {r} : (s.policyCluster r).hasParts := by
  unfold State.policyCluster
  split
  · exact h
  · exact (h.note.ite h).when fun h => h.retireCluster

theorem State.hasParts.policyDie (h : s.hasParts) {r spare lostCluster} :
    (s.policyDie r spare lostCluster).hasParts :=
  (h.note.ite h).when fun h => h.retireDie

theorem State.hasParts.policyStack (h : s.hasParts) {r} : (s.policyStack r).hasParts :=
  h.ite ((h.note.ite h).when fun h => h.retireStack)

theorem State.hasParts.report (h : s.hasParts) {r} : (s.report r).hasParts :=
  h.logReport.whenNot fun h => h.policyCluster.policyDie.policyStack

theorem State.hasParts.isolation (h : s.hasParts) {check block unit die cab touched} :
    (s.isolation check block unit die cab touched).hasParts :=
  h.report

/-! ## Reductions over hatband -/

theorem State.hasParts.modRed (h : s.hasParts) {id f} : (s.modRed id f).hasParts := h.frame
theorem State.hasParts.trackItems (h : s.hasParts) : s.trackItems.hasParts := h.frame

theorem State.hasParts.pump (h : s.hasParts) {id d} : (s.pump id d).hasParts := by
  unfold State.pump
  split
  · exact h
  · refine h.ite ?_
    dsimp only
    split
    · exact h
    · split
      · exact h.modRed
      · exact h

theorem State.hasParts.afterRed (h : s.hasParts) {id} : (s.afterRed id).hasParts := by
  unfold State.afterRed
  split
  · exact h
  · exact h.dropStep.ite (h.dropStep.ite h.openReductions)

theorem State.hasParts.closeAlone (h : s.hasParts) {x i codes} : (s.closeAlone x i codes).hasParts := h.modRed

theorem State.hasParts.enter (h : s.hasParts) {x d i} : (s.enter x d i).hasParts := by
  unfold State.enter
  refine .ite (h.modRed.ite ?_) (h.modRed.ite h.modRed.pump)
  split
  · exact h
  · exact h.modRed

theorem State.hasParts.dropMember (h : s.hasParts) {id d} : (s.dropMember id d).hasParts := by
  unfold State.dropMember
  split
  · exact h
  · refine .ite (h.modRed.ite ?_) h.modRed
    split
    · exact h
    · exact h.modRed

theorem State.hasParts.reportDrop (h : s.hasParts) {x m tokens} : (s.reportDrop x m tokens).hasParts := by
  unfold State.reportDrop
  split
  · exact h
  · exact (h.postTenant.ite h.postStream).postEvent

theorem State.hasParts.commitStep (h : s.hasParts) {id} : (s.commitStep id).hasParts := by
  unfold State.commitStep
  split
  · exact h
  · refine .commitPoint ?_
    dsimp only
    split
    · exact h.modRun
    · exact h

/-! ## Cabinets, shelves and streams -/

theorem State.hasParts.wear (h : s.hasParts) {d c g} : (s.wear d c g).hasParts := h.tick.modCluster

theorem State.hasParts.endMount (h : s.hasParts) {c code} : (s.endMount c code).hasParts :=
  h.freePages.discardGlove.modCab.completeAll

theorem State.hasParts.writeShelf (h : s.hasParts) {c i} : (s.writeShelf c i).hasParts :=
  h.foldl fun _ _ h => h.fillPages

theorem State.hasParts.startMount (h : s.hasParts) {r c img meas} : (s.startMount r c img meas).hasParts := by
  unfold State.startMount
  dsimp only
  split
  · exact h.fresh.modRot.modCab.accept
  · split
    · exact h.fresh.modRot.endMount.complete
    · split
      · exact h.fresh.modRot.endMount.complete
      next e => exact (h.fresh.modRot.allocAll? _ e).modCab.accept

theorem State.hasParts.unmountBegin (h : s.hasParts) {c cut rs code} : (s.unmountBegin c cut rs code).hasParts :=
  ((h.modCab.foldl fun _ _ h => h.stopRunFor).when fun h => h.endRequests).settleUnmount

theorem State.hasParts.placeProgram (h : s.hasParts) {r c id off len img} :
    (s.placeProgram r c id off len img).hasParts := by
  unfold State.placeProgram
  dsimp only
  split
  · exact h.accept.complete
  · refine h.accept.complete.ite (h.accept.complete.ite ?_)
    split
    · exact h.accept.complete
    next e => exact ((h.accept.allocAll? _ e).foldl fun _ _ h => h.fillPages).frame.complete

/-! ## Jobs -/

/-- The definition is unfolded where it stands alone: unfolded at its arguments, the kernel would compute the pages of
  `bytes`. -/
theorem State.hasParts.newTensor (h : s.hasParts) {x hd bytes d} : (s.newTensor x hd bytes d).hasParts := by
  suffices H : ∀ f, f = @State.newTensor → (f s x hd bytes d).hasParts from H _ rfl
  intro f hf
  delta State.newTensor at hf
  subst hf
  beta_reduce
  extract_lets kind
  split
  · exact h
  next e => exact (h.alloc? _ e).frame

theorem State.hasParts.pinJob (h : s.hasParts) {st q c n g} : (s.pinJob st q c n g).hasParts := by
  unfold State.pinJob
  split
  · exact h.ite (h.addResidency.pin.modJob.whenNot fun h => h.startFetch)
  · exact h

theorem State.hasParts.pinAll (h : s.hasParts) {c j} : (s.pinAll c j).hasParts := by
  unfold State.pinAll
  split
  · exact h
  · exact h.foldl fun _ _ h => h.pinJob

theorem State.hasParts.acceptJob (h : s.hasParts) {r x a} : (s.acceptJob r x a).hasParts := by
  unfold State.acceptJob
  dsimp only
  split
  · exact (h.foldl fun _ _ h => h.foldl fun _ _ h => h.newTensor).frame.modStream.accept
  · exact (h.foldl fun _ _ h => h.foldl fun _ _ h => h.newTensor).frame.modStream.accept.touchSlot.pinAll

theorem State.hasParts.grantJob? (h : s.hasParts) {j} : OptParts (s.grantJob? j) :=
  .foldlBind (.some h) fun _ _ h => h.grantOne?

/-! ## Serving -/

theorem State.hasParts.markPassed (h : s.hasParts) {c g rows} : (s.markPassed c g rows).hasParts :=
  h

theorem State.hasParts.reportPlacement (h : s.hasParts) {d cab p} : (s.reportPlacement d cab p).hasParts :=
  h.foldl fun _ _ h => h.foldl fun _ _ h => h.ite h.report

theorem State.hasParts.seatRows (h : s.hasParts) {rows} : (s.seatRows rows).hasParts :=
  h

theorem State.hasParts.countPass (h : s.hasParts) {c g rows} : (s.countPass c g rows).hasParts :=
  (h.modCab.foldl fun _ _ h => h.modGlove).foldl fun _ _ h => h.tick.modResidency.touchSlot

theorem State.hasParts.putAct (h : s.hasParts) {d c r} : (s.putAct d c r).hasParts := by
  unfold State.putAct
  split
  · exact h
  · exact h
  · exact h.modCluster

theorem State.hasParts.beginPass (h : s.hasParts) {d c p} : (s.beginPass d c p).hasParts :=
  ((h.modDie.foldl fun _ _ h => (h.wear.foldl fun _ _ h => h.wear).modCluster).when fun h => h.foldl fun _ _ h =>
    h.putAct).reportPlacement

theorem State.hasParts.startNew (h : s.hasParts) {d c g trans rows} : (s.startNew d c g trans rows).hasParts :=
  (h.ite h.markPassed).seatRows.modDie.countPass.beginPass

theorem State.hasParts.startArrived (h : s.hasParts) {d c p} : (s.startArrived d c p).hasParts := h.modDie.beginPass

theorem State.hasParts.switchRuns (h : s.hasParts) {d} : (s.switchRuns d).hasParts :=
  h.foldl fun _ _ h => h.switchDie

theorem State.hasParts.reseat (h : s.hasParts) {rows} : (s.reseat rows).hasParts :=
  h

theorem State.hasParts.freeBlocks (h : s.hasParts) {d seating} : (s.freeBlocks d seating).hasParts := h.modDie

theorem State.hasParts.takeBlocks (h : s.hasParts) {d c g n seating saved data} :
    (s.takeBlocks d c g n seating saved data).hasParts :=
  h.modDie

theorem State.hasParts.holdRows (h : s.hasParts) {d c p} : (s.holdRows d c p).hasParts :=
  h.foldl fun _ _ h => h.takeBlocks

theorem State.hasParts.spillSaved (h : s.hasParts) {d n} : (s.spillSaved d n).hasParts := h.modDie

theorem State.hasParts.settleSaved (h : s.hasParts) {d r} : (s.settleSaved d r).hasParts := by
  unfold State.settleSaved
  split
  · exact h
  · exact h.takeBlocks.ite h.modDie

theorem State.hasParts.deliverToken (h : s.hasParts) {c g i token} : (s.deliverToken c g i token).hasParts := by
  unfold State.deliverToken
  split
  · exact h
  · refine .ite (.closeRequest (.modRequest (.modSession ?_))) (.modDie (.modRequest (.modSession ?_)))
    all_goals
      dsimp only
      split
      · exact h.modCab.modGlove
      · exact h.modCab

theorem State.hasParts.requestsPassed (h : s.hasParts) {c g p tokens} :
    (s.requestsPassed c g p tokens).hasParts := by
  unfold State.requestsPassed
  refine h.foldl fun _ _ h => ?_
  split
  · exact h
  · exact h.ite (h.modRequest.when fun h => h.fresh.deliverToken)

theorem State.hasParts.cutRequests (h : s.hasParts) {c p} : (s.cutRequests c p).hasParts :=
  h.ite (h.foldl fun _ _ h => h.ite h.endRequest)

theorem State.hasParts.runsPassed (h : s.hasParts) {p} : (s.runsPassed p).hasParts := h.frame
theorem State.hasParts.backPassed (h : s.hasParts) {d p} : (s.backPassed d p).hasParts := h.frame

theorem State.hasParts.savePassed (h : s.hasParts) {d p} : (s.savePassed d p).hasParts :=
  h.frame.foldl fun _ _ h => h.settleSaved

theorem State.hasParts.handOver (h : s.hasParts) {d p} : (s.handOver d p).hasParts := h.ite h.modDie

theorem State.hasParts.runAgain (h : s.hasParts) {d first rows} : (s.runAgain d first rows).hasParts :=
  h.reseat.ite h.modDie

/-! ## What descriptors share -/

theorem State.hasParts.wearOnce (h : s.hasParts) {d c g} : (s.wearOnce d c g).hasParts := h.ite h.wear

theorem State.hasParts.wearFor (h : s.hasParts) {x die cs} : (s.wearFor x die cs).hasParts := by
  unfold State.wearFor
  split
  · exact (h.foldl fun _ _ h => h.wearOnce).ite h
  · exact h

theorem State.hasParts.settleJob (h : s.hasParts) {st q} : (s.settleJob st q).hasParts := by
  unfold State.settleJob
  split
  · exact h
  · exact h.ite ((h.modStream.ite h).endJob)

theorem State.hasParts.stopJob (h : s.hasParts) {st q code record} : (s.stopJob st q code record).hasParts :=
  h.modJob

theorem State.hasParts.trapJob (h : s.hasParts) {x q ts} : (s.trapJob x q ts).hasParts := by
  unfold State.trapJob
  split
  · exact h
  · exact h.foldl fun _ _ h => h.modJob.ite h.stopJob

theorem State.hasParts.shelfOperand (h : s.hasParts) {c d cl layer proj} :
    (s.shelfOperand c d cl layer proj).hasParts :=
  h.report.postEvent

theorem State.hasParts.trapServing (h : s.hasParts) {t} : (s.trapServing t).hasParts := by
  unfold State.trapServing
  split
  · exact h.modRequest.endRequest.ite h
  · split
    · split
      · exact h.modRun.discardStep.ite h
      · exact h
    · exact h

theorem State.hasParts.retireDesc (h : s.hasParts) {d st q op k clusters} :
    (s.retireDesc d st q op k clusters).hasParts := by
  unfold State.retireDesc
  split
  · exact h
  · exact h.modTensor.modDie.modJob.settleJob.ite (h.modTensor.modDie.modJob.when fun h => h.endJob)

/-! ## Drawers -/

theorem State.hasParts.bound (h : s.hasParts) {r c n} : (s.bound r c n).hasParts := h.complete

theorem State.hasParts.rebind (h : s.hasParts) {c old version owner} :
    ∀ p ∈ s.rebind c old version owner, p.2.hasParts := by
  intro p e
  obtain ⟨x, hx, rfl⟩ := Option.map_eq_some_iff.1 e
  exact (h.takeSlot x hx).modSlot.bindSlot.settleEvict

theorem State.hasParts.bindHandle (h : s.hasParts) {r c handle asked} :
    (s.bindHandle r c handle asked).hasParts := by
  unfold State.bindHandle
  dsimp only
  split
  · refine h.bound.ite (h.complete.ite ?_)
    split
    next e => exact (h.rebind _ e).bound
    · exact h.complete
  · split
    · exact h.complete
    next e => exact (h.takeSlot _ e).bindSlot.bound

theorem State.hasParts.evictSlot (h : s.hasParts) {r x m unbind} : (s.evictSlot r x m unbind).hasParts :=
  ((h.foldl fun _ _ h => h.evictOne).modSlot.ite ((h.foldl fun _ _ h => h.evictOne).freeSlot.complete.ite ((h.foldl
    fun _ _ h => h.evictOne).complete.settleCache))).promoteAll

theorem State.hasParts.shrinkCache (h : s.hasParts) {c d} : (s.shrinkCache c d).hasParts :=
  h.foldl fun _ _ h => h.ite h.releaseResidency.settleEvict

theorem State.hasParts.nextFetches (h : s.hasParts) {f} : (s.nextFetches f).hasParts := h.promote

/-! ## The memory of a stack -/

theorem State.hasParts.useGlove (h : s.hasParts) {k1 g} : OptParts (s.useGlove k1 g) := by
  unfold State.useGlove
  refine .ite (.some h.tick.modStk) ?_
  split
  · exact .none
  · refine .ite (.none) (.ite (.some h.tick.modStk) ?_)
    dsimp only
    split
    · exact .some h.tick.modStk
    · exact .none

theorem State.hasParts.countMem (h : s.hasParts) {k1 c} : (s.countMem k1 c).hasParts := h.modStk
theorem State.hasParts.dropRequestRows (h : s.hasParts) {i} : (s.dropRequestRows i).hasParts := h.leaveRows.mapDies

theorem State.hasParts.rebuildKv (h : s.hasParts) {i object} : (s.rebuildKv i object).hasParts := by
  unfold State.rebuildKv
  split
  · exact h
  · split
    · exact h
    · dsimp only
      split
      · exact h.freePages.endRequest
      next e => exact (h.freePages.allocAll? _ e).dropRequestRows.modRequest.policyAct

theorem State.hasParts.rewriteShelf (h : s.hasParts) {d p} : (s.rewriteShelf d p).hasParts := by
  unfold State.rewriteShelf
  dsimp only
  split
  · exact h.frame
  · exact h

theorem State.hasParts.withhold (h : s.hasParts) {d k2 p t} : (s.withhold d k2 p t).hasParts :=
  (h.modDie.when fun h => h.rewriteShelf.policyAct).ite (h.unseat.refetch.ite ((h.unseat.rebuildKv.ite
    h.unseat.endRequest).ite (h.loseStep.ite h.stopJob.settleJob)))

theorem State.hasParts.memError (h : s.hasParts) {addr p c src touched} :
    (s.memError addr p c src touched).hasParts := by
  unfold State.memError
  dsimp only
  split
  · exact h.countMem
  · exact h.countMem.logReport
  · exact (h.countMem.logReport.whenNot fun h => (h.foldl fun _ _ h => h.withhold).ite (h.withhold.ite (h.foldl
      fun _ _ h => h.withhold))).when fun h => h.policyStack

theorem State.hasParts.find (h : s.hasParts) {f page} : (s.find f page).hasParts := by
  unfold State.find
  extract_lets same known full add s1 s2
  have h1 : s1.hasParts := h.mapCts fun x hx => by dsimp only [add]; split <;> exact hx
  have h2 : s2.hasParts := by
    unfold s2
    split
    · exact h1.modStk
    · exact h1
  exact h2.ite h2.logReport.checkReserves

theorem State.hasParts.noteCorrection (h : s.hasParts) {addr sym} : (s.noteCorrection addr sym).hasParts :=
  h.modStk.when fun h => h.find

theorem State.hasParts.scrub (h : s.hasParts) {addr sym trueData n} : (s.scrub addr sym trueData n).hasParts :=
  (h.ite h.frame).modStk.noteCorrection

theorem State.hasParts.decodeRead (h : s.hasParts) {addr p e src touched} :
    (s.decodeRead addr p e src touched).2.hasParts := by
  unfold State.decodeRead
  dsimp only
  cases decodeSector e with
  | clean | mismatch | uncorrectable => exact h.fresh.memError
  | corrected k => exact h.fresh.memError.scrub

theorem State.hasParts.dropMerge (h : s.hasParts) {k1 sector} : (s.dropMerge k1 sector).hasParts := h.frame

theorem State.hasParts.modifySector (h : s.hasParts) {addr bs err touched} :
    (s.modifySector addr bs err touched).2.hasParts := by
  unfold State.modifySector
  split
  next e => exact h.decodeRead.of_snd e
  next e => exact (h.decodeRead.of_snd e).frame

theorem State.hasParts.flush (h : s.hasParts) {m err} : (s.flush m err).hasParts :=
  h.dropMerge.frame.ite h.dropMerge.modifySector

theorem State.hasParts.flushSector (h : s.hasParts) {k1 sector err} : (s.flushSector k1 sector err).hasParts := by
  unfold State.flushSector
  split
  · exact h.flush
  · exact h

theorem State.hasParts.gather (h : s.hasParts) {k1 sector bs g t err} :
    (s.gather k1 sector bs g t err).hasParts := by
  unfold State.gather
  split
  · exact h.frame.when fun h => h.flush
  · refine .frame ?_
    split
    · exact h.flush.ite h
    · exact h

theorem State.hasParts.endAccess (h : s.hasParts) {t} : (s.endAccess t).hasParts := by
  unfold State.endAccess
  split
  · exact h.endRequest
  · exact h.dropStep
  · exact h.stopJob.settleJob

theorem State.hasParts.refuseAccess (h : s.hasParts) {k1 cab touched} : (s.refuseAccess k1 cab touched).hasParts :=
  (h.isolation.foldl fun _ _ h => h.endAccess).frame

theorem State.hasParts.demandRead (h : s.hasParts) {addr a e} : (s.demandRead addr a e).hasParts := by
  unfold State.demandRead
  dsimp only
  split
  · exact h
  · exact h.modStk.memError.when fun h => h.find

theorem State.hasParts.supplyGloves (h : s.hasParts) {k p src} : OptParts (s.supplyGloves k p src) :=
  .ite (.foldlBind (.some h) fun _ _ h => h.useGlove) (.some h)

theorem State.hasParts.onBus (h : s.hasParts) {core fault data} : (s.onBus core fault data).hasParts := h.frame

theorem State.hasParts.apertureWrite (h : s.hasParts) {core addr bytes} :
    (s.apertureWrite core addr bytes).hasParts := by
  unfold State.apertureWrite
  split
  · exact h.onBus
  · exact h.onBus.ite (h.ite ((h.foldl fun _ _ h => h.flushSector).frame.onBus))

/-! ## Runs on command -/

theorem State.hasParts.sourceRun (h : s.hasParts) {r sh} : (s.sourceRun r sh).hasParts :=
  h.modSlot.ite (h.foldl fun _ _ h => h.startFetch.ite h)

theorem State.hasParts.fetchDataset (h : s.hasParts) {r} : (s.fetchDataset r).hasParts := by
  unfold State.fetchDataset
  split
  · exact h.startFetch
  · exact h

theorem State.hasParts.createRun (h : s.hasParts) {t stream ws remakeOf reply} :
    ∀ u, s.createRun t stream ws remakeOf reply = .inr u → u.hasParts := by
  intro u e
  unfold State.createRun at e
  dsimp only at e
  split at e
  next hs =>
    split at e
    next => cases e
    next hr =>
      cases e
      refine .fetchDataset (.sourceRun ?_)
      have h0 := h.takeSlot _ hs
      have h1 := (OptParts.ite (.allocRun? (.frame ?_)) (.some (.frame ?_)) : OptParts _) _ hr
      · split
        · exact h1.accept
        · exact h1
      all_goals
        split
        · exact h0.bindSlot.modCp
        · exact h0.bindSlot
  · cases e
  · cases e

theorem State.hasParts.stopNow (h : s.hasParts) {id} : (s.stopNow id).hasParts := h.modRun.completeStop

theorem State.hasParts.bindStored (h : s.hasParts) {x} : (s.bindStored x).hasParts := by
  unfold State.bindStored
  refine h.foldl fun _ _ h => ?_
  split
  · refine .ite ?_ h
    split
    next e => exact h.rebind _ e
    · exact h
  · refine .ite ?_ h
    split
    next e => exact (h.takeSlot _ e).bindSlot
    · exact h

/-! ## Mailboxes and the bus -/

theorem State.hasParts.pigeonCtrl (h : s.hasParts) {c n v} : (s.pigeonCtrl c n v).hasParts := h.modPigeon.ite h
theorem State.hasParts.ring (h : s.hasParts) {c n} : (s.ring c n).hasParts := h.ite (h.modTray.ite h.modTray)
theorem State.hasParts.hear (h : s.hasParts) {c} : (s.hear c).hasParts := h.modCtOf fun _ hx => hx.mapTrays
theorem State.hasParts.trayWrite (h : s.hasParts) {c n f} : (s.trayWrite c n f).hasParts := h.modTray.ite h

theorem State.hasParts.windowWrite (h : s.hasParts) {c off size v} : (s.windowWrite c off size v).2.hasParts := by
  have hone : ∀ {u : State} {n f g} {p q : Prop} {_ : Decidable p} {_ : Decidable q}, u.hasParts →
      (if p then u.modPigeon c n f else if q then u.modPigeon c n g else u).hasParts :=
    fun h => h.modPigeon.ite (h.modPigeon.ite h)
  unfold State.windowWrite
  dsimp only
  split
  · split
    · exact hone h
    · split
      · exact hone (hone h)
      · exact h
  · split
    · split
      · exact h
      · exact h.modTray.ite (h.modTray.ite (h.modTray.ite (h.ring.ite (h.modTray.ite h))))
    · exact h

theorem State.hasParts.flushJournal (h : s.hasParts) {c} : (s.flushJournal c).hasParts :=
  h.modCp.foldl fun _ _ h => h.deliver

theorem State.hasParts.tableAlone (h : s.hasParts) : s.tableAlone.hasParts :=
  h.modRot.foldl fun _ _ h => h.installGlove

theorem State.hasParts.beginTakeOver (h : s.hasParts) {c r} : (s.beginTakeOver c r).hasParts := h.modCt.modCp

theorem State.hasParts.dropUncommitted (h : s.hasParts) : s.dropUncommitted.hasParts :=
  h.foldl fun _ _ h => h.dropStep

/-! ## Resynchronisation and the journal -/

theorem State.hasParts.resyncTenant (h : s.hasParts) {r t ws} : (s.resyncTenant r t ws).hasParts :=
  h.complete.ite h.complete

theorem State.hasParts.resyncModule (h : s.hasParts) {r ws} : (s.resyncModule r ws).hasParts := by
  unfold State.resyncModule
  dsimp only
  split
  · exact h.complete
  · exact h.complete.ite h.writeCtl.complete

/-! ## Resets of a scope -/

theorem State.hasParts.resetClusterNow (h : s.hasParts) {d c} : (s.resetClusterNow d c).hasParts :=
  h.loseCluster.blocksGone.modDie.dropSteps

theorem State.hasParts.clearDie (h : s.hasParts) {d} : (s.clearDie d).hasParts :=
  (((h.endJobs.cutDie.frame.foldl fun _ _ h => h.clearCluster).foldl fun _ _ h => h.flush).foldl fun _ _ h =>
    h.modStk).blocksGone.modCp.modDie

theorem State.hasParts.resetDieNow (h : s.hasParts) {d} : (s.resetDieNow d).hasParts :=
  h.clearDie.memberLost.runsLoseDie

theorem State.hasParts.clearCabinet (h : s.hasParts) {c} : (s.clearCabinet c).hasParts := by
  unfold State.clearCabinet
  exact (h.endRequests.endJobs.freeTensors.frame.answerFetch.foldl fun _ _ h => (h.foldl fun _ _ h =>
    h.releaseResidency).settleEvict).freePages.settleCache

theorem State.hasParts.resetCabinetNow (h : s.hasParts) {c keep} : (s.resetCabinetNow c keep).hasParts :=
  (((h.endMount.ite h).whenNot fun h => h.foldl fun _ _ h => h.stopRunFor).foldl fun _ _ h =>
    h.resetDieNow).clearCabinet.modCab

theorem State.hasParts.resetNow (h : s.hasParts) {a} : (s.resetNow a).hasParts := by
  unfold State.resetNow
  split
  · exact h.resetClusterNow
  · exact h.resetDieNow
  · exact h.resetCabinetNow

theorem State.hasParts.startReset (h : s.hasParts) {j} : (s.startReset j).hasParts :=
  (h.foldl fun _ _ h => h.accept).modCp.resetNow

theorem State.hasParts.askReset (h : s.hasParts) {r a w} : (s.askReset r a w).hasParts := by
  unfold State.askReset
  split
  · exact h.accept.modCp
  · exact h.modCp.ite h.startReset

theorem State.hasParts.wakeResets (h : s.hasParts) : s.wakeResets.hasParts := by
  unfold State.wakeResets
  refine h.foldl fun _ _ h => h.ite ?_
  dsimp only
  split
  · exact h.modCp.foldl fun _ _ h => h.askReset
  · exact h.modCp.startReset

theorem State.hasParts.clusterBack (h : s.hasParts) {d c} : (s.clusterBack d c).hasParts := by
  unfold State.clusterBack
  dsimp only
  split
  · exact h.modDie.when fun h => h.wear
  · exact h.modDie

theorem State.hasParts.dieBack (h : s.hasParts) {d} : (s.dieBack d).hasParts :=
  h.modDie.foldl fun _ _ h => h.clusterBack

theorem State.hasParts.cabinetBack (h : s.hasParts) {c keep} : (s.cabinetBack c keep).hasParts :=
  (h.releaseShelf.ite h.modCab).foldl fun _ _ h => h.dieBack

/-! ## Attestation -/

theorem State.hasParts.attestation (h : s.hasParts) {ct nonce scope tenant} :
    (s.attestation ct nonce scope tenant).2.hasParts :=
  h.fresh

theorem State.hasParts.signed (h : s.hasParts) : s.signed.2.2.hasParts := h.fresh

theorem State.hasParts.measurements (h : s.hasParts) {r ct index nonce} :
    (s.measurements r ct index nonce).2.hasParts := by
  unfold State.measurements
  dsimp only
  split
  · exact h.signed
  · split
    · exact h.attestation.signed
    · split
      · split
        · exact h.attestation.signed
        · exact h
      · exact h

theorem State.hasParts.spdmAnswer (h : s.hasParts) {r ct ask} : (s.spdmAnswer r ct ask).2.hasParts := by
  cases ask with
  | version | capabilities | algorithms | digests | certificate _ | other _ => exact h
  | challenge _ => exact h.signed
  | measurements _ _ => exact h.measurements

theorem State.hasParts.spdm (h : s.hasParts) {r ask} : (s.spdm r ask).hasParts := by
  unfold State.spdm
  refine h.ite ?_
  split
  · exact h.modRot
  · exact h.spdmAnswer.modRot

theorem State.hasParts.answerHeld (h : s.hasParts) : s.answerHeld.hasParts := h.modRot.foldl fun _ _ h => h.spdm

/-! ## Tenants and gloves on command -/

theorem State.hasParts.closeSession (h : s.hasParts) {n tell code} : (s.closeSession n tell code).hasParts :=
  h.endRequests.dropSession

theorem State.hasParts.endTenant (h : s.hasParts) {t carrier} : (s.endTenant t carrier).hasParts :=
  (((h.endRequests.foldl fun _ _ h => h.modSession.ite h.dropSession).foldl fun _ _ h =>
    h.stopRunFor.releaseRun.settleUnmount).frame.foldl fun _ _ h => h.modStream).foldl fun _ _ h =>
      h.endJobs.settleStream

theorem State.hasParts.closeGlove (h : s.hasParts) {r t remove carrier} :
    (s.closeGlove r t remove carrier).hasParts := by
  unfold State.closeGlove
  dsimp only
  split
  · exact h.accept.endTenant.modRot.complete
  · refine .ite (.modGlove ?_) h.accept.modGlove.endTenant.completeAll.settleClose
    split
    · exact h.accept.modSession
    · exact h.accept

theorem State.hasParts.blockDone (h : s.hasParts) {glove b} : (s.blockDone glove b).hasParts := h.modGlove.gloveStep

/-! ## Consents -/

theorem State.hasParts.installToken (h : s.hasParts) {bs sigOk tenant} :
    (s.installToken bs sigOk tenant).2.hasParts := by
  unfold State.installToken
  dsimp only
  split
  · exact h
  · split
    · exact h
    · exact h.modRot

theorem State.hasParts.setPieces (h : s.hasParts) {st bs} : (s.setPieces st bs).hasParts := h.modRot

theorem State.hasParts.tokenPiece (h : s.hasParts) {r tenant ws sigOk} : (s.tokenPiece r tenant ws sigOk).hasParts :=
  h.complete.ite (h.setPieces.complete.ite (h.setPieces.complete.ite h.setPieces.installToken.complete))

theorem State.hasParts.endToken (h : s.hasParts) {id} : (s.endToken id).hasParts := h.modCp.modRot

/-! ## Edge ports -/

theorem State.hasParts.giveBack (h : s.hasParts) {e k g w1} : (s.giveBack e k g w1).hasParts := h.writeCtl.modEdge
theorem State.hasParts.countDiscard (h : s.hasParts) {e} : (s.countDiscard e).hasParts := h.modEdge
theorem State.hasParts.countNoDesc (h : s.hasParts) {e} : (s.countNoDesc e).hasParts := h.modEdge

theorem State.hasParts.toRing (h : s.hasParts) {e f} : (s.toRing e f).hasParts := by
  unfold State.toRing
  dsimp only
  split
  · exact h.countNoDesc.ite h.countDiscard
  · exact h.countDiscard.ite (h.countNoDesc.ite h.writeCtl.giveBack)

theorem State.hasParts.takeFragment (h : s.hasParts) {e id i n} : (s.takeFragment e id i n).hasParts := by
  unfold State.takeFragment
  refine h.ite ?_
  dsimp only
  split
  · exact h.countDiscard.ite h.modEdge
  · exact h.modEdge

theorem State.hasParts.takeDatagram (h : s.hasParts) {e bs} : (s.takeDatagram e bs).hasParts :=
  h.countDiscard.ite ((h.countDiscard.ite h.takeFragment).ite ((h.countDiscard.ite h).ite h.countDiscard))

theorem State.hasParts.closeEdge (h : s.hasParts) {e code} : (s.closeEdge e code).hasParts :=
  h.foldl fun _ _ h => h.closeSession

theorem State.hasParts.stopRing (h : s.hasParts) {g} : (s.stopRing g).hasParts :=
  h.ite (h.foldl fun _ _ h => h.writeCtl.ite h)

/-! ## Sessions -/

theorem State.hasParts.sendPlain (h : s.hasParts) {e m type bs} : (s.sendPlain e m type bs).hasParts := h.modEdge
theorem State.hasParts.reject (h : s.hasParts) {e m code} : (s.reject e m code).hasParts := h.sendPlain

theorem State.hasParts.openSession (h : s.hasParts) {m n} : (s.openSession m n).hasParts := by
  unfold State.openSession
  exact h.fresh.modRot

theorem State.hasParts.takeAck (h : s.hasParts) {n a} : (s.takeAck n a).hasParts := h.modSession.sendWaiting

theorem State.hasParts.exhaust (h : s.hasParts) {n} : (s.exhaust n).hasParts := by
  unfold State.exhaust
  split
  · exact h.closeSession.ite h
  · exact h

theorem State.hasParts.fromSource (h : s.hasParts) {r} : (s.fromSource r).hasParts := h.modSession
theorem State.hasParts.discardRecord (h : s.hasParts) {n} : (s.discardRecord n).hasParts := h.modSession

/-- A sealed record keeps the parts where what it does does. -/
theorem State.hasParts.sealedRecord (h : s.hasParts) {r f} (hf : ∀ s, s.hasParts → (f s).hasParts) :
    (s.sealedRecord r f).hasParts := by
  unfold State.sealedRecord
  dsimp only
  split
  · exact h
  · exact h.discardRecord.ite (h.fromSource.discardRecord.modSession.ite (h.fromSource.closeSession.ite
      (hf _ h.fromSource.modSession.takeAck)))

/-! ## Faults -/

theorem State.hasParts.contain (h : s.hasParts) {d t} : (s.contain d t).hasParts := by
  unfold State.contain
  split
  · exact h.unseat
  · exact h.dropStep
  · exact h.stopJob.settleJob

theorem State.hasParts.expireTimer (h : s.hasParts) {x base} : (s.expireTimer x base).hasParts := h.modCp.postStream

theorem State.hasParts.forgetReplies (h : s.hasParts) : s.forgetReplies.hasParts := h.mapCabs.frame

theorem State.hasParts.darkData (h : s.hasParts) : s.darkData.hasParts := h.mapDies.mapStks.mapEdges.frame

theorem State.hasParts.tripData (h : s.hasParts) : s.tripData.hasParts :=
  ((h.forgetReplies.completeAll.endRequests.endJobs.foldl fun _ _ h => h.runFail).foldl fun _ _ h =>
    h.closeEdge).darkData.foldl fun _ _ h => h.settleClose.gloveStep

/-! ## Panels -/

theorem State.hasParts.placePieces (h : s.hasParts) {c u f k n i} : (s.placePieces c u f k n i).hasParts :=
  h.modCluster

theorem State.hasParts.freeBufs (h : s.hasParts) {die d} : (s.freeBufs die d).hasParts :=
  h.ite (h.foldl fun _ _ h => h.modCluster)

/-! ## Matrix operations -/

theorem State.hasParts.tileAfter (h : s.hasParts) {st die c e t first vals sat pair marks} :
    (s.tileAfter st die c e t first vals sat pair marks).hasParts := by
  unfold State.tileAfter
  split
  · exact h
  · exact h.setTile

theorem State.hasParts.writeTiles (h : s.hasParts) {x d die r sats} : (s.writeTiles x d die r sats).hasParts :=
  h.foldl fun _ _ h => h.foldl fun _ _ h => h.tileAfter.when fun h => h.tileAfter

theorem State.hasParts.outTensor (h : s.hasParts) {x k2 d bytes} : (s.outTensor x k2 d bytes).hasParts :=
  h.frame.ite h

theorem State.hasParts.writeOut (h : s.hasParts) {x d die clusters exps rows k} :
    (s.writeOut x d die clusters exps rows k).1.hasParts := by
  unfold State.writeOut
  split
  · exact h
  · exact h.outTensor.modTensor

theorem State.hasParts.servingTiles (h : s.hasParts) {x die d cs} : OptParts (s.servingTiles x die d cs) :=
  .ite (.some h) (.foldlBind (.some h) fun _ _ h => h.grantOne?)

theorem State.hasParts.readBufs (h : s.hasParts) {die cs d} : (s.readBufs die cs d).hasParts :=
  h.ite (h.foldl fun _ _ h => h.modCluster)

theorem State.hasParts.isolate (h : s.hasParts) {x m check code cl ts} : (s.isolate x m check code cl ts).hasParts :=
  h.isolation.stopJob

theorem State.hasParts.withholdRows (h : s.hasParts) {x d die} : (s.withholdRows x d die).hasParts := h.ite h.modDie
theorem State.hasParts.countClips (h : s.hasParts) {m d} : (s.countClips m d).hasParts := h.ite h.modDie

theorem State.hasParts.noteShelfNan (h : s.hasParts) {x m d ts} : (s.noteShelfNan x m d ts).hasParts := by
  unfold State.noteShelfNan
  split
  · exact h.shelfOperand
  · exact h

theorem State.hasParts.runMatrix (h : s.hasParts) {x m d cs} : (s.runMatrix x m d cs).hasParts := by
  unfold State.runMatrix
  dsimp only
  refine .trapJob (.noteShelfNan (.countClips (.readBufs (State.hasParts.frame ?_))))
  have hs := fun rs : List (ClusterRun × List RowOut) => h.foldl (l := rs) fun s r h => h.writeTiles (x := x) (d := d)
    (die := m.die) (r := r.1)
    (sats := r.2.flatMap fun o => o.sats.map fun j => (o.p, j))
  exact .iteFst (hs _) (.iteFst (hs _) (hs _).writeOut)

theorem State.hasParts.matrix (h : s.hasParts) {op m} : (s.matrix op m).hasParts := by
  unfold State.matrix
  refine h.ite ?_
  split
  · exact h
  · refine h.endJob.ite (h.ite ?_)
    split
    · exact h
    next e =>
      dsimp only
      split
      · exact (h.wearFor.servingTiles _ e).isolate.settleJob
      · split
        · exact (h.wearFor.servingTiles _ e).runMatrix
        · exact (h.wearFor.servingTiles _ e).isolate.withholdRows.frame

theorem State.hasParts.addGradients (h : s.hasParts) {m r vals} : (s.addGradients m r vals).hasParts := h.modRun

theorem State.hasParts.settleTrap (h : s.hasParts) {st t} : (s.settleTrap st t).hasParts :=
  h.frame.ite (h.frame.ite h.trapServing)

theorem State.hasParts.retireMatrix (h : s.hasParts) {f} : (s.retireMatrix f).hasParts :=
  (h.frame.freeBufs.whenNot fun h => h.foldl fun _ _ h => h.settleTrap).retireDesc

/-! ## The vector engine -/

theorem State.hasParts.setVEngine (h : s.hasParts) {v} : (s.setVEngine v).hasParts := h.frame

theorem State.hasParts.putBack (h : s.hasParts) {v a} : (s.putBack v a).hasParts := by
  unfold State.putBack
  split
  · exact h.modCluster
  · exact h.modTensor
  · exact h.frame
  · exact h.setTile

theorem State.hasParts.vWithhold (h : s.hasParts) {v} : (s.vWithhold v).hasParts :=
  (h.foldl fun _ _ h => h.foldl fun _ _ h => h.putBack).frame

theorem State.hasParts.vReseat (h : s.hasParts) {v} : (s.vReseat v).hasParts := h.ite h.modDie

theorem State.hasParts.vIsolate (h : s.hasParts) {v code} : (s.vIsolate v code).hasParts :=
  h.vWithhold.vReseat.stopJob

theorem State.hasParts.vLose (h : s.hasParts) {v m} : (s.vLose v m).hasParts := by
  unfold State.vLose
  refine h.setVEngine.stopJob.ite (h.setVEngine.vReseat.foldl fun _ _ h => ?_)
  split
  · exact h.endRequest
  · exact h.loseStep
  · exact h

/-- An instruction's end keeps the parts where its effect does. -/
theorem State.hasParts.vFinish (h : s.hasParts) {v w src e} (he : e.KeepsParts) : (s.vFinish v w src e).hasParts := by
  cases e with
  | wait => exact h
  | iso _ => exact h.isolation.vIsolate
  | tile => exact h.isolation.vIsolate
  | bad _ => exact h.logReport.vLose
  | ok t _ _ _ => exact (setVEngine he).trapJob

/-- An instruction keeps the parts where what it comes to does. -/
theorem State.hasParts.vRun (h : s.hasParts) {u w src f} (hf : ∀ s v d, s.hasParts → (f s v d).KeepsParts) :
    (s.vRun u w src f).hasParts := by
  unfold State.vRun
  split
  · exact h
  · exact h.vFinish (hf _ _ _ h)

/-! ## Vector arithmetic -/

theorem State.hasParts.vLanes (h : s.hasParts) {f v d nops st one} : (Machine.vLanes f v d nops st one s).KeepsParts :=
  .withMarks fun _ => .ite trivial (.ok h)

theorem State.hasParts.vMaskOut (h : s.hasParts) {f v d ms res fs} : (Machine.vMaskOut f v d ms res fs s).KeepsParts :=
  .withMarks fun _ => .ok h

theorem State.hasParts.vPlain (h : s.hasParts) {ty vd p v d ms val} :
    (Machine.vPlain ty vd p v d ms val s).KeepsParts :=
  .withMarks fun _ => .ok h

/-! ## Vector memory and tiles -/

theorem State.hasParts.storeBytes (h : s.hasParts) {v d p m bs} : OptParts (s.storeBytes v d p m bs) := by
  unfold State.storeBytes
  split
  · exact .some h.modCluster
  · exact .ite (.none) (.some h.frame)
  · exact .ite (.none) (.some h.modTensor)

theorem State.hasParts.vFill (h : s.hasParts) {ty vd p v d m val upd} :
    (Machine.vFill ty vd p v d m val upd s).KeepsParts :=
  .withMarks fun _ => .ok h

theorem State.hasParts.vStoreAt (h : s.hasParts) {v d as off m bs} {k : State → VEngine → VEnd}
    (hk : ∀ s v, s.hasParts → (k s v).KeepsParts) : (Machine.vStoreAt s v d as off m bs k).KeepsParts := by
  unfold Machine.vStoreAt
  split
  · trivial
  · refine .ite trivial ?_
    split
    · trivial
    next e => exact hk _ _ (h.storeBytes _ e)

/-! ## Library bodies and vector descriptors -/

theorem State.hasParts.libSoftmax (h : s.hasParts) {o v d} : (Machine.libSoftmax o s v d).KeepsParts := by
  unfold Machine.libSoftmax
  exact .vLoadAt fun _ _ => .withMarks fun _ => h.vStoreAt fun _ _ h => .ok h

theorem State.hasParts.libAttn (h : s.hasParts) {o v d} : (Machine.libAttn o s v d).KeepsParts :=
  .ite trivial (.ite trivial (.withMarks fun _ => h.vStoreAt fun _ _ h => .ok h))

theorem State.hasParts.chooseToken (h : s.hasParts) {v o id} : (s.chooseToken v o id).hasParts := h.ite h.modDie

theorem State.hasParts.libGreedy (h : s.hasParts) {o v d} : (Machine.libGreedy o s v d).KeepsParts := by
  unfold Machine.libGreedy
  exact .vLoadAt fun _ _ => .withMarks fun _ => h.vStoreAt fun _ _ h => .ok h.chooseToken

theorem State.hasParts.libPack (h : s.hasParts) {o v d} : (Machine.libPack o s v d).KeepsParts := by
  unfold Machine.libPack
  exact .vLoadAt fun _ _ => .withMarks fun _ => h.vStoreAt fun _ _ h => .ok h

theorem State.hasParts.libUnpack (h : s.hasParts) {o v d} : (Machine.libUnpack o s v d).KeepsParts := by
  unfold Machine.libUnpack
  dsimp only
  split
  · trivial
  · split
    · trivial
    · exact .vLoadAt fun _ _ => .withMarks fun _ => h.vStoreAt fun _ _ h => .ok h

theorem State.hasParts.libOptimiser (h : s.hasParts) {adamw o v d} :
    (Machine.libOptimiser adamw o s v d).KeepsParts := by
  unfold Machine.libOptimiser
  dsimp only
  split
  case' h_1 => refine h.vStoreAt fun _ _ h => ?_
  all_goals
    refine .vLoadAt fun _ _ => .vLoadAt fun _ _ => .vLoadAt fun _ _ => .vLoadAt fun _ _ => .vLoadAt fun _ _ =>
      .ite (.vLoadAt fun _ _ => ?_) ?_
    all_goals
      refine .withMarks fun _ => h.vStoreAt fun _ _ h => h.vStoreAt fun _ _ h => h.vStoreAt fun _ _ h => ?_
      split
      · exact h.vStoreAt fun _ _ h => .ok h
      · exact .ok h

/-- The rows of a body keep the parts where one row does. -/
theorem VEnd.KeepsParts.libRows {row : LibRow} (hrow : ∀ o s v d, s.hasParts → (row o s v d).KeepsParts) {l v}
    (h : s.hasParts) :
    (libRows row l s v).KeepsParts := by
  induction l generalizing s v with
  | nil => exact h
  | cons o os ih =>
    unfold Machine.libRows
    refine .ite h ?_
    have hr := hrow o s v (vdesc v.desc) h
    split
    next e => rw [e] at hr; exact ih hr
    · exact hr

theorem VEnd.KeepsParts.libBody {n : Nat} {row : LibRow} (hrow : libBody n = some row) {o v d} (h : s.hasParts) :
    (row o s v d).KeepsParts := by
  unfold Machine.libBody at hrow
  split at hrow
  · cases hrow; exact h.libSoftmax
  · cases hrow; exact h.libAttn
  · cases hrow; exact h.libOptimiser
  · cases hrow; exact h.libOptimiser
  · cases hrow; exact h.libGreedy
  · cases hrow; exact h.libPack
  · cases hrow; exact h.libUnpack
  · cases hrow

/-- What a library body came to keeps the parts where its effect and what follows it do. -/
theorem State.hasParts.libEnd (h : s.hasParts) {v k e} (hk : ∀ s v, s.hasParts → (k s v).hasParts)
    (he : e.KeepsParts) : OptParts (s.libEnd v k e) := by
  cases e with
  | wait => exact .ite .none (.some h.vIsolate)
  | iso _ => exact .some (h.vFinish he)
  | tile => exact .some (h.vFinish he)
  | bad _ => exact .some (h.vFinish he)
  | ok t x _ _ => exact .some (hk t x he)

theorem State.hasParts.libRun (h : s.hasParts) {v} : OptParts (s.libRun v) := by
  unfold State.libRun
  split
  · exact .some h
  next e => exact h.libEnd (fun _ _ h => h.setVEngine.trapJob) (.libRows (fun _ _ _ _ h => .libBody e h) h)

theorem State.hasParts.stageRows (h : s.hasParts) {v unit m bs} : (s.stageRows v unit m bs).hasParts := h.modCluster

theorem State.hasParts.strictStage (h : s.hasParts) {v} : (s.strictStage v).KeepsParts := by
  unfold State.strictStage
  exact .vLoadAt fun _ _ => .vLoadAt fun _ _ => .withMarks fun _ => .ok (h.stageRows.stageRows.when fun h =>
    h.stageRows)

theorem State.hasParts.strictNext (h : s.hasParts) {v} : (s.strictNext v).KeepsParts := by
  unfold State.strictNext
  refine .ite (.ite h.strictStage (h.vStoreAt fun _ _ h => .ok h)) ?_
  dsimp only
  split
  · exact trivial
  · exact h.vStoreAt fun _ _ h => .ite h.strictStage (h.vStoreAt fun _ _ h => .ok h)

theorem State.hasParts.strictStep (h : s.hasParts) {v first} : OptParts (s.strictStep v first) :=
  h.libEnd (fun _ _ h => h.setVEngine) (.ite h.strictStage h.strictNext)

theorem State.hasParts.startVector (h : s.hasParts) {die cs words q op} : OptParts (s.startVector die cs words q op) :=
  .ite (.some h.frame) (.foldlBind (.some h.frame) fun _ _ h => .ite h.strictStep h.libRun)

theorem State.hasParts.retireVector (h : s.hasParts) {die st q op} : (s.retireVector die st q op).hasParts :=
  h.ite ((h.frame.whenNot fun h => h.foldl fun _ _ h => h.settleTrap).retireDesc)

theorem State.hasParts.strictGoesOn (h : s.hasParts) {die st q op} : OptParts (s.strictGoesOn die st q op) :=
  .ite (.some h) (.foldlBind (.some h) fun _ _ h => h.strictStep)

/-! ## Power, start-up and resets -/

theorem State.hasParts.fullReset (h : s.hasParts) : s.fullReset.hasParts :=
  ⟨(List.length_map _).trans h.1, List.forall_mem_map.2 fun x _ => .kept x, rfl, rfl, rfl, rfl⟩

theorem State.hasParts.powerOff (h : s.hasParts) {inputOn locked trip} : (s.powerOff inputOn locked trip).hasParts :=
  h.fullReset.modPower

theorem State.hasParts.testFail (h : s.hasParts) {block unit d} : (s.testFail block unit d).hasParts :=
  h.fresh.report

theorem State.hasParts.readyReports (h : s.hasParts) : s.readyReports.hasParts := by
  unfold State.readyReports
  exact (((h.foldl fun _ _ h => h.testFail.ite (h.foldl fun _ _ h => h.testFail)).foldl fun _ _ h => h.testFail).foldl
    fun _ _ h => h.testFail).checkReserves

theorem State.hasParts.activate (h : s.hasParts) {c} : (s.activate c).hasParts :=
  (((h.modCt.when fun h => h.modCt).modCp.modRot.whenNot fun h => h.modPower).modCp.foldl fun _ _ h =>
    h.emit).readyReports.hear.hear.answerHeld

theorem State.hasParts.firmwareReport (h : s.hasParts) {ct img} : (s.firmwareReport ct img).hasParts := h.logReport

theorem CtDie.hasChannels.boot {x : CtDie} (h : x.hasChannels) {imgs other fails} : (x.boot imgs other fails).hasChannels := by
  unfold CtDie.boot
  split <;> exact h

/-- A start leaves each control die as it stands or has it boot, and makes the 16 compute dies, 32 stacks and 4 edge dies anew. -/
theorem State.hasParts.bring (h : s.hasParts) {f clock} : (s.bring f clock).hasParts := by
  unfold State.bring
  extract_lets s1 ct stack edge cts
  have hct : ∀ x c, x.hasChannels → (ct x c).hasChannels := fun x c hx => by
    dsimp only [ct]
    split
    · exact hx
    · split
      · exact hx
      · exact CtDie.hasChannels.boot (x := x.maskRom) hx
  have h1 : s1.hasParts := h.fullReset
  exact ⟨rfl, by simpa using ⟨hct _ _ (h1.ct 0), hct _ _ (h1.ct 1)⟩, rfl, List.length_map _, List.length_map _, List.length_map _⟩

theorem State.hasParts.loseStandby (h : s.hasParts) {c} : (s.loseStandby c).hasParts :=
  h.flushJournal.settleDraining.tableAlone.ite (h.modCp.ite h)

theorem State.hasParts.restartCt (h : s.hasParts) {c recovers} : (s.restartCt c recovers).hasParts :=
  .answerHeld (h.modCtOf fun x _ => by dsimp only; split <;> exact CtDie.hasChannels.kept x)

theorem State.hasParts.powerReport (h : s.hasParts) {blade} : (s.powerReport blade).hasParts := h.report

end Sys2Proof.Machine
end

section
/-!
SUPPORT. Every command keeps the module's parts, in the order of the files that define them.
-/

namespace Sys2Proof.Machine

variable {s t : State}

/-! ## Capabilities -/

theorem execQueryCaps_keepsParts (h : s.hasParts) {src req} : KeepsParts (execQueryCaps src req s) :=
  .next (h.ilnil fun _ _ _ h => h.complete)

theorem execReserveStatus_keepsParts (h : s.hasParts) {src req} : KeepsParts (execReserveStatus src req s) :=
  .next (h.ilnil fun _ _ _ h => h.complete)

/-! ## Pages and sweeps -/

theorem execMemoryStatus_keepsParts (h : s.hasParts) {src req} : KeepsParts (execMemoryStatus src req s) :=
  .next (h.ilnil fun _ _ _ h => h.complete)

/-! ## Reductions over hatband -/

theorem execContributionReady_keepsParts (h : s.hasParts) {die red} : KeepsParts (execContributionReady die red s) := by
  refine .next ?_
  split
  · exact h
  · split
    · exact h
    · split
      · exact h
      · refine h.ite (h.dropStep.ite (h.ite (h.frame.ite (h.ite ?_))))
        split
        · exact h.closeAlone.afterRed.ite h.modRed.enter.afterRed.trackItems
        · exact h

theorem execHatbandItem_keepsParts (h : s.hasParts) {red origin} : KeepsParts (execHatbandItem red origin s) := by
  refine .next ?_
  split
  · exact h
  · split
    · exact h
    · exact h.ite ((((h.ite ((h.modRed.ite (h.modRed.ite h.modRed)).ite (h.modRed.ite
        h.modRed))).pump).afterRed).trackItems)

theorem execDeadline_keepsParts (h : s.hasParts) {red} : KeepsParts (execDeadline red s) := by
  refine .next ?_
  split
  · exact h
  · exact h.ite (h.modRed.whenNot fun h => (h.foldl fun _ _ h => h.dropMember).reportDrop.afterRed.trackItems)

theorem execOwnerReady_keepsParts (h : s.hasParts) {run die} : KeepsParts (execOwnerReady run die s) := by
  refine .next ?_
  split
  · exact h
  · refine h.ite ?_
    split
    · exact h.ite (h.modRun.when fun h => h.modRun.whenNot fun h => h.commitStep)
    · exact h

theorem execCommitPoint_keepsParts (h : s.hasParts) {run} : KeepsParts (execCommitPoint run s) := by
  refine .next ?_
  split
  · exact h
  · exact h.commitStep.ite h

theorem execHopBroken_keepsParts (h : s.hasParts) {hop} : KeepsParts (execHopBroken hop s) :=
  .next (h.frame.report.openReductions.foldl fun _ _ h => h.dropStep)

/-! ## Cabinets, shelves and streams -/

theorem execConfigureCabinet_keepsParts (h : s.hasParts) {src req} : KeepsParts (execConfigureCabinet src req s) := by
  refine .next (h.ilnil fun _ _ _ h => ?_)
  dsimp only
  split
  · exact h.complete
  · exact h.modCab.complete

theorem execMountShelf_keepsParts (h : s.hasParts) {src req img} : KeepsParts (execMountShelf src req img s) := by
  refine .next (h.ilnil fun _ _ _ h => h.modCp.ite ?_)
  split
  · exact h.complete
  · exact h.startMount

theorem execMountComplete_keepsParts (h : s.hasParts) {cab} : KeepsParts (execMountComplete cab s) := by
  refine .next (h.ite (h.endMount.ite ?_))
  split
  · exact h.endMount
  · refine .completeAll (.modCab (.foldl (.modGlove ?_) fun _ _ h => h.foldl fun _ _ h => h.wear))
    split
    · exact h.frame.writeShelf
    · exact h.frame

theorem execUnmountShelf_keepsParts (h : s.hasParts) {src req} : KeepsParts (execUnmountShelf src req s) :=
  .next (h.ilnil fun _ _ _ h => h.complete.ite h.accept.unmountBegin)

theorem execSetAdmission_keepsParts (h : s.hasParts) {src req} : KeepsParts (execSetAdmission src req s) :=
  .next (h.ilnil fun _ _ _ h => h.modCab.complete.ite h.complete)

theorem execLoadProgram_keepsParts (h : s.hasParts) {src req img} : KeepsParts (execLoadProgram src req img s) := by
  refine .next (h.ilnil fun _ _ _ h => h.complete.ite ?_)
  split
  · exact h.complete
  · exact h.complete.ite h.placeProgram

theorem execCreateStream_keepsParts (h : s.hasParts) {src req} : KeepsParts (execCreateStream src req s) := by
  refine .next (h.ilnil fun r ws s h => ?_)
  dsimp only
  split
  · exact h.complete
  · split
    · exact h.complete
    · exact h.frame.complete

theorem execDestroyStream_keepsParts (h : s.hasParts) {src req} : KeepsParts (execDestroyStream src req s) := by
  refine .next (h.ilnil fun _ _ _ h => ?_)
  dsimp only
  split
  · exact h.complete
  · exact h.complete.ite ((h.accept.modStream.when fun h => h.endJobs).settleStream)

/-! ## Jobs -/

theorem execSubmitJob_keepsParts (h : s.hasParts) {src req} : KeepsParts (execSubmitJob src req s) := by
  refine .next (h.ilnil fun _ _ _ h => ?_)
  split
  · exact h.complete
  · refine h.complete.ite (h.complete.ite ?_)
    split
    · exact h.complete
    · exact h.acceptJob

theorem execJobStart_keepsParts (h : s.hasParts) {stream jobSeq} : KeepsParts (execJobStart stream jobSeq s) := by
  refine .next ?_
  split
  · refine h.ite (h.endJob.ite (h.endJob.ite ?_))
    dsimp only
    split
    · exact h.pinAll
    · refine h.pinAll.ite ?_
      split
      next e => exact (h.pinAll.grantJob? _ e).modJob
      · exact h.pinAll
  · exact h

theorem execResumeStream_keepsParts (h : s.hasParts) {src req} : KeepsParts (execResumeStream src req s) := by
  refine .next (h.ilnil fun _ _ _ h => ?_)
  split
  · exact h.complete
  · exact h.complete.ite ((h.modStream.when fun h => h.endJobs).settleGrants.complete)

/-! ## Serving -/

theorem execServingRequest_keepsParts (h : s.hasParts) {session r} : KeepsParts (execServingRequest session r s) := by
  refine .next ?_
  split
  · exact h
  · dsimp only
    split
    · exact h.frame.endRequest
    · split
      · exact h.frame.modGlove.tryAdmit
      · exact h.frame.tryAdmit

theorem execAdmissionRetest_keepsParts (h : s.hasParts) {request} : KeepsParts (execAdmissionRetest request s) :=
  .next h.tryAdmit.repin

theorem execPassStart_keepsParts (h : s.hasParts) {die trans} : KeepsParts (execPassStart die trans s) := by
  refine .next ?_
  split
  · exact h
  · refine h.ite (h.switchRuns.ite ?_)
    split
    · exact h.switchRuns.startArrived
    · exact h.switchRuns.whenNot fun h => (h.startNew.ite h).ite (h.ite ((h.ite h.startNew).ite (h.ite h.startNew)))

theorem execAdmitWaitExpiry_keepsParts (h : s.hasParts) {die} : KeepsParts (execAdmitWaitExpiry die s) := by
  refine .next ?_
  split
  · exact h
  · exact h.ite h.modDie

theorem execPassEnd_keepsParts (h : s.hasParts) {die tokens} : KeepsParts (execPassEnd die tokens s) := by
  refine .next ?_
  split
  · exact (((h.modDie.freeBlocks.runAgain.when fun h => h.backPassed).savePassed.when fun h =>
      h.requestsPassed.runsPassed).cutRequests.whenNot fun h => h.handOver).settleUnmount
  · exact h

theorem execBoundaryRowsArrival_keepsParts (h : s.hasParts) {die} : KeepsParts (execBoundaryRowsArrival die s) := by
  refine .next ?_
  split
  · exact h.spillSaved.ite h.modDie.holdRows
  · exact h

theorem execTokenIdsArrival_keepsParts (h : s.hasParts) {die} : KeepsParts (execTokenIdsArrival die s) :=
  .next (h.modDie.foldl fun _ _ h => h.modRequest)

theorem execSegmentEnd_keepsParts (h : s.hasParts) {die} : KeepsParts (execSegmentEnd die s) := by
  refine .next ?_
  split
  · exact h.modDie.ite h
  · exact h

theorem execActivationStoreBlockZeroing_keepsParts (h : s.hasParts) {die blk} :
    KeepsParts (execActivationStoreBlockZeroing die blk s) :=
  .next h.modDie

/-! ## Drawers -/

theorem execBindDrawer_keepsParts (h : s.hasParts) {src req} : KeepsParts (execBindDrawer src req s) :=
  .next (h.ilnil fun _ _ _ h => h.complete.ite (h.complete.ite h.bindHandle))

theorem execUnbindDrawer_keepsParts (h : s.hasParts) {src req} : KeepsParts (execUnbindDrawer src req s) := by
  refine .next (h.ilnil fun _ _ _ h => ?_)
  split
  · exact h.complete
  · exact h.complete.ite h.accept.evictSlot

theorem execPrefetchDrawer_keepsParts (h : s.hasParts) {src req} : KeepsParts (execPrefetchDrawer src req s) := by
  refine .next (h.ilnil fun _ _ _ h => ?_)
  split
  · exact h.complete
  · refine h.complete.ite ?_
    split
    · exact h.complete
    · exact h.accept.complete.ite (h.accept.foldl fun _ _ h => h.startFetch.ite h)

theorem execEvictDrawer_keepsParts (h : s.hasParts) {src req} : KeepsParts (execEvictDrawer src req s) := by
  refine .next (h.ilnil fun _ _ _ h => ?_)
  split
  · exact h.complete
  · exact h.complete.ite (h.complete.ite h.accept.evictSlot)

theorem execDrawerStatus_keepsParts (h : s.hasParts) {src req} : KeepsParts (execDrawerStatus src req s) := by
  refine .next (h.ilnil fun _ _ _ h => ?_)
  split
  · exact h.complete
  · exact h.complete

theorem execSetDrawerCache_keepsParts (h : s.hasParts) {src req} : KeepsParts (execSetDrawerCache src req s) :=
  .next (h.ilnil fun _ _ _ h => h.complete.ite ((h.accept.modCab.foldl fun _ _ h => h.shrinkCache).settleCache))

theorem execSetRemakeConsent_keepsParts (h : s.hasParts) {src req} : KeepsParts (execSetRemakeConsent src req s) :=
  .next (h.ilnil fun _ _ _ h => h.frame.complete.ite (h.complete.ite (h.complete.ite h.frame.complete)))

theorem execCatalogDeliver_keepsParts (h : s.hasParts) {src req obj} : KeepsParts (execCatalogDeliver src req obj s) := by
  refine .next (h.ilnil fun _ _ _ h => ?_)
  dsimp only
  split
  · exact h.complete
  · refine h.complete.ite (.ite ?_ h.complete.loadFailed.nextFetches)
    split
    · exact h.complete.cacheObj.fromCache.nextFetches
    · exact (h.complete.cacheObj.fromCache.ite h.complete.cacheObj.runFetch).nextFetches

theorem execFetchResume_keepsParts (h : s.hasParts) {fetch} : KeepsParts (execFetchResume fetch s) := by
  refine .next ?_
  split
  · exact h
  · refine h.nextFetches.ite (h.ite ?_)
    split
    · exact h.fromCache.nextFetches
    · exact h.runFetch

theorem execFetchComplete_keepsParts (h : s.hasParts) {fetch} : KeepsParts (execFetchComplete fetch s) := by
  refine .next ?_
  split
  · exact h
  · refine h.ite ?_
    split
    · exact h.runFetch
    · exact (h.ite h.modCab).fetchArrived.nextFetches

/-! ## The memory of a stack -/

theorem execSectorRead_keepsParts (h : s.hasParts) {addr a err got} : KeepsParts (execSectorRead addr a err got s) := by
  refine .next ((h.demandRead.ite h).ite (h.ite (.ite (h.memError.frame.ite h) (h.ite (h.refuseAccess.ite ?_)))))
  split
  · exact h
  next e =>
    have hu := OptParts.bind h.useGlove (fun _ h => h.supplyGloves) _ e
    dsimp only
    split
    next e => exact (hu.flushSector.decodeRead.of_snd e).frame
    next e => exact (hu.flushSector.decodeRead.of_snd e).frame

theorem execSectorWrite_keepsParts (h : s.hasParts) {addr a off bytes err} :
    KeepsParts (execSectorWrite addr a off bytes err s) := by
  refine .next (h.ite (h.refuseAccess.ite ?_))
  split
  · exact h
  next e =>
    have hu := h.useGlove _ e
    refine hu.dropMerge.frame.ite (.ite ?_ hu.gather.frame)
    dsimp only
    split
    next e => exact (hu.flushSector.modifySector.of_snd e).frame
    next e => exact (hu.flushSector.modifySector.of_snd e).frame

theorem execMergeFlush_keepsParts (h : s.hasParts) {st sector err} : KeepsParts (execMergeFlush st sector err s) :=
  .next (h.flushSector.ite h)

theorem execAllocationFill_keepsParts (h : s.hasParts) {st page} : KeepsParts (execAllocationFill st page s) :=
  .next (h.ite h.setPage.frame)

theorem execSweepStep_keepsParts (h : s.hasParts) {st page err} : KeepsParts (execSweepStep st page err s) :=
  .next (h.ite (h.flushSector.decodeRead.setPage.ite h.flushSector.decodeRead.setPage.modGlove.settleSweeps))

theorem execPatrolScrub_keepsParts (h : s.hasParts) {st sector err} : KeepsParts (execPatrolScrub st sector err s) :=
  .next (h.ite h.decodeRead.modStk)

theorem execOnDieRead_keepsParts (h : s.hasParts) {st count} : KeepsParts (execOnDieRead st count s) :=
  .next (h.ite h.modStk.logReport)

theorem execHbmApertureRead_keepsParts (h : s.hasParts) {core addr size} :
    KeepsParts (execHbmApertureRead core addr size s) := by
  refine .next (h.ite ?_)
  split
  · exact h.onBus
  · refine (h.foldl fun _ _ h => h.memError).onBus.ite ?_
    split
    · exact h.isolation.onBus
    · exact h.ite ((h.foldl fun _ _ h => h.flushSector).onBus)

theorem execHbmApertureWrite_keepsParts (h : s.hasParts) {core addr bytes} :
    KeepsParts (execHbmApertureWrite core addr bytes s) :=
  .next (h.apertureWrite.ite h)

/-! ## Runs on command -/

theorem execStartRun_keepsParts (h : s.hasParts) {src req} : KeepsParts (execStartRun src req s) := by
  refine .next (h.ilnil fun _ _ _ h => ?_)
  dsimp only
  split
  · exact h.complete
  · split
    · exact h.complete
    next e => exact h.createRun _ e

theorem execStopRun_keepsParts (h : s.hasParts) {src req} : KeepsParts (execStopRun src req s) := by
  refine .next (h.ilnil fun _ _ _ h => ?_)
  split
  · exact h.complete
  · exact h.accept.modRun.stopNow.ite (h.accept.modRun.discardStep.completeStop.ite h.accept.modRun.modRun)

theorem execEndRun_keepsParts (h : s.hasParts) {src req} : KeepsParts (execEndRun src req s) := by
  refine .next (h.ilnil fun _ _ _ h => ?_)
  split
  · exact h.complete
  · exact h.releaseRun.promoteAll.complete

theorem execPublishRun_keepsParts (h : s.hasParts) {src req} : KeepsParts (execPublishRun src req s) := by
  refine .next (h.ilnil fun _ _ _ h => ?_)
  split
  · exact h.complete
  · exact h.complete.ite (h.complete.ite h.accept.publish)

theorem execResumeRun_keepsParts (h : s.hasParts) {src req} : KeepsParts (execResumeRun src req s) := by
  refine .next (h.ilnil fun _ _ _ h => ?_)
  split
  · exact h.complete
  · exact h.complete.ite (h.complete.ite h.modRun.complete.beginStep)

theorem execRunStatus_keepsParts (h : s.hasParts) {src req} : KeepsParts (execRunStatus src req s) := by
  refine .next (h.ilnil fun _ _ _ h => ?_)
  split
  · exact h.complete
  · exact h.complete

theorem execSetRunRate_keepsParts (h : s.hasParts) {src req} : KeepsParts (execSetRunRate src req s) := by
  refine .next (h.ilnil fun _ _ _ h => ?_)
  split
  · exact h.complete
  · exact h.complete.ite h.modRun.complete

theorem execCatalogStored_keepsParts (h : s.hasParts) {src req} : KeepsParts (execCatalogStored src req s) := by
  refine .next (h.ilnil fun _ _ _ h => ?_)
  dsimp only
  split
  · exact h.complete
  · refine h.complete.ite (.ite ?_ ?_)
    · split
      · exact h.frame.complete.bindStored.complete
      · exact h.frame.complete.bindStored.releaseRun
    · split
      · exact h.frame.complete.modCt.complete
      · exact h.frame.complete.modCt.remakeFail

theorem execSetReduction_keepsParts (h : s.hasParts) {src req} : KeepsParts (execSetReduction src req s) := by
  refine .next (h.ilnil fun _ _ _ h => ?_)
  split
  · exact h.complete
  · split
    · exact h.complete
    · exact h.modRun.complete

theorem execSetThinning_keepsParts (h : s.hasParts) {src req} : KeepsParts (execSetThinning src req s) := by
  refine .next (h.ilnil fun _ _ _ h => ?_)
  split
  · exact h.complete
  · refine h.complete.ite ?_
    dsimp only
    split
    · exact h.complete
    next e => exact (h.allocAll? _ e).modRun.complete

theorem execReductionStatus_keepsParts (h : s.hasParts) {src req} : KeepsParts (execReductionStatus src req s) := by
  refine .next (h.ilnil fun _ _ _ h => ?_)
  split
  · exact h.complete
  · split
    · exact h.complete
    · exact h.complete

theorem execRemakeStart_keepsParts (h : s.hasParts) {cab} : KeepsParts (execRemakeStart cab s) := by
  refine .next (h.ite ?_)
  split
  · exact h
  · dsimp only
    split
    · exact h.frame
    · split
      · exact h.frame
      · refine h.frame.ite ?_
        split
        · exact h.frame.tell
        next e =>
          split at e
          · cases e
          · exact (State.hasParts.createRun h.frame _ e).modSlot

/-! ## Mailboxes and the bus -/

theorem execPigeonholeGo_keepsParts (h : s.hasParts) {ct n v} : KeepsParts (execPigeonholeGo ct n v s) :=
  .next h.pigeonCtrl

theorem execPigeonholeDone_keepsParts (h : s.hasParts) {ct n v} : KeepsParts (execPigeonholeDone ct n v s) :=
  .next h.pigeonCtrl

theorem execWithdraw_keepsParts (h : s.hasParts) {ct n v} : KeepsParts (execWithdraw ct n v s) :=
  .next h.pigeonCtrl

theorem execPigeonholeOverrunClear_keepsParts (h : s.hasParts) {ct n v} :
    KeepsParts (execPigeonholeOverrunClear ct n v s) :=
  .next h.pigeonCtrl

theorem execPigeonholeIrqEn_keepsParts (h : s.hasParts) {ct n v} : KeepsParts (execPigeonholeIrqEn ct n v s) :=
  .next h.pigeonCtrl

theorem execDoorbell_keepsParts (h : s.hasParts) {ct n x} : KeepsParts (execDoorbell ct n x s) :=
  .next h.ring

theorem execOutTailWrite_keepsParts (h : s.hasParts) {ct n v} : KeepsParts (execOutTailWrite ct n v s) :=
  .next h.trayWrite

theorem execInHeadWrite_keepsParts (h : s.hasParts) {ct n v} : KeepsParts (execInHeadWrite ct n v s) :=
  .next h.trayWrite

theorem execTrayOverrunClear_keepsParts (h : s.hasParts) {ct n v} : KeepsParts (execTrayOverrunClear ct n v s) :=
  .next h.trayWrite

theorem execTrayIrqEn_keepsParts (h : s.hasParts) {ct n v} : KeepsParts (execTrayIrqEn ct n v s) :=
  .next h.trayWrite

theorem execRegisterWrite_keepsParts (h : s.hasParts) {core addr size v} :
    KeepsParts (execRegisterWrite core addr size v s) := by
  refine .next (h.ite (h.onBus.ite (.ite h.modCt.onBus (.ite (.ite h.modCt.onBus h.onBus) (.ite h.onBus
    (.ite ?_ (.ite ?_ h.apertureWrite)))))))
  all_goals
    refine h.onBus.ite ?_
    split
    · exact h.onBus
    next e => exact (h.windowWrite.of_snd e).onBus

theorem execHeldResponseWrite_keepsParts (h : s.hasParts) {src} : KeepsParts (execHeldResponseWrite src s) := by
  refine .next ?_
  split
  · exact h.modPigeon
  · exact h.modTray
  · exact h.sendWaiting

theorem execJournalEntry_keepsParts (h : s.hasParts) : KeepsParts (execJournalEntry s) := by
  refine .next ?_
  split
  · exact h.modCp.ite h
  · exact h

theorem execJournalAck_keepsParts (h : s.hasParts) : KeepsParts (execJournalAck s) := by
  refine .next ?_
  split
  · exact h.modCp.deliver.settleDraining.ite h
  · exact h

theorem execHeartbeat_keepsParts (h : s.hasParts) {ct} : KeepsParts (execHeartbeat ct s) :=
  .next (h.modCp.ite h)

theorem execHeartbeatLost_keepsParts (h : s.hasParts) {silent} : KeepsParts (execHeartbeatLost silent s) :=
  .next (h.ite (((h.modCt.when fun h => h.modCp).logReport.checkReserves.when fun h => h.policyAct.beginTakeOver).ite
    ((h.modCt.when fun h => h.modCp).logReport.checkReserves.flushJournal.settleDraining.tableAlone)))

theorem execSetEventTray_keepsParts (h : s.hasParts) {src req} : KeepsParts (execSetEventTray src req s) :=
  .next (h.ilnil fun _ _ _ h => h.complete.ite h.modCp.complete)

theorem execTakeOver_keepsParts (h : s.hasParts) {src req} : KeepsParts (execTakeOver src req s) :=
  .next (h.ilnil fun _ _ _ h => (h.flushJournal.ite h).beginTakeOver.ite h.complete)

theorem execUndefinedOpcode_keepsParts (h : s.hasParts) {src req opcode} :
    KeepsParts (execUndefinedOpcode src req opcode s) := by
  refine .next (h.ite ?_)
  split
  · exact h
  next e =>
    refine ((h.takeFrom _ e).runStandby fun _ _ _ h => h).ite ?_
    split
    · exact (h.takeFrom _ e).refuseRaw.ite ((h.takeFrom _ e).jTake.complete)
    · split
      next e' => exact (h.takeFrom _ e).resend _ e'
      · exact (h.takeFrom _ e).jTake.complete

/-! ## Resynchronisation and the journal -/

theorem execResync_keepsParts (h : s.hasParts) {src req} : KeepsParts (execResync src req s) := by
  refine .next (h.ilnil fun _ _ _ h => ?_)
  split
  · split
    · exact h.resyncTenant
    · exact h
  · exact h.resyncModule

/-! ## Resets of a scope -/

theorem execResetComplete_keepsParts (h : s.hasParts) {scope} : KeepsParts (execResetComplete scope s) := by
  refine .next ?_
  split
  · exact h
  · refine .wakeResets (.postEvent (.completeAll ?_))
    split
    · exact h.modCp.clusterBack
    · exact h.modCp.dieBack
    · exact h.modCp.cabinetBack

theorem execResetCluster_keepsParts (h : s.hasParts) {src req} : KeepsParts (execResetCluster src req s) :=
  .next (h.ilnil fun _ _ _ h => h.complete.ite h.askReset)

theorem execResetDie_keepsParts (h : s.hasParts) {src req} : KeepsParts (execResetDie src req s) :=
  .next (h.ilnil fun _ _ _ h => h.askReset)

theorem execResetCabinet_keepsParts (h : s.hasParts) {src req} : KeepsParts (execResetCabinet src req s) :=
  .next (h.ilnil fun _ _ _ h => h.complete.ite h.askReset)

/-! ## Attestation -/

theorem execAttest_keepsParts (h : s.hasParts) {src req} : KeepsParts (execAttest src req s) :=
  .next (h.ilnil fun _ _ _ h => h.complete.ite h.fresh.complete)

theorem execGetVersion_keepsParts (h : s.hasParts) {r} : KeepsParts (execGetVersion r s) :=
  .next h.spdm

theorem execGetCapabilities_keepsParts (h : s.hasParts) {r} : KeepsParts (execGetCapabilities r s) :=
  .next h.spdm

theorem execNegotiateAlgorithms_keepsParts (h : s.hasParts) {r} : KeepsParts (execNegotiateAlgorithms r s) :=
  .next h.spdm

theorem execGetDigests_keepsParts (h : s.hasParts) {r} : KeepsParts (execGetDigests r s) :=
  .next h.spdm

theorem execGetCertificate_keepsParts (h : s.hasParts) {r slot} : KeepsParts (execGetCertificate r slot s) :=
  .next h.spdm

theorem execChallenge_keepsParts (h : s.hasParts) {r nonce} : KeepsParts (execChallenge r nonce s) :=
  .next h.spdm

theorem execGetMeasurements_keepsParts (h : s.hasParts) {r index nonce} :
    KeepsParts (execGetMeasurements r index nonce s) :=
  .next h.spdm

theorem execSpdmUnsupportedRequest_keepsParts (h : s.hasParts) {r code} :
    KeepsParts (execSpdmUnsupportedRequest r code s) :=
  .next h.spdm

/-! ## Tenants and gloves on command -/

theorem execAddTenant_keepsParts (h : s.hasParts) {src req} : KeepsParts (execAddTenant src req s) :=
  .next (h.ilnil fun _ _ _ h => h.complete.ite h.modRot.complete)

theorem execGloveOpen_keepsParts (h : s.hasParts) {src req} : KeepsParts (execGloveOpen src req s) := by
  refine .next (h.ilnil fun _ _ _ h => ?_)
  dsimp only
  split
  · exact h
  · split
    · exact h.complete.ite h.complete
    · split
      · exact h.complete
      · exact h.frame.fresh.modRot.complete

theorem execRemoveTenant_keepsParts (h : s.hasParts) {src req} : KeepsParts (execRemoveTenant src req s) :=
  .next (h.ilnil fun _ _ _ h => h.closeGlove.ite h.complete)

theorem execGloveClose_keepsParts (h : s.hasParts) {src req} : KeepsParts (execGloveClose src req s) := by
  refine .next (h.ilnil fun _ _ _ h => ?_)
  split
  · split
    · exact h.closeGlove
    · exact h
  · exact h

theorem execRotateGlove_keepsParts (h : s.hasParts) {src req} : KeepsParts (execRotateGlove src req s) := by
  refine .next (h.ilnil fun _ _ _ h => ?_)
  split
  · exact h.complete
  · exact h.complete.ite (h.complete.ite (h.accept.modGlove.whenNot fun h => h.installGlove))

theorem execGloveStatus_keepsParts (h : s.hasParts) {src req} : KeepsParts (execGloveStatus src req s) := by
  refine .next (h.ilnil fun _ _ _ h => ?_)
  split
  · exact h.complete
  · exact h.complete

theorem execGloveChangeAck_keepsParts (h : s.hasParts) {glove} : KeepsParts (execGloveChangeAck glove s) := by
  refine .next ?_
  split
  · exact h
  · exact h.ite (h.modGlove.ite (h.installGlove.ite h))

theorem execGloveInstallationAck_keepsParts (h : s.hasParts) {glove b} : KeepsParts (execGloveInstallationAck glove b s) :=
  .next (h.blockDone.ite h)

theorem execGloveErasureAck_keepsParts (h : s.hasParts) {glove b} : KeepsParts (execGloveErasureAck glove b s) :=
  .next (h.blockDone.ite (h.unwear.blockDone.ite h))

theorem execDrainConfirm_keepsParts (h : s.hasParts) {glove b} : KeepsParts (execDrainConfirm glove b s) :=
  .next (h.blockDone.ite h)

theorem execLatticePacket_keepsParts (h : s.hasParts) {p} : KeepsParts (execLatticePacket p s) :=
  .next (h.ite (h.isolation.ite (h.isolation.ite h.modDie)))

/-! ## Consents -/

theorem execConsentInstall_keepsParts (h : s.hasParts) {src req sigOk} :
    KeepsParts (execConsentInstall src req sigOk s) := by
  refine .next (h.ilnil fun _ _ _ h => ?_)
  split
  · split
    · exact h.tokenPiece
    · exact h
  · refine h.complete.ite ?_
    split
    · exact h.complete
    · exact h.complete.ite h.installToken.complete

theorem execTokenInForce_keepsParts (h : s.hasParts) {token} : KeepsParts (execTokenInForce token s) :=
  .next h.modRot

theorem execTokenExpiry_keepsParts (h : s.hasParts) {token} : KeepsParts (execTokenExpiry token s) :=
  .next (h.endToken.ite h)

theorem execConsentRevoke_keepsParts (h : s.hasParts) {src req} : KeepsParts (execConsentRevoke src req s) := by
  refine .next (h.ilnil fun _ _ _ h => ?_)
  dsimp only
  split
  · exact h.complete
  · exact h.endToken.complete.ite h.complete

theorem execDebugOpen_keepsParts (h : s.hasParts) {src req} : KeepsParts (execDebugOpen src req s) := by
  refine .next (h.ilnil fun _ _ _ h => ?_)
  dsimp only
  split
  · exact h.complete
  · split
    · exact h.complete
    · exact h.complete.ite (h.complete.ite (h.complete.ite ((h.fresh.writeCtl.when fun h => h.modCp).modRot.complete)))

theorem execDebugClose_keepsParts (h : s.hasParts) {src req} : KeepsParts (execDebugClose src req s) := by
  refine .next (h.ilnil fun _ _ _ h => ?_)
  dsimp only
  split
  · exact h.complete
  · exact h.modRot.modCp.complete

theorem execPowerWindow_keepsParts (h : s.hasParts) {endTime module cabs} :
    KeepsParts (execPowerWindow endTime module cabs s) :=
  .next (h.ite h.frame)

theorem execTemperatureWindow_keepsParts (h : s.hasParts) {endTime temps} :
    KeepsParts (execTemperatureWindow endTime temps s) :=
  .next (h.ite h.frame)

theorem execCounterSample_keepsParts (h : s.hasParts) {time} : KeepsParts (execCounterSample time s) :=
  .next (h.ite h.frame)

theorem execTelemetryRead_keepsParts (h : s.hasParts) {src req} : KeepsParts (execTelemetryRead src req s) :=
  .next (h.ilnil fun _ _ _ h => h.complete)

/-! ## Edge ports -/

theorem execFrameReceive_keepsParts (h : s.hasParts) {ed f} : KeepsParts (execFrameReceive ed f s) :=
  .next (h.ite (h.modEdge.countDiscard.ite ((h.modEdge.takeDatagram.ite h.modEdge.countDiscard).ite h.modEdge.toRing)))

theorem execFragmentTimeout_keepsParts (h : s.hasParts) {ed msgId} : KeepsParts (execFragmentTimeout ed msgId s) :=
  .next h.modEdge

theorem execTxRingPoll_keepsParts (h : s.hasParts) {ed ring} : KeepsParts (execTxRingPoll ed ring s) := by
  refine .next ?_
  split
  · exact h
  · exact h.ite (h.giveBack.countDiscard.ite h.modEdge.giveBack)

theorem execLinkUp_keepsParts (h : s.hasParts) {ed} : KeepsParts (execLinkUp ed s) :=
  .next (h.modEdge.ite h)

theorem execEdgeEvent_keepsParts (h : s.hasParts) {ed which} : KeepsParts (execEdgeEvent ed which s) :=
  .next (h.ite (h.modEdge.report.when fun h => h.modEdge.closeEdge))

theorem execSetEdgeAddr_keepsParts (h : s.hasParts) {src req} : KeepsParts (execSetEdgeAddr src req s) :=
  .next (h.ilnil fun _ _ _ h => h.complete.ite (h.complete.ite (h.complete.ite h.modEdge.complete)))

theorem execSetEdgeRings_keepsParts (h : s.hasParts) {src req} : KeepsParts (execSetEdgeRings src req s) := by
  refine .next (h.ilnil fun _ _ _ h => h.complete.ite ?_)
  split
  · exact h.complete
  · exact h.stopRing.modEdge.complete

theorem execEdgeStatus_keepsParts (h : s.hasParts) {src req} : KeepsParts (execEdgeStatus src req s) :=
  .next (h.ilnil fun _ _ _ h => h.complete)

/-! ## Sessions -/

theorem execSessionInit_keepsParts (h : s.hasParts) {ed m} : KeepsParts (execSessionInit ed m s) := by
  refine .next (h.ite ?_)
  split
  · exact h.sendPlain
  · split
    · exact h.reject
    · refine h.reject.ite ?_
      split
      · exact h.reject
      · exact h.openSession.sendPlain

theorem execDataRecord_keepsParts (h : s.hasParts) {r msgs rest} : KeepsParts (execDataRecord r msgs rest s) :=
  .next (h.sealedRecord fun _ h => h.modSession.exhaust)

theorem execAckRecord_keepsParts (h : s.hasParts) {r} : KeepsParts (execAckRecord r s) := by
  refine .next ?_
  dsimp only
  split
  · exact h
  · exact h.discardRecord.ite (h.fromSource.discardRecord.ite (h.fromSource.closeSession.ite
      h.fromSource.modSession.takeAck.exhaust))

theorem execCloseRecord_keepsParts (h : s.hasParts) {r} : KeepsParts (execCloseRecord r s) :=
  .next (h.sealedRecord fun _ h => h.closeSession)

theorem execRecordResend_keepsParts (h : s.hasParts) {session counter} :
    KeepsParts (execRecordResend session counter s) := by
  refine .next ?_
  split
  · exact h
  · split
    · exact h
    · exact h.ite h.modEdge.modSession

theorem execAckTimer_keepsParts (h : s.hasParts) {session} : KeepsParts (execAckTimer session s) := by
  refine .next ?_
  split
  · exact h
  · exact h.ite h.sendRecord.modSession.exhaust

/-! ## Faults -/

theorem execSetPolicy_keepsParts (h : s.hasParts) {src req} : KeepsParts (execSetPolicy src req s) :=
  .next (h.ilnil fun _ _ _ h => h.complete.ite h.modCp.complete)

theorem execErrorLogRead_keepsParts (h : s.hasParts) {src req} : KeepsParts (execErrorLogRead src req s) := by
  refine .next (h.ilnil fun _ _ _ h => ?_)
  dsimp only
  split
  · exact h.complete
  · exact h.writeCtl.modCt.complete

theorem execFaultReport_keepsParts (h : s.hasParts) {r} : KeepsParts (execFaultReport r s) :=
  .next (h.ite (((h.foldl fun _ _ h => h.contain).ite h).report))

theorem execLinkEvent_keepsParts (h : s.hasParts) {block unit replays down} :
    KeepsParts (execLinkEvent block unit replays down s) :=
  .next (h.ite h.report)

theorem execClaim_keepsParts (h : s.hasParts) {src req} : KeepsParts (execClaim src req s) := by
  refine .next (h.ilnil fun _ _ _ h => ?_)
  dsimp only
  split
  · exact h.complete
  · exact (h.complete.ite h.modCp.complete).ite (h.complete.ite h.modCp.complete)

theorem execRelease_keepsParts (h : s.hasParts) {src req} : KeepsParts (execRelease src req s) := by
  refine .next (h.ilnil fun _ _ _ h => ?_)
  dsimp only
  split
  · exact h.complete
  · exact (h.modCp.complete.ite h.complete).ite (h.modCp.complete.ite h.complete)

theorem execGeneralTimerExpiry_keepsParts (h : s.hasParts) {die timer} :
    KeepsParts (execGeneralTimerExpiry die timer s) := by
  refine .next ?_
  split
  · exact h.expireTimer.ite h
  · exact h

theorem execThermalWarn_keepsParts (h : s.hasParts) {x} : KeepsParts (execThermalWarn x s) :=
  .next (h.ite h.modCp.report)

theorem execThermalWarnRepeat_keepsParts (h : s.hasParts) {x} : KeepsParts (execThermalWarnRepeat x s) :=
  .next (h.report.ite h)

/-! ## Panels -/

theorem execPanelBufferFill_keepsParts (h : s.hasParts) {u f} : KeepsParts (execPanelBufferFill u f s) := by
  refine .next ?_
  split
  · dsimp only
    split
    · exact h
    · exact (h.foldl fun _ _ h => h.modCluster.foldl fun _ _ h => h.placePieces).modDie
  · exact h

/-! ## Matrix operations -/

theorem execShelfFwd_keepsParts (h : s.hasParts) {m} : KeepsParts (execShelfFwd m s) :=
  .next h.matrix

theorem execShelfBwd_keepsParts (h : s.hasParts) {m} : KeepsParts (execShelfBwd m s) :=
  .next h.matrix

theorem execSeqScore_keepsParts (h : s.hasParts) {m} : KeepsParts (execSeqScore m s) :=
  .next h.matrix

theorem execSeqMix_keepsParts (h : s.hasParts) {m} : KeepsParts (execSeqMix m s) :=
  .next h.matrix

theorem execSlotGrad_keepsParts (h : s.hasParts) {m} : KeepsParts (execSlotGrad m s) := by
  refine .next ?_
  dsimp only
  split
  · exact h.matrix
  · exact h.matrix.whenNot fun h => h.ite h.addGradients

theorem execDrawerMul_keepsParts (h : s.hasParts) {m} : KeepsParts (execDrawerMul m s) :=
  .next h.matrix

theorem execScalePass2_keepsParts (h : s.hasParts) {die stream jobSeq opIndex} :
    KeepsParts (execScalePass2 die stream jobSeq opIndex s) := by
  refine .next ?_
  dsimp only
  split
  · exact h.writeOut.frame
  · exact h

/-! ## Vector arithmetic -/

theorem vArith_keepsParts (h : s.hasParts) {opc fn u f} : KeepsParts (vArith opc fn u f s) :=
  .next (h.vRun fun _ _ _ h => h.vLanes)

theorem execVadd_keepsParts (h : s.hasParts) {u f} : KeepsParts (execVadd u f s) := vArith_keepsParts h
theorem execVsub_keepsParts (h : s.hasParts) {u f} : KeepsParts (execVsub u f s) := vArith_keepsParts h
theorem execVmul_keepsParts (h : s.hasParts) {u f} : KeepsParts (execVmul u f s) := vArith_keepsParts h
theorem execVfma_keepsParts (h : s.hasParts) {u f} : KeepsParts (execVfma u f s) := vArith_keepsParts h
theorem execVmin_keepsParts (h : s.hasParts) {u f} : KeepsParts (execVmin u f s) := vArith_keepsParts h
theorem execVmax_keepsParts (h : s.hasParts) {u f} : KeepsParts (execVmax u f s) := vArith_keepsParts h
theorem execVabs_keepsParts (h : s.hasParts) {u f} : KeepsParts (execVabs u f s) := vArith_keepsParts h
theorem execVneg_keepsParts (h : s.hasParts) {u f} : KeepsParts (execVneg u f s) := vArith_keepsParts h
theorem execVdiv_keepsParts (h : s.hasParts) {u f} : KeepsParts (execVdiv u f s) := vArith_keepsParts h
theorem execVsqrt_keepsParts (h : s.hasParts) {u f} : KeepsParts (execVsqrt u f s) := vArith_keepsParts h
theorem execVexp_keepsParts (h : s.hasParts) {u f} : KeepsParts (execVexp u f s) := vArith_keepsParts h
theorem execVdexp_keepsParts (h : s.hasParts) {u f} : KeepsParts (execVdexp u f s) := vArith_keepsParts h
theorem execVmuldiv_keepsParts (h : s.hasParts) {u f} : KeepsParts (execVmuldiv u f s) := vArith_keepsParts h

theorem execVcmp_keepsParts (h : s.hasParts) {u f} : KeepsParts (execVcmp u f s) :=
  .next (h.vRun fun _ _ _ h => .ite trivial h.vMaskOut)

theorem vMaskOp_keepsParts (h : s.hasParts) {opc two op u f} : KeepsParts (vMaskOp opc two op u f s) :=
  .next (h.vRun fun _ _ _ h => h.vMaskOut)

theorem execMand_keepsParts (h : s.hasParts) {u f} : KeepsParts (execMand u f s) := vMaskOp_keepsParts h
theorem execMor_keepsParts (h : s.hasParts) {u f} : KeepsParts (execMor u f s) := vMaskOp_keepsParts h
theorem execMnot_keepsParts (h : s.hasParts) {u f} : KeepsParts (execMnot u f s) := vMaskOp_keepsParts h

theorem execMrange_keepsParts (h : s.hasParts) {u f} : KeepsParts (execMrange u f s) :=
  .next (h.vRun fun _ _ _ h => .withMarks fun _ => .ok h)

theorem execVsel_keepsParts (h : s.hasParts) {u f} : KeepsParts (execVsel u f s) :=
  .next (h.vRun fun _ _ _ h => h.vPlain)

theorem execVbcast_keepsParts (h : s.hasParts) {u f} : KeepsParts (execVbcast u f s) :=
  .next (h.vRun fun _ _ _ h => h.vPlain)

theorem vBitOp_keepsParts (h : s.hasParts) {opc op u f} : KeepsParts (vBitOp opc op u f s) :=
  .next (h.vRun fun _ _ _ h => h.vPlain)

theorem execVand_keepsParts (h : s.hasParts) {u f} : KeepsParts (execVand u f s) := vBitOp_keepsParts h
theorem execVor_keepsParts (h : s.hasParts) {u f} : KeepsParts (execVor u f s) := vBitOp_keepsParts h
theorem execVxor_keepsParts (h : s.hasParts) {u f} : KeepsParts (execVxor u f s) := vBitOp_keepsParts h
theorem execVshl_keepsParts (h : s.hasParts) {u f} : KeepsParts (execVshl u f s) := vBitOp_keepsParts h
theorem execVshr_keepsParts (h : s.hasParts) {u f} : KeepsParts (execVshr u f s) := vBitOp_keepsParts h
theorem execVsra_keepsParts (h : s.hasParts) {u f} : KeepsParts (execVsra u f s) := vBitOp_keepsParts h

theorem execVcvt_keepsParts (h : s.hasParts) {u f} : KeepsParts (execVcvt u f s) := by
  refine .next (h.vRun fun _ v d h => ?_)
  dsimp only
  split
  next e => exact .ok (h.vLanes.of_ok e)
  · exact h.vLanes

theorem execVred_keepsParts (h : s.hasParts) {u f} : KeepsParts (execVred u f s) :=
  .next (h.vRun fun _ _ _ h => .ite trivial (.withMarks fun _ => .ok h))

theorem execVsplit_keepsParts (h : s.hasParts) {u f} : KeepsParts (execVsplit u f s) :=
  .next (h.vRun fun _ _ _ h => .ite trivial (.withMarks fun _ => .ok h))

theorem execVjoin_keepsParts (h : s.hasParts) {u f} : KeepsParts (execVjoin u f s) :=
  .next (h.vRun fun _ _ _ h => .withMarks fun _ => .ok h)

theorem execVgetf_keepsParts (h : s.hasParts) {u f} : KeepsParts (execVgetf u f s) :=
  .next (h.vRun fun _ _ _ h => .withMarks fun _ => .ok h)

/-! ## Vector memory and tiles -/

theorem execVld_keepsParts (h : s.hasParts) {u f} : KeepsParts (execVld u f s) :=
  .next (h.vRun fun _ _ _ h => .vLoadAt fun _ _ => .ite trivial h.vFill)

theorem execVldb_keepsParts (h : s.hasParts) {u f} : KeepsParts (execVldb u f s) :=
  .next (h.vRun fun _ _ _ h => .vLoadAt fun _ _ => .ite trivial h.vFill)

theorem execVst_keepsParts (h : s.hasParts) {u f} : KeepsParts (execVst u f s) :=
  .next (h.vRun fun _ _ _ h => .withMarks fun _ => .ite trivial (h.vStoreAt fun _ _ h => .ok h))

theorem execVldmx_keepsParts (h : s.hasParts) {u f} : KeepsParts (execVldmx u f s) :=
  .next (h.vRun fun _ _ _ h => .ite h.vFill (.vLoadAt fun _ _ => .vLoadAt fun _ _ => .ite trivial h.vFill))

theorem execVstmx_keepsParts (h : s.hasParts) {u f} : KeepsParts (execVstmx u f s) := by
  refine .next (h.vRun fun _ _ _ h => .withMarks fun _ => .ite (.ok h) (.ite trivial ?_))
  split
  · exact h.vStoreAt fun _ _ h => h.vStoreAt fun _ _ h => .ok h
  · exact trivial

theorem execVfbst_keepsParts (h : s.hasParts) {u f} : KeepsParts (execVfbst u f s) := by
  refine .next (h.vRun fun s v d h => ?_)
  have hs : (if (predM f).men && !(predM f).zm then s.fresh else (0, s)).2.hasParts := by
    split
    · exact h.fresh
    · exact h
  exact .withMarks fun _ => hs.vStoreAt fun _ _ h => .ite (h.vStoreAt fun _ _ h => .ok h) (.ok h)

theorem execVfbld_keepsParts (h : s.hasParts) {u f} : KeepsParts (execVfbld u f s) := by
  refine .next (h.vRun fun _ _ _ h => ?_)
  dsimp only
  split
  · exact trivial
  · split
    · exact trivial
    · exact .vLoadAt fun _ _ => h.vFill

theorem execTld_keepsParts (h : s.hasParts) {u f} : KeepsParts (execTld u f s) := by
  refine .next (h.vRun fun _ _ _ h => .ite trivial ?_)
  split
  · exact h.vFill
  · exact .withMarks fun _ => h.vFill
  · exact trivial

theorem execTst_keepsParts (h : s.hasParts) {u f} : KeepsParts (execTst u f s) := by
  refine .next (h.vRun fun _ _ _ h => .ite trivial ?_)
  split
  · exact .withMarks fun _ => .ite trivial (.ok h.setTile)
  · exact trivial

/-! ## Library bodies and vector descriptors -/

theorem execVectorDescriptor_keepsParts (h : s.hasParts) {die jobSeq opIndex words} :
    KeepsParts (execVectorDescriptor die jobSeq opIndex words s) := by
  refine .next (h.ite ?_)
  split
  · exact h
  · exact h.endJob.ite (h.ite (h.getD h.wearFor.startVector))

theorem execDescriptorRetire_keepsParts (h : s.hasParts) {die stream jobSeq opIndex} :
    KeepsParts (execDescriptorRetire die stream jobSeq opIndex s) := by
  refine .next (h.ite ?_)
  split
  · exact h.retireMatrix.ite h
  · split
    next e => exact (h.strictGoesOn _ e).retireVector
    · exact h

/-! ## Power, start-up and resets -/

theorem execModResetNAssert_keepsParts (h : s.hasParts) : KeepsParts (execModResetNAssert s) :=
  .next (h.modPower.when fun h => h.fullReset.modPower)

theorem execInputTurnOn_keepsParts (h : s.hasParts) : KeepsParts (execInputTurnOn s) :=
  .next (h.ite h.modPower)

theorem execInputTurnOff_keepsParts (h : s.hasParts) : KeepsParts (execInputTurnOff s) :=
  .next h.powerOff

theorem execOvervoltage_keepsParts (h : s.hasParts) : KeepsParts (execOvervoltage s) :=
  .next h.powerOff

theorem execThermalTrip_keepsParts (h : s.hasParts) {x} : KeepsParts (execThermalTrip x s) :=
  .next ((h.powerOff.ite h).ite (h.ite h.logReport.tripData))

theorem execModResetNRelease_keepsParts (h : s.hasParts) {f} : KeepsParts (execModResetNRelease f s) := by
  refine .next (h.ite ?_)
  split
  · exact h.modPower
  · refine .foldl (.ite (.modRot ?_) ?_) fun _ _ h => h.firmwareReport
    all_goals
      split
      · exact h.bring.activate
      · exact h.bring

theorem execStartLimit_keepsParts (h : s.hasParts) : KeepsParts (execStartLimit s) :=
  .next (h.activate.ite h)

/-- The event counters of one control die's trays go to the other's trays, one to one (R422). -/
theorem CtDie.hasChannels.zipTrays {x y : CtDie} (hx : x.hasChannels) (hy : y.hasChannels) {side : Fin 8} {f : Tray × BitVec 16 → Tray} :
    ({ x with side := side, trays := (x.trays.zip (y.trays.map Tray.eventMseq)).map f } : CtDie).hasChannels :=
  ⟨hx.1, by simp [hx.2, hy.2]⟩

theorem execTakeOverComplete_keepsParts (h : s.hasParts) : KeepsParts (execTakeOverComplete s) := by
  refine .next ?_
  split
  · exact h
  next c _ =>
    have hroles : ∀ old, ((s.modCt c fun x => { x with
        side := 0
        trays := (x.trays.zip ((s.ct old).trays.map Tray.eventMseq)).map fun p => { p.1 with eventMseq := p.2 } }).modCt old fun x =>
          if x.side = 0 then { x with side := 1 } else x).hasParts := fun old =>
      (h.modCtOf fun _ hx => hx.zipTrays (h.ct old)).modCtOf fun _ hx => by split <;> exact hx
    exact (((((hroles _).modCp.completeAll.flushJournal.modCp.foldl fun _ _ h => h.emit).postEvent.mapEdges.dropUncommitted.foldl
      fun _ _ h => h.installGlove).whenNot fun h => h.tableAlone).settleDraining.hear.hear.answerHeld)

theorem execControlDieReset_keepsParts (h : s.hasParts) {ct recovers} : KeepsParts (execControlDieReset ct recovers s) :=
  .next (h.ite ((h.modCtOf fun x _ => (CtDie.hasChannels.kept x).frame).ite h.loseStandby.restartCt))

theorem execControlDiePower_keepsParts (h : s.hasParts) {ct on} : KeepsParts (execControlDiePower ct on s) :=
  .next (h.ite ((h.restartCt.ite h).ite (h.ite (h.loseStandby.modCtOf fun x _ => (CtDie.hasChannels.kept x).frame))))

theorem execPowerLimitWatts_keepsParts (h : s.hasParts) {watts} : KeepsParts (execPowerLimitWatts watts s) :=
  .next (h.modPower.ite h)

theorem execActivePreference_keepsParts (h : s.hasParts) {ct} : KeepsParts (execActivePreference ct s) :=
  .next h.modPower

theorem execStartLimitSeconds_keepsParts (h : s.hasParts) {seconds} : KeepsParts (execStartLimitSeconds seconds s) :=
  .next h.modPower

theorem execOperatorKeyId_keepsParts (h : s.hasParts) {keyId} : KeepsParts (execOperatorKeyId keyId s) :=
  .next (h.mapCts fun _ hx => hx)

theorem execUpdateService_keepsParts (h : s.hasParts) {ct images} : KeepsParts (execUpdateService ct images s) :=
  .next (h.ite (h.modCt.modRot.when fun h => h.firmwareReport))

theorem execThrottleStep_keepsParts (h : s.hasParts) {mean} : KeepsParts (execThrottleStep mean s) :=
  .next (h.ite h.modPower)

theorem execThrottleHeld_keepsParts (h : s.hasParts) : KeepsParts (execThrottleHeld s) :=
  .next (h.powerReport.ite h)

theorem execPowerFault_keepsParts (h : s.hasParts) {blade} : KeepsParts (execPowerFault blade s) :=
  .next (h.ite h.modPower.powerReport)

theorem execBladeInRating_keepsParts (h : s.hasParts) : KeepsParts (execBladeInRating s) :=
  .next h.modPower

theorem execRefclkSwitch_keepsParts (h : s.hasParts) {retrained} : KeepsParts (execRefclkSwitch retrained s) :=
  .next (h.ite (h.modPower.foldl fun _ _ h => h.report))

theorem execPpsIn_keepsParts (h : s.hasParts) : KeepsParts (execPpsIn s) :=
  .next (h.modPower.ite h)

theorem execPtpLock_keepsParts (h : s.hasParts) {grandmaster} : KeepsParts (execPtpLock grandmaster s) :=
  .next (h.ite (h.modPower.ite (h.modPower.whenNot fun h => h.frame.foldl fun _ _ h => h.expireTimer)))

theorem execHoldover_keepsParts (h : s.hasParts) : KeepsParts (execHoldover s) :=
  .next (h.modPower.ite h)

end Sys2Proof.Machine
end

section
/-!
PROOF. Every step keeps the module's parts.
-/

namespace Sys2Proof.Machine

variable {s t : State}

/-- Whatever command is run, its next state has the module's parts where its state has them. -/
theorem exec_keepsParts (h : s.hasParts) (i : Instr) : KeepsParts (exec i s) := by
  cases i with
  | queryCaps => exact execQueryCaps_keepsParts h
  | resync => exact execResync_keepsParts h
  | setEventTray => exact execSetEventTray_keepsParts h
  | takeOver => exact execTakeOver_keepsParts h
  | configureCabinet => exact execConfigureCabinet_keepsParts h
  | mountShelf => exact execMountShelf_keepsParts h
  | mountComplete => exact execMountComplete_keepsParts h
  | unmountShelf => exact execUnmountShelf_keepsParts h
  | setAdmission => exact execSetAdmission_keepsParts h
  | loadProgram => exact execLoadProgram_keepsParts h
  | createStream => exact execCreateStream_keepsParts h
  | destroyStream => exact execDestroyStream_keepsParts h
  | submitJob => exact execSubmitJob_keepsParts h
  | jobStart => exact execJobStart_keepsParts h
  | resumeStream => exact execResumeStream_keepsParts h
  | bindDrawer => exact execBindDrawer_keepsParts h
  | unbindDrawer => exact execUnbindDrawer_keepsParts h
  | prefetchDrawer => exact execPrefetchDrawer_keepsParts h
  | evictDrawer => exact execEvictDrawer_keepsParts h
  | drawerStatus => exact execDrawerStatus_keepsParts h
  | setDrawerCache => exact execSetDrawerCache_keepsParts h
  | setRemakeConsent => exact execSetRemakeConsent_keepsParts h
  | catalogDeliver => exact execCatalogDeliver_keepsParts h
  | startRun => exact execStartRun_keepsParts h
  | stopRun => exact execStopRun_keepsParts h
  | endRun => exact execEndRun_keepsParts h
  | publishRun => exact execPublishRun_keepsParts h
  | resumeRun => exact execResumeRun_keepsParts h
  | runStatus => exact execRunStatus_keepsParts h
  | setRunRate => exact execSetRunRate_keepsParts h
  | catalogStored => exact execCatalogStored_keepsParts h
  | setReduction => exact execSetReduction_keepsParts h
  | setThinning => exact execSetThinning_keepsParts h
  | reductionStatus => exact execReductionStatus_keepsParts h
  | memoryStatus => exact execMemoryStatus_keepsParts h
  | attest => exact execAttest_keepsParts h
  | addTenant => exact execAddTenant_keepsParts h
  | removeTenant => exact execRemoveTenant_keepsParts h
  | gloveClose => exact execGloveClose_keepsParts h
  | gloveOpen => exact execGloveOpen_keepsParts h
  | rotateGlove => exact execRotateGlove_keepsParts h
  | gloveStatus => exact execGloveStatus_keepsParts h
  | consentInstall => exact execConsentInstall_keepsParts h
  | consentRevoke => exact execConsentRevoke_keepsParts h
  | debugOpen => exact execDebugOpen_keepsParts h
  | debugClose => exact execDebugClose_keepsParts h
  | telemetryRead => exact execTelemetryRead_keepsParts h
  | resetCluster => exact execResetCluster_keepsParts h
  | resetDie => exact execResetDie_keepsParts h
  | resetCabinet => exact execResetCabinet_keepsParts h
  | resetComplete => exact execResetComplete_keepsParts h
  | setPolicy => exact execSetPolicy_keepsParts h
  | errorLogRead => exact execErrorLogRead_keepsParts h
  | reserveStatus => exact execReserveStatus_keepsParts h
  | claim => exact execClaim_keepsParts h
  | release => exact execRelease_keepsParts h
  | setEdgeAddr => exact execSetEdgeAddr_keepsParts h
  | setEdgeRings => exact execSetEdgeRings_keepsParts h
  | edgeStatus => exact execEdgeStatus_keepsParts h
  | undefinedOpcode => exact execUndefinedOpcode_keepsParts h
  | pigeonholeGo => exact execPigeonholeGo_keepsParts h
  | pigeonholeDone => exact execPigeonholeDone_keepsParts h
  | withdraw => exact execWithdraw_keepsParts h
  | pigeonholeOverrunClear => exact execPigeonholeOverrunClear_keepsParts h
  | pigeonholeIrqEn => exact execPigeonholeIrqEn_keepsParts h
  | doorbell _ _ v => exact execDoorbell_keepsParts h (x := v)
  | outTailWrite => exact execOutTailWrite_keepsParts h
  | inHeadWrite => exact execInHeadWrite_keepsParts h
  | trayOverrunClear => exact execTrayOverrunClear_keepsParts h
  | trayIrqEn => exact execTrayIrqEn_keepsParts h
  | registerWrite => exact execRegisterWrite_keepsParts h
  | heldResponseWrite => exact execHeldResponseWrite_keepsParts h
  | journalEntry => exact execJournalEntry_keepsParts h
  | journalAck => exact execJournalAck_keepsParts h
  | heartbeat => exact execHeartbeat_keepsParts h
  | heartbeatLost => exact execHeartbeatLost_keepsParts h
  | takeOverComplete => exact execTakeOverComplete_keepsParts h
  | servingRequest => exact execServingRequest_keepsParts h
  | admissionRetest => exact execAdmissionRetest_keepsParts h
  | fetchResume => exact execFetchResume_keepsParts h
  | fetchComplete => exact execFetchComplete_keepsParts h
  | remakeStart => exact execRemakeStart_keepsParts h
  | admitWaitExpiry => exact execAdmitWaitExpiry_keepsParts h
  | passStart => exact execPassStart_keepsParts h
  | panelBufferFill => exact execPanelBufferFill_keepsParts h
  | passEnd => exact execPassEnd_keepsParts h
  | boundaryRowsArrival => exact execBoundaryRowsArrival_keepsParts h
  | tokenIdsArrival => exact execTokenIdsArrival_keepsParts h
  | segmentEnd => exact execSegmentEnd_keepsParts h
  | shelfFwd => exact execShelfFwd_keepsParts h
  | shelfBwd => exact execShelfBwd_keepsParts h
  | seqScore => exact execSeqScore_keepsParts h
  | seqMix => exact execSeqMix_keepsParts h
  | slotGrad => exact execSlotGrad_keepsParts h
  | drawerMul => exact execDrawerMul_keepsParts h
  | scalePass2 => exact execScalePass2_keepsParts h
  | vectorDescriptor => exact execVectorDescriptor_keepsParts h
  | descriptorRetire => exact execDescriptorRetire_keepsParts h
  | vadd => exact execVadd_keepsParts h
  | vsub => exact execVsub_keepsParts h
  | vmul => exact execVmul_keepsParts h
  | vfma => exact execVfma_keepsParts h
  | vmin => exact execVmin_keepsParts h
  | vmax => exact execVmax_keepsParts h
  | vabs => exact execVabs_keepsParts h
  | vneg => exact execVneg_keepsParts h
  | vdiv => exact execVdiv_keepsParts h
  | vsqrt => exact execVsqrt_keepsParts h
  | vexp => exact execVexp_keepsParts h
  | vdexp => exact execVdexp_keepsParts h
  | vmuldiv => exact execVmuldiv_keepsParts h
  | vcmp => exact execVcmp_keepsParts h
  | mand => exact execMand_keepsParts h
  | mor => exact execMor_keepsParts h
  | mnot => exact execMnot_keepsParts h
  | mrange => exact execMrange_keepsParts h
  | vsel => exact execVsel_keepsParts h
  | vbcast => exact execVbcast_keepsParts h
  | vand => exact execVand_keepsParts h
  | vor => exact execVor_keepsParts h
  | vxor => exact execVxor_keepsParts h
  | vshl => exact execVshl_keepsParts h
  | vshr => exact execVshr_keepsParts h
  | vsra => exact execVsra_keepsParts h
  | vcvt => exact execVcvt_keepsParts h
  | vred => exact execVred_keepsParts h
  | vsplit => exact execVsplit_keepsParts h
  | vjoin => exact execVjoin_keepsParts h
  | vgetf => exact execVgetf_keepsParts h
  | vld => exact execVld_keepsParts h
  | vst => exact execVst_keepsParts h
  | vldb => exact execVldb_keepsParts h
  | vldmx => exact execVldmx_keepsParts h
  | vstmx => exact execVstmx_keepsParts h
  | vfbld => exact execVfbld_keepsParts h
  | vfbst => exact execVfbst_keepsParts h
  | tld => exact execTld_keepsParts h
  | tst => exact execTst_keepsParts h
  | contributionReady => exact execContributionReady_keepsParts h
  | hatbandItem => exact execHatbandItem_keepsParts h
  | deadline => exact execDeadline_keepsParts h
  | ownerReady => exact execOwnerReady_keepsParts h
  | commitPoint => exact execCommitPoint_keepsParts h
  | hopBroken => exact execHopBroken_keepsParts h
  | latticePacket => exact execLatticePacket_keepsParts h
  | sectorRead => exact execSectorRead_keepsParts h
  | sectorWrite => exact execSectorWrite_keepsParts h
  | mergeFlush => exact execMergeFlush_keepsParts h
  | hbmApertureRead => exact execHbmApertureRead_keepsParts h
  | hbmApertureWrite => exact execHbmApertureWrite_keepsParts h
  | allocationFill => exact execAllocationFill_keepsParts h
  | sweepStep => exact execSweepStep_keepsParts h
  | patrolScrub => exact execPatrolScrub_keepsParts h
  | onDieRead => exact execOnDieRead_keepsParts h
  | gloveChangeAck => exact execGloveChangeAck_keepsParts h
  | gloveInstallationAck => exact execGloveInstallationAck_keepsParts h
  | gloveErasureAck => exact execGloveErasureAck_keepsParts h
  | drainConfirm => exact execDrainConfirm_keepsParts h
  | frameReceive => exact execFrameReceive_keepsParts h
  | txRingPoll => exact execTxRingPoll_keepsParts h
  | sessionInit => exact execSessionInit_keepsParts h
  | dataRecord => exact execDataRecord_keepsParts h
  | ackRecord => exact execAckRecord_keepsParts h
  | closeRecord => exact execCloseRecord_keepsParts h
  | recordResend => exact execRecordResend_keepsParts h
  | ackTimer => exact execAckTimer_keepsParts h
  | fragmentTimeout => exact execFragmentTimeout_keepsParts h
  | getVersion => exact execGetVersion_keepsParts h
  | getCapabilities => exact execGetCapabilities_keepsParts h
  | negotiateAlgorithms => exact execNegotiateAlgorithms_keepsParts h
  | getDigests => exact execGetDigests_keepsParts h
  | getCertificate => exact execGetCertificate_keepsParts h
  | challenge => exact execChallenge_keepsParts h
  | getMeasurements => exact execGetMeasurements_keepsParts h
  | spdmUnsupportedRequest => exact execSpdmUnsupportedRequest_keepsParts h
  | faultReport => exact execFaultReport_keepsParts h
  | linkEvent => exact execLinkEvent_keepsParts h
  | edgeEvent => exact execEdgeEvent_keepsParts h
  | thermalWarn => exact execThermalWarn_keepsParts h
  | thermalWarnRepeat => exact execThermalWarnRepeat_keepsParts h
  | thermalTrip => exact execThermalTrip_keepsParts h
  | generalTimerExpiry => exact execGeneralTimerExpiry_keepsParts h
  | tokenInForce => exact execTokenInForce_keepsParts h
  | tokenExpiry => exact execTokenExpiry_keepsParts h
  | powerWindow => exact execPowerWindow_keepsParts h
  | temperatureWindow => exact execTemperatureWindow_keepsParts h
  | counterSample => exact execCounterSample_keepsParts h
  | throttleStep => exact execThrottleStep_keepsParts h
  | throttleHeld => exact execThrottleHeld_keepsParts h
  | bladeInRating => exact execBladeInRating_keepsParts h
  | inputTurnOn => exact execInputTurnOn_keepsParts h
  | inputTurnOff => exact execInputTurnOff_keepsParts h
  | overvoltage => exact execOvervoltage_keepsParts h
  | powerFault => exact execPowerFault_keepsParts h
  | modResetNAssert => exact execModResetNAssert_keepsParts h
  | modResetNRelease => exact execModResetNRelease_keepsParts h
  | startLimit => exact execStartLimit_keepsParts h
  | refclkSwitch => exact execRefclkSwitch_keepsParts h
  | ppsIn => exact execPpsIn_keepsParts h
  | ptpLock => exact execPtpLock_keepsParts h
  | holdover => exact execHoldover_keepsParts h
  | powerLimitWatts => exact execPowerLimitWatts_keepsParts h
  | activePreference => exact execActivePreference_keepsParts h
  | startLimitSeconds => exact execStartLimitSeconds_keepsParts h
  | operatorKeyId => exact execOperatorKeyId_keepsParts h
  | controlDiePower => exact execControlDiePower_keepsParts h
  | controlDieReset => exact execControlDieReset_keepsParts h
  | updateService => exact execUpdateService_keepsParts h
  | activationStoreBlockZeroing => exact execActivationStoreBlockZeroing_keepsParts h
  | linkUp => exact execLinkUp_keepsParts h

theorem step_hasParts (h : s.hasParts) (e : step s = .next t) : t.hasParts := by
  unfold step at e
  split at e
  · cases e
    unfold State.idle
    exact h.frame.ite h
  next c rest _ => exact exec_keepsParts (s := { s with pending := rest }) h c t e

/-- Settles O5: `exec_keepsParts` says of each command that it keeps the parts. -/
theorem stepKeepsParts : Obligations.StepKeepsParts :=
  fun _ _ h e => State.shape_iff_hasParts.2 (step_hasParts (State.shape_iff_hasParts.1 h) e)

end Sys2Proof.Machine
end

section
/-!
SUPPORT. One reduction of the step in flight at work: what is read back after it changes, what follows a change of it, and when a
send queue moves (R298, R304, R305, R320).
-/

namespace Sys2Proof.Machine

variable {s : State} {x z : Reduction} {id : BitVec 24} {d : Die}

/-! ## The first element that passes a test, changed -/

section UpdFirst

variable {α : Type} {p q : α → Bool} {f g : α → α} {a : α} {l : List α}

theorem updFirst_append_cons {as bs : List α} (has : ∀ b ∈ as, p b = false) (ha : p a = true) :
    updFirst p f (as ++ a :: bs) = as ++ f a :: bs := by
  induction as with
  | nil => simp [updFirst, ha]
  | cons b as ih => simp [updFirst, has b (by simp), ih fun c hc => has c (by simp [hc])]

/-- The change takes place between the elements before the first that passes, none of which does, and the others. -/
theorem updFirst_of_find? (h : l.find? p = some a) : ∃ as bs, l = as ++ a :: bs ∧ (∀ b ∈ as, p b = false) ∧
    ∀ f, updFirst p f l = as ++ f a :: bs := by
  obtain ⟨ha, as, bs, rfl, has⟩ := List.find?_eq_some_iff_append.1 h
  have has : ∀ b ∈ as, p b = false := by simpa using has
  exact ⟨as, bs, rfl, has, fun f => updFirst_append_cons has ha⟩

theorem find?_updFirst (h : l.find? p = some a) (hf : p (f a) = true) : (updFirst p f l).find? p = some (f a) := by
  obtain ⟨as, bs, -, has, hu⟩ := updFirst_of_find? h
  rw [hu, List.find?_eq_some_iff_append]
  exact ⟨hf, as, bs, rfl, by simpa using has⟩

theorem updFirst_updFirst (h : l.find? p = some a) (hf : p (f a) = true) :
    updFirst p g (updFirst p f l) = updFirst p (fun _ => g (f a)) l := by
  obtain ⟨as, bs, -, has, hu⟩ := updFirst_of_find? h
  rw [hu, hu, updFirst_append_cons has hf]

theorem eq_or_mem_of_mem_updFirst {b : α} (h : l.find? p = some a) (hb : b ∈ updFirst p f l) : b = f a ∨ b ∈ l := by
  obtain ⟨as, bs, rfl, -, hu⟩ := updFirst_of_find? h
  rw [hu] at hb
  simp only [List.mem_append, List.mem_cons] at hb ⊢
  tauto

/-- Where only the element that changes passes a second test, it alone is left by it. -/
theorem filter_updFirst_eq_singleton (h : l.find? p = some a) (ha : q (f a) = true) (hq : ∀ b ∈ l, q b = false) :
    (updFirst p f l).filter q = [f a] := by
  obtain ⟨as, bs, rfl, -, hu⟩ := updFirst_of_find? h
  have has : as.filter q = [] := List.filter_eq_nil_iff.2 fun b hb => by simp [hq b (by simp [hb])]
  have hbs : bs.filter q = [] := List.filter_eq_nil_iff.2 fun b hb => by simp [hq b (by simp [hb])]
  simp [hu, has, hbs, ha]

theorem any_updFirst (h : l.find? p = some a) (ha : q (f a) = q a) : (updFirst p f l).any q = l.any q := by
  obtain ⟨as, bs, rfl, -, hu⟩ := updFirst_of_find? h
  simp [hu, ha]

end UpdFirst

/-! ## Bitmaps of dies -/

@[simp] theorem hasDie_or (m n : BitVec 16) (k : Nat) : hasDie (m ||| n) k = (hasDie m k || hasDie n k) := BitVec.getLsbD_or ..

@[simp] theorem hasDie_mapOf_self (d : Die) : hasDie (mapOf [d]) d.val = true := by
  revert d
  decide

theorem hasDie_and {m n : BitVec 16} {k : Nat} (h : hasDie m k = false) : hasDie (m &&& n) k = false := by
  simp only [hasDie] at h ⊢
  simp [h]

/-! ## Reading a reduction back -/

theorem red?_id (h : s.red? id = some x) : x.id = id := by
  have := List.find?_some h
  simp_all

theorem red?_era (h : s.red? id = some x) : x.era = 0 := by
  have := List.find?_some h
  simp_all

theorem red?_mem (h : s.red? id = some x) : x ∈ s.reductions := List.mem_of_find?_eq_some h

theorem red?_modRed {f : Reduction → Reduction} (h : s.red? id = some x) (hid : (f x).id = id) (hera : (f x).era = 0) :
    (s.modRed id f).red? id = some (f x) := find?_updFirst h (by simp [hid, hera])

theorem modRed_modRed {f g : Reduction → Reduction} (h : s.red? id = some x) (hid : (f x).id = id) (hera : (f x).era = 0) :
    (s.modRed id f).modRed id g = s.modRed id fun _ => g (f x) :=
  congrArg (fun l => ({ s with reductions := l } : State)) (updFirst_updFirst h (by simp [hid, hera]))

/-! ## Descriptors that open -/

/-- A reduction as opening descriptors leaves it (R298, R320): it may open or fail, and keeps what it holds. -/
def Reduction.Opens (x w : Reduction) : Prop :=
  ∃ op st c ct, w = { x with opened := op, state := st, cause := c, closeTime := ct }

theorem mem_foldl_append {α : Type} {R : α → α → Prop} {f : List α → α → List α} (hf : ∀ acc a, ∃ b, f acc a = acc ++ [b] ∧ R a b)
    (l acc : List α) : (∀ a ∈ acc, a ∈ l.foldl f acc) ∧ ∀ a ∈ l, ∃ b ∈ l.foldl f acc, R a b := by
  induction l generalizing acc with
  | nil => simp
  | cons c l ih =>
    obtain ⟨b, hb, hr⟩ := hf acc c
    obtain ⟨hacc, hl⟩ := ih (acc ++ [b])
    rw [List.foldl_cons, hb]
    refine ⟨fun a ha => hacc a (by simp [ha]), fun a ha => ?_⟩
    obtain rfl | ha := List.mem_cons.1 ha
    · exact ⟨b, hacc b (by simp), hr⟩
    · exact hl a ha

/-- A reduction stays where descriptors open; with fewer than two broken hops, or closed, none fails by it. -/
theorem mem_openReductions (h : x ∈ s.reductions) : ∃ w ∈ s.openReductions.reductions, x.Opens w ∧
    (x.state ≠ 0 ∨ s.brokenHops < 2 → w.state = x.state ∧ w.cause = x.cause) := by
  unfold State.openReductions
  extract_lets openAt rs bad
  have hrs : ∀ a ∈ s.reductions, ∃ b ∈ rs, ∃ o, b = { a with opened := o } := by
    refine (mem_foldl_append (fun acc a => ?_) _ []).2
    split
    · exact ⟨_, rfl, true, rfl⟩
    · exact ⟨_, rfl, a.opened, rfl⟩
  obtain ⟨y, hy, o, rfl⟩ := hrs x h
  refine ⟨_, List.mem_map_of_mem hy, ?_, fun hs => ?_⟩
  · split
    · exact ⟨_, _, _, _, rfl⟩
    · exact ⟨_, x.state, x.cause, x.closeTime, rfl⟩
  · have hbad : bad { x with opened := o } = false := by
      simp only [bad]
      obtain hs | hs := hs
      · simp [hs]
      · simp [Nat.not_le.2 hs]
    simp [hbad]

/-! ## What follows a change of a reduction -/

/-- A reduction that has not failed, and has tokens if it is done, does not end its step. -/
theorem afterRed_of_goesOn (h : s.red? id = some x) (hst : x.state ≠ 2) (htok : x.noTokens = false) :
    s.afterRed id = s.openReductions := by
  simp [State.afterRed, h, hst, htok]

/-- What stands once reduction `x` has become `z`: nothing but reductions, and the order of the items on their legs, differs, and `z` is
there, but for what opening descriptors does to it. -/
structure State.BecomesIn (s : State) (z : Reduction) (t : State) : Prop where
  frame : ({ t with reductions := s.reductions, hopOrder := s.hopOrder } : State) = s
  stands : ∃ w ∈ t.reductions, z.Opens w ∧ (z.state ≠ 0 ∨ s.brokenHops < 2 → w.state = z.state ∧ w.cause = z.cause)

theorem becomesIn_afterRed {f : Reduction → Reduction} (h : s.red? id = some x) (hz : f x = z) (hid : z.id = id) (hera : z.era = 0)
    (hst : z.state ≠ 2) (htok : z.noTokens = false) : s.BecomesIn z ((s.modRed id f).afterRed id) := by
  subst hz
  have hred := red?_modRed h hid hera
  rw [afterRed_of_goesOn hred hst htok]
  exact ⟨rfl, mem_openReductions (red?_mem hred)⟩

/-- A reduction that is still open goes on. -/
theorem becomesIn_afterRed_of_open {f : Reduction → Reduction} (h : s.red? id = some x) (hz : f x = z) (hid : z.id = id)
    (hera : z.era = 0) (h0 : z.state = 0) : s.BecomesIn z ((s.modRed id f).afterRed id) :=
  becomesIn_afterRed h hz hid hera (by simp [h0]) (by simp [Reduction.noTokens, h0])

/-- Keeping the order of the items on their legs changes no reduction. -/
theorem State.BecomesIn.trackItems {t : State} (h : s.BecomesIn z t) : s.BecomesIn z t.trackItems := ⟨h.frame, h.stands⟩

/-! ## Send queues -/

/-- The send queue of a direction holds nothing of a member: nothing is sent. -/
theorem pump_eq_self (h : s.red? id = some x) (hq : ∀ y ∈ s.reductions, y.run = x.run → hasDie y.queued d.val = false) :
    s.pump id d = s := by
  have hmine : (s.reductions.filter fun y => y.run == x.run && y.descending == x.descending && y.state == 0 && y.era == 0 &&
      hasDie y.queued d.val) = [] := List.filter_eq_nil_iff.2 fun y hy => by
    have := hq y hy
    grind
  simp [State.pump, h, hmine, minBy]

/-- A contribution that is queued alone on a free port is sent at once. -/
theorem pump_queued {f : Reduction → Reduction} {i : Item} (h : s.red? id = some x) (hrun : (f x).run = x.run)
    (hid : (f x).id = id) (hera : (f x).era = 0) (hst : (f x).state = 0) (hqd : hasDie (f x).queued d.val = true)
    (hbusy : (s.modRed id f).portBusy (f x) d = false)
    (hq : ∀ y ∈ s.reductions, y.run = x.run → y.era = 0 → hasDie y.queued d.val = false)
    (hi : (s.modRed id f).itemOf (f x) d = some i) :
    (s.modRed id f).pump id d = s.modRed id fun _ => ({ f x with queued := (f x).queued &&& ~~~dieBit d } : Reduction).send d i := by
  have hmine : ((s.modRed id f).reductions.filter fun y => y.run == (f x).run && y.descending == (f x).descending && y.state == 0 &&
      y.era == 0 && hasDie y.queued d.val) = [f x] :=
    filter_updFirst_eq_singleton h (by simp [hst, hera, hqd]) fun y hy => by
      have := hq y hy
      grind
  rw [State.pump, red?_modRed h hid hera]
  simp only [hbusy, hmine, minBy, hi, Bool.false_eq_true, if_false]
  exact (congrArg (fun k => (s.modRed id f).modRed k _) hid).trans (modRed_modRed h hid hera)

end Sys2Proof.Machine
end

section
/-!
PROOF. Contributions enter a reduction (R301, R304, R305, R317).
-/

namespace Sys2Proof.Machine

variable {s : State} {x : Reduction} {die : Die} {red : BitVec 24} {r : Run} {y : RunDie} {img : DrawerImage}

/-! ## CONTRIBUTION_READY, case by case -/

/-- The bucket whose contribution CONTRIBUTION_READY means: of the step in flight or of the last committed one. -/
def State.readyRed? (s : State) (red : BitVec 24) : Option Reduction :=
  s.reductions.find? fun x => x.id == red && decide (x.era.val ≤ 1)

theorem red?_of_readyRed? (h : s.readyRed? red = some x) (hera : x.era = 0) : s.red? red = some x := by
  obtain ⟨hx, as, bs, hl, has⟩ := List.find?_eq_some_iff_append.1 h
  refine List.find?_eq_some_iff_append.2 ⟨by simp_all, as, bs, hl, fun a ha => ?_⟩
  have := has a ha
  grind

/-- A member's contribution counts (R301, R305): its bucket is open to it, it is the first of the member, and the member is ready. -/
structure State.Counts (s : State) (x : Reduction) (die : Die) (r : Run) (y : RunDie) : Prop where
  opened : x.opened = true
  member : die ∈ x.chain
  first : hasDie x.ready die.val = false
  ready : s.contributes r y = true

theorem execContributionReady_outOfService (h : (s.die die).inService = false) : execContributionReady die red s = .next s := by
  unfold execContributionReady
  split
  · rfl
  · split
    · rfl
    · split
      · rfl
      · simp [h]

section InService

variable (hx : s.readyRed? red = some x) (hr : s.run? x.run = some r) (hy : r.onDie die = some y) (hst : x.state ≠ 2)
  (hsvc : (s.die die).inService = true)
include hx hr hy hst hsvc

theorem execContributionReady_notCounted (h : ¬s.Counts x die r y) : execContributionReady die red s = .next s := by
  have hcond : (!x.opened || !x.chain.contains die || hasDie x.ready die.val || !s.contributes r y) = true := by
    by_contra hc
    simp only [Bool.not_eq_true, Bool.or_eq_false_iff, Bool.not_eq_false', List.contains_iff_mem] at hc
    obtain ⟨⟨⟨ho, hm⟩, hf⟩, hc⟩ := hc
    exact h ⟨ho, hm, hf, hc⟩
  rw [State.readyRed?] at hx
  simp only [execContributionReady, hx, hr, hy, hst, hsvc, hcond, if_true]
  simp

theorem execContributionReady_late (h : s.Counts x die r y) (hm : hasDie x.marked die.val = true) :
    execContributionReady die red s =
      .next { s with reductions := updFirst (fun z => z == x) (fun z => { z with late := z.late ||| dieBit die }) s.reductions } := by
  rw [State.readyRed?] at hx
  simp [execContributionReady, hx, hr, hy, hst, hsvc, hm, h.opened, h.member, h.first, h.ready]

theorem execContributionReady_closed (h : s.Counts x die r y) (hm : hasDie x.marked die.val = false) (hc : x.state ≠ 0 ∨ x.era ≠ 0) :
    execContributionReady die red s = .next s := by
  have hc : (x.state != 0 || x.era != 0) = true := by simpa [-not_and] using hc
  rw [State.readyRed?] at hx
  simp only [execContributionReady, hx, hr, hy, hst, hsvc, hm, hc, h.first, h.opened, h.ready, List.contains_iff_mem.2 h.member]
  simp

/-- The member is ready, and the bucket's first one opens its time (R301, R317). -/
def Reduction.readied (x : Reduction) (die : Die) (now : Nat) : Reduction :=
  { x with ready := x.ready ||| dieBit die, openTime := if x.ready = 0 then now else x.openTime }

omit hst in
theorem execContributionReady_enters (h : s.Counts x die r y) (hm : hasDie x.marked die.val = false) (h0 : x.state = 0) (hera : x.era = 0)
    {i : Item} (hi : s.itemOf x die = some i) (himg : s.runSlotImage r = some img) :
    execContributionReady die red s = .next (if x.chain.length ≤ 1 then (s.closeAlone x i (s.contribution r img x y)).afterRed x.id
      else (((s.modRed x.id fun z => z.readied die s.now).enter x die i).afterRed x.id).trackItems) := by
  rw [State.readyRed?] at hx
  simp only [execContributionReady, hx, hr, hy, hsvc, hm, h0, hera, h.first, h.opened, h.ready, List.contains_iff_mem.2 h.member, hi,
    himg]
  simp [Reduction.readied]

end InService

/-! ## How a contribution enters -/

/-- A member's contribution to a bucket as an item, its run and its drawer's image given. -/
theorem itemOf_eq_newItem (hr : s.run? x.run = some r) (hy : r.onDie die = some y) (himg : s.runSlotImage r = some img) :
    s.itemOf x die = some (newItem x.wire.val x.headroom die (s.contribution r img x y) y.tokens) := by
  simp [State.itemOf, hr, hy, himg]

@[simp] theorem newItem_tokens (wire h : Nat) (d : Die) (c : List Nat) (tokens : Nat) : (newItem wire h d c tokens).tokens = tokens := rfl

/-- An item of a member's contribution on its way to the next member (R304). -/
def Reduction.sent (x : Reduction) (die : Die) (i : Item) : Item := { i with nextHop := x.next die, waiting := false }

/-- Alone on its chain, a contribution is the result at once (R301). -/
theorem closeAlone_becomes {i : Item} {codes : List Nat} (hred : s.red? red = some x) (hi : i.tokens ≠ 0) : ∃ z : Reduction,
    s.BecomesIn z ((s.closeAlone x i codes).afterRed red) ∧ z.id = red ∧ z.era = 0 ∧ z.state = 1 ∧
      z.result = codes.map (fun c => BitVec.ofNat 42 c) ∧ z.acc = some i := by
  obtain rfl := red?_id hred
  have hera := red?_era hred
  exact ⟨_, becomesIn_afterRed hred rfl rfl hera (by simp) (by simp [Reduction.noTokens, Reduction.tokens, hi]), rfl, hera, rfl, rfl, rfl⟩

/-- A bucket to which member `die` has just sent its item (R304). -/
structure Reduction.HasSent (x : Reduction) (die : Die) (i : Item) (z : Reduction) : Prop where
  id : z.id = x.id
  era : z.era = 0
  ready : hasDie z.ready die.val = true
  items : z.items = x.items ++ [x.sent die i]

section Enters

variable (hred : s.red? red = some x) (h0 : x.state = 0)
include hred h0

/-- In an ordered chain the first member sends at once (R305). -/
theorem enter_head_becomes {i : Item} (ho : x.ordered = true) (hh : x.chain.head? = some die) : ∃ z : Reduction, x.HasSent die i z ∧
    s.BecomesIn z ((((s.modRed red fun z => z.readied die s.now).enter x die i).afterRed red).trackItems) := by
  obtain rfl := red?_id hred
  have hera := red?_era hred
  have henter : (s.modRed x.id fun z => z.readied die s.now).enter x die i =
      s.modRed x.id fun _ => (x.readied die s.now).send die i := by
    simp only [State.enter, ho, hh, if_true]
    exact modRed_modRed hred rfl hera
  rw [henter]
  exact ⟨(x.readied die s.now).send die i, ⟨rfl, hera, by simp [Reduction.readied, Reduction.send, dieBit], rfl⟩,
    .trackItems (becomesIn_afterRed_of_open hred rfl rfl hera h0)⟩

/-- Elsewhere a member sends at once where its port is free and its queue empty (R304). -/
theorem enter_free_becomes {i : Item} (ho : x.ordered = false) (hown : die ≠ x.owner) (hbusy : s.portBusy x die = false)
    (hq : ∀ z ∈ s.reductions, z.run = x.run → z.era = 0 → hasDie z.queued die.val = false) (hi : s.itemOf x die = some i) :
    ∃ z : Reduction, x.HasSent die i z ∧
      s.BecomesIn z ((((s.modRed red fun z => z.readied die s.now).enter x die i).afterRed red).trackItems) := by
  obtain rfl := red?_id hred
  have hera := red?_era hred
  let q : Reduction := { x.readied die s.now with queued := x.queued ||| dieBit die }
  have hqueue : (s.modRed x.id fun z => z.readied die s.now).modRed x.id (fun z => { z with queued := z.queued ||| dieBit die }) =
      s.modRed x.id fun _ => q := modRed_modRed hred rfl hera
  have hport : (s.modRed x.id fun _ => q).portBusy q die = false := (any_updFirst hred rfl).trans hbusy
  have henter : (s.modRed x.id fun z => z.readied die s.now).enter x die i =
      s.modRed x.id fun _ => ({ q with queued := q.queued &&& ~~~dieBit die } : Reduction).send die i := by
    simp only [State.enter, ho, hown, Bool.false_eq_true, if_false, hqueue]
    exact pump_queued hred rfl rfl hera h0 (by simp [q, dieBit]) hport hq hi
  rw [henter]
  exact ⟨({ q with queued := q.queued &&& ~~~dieBit die } : Reduction).send die i,
    ⟨rfl, hera, by simp [q, Reduction.readied, Reduction.send, dieBit], rfl⟩,
    .trackItems (becomesIn_afterRed_of_open hred rfl rfl hera h0)⟩

end Enters

theorem Reduction.HasSent.stands {i : Item} {z : Reduction} {t : State} (h : x.HasSent die i z) (ht : s.BecomesIn z t) :
    ∃ w ∈ t.reductions, w.id = x.id ∧ w.era = 0 ∧ hasDie w.ready die.val = true ∧ w.items = x.items ++ [x.sent die i] := by
  obtain ⟨w, hw, ⟨_, _, _, _, rfl⟩, -⟩ := ht.stands
  exact ⟨_, hw, h.id, h.era, h.ready, h.items⟩

theorem contributionsEnter : ContributionsEnter := by
  intro s die red
  have hexec : ∀ {u : State} {P : State → Prop}, execContributionReady die red s = .next u → P u →
      Answers (.contributionReady die red) s P := fun h hp => ⟨_, h, hp⟩
  refine ⟨fun h => hexec ?_ rfl, fun x h hr => hexec ?_ rfl, fun h => hexec (execContributionReady_outOfService h) rfl,
    fun x r y hx hr hy hst hsvc => ?_⟩
  · simp only [execContributionReady, h]
  · simp only [execContributionReady, h, hr]
  have hx : s.readyRed? red = some x := hx
  intro counts
  have hcounts : counts → s.Counts x die r y := fun ⟨ho, hm, hf, hc⟩ => ⟨ho, hm, hf, hc⟩
  refine ⟨fun h => hexec (execContributionReady_notCounted hx hr hy hst hsvc fun hc => h ⟨hc.1, hc.2, hc.3, hc.4⟩) rfl,
    fun h hm => hexec (execContributionReady_late hx hr hy hst hsvc (hcounts h) hm) rfl, fun h hm =>
    ⟨fun hc => hexec (execContributionReady_closed hx hr hy hst hsvc (hcounts h) hm hc) rfl, fun img h0 hera himg => ?_⟩⟩
  intro codes frame
  have hred := red?_of_readyRed? hx hera
  obtain rfl := red?_id hred
  have hi := itemOf_eq_newItem hr hy himg
  have he := execContributionReady_enters hx hr hy hsvc (hcounts h) hm h0 hera hi himg
  refine ⟨fun hl ht => hexec (he.trans (congrArg _ (if_pos hl))) ?_,
    fun hl ho hown hb hq => hexec (he.trans (congrArg _ (if_neg (by omega)))) ?_,
    fun hl ho hh => hexec (he.trans (congrArg _ (if_neg (by omega)))) ?_⟩
  · obtain ⟨z, hz, hid, hze, hzs, hzr, hza⟩ := closeAlone_becomes
      (i := newItem x.wire.val x.headroom die codes y.tokens) (codes := codes) hred ht
    obtain ⟨w, hw, ⟨_, _, _, _, rfl⟩, hs⟩ := hz.stands
    exact ⟨hz.frame, _, hw, hid, hze, (hs (.inl (by simp [hzs]))).1.trans hzs, hzr, by simp [Reduction.tokens, hza]⟩
  · obtain ⟨z, hz, hs⟩ := enter_free_becomes hred h0 ho hown hb hq hi
    exact ⟨hs.frame, hz.stands hs⟩
  · obtain ⟨z, hz, hs⟩ := enter_head_becomes hred h0 ho hh
    exact ⟨hs.frame, hz.stands hs⟩

end Sys2Proof.Machine
end

section
/-!
PROOF. Items meet the members of a reduction (R296, R304, R305).
-/

namespace Sys2Proof.Machine

variable {s : State} {x z : Reduction} {red : BitVec 24} {origin : Die} {i : Item}

/-! ## What an item's meeting with a member leaves of a reduction -/

/-- The reduction and its queues are the same, whatever became of its items and its result: at most, queued members have left. -/
structure Reduction.SameDescriptor (x z : Reduction) : Prop where
  id : z.id = x.id
  run : z.run = x.run
  era : z.era = x.era
  queued : ∀ k, hasDie x.queued k = false → hasDie z.queued k = false

theorem Reduction.sameDescriptor_settle (x : Reduction) (now : Nat) : x.SameDescriptor (x.settle now) := by
  unfold Reduction.settle
  split
  · exact ⟨rfl, rfl, rfl, fun _ h => h⟩
  · dsimp only
    split <;> exact ⟨rfl, rfl, rfl, fun _ h => h⟩

theorem Reduction.SameDescriptor.pass (h : x.SameDescriptor z) (d : Die) (i : Item) (now : Nat) : x.SameDescriptor (z.pass d i now) := by
  unfold Reduction.pass
  split
  · obtain ⟨hid, hrun, hera, hq⟩ := (z.take i).sameDescriptor_settle now
    exact ⟨hid.trans h.id, hrun.trans h.run, hera.trans h.era, fun k hk => hq k (h.queued k hk)⟩
  · exact ⟨h.id, h.run, h.era, h.queued⟩

/-- The reduction with an item taken off its leg. -/
def Reduction.without (x : Reduction) (i : Item) : Reduction := { x with items := x.items.filter fun k => k != i }

theorem Reduction.sameDescriptor_without (x : Reduction) (i : Item) : x.SameDescriptor (x.without i) := ⟨rfl, rfl, rfl, fun _ h => h⟩

/-! ## HATBAND_ITEM, case by case -/

/-- What becomes of a reduction whose item `i` reaches a member (R304, R305): the five cases that the statement names. -/
inductive State.Meets (s : State) (x : Reduction) (i : Item) : Reduction → Prop where
  | ready (ho : x.ordered = true) (hr : hasDie x.ready i.nextHop.val = true) :
    s.Meets x i ((x.without i).pass i.nextHop (s.addAt x i.nextHop i) s.now)
  | marked (ho : x.ordered = true) (hr : hasDie x.ready i.nextHop.val = false) (hm : hasDie x.marked i.nextHop.val = true) :
    s.Meets x i ((x.without i).pass i.nextHop (s.markItem x i.nextHop i) s.now)
  | waits (ho : x.ordered = true) (hr : hasDie x.ready i.nextHop.val = false) (hm : hasDie x.marked i.nextHop.val = false) :
    s.Meets x i { x.without i with items := (x.without i).items ++ [{ i with waiting := true }] }
  | queued (ho : x.ordered = false) (hq : hasDie x.queued i.nextHop.val = true) :
    s.Meets x i (({ x.without i with queued := x.queued &&& ~~~dieBit i.nextHop } : Reduction).pass i.nextHop
      (s.addAt x i.nextHop i) s.now)
  | passes (ho : x.ordered = false) (hq : hasDie x.queued i.nextHop.val = false) :
    s.Meets x i ((x.without i).pass i.nextHop i s.now)

theorem State.Meets.sameDescriptor (h : s.Meets x i z) : x.SameDescriptor z := by
  cases h with
  | ready | marked | passes => exact (x.sameDescriptor_without i).pass _ _ _
  | waits => exact ⟨rfl, rfl, rfl, fun _ h => h⟩
  | queued =>
    have hsame : x.SameDescriptor { x.without i with queued := x.queued &&& ~~~dieBit i.nextHop } :=
      ⟨rfl, rfl, rfl, fun _ h => hasDie_and h⟩
    exact hsame.pass _ _ _

section Arrives

variable (hred : s.red? red = some x) (hi : (x.items.find? fun i => i.origin == origin && !i.waiting) = some i)
  (hov : s.overtakes x i = false) (h0 : x.state = 0)
include hred hi hov h0

theorem execHatbandItem_meets (h : s.Meets x i z) : execHatbandItem red origin s =
    .next ((((s.modRed red fun _ => z).pump red (x.prev i.nextHop)).afterRed red).trackItems) := by
  cases h with
  | ready ho hr => simp [execHatbandItem, Reduction.without, hred, hi, hov, h0, ho, hr]
  | marked ho hr hm => simp [execHatbandItem, Reduction.without, hred, hi, hov, h0, ho, hr, hm]
  | waits ho hr hm => simp [execHatbandItem, Reduction.without, hred, hi, hov, h0, ho, hr, hm]
  | queued ho hq => simp [execHatbandItem, Reduction.without, hred, hi, hov, h0, ho, hq]
  | passes ho hq => simp [execHatbandItem, Reduction.without, hred, hi, hov, h0, ho, hq]

/-- Where the member before it holds nothing back, the reduction stands as the meeting leaves it. -/
theorem execHatbandItem_becomes (h : s.Meets x i z) (hst : z.state ≠ 2) (htok : ¬(z.state = 1 ∧ z.tokens = 0))
    (hq : ∀ w ∈ s.reductions, w.run = x.run → hasDie w.queued (x.prev i.nextHop).val = false) :
    ∃ t, execHatbandItem red origin s = .next t ∧ s.BecomesIn z t := by
  obtain ⟨hid, hrun, hera, hzq⟩ := h.sameDescriptor
  have hid := hid.trans (red?_id hred)
  have hera := hera.trans (red?_era hred)
  have hpump : (s.modRed red fun _ => z).pump red (x.prev i.nextHop) = s.modRed red fun _ => z :=
    pump_eq_self (red?_modRed hred hid hera) fun w hw hwr => by
      obtain rfl | hw := eq_or_mem_of_mem_updFirst hred hw
      · exact hzq _ (hq x (red?_mem hred) rfl)
      · exact hq w hw (hwr.trans hrun)
  have hnt : z.noTokens = false := by simpa [Reduction.noTokens] using htok
  refine ⟨_, execHatbandItem_meets hred hi hov h0 h, ?_⟩
  rw [hpump]
  exact .trackItems (becomesIn_afterRed hred rfl hid hera hst hnt)

end Arrives

theorem itemsMeetMembers : ItemsMeetMembers := by
  intro s red origin
  have hexec : ∀ {u : State} {P : State → Prop}, execHatbandItem red origin s = .next u → P u → Answers (.hatbandItem red origin) s P :=
    fun h hp => ⟨_, h, hp⟩
  refine ⟨fun h => hexec ?_ rfl, fun x hred => ⟨fun h => hexec ?_ rfl, fun i hi hov => hexec ?_ rfl, fun i z hi hov h0 => ?_⟩⟩
  · simp only [execHatbandItem, h]
  · simp only [execHatbandItem, hred, h]
  · simp only [execHatbandItem, hred, hi, hov, if_true]
  intro m x0 met case_ hcase hst htok hhops hq
  have hmeets : s.Meets x i z := by
    obtain ⟨ho, hr, rfl⟩ | ⟨ho, hr, hm, rfl⟩ | ⟨ho, hr, hm, rfl⟩ | ⟨ho, hq, rfl⟩ | ⟨ho, hq, rfl⟩ := hcase
    · exact .ready ho hr
    · exact .marked ho hr hm
    · exact .waits ho hr hm
    · exact .queued ho hq
    · exact .passes ho hq
  obtain ⟨t, ht, hz⟩ := execHatbandItem_becomes hred hi hov h0 hmeets hst htok hq
  obtain ⟨hid, -, hera, -⟩ := hmeets.sameDescriptor
  obtain ⟨w, hw, ⟨_, _, _, _, rfl⟩, hs⟩ := hz.stands
  obtain ⟨hws, hwc⟩ := hs (.inr hhops)
  exact hexec ht ⟨hz.frame, _, hw, hid.trans (red?_id hred), hera.trans (red?_era hred), rfl, rfl, rfl, hws, rfl, hwc⟩

/-- Settles O48: what follows a change of a reduction is `becomesIn_afterRed`, when a send queue moves `pump_queued` and
`pump_eq_self`. -/
theorem itemsTravel : Obligations.ItemsTravel := ⟨contributionsEnter, itemsMeetMembers⟩

end Sys2Proof.Machine
end
section
/-!
SUPPORT. What the body of an Ilnil command that goes through starts from, and what is read off it: a state that differs from the one
before in messages only, in which the journal holds the request.
-/

namespace Sys2Proof.Machine

variable {s t u : State} {r : Reply} {info : CmdInfo} {src : Src} {req : Req} {i : Instr}

/-! ## Reading a state without its messages -/

/-- What reads no message is the same in two states that differ in messages only. -/
theorem eq_of_quiet {α : Type} {f : State → α} (hf : ∀ s : State, f s.quiet = f s) (h : t.quiet = s.quiet) : f t = f s := by
  rw [← hf t, ← hf s, h]

theorem CtDie.getD_quiet (l : List CtDie) (n : Nat) :
    ((l.map CtDie.quiet).getD n CtDie.reset).quiet = (l.getD n CtDie.reset).quiet := by
  simp only [List.getD_eq_getElem?_getD, List.getElem?_map]
  cases l[n]? <;> rfl

/-- What reads a control die but for its channels. -/
theorem ctField_quiet {α : Type} {f : CtDie → α} (hf : ∀ x, f x.quiet = f x) (s : State) (c : Ct) : f (s.quiet.ct c) = f (s.ct c) := by
  have hq : (s.quiet.ct c).quiet = (s.ct c).quiet := CtDie.getD_quiet s.cts c.val
  rw [← hf, hq, hf]

theorem side_quiet (s : State) (c : Ct) : s.quiet.side c = s.side c := ctField_quiet (f := fun x => x.side.val) (fun _ => rfl) s c

theorem ctServes_quiet (s : State) (c : Ct) : s.quiet.ctServes c = s.ctServes c :=
  ctField_quiet (f := fun x => x.reached8 && x.side.val ≤ 2) (fun _ => rfl) s c

theorem EdgeSt.getD_quiet (l : List EdgeSt) (n : Nat) :
    (l.map EdgeSt.quiet).getD n EdgeSt.reset = (l.getD n EdgeSt.reset).quiet := by
  simp only [List.getD_eq_getElem?_getD, List.getElem?_map]
  cases l[n]? <;> rfl

@[simp] theorem edge_quiet (s : State) (e : Edge) : s.quiet.edge e = (s.edge e).quiet := EdgeSt.getD_quiet s.edges e.val

/-! ## Changing a state without its messages -/

theorem map_updAt_comm {α β : Type} {g : α → β} {f : α → α} {k : β → β} (h : ∀ x, g (f x) = k (g x)) (i : Nat) (l : List α) :
    (updAt i f l).map g = updAt i k (l.map g) := by
  induction l generalizing i with
  | nil => simp [updAt]
  | cons a as ih => cases i <;> simp [updAt, h, ih]

theorem modCt_quiet {f : CtDie → CtDie} (hf : ∀ x, (f x).quiet = f x.quiet) (s : State) (c : Ct) :
    s.quiet.modCt c f = (s.modCt c f).quiet := by
  simp [State.modCt, State.quiet, map_updAt_comm hf]

theorem modEdge_quiet {f : EdgeSt → EdgeSt} (hf : ∀ x, (f x).quiet = f x.quiet) (s : State) (e : Edge) :
    s.quiet.modEdge e f = (s.modEdge e f).quiet := by
  simp [State.modEdge, State.quiet, map_updAt_comm hf]

theorem modCp_quiet {f : Cp → Cp} (hf : ∀ x, (f x).quiet = f x.quiet) (s : State) : s.quiet.modCp f = (s.modCp f).quiet := by
  simp [State.modCp, State.quiet, hf]

/-- A change that leaves messages alone makes of two states that differ in messages only two such states. -/
theorem quiet_congr {F : State → State} (hF : ∀ s : State, F s.quiet = (F s).quiet) (h : t.quiet = s.quiet) :
    (F t).quiet = (F s).quiet := by
  rw [← hF, h, hF]

/-! ## The state in which a body runs -/

/-- A state in which the journal holds a request that was taken, and which differs from `s` in messages only. -/
structure State.Took (s : State) (r : Reply) (t : State) : Prop where
  quiet : t.quiet = s.quiet
  holds : t.Holds r

namespace State.Took

/-- A change that leaves messages alone, before and after a request is taken. -/
theorem congr (h : s.Took r t) {F : State → State} (hF : ∀ s : State, F s.quiet = (F s).quiet)
    (hc : (F t).cp.chans = t.cp.chans) : (F s).Took r (F t) :=
  ⟨quiet_congr hF h.quiet, h.holds.of_chans hc⟩

theorem modCab (h : s.Took r t) {c f} : (s.modCab c f).Took r (t.modCab c f) := h.congr (F := fun s => s.modCab c f) (fun _ => rfl) rfl
theorem modRun (h : s.Took r t) {i f} : (s.modRun i f).Took r (t.modRun i f) := h.congr (F := fun s => s.modRun i f) (fun _ => rfl) rfl

theorem modCp (h : s.Took r t) {f} (hf : ∀ x, (f x).quiet = f x.quiet) (hc : ∀ x, (f x).chans = x.chans) :
    (s.modCp f).Took r (t.modCp f) :=
  h.congr (F := fun s => s.modCp f) (modCp_quiet hf) (hc _)

theorem modCt (h : s.Took r t) {c f} (hf : ∀ x, (f x).quiet = f x.quiet) : (s.modCt c f).Took r (t.modCt c f) :=
  h.congr (F := fun s => s.modCt c f) (fun s => modCt_quiet hf s c) rfl

theorem modEdge (h : s.Took r t) {e f} (hf : ∀ x, (f x).quiet = f x.quiet) : (s.modEdge e f).Took r (t.modEdge e f) :=
  h.congr (F := fun s => s.modEdge e f) (fun s => modEdge_quiet hf s e) rfl

/-- ACCEPTED is a message. -/
theorem accept (h : s.Took r t) {q} : s.Took r (t.accept r q) := ⟨by rw [quiet_accept, h.quiet], holds_accept q h.holds⟩

/-- What reads no message reads the same before and after the request is taken. -/
theorem reads (h : s.Took r t) {α : Type} {f : State → α} (hf : ∀ s : State, f s.quiet = f s) : f t = f s := eq_of_quiet hf h.quiet

theorem active (h : s.Took r t) : t.cp.active = s.cp.active := h.reads (f := fun s => s.cp.active) fun _ => rfl

theorem ctField (h : s.Took r t) {α : Type} {f : CtDie → α} (hf : ∀ x, f x.quiet = f x) (c : Ct) : f (t.ct c) = f (s.ct c) :=
  h.reads (f := fun s => f (s.ct c)) fun s => ctField_quiet hf s c

theorem edgeField (h : s.Took r t) {α : Type} {f : EdgeSt → α} (hf : ∀ x, f x.quiet = f x) (e : Edge) : f (t.edge e) = f (s.edge e) :=
  h.reads (f := fun s => f (s.edge e)) fun s => by rw [edge_quiet, hf]

end State.Took

/-- A command that goes through answers what its body makes of the state in which it was taken. -/
theorem answers_of_admits {body : Reply → List Word → State → State} {P : State → Prop} (h : s.admits info src req = true)
    (hi : exec i s = .next (s.ilnil info src req body))
    (hb : ∀ t, s.Took (replyOf info src req) t → P (body (replyOf info src req) req.payload t)) : Answers i s P := by
  obtain ⟨t, hrun, hq, hh, -⟩ := ilnil_runs h
  exact ⟨_, hi, by rw [hrun]; exact hb t ⟨hq, hh⟩⟩

/-- A command whose body answers at once, on a state made of the one in which it was taken. -/
theorem completes_of_admits {body : Reply → List Word → State → State} {code : Nat} {ws : List Word}
    (h : s.admits info src req = true) (hi : exec i s = .next (s.ilnil info src req body))
    (hb : ∀ t, s.Took (replyOf info src req) t → ∃ v : State, u.Took (replyOf info src req) v ∧
      body (replyOf info src req) req.payload t = v.complete (replyOf info src req) code ws) :
    Completes i s info src req code ws u :=
  answers_of_admits h hi fun t ht => by
    obtain ⟨v, hv, e⟩ := hb t ht
    exact ⟨by rw [e]; exact answered_complete code ws hv.holds, by rw [e, quiet_complete, hv.quiet]⟩

end Sys2Proof.Machine
end

section
/-!
PROOF. Settings of the operator (R59, R260, R427, R450, R488).
-/

namespace Sys2Proof.Machine

variable {s t u : State} {r : Reply} {info : CmdInfo} {src : Src} {req : Req} {i : Instr}

theorem eventTrayIsSet : EventTrayIsSet := by
  intro s src req h
  refine ⟨fun hn => completes_of_admits h rfl fun t ht => ⟨_, ht.modCp (fun _ => rfl) (fun _ => rfl), ?_⟩,
    fun hn => completes_of_admits h rfl fun t ht => ⟨t, ht, ?_⟩⟩
  · exact if_neg (Nat.not_lt.2 hn)
  · exact if_pos hn

@[simp] theorem within_iff {lo hi x : Nat} : within lo hi x = true ↔ lo ≤ x ∧ x ≤ hi := by simp [within]

theorem bits_lt (w : Word) (hi lo : Nat) : bits w hi lo < 2 ^ (hi + 1 - lo) := Nat.mod_lt _ (by positivity)

/-! ## SET_ADMISSION -/

theorem admissionOk_iff {a : Admission} (hq : a.quota ≤ 65535) : admissionOk a = true ↔
    1 ≤ a.target ∧ a.target ≤ 4096 ∧ a.wait ≤ 10000 ∧ 128 ≤ a.prefill ∧ a.prefill ≤ 4096 ∧ a.prefill % 128 = 0 ∧ 500 ≤ a.bwd ∧
      a.bwd ≤ 20000 ∧ 1 ≤ a.quota := by
  simp [admissionOk]
  omega

theorem setAdmission_stores (h : s.admits infoSetAdmission src req = true)
    (hok : admissionOk (admissionOf (wordAt req.payload 0) (wordAt req.payload 1)) = true) :
    Completes (.setAdmission src req) s infoSetAdmission src req Code.ok []
      (s.modCab (cabOf (wordAt req.payload 0)) fun x =>
        { x with adm := admissionOf (wordAt req.payload 0) (wordAt req.payload 1) }) :=
  completes_of_admits h rfl fun _ ht => ⟨_, ht.modCab, if_pos hok⟩

theorem setAdmission_refuses (h : s.admits infoSetAdmission src req = true)
    (hok : admissionOk (admissionOf (wordAt req.payload 0) (wordAt req.payload 1)) ≠ true) :
    Completes (.setAdmission src req) s infoSetAdmission src req Code.valueOutOfRange [] s :=
  completes_of_admits h rfl fun _ ht => ⟨_, ht, if_neg hok⟩

/-! ## SET_POLICY -/

theorem policyCounts_iff {n : Nat} : policyCounts n = true ↔ n ∈ [1, 2, 6, 7] := by simp [policyCounts, or_assoc]
theorem policyWindow_iff {n : Nat} : policyWindow n = true ↔ n ∈ [1, 2, 6] := by simp [policyWindow, or_assoc]

/-- The threshold and window of a policy are such as SET_POLICY accepts (R450). -/
def policyOk (n threshold window : Nat) : Prop :=
  1 ≤ n ∧ n ≤ 9 ∧ (n ∈ [1, 2, 6, 7] → threshold ≠ 0) ∧ (n ∈ [1, 2, 6] → window ≠ 0)

theorem policyOk_iff {n threshold window : Nat} : policyOk n threshold window ↔
    ¬(!within 1 9 n || (policyCounts n && threshold == 0) || (policyWindow n && window == 0)) = true := by
  simp only [policyOk, ← policyCounts_iff, ← policyWindow_iff, Bool.or_eq_true, Bool.and_eq_true, Bool.not_eq_true', beq_iff_eq,
    ← Bool.not_eq_true (within _ _ _), within_iff]
  tauto

theorem setPolicy_stores (h : s.admits infoSetPolicy src req = true) {n th win : Nat}
    (hn : bits (wordAt req.payload 0) 63 56 = n) (hth : bits (wordAt req.payload 0) 31 0 = th)
    (hwin : bits (wordAt req.payload 1) 63 32 = win) (hok : policyOk n th win) :
    Completes (.setPolicy src req) s infoSetPolicy src req Code.ok []
      (s.modCp fun c => { c with policies := updAt (n - 1) (fun _ =>
        { on := bitAt (wordAt req.payload 0) 55, threshold := if n ∈ [1, 2, 6, 7] then th else 0,
          window := if n ∈ [1, 2, 6] then win else 0 }) c.policies }) := by
  subst hn hth hwin
  refine completes_of_admits h rfl fun t ht => ⟨_, ht.modCp (fun _ => rfl) (fun _ => rfl), ?_⟩
  simp only [if_neg (policyOk_iff.1 hok), policyCounts_iff, policyWindow_iff]

theorem setPolicy_refuses (h : s.admits infoSetPolicy src req = true)
    (hok : ¬policyOk (bits (wordAt req.payload 0) 63 56) (bits (wordAt req.payload 0) 31 0) (bits (wordAt req.payload 1) 63 32)) :
    Completes (.setPolicy src req) s infoSetPolicy src req Code.valueOutOfRange [] s :=
  completes_of_admits h rfl fun _ ht => ⟨_, ht, if_pos (not_not.1 (policyOk_iff.not.1 hok))⟩

/-! ## SET_EDGE_ADDR -/

/-- The session address that SET_EDGE_ADDR's words spell (R488). -/
def askedAddr (ws : List Word) : EAddr :=
  { v6 := bitAt (wordAt ws 0) 59, enable := bitAt (wordAt ws 0) 58, vlan := BitVec.ofNat 12 (bits (wordAt ws 0) 57 46),
    frameMax := bits (wordAt ws 0) 45 32, addr := BitVec.ofNat 128 (ofLe (wordsToBytes ((ws.drop 1).take 2))) }

/-- An enabled address other than number `i` of edge die `e` is the same (R488). -/
def State.addressUsed (s : State) (e : Edge) (i : Nat) (x : EAddr) : Bool :=
  (List.finRange 4).any fun k => (s.edge k).addrs.zipIdx.any fun p =>
    p.1.enable && p.1.v6 == x.v6 && p.1.addr == x.addr && !(k == e && p.2 == i)

theorem addressUsed_iff {e : Edge} {i : Nat} {x : EAddr} : s.addressUsed e i x = true ↔
    ∃ k : Edge, ∃ j : Nat, ∃ y : EAddr, (s.edge k).addrs[j]? = some y ∧ y.enable = true ∧ y.v6 = x.v6 ∧ y.addr = x.addr ∧
      ¬(k = e ∧ j = i) := by
  simp only [State.addressUsed, List.any_eq_true, List.mem_finRange, true_and, Prod.exists, List.mem_zipIdx_iff_getElem?,
    Bool.and_eq_true, beq_iff_eq, Bool.not_eq_true', Bool.and_eq_false_iff, beq_eq_false_iff_ne]
  constructor
  · rintro ⟨k, y, j, hy, ⟨⟨he, hv⟩, ha⟩, hne⟩
    exact ⟨k, j, y, hy, he, hv, ha, by tauto⟩
  · rintro ⟨k, j, y, hy, he, hv, ha, hne⟩
    exact ⟨k, y, j, hy, ⟨⟨he, hv⟩, ha⟩, by tauto⟩

theorem State.Took.addressUsed (h : s.Took r t) {e : Edge} {i : Nat} {x : EAddr} : t.addressUsed e i x = s.addressUsed e i x := by
  simp only [State.addressUsed, h.edgeField (f := EdgeSt.addrs) fun _ => rfl]

/-- An address of 128 bits, or one that fits the 32 bits of IPv4. -/
theorem addressFits_iff {x : EAddr} : x.v6 = true ∨ x.addr.toNat < 2 ^ 32 ↔ ¬(!x.v6 && decide (2 ^ 32 ≤ x.addr.toNat)) = true := by
  cases x.v6 <;> simp

section SetEdgeAddr

variable {x : EAddr} {e : Edge} {k : Nat} (h : s.admits infoSetEdgeAddr src req = true) (hx : askedAddr req.payload = x)
  (he : Fin.ofNat 4 (bits (wordAt req.payload 0) 63 62) = e) (hk : bits (wordAt req.payload 0) 61 60 = k)
include h hx

theorem setEdgeAddr_reserved (h4 : x.v6 = false) (ha : 2 ^ 32 ≤ x.addr.toNat) :
    Completes (.setEdgeAddr src req) s infoSetEdgeAddr src req Code.reservedNonzero [] s := by
  subst hx
  have hc : (!(askedAddr req.payload).v6 && decide (2 ^ 32 ≤ (askedAddr req.payload).addr.toNat)) = true := by
    simpa [h4] using ha
  exact completes_of_admits h rfl fun _ ht => ⟨_, ht, if_pos hc⟩

theorem setEdgeAddr_range (ha : x.v6 = true ∨ x.addr.toNat < 2 ^ 32) (hm : x.frameMax < 1518 ∨ 9216 < x.frameMax) :
    Completes (.setEdgeAddr src req) s infoSetEdgeAddr src req Code.valueOutOfRange [] s := by
  subst hx
  have hc : (!within 1518 9216 (askedAddr req.payload).frameMax) = true := by simp [within]; omega
  exact completes_of_admits h rfl fun _ ht => ⟨_, ht, (if_neg (addressFits_iff.1 ha)).trans (if_pos hc)⟩

include he hk

theorem setEdgeAddr_used (ha : x.v6 = true ∨ x.addr.toNat < 2 ^ 32) (hm : within 1518 9216 x.frameMax = true)
    (hu : (x.enable && s.addressUsed e k x) = true) :
    Completes (.setEdgeAddr src req) s infoSetEdgeAddr src req Code.addressInUse [] s := by
  subst hx he hk
  refine completes_of_admits h rfl fun t ht => ⟨t, ht, ?_⟩
  have hm : ¬(!within 1518 9216 (askedAddr req.payload).frameMax) = true := by rw [hm]; decide
  rw [← ht.addressUsed] at hu
  exact (if_neg (addressFits_iff.1 ha)).trans ((if_neg hm).trans (if_pos hu))

theorem setEdgeAddr_stores (ha : x.v6 = true ∨ x.addr.toNat < 2 ^ 32) (hm : within 1518 9216 x.frameMax = true)
    (hu : ¬(x.enable && s.addressUsed e k x) = true) :
    Completes (.setEdgeAddr src req) s infoSetEdgeAddr src req Code.ok []
      (s.modEdge e fun y => { y with addrs := updAt k (fun _ => x) y.addrs }) := by
  subst hx he hk
  refine completes_of_admits h rfl fun t ht => ⟨_, ht.modEdge fun _ => rfl, ?_⟩
  have hm : ¬(!within 1518 9216 (askedAddr req.payload).frameMax) = true := by rw [hm]; decide
  rw [← ht.addressUsed] at hu
  exact (if_neg (addressFits_iff.1 ha)).trans ((if_neg hm).trans (if_neg hu))

end SetEdgeAddr

/-! ## SET_EDGE_RINGS -/

/-- Two control dies whose memories are the same. -/
theorem State.Took.writeCtl (h : s.Took r t) {off bs} : (s.writeCtl off bs).Took r (t.writeCtl off bs) := by
  rw [State.writeCtl, State.writeCtl, h.active]
  exact h.modCt fun _ => rfl

theorem State.Took.ringDesc (h : s.Took r t) {g k} : t.ringDesc g k = s.ringDesc g k := by
  simp only [State.ringDesc, h.active, h.ctField (f := CtDie.mem) fun _ => rfl]

theorem State.Took.foldl (h : s.Took r t) {α : Type} {f : State → α → State} (hf : ∀ s t a, s.Took r t → (f s a).Took r (f t a))
    (l : List α) : (l.foldl f s).Took r (l.foldl f t) := by
  induction l generalizing s t with
  | nil => exact h
  | cons a l ih => exact ih (hf _ _ a h)

theorem State.Took.stopRing (h : s.Took r t) {g} : (s.stopRing g).Took r (t.stopRing g) := by
  unfold State.stopRing
  split
  · exact h
  · refine h.foldl (fun s t k h => ?_) _
    dsimp only
    rw [h.ringDesc]
    split
    · exact h.writeCtl
    · exact h

theorem State.Took.buffer (h : s.Took r t) {src addr len} : t.buffer? src addr len = s.buffer? src addr len :=
  h.reads (f := fun s => s.buffer? src addr len) fun s => by cases src <;> rfl

theorem ringCount_iff {n : Nat} : n ∈ [64, 128, 256, 512, 1024, 2048, 4096] ↔
    ¬(!([64, 128, 256, 512, 1024, 2048, 4096].contains n)) = true := by
  rw [Bool.not_eq_true', Bool.not_eq_false, List.contains_iff_mem]

/-- The ring that SET_EDGE_RINGS installs (R488). -/
def askedRing (w : Word) (off : Nat) : ERing :=
  { installed := true, base := off, count := bits w 55 43, irq := bitAt w 57, copyBad := bitAt w 56, nextDesc := 0 }

section SetEdgeRings

variable {w : Word} (h : s.admits infoSetEdgeRings src req = true) (hw : wordAt req.payload 0 = w)
include h hw

theorem setEdgeRings_range (hn : bits w 55 43 ∉ [64, 128, 256, 512, 1024, 2048, 4096]) :
    Completes (.setEdgeRings src req) s infoSetEdgeRings src req Code.valueOutOfRange [] s := by
  subst hw
  exact completes_of_admits h rfl fun _ ht => ⟨_, ht, if_pos (not_not.1 (ringCount_iff.not.1 hn))⟩

theorem setEdgeRings_invalid (hn : bits w 55 43 ∈ [64, 128, 256, 512, 1024, 2048, 4096])
    (hb : s.buffer? src (wordAt req.payload 1).toNat (16 * bits w 55 43) = none) :
    Completes (.setEdgeRings src req) s infoSetEdgeRings src req Code.bufferInvalid [] s := by
  subst hw
  refine completes_of_admits h rfl fun t ht => ⟨_, ht, (if_neg (ringCount_iff.1 hn)).trans ?_⟩
  rw [← ht.buffer] at hb
  simp only [replyOf, hb]

theorem setEdgeRings_stores {off : Nat} (hn : bits w 55 43 ∈ [64, 128, 256, 512, 1024, 2048, 4096])
    (hb : s.buffer? src (wordAt req.payload 1).toNat (16 * bits w 55 43) = some off) :
    Completes (.setEdgeRings src req) s infoSetEdgeRings src req Code.ok []
      ((s.stopRing ((s.edge (Fin.ofNat 4 (bits w 63 62))).rings.getD (bits w 61 58) ERing.reset)).modEdge
        (Fin.ofNat 4 (bits w 63 62)) fun x => { x with rings := updAt (bits w 61 58) (fun _ => askedRing w off) x.rings }) := by
  subst hw
  refine completes_of_admits h rfl fun t ht => ⟨_, ht.stopRing.modEdge fun _ => rfl, (if_neg (ringCount_iff.1 hn)).trans ?_⟩
  rw [← ht.buffer] at hb
  simp only [replyOf, hb, ht.edgeField (f := EdgeSt.rings) fun _ => rfl]
  rfl

end SetEdgeRings

theorem operatorSettings : OperatorSettings := by
  intro s src req
  refine ⟨fun h => ?_, fun h => ?_, fun h => ?_, fun h => ?_⟩
  · have hok := admissionOk_iff (a := admissionOf (wordAt req.payload 0) (wordAt req.payload 1))
      (Nat.le_of_lt_succ (bits_lt (wordAt req.payload 1) 48 33))
    exact ⟨fun ho => setAdmission_stores h (hok.2 ho), fun ho => setAdmission_refuses h (hok.not.2 ho)⟩
  · exact ⟨fun hok => setPolicy_stores h rfl rfl rfl hok, fun hok => setPolicy_refuses h hok⟩
  · refine ⟨setEdgeAddr_reserved h rfl, setEdgeAddr_range h rfl, fun ha h1 h2 => ?_⟩
    have hm := within_iff.2 ⟨h1, h2⟩
    exact ⟨fun ⟨he, hu⟩ => setEdgeAddr_used h rfl rfl rfl ha hm (Bool.and_eq_true_iff.2 ⟨he, addressUsed_iff.2 hu⟩),
      fun hu => setEdgeAddr_stores h rfl rfl rfl ha hm fun hc =>
        hu ⟨(Bool.and_eq_true_iff.1 hc).1, addressUsed_iff.1 (Bool.and_eq_true_iff.1 hc).2⟩⟩
  · exact ⟨setEdgeRings_range h rfl, fun hn => ⟨setEdgeRings_invalid h rfl hn, fun off => setEdgeRings_stores h rfl hn⟩⟩

end Sys2Proof.Machine
end
section
/-!
SUPPORT. What the release of pages and residencies leaves unchanged (R247 to R250, R339): everything but messages, gloves, pages and
the drawer table (`State.calm`).
-/

namespace Sys2Proof.Machine

variable {s t u : State} {r : Reply}

/-- A cabinet without the SET_DRAWER_CACHE commands that wait. -/
def Cabinet.calm (x : Cabinet) : Cabinet := { x with cacheReplies := [] }

/-- The state without what the release of residencies settles: messages, gloves and what wears them, pages, the drawer table. -/
def State.calm (s : State) : State :=
  { s.quiet with rot := Rot.reset, pages := [], residencies := [], slots := [], xclaims := [], fetches := [], clusters := [], hbm := [],
                 cabs := s.quiet.cabs.map Cabinet.calm }

theorem calm_of_quiet (h : t.quiet = s.quiet) : t.calm = s.calm := by
  rw [State.calm, State.calm, h]

theorem calm_foldl {α : Type} {f : State → α → State} (hf : ∀ s a, (f s a).calm = s.calm) (l : List α) (s : State) :
    (l.foldl f s).calm = s.calm := by
  induction l generalizing s with
  | nil => rfl
  | cons a l ih => exact (ih _).trans (hf _ _)

@[simp] theorem calm_complete (s : State) (r : Reply) (c : Nat) (p : List Word) : (s.complete r c p).calm = s.calm :=
  calm_of_quiet (quiet_complete ..)
@[simp] theorem calm_completeAll (s : State) (rs : List Reply) (c : Nat) (p : List Word) : (s.completeAll rs c p).calm = s.calm :=
  calm_of_quiet (quiet_completeAll ..)
@[simp] theorem calm_accept (s : State) (r : Reply) (q : Nat) : (s.accept r q).calm = s.calm := calm_of_quiet (quiet_accept ..)

/-! ## Gloves -/

@[simp] theorem calm_modRot (s : State) (f : Rot → Rot) : (s.modRot f).calm = s.calm := rfl
@[simp] theorem calm_modGlove (s : State) (g : Nat) (f : Glove → Glove) : (s.modGlove g f).calm = s.calm := rfl

@[simp] theorem calm_dropSession (s : State) (n : Nat) (tell : Bool) : (s.dropSession n tell).calm = s.calm := by
  unfold State.dropSession
  split
  · rfl
  · dsimp only
    rw [calm_modRot]
    refine (calm_of_quiet (quiet_modCp _ _ fun _ => rfl)).trans ((calm_of_quiet (quiet_setChan ..)).trans ?_)
    split
    · exact calm_of_quiet (quiet_sendRecord ..)
    · rfl

@[simp] theorem calm_settleDraining (s : State) : s.settleDraining.calm = s.calm := calm_foldl (fun _ _ => calm_dropSession ..) _ _

@[simp] theorem calm_unwear (s : State) (g : BitVec 16) (b : GBlock) : (s.unwear g b).calm = s.calm := by
  cases b <;> rfl

@[simp] theorem calm_eraseGlove (s : State) (g : Glove) : (s.eraseGlove g).calm = s.calm := by
  simp only [State.eraseGlove, calm_settleDraining, calm_completeAll, calm_modRot]
  exact calm_foldl (fun _ _ => calm_unwear ..) _ _

@[simp] theorem calm_wearGens (s : State) (g : BitVec 16) (gen : BitVec 32) (prev : Option (BitVec 32)) :
    (s.wearGens g gen prev).calm = s.calm := rfl

@[simp] theorem calm_gloveStep (s : State) (id : BitVec 16) (fuel : Nat) : (s.gloveStep id fuel).calm = s.calm := by
  induction fuel generalizing s with
  | zero => rfl
  | succ n ih =>
    unfold State.gloveStep
    split
    · rfl
    · repeat' split
      all_goals simp [ih, State.advanceGlove]

@[simp] theorem calm_settleSweeps (s : State) : s.settleSweeps.calm = s.calm := calm_foldl (fun _ _ => calm_gloveStep ..) _ _

/-! ## Pages and residencies -/

@[simp] theorem calm_freePages (s : State) (p : Page → Bool) : (s.freePages p).calm = s.calm := calm_settleSweeps _

@[simp] theorem calm_modSlot (s : State) (c : Cab) (n : Nat) (f : Slot → Slot) : (s.modSlot c n f).calm = s.calm := rfl

@[simp] theorem calm_dropClaims (s : State) (c : Cab) (n : Nat) : (s.dropClaims c n).calm = s.calm := by
  unfold State.dropClaims
  split <;> rfl

@[simp] theorem calm_answerFetch (s : State) (rs : List Reply) (code : Nat) : (s.answerFetch rs code).calm = s.calm := by
  refine calm_foldl (fun s r => ?_) _ _
  split
  · rfl
  · rw [calm_complete]
    rfl

@[simp] theorem calm_releaseResidency (s : State) (c : Cab) (n : Nat) (g : Die) : (s.releaseResidency c n g).calm = s.calm := by
  unfold State.releaseResidency
  dsimp only
  rw [calm_dropClaims]
  refine (calm_freePages _ _).trans ?_
  split
  · split <;> rfl
  · rfl

@[simp] theorem calm_freeSlot (s : State) (c : Cab) (n : Nat) : (s.freeSlot c n).calm = s.calm := by
  simp only [State.freeSlot, calm_answerFetch, calm_completeAll, calm_dropClaims]
  refine (calm_freePages _ _).trans ?_
  exact calm_foldl (fun _ _ => calm_releaseResidency ..) _ _

@[simp] theorem calm_settleEvict (s : State) (c : Cab) (n : Nat) : (s.settleEvict c n).calm = s.calm := by
  unfold State.settleEvict
  split
  · rfl
  · dsimp only
    split <;> simp

theorem calm_modCab {c : Cab} {f : Cabinet → Cabinet} (hf : ∀ x, (f x).calm = x.calm) (s : State) : (s.modCab c f).calm = s.calm := by
  simp [State.calm, State.modCab, State.quiet, map_updAt_of Cabinet.calm f hf]

@[simp] theorem calm_settleCache (s : State) (c : Cab) : (s.settleCache c).calm = s.calm := by
  unfold State.settleCache
  dsimp only
  split
  · refine (calm_completeAll ..).trans (calm_modCab ?_ s)
    exact fun _ => rfl
  · rfl

@[simp] theorem calm_shrinkCache (s : State) (c : Cab) (d : Die) : (s.shrinkCache c d).calm = s.calm := by
  refine calm_foldl (fun s x => ?_) _ _
  split
  · rfl
  · rw [calm_settleEvict, calm_releaseResidency]

/-! ## What calm states agree on -/

theorem calm_mem (h : t.calm = s.calm) : t.mem = s.mem := by
  have hm : t.calm.mem = s.calm.mem := by rw [h]
  exact hm
theorem calm_streams (h : t.calm = s.calm) : t.streams = s.streams := by
  have hm : t.calm.streams = s.calm.streams := by rw [h]
  exact hm

/-- A cabinet but for the commands that wait for its cache. -/
theorem calm_cab (h : t.calm = s.calm) (c : Cab) : (t.cab c).calm = (s.cab c).calm := by
  have hc : t.calm.cabs = s.calm.cabs := by rw [h]
  change t.cabs.map Cabinet.calm = s.cabs.map Cabinet.calm at hc
  have hg : ∀ l : List Cabinet, (l.getD c.val Cabinet.reset).calm = (l.map Cabinet.calm).getD c.val Cabinet.reset := fun l => by
    simp only [List.getD_eq_getElem?_getD, List.getElem?_map]
    cases l[c.val]? <;> rfl
  rw [State.cab, State.cab, hg, hg, hc]

theorem calm_cacheGib (h : t.calm = s.calm) (c : Cab) : (t.cab c).cacheGib = (s.cab c).cacheGib := by
  have hc : (t.cab c).calm.cacheGib = (s.cab c).calm.cacheGib := by rw [calm_cab h]
  exact hc

end Sys2Proof.Machine
end

section
/-!
PROOF. The size of a cabinet's drawer cache (R260).
-/

namespace Sys2Proof.Machine

variable {s t u : State} {r : Reply} {info : CmdInfo} {src : Src} {req : Req} {i : Instr}

/-! ## A part changed twice -/

theorem updAt_updAt {α : Type} (i : Nat) (f g : α → α) (l : List α) : updAt i g (updAt i f l) = updAt i (fun x => g (f x)) l := by
  induction l generalizing i with
  | nil => simp [updAt]
  | cons a as ih => cases i <;> simp [updAt, ih]

/-- Two changes that agree on the element there. -/
theorem updAt_congr {α : Type} {i : Nat} {f g : α → α} {l : List α} {d : α} (h : f (l.getD i d) = g (l.getD i d)) :
    updAt i f l = updAt i g l := by
  induction l generalizing i with
  | nil => simp [updAt]
  | cons a as ih =>
    cases i with
    | zero => simpa [updAt] using h
    | succ i => simpa [updAt] using ih (by simpa using h)

theorem modCab_modCab (s : State) (c : Cab) (f g : Cabinet → Cabinet) : (s.modCab c f).modCab c g = s.modCab c fun x => g (f x) :=
  congrArg (fun l => ({ s with cabs := l } : State)) (updAt_updAt ..)

theorem modCab_congr {c : Cab} {f g : Cabinet → Cabinet} (h : f (s.cab c) = g (s.cab c)) : s.modCab c f = s.modCab c g :=
  congrArg (fun l => ({ s with cabs := l } : State)) (updAt_congr h)

theorem cab_modCab_same {c : Cab} {f : Cabinet → Cabinet} (hc : c.val < s.cabs.length) : (s.modCab c f).cab c = f (s.cab c) := by
  rw [State.cab, State.modCab_cabs, getD_updAt, if_pos ⟨rfl, hc⟩, State.cab]

theorem cab_modCab_ne {c k : Cab} {f : Cabinet → Cabinet} (h : k ≠ c) : (s.modCab c f).cab k = s.cab k := by
  rw [State.cab, State.modCab_cabs, getD_updAt, if_neg fun hk => h (Fin.ext hk.1.symm), State.cab]

theorem cab_lt_of_shape (h : s.shape = true) (c : Cab) : c.val < s.cabs.length := by
  obtain ⟨-, -, hcab, -⟩ := State.shape_iff_hasParts.1 h
  omega

/-! ## SET_DRAWER_CACHE -/

/-- A size that SET_DRAWER_CACHE accepts (R260). -/
def State.cacheFits (s : State) (c : Cab) (n : Nat) : Prop :=
  1 ≤ n ∧ n ≤ 64 ∧ ∀ d ∈ diesOf (s.cab c).dies, 512 * n ≤ s.drawerPages c d + s.freeOnDie d

theorem cacheFits_iff {c : Cab} {n : Nat} : s.cacheFits c n ↔
    ¬(!within 1 64 n || (diesOf (s.cab c).dies).any fun d => decide (s.drawerPages c d + s.freeOnDie d < 512 * n)) = true := by
  simp only [State.cacheFits, Bool.or_eq_true, Bool.not_eq_true', ← Bool.not_eq_true (within _ _ _), within_iff, List.any_eq_true,
    decide_eq_true_eq, not_or, not_exists, not_and, Nat.not_lt]
  tauto

theorem State.Took.cacheFits (h : s.Took r t) {c n} : t.cacheFits c n ↔ s.cacheFits c n :=
  iff_of_eq (h.reads (f := fun s => s.cacheFits c n) fun _ => rfl)

/-- The cabinet with its new size and the command that waits for it. -/
def Cabinet.resized (n : Nat) (r : Reply) (x : Cabinet) : Cabinet := { x with cacheGib := n, cacheReplies := x.cacheReplies ++ [r] }

/-- Where the pages held fit, nothing is evicted. -/
theorem shrinkCache_of_fits {c : Cab} {d : Die} (h : s.drawerPages c d ≤ 512 * (s.cab c).cacheGib) : s.shrinkCache c d = s := by
  unfold State.shrinkCache
  generalize s.victimsOn c d = l
  induction l with
  | nil => rfl
  | cons a l ih => rw [List.foldl_cons, if_pos h, ih]

theorem foldl_shrinkCache_of_fits {c : Cab} {l : List Die} (h : ∀ d ∈ l, s.drawerPages c d ≤ 512 * (s.cab c).cacheGib) :
    l.foldl (fun (s : State) d => s.shrinkCache c d) s = s := by
  induction l with
  | nil => rfl
  | cons a l ih =>
    rw [List.foldl_cons, shrinkCache_of_fits (h a (by simp))]
    exact ih fun d hd => h d (by simp [hd])

/-- What SET_DRAWER_CACHE does with a size that fits: the cabinet has it, and residencies are evicted until the pages fit. -/
def State.resizeCache (s : State) (r : Reply) (c : Cab) (n : Nat) : State :=
  ((diesOf (s.cab c).dies).foldl (fun (s : State) d => s.shrinkCache c d) ((s.accept r 0).modCab c (Cabinet.resized n r))).settleCache c

theorem calm_resizeCache (s : State) (r : Reply) (c : Cab) (n : Nat) :
    (s.resizeCache r c n).calm = ((s.accept r 0).modCab c (Cabinet.resized n r)).calm :=
  (calm_settleCache ..).trans (calm_foldl (fun _ _ => calm_shrinkCache ..) _ _)

/-- Where no other command waits and the pages held fit, the command ends at once. -/
theorem resizeCache_of_fits {c : Cab} {n : Nat} (hc : c.val < s.cabs.length) (h0 : (s.cab c).cacheReplies = [])
    (hall : ∀ d ∈ diesOf (s.cab c).dies, s.drawerPages c d ≤ 512 * n) :
    s.resizeCache r c n = ((s.accept r 0).modCab c fun x => { x with cacheGib := n }).complete r Code.ok [] := by
  have hcabs : (s.accept r 0).cabs = s.cabs := quiet_cabs (quiet_accept ..)
  have hpages : (s.accept r 0).pages = s.pages := quiet_pages (quiet_accept ..)
  have hcab : (s.accept r 0).cab c = s.cab c := by simp [State.cab, hcabs]
  have hnew : ((s.accept r 0).modCab c (Cabinet.resized n r)).cab c = Cabinet.resized n r (s.cab c) := by
    rw [cab_modCab_same (by rw [hcabs]; exact hc), hcab]
  have hfit : ∀ d ∈ diesOf (s.cab c).dies, ((s.accept r 0).modCab c (Cabinet.resized n r)).drawerPages c d ≤
      512 * (((s.accept r 0).modCab c (Cabinet.resized n r)).cab c).cacheGib := by
    simpa [State.drawerPages, hnew, hpages, Cabinet.resized] using hall
  have hset : ((s.accept r 0).modCab c (Cabinet.resized n r)).modCab c (fun x => { x with cacheReplies := [] }) =
      (s.accept r 0).modCab c fun x => { x with cacheGib := n } := by
    rw [modCab_modCab]
    exact modCab_congr (by rw [hcab]; simp [Cabinet.resized, ← h0])
  rw [State.resizeCache, foldl_shrinkCache_of_fits hfit, State.settleCache, hnew, hset]
  simp only [Cabinet.resized, h0, List.nil_append, List.isEmpty_cons, Bool.not_false, Bool.true_and]
  rw [if_pos]
  · rfl
  · simpa [hnew, Cabinet.resized] using hfit

theorem drawerCacheIsSet : DrawerCacheIsSet := by
  intro s src req hshape h c n room
  have hc := cab_lt_of_shape hshape c
  refine ⟨fun hn => completes_of_admits h rfl fun t ht => ⟨t, ht, if_pos (not_not.1 fun hf => ?_)⟩, fun h1 h64 hr => ?_⟩
  · obtain ⟨h1, h64, hr⟩ : s.cacheFits c n := ht.cacheFits.1 (cacheFits_iff.2 hf)
    exact hn.elim (by omega) (·.elim (by omega) fun hn => hn hr)
  have hfit : s.cacheFits c n := ⟨h1, h64, hr⟩
  refine ⟨answers_of_admits h rfl fun t ht => ?_, fun h0 hall => completes_of_admits h rfl fun t ht => ⟨_, (ht.accept (q := 0)).modCab, ?_⟩⟩
  · have hcabs : (t.accept (replyOf infoSetDrawerCache src req) 0).cabs = s.cabs := quiet_cabs ht.accept.quiet
    rw [if_neg (cacheFits_iff.1 (ht.cacheFits.2 hfit))]
    have hcalm := calm_resizeCache t (replyOf infoSetDrawerCache src req) c n
    exact ⟨(calm_cacheGib hcalm c).trans (by rw [cab_modCab_same (by rw [hcabs]; exact hc)]; rfl),
      ((calm_mem hcalm).trans (State.modCab_mem ..)).trans (quiet_mem ht.accept.quiet),
      ((calm_streams hcalm).trans (State.modCab_streams ..)).trans (quiet_streams ht.accept.quiet)⟩
  · have hcabs : t.cabs = s.cabs := quiet_cabs ht.quiet
    have hcab : t.cab c = s.cab c := by simp [State.cab, hcabs]
    have hall : ∀ d ∈ diesOf (t.cab c).dies, t.drawerPages c d ≤ 512 * n := by
      simpa only [State.drawerPages, hcab, quiet_pages ht.quiet] using hall
    exact (if_neg (cacheFits_iff.1 (ht.cacheFits.2 hfit))).trans
      (resizeCache_of_fits (by rw [hcabs]; exact hc) (by rw [hcab]; exact h0) hall)

/-- Settles O13: each setting is a command that answers at once, on the state that its payload asks for. -/
theorem operatorSettingsAreStored : Obligations.OperatorSettingsAreStored := ⟨eventTrayIsSet, operatorSettings, drawerCacheIsSet⟩

end Sys2Proof.Machine
end
section
/-!
PROOF. The capability record (R74): its word 2 adds the count of clusters below the bits of the stacks, and a count past 2³² reaches them.
-/

namespace Sys2Proof.Machine

/-- A module of one die in service, whose cluster map names so many clusters that their count reaches bit 32 of word 2 of the capability
record, and of no stack. -/
def overfullModule : State :=
  { State.reset with hbm := [],
                     dies := [{ DieSt.reset with inService := true, map := List.replicate (2 ^ 32 - 2 ^ 22) 0 }] }

theorem activeClusters_overfull : overfullModule.activeClusters = 2 ^ 32 - 2 ^ 22 := by
  simp only [State.activeClusters, overfullModule, List.filter_cons_of_pos, List.filter_nil, List.map_cons, List.map_nil,
    List.sum_singleton, DieSt.mapNow, DieSt.reset, Option.getD_none, List.length_replicate]

theorem stacksInService_overfull : overfullModule.stacksInService = 0 := rfl

/-- Bit 32 of word 2, where stack 0 stands, is set, and stack 0 is not there. -/
theorem caps_overfull : (wordAt overfullModule.caps 2).getLsbD 32 = true := by
  have hw : wordAt overfullModule.caps 2 = word (put overfullModule.stacksInService 32 + put 64 16 + overfullModule.activeClusters) := rfl
  rw [hw, stacksInService_overfull, activeClusters_overfull]
  decide

/-- Refutes O14: the record adds the count of active clusters below the bits of the stacks (`State.caps`), and the statement is of every
state. With 2³² − 2²² clusters in the map of a die in service, word 2 is 2³², and reads stack 0 in service where there is no stack. -/
theorem not_recordsAreRead : ¬ Obligations.RecordsAreRead := by
  rintro ⟨-, hcaps, -⟩
  obtain ⟨-, -, -, -, hstack, -⟩ := hcaps overfullModule
  have h0 : (wordAt overfullModule.caps 2).getLsbD 32 = false := hstack 0
  exact Bool.noConfusion (h0.symm.trans caps_overfull)

end Sys2Proof.Machine
end
section
/-!
PROOF. Records of drawers, runs, reductions and gloves (R259, R264, R293, R330, R404).
-/

namespace Sys2Proof.Machine

variable {s t u : State} {r : Reply} {info : CmdInfo} {src : Src} {req : Req} {i : Instr}

/-! ## What names an object is read without messages -/

namespace State.Took

theorem foreign (h : s.Took r t) {q o} : t.foreign q o = s.foreign q o := h.reads (f := fun s => s.foreign q o) fun _ => rfl
theorem tenantOf (h : s.Took r t) {q} : t.tenantOf q = s.tenantOf q := h.reads (f := fun s => s.tenantOf q) fun _ => rfl
theorem run? (h : s.Took r t) {n} : t.run? n = s.run? n := h.reads (f := fun s => s.run? n) fun _ => rfl
theorem cab (h : s.Took r t) {c} : t.cab c = s.cab c := h.reads (f := fun s => s.cab c) fun _ => rfl

theorem namedRun (h : s.Took r t) {q ws l} : t.namedRun q ws l = s.namedRun q ws l :=
  h.reads (f := fun s => s.namedRun q ws l) fun _ => rfl

theorem namedSlot (h : s.Took r t) {q ws} : t.namedSlot q ws = s.namedSlot q ws := h.reads (f := fun s => s.namedSlot q ws) fun _ => rfl

/-- The tenant of a session, read without its traffic. -/
theorem sessionTenant (h : s.Took r t) {n} : (t.session? n).map Session.tenant = (s.session? n).map Session.tenant := by
  have hm : ∀ u : State, (u.session? n).map Session.tenant = ((u.session? n).map Session.quiet).map Session.tenant := fun u => by
    rw [Option.map_map]; rfl
  rw [hm, hm, session_quiet h.quiet]

theorem namedGlove (h : s.Took r t) {q : Reply} {id : Nat} : t.namedGlove q id = s.namedGlove q id := by
  have hg : ∀ x, t.tenantGlove? x = s.tenantGlove? x := fun x => h.reads (f := fun s => s.tenantGlove? x) fun _ => rfl
  have hb : ∀ n, ((t.session? n).bind fun x => s.tenantGlove? x.tenant) = (s.session? n).bind fun x => s.tenantGlove? x.tenant :=
    fun n => by simpa [Option.bind_map] using congrArg (·.bind s.tenantGlove?) (h.sessionTenant (n := n))
  cases hq : q.src with
  | session n => simp only [State.namedGlove, hq, hg, hb]
  | _ => simp only [State.namedGlove, hq, State.glove?, h.reads (f := fun s => s.rot.gloves) fun _ => rfl]

end State.Took

theorem insertBy_length {α : Type} (key : α → Nat) (a : α) (l : List α) : (insertBy key a l).length = l.length + 1 := by
  induction l with
  | nil => rfl
  | cons b l ih => unfold insertBy; split <;> simp [ih]

theorem sortBy_length {α : Type} (key : α → Nat) (l : List α) : (sortBy key l).length = l.length := by
  have h : ∀ acc : List α, (l.foldl (fun acc a => insertBy key a acc) acc).length = acc.length + l.length := by
    induction l with
    | nil => exact fun _ => rfl
    | cons a l ih => exact fun acc => (ih _).trans (by rw [insertBy_length, List.length_cons]; omega)
  simpa [sortBy] using h []

/-- How many sessions a tenant has, read without their traffic. -/
theorem tenantSessions_length_quiet (s : State) (n : BitVec 32) :
    (s.quiet.tenantSessions n).length = (s.tenantSessions n).length := by
  simp only [State.tenantSessions, sortBy_length, State.quiet, Rot.quiet, List.filter_map, List.length_map]
  rfl

theorem State.Took.gloveWords (h : s.Took r t) {g : Glove} {own : Bool} : t.gloveWords g own = s.gloveWords g own := by
  refine h.reads (f := fun s => s.gloveWords g own) fun s => ?_
  have hs := tenantSessions_length_quiet s g.tenant
  simp only [State.gloveWords, hs]
  rfl

/-! ## The records -/

theorem namedSlot_none {ws : List Word} (h : s.slot? (cabOf (wordAt ws 1)) (slotField ws) = none) :
    s.namedSlot r ws = .inl Code.slotNotBound := by
  simp [State.namedSlot, h]

theorem namedSlot_some {ws : List Word} {x : Slot} (h : s.slot? (cabOf (wordAt ws 1)) (slotField ws) = some x) :
    s.namedSlot r ws = if s.foreign r x.owner? then .inl Code.notOwner else .inr x := by
  simp [State.namedSlot, h]

theorem namedRun_none {ws : List Word} {l : List (Fin 8)} (h : s.run? (BitVec.ofNat 32 (bits (wordAt ws 0) 63 32)) = none) :
    s.namedRun r ws l = .inl Code.runNotFound := by
  simp [State.namedRun, h]

theorem namedRun_some {ws : List Word} {l : List (Fin 8)} {x : Run}
    (h : s.run? (BitVec.ofNat 32 (bits (wordAt ws 0) 63 32)) = some x) :
    s.namedRun r ws l =
      if s.foreign r x.tenant then .inl Code.notOwner else if l.contains x.state then .inr x else .inl Code.runState := by
  simp [State.namedRun, h]

/-- The eight states of a run are all that there are. -/
theorem anyRunState (n : Fin 8) : [0, 1, 2, 3, 4, 5, 6, 7].contains n = true := by
  revert n; decide

theorem drawerStatus_refuses {k : Nat} (h : s.admits infoDrawerStatus src req = true)
    (hn : s.namedSlot (replyOf infoDrawerStatus src req) req.payload = .inl k) :
    Completes (.drawerStatus src req) s infoDrawerStatus src req k [] s :=
  completes_of_admits h rfl fun t ht => ⟨t, ht, by simp only [ht.namedSlot, hn]⟩

theorem drawerStatus_answers {x : Slot} (h : s.admits infoDrawerStatus src req = true)
    (hn : s.namedSlot (replyOf infoDrawerStatus src req) req.payload = .inr x) :
    Completes (.drawerStatus src req) s infoDrawerStatus src req Code.ok
      (s.drawerWords x (s.tenantOf (replyOf infoDrawerStatus src req)).isSome) s :=
  completes_of_admits h rfl fun t ht => ⟨t, ht, by
    simp only [ht.namedSlot, hn, ht.tenantOf, ht.reads (f := fun s => s.drawerWords x _) fun _ => rfl]⟩

theorem runStatus_refuses {k : Nat} (h : s.admits infoRunStatus src req = true)
    (hn : s.namedRun (replyOf infoRunStatus src req) req.payload [0, 1, 2, 3, 4, 5, 6, 7] = .inl k) :
    Completes (.runStatus src req) s infoRunStatus src req k [] s :=
  completes_of_admits h rfl fun t ht => ⟨t, ht, by simp only [ht.namedRun, hn]⟩

theorem runStatus_answers {x : Run} (h : s.admits infoRunStatus src req = true)
    (hn : s.namedRun (replyOf infoRunStatus src req) req.payload [0, 1, 2, 3, 4, 5, 6, 7] = .inr x) :
    Completes (.runStatus src req) s infoRunStatus src req Code.ok
      (runWordsOf x (s.tenantOf (replyOf infoRunStatus src req)).isSome) s :=
  completes_of_admits h rfl fun t ht => ⟨t, ht, by simp only [ht.namedRun, hn, ht.tenantOf]⟩

theorem reductionStatus_refuses {k : Nat} (h : s.admits infoReductionStatus src req = true)
    (hn : s.namedRun (replyOf infoReductionStatus src req) req.payload [0, 1, 2, 3, 4, 5, 6, 7] = .inl k) :
    Completes (.reductionStatus src req) s infoReductionStatus src req k [] s :=
  completes_of_admits h rfl fun t ht => ⟨t, ht, by simp only [ht.namedRun, hn]⟩

theorem reductionStatus_answers {x : Run} (h : s.admits infoReductionStatus src req = true)
    (hn : s.namedRun (replyOf infoReductionStatus src req) req.payload [0, 1, 2, 3, 4, 5, 6, 7] = .inr x) :
    let found := s.reductions.find? fun y => y.run == x.id && y.id.toNat == bits (wordAt req.payload 0) 31 8
    (found = none → Completes (.reductionStatus src req) s infoReductionStatus src req Code.reductionNotFound [] s) ∧
      (∀ y, found = some y → Completes (.reductionStatus src req) s infoReductionStatus src req Code.ok
        (redWords y (s.tenantOf (replyOf infoReductionStatus src req)).isSome) s) := by
  refine ⟨fun hf => completes_of_admits h rfl fun t ht => ⟨t, ht, ?_⟩, fun y hf => completes_of_admits h rfl fun t ht => ⟨t, ht, ?_⟩⟩
  · simp only [ht.namedRun, hn, quiet_reductions ht.quiet, hf]
  · simp only [ht.namedRun, hn, quiet_reductions ht.quiet, ht.tenantOf, hf]

@[simp] theorem reply_src : (replyOf info src req).src = src := rfl

theorem gloveStatus_refuses {k : Nat} (h : s.admits infoGloveStatus src req = true)
    (hn : s.namedGlove (replyOf infoGloveStatus src req) (bits (wordAt req.payload 0) 63 48) = .inl k) :
    Completes (.gloveStatus src req) s infoGloveStatus src req k [] s :=
  completes_of_admits h rfl fun t ht => ⟨t, ht, by simp only [ht.namedGlove, hn]⟩

/-- A tenant's own session sees its glove's counts, the operator on a tray does not. -/
theorem gloveStatus_answers {g : Glove} {own : Bool} (ho : own = match src with | .session _ => true | _ => false) (h : s.admits infoGloveStatus src req = true)
    (hn : s.namedGlove (replyOf infoGloveStatus src req) (bits (wordAt req.payload 0) 63 48) = .inr g) :
    Completes (.gloveStatus src req) s infoGloveStatus src req Code.ok
      (s.gloveWords g own) s :=
  completes_of_admits h rfl fun t ht => ⟨t, ht, by
    cases src <;> subst ho <;> simp only [ht.namedGlove, hn, ht.gloveWords, reply_src]⟩

theorem objectRecordsAreAnswered : ObjectRecordsAreAnswered := by
  intro s src req ws w run
  refine ⟨fun h => ⟨fun hn => drawerStatus_refuses h (namedSlot_none hn), fun x hx => ⟨fun hf => ?_, fun hf => ?_⟩⟩,
    fun h => ⟨fun hn => runStatus_refuses h (namedRun_none hn), fun x hx => ⟨fun hf => ?_, fun hf => ?_⟩⟩,
    fun h => ⟨fun hn => reductionStatus_refuses h (namedRun_none hn), fun x hx hf => ?_⟩,
    fun h => ⟨fun k hn => ?_, fun g hn => ?_⟩⟩
  · exact drawerStatus_refuses h ((namedSlot_some hx).trans (if_pos hf))
  · exact drawerStatus_answers h ((namedSlot_some hx).trans (if_neg (by simp [hf])))
  · exact runStatus_refuses h ((namedRun_some hx).trans (if_pos hf))
  · exact runStatus_answers h ((namedRun_some hx).trans ((if_neg (by simp [hf])).trans (if_pos (anyRunState _))))
  · exact reductionStatus_answers h ((namedRun_some hx).trans ((if_neg (by simp [hf])).trans (if_pos (anyRunState _))))
  · exact gloveStatus_refuses h hn
  · exact gloveStatus_answers rfl h hn

/-! ## What the operator does not see -/

theorem put_zero (lo : Nat) : put 0 lo = 0 := Nat.zero_shiftLeft lo

theorem put_add_lt {a b lo n : Nat} (hb : b < 2 ^ lo) (ha : a < 2 ^ n) : put a lo + b < 2 ^ (lo + n) := by
  have : (a + 1) * 2 ^ lo ≤ 2 ^ n * 2 ^ lo := Nat.mul_le_mul_right _ ha
  rw [put, Nat.shiftLeft_eq, Nat.pow_add, Nat.mul_comm (2 ^ lo)]
  linarith [Nat.add_mul a 1 (2 ^ lo)]

theorem bits_word_high {n hi lo : Nat} (hn : n < 2 ^ lo) : bits (word n) hi lo = 0 := by
  have h : (word n).toNat < 2 ^ lo := lt_of_le_of_lt (by rw [word, BitVec.toNat_ofNat]; exact Nat.mod_le _ _) hn
  rw [bits, fieldOf, Nat.shiftRight_eq_div_pow, Nat.div_eq_of_lt h, Nat.zero_mod]

/-- Without the pins, word 3 of a drawer's record ends below bit 40: dies of a fetch, pages of a share, a code. -/
theorem drawerWords_operator (s : State) (x : Slot) : bits (wordAt (s.drawerWords x false) 3) 63 40 = 0 := by
  have hlow : put (min x.sharePages 0xffff) 8 + x.lastCode % 256 < 2 ^ (8 + 16) := put_add_lt (Nat.mod_lt _ (by decide)) (by omega)
  have hw : ∀ m : BitVec 16,
      bits (word (put 0 40 + put m.toNat 24 + put (min x.sharePages 0xffff) 8 + x.lastCode % 256)) 63 40 = 0 := fun m => by
    rw [put_zero, Nat.zero_add, Nat.add_assoc]
    exact bits_word_high (put_add_lt hlow m.isLt)
  exact hw _

theorem operatorSeesNoTenantCounts : OperatorSeesNoTenantCounts := by
  refine ⟨fun x cursor tokens dropped skipped loss => rfl, fun x a b r hh hd => ⟨?_, fun n h2 h7 => ?_⟩,
    fun s g tin tout rows hg => ?_, drawerWords_operator⟩
  · simp [redWords, hh, hd]
  · interval_cases n <;> rfl
  · simp [State.gloveWords, hg, Glove.stateCode]

/-- Settles O15: each record is read on a state without messages, and what is withheld stands in no word of it. -/
theorem objectRecords : Obligations.ObjectRecords := ⟨objectRecordsAreAnswered, operatorSeesNoTenantCounts⟩

end Sys2Proof.Machine
end
section
/-!
PROOF. Commands that name a run, settings of a tenant (R62, R255, R261, R291, R323, R326, R328, R329), and the cabinets' dies (R37, R69,
R70).
-/

namespace Sys2Proof.Machine

variable {s t u : State} {r : Reply} {info : CmdInfo} {src : Src} {req : Req} {i : Instr}

/-! ## Commands that name a run -/

/-- A command on a run that begins by looking for it, in one of some states. -/
theorem runCommand_refuses {states : List (Fin 8)} {k : Nat} {g : Reply → List Word → State → Run → State}
    (h : s.admits info src req = true)
    (hi : exec i s = .next (s.ilnil info src req fun r ws s =>
      match s.namedRun r ws states with | .inl k => s.complete r k [] | .inr x => g r ws s x))
    (hn : s.namedRun (replyOf info src req) req.payload states = .inl k) : Completes i s info src req k [] s :=
  completes_of_admits h hi fun t ht => ⟨t, ht, by simp only [ht.namedRun, hn]⟩

/-- The refusals that every command on a run begins with (R62, R291). -/
theorem runCommand_refusals {states : List (Fin 8)} {g : Reply → List Word → State → Run → State} (h : s.admits info src req = true)
    (hi : exec i s = .next (s.ilnil info src req fun r ws s =>
      match s.namedRun r ws states with | .inl k => s.complete r k [] | .inr x => g r ws s x)) :
    let run := s.run? (BitVec.ofNat 32 (bits (wordAt req.payload 0) 63 32))
    (run = none → Completes i s info src req Code.runNotFound [] s) ∧
    (∀ x, run = some x →
      (s.foreign (replyOf info src req) x.tenant = true → Completes i s info src req Code.notOwner [] s) ∧
      (s.foreign (replyOf info src req) x.tenant = false → x.state ∉ states → Completes i s info src req Code.runState [] s)) := by
  refine ⟨fun hn => runCommand_refuses h hi (namedRun_none hn), fun x hx => ⟨fun hf => ?_, fun hf hst => ?_⟩⟩
  · exact runCommand_refuses h hi ((namedRun_some hx).trans (if_pos hf))
  · exact runCommand_refuses h hi ((namedRun_some hx).trans ((if_neg (by simp [hf])).trans (if_neg (by simpa using hst))))

theorem runCommandRefusals : RunCommandRefusals := by
  intro s src req i info states hmem h
  simp only [List.mem_cons, List.not_mem_nil, or_false, Prod.mk.injEq] at hmem
  obtain ⟨rfl, rfl, rfl⟩ | ⟨rfl, rfl, rfl⟩ | ⟨rfl, rfl, rfl⟩ | ⟨rfl, rfl, rfl⟩ | ⟨rfl, rfl, rfl⟩ | ⟨rfl, rfl, rfl⟩ | ⟨rfl, rfl, rfl⟩ :=
    hmem <;> exact runCommand_refusals h rfl

/-- A command on a run that is there, the tenant's own and in one of the states that the command is accepted in. -/
theorem runCommand_completes {states : List (Fin 8)} {code : Nat} {ws : List Word} {x : Run} {g : Reply → List Word → State → Run → State}
    (h : s.admits info src req = true)
    (hi : exec i s = .next (s.ilnil info src req fun r ws s =>
      match s.namedRun r ws states with | .inl k => s.complete r k [] | .inr x => g r ws s x))
    (hx : s.run? (BitVec.ofNat 32 (bits (wordAt req.payload 0) 63 32)) = some x)
    (hf : s.foreign (replyOf info src req) x.tenant = false) (hst : x.state ∈ states)
    (hg : ∀ t, s.Took (replyOf info src req) t → ∃ v : State, u.Took (replyOf info src req) v ∧
      g (replyOf info src req) req.payload t x = v.complete (replyOf info src req) code ws) :
    Completes i s info src req code ws u :=
  completes_of_admits h hi fun t ht => by
    have hn : s.namedRun (replyOf info src req) req.payload states = .inr x :=
      (namedRun_some hx).trans ((if_neg (by simp [hf])).trans (if_pos (by simpa using hst)))
    simpa only [ht.namedRun, hn] using hg t ht

theorem rel_iff {α β : Type} {P : α → β → Prop} {a : Option α} {b : Option β} :
    Option.Rel P a b ↔ (a = none ∧ b = none) ∨ ∃ x y, a = some x ∧ b = some y ∧ P x y := by
  constructor
  · rintro (h | -)
    · exact .inr ⟨_, _, rfl, rfl, h⟩
    · exact .inl ⟨rfl, rfl⟩
  · rintro (⟨rfl, rfl⟩ | ⟨x, y, rfl, rfl, h⟩)
    · exact .none
    · exact .some h

/-! ## Pages are taken before and after a request is taken alike -/

namespace State.Took

theorem allocOn (h : s.Took r t) {k n kind g c o} : (s.allocOn k n kind g c o).1.Took r (t.allocOn k n kind g c o).1 :=
  h.congr (F := fun s => (s.allocOn k n kind g c o).1) (fun _ => rfl) rfl

theorem alloc? (h : s.Took r t) {d n kind g c o} :
    Option.Rel (fun a b => a.1.Took r b.1) (s.alloc? d n kind g c o) (t.alloc? d n kind g c o) := by
  have hd : t.freeOnDie d = s.freeOnDie d := h.reads (f := fun s => s.freeOnDie d) fun _ => rfl
  have hs : ∀ k, t.freeOn k = s.freeOn k := fun k => h.reads (f := fun s => s.freeOn k) fun _ => rfl
  simp only [State.alloc?, hd, hs]
  split
  · exact .none
  · exact .some h.allocOn.allocOn

theorem allocAll? (h : s.Took r t) {l kind g c o} :
    Option.Rel (fun a b => a.Took r b) (s.allocAll? l kind g c o) (t.allocAll? l kind g c o) := by
  have hfold : ∀ (l : List (Die × Nat)) {a b : Option State}, Option.Rel (fun a b => a.Took r b) a b →
      Option.Rel (fun a b => a.Took r b)
        (l.foldl (fun acc p => acc.bind fun s => (s.alloc? p.1 p.2 kind g c o).map Prod.fst) a)
        (l.foldl (fun acc p => acc.bind fun s => (s.alloc? p.1 p.2 kind g c o).map Prod.fst) b) := by
    intro l
    induction l with
    | nil => exact id
    | cons p l ih =>
      intro a b hab
      refine ih ?_
      cases hab with
      | none => exact .none
      | some hab =>
        obtain ⟨ha, hb⟩ | ⟨x, y, ha, hb, hxy⟩ := rel_iff.1 (hab.alloc? (d := p.1) (n := p.2) (kind := kind) (g := g) (c := c) (o := o))
        · simp only [Option.bind_some, ha, hb]
          exact .none
        · simp only [Option.bind_some, ha, hb]
          exact .some hxy
  exact hfold l (.some h)

end State.Took

/-! ## Settings of a tenant -/

theorem State.Took.now (h : s.Took r t) : t.now = s.now := quiet_now h.quiet

theorem catalog_quiet (s : State) : s.quiet.catalog = s.catalog := ctField_quiet (f := CtDie.catalog) (fun _ => rfl) s s.cp.active

theorem State.Took.catalog (h : s.Took r t) : t.catalog = s.catalog := h.reads catalog_quiet

theorem State.Took.ownerOf (h : s.Took r t) {w} : t.ownerOf w = s.ownerOf w := by
  simp only [State.ownerOf, h.catalog, quiet_slots h.quiet]

theorem State.Took.foreignHandle (h : s.Took r t) {q w} : t.foreign q (t.ownerOf w) = s.foreign q (s.ownerOf w) := by
  rw [h.ownerOf, h.foreign]

/-- The consents but for the requester's for one cabinet. -/
def State.otherConsents (s : State) (r : Reply) (c : Cab) : List RemakeConsent :=
  s.consents.filter fun k => !(k.tenant == (s.tenantOf r).getD 0 && k.cab == c)

/-- The consent that SET_REMAKE_CONSENT's words give (R255, R261). -/
def State.askedConsent (s : State) (r : Reply) (ws : List Word) : RemakeConsent :=
  { tenant := (s.tenantOf r).getD 0, cab := cabOf (wordAt ws 1), dataset := wordAt ws 0, maxSteps := bits (wordAt ws 1) 31 0,
    expiry := (wordAt ws 2).toNat }

section
variable (h : s.admits infoSetRemakeConsent src req = true)
include h

/-- A consent whose time has passed takes the former one away. -/
theorem setRemakeConsent_expired (he : (wordAt req.payload 2).toNat ≤ s.now) :
    Completes (.setRemakeConsent src req) s infoSetRemakeConsent src req Code.ok []
      { s with consents := s.otherConsents (replyOf infoSetRemakeConsent src req) (cabOf (wordAt req.payload 1)) } :=
  completes_of_admits h rfl fun _ ht => ⟨_,
    ht.congr (F := fun s => { s with consents := s.otherConsents (replyOf infoSetRemakeConsent src req) (cabOf (wordAt req.payload 1)) })
      (fun _ => rfl) rfl, if_pos (ht.now ▸ he)⟩

variable (he : s.now < (wordAt req.payload 2).toNat)
include he

theorem setRemakeConsent_noSteps (hn : bits (wordAt req.payload 1) 31 0 = 0) :
    Completes (.setRemakeConsent src req) s infoSetRemakeConsent src req Code.valueOutOfRange [] s :=
  completes_of_admits h rfl fun _ ht => ⟨_, ht, (if_neg (ht.now ▸ not_le.2 he)).trans (if_pos hn)⟩

theorem setRemakeConsent_notOwner (hn : bits (wordAt req.payload 1) 31 0 ≠ 0)
    (ho : s.foreign (replyOf infoSetRemakeConsent src req) (s.ownerOf (wordAt req.payload 0)) = true) :
    Completes (.setRemakeConsent src req) s infoSetRemakeConsent src req Code.notOwner [] s :=
  completes_of_admits h rfl fun t ht => ⟨t, ht, (if_neg (ht.now ▸ not_le.2 he)).trans ((if_neg hn).trans (if_pos (ht.foreignHandle.trans ho)))⟩

theorem setRemakeConsent_stores (hn : bits (wordAt req.payload 1) 31 0 ≠ 0)
    (ho : s.foreign (replyOf infoSetRemakeConsent src req) (s.ownerOf (wordAt req.payload 0)) = false) :
    Completes (.setRemakeConsent src req) s infoSetRemakeConsent src req Code.ok []
      { s with consents := s.otherConsents (replyOf infoSetRemakeConsent src req) (cabOf (wordAt req.payload 1)) ++
          [s.askedConsent (replyOf infoSetRemakeConsent src req) req.payload] } :=
  completes_of_admits h rfl fun _ ht => ⟨_,
    ht.congr (F := fun s =>
      { s with consents := s.otherConsents (replyOf infoSetRemakeConsent src req) (cabOf (wordAt req.payload 1)) ++
          [s.askedConsent (replyOf infoSetRemakeConsent src req) req.payload] }) (fun _ => rfl) rfl,
    (if_neg (ht.now ▸ not_le.2 he)).trans
      ((if_neg hn).trans (if_neg (ne_true_of_eq_false (ht.foreignHandle.trans ho))))⟩

end

theorem redSettingsOf_eq (ws : List Word) :
    let dl := bits (wordAt ws 0) 31 0
    let w := wordAt ws 1
    redSettingsOf ws =
      if 100 ≤ dl ∧ dl ≤ 1000000 ∧ 8 ≤ bits w 63 58 ∧ bits w 63 58 ≤ 24 ∧ bits w 57 55 ≤ 4 ∧ (bits w 54 52 ≤ 4 ∨ bits w 54 52 = 7) ∧
          4096 ≤ bits w 51 28 ∧ bits w 51 28 ≤ 4194304 ∧ bits w 51 28 % 4096 = 0 then
        some { deadline := dl, tauExp := bits w 63 58, wire := Fin.ofNat 8 (bits w 57 55), headroom := bits w 54 52, bucket := bits w 51 28 }
      else none := by
  simp only [redSettingsOf, within_iff, Bool.and_eq_true, Bool.or_eq_true, decide_eq_true_eq, beq_iff_eq, and_assoc]

theorem ready_mem {n : Fin 8} (h : n = RunSt.running ∨ n = RunSt.stopped) : n ∈ [RunSt.running, RunSt.stopped] := by
  simpa using h

/-- The run's tenant glove, as the run's pages name it. -/
def State.runGlove (s : State) (x : Run) : BitVec 16 := ((s.tenantGlove? x.tenant).map Glove.id).getD 0

/-- A run with the thinning that SET_THINNING's words ask for (R255, R323): the layers, and the side of the blocks. -/
def Run.thinned (x : Run) (ws : List Word) : Run :=
  { x with thinNext := x.thinNext ++ [(bits (wordAt ws 1) 63 48, bits (wordAt ws 1) 47 32,
                                       if bits (wordAt ws 1) 31 28 = 0 then 0 else 2 ^ (bits (wordAt ws 1) 31 28 - 1))] }

section
variable {x : Run} (h : s.admits infoSetThinning src req = true)
  (hx : s.run? (BitVec.ofNat 32 (bits (wordAt req.payload 0) 63 32)) = some x)
  (hf : s.foreign (replyOf infoSetThinning src req) x.tenant = false) (hst : x.state = RunSt.running ∨ x.state = RunSt.stopped)
include h hx hf hst

theorem setThinning_refuses
    (hok : s.thinOk x (bits (wordAt req.payload 1) 63 48) (bits (wordAt req.payload 1) 47 32) (bits (wordAt req.payload 1) 31 28) = false) :
    Completes (.setThinning src req) s infoSetThinning src req Code.valueOutOfRange [] s :=
  runCommand_completes h rfl hx hf (ready_mem hst) fun t ht => ⟨_, ht, if_pos (by
    rw [ht.reads (f := fun s => s.thinOk x _ _ _) fun _ => rfl, hok]; rfl)⟩

/-- The two ends of a SET_THINNING whose layers are in range, by what the allocation of the pages gives. -/
theorem setThinning_allocates
    (hok : s.thinOk x (bits (wordAt req.payload 1) 63 48) (bits (wordAt req.payload 1) 47 32) (bits (wordAt req.payload 1) 31 28) = true) :
    let y := x.thinned req.payload
    let space := s.allocAll? (s.morePages x y) PKind.run (s.runGlove x) x.cab x.id
    (space = none → Completes (.setThinning src req) s infoSetThinning src req Code.runNoSpace [] s) ∧
      (∀ v, space = some v → Completes (.setThinning src req) s infoSetThinning src req Code.ok [] (v.modRun x.id fun _ => y)) := by
  intro y space
  have hbody : ∀ {t : State}, s.Took (replyOf infoSetThinning src req) t → ¬(!t.thinOk x (bits (wordAt req.payload 1) 63 48)
      (bits (wordAt req.payload 1) 47 32) (bits (wordAt req.payload 1) 31 28)) = true := fun ht => by
    rw [ht.reads (f := fun s => s.thinOk x _ _ _) fun _ => rfl, hok]; decide
  have hpages : ∀ {t : State}, s.Took (replyOf infoSetThinning src req) t →
      Option.Rel (fun a b => a.Took (replyOf infoSetThinning src req) b) space
        (t.allocAll? (t.morePages x y) PKind.run (t.runGlove x) x.cab x.id) := fun ht => by
    rw [ht.reads (f := fun s => s.morePages x y) fun _ => rfl, ht.reads (f := fun s => s.runGlove x) fun _ => rfl]
    exact ht.allocAll?
  have hy : { x with thinNext := x.thinNext ++ [(bits (wordAt req.payload 1) 63 48, bits (wordAt req.payload 1) 47 32,
      if bits (wordAt req.payload 1) 31 28 = 0 then 0 else 1 <<< (bits (wordAt req.payload 1) 31 28 - 1))] } = y := by
    simp only [y, Run.thinned, Nat.one_shiftLeft]
  refine ⟨fun hs => runCommand_completes h rfl hx hf (ready_mem hst) fun t ht => ⟨t, ht, (if_neg (hbody ht)).trans ?_⟩,
    fun v hs => runCommand_completes h rfl hx hf (ready_mem hst) fun t ht => ?_⟩
  · obtain ⟨-, hn⟩ | ⟨a, b, ha, -⟩ := rel_iff.1 (hpages ht)
    · simp only [hy]
      exact (by rw [State.runGlove] at hn; rw [hn])
    · rw [hs] at ha; cases ha
  · obtain ⟨hn, -⟩ | ⟨a, b, ha, hb, hab⟩ := rel_iff.1 (hpages ht)
    · rw [hs] at hn; cases hn
    · obtain rfl : v = a := Option.some.inj (hs.symm.trans ha)
      refine ⟨_, hab.modRun, (if_neg (hbody ht)).trans ?_⟩
      simp only [hy]
      rw [State.runGlove] at hb
      rw [hb]

end

theorem tenantSettings : TenantSettings := by
  intro s src req w ready
  refine ⟨fun x ⟨h, hx, hf, hst⟩ => ⟨fun hl => ?_, fun hl => ?_⟩, fun x ⟨h, hx, hf, hst⟩ => ⟨fun hok => ?_, fun hok => ?_⟩,
    fun x ⟨h, hx, hf, hst⟩ => ⟨fun hok => ?_, fun hok => ⟨fun hs => ?_, fun v hs => ?_⟩⟩,
    fun h => ⟨fun he => ?_, fun he hn => ?_, fun he hn ho => ?_, fun he hn ho => ?_⟩⟩
  · exact runCommand_completes h rfl hx hf (ready_mem hst) fun t ht => ⟨_, ht.modRun, if_neg (ne_true_of_eq_false (congrArg not hl))⟩
  · exact runCommand_completes h rfl hx hf (ready_mem hst) fun t ht => ⟨_, ht, if_pos (congrArg not hl)⟩
  · exact runCommand_completes h rfl hx hf (ready_mem hst) fun t ht => ⟨_, ht.modRun, by rw [redSettingsOf_eq, if_pos hok]⟩
  · exact runCommand_completes h rfl hx hf (ready_mem hst) fun t ht => ⟨_, ht, by rw [redSettingsOf_eq, if_neg hok]⟩
  · exact setThinning_refuses h hx hf hst hok
  · exact (setThinning_allocates h hx hf hst hok).1 hs
  · exact (setThinning_allocates h hx hf hst hok).2 v hs
  · exact setRemakeConsent_expired h he
  · exact setRemakeConsent_noSteps h he hn
  · exact setRemakeConsent_notOwner h he hn ho
  · exact setRemakeConsent_stores h he hn ho

/-- Settles O16: the refusals by the search that every command on a run begins with, the settings by what each stores. -/
theorem runSettings : Obligations.RunSettings := ⟨runCommandRefusals, tenantSettings⟩

end Sys2Proof.Machine
end
section
/-!
PROOF. CONFIGURE_CABINET (R37, R69, R70).
-/

namespace Sys2Proof.Machine

variable {s t u : State} {r : Reply} {info : CmdInfo} {src : Src} {req : Req} {i : Instr}

theorem mem_diesOf {m : BitVec 16} {d : Die} : d ∈ diesOf m ↔ hasDie m d.val = true := by simp [diesOf]

theorem diesOf_isEmpty {m : BitVec 16} : (diesOf m).isEmpty = true ↔ m = 0 := by
  rw [List.isEmpty_iff, List.eq_nil_iff_forall_not_mem]
  simp only [mem_diesOf, hasDie, Bool.not_eq_true]
  constructor
  · intro h
    exact BitVec.eq_of_getLsbD_eq fun k hk => by simpa using h ⟨k, hk⟩
  · rintro rfl d
    simp

/-- A die of the bitmap belongs to another cabinet. -/
def State.heldElsewhere (s : State) (c : Cab) (m : BitVec 16) : Prop := ∃ d k, hasDie m d.val = true ∧ s.cabOfDie d = some k ∧ k ≠ c

theorem heldElsewhere_iff {c : Cab} {m : BitVec 16} : s.heldElsewhere c m ↔
    ((diesOf m).any fun d => match s.cabOfDie d with | some k => k != c | none => false) = true := by
  simp only [List.any_eq_true, mem_diesOf, State.heldElsewhere]
  refine exists_congr fun d => ?_
  cases s.cabOfDie d <;> simp

/-- The dies of the bitmap are whole span groups. -/
def wholeGroups (span : Nat) (m : BitVec 16) : Prop :=
  ∀ d : Die, hasDie m d.val = true → ∀ i < span, hasDie m (d.val / span * span + i) = true

theorem wholeGroups_iff {span : Nat} {m : BitVec 16} (hs : span ∈ [1, 2, 4]) : wholeGroups span m ↔
    ((diesOf m).all fun d => (groupDies span (groupOf span d)).all fun x => hasDie m x.val) = true := by
  have hpos : span ≠ 0 := by rintro rfl; simp at hs
  have hdie : ∀ (d : Die) (i : Nat), i < span → d.val / span * span + i < 16 := by
    simp only [List.mem_cons, List.not_mem_nil, or_false] at hs
    intro d i hi
    obtain rfl | rfl | rfl := hs <;> omega
  simp only [List.all_eq_true, mem_diesOf, groupDies, groupOf, if_neg hpos, List.mem_map, List.mem_range, wholeGroups]
  refine forall_congr' fun d => forall_congr' fun hd => ?_
  constructor
  · rintro h _ ⟨i, hi, rfl⟩
    simpa [Nat.mod_eq_of_lt (hdie d i hi), Nat.mod_eq_of_lt (lt_of_le_of_lt (Nat.div_mul_le_self d.val span) d.isLt)] using h i hi
  · intro h i hi
    simpa [Nat.mod_eq_of_lt (hdie d i hi), Nat.mod_eq_of_lt (lt_of_le_of_lt (Nat.div_mul_le_self d.val span) d.isLt)] using
      h _ ⟨i, hi, rfl⟩

theorem span_iff {span : Nat} : span ∈ [1, 2, 4] ↔ ¬(span != 1 && span != 2 && span != 4) = true := by
  simp; omega

/-- The cabinet's answer where it takes the dies named. -/
theorem configureCode_none {c : Cab} {span : Nat} {m : BitVec 16} (hst : (s.cab c).state.val ≤ 1) (hm : m ≠ 0) (hs : span ∈ [1, 2, 4])
    (hh : ¬s.heldElsewhere c m) (hw : wholeGroups span m) : s.configureCode c span m = none :=
  (if_neg (not_lt.2 hst)).trans <| (if_neg (diesOf_isEmpty.not.2 hm)).trans <| (if_neg (span_iff.1 hs)).trans <|
    (if_neg (heldElsewhere_iff.not.1 hh)).trans (if_pos ((wholeGroups_iff hs).1 hw))

theorem configureCode_parted {c : Cab} {span : Nat} {m : BitVec 16} (hst : (s.cab c).state.val ≤ 1) (hm : m ≠ 0) (hs : span ∈ [1, 2, 4])
    (hh : ¬s.heldElsewhere c m) (hw : ¬wholeGroups span m) : s.configureCode c span m = some Code.spanInvalid :=
  (if_neg (not_lt.2 hst)).trans <| (if_neg (diesOf_isEmpty.not.2 hm)).trans <| (if_neg (span_iff.1 hs)).trans <|
    (if_neg (heldElsewhere_iff.not.1 hh)).trans (if_neg ((wholeGroups_iff hs).not.1 hw))

theorem configureCode_held {c : Cab} {span : Nat} {m : BitVec 16} (hst : (s.cab c).state.val ≤ 1) (hm : m ≠ 0) (hs : span ∈ [1, 2, 4])
    (hh : s.heldElsewhere c m) : s.configureCode c span m = some Code.dieInUse :=
  (if_neg (not_lt.2 hst)).trans <| (if_neg (diesOf_isEmpty.not.2 hm)).trans <| (if_neg (span_iff.1 hs)).trans <|
    if_pos (heldElsewhere_iff.1 hh)

theorem configureCode_span {c : Cab} {span : Nat} {m : BitVec 16} (hst : (s.cab c).state.val ≤ 1) (hm : m ≠ 0) (hs : span ∉ [1, 2, 4]) :
    s.configureCode c span m = some Code.spanInvalid := by
  rw [State.configureCode, if_neg (not_lt.2 hst), if_neg (diesOf_isEmpty.not.2 hm), if_pos (not_not.1 (span_iff.not.1 hs))]

theorem configureCode_free {c : Cab} {span : Nat} (hst : (s.cab c).state.val ≤ 1) : s.configureCode c span 0 = none := by
  rw [State.configureCode, if_neg (not_lt.2 hst), if_pos (diesOf_isEmpty.2 rfl)]

theorem configureCode_busy {c : Cab} {span : Nat} {m : BitVec 16} (hst : 1 < (s.cab c).state.val) :
    s.configureCode c span m = some Code.cabinetBusy := if_pos hst

/-- The dies that CONFIGURE_CABINET's word names. -/
def askedDies (req : Req) : BitVec 16 := BitVec.ofNat 16 (bits (wordAt req.payload 0) 55 40)

theorem State.Took.configureCode (h : s.Took r t) {c span m} : t.configureCode c span m = s.configureCode c span m :=
  h.reads (f := fun s => s.configureCode c span m) fun _ => rfl

theorem configureCabinet_refuses {k : Nat} (h : s.admits infoConfigureCabinet src req = true)
    (hk : s.configureCode (cabOf (wordAt req.payload 0)) (bits (wordAt req.payload 0) 59 56) (askedDies req) = some k) :
    Completes (.configureCabinet src req) s infoConfigureCabinet src req k [] s :=
  completes_of_admits h rfl fun t ht => ⟨t, ht, by
    rw [askedDies] at hk
    simp only [ht.configureCode, hk]⟩

theorem configureCabinet_takes (h : s.admits infoConfigureCabinet src req = true)
    (hk : s.configureCode (cabOf (wordAt req.payload 0)) (bits (wordAt req.payload 0) 59 56) (askedDies req) = none) :
    Completes (.configureCabinet src req) s infoConfigureCabinet src req Code.ok []
      (s.modCab (cabOf (wordAt req.payload 0)) fun x =>
        if askedDies req = 0 then { x with dies := 0, span := 0, state := 0 }
        else { x with dies := askedDies req, span := bits (wordAt req.payload 0) 59 56, state := 1 }) :=
  completes_of_admits h rfl fun t ht => ⟨_, ht.modCab, by
    rw [askedDies] at hk
    simp only [ht.configureCode, hk]
    rfl⟩

/-- A die of no cabinet accepts no seating (R37). -/
theorem passStart_of_no_cabinet {d : Die} {trans : Bool} (hd : s.cabOfDie d = none) : Answers (.passStart d trans) s fun t => t = s :=
  ⟨_, rfl, by simp only [hd]⟩

/-- Settles O17: the code is the first of the refusals that holds, and a request that none refuses sets the cabinet's dies. -/
theorem cabinetIsConfigured : Obligations.CabinetIsConfigured := by
  intro s src req h w c span m held whole
  refine ⟨fun hst => configureCabinet_refuses h (configureCode_busy hst), fun hst => ⟨fun hm => ?_, fun hm hs => ?_, fun hm hs =>
    ⟨fun hh => ?_, fun hh hw => ?_, fun hh hw => ?_⟩⟩, fun d trans hd => passStart_of_no_cabinet hd⟩
  · have hm : askedDies req = 0 := hm
    simpa only [hm, if_true] using configureCabinet_takes h (by rw [hm]; exact configureCode_free hst)
  · exact configureCabinet_refuses h (configureCode_span hst hm hs)
  · exact configureCabinet_refuses h (configureCode_held hst hm hs hh)
  · exact configureCabinet_refuses h (configureCode_parted hst hm hs hh hw)
  · have hm : askedDies req ≠ 0 := hm
    have ht := configureCabinet_takes h (configureCode_none hst hm hs hh hw)
    simp only [hm, if_false] at ht
    exact ht

end Sys2Proof.Machine
end
section
/-!
PROOF. The end of a pass (R50, R55, R390) in a module whose glove table lists one id twice.
-/

namespace Sys2Proof.Machine

/-- The one row of a pass: a decode row of request 0. -/
def lastRow : SeatRow :=
  { cluster := 0, pos := 0, tag := 0xffff, kind := 1, glove := 0x100, request := some 0, run := none, seq := 0, token := 0, act := [] }

/-- A forward pass of that row. -/
def lastPass : Pass :=
  { seating := 0, trans := false, rows := [lastRow], unseated := [], tokens := [], started := 0, clips := 0, withheld := false, mid := false }

/-- Session 0 of tenant 42, which has carried GLOVE_CLOSE. -/
def drainingSession : Session :=
  { n := 0, tenant := 42, cab := 0, nonce := 0, ct := [], keyId := 0, answer := [], opened := 0, draining := true, rxHigh := none,
    seen := [], rxNext := 0, ackHigh := none, txNext := 0, txAckNext := 0, unacked := [], toSend := [], inbox := [], ackDue := false,
    discarded := 0, src := 0, srcPort := 0, eventMseq := 0, served := [] }

/-- Request 0 of the session, seated, that asks for one token. -/
def lastRequest : Request :=
  { id := 0, session := 0, tenant := 42, cab := 0, ask := { handle := 0, rowTag := 0xffff, promptRows := 1, tokens := 1 },
    state := RState.seated, code := 0, group := some 0, slot := none, placed := 1, delivered := 0, ready := 0, since := 0, seq := 0,
    kvPages := 0, inPass := true, passedOver := false, arrived := 0, admitted := 0, ended := 0, pinned := false, out := [], record := [] }

/-- A glove under id 0x100 that waits for nothing more of its erasure, and one under the same id whose rotation has no page left. -/
def twinGloves : List Glove :=
  [{ madeGlove 0x100 1 0 0 0 0 with phase := 7 }, { madeGlove 0x100 1 0 0 0 0 with phase := 3 }]

/-- The pass of request 0's last token on the one die of cabinet 0. -/
def lastTokenModule : State :=
  { State.reset with
    cabs := { Cabinet.reset with dies := 1, span := 1, state := 3 } :: List.replicate 15 Cabinet.reset,
    dies := { DieSt.reset with pass := some lastPass } :: List.replicate 15 DieSt.reset,
    requests := [lastRequest], nextRequest := 1,
    rot := { State.reset.rot with gloves := twinGloves, sessions := [drainingSession] } }

theorem idsUnique_lastTokenModule : lastTokenModule.idsUnique := by
  refine ⟨?_, ?_, ?_, ?_⟩ <;> decide

/-- The request's end frees pages, the rotation's look at its sweep finds the glove that is erased, and with it the draining session
goes. -/
theorem session_gone_after_last_token :
    (match exec (.passEnd 0 [(0, 7)]) lastTokenModule with | .next t => (t.session? 0).isNone | _ => false) = true := by
  decide +kernel

/-- Refutes O27: in `lastTokenModule`, whose glove table lists one id twice, once in erasure, the token that ends request 0 frees its pages,
that erases the glove, and the draining session 0 closes: it is not there to hold the token that the statement says it was served. -/
theorem not_passesRun : ¬ Obligations.PassesRun := by
  rintro ⟨-, -, hend, -⟩
  obtain ⟨-, hlast⟩ := hend lastTokenModule 0 0 lastPass [(0, 7)] (by decide +kernel) idsUnique_lastTokenModule (by decide +kernel) rfl rfl
    rfl rfl (by decide) rfl
  obtain ⟨t, ht, -, -, hreq⟩ := hlast (by decide)
  obtain ⟨hserved, -⟩ := hreq 0 lastRequest 7 rfl (by decide) rfl ⟨lastRow, by decide, rfl, rfl⟩ (by decide +kernel) (by decide)
  obtain ⟨y, hy, -⟩ := hserved drainingSession rfl
  have hgone := session_gone_after_last_token
  rw [ht] at hgone
  have hy : t.session? 0 = some y := hy
  simp [hy] at hgone

end Sys2Proof.Machine
end
section
/-!
SUPPORT. What the end of a request leaves unchanged (R41, R55, R56): the release of a shelf, which may follow it, included.
-/

namespace Sys2Proof.Machine

variable {s t u : State} {r : Reply}

/-- What no step of a sequence changes, the sequence does not. -/
theorem foldl_keeps {α β : Type} {g : State → β} {f : State → α → State} (hf : ∀ s a, g (f s a) = g s) (l : List α) (s : State) :
    g (l.foldl f s) = g s := by
  induction l generalizing s with
  | nil => rfl
  | cons a l ih => exact (ih _).trans (hf _ _)

/-- The state without what the release of a shelf settles: beside what residencies settle, the cabinets, their dies' seatings, programs and
streams. -/
def State.still (s : State) : State := { s.calm with cabs := [], dies := [], programs := [], streams := [] }

theorem still_of_calm (h : t.calm = s.calm) : t.still = s.still := by
  rw [State.still, State.still, h]

@[simp] theorem still_discardGlove (s : State) (id : BitVec 16) : (s.discardGlove id).still = s.still := by
  refine still_of_calm ?_
  unfold State.discardGlove
  split
  · rfl
  · rw [calm_completeAll, calm_eraseGlove]

/-! ## The release of a shelf in its stages -/

/-- A die without the seatings that wait on it. -/
def DieSt.emptied (d : DieSt) : DieSt := { d with arrived := [], onLink := [], again := [], tokensOnWay := [], panelNext := none }

/-- The cabinet's drawers go: its fetches, its residencies, the evictions that waited for them. -/
def State.dropDrawers (s : State) (c : Cab) : State :=
  let t := ({ s with fetches := s.fetches.filter fun f => f.cab != c } : State).answerFetch
    ((s.fetches.filter fun f => f.cab == c).flatMap Fetch.replies) Code.noShelf
  let t := (t.residencies.filter fun r => r.cab == c).foldl (fun s r => s.releaseResidency c r.slot r.group) t
  (t.slots.filter fun y => y.cab == c).foldl (fun (s : State) y => s.settleEvict c y.slot) t

/-- The dies' seatings go. -/
def State.emptyDies (s : State) (m : BitVec 16) : State := (diesOf m).foldl (fun (s : State) d => s.modDie d DieSt.emptied) s

/-- Claims, programs and the serving stream go. -/
def State.dropPrograms (s : State) (c : Cab) (serving : Option (Fin 4096)) : State :=
  { s with xclaims := s.xclaims.filter fun y => y.cab != c, programs := s.programs.filter fun p => p.cab != c,
           streams := s.streams.filter fun t => some t.id != serving }

/-- The shelf's pages and its glove go. -/
def State.dropShelfPages (s : State) (c : Cab) : State :=
  (s.freePages fun p => (p.kind == PKind.shelf || p.kind == PKind.program) && p.cab == c).discardGlove (BitVec.ofNat 16 (0x10 + c.val))

/-- A cabinet without a shelf. -/
def Cabinet.bare (y : Cabinet) : Cabinet :=
  { y with state := 1, shelf := none, split := [], serving := none, unmount := none, mountReply := none }

/-- The UNMOUNT_SHELF commands that waited. -/
def Cabinet.unmountReplies (y : Cabinet) : List Reply := (y.unmount.map Prod.snd).getD []

theorem releaseShelf_eq (s : State) (c : Cab) : s.releaseShelf c =
    (((((s.dropDrawers c).emptyDies (s.cab c).dies).dropPrograms c (s.cab c).serving).dropShelfPages c).modCab c
      Cabinet.bare).completeAll (s.cab c).unmountReplies Code.ok [] := by
  rw [Cabinet.unmountReplies]
  rcases h : (s.cab c).unmount with - | ⟨b, rs⟩
  · simp only [State.releaseShelf, h]; rfl
  · simp only [State.releaseShelf, h]; rfl

theorem calm_dropDrawers (s : State) (c : Cab) : (s.dropDrawers c).calm = s.calm :=
  (calm_foldl (fun _ _ => calm_settleEvict ..) _ _).trans
    ((calm_foldl (fun _ _ => calm_releaseResidency ..) _ _).trans (calm_answerFetch ..))

@[simp] theorem still_emptyDies (s : State) (m : BitVec 16) : (s.emptyDies m).still = s.still :=
  foldl_keeps (g := State.still) (f := fun s d => s.modDie d DieSt.emptied) (fun _ _ => rfl) _ _

@[simp] theorem still_dropShelfPages (s : State) (c : Cab) : (s.dropShelfPages c).still = s.still :=
  (still_discardGlove ..).trans (still_of_calm (calm_freePages ..))

@[simp] theorem still_releaseShelf (s : State) (c : Cab) : (s.releaseShelf c).still = s.still := by
  rw [releaseShelf_eq]
  refine (still_of_calm (calm_completeAll ..)).trans ?_
  refine (still_dropShelfPages _ c).trans ?_
  exact (still_emptyDies _ _).trans (still_of_calm (calm_dropDrawers s c))

@[simp] theorem still_settleUnmount (s : State) (c : Cab) : (s.settleUnmount c).still = s.still := by
  unfold State.settleUnmount
  split
  · exact still_releaseShelf ..
  · rfl

end Sys2Proof.Machine
end
section
/-!
PROOF. Serving requests are admitted (R54, R55, R57, R59).
-/

namespace Sys2Proof.Machine

variable {s t u : State} {q : Request} {i : Nat}

/-! ## A request that is changed, and one that ends -/

theorem still_requests (h : t.still = s.still) : t.requests = s.requests := by
  have := congrArg State.requests h
  exact this
theorem still_nextRequest (h : t.still = s.still) : t.nextRequest = s.nextRequest := by
  have := congrArg State.nextRequest h
  exact this

theorem request?_id (h : s.request? i = some q) : q.id = i := by simpa using List.find?_some h

theorem request?_modRequest_same {f : Request → Request} (h : s.request? i = some q) (hf : (f q).id = i) :
    (s.modRequest i f).request? i = some (f q) :=
  find?_updFirst h (by simp [hf])

theorem request?_modRequest_ne {f : Request → Request} (hf : ∀ x, (f x).id = x.id) {k : Nat} (hk : k ≠ i) :
    (s.modRequest i f).request? k = s.request? k := by
  change (updFirst _ f s.requests).find? _ = s.requests.find? _
  induction s.requests with
  | nil => rfl
  | cons x l ih =>
    by_cases hx : x.id = i
    · have hxk : ¬x.id = k := fun h => hk (h.symm.trans hx)
      simp [updFirst, hx, hf, Ne.symm hk]
    · simp [updFirst, hx, List.find?_cons, ih]

/-- A request that has finished with a code. -/
def Request.finished (q : Request) (code now : Nat) : Request :=
  { q with state := RState.ended, code := code, ready := 0, inPass := false, passedOver := false, pinned := false, kvPages := 0, ended := now }

/-- What the end of a waiting request leaves: its row, and everything that does not follow from the pages and the shelf that it frees. -/
theorem still_endRequest (hq : s.request? i = some q) (hst : q.state = RState.queued) (hp : q.pinned = false) (code : Nat) :
    (s.endRequest i code).still = (s.modRequest i fun q => q.finished code s.now).still := by
  have h0 : ¬(q.state = RState.done || q.state = RState.ended) = true := by rw [hst]; decide
  have h1 : ¬RState.ended = RState.done := by decide
  simp only [State.endRequest, State.closeRequest, hq, if_neg h0, if_neg h1, hp]
  exact (still_settleUnmount ..).trans (still_of_calm (calm_freePages ..))

theorem finished_mem_endRequest (hq : s.request? i = some q) (hst : q.state = RState.queued) (hp : q.pinned = false) (code : Nat) :
    q.finished code s.now ∈ (s.endRequest i code).requests := by
  rw [still_requests (still_endRequest hq hst hp code)]
  exact List.mem_of_find?_eq_some (request?_modRequest_same (f := fun q => q.finished code s.now) hq (show q.id = i from request?_id hq))

/-! ## The request that arrives -/

/-- The request that a SERVING_REQUEST makes. -/
def State.newRequest (s : State) (n : Sess) (x : Session) (r : ServeReq) : Request :=
  { id := s.nextRequest, session := n, tenant := x.tenant, cab := x.cab, ask := r, state := RState.queued, code := 0, group := none,
    slot := none, placed := 0, delivered := 0, ready := 0, since := s.now, seq := 0, kvPages := 0, inPass := false,
    passedOver := false, arrived := s.now, admitted := 0, ended := 0, pinned := false, out := [], record := [] }

/-- The state in which a request stands last in the queue. -/
def State.enqueue (s : State) (q : Request) : State := { s with requests := s.requests ++ [q], nextRequest := s.nextRequest + 1 }

theorem request?_enqueue_same (hu : s.idsUnique) (hq : q.id = s.nextRequest) : (s.enqueue q).request? s.nextRequest = some q := by
  have hold : s.requests.find? (fun x => x.id == s.nextRequest) = none := by
    simpa using fun x hx => (hu.2.1 x hx).ne
  simp [State.request?, State.enqueue, List.find?_append, hold, hq]

theorem request?_enqueue_ne {k : Nat} (hq : k ≠ q.id) : (s.enqueue q).request? k = s.request? k := by
  simp [State.request?, State.enqueue, List.find?_append, Ne.symm hq]

theorem exec_servingRequest_refused {n : Sess} {x : Session} {r : ServeReq} {c : Nat} (hx : s.session? n.val = some x)
    (hc : s.requestCode x r = some c) :
    exec (.servingRequest n r) s = .next ((s.enqueue (s.newRequest n x r)).endRequest s.nextRequest c) := by
  have hc' : (s.enqueue (s.newRequest n x r)).requestCode x r = some c := hc
  simp only [State.enqueue, State.newRequest] at hc'
  simp only [exec, execServingRequest, hx, hc']
  rfl

/-- The state in which a request that may run is tested: its glove counts its tokens. -/
def State.counted (s : State) (q : Request) (g : Glove) : State :=
  (s.enqueue q).modGlove g.id.toNat fun y => { y with tokensIn := y.tokensIn + q.ask.promptRows }

theorem exec_servingRequest_tested {n : Sess} {x : Session} {r : ServeReq} {g : Glove} (hx : s.session? n.val = some x)
    (hc : s.requestCode x r = none) (hg : s.tenantGlove? x.tenant = some g) :
    exec (.servingRequest n r) s = .next ((s.counted (s.newRequest n x r) g).tryAdmit s.nextRequest) := by
  have hc' : (s.enqueue (s.newRequest n x r)).requestCode x r = none := hc
  have hg' : (s.enqueue (s.newRequest n x r)).tenantGlove? x.tenant = some g := hg
  simp only [State.enqueue, State.newRequest] at hc' hg'
  simp only [exec, execServingRequest, hx, hc', hg']
  rfl

/-- The change of a field that a search does not read leaves the search's other readings. -/
theorem map_find?_updFirst {α β : Type} {p r : α → Bool} {f : α → α} {g : α → β} (hr : ∀ x, r (f x) = r x) (hg : ∀ x, g (f x) = g x)
    (l : List α) : ((updFirst p f l).find? r).map g = (l.find? r).map g := by
  induction l with
  | nil => rfl
  | cons a l ih => by_cases hp : p a <;> by_cases ha : r a <;> simp_all [updFirst]

theorem tenantGloveId_counted {g : Glove} (q : Request) {n : BitVec 32} (hg : s.tenantGlove? n = some g) :
    (((s.counted q g).tenantGlove? n).map Glove.id).getD 0 = g.id := by
  have h : ((s.counted q g).tenantGlove? n).map Glove.id = (s.tenantGlove? n).map Glove.id :=
    map_find?_updFirst (f := fun y => { y with tokensIn := y.tokensIn + q.ask.promptRows }) (fun _ => rfl) (fun _ => rfl) s.rot.gloves
  rw [h, hg]
  rfl

/-! ## The test of a waiting request (R54, R55) -/

theorem admits?_iff {c : Cab} {n : BitVec 32} : s.admits? c n = true ↔
    (s.cab c).state = 3 ∧ (s.cab c).adm.isOpen = true ∧ s.admittedOf c n < (s.cab c).adm.quota := by
  simp [State.admits?, and_assoc]

theorem length_filter_updFirst {α : Type} {p r : α → Bool} {f : α → α} (hr : ∀ x, r (f x) = r x) (l : List α) :
    ((updFirst p f l).filter r).length = (l.filter r).length := by
  induction l with
  | nil => rfl
  | cons a l ih => by_cases hp : p a <;> by_cases ha : r a <;> simp_all [updFirst]

/-- The slot of a request does not count in the quota of its tenant. -/
theorem admits?_slot {c : Cab} {n : BitVec 32} {k : Option Nat} :
    (s.modRequest i fun q => { q with slot := k }).admits? c n = s.admits? c n := by
  have h : (s.modRequest i fun q => { q with slot := k }).admittedOf c n = s.admittedOf c n :=
    length_filter_updFirst (f := fun q : Request => { q with slot := k }) (fun _ => rfl) s.requests
  rw [State.admits?, h]
  rfl

/-- The group of an admission: none where the settings admit nothing. -/
theorem admission_none {c : Cab} {n : BitVec 32} {k : Option Nat} {a : ServeReq}
    (h : ¬s.admits? c n = true ∨ s.chooseGroup c k a = none) : (if s.admits? c n then s.chooseGroup c k a else none) = none := by
  rcases h with h | h
  · exact if_neg h
  · rw [h, ite_self]

theorem tryAdmit_waits (hq : s.request? i = some q) (hst : q.state = RState.queued) (h0 : q.ask.handle = 0)
    (h : ¬s.admits? q.cab q.tenant = true ∨ s.chooseGroup q.cab none q.ask = none) : s.tryAdmit i = s := by
  have hst' : ¬(q.state != RState.queued) = true := by simp [hst]
  simp only [State.tryAdmit, hq, if_neg hst', if_pos h0, admission_none h]

theorem tryAdmit_admits {k : Die} (hq : s.request? i = some q) (hst : q.state = RState.queued) (h0 : q.ask.handle = 0)
    (ha : s.admits? q.cab q.tenant = true) (hk : s.chooseGroup q.cab none q.ask = some k) : s.tryAdmit i = s.admitTo q k := by
  have hst' : ¬(q.state != RState.queued) = true := by simp [hst]
  simp only [State.tryAdmit, hq, if_neg hst', if_pos h0, if_pos ha, hk]

/-- The code with which a slot ends a request of a tenant. -/
def Slot.EndsWith (y : Slot) (tenant : BitVec 32) (code : Nat) : Prop :=
  (y.owner?.any (fun t => t != tenant) = true ∧ code = Code.notOwner) ∨
    (y.owner?.any (fun t => t != tenant) = false ∧ y.state = SState.stale ∧ code = Code.staleShelf) ∨
    (y.owner?.any (fun t => t != tenant) = false ∧ y.state = SState.failed ∧ code = y.lastCode)

section Slot

variable {y : Slot} (hq : s.request? i = some q) (hst : q.state = RState.queued) (h0 : q.ask.handle ≠ 0)
  (hs : s.slotOf q.cab q.ask.handle = some y) (hy : s.slot? q.cab y.slot = some y)

include hq hst h0 hs hy

theorem tryAdmit_slotEnds {code : Nat} (h : y.EndsWith q.tenant code) :
    s.tryAdmit i = (s.modRequest i fun q => { q with slot := some y.slot }).endRequest i code := by
  have hst' : ¬(q.state != RState.queued) = true := by simp [hst]
  have hne : ¬SState.failed = SState.stale := by decide
  simp only [State.tryAdmit, hq, if_neg hst', if_neg h0, State.slotForRequest, hs, hy]
  obtain ⟨ho, rfl⟩ | ⟨ho, hy, rfl⟩ | ⟨ho, hy, rfl⟩ := h
  · simp only [ho, if_true]
  · simp only [ho, hy, if_true, Bool.false_eq_true, if_false]
  · simp only [ho, hy, if_true, Bool.false_eq_true, if_false, hne]

theorem tryAdmit_slotWaits (ho : y.owner?.any (fun t => t != q.tenant) = false) (h1 : y.state ≠ SState.stale)
    (h2 : y.state ≠ SState.failed)
    (h : (s.modRequest i fun q => { q with slot := some y.slot }).admits? q.cab q.tenant = false) :
    s.tryAdmit i = s.modRequest i fun q => { q with slot := some y.slot } := by
  have hst' : ¬(q.state != RState.queued) = true := by simp [hst]
  simp only [State.tryAdmit, hq, if_neg hst', if_neg h0, State.slotForRequest, hs, hy, ho, if_neg h1, if_neg h2, h, Bool.false_eq_true,
    if_false, ite_self]

end Slot

/-! ## Admission to a group (R54) -/

/-- An allocation changes the page table alone. -/
theorem alloc?_pages {d : Die} {n : Nat} {kind : Fin 16} {g : BitVec 16} {c : Cab} {o : BitVec 32} {p : State × List (Stack × Fin 32768)}
    (h : s.alloc? d n kind g c o = some p) : p.1 = { s with pages := p.1.pages } := by
  unfold State.alloc? at h
  split at h
  · cases h
  · cases h
    rfl

theorem allocAll?_pages {l : List (Die × Nat)} {kind : Fin 16} {g : BitVec 16} {c : Cab} {o : BitVec 32}
    (h : s.allocAll? l kind g c o = some t) : t = { s with pages := t.pages } := by
  have hfold : ∀ (l : List (Die × Nat)) (a : Option State), (∀ v, a = some v → v = { s with pages := v.pages }) →
      ∀ v, l.foldl (fun acc p => acc.bind fun s => (s.alloc? p.1 p.2 kind g c o).map Prod.fst) a = some v →
        v = { s with pages := v.pages } := by
    intro l
    induction l with
    | nil => exact fun a ha => ha
    | cons p l ih =>
      refine fun a ha => ih _ fun v hv => ?_
      obtain ⟨w, rfl, hw⟩ := Option.bind_eq_some_iff.1 hv
      obtain ⟨z, hz, rfl⟩ := Option.map_eq_some_iff.1 hw
      rw [alloc?_pages hz, ha w rfl]
  exact hfold l (some s) (fun v hv => by cases hv; rfl) t h

/-- A request as its admission to a group leaves it. -/
def Request.admittedTo (q : Request) (k : Die) (pages clock now : Nat) : Request :=
  { q with state := RState.admitted, group := some k, ready := q.ask.promptRows + q.delivered, since := now, seq := clock + 1,
           kvPages := pages, admitted := now, pinned := q.slot.isSome }

/-- A request without a drawer that is admitted: its pages, its row and the clock of use change. -/
theorem admitTo_plain {k : Die} (hs : q.slot = none)
    (hall : (s.allocAll? ((s.groupOfCab q.cab k).map fun d => (d, s.kvPagesFor q.cab q.ask)) PKind.kv
      (((s.tenantGlove? q.tenant).map Glove.id).getD 0) q.cab (BitVec.ofNat 32 q.id)).isSome = true) :
    ∃ ps : List Page, s.admitTo q k = ({ s with pages := ps, useClock := s.useClock + 1 } : State).modRequest q.id fun x =>
      x.admittedTo k (s.kvPagesFor q.cab q.ask) s.useClock s.now := by
  have hpf : ¬s.pinsFull q k = true := by simp [State.pinsFull, hs]
  obtain ⟨v, hv⟩ := Option.isSome_iff_exists.1 hall
  refine ⟨v.pages, ?_⟩
  simp only [State.admitTo, if_neg hpf, hv, hs]
  rw [allocAll?_pages hv]
  rfl

/-! ## SERVING_REQUEST -/

section ServingRequest

variable {n : Sess} {x : Session} {r : ServeReq} {g : Glove} (hu : s.idsUnique) (hx : s.session? n.val = some x)

include hu hx

theorem servingRequest_refused {c : Nat} (hc : s.requestCode x r = some c) :
    Answers (.servingRequest n r) s fun t => t.nextRequest = s.nextRequest + 1 ∧
      ∃ y ∈ t.requests, y = { s.newRequest n x r with state := RState.ended, code := c, ended := s.now } := by
  have hq : (s.enqueue (s.newRequest n x r)).request? s.nextRequest = some (s.newRequest n x r) := request?_enqueue_same hu rfl
  exact ⟨_, exec_servingRequest_refused hx hc, still_nextRequest (still_endRequest hq rfl rfl c),
    _, finished_mem_endRequest hq rfl rfl c, rfl⟩

variable (hc : s.requestCode x r = none) (hg : s.tenantGlove? x.tenant = some g)

include hc hg

omit hu in
/-- What holds after the test of the new request. -/
theorem servingRequest_tested {P : State → Prop} (h : P ((s.counted (s.newRequest n x r) g).tryAdmit s.nextRequest)) :
    Answers (.servingRequest n r) s P :=
  ⟨_, exec_servingRequest_tested hx hc hg, h⟩

omit hx hc hg in
theorem request?_counted (q : Request) (hq : q.id = s.nextRequest) : (s.counted q g).request? s.nextRequest = some q :=
  request?_enqueue_same hu hq

theorem servingRequest_waits (h0 : r.handle = 0)
    (h : ¬(s.counted (s.newRequest n x r) g).admits? x.cab x.tenant = true ∨
      (s.counted (s.newRequest n x r) g).chooseGroup x.cab none r = none) :
    Answers (.servingRequest n r) s fun t => t = s.counted (s.newRequest n x r) g :=
  servingRequest_tested hx hc hg (tryAdmit_waits (request?_counted hu _ rfl) rfl h0 h)

section Slot

variable {y : Slot} (h0 : r.handle ≠ 0) (hs : s.slotOf x.cab r.handle = some y) (hy : s.slot? x.cab y.slot = some y)

include h0 hs hy

theorem servingRequest_slotEnds {code : Nat} (h : y.EndsWith x.tenant code) : Answers (.servingRequest n r) s fun t =>
      ∃ z ∈ t.requests, z = { s.newRequest n x r with slot := some y.slot, state := RState.ended, code := code, ended := s.now } := by
  have hq := request?_counted (g := g) hu (s.newRequest n x r) rfl
  have hq' := request?_modRequest_same (f := fun q => { q with slot := some y.slot }) hq rfl
  refine servingRequest_tested hx hc hg ⟨_, ?_, rfl⟩
  rw [tryAdmit_slotEnds hq rfl h0 hs hy h]
  exact finished_mem_endRequest hq' rfl rfl code

theorem servingRequest_slotWaits (ho : y.owner?.any (fun t => t != x.tenant) = false) (h1 : y.state ≠ SState.stale)
    (h2 : y.state ≠ SState.failed) (h : ¬(s.counted (s.newRequest n x r) g).admits? x.cab x.tenant = true) :
    Answers (.servingRequest n r) s fun t =>
      t = (s.counted (s.newRequest n x r) g).modRequest s.nextRequest fun z => { z with slot := some y.slot } := by
  have hq := request?_counted (g := g) hu (s.newRequest n x r) rfl
  exact servingRequest_tested hx hc hg (tryAdmit_slotWaits hq rfl h0 hs hy ho h1 h2 (admits?_slot.trans (Bool.eq_false_of_not_eq_true h)))

end Slot

theorem servingRequest_admitted {k : Die} (h0 : r.handle = 0) (ha : (s.counted (s.newRequest n x r) g).admits? x.cab x.tenant = true)
    (hk : (s.counted (s.newRequest n x r) g).chooseGroup x.cab none r = some k)
    (hall : ((s.counted (s.newRequest n x r) g).allocAll? (((s.counted (s.newRequest n x r) g).groupOfCab x.cab k).map fun d =>
      (d, (s.counted (s.newRequest n x r) g).kvPagesFor x.cab r)) PKind.kv g.id x.cab (BitVec.ofNat 32 s.nextRequest)).isSome = true) :
    Answers (.servingRequest n r) s fun t =>
      t.request? s.nextRequest = some { s.newRequest n x r with
        state := RState.admitted, group := some k, ready := r.promptRows, seq := s.useClock + 1,
        kvPages := (s.counted (s.newRequest n x r) g).kvPagesFor x.cab r, admitted := s.now } ∧
      (∀ i, i ≠ s.nextRequest → t.request? i = s.request? i) ∧ t.mem = s.mem := by
  have hq := request?_counted (g := g) hu (s.newRequest n x r) rfl
  rw [← tenantGloveId_counted (s.newRequest n x r) hg] at hall
  obtain ⟨ps, hp⟩ := admitTo_plain (q := s.newRequest n x r) rfl hall
  refine servingRequest_tested hx hc hg ?_
  rw [tryAdmit_admits hq rfl h0 ha hk, hp]
  refine ⟨request?_modRequest_same (f := fun x => x.admittedTo k _ _ _) hq rfl, fun i hi => ?_, rfl⟩
  exact (request?_modRequest_ne (f := fun x => x.admittedTo k _ _ _) (fun _ => rfl) hi).trans (request?_enqueue_ne (q := s.newRequest n x r) hi)

end ServingRequest

/-! ## ADMISSION_RETEST -/

theorem repin_waiting (hq : s.request? i = some q) (hst : q.state = RState.queued) : s.repin i = s := by
  have hl : q.live = false := by rw [Request.live, hst]; decide
  rw [State.repin, hq]
  dsimp only
  split
  · exact if_pos (by rw [hl]; rfl)
  · rfl

theorem repin_plain (hq : s.request? i = some q) (hs : q.slot = none) : s.repin i = s := by
  rw [State.repin, hq]
  simp only [hs]

theorem admissionRetest_absent (hq : s.request? i = none) : Answers (.admissionRetest i) s fun t => t = s := by
  have ht : s.tryAdmit i = s := by rw [State.tryAdmit, hq]
  have hp : s.repin i = s := by rw [State.repin, hq]
  exact ⟨_, rfl, by rw [ht, hp]⟩

section Retest

variable (hq : s.request? i = some q) (hst : q.state = RState.queued) (h0 : q.ask.handle = 0)

include hq hst h0

theorem admissionRetest_waits (h : ¬s.admits? q.cab q.tenant = true ∨ s.chooseGroup q.cab none q.ask = none) :
    Answers (.admissionRetest i) s fun t => t = s :=
  ⟨_, rfl, by rw [tryAdmit_waits hq hst h0 h, repin_waiting hq hst]⟩

theorem admissionRetest_admits {k : Die} (hs : q.slot = none) (ha : s.admits? q.cab q.tenant = true)
    (hk : s.chooseGroup q.cab none q.ask = some k)
    (hall : (s.allocAll? ((s.groupOfCab q.cab k).map fun d => (d, s.kvPagesFor q.cab q.ask)) PKind.kv
      (((s.tenantGlove? q.tenant).map Glove.id).getD 0) q.cab (BitVec.ofNat 32 q.id)).isSome = true) :
    Answers (.admissionRetest i) s fun t =>
      t.request? i = some { q with state := RState.admitted, group := some k, ready := q.ask.promptRows + q.delivered, since := s.now,
                                   seq := s.useClock + 1, kvPages := s.kvPagesFor q.cab q.ask, admitted := s.now, pinned := false } := by
  obtain ⟨ps, hp⟩ := admitTo_plain hs hall
  have hi : q.id = i := request?_id hq
  have hadm : (s.tryAdmit i).request? i = some (q.admittedTo k (s.kvPagesFor q.cab q.ask) s.useClock s.now) := by
    rw [tryAdmit_admits hq hst h0 ha hk, hp, hi]
    exact request?_modRequest_same (f := fun x => x.admittedTo k _ _ _) hq hi
  refine ⟨_, rfl, ?_⟩
  rw [repin_plain hadm hs]
  refine hadm.trans ?_
  simp only [Request.admittedTo, hs, Option.isSome_none]

end Retest

/-! ## ADMIT_WAIT_EXPIRY -/

theorem admitWaitExpiry_marks {d : Die} {c : Cab} (hc : s.cabOfDie d = some c) (hg : groupOf (s.cab c).span d = d)
    (hf : s.fillForward c d ≠ []) : Answers (.admitWaitExpiry d) s fun t => t = s.modDie d fun x => { x with waitExpired := true } := by
  refine ⟨_, rfl, ?_⟩
  simp only [hc]
  exact if_neg (by simp [hg, hf])

theorem admitWaitExpiry_keeps {d : Die} (h : ¬∃ c, s.cabOfDie d = some c ∧ groupOf (s.cab c).span d = d ∧ s.fillForward c d ≠ []) :
    Answers (.admitWaitExpiry d) s fun t => t = s := by
  refine ⟨_, rfl, ?_⟩
  rcases hc : s.cabOfDie d with - | c
  · rfl
  · refine if_pos ?_
    by_cases hg : groupOf (s.cab c).span d = d
    · simpa [hg] using fun hf => h ⟨c, hc, hg, hf⟩
    · simp [hg]

/-! ## The statement -/

/-- Settles O26: the arrival of a request, its test and the expiry of a wait, case by case of the code. -/
theorem requestsAreAdmitted : Obligations.RequestsAreAdmitted := by
  refine ⟨fun s n r hx => ⟨_, rfl, ?_⟩, fun s n r x hu hx => ⟨fun c hc => servingRequest_refused hu hx hc, fun g hc hg => ?_⟩,
    fun s i => ⟨admissionRetest_absent, fun q _ hq hst => ⟨fun h0 h => ?_, fun ha h0 hs k hk _ hall => ?_⟩⟩,
    fun s d => ⟨fun ⟨c, hc, hg, hf⟩ => admitWaitExpiry_marks hc hg hf, admitWaitExpiry_keeps⟩⟩
  · simp only [hx]
  · refine ⟨fun h0 h => servingRequest_waits hu hx hc hg h0 (h.imp_left (mt admits?_iff.1)), fun y h0 hs hy => ⟨fun code h => ?_, ?_⟩,
      fun ha h0 k hk _ hall => servingRequest_admitted hu hx hc hg h0 (admits?_iff.2 ha) hk hall⟩
    · exact servingRequest_slotEnds hu hx hc hg h0 hs hy h
    · exact fun ho h1 h2 h => servingRequest_slotWaits hu hx hc hg h0 hs hy ho h1 h2 (mt admits?_iff.1 h)
  · exact admissionRetest_waits hq hst h0 (h.imp_left (mt admits?_iff.1))
  · exact admissionRetest_admits hq hst h0 hs (admits?_iff.2 ha) hk hall

end Sys2Proof.Machine
end
section
/-!
SUPPORT. What the journal still holds after other requests are answered and sessions close (R423, R430, R432): no answer is lost or
changed while its channel holds no more than it keeps, and a channel's newest request stays its newest.
-/

namespace Sys2Proof.Machine

variable {s t u : State} {r : Reply}

/-! ## One channel -/

/-- One request of a channel, later: the same request, and as it was once it is answered. -/
def JReq.Follows (j j' : JReq) : Prop :=
  j'.mseq = j.mseq ∧ j'.opcode = j.opcode ∧ j'.stream = j.stream ∧ (j.phase = 2 → j' = j)

theorem JReq.Follows.refl (j : JReq) : j.Follows j := ⟨rfl, rfl, rfl, fun _ => rfl⟩

theorem JReq.Follows.trans {a b c : JReq} (h : a.Follows b) (h' : b.Follows c) : a.Follows c := by
  obtain ⟨h1, h2, h3, h4⟩ := h
  obtain ⟨k1, k2, k3, k4⟩ := h'
  refine ⟨k1.trans h1, k2.trans h2, k3.trans h3, fun hp => ?_⟩
  have hb := h4 hp
  exact (k4 (hb ▸ hp)).trans hb

/-- A request of a channel that a number names and that is not answered. -/
def JReq.opens (m : BitVec 16) (j : JReq) : Bool := j.mseq == m && j.phase != 2

/-- A channel later, while answers are written: request by request where it holds no more than it keeps; its newest request; and no
open request that was not there. -/
structure Later (l l' : List JReq) : Prop where
  short : l.length ≤ 1024 → List.Forall₂ JReq.Follows l l'
  newest : ∀ a j, l = a ++ [j] → ∃ a' j', l' = a' ++ [j'] ∧ j.Follows j' ∧
    ∀ m, (∀ x ∈ a, x.opens m = false) → ∀ x ∈ a', x.opens m = false

theorem Later.refl (l : List JReq) : Later l l where
  short _ := List.forall₂_same.2 fun j _ => JReq.Follows.refl j
  newest a j h := ⟨a, j, h, JReq.Follows.refl j, fun _ h => h⟩

theorem Later.trans {a b c : List JReq} (h : Later a b) (h' : Later b c) : Later a c where
  short hl := by
    have hab := h.short hl
    have hbc := h'.short (hab.length_eq ▸ hl)
    exact List.forall₂_iff_get.2 ⟨hab.length_eq.trans hbc.length_eq, fun i h₁ h₂ =>
      ((List.forall₂_iff_get.1 hab).2 i h₁ (hab.length_eq ▸ h₁)).trans ((List.forall₂_iff_get.1 hbc).2 i _ h₂)⟩
  newest x j e := by
    obtain ⟨x', j', e', hj, ho⟩ := h.newest x j e
    obtain ⟨y, k, ey, hk, hy⟩ := h'.newest x' j' e'
    exact ⟨y, k, ey, hj.trans hk, fun m hm => hy m (ho m hm)⟩

theorem trimChan_of_le {l : List JReq} (h : l.length ≤ 1024) : trimChan l = l := by
  simp [trimChan, Nat.sub_eq_zero_of_le h]

/-- A change of the first open request of a number that leaves it the same request. -/
theorem forall₂_updFirst {m : BitVec 16} {f : JReq → JReq} (hf : ∀ j : JReq, j.phase ≠ 2 → j.Follows (f j)) (l : List JReq) :
    List.Forall₂ JReq.Follows l (updFirst (fun j => j.mseq == m && j.phase != 2) f l) := by
  induction l with
  | nil => exact .nil
  | cons j l ih =>
    by_cases hj : (j.mseq == m && j.phase != 2) = true
    · rw [updFirst, if_pos hj]
      exact .cons (hf j (by simp at hj; exact hj.2)) (List.forall₂_same.2 fun x _ => JReq.Follows.refl x)
    · rw [updFirst, if_neg hj]
      exact .cons (JReq.Follows.refl j) ih

theorem JReq.Follows.opens {j j' : JReq} (h : j.Follows j') {m : BitVec 16} (ho : j.opens m = false) : j'.opens m = false := by
  obtain ⟨hm, -, -, hp⟩ := h
  by_cases hj : j.phase = 2
  · rw [hp hj, ho]
  · simp only [JReq.opens, Bool.and_eq_false_iff, beq_eq_false_iff_ne, bne_eq_false_iff_eq, hj, or_false] at ho
    simp [JReq.opens, hm, ho]

/-- A channel whose requests follow those before it, trimmed to what the journal keeps. -/
theorem Later.of_forall₂ {l l' : List JReq} (h : List.Forall₂ JReq.Follows l l') : Later l (trimChan l') where
  short hl := by rwa [trimChan_of_le (h.length_eq ▸ hl)]
  newest a j e := by
    subst e
    have ha : List.Forall₂ JReq.Follows a (l'.take a.length) := (List.forall₂_take_append _ a [j] h.flip).flip
    have hb : List.Forall₂ JReq.Follows [j] (l'.drop a.length) := (List.forall₂_drop_append _ a [j] h.flip).flip
    obtain ⟨j₁, l, hj, hl, hd⟩ := List.forall₂_cons_left_iff.1 hb
    cases hl
    rw [← List.take_append_drop a.length l', hd]
    generalize l'.take a.length = a₁ at ha
    obtain ⟨a', e', ha'⟩ := trimChan_append a₁ j₁
    refine ⟨a', j₁, e', hj, fun m hm x hx => ?_⟩
    obtain ⟨i, hi, rfl⟩ := List.getElem_of_mem (ha' x hx)
    exact ((List.forall₂_iff_get.1 ha).2 i (ha.length_eq ▸ hi) hi).opens (hm _ (List.getElem_mem _))

/-! ## The channels of a state -/

theorem assocGet_insertBy_ne {α : Type} {k k' : Nat} (hk : k' ≠ k) (v : α) (l : List (Nat × α)) :
    assocGet k' (insertBy Prod.fst (k, v) l) = assocGet k' l := by
  induction l with
  | nil => simp [insertBy, assocGet, Ne.symm hk]
  | cons p l ih => by_cases hle : p.1 ≤ k <;> simp [insertBy, hle, assocGet, ih, Ne.symm hk]

theorem assocGet_filter_ne {α : Type} {k k' : Nat} (hk : k' ≠ k) (l : List (Nat × α)) :
    assocGet k' (l.filter fun p => p.1 != k) = assocGet k' l := by
  induction l with
  | nil => rfl
  | cons p l ih =>
    by_cases hp : p.1 = k
    · simp [assocGet, hp, ih, Ne.symm hk]
    · simp [assocGet, hp, ih]

theorem chan_setChan_ne {k k' : Nat} (hk : k' ≠ k) (l : List JReq) : (s.setChan k l).chan k' = s.chan k' := by
  simp only [State.chan, State.setChan, State.modCp, assocGet_insertBy_ne hk, assocGet_filter_ne hk]

theorem later_modReq {k k' : Nat} {m : BitVec 16} {f : JReq → JReq} (hf : ∀ j : JReq, j.phase ≠ 2 → j.Follows (f j)) :
    Later (s.chan k') ((s.modReq k m f).chan k') := by
  by_cases hk : k' = k
  · subst hk
    rw [State.modReq, chan_setChan]
    exact .of_forall₂ (forall₂_updFirst hf _)
  · rw [State.modReq, chan_setChan_ne hk]
    exact .refl _

/-- A later state for the journal: HBM as it was, no session that drains and did not before, and each channel later, but for a channel of a
draining session, which its end drops. -/
structure State.After (s t : State) : Prop where
  mem : t.mem = s.mem
  drains : ∀ x ∈ t.rot.sessions, x.draining = true → ∃ y ∈ s.rot.sessions, y.draining = true ∧ y.n = x.n
  later : ∀ k, (∀ x ∈ s.rot.sessions, x.draining = true → 4096 + x.n.val ≠ k) → Later (s.chan k) (t.chan k)

namespace State.After

theorem same (hm : t.mem = s.mem) (hr : t.rot.sessions = s.rot.sessions) (hc : t.cp.chans = s.cp.chans) : s.After t where
  mem := hm
  drains x hx hd := ⟨x, hr ▸ hx, hd, rfl⟩
  later k _ := by rw [chan_of_chans hc]; exact .refl _

theorem refl (s : State) : s.After s := same rfl rfl rfl

theorem trans (h : s.After t) (h' : t.After u) : s.After u where
  mem := h'.mem.trans h.mem
  drains x hx hd := by
    obtain ⟨y, hy, hyd, hyx⟩ := h'.drains x hx hd
    obtain ⟨z, hz, hzd, hzy⟩ := h.drains y hy hyd
    exact ⟨z, hz, hzd, hzy.trans hyx⟩
  later k hk := (h.later k hk).trans <| h'.later k fun x hx hd => by
    obtain ⟨y, hy, hyd, hyx⟩ := h.drains x hx hd
    exact hyx ▸ hk y hy hyd

theorem foldl {α : Type} {f : State → α → State} (hf : ∀ (s : State) a, s.After (f s a)) (l : List α) (s : State) : s.After (l.foldl f s) := by
  induction l generalizing s with
  | nil => exact refl s
  | cons a l ih => exact (hf s a).trans (ih _)

/-- A change of messages that drops no answer. -/
theorem of_quiet (hq : t.quiet = s.quiet) (hc : ∀ k, Later (s.chan k) (t.chan k)) : s.After t where
  mem := quiet_mem hq
  drains x hx hd := by
    have he : t.rot.sessions.map Session.quiet = s.rot.sessions.map Session.quiet := congrArg (fun u => u.rot.sessions) hq
    have hm : x.quiet ∈ s.rot.sessions.map Session.quiet := he ▸ List.mem_map_of_mem hx
    obtain ⟨y, hy, e⟩ := List.mem_map.1 hm
    have hyd : y.quiet.draining = x.quiet.draining := by rw [e]
    have hyn : y.quiet.n = x.quiet.n := by rw [e]
    exact ⟨y, hy, Eq.trans hyd hd, hyn⟩
  later k _ := hc k

theorem ite {p : Prop} [Decidable p] (ht : s.After t) (hu : s.After u) : s.After (if p then t else u) := by
  split
  · exact ht
  · exact hu

end State.After

theorem after_accept (s : State) (r : Reply) (q : Nat) : s.After (s.accept r q) :=
  .of_quiet (quiet_accept ..) fun k => by
    rw [State.accept, chan_of_chans (chans_emitAll ..)]
    exact later_modReq fun j hj => ⟨rfl, rfl, rfl, fun h => absurd h hj⟩

theorem chans_foldl_deliver (ms : List (List Word)) (d : Src) (s : State) :
    (ms.foldl (fun s m => s.deliver { dest := d, words := m }) s).cp.chans = s.cp.chans :=
  foldl_keeps (g := fun s : State => s.cp.chans) (fun _ _ => by rw [cp_deliver]) ms s

theorem later_finish (s : State) (r : Reply) (q c : Nat) (p : List Word) (k : Nat) : Later (s.chan k) ((s.finish r q c p).chan k) := by
  unfold State.finish
  dsimp only
  split
  · rw [chan_of_chans (chans_emitAll ..)]
    exact later_modReq (s := s.tick.2) fun j hj => ⟨rfl, rfl, rfl, fun h => absurd h hj⟩
  · split
    · exact .refl _
    · rw [chan_of_chans (chans_foldl_deliver ..)]
      exact .refl _

theorem later_complete (s : State) (r : Reply) (c : Nat) (p : List Word) (k : Nat) : Later (s.chan k) ((s.complete r c p).chan k) :=
  later_finish ..

theorem after_finish (s : State) (r : Reply) (q c : Nat) (p : List Word) : s.After (s.finish r q c p) :=
  .of_quiet (quiet_finish ..) (later_finish s r q c p)

theorem after_complete (s : State) (r : Reply) (c : Nat) (p : List Word) : s.After (s.complete r c p) := after_finish ..

theorem after_completeAll (s : State) (rs : List Reply) (c : Nat) (p : List Word) : s.After (s.completeAll rs c p) :=
  .foldl (fun _ _ => after_complete ..) _ _

/-! ## What a request's channel tells -/

theorem length_updFirst {α : Type} (p : α → Bool) (f : α → α) (l : List α) : (updFirst p f l).length = l.length := by
  induction l with
  | nil => rfl
  | cons a l ih => by_cases hp : p a <;> simp [updFirst, hp, ih]

theorem awaits_of_chan (h : t.chan (chanKey r.src) = s.chan (chanKey r.src)) : t.awaits r = s.awaits r := by
  rw [State.awaits, State.awaits, State.openReq?, State.openReq?, h]

/-- A request that waits in its channel is answered by its COMPLETION. -/
theorem answered_of_awaits (h : s.awaits r = true) (q c : Nat) (p : List Word) : (s.finish r q c p).answered r q c p = true := by
  rw [State.awaits, Bool.and_eq_true, decide_eq_true_eq] at h
  obtain ⟨ho, hlen⟩ := h
  cases hj : s.openReq? (chanKey r.src) r.mseq with
  | none => simp [hj] at ho
  | some j =>
    simp only [hj, Bool.and_eq_true, beq_iff_eq] at ho
    obtain ⟨as, bs, -, -, hu⟩ := updFirst_of_find? hj
    have hm : j.mseq = r.mseq := by have := List.find?_some hj; simp at this; exact this.1
    have hc : (s.finish r q c p).chan (chanKey r.src) =
        as ++ { j with phase := 2, completion := r.msgs Kind.completion q c p, doneAt := s.tick.1 } :: bs := by
      rw [State.finish, if_pos (by rw [hj]; rfl), chan_of_chans (chans_emitAll ..), State.modReq, chan_setChan]
      refine (trimChan_of_le ?_).trans (hu _)
      rwa [length_updFirst]
    simp [State.answered, hc, hm, ho]

/-- An answer stands in its channel while the channel holds no more than the journal keeps. -/
theorem Later.any {l l' : List JReq} (h : Later l l') (hl : l.length ≤ 1024) {p : JReq → Bool} (hp : ∀ j, p j = true → j.phase = 2)
    (ha : l.any p = true) : l'.any p = true := by
  obtain ⟨j, hj, hpj⟩ := List.any_eq_true.1 ha
  obtain ⟨i, hi, rfl⟩ := List.getElem_of_mem hj
  have hf := h.short hl
  have hi' : i < l'.length := hf.length_eq ▸ hi
  have he := ((List.forall₂_iff_get.1 hf).2 i hi hi').2.2.2 (hp _ hpj)
  exact List.any_eq_true.2 ⟨l'[i], List.getElem_mem hi', by rw [show l'[i] = l[i] from he]; exact hpj⟩

theorem Later.answered (h : Later (s.chan (chanKey r.src)) (t.chan (chanKey r.src))) (hl : (s.chan (chanKey r.src)).length ≤ 1024)
    {q c : Nat} {p : List Word} (ha : s.answered r q c p = true) : t.answered r q c p = true :=
  h.any hl (fun j hj => by simp only [Bool.and_eq_true, beq_iff_eq] at hj; exact hj.1.2) ha

/-- The newest request of its channel, answered or not, and no other open one has its number. -/
def State.Newest (s : State) (r : Reply) : Prop :=
  ∃ l j, s.chan (chanKey r.src) = l ++ [j] ∧ (∀ x ∈ l, x.opens r.mseq = false) ∧ j.mseq = r.mseq ∧ j.opcode = r.opcode ∧ j.stream = r.stream

theorem State.Holds.newest (h : s.Holds r) : s.Newest r := by
  obtain ⟨l, j, e, hl, hm, ho, hs, -⟩ := h
  exact ⟨l, j, e, hl, hm, ho, hs⟩

theorem State.Newest.later (h : s.Newest r) (hl : Later (s.chan (chanKey r.src)) (t.chan (chanKey r.src))) : t.Newest r := by
  obtain ⟨l, j, e, ho, hm, hop, hs⟩ := h
  obtain ⟨l', j', e', ⟨hm', hop', hs', -⟩, ho'⟩ := hl.newest l j e
  exact ⟨l', j', e', ho' _ ho, hm'.trans hm, hop'.trans hop, hs'.trans hs⟩

/-- The newest request of its channel, answered. -/
def State.Done (s : State) (r : Reply) : Prop :=
  ∃ l j, s.chan (chanKey r.src) = l ++ [j] ∧ j.mseq = r.mseq ∧ j.opcode = r.opcode ∧ j.stream = r.stream ∧ j.phase = 2

theorem State.Done.later (h : s.Done r) (hl : Later (s.chan (chanKey r.src)) (t.chan (chanKey r.src))) : t.Done r := by
  obtain ⟨l, j, e, hm, hop, hs, hp⟩ := h
  obtain ⟨l', j', e', hf, -⟩ := hl.newest l j e
  cases hf.2.2.2 hp
  exact ⟨l', j, e', hm, hop, hs, hp⟩

theorem State.Done.ended (h : s.Done r) : s.ended r = true := by
  obtain ⟨l, j, e, hm, hop, hs, hp⟩ := h
  simp [State.ended, e, hm, hop, hs, hp]

/-- The newest request of its channel has ended once it is answered. -/
theorem done_finish (h : s.Newest r) (q c : Nat) (p : List Word) : (s.finish r q c p).Done r := by
  obtain ⟨l, j, e, ho, hm, hop, hs⟩ := h
  have hl : ∀ x ∈ l, (x.mseq == r.mseq && x.phase != 2) = false := ho
  by_cases hj : j.phase = 2
  · have hn : ¬(s.openReq? (chanKey r.src) r.mseq).isSome = true := by
      have hnone : l.find? (fun j => j.mseq == r.mseq && j.phase != 2) = none :=
        List.find?_eq_none.2 fun x hx => Bool.not_eq_true _ ▸ hl x hx
      simp [State.openReq?, e, List.find?_append, hnone, hj]
    refine ⟨l, j, ?_, hm, hop, hs, hj⟩
    rw [State.finish, if_neg hn]
    split
    · exact e
    · exact (chan_of_chans (chans_foldl_deliver ..) _).trans e
  · have hopen : (s.openReq? (chanKey r.src) r.mseq).isSome = true := State.Holds.open ⟨l, j, e, hl, hm, hop, hs, hj⟩
    obtain ⟨l', e', -⟩ := chan_modReq (s := s.tick.2)
      (fun j => { j with phase := 2, completion := r.msgs Kind.completion q c p, doneAt := s.tick.1 }) e hl hm hj
    refine ⟨l', { j with phase := 2, completion := r.msgs Kind.completion q c p, doneAt := s.tick.1 }, ?_, hm, hop, hs, rfl⟩
    rw [State.finish, if_pos hopen]
    exact (chan_of_chans (chans_emitAll ..) _).trans e'

/-- The newest request of its channel has ended once a COMPLETION for it is among those of several requests. -/
theorem done_completeAll {rs : List Reply} (hr : r ∈ rs) (h : s.Newest r) (c : Nat) (p : List Word) : (s.completeAll rs c p).Done r := by
  unfold State.completeAll
  have hall : ∀ (l : List Reply) (v : State), v.Newest r → (r ∈ l ∨ v.Done r) → (l.foldl (fun s r => s.complete r c p) v).Done r := by
    intro l
    induction l with
    | nil => exact fun v _ hv => hv.resolve_left (by simp)
    | cons a l ih =>
      intro v hn hv
      have hlater := later_complete v a c p (chanKey r.src)
      refine ih _ (hn.later hlater) ?_
      rcases hv with hv | hv
      · rcases List.mem_cons.1 hv with rfl | hv
        · exact .inr (done_finish hn 0 c p)
        · exact .inl hv
      · exact .inr (hv.later hlater)
  exact hall rs s h (.inl hr)

end Sys2Proof.Machine
end
section
/-!
SUPPORT. What releases leave unchanged and what they tell (R248, R339, R375, R388): a cabinet stays as it is, no residency and no fetch
comes into being, and every answer stays in the journal.
-/

namespace Sys2Proof.Machine

variable {s t u : State} {r : Reply}

/-- A later state in which cabinets stay as they were and neither residencies, fetches nor claims came. -/
structure State.Eased (s t : State) : Prop extends s.After t where
  cabs : t.cabs = s.cabs
  residencies : ∀ x ∈ t.residencies, x ∈ s.residencies
  fetches : ∀ f ∈ t.fetches, ∃ f₀ ∈ s.fetches, f₀.cab = f.cab
  xclaims : ∀ x ∈ t.xclaims, x ∈ s.xclaims

namespace State.Eased

theorem same (h : s.After t) (hc : t.cabs = s.cabs) (hr : t.residencies = s.residencies) (hf : t.fetches = s.fetches)
    (hx : t.xclaims = s.xclaims) : s.Eased t where
  toAfter := h
  cabs := hc
  residencies _ hx := hr ▸ hx
  fetches f h := ⟨f, hf ▸ h, rfl⟩
  xclaims _ h := hx ▸ h

theorem refl (s : State) : s.Eased s := same (.refl s) rfl rfl rfl rfl

theorem trans (h : s.Eased t) (h' : t.Eased u) : s.Eased u where
  toAfter := h.toAfter.trans h'.toAfter
  cabs := h'.cabs.trans h.cabs
  residencies x hx := h.residencies x (h'.residencies x hx)
  fetches f hf := by
    obtain ⟨g, hg, e⟩ := h'.fetches f hf
    obtain ⟨k, hk, e'⟩ := h.fetches g hg
    exact ⟨k, hk, e'.trans e⟩
  xclaims x hx := h.xclaims x (h'.xclaims x hx)

/-- The last change first: what it changes is then known before what went before it. -/
theorem after (h' : t.Eased u) (h : s.Eased t) : s.Eased u := h.trans h'

theorem foldl {α : Type} {f : State → α → State} (hf : ∀ (s : State) a, s.Eased (f s a)) (l : List α) (s : State) :
    s.Eased (l.foldl f s) := by
  induction l generalizing s with
  | nil => exact refl s
  | cons a l ih => exact (hf s a).trans (ih _)

theorem of_quiet (hq : t.quiet = s.quiet) (h : s.After t) : s.Eased t :=
  same h (quiet_cabs hq) (quiet_residencies hq) (quiet_fetches hq) (quiet_xclaims hq)

theorem ite {p : Prop} [Decidable p] (ht : s.Eased t) (hu : s.Eased u) : s.Eased (if p then t else u) := by
  split
  · exact ht
  · exact hu

/-- A change of what is neither message nor session, cabinet, residency, fetch or HBM. -/
theorem frame (hm : t.mem = s.mem) (hr : t.rot.sessions = s.rot.sessions) (hc : t.cp.chans = s.cp.chans) (hb : t.cabs = s.cabs)
    (hx : t.residencies = s.residencies) (hf : t.fetches = s.fetches) (hy : t.xclaims = s.xclaims) : s.Eased t :=
  same (.same hm hr hc) hb hx hf hy

end State.Eased

theorem eased_complete (s : State) (r : Reply) (c : Nat) (p : List Word) : s.Eased (s.complete r c p) :=
  .of_quiet (quiet_complete ..) (after_complete ..)

theorem eased_completeAll (s : State) (rs : List Reply) (c : Nat) (p : List Word) : s.Eased (s.completeAll rs c p) :=
  .of_quiet (quiet_completeAll ..) (after_completeAll ..)

theorem eased_modGlove (s : State) (g : Nat) (f : Glove → Glove) : s.Eased (s.modGlove g f) := .frame rfl rfl rfl rfl rfl rfl rfl

/-! ## Sessions -/

theorem chan_dropSession {n : Nat} {tell : Bool} {k : Nat} (hk : 4096 + n ≠ k) : (s.dropSession n tell).chan k = s.chan k := by
  unfold State.dropSession
  split
  · rfl
  next x hx =>
    have hn : x.n.val = n := by simpa using List.find?_some hx
    dsimp only
    refine (chan_setChan_ne (k' := k) (by rw [chanKey, hn]; exact hk.symm) _).trans ?_
    split <;> rfl

theorem after_sendRecord (s : State) (x : Session) (ty n : Nat) (ms : List (List Word)) : s.After (s.sendRecord x ty n ms) :=
  .of_quiet (quiet_sendRecord ..) fun k => by rw [chan_of_chans (congrArg Cp.chans (chans_sendRecord ..))]; exact .refl _

/-- The end of the session that a number names drops its channel; the others stay. -/
theorem after_dropSession {n : Nat} {tell : Bool} (h : s.After t)
    (hn : ∃ x ∈ s.rot.sessions, x.draining = true ∧ x.n.val = n) : s.After (t.dropSession n tell) where
  mem := (calm_mem (calm_dropSession ..)).trans h.mem
  drains x hx hd := by
    unfold State.dropSession at hx
    split at hx
    · exact h.drains x hx hd
    · dsimp only at hx
      replace hx := (List.mem_filter.1 hx).1
      split at hx
      · exact (h.trans (after_sendRecord ..)).drains x hx hd
      · exact h.drains x hx hd
  later k hk := by
    obtain ⟨x, hx, hxd, hxn⟩ := hn
    rw [chan_dropSession (hxn ▸ hk x hx hxd)]
    exact h.later k hk

theorem after_settleDraining (s : State) : s.After s.settleDraining := by
  have hfold : ∀ (l : List Session) (t : State), s.After t → (∀ x ∈ l, x ∈ s.rot.sessions ∧ x.draining = true) →
      s.After (l.foldl (fun (s : State) x => s.dropSession x.n.val true) t) := by
    intro l
    induction l with
    | nil => exact fun t h _ => h
    | cons x l ih =>
      intro t h hl
      obtain ⟨hx, hd⟩ := hl x (by simp)
      exact ih _ (after_dropSession h ⟨x, hx, hd, rfl⟩) fun y hy => hl y (by simp [hy])
  refine hfold _ s (.refl s) fun x hx => ?_
  obtain ⟨hm, hp⟩ := List.mem_filter.1 hx
  simp only [Bool.and_eq_true] at hp
  exact ⟨hm, hp.1.1.1⟩

theorem eased_settleDraining (s : State) : s.Eased s.settleDraining := by
  have hkeep : ∀ {α : Type} (g : State → α), (∀ (s : State) n, g (s.dropSession n true) = g s) → g s.settleDraining = g s :=
    fun g hg => foldl_keeps (g := g) (fun s (x : Session) => hg s x.n.val) _ s
  refine .same (after_settleDraining s) (hkeep State.cabs fun s n => ?_) (hkeep State.residencies fun s n => ?_)
    (hkeep State.fetches fun s n => ?_) (hkeep State.xclaims fun s n => ?_)
  all_goals
    unfold State.dropSession
    split
    · rfl
    · dsimp only
      split <;> rfl

/-! ## Gloves -/

theorem eased_unwear (s : State) (g : BitVec 16) (b : GBlock) : s.Eased (s.unwear g b) := by
  cases b <;> exact .frame rfl rfl rfl rfl rfl rfl rfl

theorem eased_eraseGlove (s : State) (g : Glove) : s.Eased (s.eraseGlove g) :=
  (eased_settleDraining _).after <| (eased_completeAll ..).after <|
    State.Eased.after (t := (s.wearers g).foldl (fun (s : State) b => s.unwear g.id b) s) (.frame rfl rfl rfl rfl rfl rfl rfl)
      (.foldl (fun _ _ => eased_unwear ..) _ s)

theorem eased_discardGlove (s : State) (id : BitVec 16) : s.Eased (s.discardGlove id) := by
  unfold State.discardGlove
  split
  · exact .refl s
  · exact (eased_eraseGlove ..).trans (eased_completeAll ..)

theorem eased_advanceGlove (s : State) (g : Glove) : s.Eased (s.advanceGlove g) := .frame rfl rfl rfl rfl rfl rfl rfl

theorem eased_gloveStep (s : State) (id : BitVec 16) (fuel : Nat) : s.Eased (s.gloveStep id fuel) := by
  induction fuel generalizing s with
  | zero => exact .refl s
  | succ n ih =>
    unfold State.gloveStep
    split
    · exact .refl s
    next g _ =>
      refine .ite (.refl s) (.ite ((eased_advanceGlove s g).trans (ih _)) (.ite ((eased_modGlove ..).trans (ih _))
        (.ite ((eased_modGlove ..).trans (ih _)) (.ite ?_ (.ite (eased_eraseGlove s g) (.refl s))))))
      exact (eased_completeAll ..).after (.frame rfl rfl rfl rfl rfl rfl rfl)

theorem eased_settleSweeps (s : State) : s.Eased s.settleSweeps := .foldl (fun _ _ => eased_gloveStep ..) _ s

theorem eased_beginErase (s : State) (id : BitVec 16) : s.Eased (s.beginErase id) := by
  unfold State.beginErase
  split
  · exact .refl s
  · exact (eased_modGlove ..).trans (eased_gloveStep ..)

/-! ## Pages and residencies -/

theorem eased_freePages (s : State) (p : Page → Bool) : s.Eased (s.freePages p) :=
  (eased_settleSweeps _).after (.frame rfl rfl rfl rfl rfl rfl rfl)

theorem eased_dropClaims (s : State) (c : Cab) (n : Nat) : s.Eased (s.dropClaims c n) :=
  .ite ⟨.same rfl rfl rfl, rfl, fun _ h => h, fun f hf => ⟨f, hf, rfl⟩, fun _ hx => (List.mem_filter.1 hx).1⟩ (.refl s)

theorem eased_answerFetch (s : State) (rs : List Reply) (code : Nat) : s.Eased (s.answerFetch rs code) := by
  refine .foldl (fun s r => .ite (.refl s) ((eased_complete ..).after ?_)) _ s
  refine ⟨.same rfl rfl rfl, rfl, fun _ h => h, fun f hf => ?_, fun _ h => h⟩
  obtain ⟨g, hg, rfl⟩ := List.mem_map.1 hf
  exact ⟨g, hg, rfl⟩

/-- Some residencies go. -/
theorem eased_filterResidencies (s : State) (p : Residency → Bool) : s.Eased { s with residencies := s.residencies.filter p } :=
  ⟨.same rfl rfl rfl, rfl, fun _ hx => (List.mem_filter.1 hx).1, fun f hf => ⟨f, hf, rfl⟩, fun _ h => h⟩

theorem eased_releaseResidency (s : State) (c : Cab) (n : Nat) (g : Die) : s.Eased (s.releaseResidency c n g) := by
  unfold State.releaseResidency
  dsimp only
  refine (eased_dropClaims ..).after ((eased_filterResidencies ..).after ((eased_freePages ..).after ?_))
  split
  · exact .ite (.refl s) (.frame rfl rfl rfl rfl rfl rfl rfl)
  · exact .refl s

/-- Some fetches go. -/
theorem eased_filterFetches (s : State) (p : Fetch → Bool) : s.Eased { s with fetches := s.fetches.filter p } :=
  ⟨.same rfl rfl rfl, rfl, fun _ h => h, fun f hf => ⟨f, (List.mem_filter.1 hf).1, rfl⟩, fun _ h => h⟩

theorem eased_freeSlot (s : State) (c : Cab) (n : Nat) : s.Eased (s.freeSlot c n) :=
  (eased_answerFetch ..).after <| (eased_completeAll ..).after <| (eased_dropClaims ..).after <|
    State.Eased.after (t := State.freePages _ _) (.frame rfl rfl rfl rfl rfl rfl rfl) <| (eased_freePages ..).after <|
      State.Eased.after (.foldl (fun _ _ => eased_releaseResidency ..) _ _) (eased_filterFetches s _)

theorem eased_settleEvict (s : State) (c : Cab) (n : Nat) : s.Eased (s.settleEvict c n) := by
  unfold State.settleEvict
  split
  · exact .refl s
  · exact .ite (eased_freeSlot s c n) ((eased_completeAll ..).after (.frame rfl rfl rfl rfl rfl rfl rfl))

end Sys2Proof.Machine
end
section
/-!
PROOF. A shelf is mounted (R38 to R41, R375).
-/

namespace Sys2Proof.Machine

variable {s t u : State} {r : Reply} {src : Src} {req : Req}

/-! ## A command that is held -/

/-- What a command that goes through starts from: its request is taken, and no command is held that was not. -/
theorem answers_of_admits_held {info : CmdInfo} {i : Instr} {body : Reply → List Word → State → State} {P : State → Prop}
    (h : s.admits info src req = true) (hi : exec i s = .next (s.ilnil info src req body))
    (hb : ∀ t, s.Took (replyOf info src req) t → t.cp.heldCmds = s.cp.heldCmds → P (body (replyOf info src req) req.payload t)) :
    Answers i s P := by
  obtain ⟨t, hrun, hq, hh, -⟩ := ilnil_runs h
  have ht : t = s.ilnil info src req fun _ _ u => u := (hrun fun _ _ u => u).symm
  have hent : (s.entered info src req).cp.heldCmds = s.cp.heldCmds := by
    unfold State.entered
    cases hs : s.takeFrom src (reqWords info.opcode req) with
    | none => rfl
    | some v =>
      have hv : v.cp.heldCmds = s.cp.heldCmds := by rw [cp_takeFrom hs]
      exact hv
  have hnot : replyOf info src req ∉ s.cp.heldCmds := by
    simp only [State.admits, Bool.and_eq_true, Bool.not_eq_true', List.contains_eq_mem, decide_eq_false_iff_not] at h
    obtain ⟨⟨⟨⟨⟨⟨⟨-, hheld⟩, -⟩, -⟩, -⟩, -⟩, -⟩, -⟩ := h
    exact hheld
  have hheld : t.cp.heldCmds = s.cp.heldCmds := by
    rw [ht, ilnil_admits h]
    cases info.cabWord with
    | none => exact hent
    | some w =>
      refine (congrArg (List.filter _) hent).trans (List.filter_eq_self.2 fun x hx => ?_)
      exact bne_iff_ne.2 fun e => hnot (e ▸ hx)
  exact ⟨_, hi, by rw [hrun]; exact hb t ⟨hq, hh⟩ hheld⟩

/-! ## What a mount starts with -/

/-- The module with the shelf glove of a cabinet made (R375). -/
def State.withShelfGlove (s : State) (c : Cab) : State :=
  { s with freeCtr := s.freeCtr + 1,
           rot := { s.rot with gloves := (s.rot.gloves.filter fun x => x.id != shelfGlove c) ++
             [{ madeGlove (shelfGlove c) 1 c 0 0 s.freeCtr with standbyAcked := !s.hasStandby }] } }

theorem hasStandby_quiet (s : State) : s.quiet.hasStandby = s.hasStandby := by
  simp only [State.hasStandby, State.cpRuns, side_quiet]
  rfl

theorem State.Took.withShelfGlove (h : s.Took r t) {c : Cab} : (s.withShelfGlove c).Took r (t.withShelfGlove c) :=
  h.congr (F := fun s => s.withShelfGlove c) (fun s => by simp only [State.withShelfGlove, hasStandby_quiet]; rfl) rfl

/-- A cabinet whose mount has begun. -/
def Cabinet.mounting (x : Cabinet) (r : Reply) (img : Option ShelfImage) (cut : List Nat) (meas : BitVec 512) : Cabinet :=
  { x with state := 2, shelf := img.map fun i => { i with meas := digest512 i.bytes }, split := cut, mountReply := some r,
           mountAsked := meas }

/-- The pages of a shelf, where it can be cut and there is room. -/
def State.shelfSpace (s : State) (c : Cab) (img : ShelfImage) (cut : List Nat) : Option State :=
  s.allocAll? (s.shelfPages c img cut) PKind.shelf (shelfGlove c) c 0

theorem startMount_none (s : State) (r : Reply) (c : Cab) (meas : BitVec 512) :
    s.startMount r c none meas = ((s.withShelfGlove c).modCab c fun x => x.mounting r none [] meas).accept r 0 := rfl

theorem startMount_fits {c : Cab} {img : ShelfImage} {meas : BitVec 512} {cut : List Nat} {v : State}
    (hcut : splitShelf (img.layers.map LayerInfo.bytes) (s.cab c).span = some cut) (hv : (s.withShelfGlove c).shelfSpace c img cut = some v) :
    s.startMount r c (some img) meas = (v.modCab c fun x => x.mounting r (some img) cut meas).accept r 0 := by
  simp only [State.startMount]
  split
  next h => exact absurd (h.symm.trans hcut) nofun
  next cut' h =>
    cases Option.some.inj (h.symm.trans hcut)
    split
    next h => exact absurd (h.symm.trans hv) nofun
    next v' h =>
      cases Option.some.inj (h.symm.trans hv)
      rfl

theorem startMount_fails {c : Cab} {img : ShelfImage} {meas : BitVec 512}
    (h : (splitShelf (img.layers.map LayerInfo.bytes) (s.cab c).span).bind ((s.withShelfGlove c).shelfSpace c img) = none) :
    s.startMount r c (some img) meas = ((s.withShelfGlove c).endMount c Code.shelfTooLarge).complete r Code.shelfTooLarge [] := by
  simp only [State.startMount]
  split
  · rfl
  next cut hcut =>
    split
    · rfl
    next v hv =>
      have hs : splitShelf (img.layers.map LayerInfo.bytes) (s.cab c).span = some cut := hcut
      rw [hs] at h
      exact absurd (h.symm.trans hv) nofun

/-! ## A mount that ends without a shelf -/

/-- What reads nothing that residencies settle is the same in two states that differ in nothing else. -/
theorem eq_of_calm {α : Type} {f : State → α} (hf : ∀ s : State, f s.calm = f s) (h : t.calm = s.calm) : f t = f s := by
  rw [← hf t, ← hf s, h]

theorem cab_completeAll (s : State) (rs : List Reply) (code : Nat) (p : List Word) (c : Cab) :
    (s.completeAll rs code p).cab c = s.cab c := by
  rw [State.cab, quiet_cabs (quiet_completeAll ..), State.cab]

/-- A cabinet without a shelf, whose mount has ended. -/
def Cabinet.unmounted (x : Cabinet) : Cabinet := { x with state := 1, shelf := none, split := [], mountReply := none }

/-- The pages and the glove of a shelf go. -/
def State.dropShelf (s : State) (c : Cab) : State :=
  (s.freePages fun p => p.kind == PKind.shelf && p.cab == c).discardGlove (shelfGlove c)

theorem eased_dropShelf (s : State) (c : Cab) : s.Eased (s.dropShelf c) := (eased_discardGlove ..).after (eased_freePages ..)

theorem calm_discardGlove (s : State) (id : BitVec 16) : (s.discardGlove id).calm = s.calm := by
  unfold State.discardGlove
  split
  · rfl
  · rw [calm_completeAll, calm_eraseGlove]

theorem calm_dropShelf (s : State) (c : Cab) : (s.dropShelf c).calm = s.calm := (calm_discardGlove ..).trans (calm_freePages ..)

theorem endMount_eq (s : State) (c : Cab) (code : Nat) :
    s.endMount c code = ((s.dropShelf c).modCab c Cabinet.unmounted).completeAll (s.cab c).mountReply.toList code [] := rfl

/-- What a mount that ends without a shelf leaves. -/
structure State.NoShelf (s t : State) (c : Cab) : Prop where
  state : (t.cab c).state = 1
  shelf : (t.cab c).shelf = none
  streams : t.streams = s.streams
  programs : t.programs = s.programs
  jobs : t.jobs = s.jobs
  mem : t.mem = s.mem

theorem noShelf_endMount {c : Cab} (hc : c.val < s.cabs.length) (code : Nat) : s.NoShelf (s.endMount c code) c := by
  have hq : (s.endMount c code).quiet = ((s.dropShelf c).modCab c Cabinet.unmounted).quiet := quiet_completeAll ..
  have hlen : c.val < (s.dropShelf c).cabs.length := by rwa [(eased_dropShelf s c).cabs]
  have hcab : (s.endMount c code).cab c = ((s.dropShelf c).cab c).unmounted := (cab_completeAll ..).trans (cab_modCab_same hlen)
  have hcalm := calm_dropShelf s c
  have hst : (s.dropShelf c).streams = s.streams := eq_of_calm (f := State.streams) (fun _ => rfl) hcalm
  have hpr : (s.dropShelf c).programs = s.programs := eq_of_calm (f := State.programs) (fun _ => rfl) hcalm
  have hj : (s.dropShelf c).jobs = s.jobs := eq_of_calm (f := State.jobs) (fun _ => rfl) hcalm
  exact ⟨by rw [hcab]; rfl, by rw [hcab]; rfl, (quiet_streams hq).trans hst, (quiet_programs hq).trans hpr, (quiet_jobs hq).trans hj,
    (quiet_mem hq).trans (eased_dropShelf s c).mem⟩

theorem State.NoShelf.of_quiet {c : Cab} (h : s.NoShelf t c) (hq : u.quiet = t.quiet) : s.NoShelf u c := by
  obtain ⟨h1, h2, h3, h4, h5, h6⟩ := h
  have hcab : u.cab c = t.cab c := by rw [State.cab, quiet_cabs hq, State.cab]
  exact ⟨hcab ▸ h1, hcab ▸ h2, (quiet_streams hq).trans h3, (quiet_programs hq).trans h4, (quiet_jobs hq).trans h5, (quiet_mem hq).trans h6⟩

/-! ## MOUNT_SHELF -/

section MountCode

variable {c : Cab} {offset len : Nat}

theorem mountCode_noDies (h : (s.cab c).dies = 0) : s.mountCode c offset len = some Code.valueOutOfRange := if_pos h

theorem state_val_iff {x : Cabinet} : (x.state.val != 1) = true ↔ x.state ≠ 1 := by
  simp [bne_iff_ne, Fin.ext_iff]

theorem mountCode_busy (h : (s.cab c).dies ≠ 0) (hst : (s.cab c).state ≠ 1) : s.mountCode c offset len = some Code.cabinetBusy :=
  (if_neg h).trans (if_pos (state_val_iff.2 hst))

variable (h : (s.cab c).dies ≠ 0) (hst : (s.cab c).state = 1)

include h hst

theorem mountCode_range (hf : ¬(offset % 4096 = 0 ∧ offset + len ≤ namespace1)) : s.mountCode c offset len = some Code.valueOutOfRange :=
  (if_neg h).trans ((if_neg fun hn => state_val_iff.1 hn hst).trans (if_pos (by
    simp only [Bool.or_eq_true, bne_iff_ne, decide_eq_true_eq]; omega)))

theorem mountCode_fits (hf : offset % 4096 = 0 ∧ offset + len ≤ namespace1) : s.mountCode c offset len =
    if (s.cab c).span * portionMax < len then some Code.shelfTooLarge else none :=
  (if_neg h).trans ((if_neg fun hn => state_val_iff.1 hn hst).trans (if_neg (by
    simp only [Bool.or_eq_true, bne_iff_ne, decide_eq_true_eq]; omega)))

end MountCode

section Mount

variable {img : Option ShelfImage} (h : s.admits infoMountShelf src req = true)

include h

theorem mountShelf_held (hst : (s.cab (cabOf (wordAt req.payload 0))).state = 4) : Answers (.mountShelf src req img) s fun t =>
    t.quiet = s.quiet ∧ t.cp.heldCmds = s.cp.heldCmds ++ [replyOf infoMountShelf src req] :=
  answers_of_admits_held h rfl fun t ht hheld => by
    have hst' : (t.cab (cabOf (wordAt req.payload 0))).state = 4 := by rw [ht.cab, hst]
    simp only [if_pos hst']
    exact ⟨(quiet_modCp _ _ fun _ => rfl).trans ht.quiet, congrArg (· ++ [_]) hheld⟩

variable (hst : (s.cab (cabOf (wordAt req.payload 0))).state ≠ 4)

include hst

theorem mountShelf_refuses {k : Nat}
    (hk : s.mountCode (cabOf (wordAt req.payload 0)) (wordAt req.payload 1).toNat (wordAt req.payload 2).toNat = some k) :
    Completes (.mountShelf src req img) s infoMountShelf src req k [] s :=
  completes_of_admits h rfl fun t ht => by
    have hst' : (t.cab (cabOf (wordAt req.payload 0))).state ≠ 4 := by rw [ht.cab]; exact hst
    have hk' : t.mountCode (cabOf (wordAt req.payload 0)) (wordAt req.payload 1).toNat (wordAt req.payload 2).toNat = some k :=
      (ht.reads (f := fun s => s.mountCode _ _ _) fun _ => rfl).trans hk
    exact ⟨t, ht, by simp only [if_neg hst', hk']⟩

/-- A mount whose command passes its checks begins. -/
theorem mountShelf_starts {P : State → Prop}
    (hk : s.mountCode (cabOf (wordAt req.payload 0)) (wordAt req.payload 1).toNat (wordAt req.payload 2).toNat = none)
    (hb : ∀ t, s.Took (replyOf infoMountShelf src req) t →
      P (t.startMount (replyOf infoMountShelf src req) (cabOf (wordAt req.payload 0)) img (wide512 ((req.payload.drop 3).take 8)))) :
    Answers (.mountShelf src req img) s P :=
  answers_of_admits h rfl fun t ht => by
    have hst' : (t.cab (cabOf (wordAt req.payload 0))).state ≠ 4 := by rw [ht.cab]; exact hst
    have hk' : t.mountCode (cabOf (wordAt req.payload 0)) (wordAt req.payload 1).toNat (wordAt req.payload 2).toNat = none :=
      (ht.reads (f := fun s => s.mountCode _ _ _) fun _ => rfl).trans hk
    simp only [if_neg hst', hk']
    exact hb t ht

end Mount

theorem State.Took.shelfSpace (h : s.Took r t) {c : Cab} {img : ShelfImage} {cut : List Nat} :
    Option.Rel (fun a b => a.Took r b) ((s.withShelfGlove c).shelfSpace c img cut) ((t.withShelfGlove c).shelfSpace c img cut) := by
  have hp : (t.withShelfGlove c).shelfPages c img cut = (s.withShelfGlove c).shelfPages c img cut :=
    h.reads (f := fun s => (s.withShelfGlove c).shelfPages c img cut) fun _ => rfl
  rw [State.shelfSpace, State.shelfSpace, hp]
  exact h.withShelfGlove.allocAll?

/-- A mount that fits waits for its intake. -/
theorem startMount_waits (h : s.Took r t) {c : Cab} {img : ShelfImage} {meas : BitVec 512} {cut : List Nat} {v : State}
    (hcut : splitShelf (img.layers.map LayerInfo.bytes) (s.cab c).span = some cut) (hv : (s.withShelfGlove c).shelfSpace c img cut = some v) :
    (t.startMount r c (some img) meas).acceptedReq r 0 = true ∧
      (t.startMount r c (some img) meas).quiet = (v.modCab c fun x => x.mounting r (some img) cut meas).quiet := by
  obtain ⟨hn, -⟩ | ⟨a, w, ha, hw, haw⟩ := rel_iff.1 (h.shelfSpace (c := c) (img := img) (cut := cut))
  · exact absurd (hn.symm.trans hv) nofun
  · cases Option.some.inj (ha.symm.trans hv)
    have hm := haw.modCab (c := c) (f := fun x => x.mounting r (some img) cut meas)
    rw [startMount_fits (h.cab ▸ hcut) hw]
    exact ⟨acceptedReq_accept 0 hm.holds, by rw [quiet_accept, hm.quiet]⟩

/-- A mount that does not fit leaves the cabinet without a shelf. -/
theorem startMount_leaves (h : s.Took r t) {c : Cab} {img : ShelfImage} {meas : BitVec 512} (hlen : c.val < s.cabs.length)
    (hno : (splitShelf (img.layers.map LayerInfo.bytes) (s.cab c).span).bind ((s.withShelfGlove c).shelfSpace c img) = none) :
    s.NoShelf (t.startMount r c (some img) meas) c := by
  have hno' : (splitShelf (img.layers.map LayerInfo.bytes) (t.cab c).span).bind ((t.withShelfGlove c).shelfSpace c img) = none := by
    rw [h.cab]
    cases hcut : splitShelf (img.layers.map LayerInfo.bytes) (s.cab c).span with
    | none => rfl
    | some cut =>
      rw [hcut] at hno
      obtain ⟨-, hn⟩ | ⟨a, w, ha, -⟩ := rel_iff.1 (h.shelfSpace (c := c) (img := img) (cut := cut))
      · exact hn
      · exact absurd (hno.symm.trans ha) nofun
  have hlen' : c.val < (t.withShelfGlove c).cabs.length := (quiet_cabs h.quiet).symm ▸ hlen
  rw [startMount_fails hno']
  obtain ⟨h1, h2, h3, h4, h5, h6⟩ := (noShelf_endMount hlen' Code.shelfTooLarge).of_quiet (quiet_complete _ r Code.shelfTooLarge [])
  exact ⟨h1, h2, h3.trans (show t.streams = _ from quiet_streams h.quiet), h4.trans (show t.programs = _ from quiet_programs h.quiet),
    h5.trans (show t.jobs = _ from quiet_jobs h.quiet), h6.trans (show t.mem = _ from quiet_mem h.quiet)⟩

theorem shelfMountBegins : ShelfMountBegins := by
  intro s src req img hsh h
  have hlen := cab_lt_of_shape hsh (cabOf (wordAt req.payload 0))
  refine ⟨fun hst => mountShelf_held h hst, fun hst => ⟨fun hd => ?_, fun hd h1 => ?_, fun hd h1 hf => ?_, fun hd h1 hf hl => ?_,
    fun hd h1 hf hl => ?_⟩⟩
  · exact mountShelf_refuses h hst (mountCode_noDies hd)
  · exact mountShelf_refuses h hst (mountCode_busy hd h1)
  · exact mountShelf_refuses h hst (mountCode_range hd h1 hf)
  · exact mountShelf_refuses h hst ((mountCode_fits hd h1 hf).trans (if_pos hl))
  · have hk := (mountCode_fits hd h1 hf).trans (if_neg (Nat.not_lt.2 hl))
    refine ⟨fun cut v hcut hv => mountShelf_starts h hst hk fun t ht => startMount_waits ht hcut hv,
      mountShelf_starts h hst hk fun t ht => ?_, fun hno => mountShelf_starts h hst hk fun t ht => ?_⟩
    · rw [startMount_none]
      have hm := ht.withShelfGlove (c := cabOf (wordAt req.payload 0)) |>.modCab (c := cabOf (wordAt req.payload 0))
        (f := fun x => x.mounting (replyOf infoMountShelf src req) none [] (wide512 ((req.payload.drop 3).take 8)))
      exact ⟨acceptedReq_accept 0 hm.holds, by rw [quiet_accept, hm.quiet]; rfl⟩
    · obtain ⟨h1, h2, h3, h4, -, h6⟩ := startMount_leaves ht hlen hno
      exact ⟨h1, h2, h3, h4, h6⟩

end Sys2Proof.Machine
end
section
/-!
PROOF. A mount completes (R39, R40, R61, R103).
-/

namespace Sys2Proof.Machine

variable {s t u : State} {r : Reply}

/-! ## A cluster that changes -/

theorem find?_updFirst_ne {α : Type} {p q : α → Bool} {f : α → α} (h : ∀ x, p x = true → q x = false ∧ q (f x) = false) (l : List α) :
    (updFirst p f l).find? q = l.find? q := by
  induction l with
  | nil => rfl
  | cons a l ih =>
    by_cases hp : p a = true
    · obtain ⟨h1, h2⟩ := h a hp
      simp [updFirst, hp, h1, h2]
    · simp [updFirst, hp, List.find?_cons, ih]

section Cluster

variable {d d' : Die} {k k' : Phys} {f : ClusterSt → ClusterSt} (hf : ∀ x, (f x).die = x.die ∧ (f x).cl = x.cl)

include hf

theorem cluster_modCluster_same : (s.modCluster d k f).cluster d k = f (s.cluster d k) := by
  unfold State.modCluster
  split
  next x hx =>
    have hp : (f x).die = d ∧ (f x).cl = k := by
      have := List.find?_some hx
      simp at this
      exact ⟨(hf x).1.trans this.1, (hf x).2.trans this.2⟩
    have h := find?_updFirst (f := f) hx (by simp [hp])
    simp only [State.cluster, State.cluster?] at hx ⊢
    rw [h, hx]
    rfl
  next hx =>
    have h : s.clusters.find? (fun x => x.die == d && x.cl == k) = none := hx
    simp [State.cluster, State.cluster?, List.find?_append, h, hf, ClusterSt.fresh]

theorem cluster_modCluster_ne (hne : ¬(d' = d ∧ k' = k)) : (s.modCluster d k f).cluster d' k' = s.cluster d' k' := by
  unfold State.modCluster
  split
  · refine congrArg (fun o : Option ClusterSt => o.getD _) (find?_updFirst_ne (fun x hx => ?_) _)
    simp only [Bool.and_eq_true, beq_iff_eq] at hx
    have hq : ¬(x.die = d' ∧ x.cl = k') := fun h => hne ⟨h.1.symm.trans hx.1, h.2.symm.trans hx.2⟩
    simp [hf, ← Bool.not_eq_true, hq]
  · have hq : ¬(d = d' ∧ k = k') := fun h => hne ⟨h.1.symm, h.2.symm⟩
    have hd : (d == d' && k == k') = false := by simpa [← Bool.not_eq_true] using hq
    simp [State.cluster, State.cluster?, List.find?_append, hf, ClusterSt.fresh, hd]

end Cluster

/-- A cluster that wears a glove in slot 0. -/
def State.WornAt0 (s : State) (g : BitVec 16) (d : Die) (k : Phys) : Prop := ∃ x ∈ (s.cluster d k).slots, x.idx = 0 ∧ x.glove = g

theorem shelfGlove_isShelf (c : Cab) : (decide (0x10 ≤ (shelfGlove c).toNat) && decide ((shelfGlove c).toNat ≤ 0x1f)) = true := by
  revert c; decide

/-- What the loss of a slot's entries leaves unchanged. -/
theorem kept_by_forget {α : Type} {g : ClusterSt → α} (hg : ∀ (x : ClusterSt) i, g (x.forget i) = g x) (b : Bool) (x : ClusterSt)
    (i : Fin 64) : g (if b then x else x.forget i) = g x := by
  split
  · rfl
  · exact hg x i

theorem wornAt0_wear (s : State) (c : Cab) (d : Die) (k : Phys) : (s.wear d k (shelfGlove c)).WornAt0 (shelfGlove c) d k := by
  unfold State.wear State.WornAt0
  dsimp only
  rw [cluster_modCluster_same]
  · simp [shelfGlove_isShelf]
  · exact fun x => ⟨kept_by_forget (g := ClusterSt.die) (fun _ _ => rfl) .., kept_by_forget (g := ClusterSt.cl) (fun _ _ => rfl) ..⟩

theorem State.WornAt0.wear {c : Cab} {d d' : Die} {k k' : Phys} (h : s.WornAt0 (shelfGlove c) d k) :
    (s.wear d' k' (shelfGlove c)).WornAt0 (shelfGlove c) d k := by
  by_cases he : d = d' ∧ k = k'
  · obtain ⟨rfl, rfl⟩ := he
    exact wornAt0_wear ..
  · unfold State.wear State.WornAt0
    dsimp only
    rw [cluster_modCluster_ne _ he]
    · exact h
    · exact fun x => ⟨kept_by_forget (g := ClusterSt.die) (fun _ _ => rfl) .., kept_by_forget (g := ClusterSt.cl) (fun _ _ => rfl) ..⟩

/-- What the steps of a sequence establish each for its own element, and keep for the others, holds of all of them at its end. -/
theorem foldl_establishes {α : Type} {f : State → α → State} {inv : State → Prop} {P : α → State → Prop}
    (hinv : ∀ s a, inv s → inv (f s a)) (hown : ∀ s a, inv s → P a (f s a)) (hkeep : ∀ s a b, inv s → P b s → P b (f s a)) (l : List α) :
    ∀ s, inv s → ∀ b, (b ∈ l ∨ P b s) → P b (l.foldl f s) := by
  induction l with
  | nil => exact fun s _ b hb => hb.resolve_left (by simp)
  | cons a l ih =>
    refine fun s hs b hb => ih _ (hinv s a hs) b ?_
    rcases hb with hb | hb
    · rcases List.mem_cons.1 hb with rfl | hb
      · exact .inr (hown s b hs)
      · exact .inl hb
    · exact .inr (hkeep s a b hs hb)

/-! ## What wearing a glove and writing the shelf leave unchanged -/

/-- The state without clusters and the clock of use. -/
def State.unworn (s : State) : State := { s with clusters := [], useClock := 0 }

theorem unworn_wear (s : State) (d : Die) (k : Phys) (g : BitVec 16) : (s.wear d k g).unworn = s.unworn := by
  unfold State.wear State.modCluster
  dsimp only
  split <;> rfl

/-- The clusters of a die that wear the shelf glove. -/
def State.wearShelf (s : State) (c : Cab) (d : Die) : State := (s.die d).map.foldl (fun (s : State) k => s.wear d k (shelfGlove c)) s

theorem unworn_wearShelf (s : State) (c : Cab) (d : Die) : (s.wearShelf c d).unworn = s.unworn :=
  foldl_keeps (g := State.unworn) (fun _ _ => unworn_wear ..) _ _

theorem eq_of_unworn {α : Type} {f : State → α} (hf : ∀ s : State, f s.unworn = f s) (h : t.unworn = s.unworn) : f t = f s := by
  rw [← hf t, ← hf s, h]

/-- Every active cluster of the dies wears the shelf glove. -/
theorem worn_wearShelf (s : State) (c : Cab) (l : List Die) :
    ∀ d ∈ l, ∀ k ∈ (s.die d).map, (l.foldl (fun (s : State) d => s.wearShelf c d) s).WornAt0 (shelfGlove c) d k := by
  have hmap : ∀ (v : State) (d e : Die), v.unworn = s.unworn → ((v.wearShelf c d).die e).map = (s.die e).map := fun v d e hv =>
    eq_of_unworn (f := fun s => (s.die e).map) (fun _ => rfl) ((unworn_wearShelf v c d).trans hv)
  have hone : ∀ (v : State) (d : Die) (m : List Phys) (k : Phys), (k ∈ m ∨ v.WornAt0 (shelfGlove c) d k) →
      (m.foldl (fun (s : State) k => s.wear d k (shelfGlove c)) v).WornAt0 (shelfGlove c) d k := fun v d m =>
    foldl_establishes (inv := fun _ => True) (P := fun k (s : State) => s.WornAt0 (shelfGlove c) d k) (fun _ _ _ => trivial)
      (fun s k _ => wornAt0_wear s c d k) (fun _ _ _ _ h => h.wear) m v trivial
  have hother : ∀ (v : State) (d e : Die) (m : List Phys) (k : Phys), v.WornAt0 (shelfGlove c) d k →
      (m.foldl (fun (s : State) k => s.wear e k (shelfGlove c)) v).WornAt0 (shelfGlove c) d k := by
    intro v d e m k h
    induction m generalizing v with
    | nil => exact h
    | cons a m ih => exact ih _ h.wear
  intro d hd
  refine foldl_establishes (inv := fun v => v.unworn = s.unworn) (f := fun (s : State) d => s.wearShelf c d)
    (P := fun d (v : State) => ∀ k ∈ (s.die d).map, v.WornAt0 (shelfGlove c) d k) (fun v a h => (unworn_wearShelf ..).trans h)
    (fun v a h k hk => hone v a _ k (.inl ?_)) (fun v a b _ h k hk => hother v b a _ k (h k hk)) l s rfl d (.inl hd)
  rwa [eq_of_unworn (f := fun s => (s.die a).map) (fun _ => rfl) h]

/-- The state without what the writing of pages changes. -/
def State.unwritten (s : State) : State := { s with pages := [], mem := State.reset.mem }

theorem unwritten_fillPages (ps : List Page) (bs : List Byte) : ∀ s : State, (s.fillPages ps bs).unwritten = s.unwritten := by
  induction ps generalizing bs with
  | nil => exact fun _ => rfl
  | cons p ps ih => exact fun s => (ih _ _).trans rfl

theorem unwritten_writeShelf (s : State) (c : Cab) (i : ShelfImage) : (s.writeShelf c i).unwritten = s.unwritten :=
  foldl_keeps (g := State.unwritten) (fun _ _ => unwritten_fillPages ..) _ _

theorem eq_of_unwritten {α : Type} {f : State → α} (hf : ∀ s : State, f s.unwritten = f s) (h : t.unwritten = s.unwritten) : f t = f s := by
  rw [← hf t, ← hf s, h]

theorem fillPages_streams (l : List Stream) (ps : List Page) (bs : List Byte) : ∀ s : State,
    ({ s with streams := l } : State).fillPages ps bs = { s.fillPages ps bs with streams := l } := by
  induction ps generalizing bs with
  | nil => exact fun _ => rfl
  | cons p ps ih =>
    exact fun s => ih (bs.drop 0x200000)
      (({ s with mem := (s.mem.zero p.base 0x200000).write p.base (bs.take 0x200000) } : State).setPage { p with zeroing := false })

theorem writeShelf_streams (l : List Stream) (s : State) (c : Cab) (i : ShelfImage) :
    ({ s with streams := l } : State).writeShelf c i = { s.writeShelf c i with streams := l } :=
  List.foldl_hom (fun s : State => ({ s with streams := l } : State)) fun _ _ => fillPages_streams ..

/-! ## MOUNT_COMPLETE -/

/-- The shelf stands on every die of a cabinet, and every active cluster wears its glove. -/
def State.shelved (s : State) (c : Cab) (n : Nat) (i : ShelfImage) : State :=
  (diesOf (s.cab c).dies).foldl (fun (s : State) d => s.wearShelf c d)
    ((({ s with streams := s.streams ++ [servingStream n c] } : State).writeShelf c i).modGlove (shelfGlove c).toNat fun g =>
      { g with standbyAcked := true })

/-- A cabinet whose shelf serves. -/
def Cabinet.serves (x : Cabinet) (n : Nat) : Cabinet := { x with state := 3, serving := some (Fin.ofNat 4096 n), mountReply := none }

section Complete

variable {c : Cab} {n : Nat} {i : ShelfImage}

theorem exec_mountComplete (hst : (s.cab c).state = 2) (hi : (s.cab c).shelf = some i) (hm : i.meas = (s.cab c).mountAsked)
    (hn : s.freeStream = some n) : exec (.mountComplete c) s =
      .next (((s.shelved c n i).modCab c fun x => x.serves n).completeAll (s.cab c).mountReply.toList Code.ok [word (put n 52)]) := by
  have h2 : ¬((s.cab c).state != 2) = true := by simp [hst]
  have h3 : ¬((s.cab c).shelf.map ShelfImage.meas != some (s.cab c).mountAsked) = true := by simp [hi, hm]
  refine congrArg Host.Outcome.next ((if_neg h2).trans ((if_neg h3).trans ?_))
  simp only [hn, hi]
  rfl

/-- What a mount leaves unchanged: what neither pages, clusters nor gloves are, beside the streams. -/
theorem kept_by_shelved {α : Type} {f : State → α} (hw : ∀ s : State, f s.unworn = f s) (hr : ∀ s : State, f s.unwritten = f s)
    (hg : ∀ (s : State) g h, f (s.modGlove g h) = f s) :
    f (s.shelved c n i) = f { s with streams := s.streams ++ [servingStream n c] } :=
  (foldl_keeps (g := f) (f := fun (s : State) d => s.wearShelf c d)
    (fun v d => eq_of_unworn hw (unworn_wearShelf v c d)) _ _).trans ((hg ..).trans (eq_of_unwritten hr (unwritten_writeShelf ..)))

theorem shelved_written {α : Type} {f : State → α} (hw : ∀ s : State, f s.unworn = f s) (hg : ∀ (s : State) g h, f (s.modGlove g h) = f s)
    (hs : ∀ (s : State) l, f { s with streams := l } = f s) : f (s.shelved c n i) = f (s.writeShelf c i) :=
  (foldl_keeps (g := f) (f := fun (s : State) d => s.wearShelf c d)
    (fun v d => eq_of_unworn hw (unworn_wearShelf v c d)) _ _).trans ((hg ..).trans (by rw [writeShelf_streams, hs]))

theorem worn_shelved (d : Die) (hd : d ∈ diesOf (s.cab c).dies) (k : Phys) (hk : k ∈ (s.die d).map) :
    (s.shelved c n i).WornAt0 (shelfGlove c) d k := by
  have hmap : ∀ v : State, v.unwritten = s.unwritten → (v.die d).map = (s.die d).map := fun _ =>
    eq_of_unwritten (f := fun s => (s.die d).map) fun _ => rfl
  refine worn_wearShelf _ c _ d hd k ?_
  change k ∈ ((State.writeShelf _ c i).die d).map
  rw [writeShelf_streams]
  exact (hmap _ (unwritten_writeShelf s c i)).symm ▸ hk

/-- A cluster is no message. -/
theorem cluster_of_quiet (hq : t.quiet = s.quiet) (d : Die) (k : Phys) : t.cluster d k = s.cluster d k := by
  rw [State.cluster, State.cluster?, quiet_clusters hq]
  rfl

theorem mountComplete_mounts (hlen : c.val < s.cabs.length) (hst : (s.cab c).state = 2)
    (hm : (s.cab c).shelf.map ShelfImage.meas = some (s.cab c).mountAsked) (hn : s.freeStream = some n) :
    Answers (.mountComplete c) s fun t =>
      (t.cab c).state = 3 ∧ (t.cab c).serving = some (Fin.ofNat 4096 n) ∧ (t.cab c).shelf = (s.cab c).shelf ∧
        t.streams = s.streams ++ [servingStream n c] ∧
        (∀ d ∈ diesOf (s.cab c).dies, ∀ k ∈ (s.die d).map, t.WornAt0 (shelfGlove c) d k) ∧
        (∀ i, (s.cab c).shelf = some i → t.pages = (s.writeShelf c i).pages ∧ t.mem = (s.writeShelf c i).mem) ∧
        t.jobs = s.jobs ∧ t.dies = s.dies ∧
        (∀ r, (s.cab c).mountReply = some r → s.awaits r = true → t.answered r 0 Code.ok [word (put n 52)] = true) := by
  obtain ⟨i, hi, hmi⟩ := Option.map_eq_some_iff.1 hm
  refine ⟨_, exec_mountComplete hst hi hmi hn, ?_⟩
  have hq := quiet_completeAll ((s.shelved c n i).modCab c fun x => x.serves n) (s.cab c).mountReply.toList Code.ok [word (put n 52)]
  have hcabs : (s.shelved c n i).cabs = s.cabs := kept_by_shelved (f := State.cabs) (fun _ => rfl) (fun _ => rfl) fun _ _ _ => rfl
  have hcab : ((s.shelved c n i).modCab c fun x => x.serves n).cab c = (s.cab c).serves n := by
    rw [cab_modCab_same (by rwa [hcabs]), State.cab, hcabs, State.cab]
  have hchans : (s.shelved c n i).cp.chans = s.cp.chans :=
    kept_by_shelved (f := fun s => s.cp.chans) (fun _ => rfl) (fun _ => rfl) fun _ _ _ => rfl
  simp only [cab_completeAll, hcab]
  refine ⟨rfl, rfl, rfl, (quiet_streams hq).trans ?_, fun d hd k hk => ?_, fun i' hi' => ?_, (quiet_jobs hq).trans ?_,
    (quiet_dies hq).trans ?_, fun r hr ha => ?_⟩
  · exact kept_by_shelved (f := State.streams) (fun _ => rfl) (fun _ => rfl) fun _ _ _ => rfl
  · rw [State.WornAt0, cluster_of_quiet hq]
    exact worn_shelved (n := n) (i := i) d hd k hk
  · cases Option.some.inj (hi.symm.trans hi')
    exact ⟨(quiet_pages hq).trans (shelved_written (f := State.pages) (fun _ => rfl) (fun _ _ _ => rfl) fun _ _ => rfl),
      (quiet_mem hq).trans (shelved_written (f := State.mem) (fun _ => rfl) (fun _ _ _ => rfl) fun _ _ => rfl)⟩
  · exact kept_by_shelved (f := State.jobs) (fun _ => rfl) (fun _ => rfl) fun _ _ _ => rfl
  · exact kept_by_shelved (f := State.dies) (fun _ => rfl) (fun _ => rfl) fun _ _ _ => rfl
  · rw [hr]
    refine answered_of_awaits ?_ 0 Code.ok _
    exact (awaits_of_chan (chan_of_chans hchans _)).trans ha

omit n i in
theorem mountComplete_fails (hlen : c.val < s.cabs.length) (hst : (s.cab c).state = 2)
    (h : ¬(s.cab c).shelf.map ShelfImage.meas = some (s.cab c).mountAsked ∨ s.freeStream = none) :
    Answers (.mountComplete c) s fun t => s.NoShelf t c := by
  have h2 : ¬((s.cab c).state != 2) = true := by simp [hst]
  by_cases hm : (s.cab c).shelf.map ShelfImage.meas = some (s.cab c).mountAsked
  · have hn := h.resolve_left (not_not.2 hm)
    have he : exec (.mountComplete c) s = .next (s.endMount c Code.streamLimit) :=
      congrArg Host.Outcome.next ((if_neg h2).trans ((if_neg (by simp [hm])).trans (by simp only [hn])))
    exact ⟨_, he, noShelf_endMount hlen _⟩
  · have he : exec (.mountComplete c) s = .next (s.endMount c Code.shelfMismatch) :=
      congrArg Host.Outcome.next ((if_neg h2).trans (if_pos (by simpa using hm)))
    exact ⟨_, he, noShelf_endMount hlen _⟩

end Complete

theorem shelfMountCompletes : ShelfMountCompletes := by
  intro s c hsh hst
  have hlen := cab_lt_of_shape hsh c
  refine ⟨fun n hm hn => mountComplete_mounts hlen hst hm hn, fun h => ?_⟩
  obtain ⟨t, ht, h1, h2, h3, -, h5, h6⟩ := mountComplete_fails hlen hst h
  exact ⟨t, ht, h1, h2, h3, h6, h5⟩

end Sys2Proof.Machine
end
section
/-!
PROOF. A shelf is unmounted (R41).
-/

namespace Sys2Proof.Machine

variable {s t u : State} {r : Reply} {src : Src} {req : Req} {c : Cab}

/-! ## What the release of a shelf leaves -/

/-- A residency that is released is gone. -/
theorem not_mem_releaseResidency {n : Nat} {g : Die} {x : Residency} (hx : x ∈ (s.releaseResidency c n g).residencies) :
    ¬(x.cab = c ∧ x.slot = n ∧ x.group = g) := by
  unfold State.releaseResidency at hx
  have hm := (List.mem_filter.1 ((eased_dropClaims ..).residencies x hx)).2
  rintro ⟨rfl, rfl, rfl⟩
  simp at hm

theorem eased_dropDrawers (s : State) (c : Cab) : s.Eased (s.dropDrawers c) :=
  State.Eased.after (.foldl (fun _ _ => eased_settleEvict ..) _ _) <|
    State.Eased.after (.foldl (fun _ _ => eased_releaseResidency ..) _ _) <|
      (eased_answerFetch ..).after (eased_filterFetches s _)

/-- No residency of the cabinet stays. -/
theorem no_residency_dropDrawers {x : Residency} (hx : x ∈ (s.dropDrawers c).residencies) : x.cab ≠ c := by
  intro hc
  unfold State.dropDrawers at hx
  dsimp only at hx
  generalize hv : ({ s with fetches := s.fetches.filter fun f => f.cab != c } : State).answerFetch
    ((s.fetches.filter fun f => f.cab == c).flatMap Fetch.replies) Code.noShelf = v at hx
  replace hx := (State.Eased.foldl (fun _ _ => eased_settleEvict ..) _ _).residencies x hx
  have hmem := (State.Eased.foldl (fun _ _ => eased_releaseResidency ..) _ v).residencies x hx
  have hgone := foldl_establishes (inv := fun _ => True) (f := fun s (r : Residency) => s.releaseResidency c r.slot r.group)
    (P := fun r s => ∀ y ∈ s.residencies, ¬(y.cab = c ∧ y.slot = r.slot ∧ y.group = r.group)) (fun _ _ _ => trivial)
    (fun s a _ y hy => not_mem_releaseResidency hy) (fun s a b _ h y hy => h y ((eased_releaseResidency ..).residencies y hy))
    (v.residencies.filter fun r => r.cab == c) v trivial x (.inl (List.mem_filter.2 ⟨hmem, by simpa using hc⟩))
  exact hgone x hx ⟨hc, rfl, rfl⟩

/-- No fetch of the cabinet stays. -/
theorem no_fetch_dropDrawers {f : Fetch} (hf : f ∈ (s.dropDrawers c).fetches) : f.cab ≠ c := by
  have he : ({ s with fetches := s.fetches.filter fun f => f.cab != c } : State).Eased (s.dropDrawers c) :=
    State.Eased.after (.foldl (fun _ _ => eased_settleEvict ..) _ _) <|
      State.Eased.after (.foldl (fun _ _ => eased_releaseResidency ..) _ _) (eased_answerFetch ..)
  obtain ⟨g, hg, e⟩ := he.fetches f hf
  exact e ▸ by simpa using (List.mem_filter.1 hg).2

/-- What the release of a shelf leaves. -/
structure State.Released (s t : State) (c : Cab) : Prop where
  bare : t.cab c = (s.cab c).bare
  others : ∀ k, k ≠ c → t.cab k = s.cab k
  programs : ∀ p ∈ t.programs, p.cab ≠ c
  residencies : ∀ x ∈ t.residencies, x.cab ≠ c
  fetches : ∀ f ∈ t.fetches, f.cab ≠ c
  xclaims : ∀ x ∈ t.xclaims, x.cab ≠ c
  mem : t.mem = s.mem

/-- The dies' seatings gone, everything else as it was. -/
theorem kept_by_emptyDies {α : Type} {f : State → α} (hf : ∀ (s : State) d g, f (s.modDie d g) = f s) (m : BitVec 16) :
    f (s.emptyDies m) = f s :=
  foldl_keeps (g := f) (f := fun (s : State) d => s.modDie d DieSt.emptied) (fun _ _ => hf ..) _ _

theorem eased_dropShelfPages (s : State) (c : Cab) : s.Eased (s.dropShelfPages c) := (eased_discardGlove ..).after (eased_freePages ..)

theorem calm_dropShelfPages (s : State) (c : Cab) : (s.dropShelfPages c).calm = s.calm := (calm_discardGlove ..).trans (calm_freePages ..)

theorem released_releaseShelf (hlen : c.val < s.cabs.length) : s.Released (s.releaseShelf c) c := by
  rw [releaseShelf_eq]
  generalize hd : (s.dropDrawers c).emptyDies (s.cab c).dies = d
  have hq := quiet_completeAll (((d.dropPrograms c (s.cab c).serving).dropShelfPages c).modCab c Cabinet.bare) (s.cab c).unmountReplies
    Code.ok []
  have hp := eased_dropShelfPages (d.dropPrograms c (s.cab c).serving) c
  have hcabs : ((d.dropPrograms c (s.cab c).serving).dropShelfPages c).cabs = s.cabs := by
    rw [hp.cabs, ← hd]
    exact (kept_by_emptyDies (f := State.cabs) (fun _ _ _ => rfl) _).trans (eased_dropDrawers s c).cabs
  refine ⟨?_, fun k hk => ?_, fun p hm => ?_, fun x hm => ?_, fun f hm => ?_, fun x hm => ?_, ?_⟩
  · rw [cab_completeAll, cab_modCab_same (by rwa [hcabs]), State.cab, hcabs, ← State.cab]
  · rw [cab_completeAll, cab_modCab_ne hk, State.cab, hcabs, ← State.cab]
  · rw [quiet_programs hq] at hm
    have hm' : p ∈ (d.dropPrograms c (s.cab c).serving).programs :=
      eq_of_calm (f := State.programs) (fun _ => rfl) (calm_dropShelfPages ..) ▸ hm
    simpa using (List.mem_filter.1 hm').2
  · rw [quiet_residencies hq] at hm
    have hm' : x ∈ d.residencies := hp.residencies x hm
    rw [← hd, kept_by_emptyDies (f := State.residencies) fun _ _ _ => rfl] at hm'
    exact no_residency_dropDrawers hm'
  · rw [quiet_fetches hq] at hm
    obtain ⟨g, hg, e⟩ := hp.fetches f hm
    have hg' : g ∈ d.fetches := hg
    rw [← hd, kept_by_emptyDies (f := State.fetches) fun _ _ _ => rfl] at hg'
    exact e ▸ no_fetch_dropDrawers hg'
  · rw [quiet_xclaims hq] at hm
    simpa using (List.mem_filter.1 (hp.xclaims x hm)).2
  · have hm : d.mem = s.mem := by
      rw [← hd]
      exact (kept_by_emptyDies (f := State.mem) (fun _ _ _ => rfl) _).trans (eased_dropDrawers s c).mem
    exact (quiet_mem hq).trans (hp.mem.trans hm)

/-! ## How an unmount begins -/

/-- A cabinet whose unmount has begun. -/
def Cabinet.unmounting (x : Cabinet) (cut : Bool) (rs : List Reply) : Cabinet :=
  { x with state := 4, unmount := some (cut || (x.unmount.map Prod.fst).getD false, (x.unmount.map Prod.snd).getD [] ++ rs) }

/-- The requests that an unmount in CUT mode ends. -/
def State.cutsOff (s : State) (c : Cab) (q : Request) : Bool := q.cab == c && q.live && !s.passing c q.id

/-- The unmount has begun, and nothing has ended yet. -/
def State.unmounting (s : State) (c : Cab) (cut : Bool) (rs : List Reply) : State := s.modCab c fun x => x.unmounting cut rs

/-- An unmount of a cabinet that no run is in. -/
theorem unmountBegin_eq {cut : Bool} {rs : List Reply} {code : Nat} (hr : ∀ x ∈ s.runs, x.cab ≠ c) :
    s.unmountBegin c cut rs code =
      ((if cut || ((s.cab c).unmount.map Prod.fst).getD false then
          (s.unmounting c cut rs).endRequests ((s.unmounting c cut rs).cutsOff c) Code.shelfUnmounted
        else s.unmounting c cut rs).settleUnmount c) := by
  have hm : (s.modCab c fun x => { x with
      state := 4, unmount := some (cut || ((s.cab c).unmount.map Prod.fst).getD false, ((s.cab c).unmount.map Prod.snd).getD [] ++ rs) }) =
      s.unmounting c cut rs := modCab_congr rfl
  have hruns : s.runs.filter (fun r => r.cab == c) = [] := List.filter_eq_nil_iff.2 fun x hx => by simpa using hr x hx
  have hf : (s.unmounting c cut rs).runs.filter (fun r => r.cab == c) = [] := hruns
  simp only [State.unmountBegin, hm, hf, List.foldl_nil]
  rfl

section Begin

variable {cut : Bool} {rs : List Reply} {code : Nat} (hlen : c.val < s.cabs.length) (hr : ∀ x ∈ s.runs, x.cab ≠ c)

theorem endRequests_of_none {p : Request → Bool} (h : ∀ q ∈ s.requests, p q = false) : s.endRequests p code = s := by
  have hf : s.requests.filter (fun q => decide (q.state.val ≤ 2) && p q) = [] :=
    List.filter_eq_nil_iff.2 fun q hq => by simp [h q hq]
  rw [State.endRequests, hf]
  rfl

/-- Nothing that an unmount cuts off where no request is live. -/
theorem cutsOff_of_not_live (h : s.liveIn c = false) {q : Request} (hq : q ∈ s.requests) : s.cutsOff c q = false := by
  rw [State.liveIn, List.any_eq_false] at h
  have hl := h q hq
  rw [State.cutsOff]
  simp only [Bool.and_eq_true] at hl ⊢
  rw [← Bool.not_eq_true, Bool.and_eq_true, Bool.and_eq_true]
  exact fun ⟨hl', _⟩ => hl hl'

theorem liveIn_unmounting : (s.unmounting c cut rs).liveIn c = s.liveIn c := rfl

include hlen in
theorem cab_unmounting : (s.unmounting c cut rs).cab c = (s.cab c).unmounting cut rs := cab_modCab_same hlen

include hlen in
theorem passesIn_unmounting : (s.unmounting c cut rs).passesIn c = s.passesIn c := by
  simp only [State.passesIn, cab_unmounting hlen]
  rfl

include hlen hr

/-- With nothing to wait for, the shelf is released at once. -/
theorem unmountBegin_releases (hl : s.liveIn c = false) (hp : s.passesIn c = false) :
    s.unmountBegin c cut rs code = (s.unmounting c cut rs).releaseShelf c := by
  have hend : (s.unmounting c cut rs).endRequests ((s.unmounting c cut rs).cutsOff c) Code.shelfUnmounted = s.unmounting c cut rs :=
    endRequests_of_none fun q hq => cutsOff_of_not_live (liveIn_unmounting.trans hl) hq
  rw [unmountBegin_eq hr, hend, ite_self]
  refine if_pos ?_
  have hruns : (s.unmounting c cut rs).runs.any (fun r => r.cab == c && r.busy) = false :=
    List.any_eq_false.2 fun x hx => by simp [hr x hx]
  have h4 : ((s.unmounting c cut rs).cab c).state = 4 := by rw [cab_unmounting hlen]; rfl
  rw [hruns, liveIn_unmounting, hl, passesIn_unmounting hlen, hp]
  simp [h4]

omit hlen in
/-- While a request is live and the unmount does not cut, it waits. -/
theorem unmountBegin_waits (hl : s.liveIn c = true) (hu : (s.cab c).unmount = none) :
    s.unmountBegin c false rs code = s.unmounting c false rs := by
  rw [unmountBegin_eq hr, hu]
  refine if_neg ?_
  have hl' : (s.unmounting c false rs).liveIn c = true := liveIn_unmounting.trans hl
  simp [hl']

end Begin

/-! ## UNMOUNT_SHELF in CUT mode -/

/-- Requests with ids of their own, of which those that live stood before. -/
structure State.Ends (s t : State) : Prop where
  ids : t.requests.map Request.id = s.requests.map Request.id
  live : ∀ q ∈ t.requests, q.live = true → q ∈ s.requests

theorem State.Ends.refl (s : State) : s.Ends s := ⟨rfl, fun _ h _ => h⟩

theorem State.Ends.trans (h : s.Ends t) (h' : t.Ends u) : s.Ends u :=
  ⟨h'.ids.trans h.ids, fun q hq hl => h.live q (h'.live q hq hl) hl⟩

theorem calm_unpin (s : State) (c : Cab) (n : Nat) (g : Die) : (s.unpin c n g).calm = s.calm := by
  have he : ∀ v : State, (v.evictOne c n g).calm = v.calm := fun v => by
    unfold State.evictOne
    split
    · rfl
    · split
      · exact (calm_releaseResidency ..).trans (calm_answerFetch ..)
      · rfl
  unfold State.unpin
  dsimp only
  split
  · refine (calm_settleCache ..).trans ((calm_settleEvict ..).trans ?_)
    split
    · exact he _
    · rfl
  · rfl

section EndRequest

variable {i code : Nat}

theorem endRequest_absent (hq : s.request? i = none) : s.endRequest i code = s := by
  rw [State.endRequest, State.closeRequest, hq]

theorem endRequest_over {q : Request} (hq : s.request? i = some q) (h : q.state = RState.done ∨ q.state = RState.ended) :
    s.endRequest i code = s := by
  rw [State.endRequest, State.closeRequest, hq]
  exact if_pos (by simpa using h)

/-- A request that has not finished ends: its row alone changes. -/
theorem requests_endRequest {q : Request} (hq : s.request? i = some q) (h : ¬(q.state = RState.done ∨ q.state = RState.ended)) :
    (s.endRequest i code).requests = (s.modRequest i fun q => q.finished code s.now).requests := by
  have h0 : ¬(decide (q.state = RState.done) || decide (q.state = RState.ended)) = true := by simpa using h
  have h1 : ¬RState.ended = RState.done := by decide
  refine still_requests ?_
  rw [State.endRequest, State.closeRequest, hq]
  refine (congrArg State.still (if_neg h0)).trans ((still_settleUnmount ..).trans (still_of_calm ?_))
  simp only [if_neg h1]
  split
  · exact (calm_unpin ..).trans (calm_freePages ..)
  · exact calm_freePages ..

theorem not_live_of_over {q : Request} (h : q.state = RState.done ∨ q.state = RState.ended) : q.live = false := by
  rcases h with h | h <;> rw [Request.live, h] <;> decide

theorem ends_endRequest (s : State) (i code : Nat) : s.Ends (s.endRequest i code) := by
  rcases hq : s.request? i with - | q
  · rw [endRequest_absent hq]
    exact .refl s
  · by_cases h : q.state = RState.done ∨ q.state = RState.ended
    · rw [endRequest_over hq h]
      exact .refl s
    · have hr := requests_endRequest (code := code) hq h
      refine ⟨by rw [hr]; exact map_updFirst_of Request.id _ (fun x => x.finished code s.now) (fun _ => rfl) _, fun x hx hl => ?_⟩
      rw [hr] at hx
      exact (eq_or_mem_of_mem_updFirst hq hx).resolve_left fun e => by
        rw [e, not_live_of_over (q := q.finished code s.now) (.inr rfl)] at hl
        cases hl

theorem eq_of_request? (hn : (s.requests.map Request.id).Nodup) {q x : Request} (hq : s.request? i = some q) (hx : x ∈ s.requests)
    (hi : x.id = i) : x = q :=
  List.inj_on_of_nodup_map hn hx (List.mem_of_find?_eq_some hq) (hi.trans (request?_id hq).symm)

/-- No request that has been ended lives. -/
theorem not_live_endRequest (hn : (s.requests.map Request.id).Nodup) {x : Request} (hx : x ∈ (s.endRequest i code).requests)
    (hi : x.id = i) : x.live = false := by
  rcases hq : s.request? i with - | q
  · rw [endRequest_absent hq] at hx
    have := List.find?_eq_none.1 hq x hx
    simp [hi] at this
  · by_cases h : q.state = RState.done ∨ q.state = RState.ended
    · rw [endRequest_over hq h] at hx
      rw [eq_of_request? hn hq hx hi]
      exact not_live_of_over h
    · have hr := requests_endRequest (code := code) hq h
      have hn' : ((s.endRequest i code).requests.map Request.id).Nodup := (ends_endRequest s i code).ids ▸ hn
      have hq' : (s.endRequest i code).request? i = some (q.finished code s.now) := by
        rw [State.request?, hr]
        exact request?_modRequest_same (f := fun q => q.finished code s.now) hq (show q.id = i from request?_id hq)
      rw [eq_of_request? hn' hq' hx hi]
      exact not_live_of_over (.inr rfl)

/-- None of the requests that are ended lives, and none that lives is new. -/
theorem ends_endRequests (s : State) (p : Request → Bool) (code : Nat) : s.Ends (s.endRequests p code) := by
  unfold State.endRequests
  generalize s.requests.filter _ = l
  induction l generalizing s with
  | nil => exact .refl s
  | cons q l ih => exact (ends_endRequest s q.id code).trans (ih _)

theorem not_live_endRequests {p : Request → Bool} (hn : (s.requests.map Request.id).Nodup) {q : Request} (hq : q ∈ s.requests) (hp : p q = true)
    {x : Request} (hx : x ∈ (s.endRequests p code).requests) (hi : x.id = q.id) : x.live = false := by
  have hest := foldl_establishes (inv := fun s => (s.requests.map Request.id).Nodup) (f := fun s (q : Request) => s.endRequest q.id code)
    (P := fun q s => ∀ x ∈ s.requests, x.id = q.id → x.live = false) (fun s a h => (ends_endRequest s a.id code).ids ▸ h)
    (fun s a h x hx hi => not_live_endRequest h hx hi)
    (fun s a b _ h x hx hi => by
      by_contra hl
      exact hl (h x ((ends_endRequest s a.id code).live x hx (by simpa using hl)) hi))
    (s.requests.filter fun q => decide (q.state.val ≤ 2) && p q) s hn q
  by_contra hl
  rw [Bool.not_eq_false] at hl
  have hxs := (ends_endRequests s p code).live x hx hl
  obtain rfl : x = q := List.inj_on_of_nodup_map hn hxs hq hi
  have hle : x.state.val ≤ 2 := by
    simp only [Request.live, Bool.or_eq_true, beq_iff_eq] at hl
    rcases hl with hl | hl <;> rw [hl] <;> decide
  have hnot := hest (.inl (List.mem_filter.2 ⟨hq, by simp [hle, hp]⟩)) x hx hi
  exact Bool.false_ne_true (hnot.symm.trans hl)

end EndRequest

/-- After a cut every request of the cabinet that lives has a row in a pass. -/
theorem passing_of_cut {rs : List Reply} {code : Nat} (hlen : c.val < s.cabs.length) (hr : ∀ x ∈ s.runs, x.cab ≠ c)
    (hn : (s.requests.map Request.id).Nodup) {q : Request} (hq : q ∈ (s.unmountBegin c true rs code).requests) (hc : q.cab = c)
    (hl : q.live = true) : s.passing c q.id = true := by
  rw [unmountBegin_eq hr, if_pos (Bool.true_or _), still_requests (still_settleUnmount ..)] at hq
  have hqs : q ∈ (s.unmounting c true rs).requests := (ends_endRequests _ _ _).live q hq hl
  have hp : (s.unmounting c true rs).passing c q.id = s.passing c q.id := by
    simp only [State.passing, cab_unmounting hlen]
    rfl
  by_contra hno
  have hcut : (s.unmounting c true rs).cutsOff c q = true := by
    rw [State.cutsOff, hp, Bool.eq_false_of_not_eq_true hno]
    simp [hc, hl]
  have := not_live_endRequests (s := s.unmounting c true rs) hn hqs hcut hq rfl
  exact Bool.false_ne_true (this.symm.trans hl)

/-! ## UNMOUNT_SHELF -/

section Unmount

variable (h : s.admits infoUnmountShelf src req = true)

include h

theorem unmountShelf_refuses (h3 : (s.cab (cabOf (wordAt req.payload 0))).state ≠ 3) (h4 : (s.cab (cabOf (wordAt req.payload 0))).state ≠ 4) :
    Completes (.unmountShelf src req) s infoUnmountShelf src req Code.noShelf [] s :=
  completes_of_admits h rfl fun t ht => ⟨t, ht, if_pos (by rw [ht.cab]; simp [h3, h4])⟩

/-- An unmount of a cabinet with a shelf begins in a state that differs in messages only. -/
theorem unmountShelf_begins {P : State → Prop}
    (hst : (s.cab (cabOf (wordAt req.payload 0))).state = 3 ∨ (s.cab (cabOf (wordAt req.payload 0))).state = 4)
    (hP : ∀ v, s.Took (replyOf infoUnmountShelf src req) v → v.acceptedReq (replyOf infoUnmountShelf src req) 0 = true →
      P (v.unmountBegin (cabOf (wordAt req.payload 0)) (bitAt (wordAt req.payload 0) 59) [replyOf infoUnmountShelf src req]
        Code.shelfUnmounted)) : Answers (.unmountShelf src req) s P :=
  answers_of_admits h rfl fun t ht => by
    have hn : ¬((t.cab (cabOf (wordAt req.payload 0))).state != 3 && (t.cab (cabOf (wordAt req.payload 0))).state != 4) = true := by
      rw [ht.cab]
      rcases hst with hst | hst <;> simp [hst]
    rw [if_neg hn]
    exact hP _ ht.accept (acceptedReq_accept 0 ht.holds)

end Unmount

theorem shelfUnmounts : ShelfUnmounts := by
  intro s src req hsh h
  have hlen := cab_lt_of_shape hsh (cabOf (wordAt req.payload 0))
  refine ⟨fun h3 h4 => unmountShelf_refuses h h3 h4, fun hst hruns => ⟨fun hl hcut hu => ?_, fun hl hp => ?_, fun hcut hids => ?_⟩⟩ <;>
    refine unmountShelf_begins h hst fun v hv hacc => ?_
  · have hruns' : ∀ x ∈ v.runs, x.cab ≠ cabOf (wordAt req.payload 0) := fun x hx => hruns x (quiet_runs hv.quiet ▸ hx)
    rw [hcut, unmountBegin_waits hruns' ((hv.reads (f := fun s => s.liveIn _) fun _ => rfl).trans hl) (by rw [hv.cab, hu])]
    refine ⟨hacc, ?_⟩
    rw [State.unmounting, hv.modCab.quiet]
    refine congrArg State.quiet (modCab_congr ?_)
    simp only [Cabinet.unmounting, hu]
    rfl
  · have hruns' : ∀ x ∈ v.runs, x.cab ≠ cabOf (wordAt req.payload 0) := fun x hx => hruns x (quiet_runs hv.quiet ▸ hx)
    have hlen' : (cabOf (wordAt req.payload 0)).val < v.cabs.length := (quiet_cabs hv.quiet).symm ▸ hlen
    rw [unmountBegin_releases hlen' hruns' ((hv.reads (f := fun s => s.liveIn _) fun _ => rfl).trans hl)
      ((hv.reads (f := fun s => s.passesIn _) fun _ => rfl).trans hp)]
    obtain ⟨h1, h2, h3, h4, h5, h6, h7⟩ := released_releaseShelf
      (s := v.unmounting (cabOf (wordAt req.payload 0)) (bitAt (wordAt req.payload 0) 59) [replyOf infoUnmountShelf src req])
      (c := cabOf (wordAt req.payload 0)) ((length_updAt _ _ v.cabs).symm ▸ hlen')
    refine ⟨by rw [h1]; rfl, by rw [h1]; rfl, by rw [h1]; rfl, h3, h4, h5, h6, fun k hk => ?_, h7.trans (show v.mem = _ from quiet_mem hv.quiet)⟩
    rw [h2 k hk, State.unmounting, cab_modCab_ne hk, hv.cab]
  · intro q hq hc hl
    have hruns' : ∀ x ∈ v.runs, x.cab ≠ cabOf (wordAt req.payload 0) := fun x hx => hruns x (quiet_runs hv.quiet ▸ hx)
    have hlen' : (cabOf (wordAt req.payload 0)).val < v.cabs.length := (quiet_cabs hv.quiet).symm ▸ hlen
    have hn : (v.requests.map Request.id).Nodup := (quiet_requests hv.quiet).symm ▸ hids.1
    rw [hcut] at hq
    exact (hv.reads (f := fun s => s.passing _ _) fun _ => rfl).symm.trans (passing_of_cut hlen' hruns' hn hq hc hl)

/-- Settles O18: a mount begins and completes, an unmount begins and releases the shelf. -/
theorem shelvesAreMounted : Obligations.ShelvesAreMounted := ⟨shelfMountBegins, shelfMountCompletes, shelfUnmounts⟩

end Sys2Proof.Machine
end
section
/-!
SUPPORT. The ends of grants, tensors, streams and jobs (R63, R65, R71, R85, R247, R390): what they leave unchanged and what they tell.
-/

namespace Sys2Proof.Machine

variable {s t u : State} {r : Reply}

/-- The last change first. -/
theorem State.After.after (h' : t.After u) (h : s.After t) : s.After u := h.trans h'

/-! ## Evictions, pins and gloves that close -/

theorem after_modResidency (s : State) (c : Cab) (n : Nat) (g : Die) (f : Residency → Residency) : s.After (s.modResidency c n g f) :=
  .same rfl rfl rfl

theorem after_settleCache (s : State) (c : Cab) : s.After (s.settleCache c) :=
  .ite ((after_completeAll ..).after (.same rfl rfl rfl)) (.refl s)

theorem after_evictOne (s : State) (c : Cab) (n : Nat) (g : Die) : s.After (s.evictOne c n g) := by
  unfold State.evictOne
  split
  · exact .refl s
  · exact .ite ((eased_releaseResidency ..).after ((eased_answerFetch ..).after (eased_filterFetches s _))).toAfter (after_modResidency ..)

theorem after_unpin (s : State) (c : Cab) (n : Nat) (g : Die) : s.After (s.unpin c n g) := by
  unfold State.unpin
  dsimp only
  split
  · refine (after_settleCache ..).after ((eased_settleEvict ..).toAfter.after ?_)
    exact .ite ((after_evictOne ..).after (after_modResidency ..)) (after_modResidency ..)
  · exact after_modResidency ..

@[simp] theorem calm_beginErase (s : State) (id : BitVec 16) : (s.beginErase id).calm = s.calm := by
  unfold State.beginErase
  split
  · rfl
  · exact (calm_gloveStep ..).trans (calm_modGlove ..)

theorem after_settleClose (s : State) (n : BitVec 32) : s.After (s.settleClose n) := by
  unfold State.settleClose
  split
  · exact .refl s
  · exact .ite (.refl s) ((eased_beginErase ..).after ((eased_freePages ..).after (.foldl (fun _ _ => eased_freeSlot ..) _ s))).toAfter

theorem calm_settleClose (s : State) (n : BitVec 32) : (s.settleClose n).calm = s.calm := by
  unfold State.settleClose
  split
  · rfl
  · split
    · rfl
    · exact (calm_beginErase ..).trans ((calm_freePages ..).trans (calm_foldl (fun _ _ => calm_freeSlot ..) _ s))

/-! ## Grants and tensors -/

theorem after_setTile (s : State) (x : Tile) : s.After (s.setTile x) := .same rfl rfl rfl

/-- The state without tiles and grants. -/
def State.untiled (s : State) : State := { s with tiles := [], grants := [] }

theorem untiled_endGrant (s : State) (g : Grant) : (s.endGrant g).untiled = s.untiled :=
  foldl_keeps (g := State.untiled) (f := fun s p => s.setTile (Tile.fresh g.die g.cl g.engine p)) (fun _ _ => rfl) g.tiles s

theorem eq_of_untiled {α : Type} {f : State → α} (hf : ∀ s : State, f s.untiled = f s) (h : t.untiled = s.untiled) : f t = f s := by
  rw [← hf t, ← hf s, h]

theorem after_of_untiled (h : t.untiled = s.untiled) : s.After t :=
  .same (eq_of_untiled (f := State.mem) (fun _ => rfl) h) (eq_of_untiled (f := fun s => s.rot.sessions) (fun _ => rfl) h)
    (eq_of_untiled (f := fun s => s.cp.chans) (fun _ => rfl) h)

theorem untiled_foldl_endGrant (l : List Grant) (s : State) : (l.foldl (fun s g => s.endGrant g) s).untiled = s.untiled :=
  foldl_keeps (g := State.untiled) untiled_endGrant l s

theorem grants_endGrant (s : State) (g : Grant) : (s.endGrant g).grants = s.grants.filter fun x => x != g := by
  have h : (g.tiles.foldl (fun (s : State) p => s.setTile (Tile.fresh g.die g.cl g.engine p)) s).grants = s.grants :=
    foldl_keeps (g := State.grants) (f := fun s p => s.setTile (Tile.fresh g.die g.cl g.engine p)) (fun _ _ => rfl) g.tiles s
  simp only [State.endGrant, h]

/-- The grants that end are gone, and none comes. -/
theorem mem_foldl_endGrant {l : List Grant} {g : Grant} (h : g ∈ (l.foldl (fun s g => s.endGrant g) s).grants) : g ∈ s.grants ∧ g ∉ l := by
  induction l generalizing s with
  | nil => exact ⟨h, by simp⟩
  | cons a l ih =>
    obtain ⟨hm, hl⟩ := ih h
    rw [grants_endGrant, List.mem_filter] at hm
    exact ⟨hm.1, by simpa [hl] using hm.2⟩

theorem untiled_settleGrants (s : State) (i : Fin 4096) : (s.settleGrants i).untiled = s.untiled := by
  unfold State.settleGrants
  split
  · rfl
  · exact untiled_foldl_endGrant ..

theorem after_freeTensors (s : State) (p : Tensor → Bool) : s.After (s.freeTensors p) :=
  State.After.after (t := State.freePages s _) (.same rfl rfl rfl) (eased_freePages ..).toAfter

/-- The state but for tensors and what residencies settle. -/
theorem calm_freeTensors (s : State) (p : Tensor → Bool) :
    ({ s.freeTensors p with tensors := [] } : State).calm = ({ s with tensors := [] } : State).calm := by
  have h := calm_freePages s fun x => ((s.tensors.filter p).flatMap Tensor.pages).contains (x.stack, x.page)
  exact congrArg (fun v : State => ({ v with tensors := [] } : State)) h

theorem tensors_freeTensors (s : State) (p : Tensor → Bool) : (s.freeTensors p).tensors = s.tensors.filter fun v => !p v := by
  have h := calm_freePages s fun x => ((s.tensors.filter p).flatMap Tensor.pages).contains (x.stack, x.page)
  exact congrArg (List.filter fun v => !p v) (eq_of_calm (f := State.tensors) (fun _ => rfl) h)

/-! ## A stream is released -/

/-- What the release of a stream leaves beside the pages and commands that follow. -/
structure State.StreamGone (s t : State) (i : Fin 4096) : Prop where
  after : s.After t
  streams : t.streams = s.streams.filter fun x => x.id != i
  jobs : t.jobs = s.jobs
  grants : ∀ g ∈ t.grants, g.stream ≠ i
  tensors : ∀ v ∈ t.tensors, v.stream ≠ i
  timers : ∀ v ∈ t.cp.timers, v.stream ≠ i
  closing : ∀ x, s.stream? i.val = some x → ∀ r ∈ x.closing, s.Newest r → (∀ k, r.src ≠ .session k) → t.Done r

/-- A stream's tiles, tensors, claims and pieces of a token go. -/
def State.dropStream (s : State) (i : Fin 4096) : State :=
  let s := (s.grants.filter fun g => g.stream == i).foldl (fun s g => s.endGrant g) s
  let s := s.freeTensors fun t => t.stream == i
  ({ s with streams := s.streams.filter fun x => x.id != i,
            rot := { s.rot with assemblies := s.rot.assemblies.filter fun p => p.1 != i } } : State).modCp fun c =>
    { c with timers := c.timers.filter fun t => t.stream != i,
             traceRing := if c.traceRing = some (.stream i) then none else c.traceRing }

theorem releaseStream_eq (s : State) (i : Fin 4096) {x : Stream} (hx : s.stream? i.val = some x) :
    s.releaseStream i = (let v := (s.dropStream i).completeAll x.closing Code.ok []
      if x.owner = 1 then v.settleClose x.tenant else v) := by
  simp only [State.releaseStream, hx]
  rfl

/-- A channel that is no session's. -/
theorem chanKey_lt {c : Src} (h : ∀ k, c ≠ .session k) : chanKey c < 4096 := by
  cases c with
  | pigeon c n => simp only [chanKey]; omega
  | tray c n => simp only [chanKey]; omega
  | session n => exact absurd rfl (h n)

theorem State.After.laterBox (h : s.After t) {c : Src} (hc : ∀ k, c ≠ .session k) : Later (s.chan (chanKey c)) (t.chan (chanKey c)) :=
  h.later _ fun x _ _ he => by have := chanKey_lt hc; omega

theorem after_dropStream (s : State) (i : Fin 4096) : s.After (s.dropStream i) :=
  State.After.after (t := State.freeTensors _ _) (.same rfl rfl rfl)
    ((after_freeTensors ..).after (after_of_untiled (untiled_foldl_endGrant _ s)))

/-- What the release of a stream's grants and tensors leaves of the rest. -/
theorem kept_by_dropStream {α : Type} {f : State → α} (ht : ∀ s : State, f s.untiled = f s)
    (hc : ∀ s : State, f s.calm = f s) (hv : ∀ (s : State) l, f { s with tensors := l } = f s) (hp : ∀ (s : State) g, f (s.modCp g) = f s)
    (hs : ∀ (s : State) l m, f { s with streams := l, rot := m } = f s) (i : Fin 4096) : f (s.dropStream i) = f s := by
  have h1 := eq_of_untiled ht (untiled_foldl_endGrant (s.grants.filter fun g => g.stream == i) s)
  generalize hu : (s.grants.filter fun g => g.stream == i).foldl (fun s g => s.endGrant g) s = u at h1
  have h2 : f (u.freeTensors fun t => t.stream == i) = f u := by
    rw [← hv _ [], ← hv u [], ← hc, calm_freeTensors, hc]
  have he : s.dropStream i = (({ u.freeTensors (fun t => t.stream == i) with
      streams := (u.freeTensors fun t => t.stream == i).streams.filter fun x => x.id != i,
      rot := { (u.freeTensors fun t => t.stream == i).rot with
        assemblies := (u.freeTensors fun t => t.stream == i).rot.assemblies.filter fun p => p.1 != i } } : State).modCp fun c =>
      { c with timers := c.timers.filter fun t => t.stream != i,
               traceRing := if c.traceRing = some (.stream i) then none else c.traceRing }) := by
    rw [← hu]
    rfl
  rw [he, hp, hs, h2, h1]

theorem streams_dropStream (s : State) (i : Fin 4096) : (s.dropStream i).streams = s.streams.filter fun x => x.id != i := by
  have h1 := eq_of_untiled (f := State.streams) (fun _ => rfl) (untiled_foldl_endGrant (s.grants.filter fun g => g.stream == i) s)
  have h2 := fun v : State => eq_of_calm (f := State.streams) (fun _ => rfl) (calm_freeTensors v fun t => t.stream == i)
  exact congrArg (List.filter fun x : Stream => x.id != i) ((h2 _).trans h1)

theorem tensors_dropStream (s : State) (i : Fin 4096) : ∀ v ∈ (s.dropStream i).tensors, v.stream ≠ i := by
  intro v hv
  have h : (s.dropStream i).tensors =
      ((s.grants.filter fun g => g.stream == i).foldl (fun s g => s.endGrant g) s).tensors.filter fun v => !(v.stream == i) :=
    tensors_freeTensors ..
  rw [h] at hv
  simpa using (List.mem_filter.1 hv).2

theorem grants_dropStream (s : State) (i : Fin 4096) : ∀ g ∈ (s.dropStream i).grants, g.stream ≠ i := by
  intro g hg he
  have h := fun v : State => eq_of_calm (f := State.grants) (fun _ => rfl) (calm_freeTensors v fun t => t.stream == i)
  have hg' : g ∈ ((s.grants.filter fun g => g.stream == i).foldl (fun s g => s.endGrant g) s).grants := h _ ▸ hg
  obtain ⟨hm, hn⟩ := mem_foldl_endGrant hg'
  exact hn (List.mem_filter.2 ⟨hm, by simpa using he⟩)

theorem timers_dropStream (s : State) (i : Fin 4096) : ∀ v ∈ (s.dropStream i).cp.timers, v.stream ≠ i := by
  intro v hv
  simpa using (List.mem_filter.1 hv).2

/-- The stream's release: what stays and what goes. -/
theorem streamGone_releaseStream (i : Fin 4096) {x : Stream} (hx : s.stream? i.val = some x) : s.StreamGone (s.releaseStream i) i := by
  have hd := after_dropStream s i
  have hc := after_completeAll (s.dropStream i) x.closing Code.ok []
  have hcalm : ((if x.owner = 1 then ((s.dropStream i).completeAll x.closing Code.ok []).settleClose x.tenant
      else (s.dropStream i).completeAll x.closing Code.ok [])).calm = (s.dropStream i).calm := by
    split
    · exact (calm_settleClose ..).trans (calm_completeAll ..)
    · exact calm_completeAll ..
  have hafter : ((s.dropStream i).completeAll x.closing Code.ok []).After
      (if x.owner = 1 then ((s.dropStream i).completeAll x.closing Code.ok []).settleClose x.tenant
        else (s.dropStream i).completeAll x.closing Code.ok []) := .ite (after_settleClose ..) (.refl _)
  rw [releaseStream_eq s i hx]
  refine ⟨hafter.after (hc.after hd), ?_, ?_, ?_, ?_, ?_, fun y hy r hr hn hb => ?_⟩
  · exact (eq_of_calm (f := State.streams) (fun _ => rfl) hcalm).trans (streams_dropStream s i)
  · exact (eq_of_calm (f := State.jobs) (fun _ => rfl) hcalm).trans
      (kept_by_dropStream (f := State.jobs) (fun _ => rfl) (fun _ => rfl) (fun _ _ => rfl) (fun _ _ => rfl) (fun _ _ _ => rfl) i)
  · exact (eq_of_calm (f := State.grants) (fun _ => rfl) hcalm) ▸ grants_dropStream s i
  · exact (eq_of_calm (f := State.tensors) (fun _ => rfl) hcalm) ▸ tensors_dropStream s i
  · exact (eq_of_calm (f := fun s => s.cp.timers) (fun _ => rfl) hcalm) ▸ timers_dropStream s i
  · cases Option.some.inj (hx.symm.trans hy)
    exact (done_completeAll hr (hn.later (hd.laterBox hb)) Code.ok []).later (hafter.laterBox hb)

/-! ## A job ends -/

/-- A job goes, its work with it (R71). -/
def State.dropJob (s : State) (st : Fin 4096) (q : BitVec 32) : State :=
  { s with jobs := s.jobs.filter fun x => !(x.stream == st && x.seq == q),
           flights := s.flights.filter fun f => !(f.stream == st && f.issue.jobSeq == q),
           vengines := s.vengines.map (VEngine.drop st q),
           dies := s.dies.map fun d => { d with queue := d.queue.filter fun x => !(x.1 == st && x.2.1 == q) } }

/-- A job has retired, its tensors, pins and grants gone; its stream is not looked at yet. -/
def State.retireJob (s : State) (j : Job) (st : Fin 4096) (q : BitVec 32) (code : Nat) : State :=
  let cab := ((s.stream? st.val).map Stream.cab).getD 0
  let s := (s.dropJob st q).finish j.reply q.toNat code (if code = Code.nanTrap then j.record else [])
  let s := s.freeTensors fun t => t.stream == st && j.bindings.any fun b => b.release && b.handle == t.handle
  let s := match j.slot with
    | some n => j.pins.foldl (fun (s : State) g => s.unpin cab n g) s
    | none => s
  s.settleGrants st

theorem endJob_eq {st : Fin 4096} {q : BitVec 32} {j : Job} (code : Nat) (hj : s.job? st q = some j) :
    s.endJob st q code = (s.retireJob j st q code).settleStream st := by
  simp only [State.endJob, hj]
  rfl

theorem endJob_absent {st : Fin 4096} {q : BitVec 32} (code : Nat) (hj : s.job? st q = none) : s.endJob st q code = s := by
  rw [State.endJob, hj]

/-- What the retirement of a job leaves. -/
structure State.JobGone (s t : State) (j : Job) (st : Fin 4096) (q : BitVec 32) (code : Nat) : Prop where
  after : s.After t
  streams : t.streams = s.streams
  jobs : t.jobs = s.jobs.filter fun x => !(x.stream == st && x.seq == q)
  answered : s.awaits j.reply = true → (∀ k, j.reply.src ≠ .session k) →
    t.answered j.reply q.toNat code (if code = Code.nanTrap then j.record else []) = true

/-- What follows the COMPLETION of a job that retires. -/
def State.afterJob (s : State) (j : Job) (cab : Cab) (st : Fin 4096) : State :=
  (match j.slot with
    | some n => j.pins.foldl (fun (s : State) g => s.unpin cab n g)
        (s.freeTensors fun t => t.stream == st && j.bindings.any fun b => b.release && b.handle == t.handle)
    | none => s.freeTensors fun t => t.stream == st && j.bindings.any fun b => b.release && b.handle == t.handle).settleGrants st

theorem after_afterJob (s : State) (j : Job) (cab : Cab) (st : Fin 4096) : s.After (s.afterJob j cab st) := by
  refine (after_of_untiled (untiled_settleGrants ..)).after ?_
  split
  · exact (State.After.foldl (fun _ _ => after_unpin ..) _ _).after (after_freeTensors ..)
  · exact after_freeTensors ..

theorem kept_by_afterJob {α : Type} {f : State → α} (ht : ∀ s : State, f s.untiled = f s) (hc : ∀ s : State, f s.calm = f s)
    (hv : ∀ (s : State) l, f { s with tensors := l } = f s) (j : Job) (cab : Cab) (st : Fin 4096) : f (s.afterJob j cab st) = f s := by
  have hfree : ∀ p, f (s.freeTensors p) = f s := fun p => by
    rw [← hv _ [], ← hv s [], ← hc, calm_freeTensors, hc]
  refine (eq_of_untiled ht (untiled_settleGrants ..)).trans ?_
  split
  · exact (eq_of_calm hc (calm_foldl (fun _ _ => calm_unpin ..) _ _)).trans (hfree _)
  · exact hfree _

theorem retireJob_eq (s : State) (j : Job) (st : Fin 4096) (q : BitVec 32) (code : Nat) : s.retireJob j st q code =
    ((s.dropJob st q).finish j.reply q.toNat code (if code = Code.nanTrap then j.record else [])).afterJob j
      (((s.stream? st.val).map Stream.cab).getD 0) st := by
  rfl

theorem jobGone_retireJob (s : State) (j : Job) (st : Fin 4096) (q : BitVec 32) (code : Nat) :
    s.JobGone (s.retireJob j st q code) j st q code := by
  rw [retireJob_eq]
  generalize hp : (if code = Code.nanTrap then j.record else []) = p
  have hq := quiet_finish (s.dropJob st q) j.reply q.toNat code p
  have ha := after_afterJob ((s.dropJob st q).finish j.reply q.toNat code p) j (((s.stream? st.val).map Stream.cab).getD 0) st
  refine ⟨ha.after ((after_finish ..).after (.same rfl rfl rfl)), ?_, ?_, fun haw hb => ?_⟩
  · exact (kept_by_afterJob (f := State.streams) (fun _ => rfl) (fun _ => rfl) (fun _ _ => rfl) ..).trans (show _ = (s.dropJob st q).streams from quiet_streams hq)
  · exact (kept_by_afterJob (f := State.jobs) (fun _ => rfl) (fun _ => rfl) (fun _ _ => rfl) ..).trans (quiet_jobs hq)
  · have haw' : (s.dropJob st q).awaits j.reply = true := haw
    have hlen : ((s.dropJob st q).chan (chanKey j.reply.src)).length ≤ 1024 := by
      rw [State.awaits, Bool.and_eq_true, decide_eq_true_eq] at haw'
      exact haw'.2
    have hsame := ((later_finish (s.dropJob st q) j.reply q.toNat code p (chanKey j.reply.src)).short hlen).length_eq
    rw [hp]
    exact (ha.laterBox hb).answered (hsame ▸ hlen) (answered_of_awaits haw' q.toNat code p)

/-- A stream that closes and has no job left goes; another stays as it is. -/
theorem settleStream_goes {i : Fin 4096} {x : Stream} (hx : s.stream? i.val = some x) (hc : x.isClosing = true)
    (hj : ∀ j ∈ s.jobs, j.stream ≠ i) : s.settleStream i = s.releaseStream i := by
  have hany : s.jobs.any (fun j => j.stream == i) = false := List.any_eq_false.2 fun j h => by simpa using hj j h
  rw [State.settleStream, hx]
  exact if_pos (by rw [hc, hany]; rfl)

theorem settleStream_stays {i : Fin 4096} (h : ∀ x, s.stream? i.val = some x → x.isClosing = true → ∃ j ∈ s.jobs, j.stream = i) :
    s.settleStream i = s := by
  unfold State.settleStream
  split
  next x hx =>
    refine if_neg fun hn => ?_
    simp only [Bool.and_eq_true, Bool.not_eq_true', List.any_eq_false, beq_iff_eq] at hn
    obtain ⟨j, hj, e⟩ := h x hx hn.1
    exact hn.2 j hj e
  · rfl

end Sys2Proof.Machine
end
section
/-!
PROOF. Programs are loaded (R67, R70).
-/

namespace Sys2Proof.Machine

variable {s t u : State} {r : Reply} {src : Src} {req : Req}

namespace State.Took

theorem ctMem (h : s.Took r t) : (t.ct t.cp.active).mem = (s.ct s.cp.active).mem := by
  rw [h.active]
  exact h.ctField (f := CtDie.mem) (fun _ => rfl) _

theorem freeStream (h : s.Took r t) : t.freeStream = s.freeStream := h.reads (f := State.freeStream) fun _ => rfl

end State.Took

theorem fillPages_quiet (ps : List Page) (bs : List Byte) : ∀ s : State, s.quiet.fillPages ps bs = (s.fillPages ps bs).quiet := by
  induction ps generalizing bs with
  | nil => exact fun _ => rfl
  | cons p ps ih =>
    exact fun s => ih (bs.drop 0x200000)
      (({ s with mem := (s.mem.zero p.base 0x200000).write p.base (bs.take 0x200000) } : State).setPage { p with zeroing := false })

theorem chans_fillPages (ps : List Page) (bs : List Byte) : ∀ s : State, (s.fillPages ps bs).cp.chans = s.cp.chans := by
  induction ps generalizing bs with
  | nil => exact fun _ => rfl
  | cons p ps ih => exact fun s => (ih _ _).trans rfl

/-- A program's bytes in the pages that it has on the dies of a cabinet. -/
def State.writeProgram (s : State) (c : Cab) (ds : List Die) (id : BitVec 32) (bytes : List Byte) : State :=
  ds.foldl (fun (v : State) d =>
    v.fillPages (v.turnPages d fun p => p.kind == PKind.program && p.cab == c && p.ownerRef == id) bytes) s

theorem State.Took.writeProgram (h : s.Took r t) {c : Cab} {ds : List Die} {id : BitVec 32} {bytes : List Byte} :
    (s.writeProgram c ds id bytes).Took r (t.writeProgram c ds id bytes) :=
  h.congr (F := fun s => s.writeProgram c ds id bytes)
    (fun _ => List.foldl_hom State.quiet fun _ _ => fillPages_quiet ..)
    (foldl_keeps (g := fun s : State => s.cp.chans) (fun _ _ => chans_fillPages ..) _ _)

/-! ## LOAD_PROGRAM -/

section Load

variable {img : Option ProgramImage} (h : s.admits infoLoadProgram src req = true)

include h

theorem loadProgram_unmounted (hm : ¬((s.cab (cabOf (wordAt req.payload 0))).state = 3 ∨ (s.cab (cabOf (wordAt req.payload 0))).state = 4)) :
    Completes (.loadProgram src req img) s infoLoadProgram src req Code.noShelf [] s :=
  completes_of_admits h rfl fun t ht => ⟨t, ht, if_pos (by rw [ht.cab]; simpa using hm)⟩

variable (hm : (s.cab (cabOf (wordAt req.payload 0))).state = 3 ∨ (s.cab (cabOf (wordAt req.payload 0))).state = 4)

include hm

theorem loadProgram_noBuffer (hb : s.buffer? src (wordAt req.payload 1).toNat (wordAt req.payload 2).toNat = none) :
    Completes (.loadProgram src req img) s infoLoadProgram src req Code.bufferInvalid [] s :=
  completes_of_admits h rfl fun t ht => by
    have hb' : t.buffer? src (wordAt req.payload 1).toNat (wordAt req.payload 2).toNat = none := ht.buffer.trans hb
    refine ⟨t, ht, (if_neg ?_).trans ?_⟩
    · rw [ht.cab]
      rcases hm with hm | hm <;> simp [hm]
    · simp only [reply_src, hb']

variable {off : Nat} (hb : s.buffer? src (wordAt req.payload 1).toNat (wordAt req.payload 2).toNat = some off)

include hb

theorem loadProgram_taken (ht : (s.programs.any fun p => p.cab == cabOf (wordAt req.payload 0) &&
    p.image.programId == BitVec.ofNat 32 (bits (wordAt req.payload 0) 31 0)) = true) :
    Completes (.loadProgram src req img) s infoLoadProgram src req Code.valueOutOfRange [] s :=
  completes_of_admits h rfl fun t hk => by
    have hb' : t.buffer? src (wordAt req.payload 1).toNat (wordAt req.payload 2).toNat = some off := hk.buffer.trans hb
    refine ⟨t, hk, (if_neg ?_).trans ?_⟩
    · rw [hk.cab]
      rcases hm with hm | hm <;> simp [hm]
    · simp only [reply_src, hb']
      exact if_pos (quiet_programs hk.quiet ▸ ht)

/-- A program that is not loaded is placed. -/
theorem loadProgram_places {code : Nat} (ht : (s.programs.any fun p => p.cab == cabOf (wordAt req.payload 0) &&
      p.image.programId == BitVec.ofNat 32 (bits (wordAt req.payload 0) 31 0)) = false)
    (hp : ∀ t, s.Took (replyOf infoLoadProgram src req) t → ∃ v : State, u.Took (replyOf infoLoadProgram src req) v ∧
      t.placeProgram (replyOf infoLoadProgram src req) (cabOf (wordAt req.payload 0)) (BitVec.ofNat 32 (bits (wordAt req.payload 0) 31 0)) off
        (wordAt req.payload 2).toNat img = v.complete (replyOf infoLoadProgram src req) code []) :
    Completes (.loadProgram src req img) s infoLoadProgram src req code [] u :=
  completes_of_admits h rfl fun t hk => by
    have hb' : t.buffer? src (wordAt req.payload 1).toNat (wordAt req.payload 2).toNat = some off := hk.buffer.trans hb
    obtain ⟨v, hv, e⟩ := hp t hk
    refine ⟨v, hv, (if_neg ?_).trans ?_⟩
    · rw [hk.cab]
      rcases hm with hm | hm <;> simp [hm]
    · simp only [reply_src, hb']
      exact (if_neg (by rw [quiet_programs hk.quiet, ht]; decide)).trans e

end Load

section Place

variable (h : s.Took r t) {c : Cab} {id : BitVec 32} {off len : Nat} {img : ProgramImage}

include h

theorem placeProgram_none : ∃ v : State, s.Took r v ∧ t.placeProgram r c id off len none = v.complete r Code.programInvalid [] :=
  ⟨_, h.accept, rfl⟩

theorem placeProgram_invalid (hi : img.programId ≠ id ∨ img.sigOk = false) :
    ∃ v : State, s.Took r v ∧ t.placeProgram r c id off len (some img) = v.complete r Code.programInvalid [] :=
  ⟨_, h.accept, if_pos (by rcases hi with hi | hi <;> simp [hi])⟩

variable (hid : img.programId = id) (hsig : img.sigOk = true)

include hid hsig

theorem placeProgram_mismatch (hs : some img.shelfMeas ≠ (s.cab c).shelf.map ShelfImage.meas) :
    ∃ v : State, s.Took r v ∧ t.placeProgram r c id off len (some img) = v.complete r Code.shelfMismatch [] :=
  ⟨_, h.accept, (if_neg (by simp [hid, hsig])).trans (if_pos (by rw [(h.accept (q := 0)).cab]; simpa using hs))⟩

variable (hs : some img.shelfMeas = (s.cab c).shelf.map ShelfImage.meas)

include hs

theorem placeProgram_noSpace
    (hn : s.allocAll? ((diesOf (s.cab c).dies).map fun d => (d, pagesFor len)) PKind.program (shelfGlove c) c id = none) :
    ∃ v : State, s.Took r v ∧ t.placeProgram r c id off len (some img) = v.complete r Code.jobNoSpace [] := by
  refine ⟨_, h.accept (q := 0), (if_neg (by simp [hid, hsig])).trans ((if_neg ?_).trans ?_)⟩
  · rw [(h.accept (q := 0)).cab]; simpa using hs
  · obtain ⟨-, hn'⟩ | ⟨a, b, ha, -⟩ := rel_iff.1 ((h.accept (q := 0)).allocAll?
      (l := (diesOf (s.cab c).dies).map fun d => (d, pagesFor len)) (kind := PKind.program) (g := shelfGlove c) (c := c) (o := id))
    · simp only [(h.accept (q := 0)).cab, hn']
    · exact absurd (hn.symm.trans ha) nofun

theorem placeProgram_loads (hu : s.allocAll? ((diesOf (s.cab c).dies).map fun d => (d, pagesFor len)) PKind.program (shelfGlove c) c id = some u) :
    ∃ v : State,
      ({ u.writeProgram c (diesOf (s.cab c).dies) id ((s.ct s.cp.active).mem.read off len) with
          programs := (u.writeProgram c (diesOf (s.cab c).dies) id ((s.ct s.cp.active).mem.read off len)).programs ++
            [{ cab := c, image := img }] } : State).Took r v ∧
      t.placeProgram r c id off len (some img) = v.complete r Code.ok [] := by
  obtain ⟨hn, -⟩ | ⟨a, b, ha, hb, hab⟩ := rel_iff.1 ((h.accept (q := 0)).allocAll?
    (l := (diesOf (s.cab c).dies).map fun d => (d, pagesFor len)) (kind := PKind.program) (g := shelfGlove c) (c := c) (o := id))
  · exact absurd (hn.symm.trans hu) nofun
  · cases Option.some.inj (ha.symm.trans hu)
    have hw := hab.writeProgram (c := c) (ds := diesOf (s.cab c).dies) (id := id) (bytes := (s.ct s.cp.active).mem.read off len)
    refine ⟨_, hw.congr (F := fun v => { v with programs := v.programs ++ [{ cab := c, image := img }] }) (fun _ => rfl) rfl,
      (if_neg (by simp [hid, hsig])).trans ((if_neg ?_).trans ?_)⟩
    · rw [(h.accept (q := 0)).cab]; simpa using hs
    · have hdies : (diesOf (b.cab c).dies) = diesOf (s.cab c).dies := by
        rw [hab.cab, allocAll?_pages ha]
        rfl
      simp only [(h.accept (q := 0)).cab, hb, hdies, h.ctMem]
      rfl

end Place

theorem programIsLoaded : ProgramIsLoaded := by
  intro s src req img h
  refine ⟨fun hm => loadProgram_unmounted h hm, fun hm hb ht => ?_, fun hm => ⟨fun hb => loadProgram_noBuffer h hm hb, fun off hb =>
    ⟨fun ht => loadProgram_taken h hm hb ht, fun ht => ⟨fun hi => ?_, fun hid hsig => ⟨fun hs => ?_, fun hs => ⟨fun hn => ?_, fun u hu => ?_⟩⟩⟩⟩⟩⟩
  · obtain ⟨off, hb⟩ := Option.isSome_iff_exists.1 hb
    exact loadProgram_places h hm hb ht fun t hk => placeProgram_none hk
  · exact loadProgram_places h hm hb ht fun t hk => placeProgram_invalid hk hi
  · exact loadProgram_places h hm hb ht fun t hk => placeProgram_mismatch hk hid hsig hs
  · exact loadProgram_places h hm hb ht fun t hk => placeProgram_noSpace hk hid hsig hs hn
  · exact loadProgram_places h hm hb ht fun t hk => placeProgram_loads hk hid hsig hs hu

end Sys2Proof.Machine
end
section
/-!
PROOF. Streams are created and destroyed (R60, R61, R65, R73, R179).
-/

namespace Sys2Proof.Machine

variable {s t u : State} {r : Reply} {src : Src} {req : Req}

/-! ## CREATE_STREAM -/

theorem State.Took.createCode (h : s.Took r t) {w : Word} : t.createCode w = s.createCode w := h.reads (f := fun s => s.createCode w) fun _ => rfl

section CreateCode

variable {w : Word}

theorem createCode_version (h : bits w 57 50 ≠ 1 ∨ bits w 49 42 ≠ 0) : s.createCode w = some Code.versionUnsupported :=
  if_pos (by rcases h with h | h <;> simp [h])

variable (h1 : bits w 57 50 = 1) (h0 : bits w 49 42 = 0)

include h1 h0

theorem createCode_range (h : 2 ≤ bits w 59 58 ∨ (bits w 59 58 = 0 ∧ BitVec.ofNat 32 (bits w 31 0) ≠ 0)) :
    s.createCode w = some Code.valueOutOfRange := by
  refine (if_neg (by simp [h1, h0])).trans ?_
  rcases h with h | ⟨h, ht⟩
  · exact if_pos h
  · exact (if_neg (by omega)).trans ((if_pos h).trans (if_neg ht))

theorem createCode_unknown (h : bits w 59 58 = 1) (ht : ∀ p ∈ s.rot.tenants, p.1 ≠ BitVec.ofNat 32 (bits w 31 0)) :
    s.createCode w = some Code.tenantUnknown :=
  (if_neg (by simp [h1, h0])).trans ((if_neg (by omega)).trans ((if_neg (by omega)).trans (if_neg (by
    rw [Bool.not_eq_true, List.any_eq_false]
    exact fun p hp => by simpa using ht p hp))))

theorem createCode_none (h : (bits w 59 58 = 0 ∧ BitVec.ofNat 32 (bits w 31 0) = 0) ∨
    (bits w 59 58 = 1 ∧ ∃ p ∈ s.rot.tenants, p.1 = BitVec.ofNat 32 (bits w 31 0))) : s.createCode w = none := by
  refine (if_neg (by simp [h1, h0])).trans ?_
  rcases h with ⟨h, ht⟩ | ⟨h, p, hp, ht⟩
  · exact (if_neg (by omega)).trans ((if_pos h).trans (if_pos ht))
  · exact (if_neg (by omega)).trans ((if_neg (by omega)).trans (if_pos (List.any_eq_true.2 ⟨p, hp, by simpa using ht⟩)))

end CreateCode

section Create

variable (h : s.admits infoCreateStream src req = true)

include h

theorem createStream_refuses {k : Nat} (hk : s.createCode (wordAt req.payload 0) = some k) :
    Completes (.createStream src req) s infoCreateStream src req k [] s :=
  completes_of_admits h rfl fun t ht => ⟨t, ht, by simp only [ht.createCode, hk]⟩

variable (hk : s.createCode (wordAt req.payload 0) = none)

include hk

theorem createStream_limit (hn : s.freeStream = none) :
    Completes (.createStream src req) s infoCreateStream src req Code.streamLimit [] s :=
  completes_of_admits h rfl fun t ht => ⟨t, ht, by simp only [ht.createCode, hk, ht.freeStream, hn]⟩

theorem createStream_creates {n : Nat} (hn : s.freeStream = some n) (h0 : bits (wordAt req.payload 0) 49 42 = 0) :
    Completes (.createStream src req) s infoCreateStream src req Code.ok [word (n <<< 52)]
      { s with streams := s.streams ++ [{ id := Fin.ofNat 4096 n, cab := cabOf (wordAt req.payload 0),
                                          owner := Fin.ofNat 3 (bits (wordAt req.payload 0) 59 58),
                                          tenant := BitVec.ofNat 32 (bits (wordAt req.payload 0) 31 0), minor := 0, nextSeq := 0,
                                          halted := false, isClosing := false, closing := [] }] } :=
  completes_of_admits h rfl fun t ht => by
    refine ⟨_, ht.congr (F := fun v => { v with streams := v.streams ++ [_] }) (fun _ => rfl) rfl, ?_⟩
    simp only [ht.createCode, hk, ht.freeStream, hn, h0]
    rfl

end Create

theorem freeStream_some {n : Nat} (h : s.freeStream = some n) : 1 ≤ n ∧ n ≤ 4095 ∧ s.stream? n = none := by
  obtain ⟨hu, hlo, hhi⟩ := firstFree_some h
  exact ⟨hlo, by omega, by simpa using hu⟩

/-! ## DESTROY_STREAM -/

theorem stream?_id {n : Nat} {x : Stream} (h : s.stream? n = some x) : x.id.val = n := by simpa using List.find?_some h

/-- The stream takes no job any more, and a request waits for its end. -/
def State.closeStream (s : State) (n : Nat) (r : Reply) : State := s.modStream n fun y => { y with isClosing := true, closing := y.closing ++ [r] }

theorem stream?_closeStream {n : Nat} {x : Stream} (h : s.stream? n = some x) :
    (s.closeStream n r).stream? n = some { x with isClosing := true, closing := x.closing ++ [r] } :=
  find?_updFirst h (by simpa using stream?_id h)

theorem stream?_closeStream_ne {n k : Nat} (hk : k ≠ n) : (s.closeStream n r).stream? k = s.stream? k :=
  find?_updFirst_ne (fun x hx => by
    simp only [beq_iff_eq] at hx
    simp [hx, hk.symm]) _

/-- A stream that closed while its jobs ended: gone once none is left. -/
def State.Closes (s t : State) (i : Fin 4096) (left : List Job) : Prop :=
  (s.After t ∧ t.streams = s.streams ∧ (∀ j ∈ t.jobs, j.stream = i → j ∈ left) ∧ ∃ j ∈ t.jobs, j.stream = i) ∨
    ((∀ j ∈ t.jobs, j.stream ≠ i) ∧ ∃ v, s.After v ∧ v.streams = s.streams ∧ v.StreamGone t i)

section Closes

variable {i : Fin 4096} {x : Stream} (hx : s.stream? i.val = some x) (hc : x.isClosing = true)

include hx hc

/-- One job of the stream ends. -/
theorem State.Closes.endJob {j : Job} {left : List Job} (code : Nat) (hj : j.stream = i) (h : s.Closes t i (j :: left)) :
    s.Closes (t.endJob j.stream j.seq code) i left := by
  rcases hjob : t.job? j.stream j.seq with - | y
  · rw [endJob_absent code hjob]
    have hno : ∀ k ∈ t.jobs, k ≠ j := fun k hk e => by
      have := List.find?_eq_none.1 hjob k hk
      simp [e] at this
    refine h.imp_left fun ⟨h1, h2, h3, h4⟩ => ⟨h1, h2, fun k hk hki => ?_, h4⟩
    exact (List.mem_cons.1 (h3 k hk hki)).resolve_left (hno k hk)
  · obtain ⟨h1, h2, h3, -⟩ := h.resolve_right fun ⟨hno, _⟩ =>
      hno y (List.mem_of_find?_eq_some hjob) (by have := List.find?_some hjob; simp at this; exact this.1.trans hj)
    obtain ⟨ha, hs, hjobs, -⟩ := jobGone_retireJob t y j.stream j.seq code
    rw [endJob_eq code hjob]
    have hstreams := hs.trans h2
    have hx' : (t.retireJob y j.stream j.seq code).stream? i.val = some x := by rw [State.stream?, hstreams]; exact hx
    have hmem : ∀ k ∈ (t.retireJob y j.stream j.seq code).jobs, k.stream = i → k ∈ left := fun k hk hki => by
      rw [hjobs, List.mem_filter] at hk
      refine (List.mem_cons.1 (h3 k hk.1 hki)).resolve_left fun e => ?_
      simp [e] at hk
    rw [hj] at *
    by_cases hany : ∃ k ∈ (t.retireJob y i j.seq code).jobs, k.stream = i
    · refine .inl ⟨?_, ?_, ?_, ?_⟩ <;> rw [settleStream_stays fun _ _ _ => hany]
      · exact ha.after h1
      · exact hstreams
      · exact hmem
      · exact hany
    · have hno : ∀ k ∈ (t.retireJob y i j.seq code).jobs, k.stream ≠ i := fun k hk e => hany ⟨k, hk, e⟩
      rw [settleStream_goes hx' hc hno]
      have hgone := streamGone_releaseStream i hx'
      exact .inr ⟨hgone.jobs ▸ hno, _, ha.after h1, hstreams, hgone⟩

theorem State.Closes.endJobs {left : List Job} (code : Nat) (hl : ∀ j ∈ left, j.stream = i) :
    ∀ t, s.Closes t i left → s.Closes (left.foldl (fun s j => s.endJob j.stream j.seq code) t) i [] := by
  induction left with
  | nil => exact fun t h => h
  | cons j left ih => exact fun t h => ih (fun k hk => hl k (by simp [hk])) _ (State.Closes.endJob hx hc code (hl j (by simp)) h)

omit hx hc in
/-- With its jobs gone the stream is. -/
theorem State.Closes.gone (h : s.Closes t i []) : (∀ j ∈ t.jobs, j.stream ≠ i) ∧ ∃ v, s.After v ∧ v.streams = s.streams ∧ v.StreamGone t i :=
  h.resolve_left fun ⟨_, _, h, j, hj, e⟩ => absurd (h j hj e) (by simp)

end Closes

theorem stream?_filter_same {i : Fin 4096} (ht : t.streams = s.streams.filter fun x => x.id != i) : t.stream? i.val = none := by
  rw [State.stream?, ht, List.find?_eq_none]
  intro x hx
  have := (List.mem_filter.1 hx).2
  simpa [Fin.val_inj] using this

theorem stream?_filter_ne {i : Fin 4096} (ht : t.streams = s.streams.filter fun x => x.id != i) {k : Nat} (hk : k ≠ i.val) :
    t.stream? k = s.stream? k := by
  rw [State.stream?, ht, List.find?_filter]
  refine congrArg (fun p => List.find? p s.streams) (funext fun x => ?_)
  by_cases hx : x.id.val = k
  · have : x.id ≠ i := fun e => hk (hx.symm.trans (congrArg _ e))
    simp [hx, this]
  · simp [hx]

/-- What the end of a stream leaves. -/
structure State.Destroyed (s t : State) (r : Reply) (i : Fin 4096) : Prop where
  ended : t.ended r = true
  stream : t.stream? i.val = none
  others : ∀ k, k ≠ i.val → t.stream? k = s.stream? k
  grants : ∀ g ∈ t.grants, g.stream.val ≠ i.val
  tensors : ∀ v ∈ t.tensors, v.stream.val ≠ i.val
  timers : ∀ v ∈ t.cp.timers, v.stream.val ≠ i.val
  jobs : ∀ j ∈ t.jobs, j.stream.val ≠ i.val
  mem : t.mem = s.mem

theorem State.StreamGone.destroyed {w v : State} {i : Fin 4096} {x : Stream} (hg : v.StreamGone t i) (hv : w.After v)
    (hs : v.streams = w.streams) (hx : w.stream? i.val = some x) (hr : r ∈ x.closing) (hn : w.Newest r) (hb : ∀ k, r.src ≠ .session k)
    (hj : ∀ j ∈ t.jobs, j.stream ≠ i) : w.Destroyed t r i := by
  obtain ⟨ha, hst, -, hgr, hte, hti, hcl⟩ := hg
  have hst' := hst.trans (congrArg (List.filter fun x : Stream => x.id != i) hs)
  refine ⟨(hcl x ?_ r hr (hn.later (hv.laterBox hb)) hb).ended, stream?_filter_same hst', fun k hk => stream?_filter_ne hst' hk,
    fun g h e => hgr g h (Fin.ext e), fun v h e => hte v h (Fin.ext e), fun v h e => hti v h (Fin.ext e), fun j h e => hj j h (Fin.ext e),
    ha.mem.trans hv.mem⟩
  rw [State.stream?, hs]
  exact hx

section Destroy

variable (h : s.admits infoDestroyStream src req = true)

include h

theorem destroyStream_unknown (hx : s.stream? (bits (wordAt req.payload 0) 63 52) = none) :
    Completes (.destroyStream src req) s infoDestroyStream src req Code.streamUnknown [] s :=
  completes_of_admits h rfl fun t ht => by
    have hx' : t.stream? (bits (wordAt req.payload 0) 63 52) = none := (ht.reads (f := fun s => s.stream? _) fun _ => rfl).trans hx
    exact ⟨t, ht, by simp only [hx']⟩

variable {x : Stream} (hx : s.stream? (bits (wordAt req.payload 0) 63 52) = some x)

include hx

theorem destroyStream_wrong (hn : bits (wordAt req.payload 0) 63 52 = 0 ∨ x.owner = 2) :
    Completes (.destroyStream src req) s infoDestroyStream src req Code.wrongStream [] s :=
  completes_of_admits h rfl fun t ht => by
    have hx' : t.stream? (bits (wordAt req.payload 0) 63 52) = some x := (ht.reads (f := fun s => s.stream? _) fun _ => rfl).trans hx
    refine ⟨t, ht, ?_⟩
    simp only [hx']
    exact if_pos (by simpa using hn)

/-- A stream that may be destroyed closes, and its jobs that have not started end where it is halted. -/
theorem destroyStream_closes {P : State → Prop} (hn : bits (wordAt req.payload 0) 63 52 ≠ 0) (ho : x.owner ≠ 2)
    (hP : ∀ v, s.Took (replyOf infoDestroyStream src req) v → v.acceptedReq (replyOf infoDestroyStream src req) 0 = true →
      P ((if x.halted then (v.closeStream (bits (wordAt req.payload 0) 63 52) (replyOf infoDestroyStream src req)).endJobs
            (fun j => j.stream == x.id && j.phase == 0) Code.cancelledAfterTrap
          else v.closeStream (bits (wordAt req.payload 0) 63 52) (replyOf infoDestroyStream src req)).settleStream x.id)) :
    Answers (.destroyStream src req) s P :=
  answers_of_admits h rfl fun t ht => by
    have hx' : t.stream? (bits (wordAt req.payload 0) 63 52) = some x := (ht.reads (f := fun s => s.stream? _) fun _ => rfl).trans hx
    simp only [hx', hn, ho, decide_false, Bool.or_self, Bool.false_eq_true, if_false]
    exact hP _ ht.accept (acceptedReq_accept 0 ht.holds)

end Destroy

/-- A stream whose jobs have not started, where it is halted, or that has none, goes at once. -/
theorem closeStream_goes {n : Nat} {x : Stream} (hx : s.stream? n = some x) (hn : s.Newest r) (hb : ∀ k, r.src ≠ .session k) (code : Nat)
    (hj : s.jobs.filter (fun j => j.stream.val == n) = [] ∨
      (x.halted = true ∧ ∀ j ∈ s.jobs.filter fun j => j.stream.val == n, j.phase = 0)) :
    (s.closeStream n r).Destroyed ((if x.halted then (s.closeStream n r).endJobs (fun j => j.stream == x.id && j.phase == 0) code
      else s.closeStream n r).settleStream x.id) r x.id := by
  obtain rfl : x.id.val = n := stream?_id hx
  have hx' := stream?_closeStream (r := r) hx
  have hr : r ∈ x.closing ++ [r] := by simp
  by_cases hnone : ∀ j ∈ s.jobs, j.stream ≠ x.id
  · have hend : (s.closeStream x.id.val r).endJobs (fun j => j.stream == x.id && j.phase == 0) code = s.closeStream x.id.val r := by
      have hf : (s.closeStream x.id.val r).jobs.filter (fun j => j.stream == x.id && j.phase == 0) = [] :=
        List.filter_eq_nil_iff.2 fun j hm => by simp [hnone j hm]
      rw [State.endJobs, hf]
      rfl
    rw [hend, ite_self, settleStream_goes hx' rfl hnone]
    have hg := streamGone_releaseStream x.id hx'
    exact hg.destroyed (.refl _) rfl hx' hr hn hb (hg.jobs ▸ hnone)
  · have hex : ∃ j ∈ s.jobs, j.stream = x.id := by
      by_contra hno
      exact hnone fun j hm e => hno ⟨j, hm, e⟩
    obtain ⟨j₀, hj₀, e₀⟩ := hex
    obtain ⟨hh, hp⟩ := hj.resolve_left fun hf => by
      have := List.filter_eq_nil_iff.1 hf j₀ hj₀
      simp [e₀] at this
    have hstart : (s.closeStream x.id.val r).Closes (s.closeStream x.id.val r) x.id
        ((s.closeStream x.id.val r).jobs.filter fun j => j.stream == x.id && j.phase == 0) :=
      .inl ⟨.refl _, rfl, fun j hm e => List.mem_filter.2 ⟨hm, by
        simp [e, hp j (List.mem_filter.2 ⟨hm, by simp [e]⟩)]⟩, j₀, hj₀, e₀⟩
    have hend : (s.closeStream x.id.val r).Closes ((s.closeStream x.id.val r).endJobs (fun j => j.stream == x.id && j.phase == 0) code) x.id [] :=
      State.Closes.endJobs hx' rfl code (fun j hm => by have := (List.mem_filter.1 hm).2; simp at this; exact this.1) _ hstart
    obtain ⟨hno, v, hv, hs, hg⟩ := hend.gone
    have hgone := stream?_filter_same (hg.streams.trans (congrArg _ hs))
    rw [if_pos hh, settleStream_stays fun y hy => absurd (hgone.symm.trans hy) nofun]
    exact hg.destroyed hv hs hx' hr hn hb hno

theorem streamsAreCreatedAndDestroyed : StreamsAreCreatedAndDestroyed := by
  refine ⟨fun s src req h => ⟨fun hv => createStream_refuses h (createCode_version hv), fun h1 h0 => ⟨fun hr => ?_, fun ho ht => ?_, fun hok => ?_⟩⟩,
    fun s src req h hb => ⟨fun hx => destroyStream_unknown h hx, fun x hx => ⟨fun hn => destroyStream_wrong h hx hn, fun hn ho =>
      ⟨fun hj hh => ?_, fun hj => ?_⟩⟩⟩⟩
  · exact createStream_refuses h (createCode_range h1 h0 hr)
  · exact createStream_refuses h (createCode_unknown h1 h0 ho ht)
  · have hk := createCode_none (s := s) h1 h0 hok
    refine ⟨fun hn => createStream_limit h hk hn, fun n hn => ?_⟩
    obtain ⟨hlo, hhi, hfree⟩ := freeStream_some hn
    exact ⟨hlo, hhi, hfree, createStream_creates h hk hn h0⟩
  · refine destroyStream_closes h hx hn ho fun v hv hacc => ?_
    rw [hh]
    simp only [Bool.false_eq_true, if_false]
    have hid := stream?_id hx
    obtain ⟨j, hjm⟩ := List.exists_mem_of_ne_nil _ hj
    obtain ⟨hm, he⟩ := List.mem_filter.1 hjm
    rw [settleStream_stays fun _ _ _ => ⟨j, (quiet_jobs hv.quiet).symm ▸ hm, Fin.ext (by simpa [hid] using he)⟩]
    exact ⟨hacc, hv.congr (F := fun s => s.closeStream _ _) (fun _ => rfl) rfl |>.quiet⟩
  · refine destroyStream_closes h hx hn ho fun v hv hacc => ?_
    have hx' : v.stream? (bits (wordAt req.payload 0) 63 52) = some x := (hv.reads (f := fun s => s.stream? _) fun _ => rfl).trans hx
    have hid := stream?_id hx
    obtain ⟨h1, h2, h3, h4, h5, h6, h7, h8⟩ := closeStream_goes hx' hv.holds.newest hb Code.cancelledAfterTrap
      ((quiet_jobs hv.quiet).symm ▸ hj)
    rw [hid] at h2 h3 h4 h5 h6 h7
    refine ⟨h1, h2, fun k hk => (h3 k hk).trans ((stream?_closeStream_ne hk).trans ?_), h4, h5, h6, h7, h8.trans ?_⟩
    · exact hv.reads (f := fun s => s.stream? k) fun _ => rfl
    · exact (quiet_mem hv.quiet : v.mem = s.mem)

/-- Settles O19: programs, then streams. -/
theorem programsAndStreams : Obligations.ProgramsAndStreams := ⟨programIsLoaded, streamsAreCreatedAndDestroyed⟩

end Sys2Proof.Machine
end
section
/-!
SUPPORT. Free pages are counted (R339): an allocation on a die takes no more than it asks for, and none from another die.
-/

namespace Sys2Proof.Machine

variable {s t u : State} {h h' : Stack} {d d' : Die} {n : Nat} {kind : Fin 16} {g : BitVec 16} {c : Cab} {o : BitVec 32}

theorem not_mem_of_mem_lowestFree {used : List Nat} {fuel lo x : Nat} (hx : x ∈ lowestFree used n fuel lo) : x ∉ used := by
  induction fuel generalizing n lo with
  | zero => cases n <;> simp [lowestFree] at hx
  | succ fuel ih =>
    cases n with
    | zero => simp [lowestFree] at hx
    | succ n =>
      rw [lowestFree] at hx
      split at hx
      · exact ih hx
      next hu =>
        rcases List.mem_cons.1 hx with rfl | hx
        · simpa using hu
        · exact ih hx

theorem length_lowestFree_le (used : List Nat) (n fuel lo : Nat) : (lowestFree used n fuel lo).length ≤ n := by
  induction fuel generalizing n lo with
  | zero => cases n <;> simp [lowestFree]
  | succ fuel ih =>
    cases n with
    | zero => simp [lowestFree]
    | succ n =>
      rw [lowestFree]
      split
      · exact ih _ _
      · exact Nat.succ_le_succ (ih _ _)

theorem lt_of_mem_lowestFree {used : List Nat} {fuel lo x : Nat} (hx : x ∈ lowestFree used n fuel lo) : x < lo + fuel := by
  induction fuel generalizing n lo with
  | zero => cases n <;> simp [lowestFree] at hx
  | succ fuel ih =>
    cases n with
    | zero => simp [lowestFree] at hx
    | succ n =>
      rw [lowestFree] at hx
      split at hx
      · have := ih hx; omega
      · rcases List.mem_cons.1 hx with rfl | hx
        · omega
        · have := ih hx; omega

/-- The numbers of the pages that an allocation takes on a stack. -/
def State.freshNums (s : State) (h : Stack) (n : Nat) : List Nat := lowestFree (s.takenPages h) n 32768 0

/-- The entry of a page as it is allocated. -/
def State.freshPage (s : State) (h : Stack) (kind : Fin 16) (g : BitVec 16) (c : Cab) (o : BitVec 32) (p : Nat) : Page :=
  { stack := h, page := Fin.ofNat 32768 p, keyGen := s.gloveGen g, glove := g, cab := c, kind := kind, sweep := false, zeroing := true,
    mark := 0, ownerRef := o }

theorem pages_allocOn (s : State) (h : Stack) (n : Nat) (kind : Fin 16) (g : BitVec 16) (c : Cab) (o : BitVec 32) :
    (s.allocOn h n kind g c o).1.pages = (s.pages.filter fun x => !(x.stack == h && (s.freshNums h n).contains x.page.val)) ++
      (s.freshNums h n).map (s.freshPage h kind g c o) := rfl

theorem val_ofNat_fresh {p : Nat} (hp : p ∈ s.freshNums h n) : (Fin.ofNat 32768 p).val = p :=
  Nat.mod_eq_of_lt (by have := lt_of_mem_lowestFree hp; omega)

theorem not_taken_of_fresh {p : Nat} (hp : p ∈ s.freshNums h n) : p ∉ s.takenPages h := not_mem_of_mem_lowestFree hp

/-- The pages in use that an allocation leaves on a stack. -/
theorem usedPages_allocOn : ((s.allocOn h n kind g c o).1.pages.filter fun x => x.stack == h' && x.kind != 0).length ≤
    (s.pages.filter fun x => x.stack == h' && x.kind != 0).length + if h' = h then n else 0 := by
  rw [pages_allocOn, List.filter_append, List.length_append]
  refine Nat.add_le_add ?_ ?_
  · rw [List.filter_filter]
    refine List.Sublist.length_le (List.monotone_filter_right _ fun x hx => ?_)
    exact (Bool.and_eq_true _ _ ▸ hx).1
  · by_cases he : h' = h
    · rw [if_pos he]
      refine (List.length_filter_le _ _).trans ?_
      rw [List.length_map]
      exact length_lowestFree_le ..
    · have hnil : ((s.freshNums h n).map (s.freshPage h kind g c o)).filter (fun x => x.stack == h' && x.kind != 0) = [] :=
        List.filter_eq_nil_iff.2 fun x hx => by
          obtain ⟨p, -, rfl⟩ := List.mem_map.1 hx
          simp [State.freshPage, Ne.symm he]
      simp [hnil]

/-- A page that is in use stays as it is. -/
theorem page_allocOn {p : Fin 32768} (hp : (s.page h' p).kind ≠ 0) : (s.allocOn h n kind g c o).1.page h' p = s.page h' p := by
  unfold State.page at hp ⊢
  cases hx : s.pages.find? fun x => x.stack == h' && x.page == p with
  | none => rw [hx] at hp; exact absurd rfl hp
  | some x =>
    rw [hx] at hp
    have hm := List.mem_of_find?_eq_some hx
    have hs := List.find?_some hx
    simp only [Bool.and_eq_true, beq_iff_eq] at hs
    have htaken : p.val ∈ s.takenPages h' := List.mem_append_left _
      (List.mem_map.2 ⟨x, List.mem_filter.2 ⟨hm, by simpa [hs.1] using hp⟩, by rw [hs.2]⟩)
    have hkeep : (s.pages.filter fun x => !(x.stack == h && (s.freshNums h n).contains x.page.val)).find?
        (fun x => x.stack == h' && x.page == p) = some x := by
      rw [List.find?_filter, ← hx]
      refine congrArg (fun q => List.find? q s.pages) (funext fun y => ?_)
      by_cases hy : (y.stack == h' && y.page == p) = true
      · simp only [Bool.and_eq_true, beq_iff_eq] at hy
        have hno : ¬(h' = h ∧ p.val ∈ s.freshNums h n) := fun ⟨e, hf⟩ => not_taken_of_fresh hf (e ▸ htaken)
        have hq : (!(h' == h && (s.freshNums h n).contains p.val)) = true := by
          simpa [imp_iff_not_or] using fun e hf => hno ⟨e, hf⟩
        rw [hy.1, hy.2, hq]
        simp
      · simp [Bool.eq_false_of_not_eq_true hy]
    rw [pages_allocOn, List.find?_append, hkeep]
    rfl

theorem length_takenPages_allocOn : ((s.allocOn h n kind g c o).1.takenPages h').length ≤
    (s.takenPages h').length + if h' = h then n else 0 := by
  have hused := usedPages_allocOn (s := s) (h := h) (h' := h') (n := n) (kind := kind) (g := g) (c := c) (o := o)
  have hkept : (((s.allocOn h n kind g c o).1.stk h').keptOut.filter fun p => ((s.allocOn h n kind g c o).1.page h' p).kind == 0).length ≤
      ((s.stk h').keptOut.filter fun p => (s.page h' p).kind == 0).length := by
    refine List.Sublist.length_le (List.monotone_filter_right _ fun p hp => ?_)
    by_contra hne
    rw [beq_iff_eq] at hne
    rw [page_allocOn hne, beq_iff_eq] at hp
    exact hne hp
  simp only [State.takenPages, List.length_append, List.length_map]
  omega

theorem freeOn_allocOn : s.freeOn h' ≤ (s.allocOn h n kind g c o).1.freeOn h' + if h' = h then n else 0 := by
  have hl := length_takenPages_allocOn (s := s) (h := h) (h' := h') (n := n) (kind := kind) (g := g) (c := c) (o := o)
  have hs : (s.allocOn h n kind g c o).1.stk h' = s.stk h' := rfl
  simp only [State.freeOn, hs]
  split <;> omega

theorem stack_eq_iff {i j : Nat} (hi : i < 2) (hj : j < 2) :
    (Fin.ofNat 32 (2 * d'.val + i) : Stack) = Fin.ofNat 32 (2 * d.val + j) ↔ d' = d ∧ i = j := by
  have hv : (Fin.ofNat 32 (2 * d'.val + i) : Stack) = Fin.ofNat 32 (2 * d.val + j) ↔ (2 * d'.val + i) % 32 = (2 * d.val + j) % 32 := by
    rw [Fin.ext_iff]
    rfl
  rw [hv, Fin.ext_iff]
  omega

theorem splitPages_le (n a b : Nat) : (splitPages n a b).1 ≤ n ∧ (splitPages n a b).2 = n - (splitPages n a b).1 := by
  refine ⟨?_, rfl⟩
  change min a (max (n - b) ((n + 1) / 2)) ≤ n
  omega

theorem alloc?_eq (s : State) (d : Die) (n : Nat) (kind : Fin 16) (g : BitVec 16) (c : Cab) (o : BitVec 32) (hn : n ≤ s.freeOnDie d) :
    ∃ a ps, a ≤ n ∧ s.alloc? d n kind g c o = some
      (((s.allocOn (Fin.ofNat 32 (2 * d.val)) a kind g c o).1.allocOn (Fin.ofNat 32 (2 * d.val + 1)) (n - a) kind g c o).1, ps) := by
  rcases hsp : splitPages n (s.freeOn (Fin.ofNat 32 (2 * d.val))) (s.freeOn (Fin.ofNat 32 (2 * d.val + 1))) with ⟨a, b⟩
  obtain ⟨h1, h2⟩ := hsp ▸ splitPages_le n (s.freeOn (Fin.ofNat 32 (2 * d.val))) (s.freeOn (Fin.ofNat 32 (2 * d.val + 1)))
  obtain rfl : b = n - a := h2
  refine ⟨a, (s.allocOn (Fin.ofNat 32 (2 * d.val)) a kind g c o).2 ++
    ((s.allocOn (Fin.ofNat 32 (2 * d.val)) a kind g c o).1.allocOn (Fin.ofNat 32 (2 * d.val + 1)) (n - a) kind g c o).2, h1, ?_⟩
  rw [State.alloc?, if_neg (Nat.not_lt.2 hn)]
  simp only [hsp]

/-- An allocation for which there is room goes through, and takes from its own die no more than it asks for, from another nothing. -/
theorem alloc?_of_free (s : State) (d : Die) (n : Nat) (kind : Fin 16) (g : BitVec 16) (c : Cab) (o : BitVec 32) (hn : n ≤ s.freeOnDie d) :
    ∃ p, s.alloc? d n kind g c o = some p ∧ ∀ d', s.freeOnDie d' ≤ p.1.freeOnDie d' + if d' = d then n else 0 := by
  obtain ⟨a, ps, ha, he⟩ := alloc?_eq s d n kind g c o hn
  refine ⟨_, he, fun d' => ?_⟩
  have hfirst := fun h' => freeOn_allocOn (s := s) (h := Fin.ofNat 32 (2 * d.val)) (h' := h') (n := a) (kind := kind) (g := g) (c := c) (o := o)
  have hsecond := fun h' => freeOn_allocOn (s := (s.allocOn (Fin.ofNat 32 (2 * d.val)) a kind g c o).1)
    (h := Fin.ofNat 32 (2 * d.val + 1)) (h' := h') (n := n - a) (kind := kind) (g := g) (c := c) (o := o)
  have h0 := hfirst (Fin.ofNat 32 (2 * d'.val))
  have h1 := hfirst (Fin.ofNat 32 (2 * d'.val + 1))
  have h0' := hsecond (Fin.ofNat 32 (2 * d'.val))
  have h1' := hsecond (Fin.ofNat 32 (2 * d'.val + 1))
  have e00 := stack_eq_iff (d := d) (d' := d') (i := 0) (j := 0) (by decide) (by decide)
  have e10 := stack_eq_iff (d := d) (d' := d') (i := 1) (j := 0) (by decide) (by decide)
  have e01 := stack_eq_iff (d := d) (d' := d') (i := 0) (j := 1) (by decide) (by decide)
  have e11 := stack_eq_iff (d := d) (d' := d') (i := 1) (j := 1) (by decide) (by decide)
  simp only [Nat.add_zero] at e00 e10 e01
  simp only [e00, e10, e01, e11, and_true, Nat.one_ne_zero, Nat.zero_ne_one, and_false, if_false, Nat.add_zero] at h0 h1 h0' h1'
  simp only [State.freeOnDie, stacksOf, List.map_cons, List.map_nil, List.sum_cons, List.sum_nil]
  by_cases hd : d' = d
  · rw [if_pos hd] at h0 h1' ⊢
    omega
  · rw [if_neg hd] at h0 h1' ⊢
    omega

end Sys2Proof.Machine
end
section
/-!
PROOF. Jobs are accepted (R61, R63 to R65, R71).
-/

namespace Sys2Proof.Machine

variable {s t u : State} {r : Reply} {src : Src} {req : Req} {x : Stream} {a : JobAsk}

/-! ## What a job's refusals read -/

theorem ownerOf_quiet (s : State) (w : Word) : s.quiet.ownerOf w = s.ownerOf w := by
  rw [State.ownerOf, State.ownerOf, catalog_quiet]
  rfl

theorem jobSlot_quiet (s : State) (x : Stream) (w : Word) : s.quiet.jobSlot x w = s.jobSlot x w := by
  rw [State.jobSlot, State.jobSlot, ownerOf_quiet]
  rfl

theorem mixedRows_quiet (s : State) (x : Stream) (text : List Word) (a : JobAsk) (ws : List (List Word)) :
    ∀ before, s.quiet.mixedRows x text a before ws = s.mixedRows x text a before ws := by
  induction ws with
  | nil => exact fun _ => rfl
  | cons w ws ih =>
    intro before
    rw [State.mixedRows, State.mixedRows, ih]
    rfl

theorem jobCode_quiet (s : State) (x : Stream) (a : JobAsk) : s.quiet.jobCode x a = s.jobCode x a := by
  simp only [State.jobCode, jobSlot_quiet, mixedRows_quiet]
  rfl

/-- No refusal: neither this one nor a later one. -/
theorem refusal_none {c : Prop} [Decidable c] {k : Nat} {o : Option Nat} : (if c then some k else o) = none ↔ ¬c ∧ o = none := by
  split <;> simp [*]

/-- What a job that is not refused finds: a shelf, and room for its tensors. -/
theorem jobCode_none (h : s.jobCode x a = none) :
    ((s.cab x.cab).state = 3 ∨ (s.cab x.cab).state = 4) ∧ ∀ d ∈ diesOf a.dies, newPages a ≤ s.freeOnDie d := by
  unfold State.jobCode at h
  obtain ⟨-, h⟩ := refusal_none.1 h
  obtain ⟨-, h⟩ := refusal_none.1 h
  obtain ⟨-, h⟩ := refusal_none.1 h
  obtain ⟨hst, h⟩ := refusal_none.1 h
  obtain ⟨-, h⟩ := refusal_none.1 h
  split at h; · cases h
  obtain ⟨-, h⟩ := refusal_none.1 h
  obtain ⟨-, h⟩ := refusal_none.1 h
  obtain ⟨-, h⟩ := refusal_none.1 h
  split at h; · cases h
  obtain ⟨-, h⟩ := refusal_none.1 h
  obtain ⟨hfree, -⟩ := refusal_none.1 h
  refine ⟨by simpa [or_iff_not_imp_left] using hst, fun d hd => ?_⟩
  rw [Bool.not_eq_true, List.any_eq_false] at hfree
  simpa using hfree d hd

/-- The drawer of a job that names one has a slot. -/
theorem slot?_of_jobSlot {w : Word} {n : Nat} (h : s.jobSlot x w = .inr (some n)) : (s.slot? x.cab n).isSome = true := by
  unfold State.jobSlot at h
  dsimp only at h
  split at h; · cases h
  split at h; · cases h
  split at h; · cases h
  split at h
  next y hy =>
    cases h
    have hm := (List.mem_filter.1 (List.mem_of_find?_eq_some hy))
    simp only [Bool.and_eq_true] at hm
    rw [State.slot?, List.find?_isSome]
    exact ⟨y, hm.1, by simpa using hm.2.1.1⟩
  · cases h

/-! ## New tensors -/

/-- A tensor as it is made. -/
def Tensor.IsNew (v : Tensor) (st : Fin 4096) (h : BitVec 32) (bytes : Nat) (d : Die) : Prop :=
  v.stream = st ∧ v.handle = h ∧ v.die = d ∧ v.bytes = bytes ∧ v.data = []

/-- The state without pages and tensors. -/
def State.untensored (s : State) : State := { s with pages := [], tensors := [] }

theorem eq_of_untensored {α : Type} {f : State → α} (hf : ∀ s : State, f s.untensored = f s) (h : t.untensored = s.untensored) :
    f t = f s := by
  rw [← hf t, ← hf s, h]

/-- A new tensor, where its pages can be had. -/
def State.withTensor (s : State) (x : Stream) (h : BitVec 32) (bytes : Nat) (d : Die) : Option (State × List (Stack × Fin 32768)) → State
  | none => s
  | some (v, ps) =>
    { v with tensors := v.tensors ++ [{ stream := x.id, handle := h, die := d, bytes := bytes, glove := v.streamGlove x,
                                        data := [], fmt := none, scaleWords := [], stats := [], marks := [], pages := ps }] }

/-- The kind of a stream's pages. -/
def Stream.pageKind (x : Stream) : Fin 16 := if x.owner = 1 then PKind.tensor else PKind.operator

/-- The pages of a stream's tensor. -/
def State.tensorPages (s : State) (x : Stream) (bytes : Nat) (d : Die) : Option (State × List (Stack × Fin 32768)) :=
  s.alloc? d (pagesFor bytes) x.pageKind (s.streamGlove x) x.cab (BitVec.ofNat 32 x.id.val)

/-- The definition is unfolded where it stands alone: at its arguments the kernel would compute the pages of `bytes`. -/
theorem newTensor_eq (s : State) (x : Stream) (h : BitVec 32) (bytes : Nat) (d : Die) :
    s.newTensor x h bytes d = s.withTensor x h bytes d (s.tensorPages x bytes d) := by
  suffices H : ∀ f, f = @State.newTensor → f s x h bytes d = s.withTensor x h bytes d (s.tensorPages x bytes d) from H _ rfl
  intro f hf
  delta State.newTensor at hf
  subst hf
  beta_reduce
  extract_lets kind
  split
  next e => rw [show s.tensorPages x bytes d = none from e]; rfl
  next v ps e => rw [show s.tensorPages x bytes d = some (v, ps) from e]; rfl

theorem untensored_newTensor (s : State) (x : Stream) (h : BitVec 32) (bytes : Nat) (d : Die) :
    (s.newTensor x h bytes d).untensored = s.untensored := by
  have hp : ∀ p, s.tensorPages x bytes d = some p → p.1.untensored = s.untensored := fun p hp => by
    have hu := congrArg State.untensored (alloc?_pages hp)
    exact hu
  rw [newTensor_eq]
  generalize s.tensorPages x bytes d = o at hp
  cases o with
  | none => rfl
  | some p => exact hp p rfl

theorem newTensor_makes {h : BitVec 32} {bytes : Nat} {d : Die} (hn : pagesFor bytes ≤ s.freeOnDie d) :
    (∃ v ∈ (s.newTensor x h bytes d).tensors, v.IsNew x.id h bytes d) ∧ (∀ v ∈ s.tensors, v ∈ (s.newTensor x h bytes d).tensors) ∧
      ∀ d', s.freeOnDie d' ≤ (s.newTensor x h bytes d).freeOnDie d' + if d' = d then pagesFor bytes else 0 := by
  obtain ⟨p, hv, hfree⟩ := alloc?_of_free s d (pagesFor bytes) x.pageKind (s.streamGlove x) x.cab (BitVec.ofNat 32 x.id.val) hn
  have ht := congrArg State.tensors (alloc?_pages hv)
  rw [newTensor_eq, show s.tensorPages x bytes d = some p from hv]
  refine ⟨⟨_, List.mem_append_right _ (List.mem_singleton_self _), rfl, rfl, rfl, rfl, rfl⟩, fun w hw => ?_, hfree⟩
  exact List.mem_append_left _ (ht ▸ hw)

/-- A step that makes a tensor on a die where `n` pages are free, and takes no more than these. -/
def MakesTensor (f : State → Die → State) (n : Nat) (P : Die → Tensor → Prop) : Prop :=
  ∀ s d, n ≤ s.freeOnDie d → (∃ v ∈ (f s d).tensors, P d v) ∧ (∀ v ∈ s.tensors, v ∈ (f s d).tensors) ∧
    ∀ d', s.freeOnDie d' ≤ (f s d).freeOnDie d' + if d' = d then n else 0

/-- One handle's tensors on several dies. -/
theorem MakesTensor.foldl {f : State → Die → State} {n : Nat} {P : Die → Tensor → Prop} (hf : MakesTensor f n P) {ds : List Die}
    (hnd : ds.Nodup) (hn : ∀ d ∈ ds, n ≤ s.freeOnDie d) :
    (∀ d ∈ ds, ∃ v ∈ (ds.foldl f s).tensors, P d v) ∧ (∀ v ∈ s.tensors, v ∈ (ds.foldl f s).tensors) ∧
      ∀ d', s.freeOnDie d' ≤ (ds.foldl f s).freeOnDie d' + if d' ∈ ds then n else 0 := by
  induction ds generalizing s with
  | nil => exact ⟨nofun, fun _ h => h, fun _ => Nat.le_add_right _ _⟩
  | cons d ds ih =>
    obtain ⟨⟨v, hv, hnew⟩, hold, hfree⟩ := hf s d (hn d (by simp))
    obtain ⟨hd, hnd⟩ := List.nodup_cons.1 hnd
    have hroom : ∀ d' ∈ ds, n ≤ (f s d).freeOnDie d' := fun d' hd' => by
      have hne : d' ≠ d := fun e => hd (e ▸ hd')
      have := hfree d'
      rw [if_neg hne] at this
      exact (hn d' (by simp [hd'])).trans this
    obtain ⟨hmade', hold', hfree'⟩ := ih hnd hroom
    refine ⟨fun d' hd' => ?_, fun v hv => hold' v (hold v hv), fun d' => ?_⟩
    · rcases List.mem_cons.1 hd' with rfl | hd'
      · exact ⟨v, hold' v hv, hnew⟩
      · exact hmade' d' hd'
    · have h1 := hfree d'
      have h2 := hfree' d'
      by_cases he : d' = d
      · subst he
        rw [if_pos rfl] at h1
        rw [if_neg hd] at h2
        rw [if_pos (by simp)]
        exact h1.trans (Nat.add_le_add_right h2 _)
      · rw [if_neg he] at h1
        simpa [he] using h1.trans h2

/-- The tensors of several handles on several dies. -/
theorem MakesTensor.foldl_foldl {β : Type} {f : β → State → Die → State} {n : β → Nat} {P : β → Die → Tensor → Prop}
    (hf : ∀ b, MakesTensor (f b) (n b) (P b)) {ds : List Die} (hnd : ds.Nodup) {bs : List β} (hn : ∀ d ∈ ds, (bs.map n).sum ≤ s.freeOnDie d) :
    ∀ b ∈ bs, ∀ d ∈ ds, ∃ v ∈ (bs.foldl (fun s b => ds.foldl (f b) s) s).tensors, P b d v := by
  have hkeep : ∀ (bs : List β) (s : State), (∀ d ∈ ds, (bs.map n).sum ≤ s.freeOnDie d) →
      (∀ v ∈ s.tensors, v ∈ (bs.foldl (fun s b => ds.foldl (f b) s) s).tensors) ∧
        ∀ b ∈ bs, ∀ d ∈ ds, ∃ v ∈ (bs.foldl (fun s b => ds.foldl (f b) s) s).tensors, P b d v := by
    intro bs
    induction bs with
    | nil => exact fun s _ => ⟨fun _ h => h, nofun⟩
    | cons b bs ih =>
      intro s hn
      simp only [List.map_cons, List.sum_cons] at hn
      obtain ⟨hmade, hold, hfree⟩ := (hf b).foldl hnd fun d hd => (Nat.le_add_right _ _).trans (hn d hd)
      obtain ⟨hold', hmade'⟩ := ih (ds.foldl (f b) s) fun d hd => by
        have h1 := hfree d
        have h2 := hn d hd
        rw [if_pos hd] at h1
        omega
      refine ⟨fun v hv => hold' v (hold v hv), fun b' hb' d hd => ?_⟩
      rcases List.mem_cons.1 hb' with rfl | hb'
      · obtain ⟨v, hv, hnew⟩ := hmade d hd
        exact ⟨v, hold' v hv, hnew⟩
      · exact hmade' b' hb' d hd
  exact (hkeep bs s hn).2

theorem makesTensor_of_newTensor {f : State → Die → State} {x : Stream} {h : BitVec 32} {bytes : Nat}
    (hf : ∀ s d, f s d = s.newTensor x h bytes d) : MakesTensor f (pagesFor bytes) fun d v => v.IsNew x.id h bytes d := by
  intro s d hn
  rw [hf]
  exact newTensor_makes hn

theorem makesTensor_newTensor (x : Stream) (h : BitVec 32) (bytes : Nat) :
    MakesTensor (fun s d => s.newTensor x h bytes d) (pagesFor bytes) fun d v => v.IsNew x.id h bytes d :=
  makesTensor_of_newTensor fun _ _ => rfl

theorem nodup_diesOf (m : BitVec 16) : (diesOf m).Nodup := (List.nodup_finRange 16).filter _

end Sys2Proof.Machine
end
section
/-!
PROOF. A job that is accepted (R61, R63, R71, R247).
-/

namespace Sys2Proof.Machine

variable {s t u : State} {r : Reply} {src : Src} {req : Req} {x : Stream} {a : JobAsk} {st : Fin 4096} {q : BitVec 32} {c : Cab} {n : Nat}

/-! ## A drawer is pinned for a job -/

theorem residency?_modResidency_same {g : Die} {y : Residency} {f : Residency → Residency} (hy : s.residency? c n g = some y)
    (hf : (f y).cab = y.cab ∧ (f y).slot = y.slot ∧ (f y).group = y.group) :
    (s.modResidency c n g f).residency? c n g = some (f y) := by
  have hp := List.find?_some hy
  exact find?_updFirst hy (by rw [hf.1, hf.2.1, hf.2.2]; exact hp)

theorem residency?_modResidency_ne {g g' : Die} {f : Residency → Residency} (hf : ∀ y, (f y).group = y.group) (hne : g' ≠ g) :
    (s.modResidency c n g f).residency? c n g' = s.residency? c n g' :=
  find?_updFirst_ne (fun y hy => by
    simp only [Bool.and_eq_true, beq_iff_eq] at hy
    simp [hf, hy.2, Ne.symm hne]) _

theorem job?_modJob {j : Job} {f : Job → Job} (hj : s.job? st q = some j) (hf : (f j).stream = j.stream ∧ (f j).seq = j.seq) :
    (s.modJob st q f).job? st q = some (f j) := by
  have hp := List.find?_some hj
  exact find?_updFirst hj (by rw [hf.1, hf.2]; exact hp)

/-- A residency that can take a pin takes it, and the job notes it. -/
theorem pinJob_eq {g : Die} {j : Job} {y : Residency} (hs : (s.slot? c n).isSome = true) (hj : s.job? st q = some j) (hg : g ∉ j.pins)
    (hy : s.residency? c n g = some y) (h1 : y.state = 1) (hf : y.full = false) :
    s.pinJob st q c n g = (s.pin c n g).modJob st q fun j => { j with pins := j.pins ++ [g] } := by
  obtain ⟨z, hz⟩ := Option.isSome_iff_exists.1 hs
  have hadd : s.addResidency c n g = s := by rw [State.addResidency, hy]
  have h0 : ¬(j.pins.contains g || (some y : Option Residency).any fun r => r.state == 2 || r.full) = true := by
    simp [hg, h1, hf]
  have hc : (some y : Option Residency).any Residency.complete = true := by simp [Residency.complete, h1]
  simp only [State.pinJob, hz, hj, hy, hadd]
  exact (if_neg h0).trans (if_pos hc)

theorem updFirst_comp {α : Type} {p : α → Bool} {f g : α → α} (hf : ∀ x, p (f x) = p x) (l : List α) :
    updFirst p g (updFirst p f l) = updFirst p (fun x => g (f x)) l := by
  induction l with
  | nil => rfl
  | cons a l ih => by_cases hp : p a = true <;> simp [updFirst, hp, hf, ih]

theorem updFirst_self {α : Type} {p : α → Bool} {f : α → α} (hf : ∀ x, f x = x) (l : List α) : updFirst p f l = l := by
  induction l with
  | nil => rfl
  | cons a l ih => by_cases hp : p a = true <;> simp [updFirst, hp, hf, ih]

/-- A job that notes pins on several groups. -/
def Job.pinned (gs : List Die) (j : Job) : Job := { j with pins := j.pins ++ gs }

/-- The pins of a job on several groups. -/
theorem foldl_pinJob {gs : List Die} : ∀ (s : State) (j : Job), gs.Nodup → (s.slot? c n).isSome = true → s.job? st q = some j →
    (∀ g ∈ gs, g ∉ j.pins) → (∀ g ∈ gs, ∃ y, s.residency? c n g = some y ∧ y.state = 1 ∧ y.full = false) →
    ∃ R : State, gs.foldl (fun (s : State) g => s.pinJob st q c n g) s =
        ({ s with residencies := R.residencies } : State).modJob st q (Job.pinned gs) ∧
      (∀ g ∈ gs, ∀ y, s.residency? c n g = some y → R.residency? c n g = some { y with pins := y.pins + 1 }) ∧
      ∀ g, g ∉ gs → R.residency? c n g = s.residency? c n g := by
  induction gs with
  | nil =>
    refine fun s j _ _ _ _ _ => ⟨s, ?_, nofun, fun _ _ => rfl⟩
    have h : (s.modJob st q (Job.pinned [])).jobs = s.jobs := updFirst_self (fun x => by simp [Job.pinned]) _
    exact (congrArg (fun l => ({ s with jobs := l } : State)) h).symm
  | cons g gs ih =>
    intro s j hnd hs hj hpins hres
    obtain ⟨hg, hnd⟩ := List.nodup_cons.1 hnd
    obtain ⟨y, hy, h1, hf⟩ := hres g (by simp)
    have he := pinJob_eq hs hj (hpins g (by simp)) hy h1 hf
    have hother : ∀ g', g' ≠ g → ((s.pin c n g).modJob st q (Job.pinned [g])).residency? c n g' = s.residency? c n g' :=
      fun g' hne => residency?_modResidency_ne (fun _ => rfl) hne
    have hne : ∀ g' ∈ gs, g' ≠ g := fun g' hg' e => hg (e ▸ hg')
    obtain ⟨R, hR, hin, hout⟩ := ih ((s.pin c n g).modJob st q (Job.pinned [g])) (j.pinned [g]) hnd hs
      (job?_modJob hj ⟨rfl, rfl⟩) (fun g' hg' => by simp [Job.pinned, hpins g' (by simp [hg']), hne g' hg'])
      (fun g' hg' => by rw [hother g' (hne g' hg')]; exact hres g' (by simp [hg']))
    refine ⟨R, ?_, fun g' hg' y' hy' => ?_, fun g' hg' => ?_⟩
    · rw [List.foldl_cons, he]
      refine hR.trans ?_
      have h : updFirst (fun j => j.stream == st && j.seq == q) (Job.pinned gs)
          (updFirst (fun j => j.stream == st && j.seq == q) (Job.pinned [g]) s.jobs) =
          updFirst (fun j => j.stream == st && j.seq == q) (Job.pinned (g :: gs)) s.jobs := by
        rw [updFirst_comp (f := Job.pinned [g]) fun _ => rfl]
        exact congrArg (fun f => updFirst _ f s.jobs) (funext fun x => by simp [Job.pinned])
      exact congrArg (fun l => ({ s with residencies := R.residencies, jobs := l } : State)) h
    · rcases List.mem_cons.1 hg' with rfl | hg'
      · rw [hout g' hg]
        exact residency?_modResidency_same hy' ⟨rfl, rfl, rfl⟩
      · exact hin g' hg' y' ((hother g' (hne g' hg')).trans hy')
    · have hne' : g' ≠ g := fun e => hg' (by simp [e])
      exact (hout g' fun h => hg' (by simp [h])).trans (hother g' hne')

/-! ## A job enters its stream -/

/-- The new tensors of a job, on each of its dies. -/
def State.withTensors (s : State) (x : Stream) (a : JobAsk) : State :=
  (a.bindings.filter fun b => b.2.1 == 1).foldl (fun s b => (diesOf a.dies).foldl (fun s d => s.newTensor x b.1 b.2.2.2 d) s) s

theorem foldl_foldl_keeps {β γ δ : Type} {g : State → δ} {f : β → State → γ → State} (hf : ∀ b s a, g (f b s a) = g s) (l : List γ)
    (bs : List β) (s : State) : g (bs.foldl (fun s b => l.foldl (f b) s) s) = g s :=
  foldl_keeps (g := g) (fun s b => foldl_keeps (g := g) (hf b) l s) bs s

theorem untensored_withTensors (s : State) (x : Stream) (a : JobAsk) : (s.withTensors x a).untensored = s.untensored := by
  have h : ∀ f : BitVec 32 × Nat × Bool × Nat → State → Die → State, (∀ b s d, f b s d = s.newTensor x b.1 b.2.2.2 d) →
      ((a.bindings.filter fun b => b.2.1 == 1).foldl (fun s b => (diesOf a.dies).foldl (f b) s) s).untensored = s.untensored :=
    fun f hf => foldl_foldl_keeps (g := State.untensored) (fun b s d => by rw [hf, untensored_newTensor]) _ _ s
  exact h (fun b s d => s.newTensor x b.1 b.2.2.2 d) fun _ _ _ => rfl

theorem withTensors_make (hn : ∀ d ∈ diesOf a.dies, newPages a ≤ s.freeOnDie d) {b : BitVec 32 × Nat × Bool × Nat} (hb : b ∈ a.bindings)
    (h1 : b.2.1 = 1) {d : Die} (hd : d ∈ diesOf a.dies) :
    ∃ v ∈ (s.withTensors x a).tensors, v.IsNew x.id b.1 b.2.2.2 d := by
  have h : ∀ f : BitVec 32 × Nat × Bool × Nat → State → Die → State, (∀ b s d, f b s d = s.newTensor x b.1 b.2.2.2 d) →
      ∃ v ∈ ((a.bindings.filter fun b => b.2.1 == 1).foldl (fun s b => (diesOf a.dies).foldl (f b) s) s).tensors,
        v.IsNew x.id b.1 b.2.2.2 d := fun f hf =>
    MakesTensor.foldl_foldl (n := fun b => pagesFor b.2.2.2) (P := fun b d v => v.IsNew x.id b.1 b.2.2.2 d)
      (fun b => makesTensor_of_newTensor (hf b)) (nodup_diesOf _) hn b (List.mem_filter.2 ⟨hb, by simpa using h1⟩) d hd
  exact h (fun b s d => s.newTensor x b.1 b.2.2.2 d) fun _ _ _ => rfl

/-- The slot of a job's drawer. -/
def State.drawerOf (s : State) (x : Stream) (a : JobAsk) : Option Nat := match s.jobSlot x a.handle with | .inr n => n | .inl _ => none

/-- A job as it is accepted. -/
def State.newJob (s : State) (r : Reply) (x : Stream) (a : JobAsk) (slot : Option Nat) : Job :=
  { stream := x.id, seq := x.nextSeq, program := a.program, entry := a.entry, tiles := a.tiles, count := a.count, dies := a.dies,
    slot := slot, slotGen := (slot.map (s.slotGen x.cab)).getD 0, pins := [], status := a.status,
    bindings := a.bindings.map fun b => { handle := b.1, fresh := b.2.1 == 1, release := b.2.2.1, bytes := b.2.2.2 },
    reply := r, phase := 0, retired := 0, endCode := 0, record := [] }

/-- A job stands last in the list, its stream's number one higher, ACCEPTED on its way. -/
def State.enterJob (s : State) (r : Reply) (x : Stream) (j : Job) : State :=
  (({ s with jobs := s.jobs ++ [j] } : State).modStream x.id.val fun y => { y with nextSeq := y.nextSeq + 1 }).accept r x.nextSeq.toNat

/-- The drawer of a job, where it has one, is used and pinned. -/
def State.pinDrawer (s : State) (x : Stream) (j : Job) : Option Nat → State
  | none => s
  | some n => (s.touchSlot x.cab n).pinAll x.cab j

theorem acceptJob_eq (s : State) (r : Reply) (x : Stream) (a : JobAsk) : s.acceptJob r x a =
    ((s.withTensors x a).enterJob r x ((s.withTensors x a).newJob r x a (s.drawerOf x a))).pinDrawer x
      ((s.withTensors x a).newJob r x a (s.drawerOf x a)) (s.drawerOf x a) := by
  unfold State.acceptJob
  extract_lets slot
  change _ = ((s.withTensors x a).enterJob r x ((s.withTensors x a).newJob r x a slot)).pinDrawer x
    ((s.withTensors x a).newJob r x a slot) slot
  clear_value slot
  cases slot <;> rfl

/-- What a job that is accepted leaves; `v` is the state with its tensors. -/
structure State.Accepted (s v t : State) (r : Reply) (x : Stream) (a : JobAsk) : Prop where
  accepted : t.acceptedReq r x.nextSeq.toNat = true
  stream : t.stream? x.id.val = some { x with nextSeq := x.nextSeq + 1 }
  job : ∃ gs, t.jobs = s.jobs ++ [(v.newJob r x a (s.drawerOf x a)).pinned gs]
  tensors : t.tensors = v.tensors
  pins : ∀ n, s.drawerOf x a = some n → ∀ g ∈ s.jobGroups x.cab a.dies, ∀ y, s.residency? x.cab n g = some y →
    t.residency? x.cab n g = some { y with pins := y.pins + 1 }
  mem : t.mem = s.mem
  cabs : t.cabs = s.cabs
  dies : t.dies = s.dies

/-- What a job's entry leaves, before its drawer is pinned. -/
theorem enterJob_leaves {j : Job} (hx : s.stream? x.id.val = some x) (hh : s.Holds r) :
    (s.enterJob r x j).acceptedReq r x.nextSeq.toNat = true ∧
      (s.enterJob r x j).stream? x.id.val = some { x with nextSeq := x.nextSeq + 1 } ∧
      (s.enterJob r x j).quiet = (({ s with jobs := s.jobs ++ [j] } : State).modStream x.id.val fun y =>
        { y with nextSeq := y.nextSeq + 1 }).quiet := by
  have hq := quiet_accept (({ s with jobs := s.jobs ++ [j] } : State).modStream x.id.val fun y => { y with nextSeq := y.nextSeq + 1 }) r
    x.nextSeq.toNat
  refine ⟨acceptedReq_accept _ (hh.of_chans rfl), ?_, hq⟩
  rw [State.stream?, State.enterJob, quiet_streams hq]
  exact find?_updFirst hx (by simp)

theorem isSome_slot?_touchSlot : ((s.touchSlot c n).slot? c n).isSome = (s.slot? c n).isSome := by
  have h := map_find?_updFirst (p := fun y : Slot => y.cab == c && y.slot == n) (r := fun y => y.cab == c && y.slot == n)
    (f := fun y => { y with lastUse := s.tick.1 }) (g := fun _ => ()) (fun _ => rfl) (fun _ => rfl) s.slots
  have h2 := congrArg Option.isSome h
  simp only [Option.isSome_map] at h2
  exact h2

/-- The pins of a job's drawer on every group of the job. -/
theorem pinDrawer_pins {j : Job} (hjs : j.slot = some n) (hjp : j.pins = []) (hs : (s.slot? x.cab n).isSome = true)
    (hj : s.job? j.stream j.seq = some j)
    (hres : ∀ g ∈ s.jobGroups x.cab j.dies, ∃ y, s.residency? x.cab n g = some y ∧ y.state = 1 ∧ y.full = false) :
    ∃ R : State, s.pinDrawer x j (some n) =
        ({ s.touchSlot x.cab n with residencies := R.residencies } : State).modJob j.stream j.seq (Job.pinned (s.jobGroups x.cab j.dies)) ∧
      ∀ g ∈ s.jobGroups x.cab j.dies, ∀ y, s.residency? x.cab n g = some y →
        R.residency? x.cab n g = some { y with pins := y.pins + 1 } := by
  obtain ⟨R, hR, hin, -⟩ := foldl_pinJob (st := j.stream) (q := j.seq) (c := x.cab) (n := n) (gs := s.jobGroups x.cab j.dies)
    (s.touchSlot x.cab n) j (List.nodup_dedup _) (isSome_slot?_touchSlot.trans hs) hj (fun g _ => by simp [hjp]) hres
  refine ⟨R, ?_, hin⟩
  rw [← hR, State.pinDrawer, State.pinAll, hjs]
  rfl

/-- A job that is accepted, where its drawer can take its pins. -/
theorem accepted_acceptJob (hx : s.stream? x.id.val = some x) (hh : s.Holds r)
    (hslot : ∀ n, s.drawerOf x a = some n → (s.slot? x.cab n).isSome = true)
    (hpin : ∀ n, s.drawerOf x a = some n → ∀ g ∈ s.jobGroups x.cab a.dies,
      ∃ y, s.residency? x.cab n g = some y ∧ y.state = 1 ∧ y.full = false)
    (huniq : ∀ y ∈ s.jobs, ¬(y.stream = x.id ∧ y.seq = x.nextSeq)) : 
    s.Accepted (s.withTensors x a) (s.acceptJob r x a) r x a := by
  have hv := untensored_withTensors s x a
  have hjobs : (s.withTensors x a).jobs = s.jobs := eq_of_untensored (f := State.jobs) (fun _ => rfl) hv
  have hvx : (s.withTensors x a).stream? x.id.val = some x :=
    (eq_of_untensored (f := fun s => s.stream? x.id.val) (fun _ => rfl) hv).trans hx
  have hvh : (s.withTensors x a).Holds r := hh.of_chans (eq_of_untensored (f := fun s => s.cp.chans) (fun _ => rfl) hv)
  rw [acceptJob_eq]
  generalize hj : (s.withTensors x a).newJob r x a (s.drawerOf x a) = j
  have hjst : j.stream = x.id := by rw [← hj]; rfl
  have hjsq : j.seq = x.nextSeq := by rw [← hj]; rfl
  have hjd : j.dies = a.dies := by rw [← hj]; rfl
  obtain ⟨hacc, hstr, hq⟩ := enterJob_leaves (j := j) hvx hvh
  have hwjobs : ((s.withTensors x a).enterJob r x j).jobs = s.jobs ++ [j] :=
    (quiet_jobs hq).trans (congrArg (fun l => l ++ [j]) hjobs)
  have hvm : (s.withTensors x a).mem = s.mem := eq_of_untensored (f := State.mem) (fun _ => rfl) hv
  have hvc : (s.withTensors x a).cabs = s.cabs := eq_of_untensored (f := State.cabs) (fun _ => rfl) hv
  have hvd : (s.withTensors x a).dies = s.dies := eq_of_untensored (f := State.dies) (fun _ => rfl) hv
  have hvr : (s.withTensors x a).residencies = s.residencies := eq_of_untensored (f := State.residencies) (fun _ => rfl) hv
  have hvs : (s.withTensors x a).slots = s.slots := eq_of_untensored (f := State.slots) (fun _ => rfl) hv
  generalize s.withTensors x a = v at *
  have hwt : (v.enterJob r x j).tensors = v.tensors := by have h := quiet_tensors hq; exact h
  have hwm : (v.enterJob r x j).mem = s.mem := (quiet_mem hq).trans hvm
  have hwc : (v.enterJob r x j).cabs = s.cabs := (quiet_cabs hq).trans hvc
  have hwd : (v.enterJob r x j).dies = s.dies := (quiet_dies hq).trans hvd
  have hwr : (v.enterJob r x j).residencies = s.residencies := (quiet_residencies hq).trans hvr
  have hws : (v.enterJob r x j).slots = s.slots := (quiet_slots hq).trans hvs
  generalize v.enterJob r x j = w at *
  cases hd : s.drawerOf x a with
  | none =>
    refine ⟨hacc, hstr, ⟨[], hwjobs.trans ?_⟩, hwt, fun n hn => absurd (hd.symm.trans hn) nofun, hwm, hwc, hwd⟩
    rw [hj]
    simp [Job.pinned]
  | some n =>
    have hnone : ∀ y ∈ s.jobs, (y.stream == j.stream && y.seq == j.seq) = false := fun y hy => by
      have := huniq y hy
      rw [hjst, hjsq]
      simpa [← Bool.not_eq_true] using this
    have hwj : w.job? j.stream j.seq = some j := by
      rw [State.job?, hwjobs, List.find?_append, List.find?_eq_none.2 fun y hy => Bool.not_eq_true _ ▸ hnone y hy]
      simp
    have hgroups : w.jobGroups x.cab j.dies = s.jobGroups x.cab a.dies := by
      rw [hjd, State.jobGroups, State.jobGroups, State.cab, hwc, State.cab]
    have hres : ∀ g, w.residency? x.cab n g = s.residency? x.cab n g := fun g => by rw [State.residency?, hwr, State.residency?]
    obtain ⟨R, hR, hin⟩ := pinDrawer_pins (s := w) (x := x) (j := j) (n := n) (by rw [← hj]; exact hd) (by rw [← hj]; rfl)
      (by rw [State.slot?, hws]; exact hslot n hd) hwj (fun g hg => by rw [hres]; exact hpin n hd g (hgroups ▸ hg))
    rw [hR]
    refine ⟨hacc, hstr, ⟨s.jobGroups x.cab a.dies, ?_⟩, hwt, fun n' hn' g hg y hy => ?_, hwm, hwc, hwd⟩
    · have h : updFirst (fun y => y.stream == j.stream && y.seq == j.seq) (Job.pinned (w.jobGroups x.cab j.dies)) w.jobs =
          s.jobs ++ [j.pinned (s.jobGroups x.cab a.dies)] := by
        rw [hwjobs, hgroups]
        exact updFirst_append _ _ _ _ hnone (by simp)
      rw [hj]
      exact h
    · cases Option.some.inj (hd.symm.trans hn')
      exact hin g (hgroups.symm ▸ hg) y ((hres g).trans hy)

/-! ## SUBMIT_JOB -/

section Submit

variable (h : s.admits infoSubmitJob src req = true) (hx : s.stream? req.stream.val = some x)

include h hx

theorem submitJob_badLength (hl : req.payload.length ≠ 4 + 2 * bits (wordAt req.payload 1) 27 22) :
    Completes (.submitJob src req) s infoSubmitJob src req Code.badLength [] s :=
  completes_of_admits h rfl fun t ht => by
    have hx' : t.stream? req.stream.val = some x := (ht.reads (f := fun s => s.stream? _) fun _ => rfl).trans hx
    refine ⟨t, ht, ?_⟩
    dsimp only [replyOf]
    rw [hx']
    exact if_pos (by simpa using hl)

variable (hl : req.payload.length = 4 + 2 * bits (wordAt req.payload 1) 27 22)

include hl

theorem submitJob_reserved (hr : jobRsvOk req.payload = false) :
    Completes (.submitJob src req) s infoSubmitJob src req Code.reservedNonzero [] s :=
  completes_of_admits h rfl fun t ht => by
    have hx' : t.stream? req.stream.val = some x := (ht.reads (f := fun s => s.stream? _) fun _ => rfl).trans hx
    refine ⟨t, ht, ?_⟩
    dsimp only [replyOf]
    rw [hx']
    exact (if_neg (by simp [hl])).trans (if_pos (by simp [hr]))

variable (hr : jobRsvOk req.payload = true)

include hr

theorem submitJob_refused {k : Nat} (hk : s.jobCode x (jobAsk req.payload) = some k) :
    Completes (.submitJob src req) s infoSubmitJob src req k [] s :=
  completes_of_admits h rfl fun t ht => by
    have hx' : t.stream? req.stream.val = some x := (ht.reads (f := fun s => s.stream? _) fun _ => rfl).trans hx
    have hk' := (ht.reads (f := fun s => s.jobCode x (jobAsk req.payload)) fun s => jobCode_quiet s _ _).trans hk
    refine ⟨t, ht, ?_⟩
    dsimp only [replyOf]
    rw [hx']
    refine (if_neg (by simp [hl])).trans ((if_neg (by simp [hr])).trans ?_)
    rw [hk']

theorem submitJob_accepts {P : State → Prop} (hk : s.jobCode x (jobAsk req.payload) = none)
    (hP : ∀ t, s.Took (replyOf infoSubmitJob src req) t → P (t.acceptJob (replyOf infoSubmitJob src req) x (jobAsk req.payload))) :
    Answers (.submitJob src req) s P :=
  answers_of_admits h rfl fun t ht => by
    have hx' : t.stream? (replyOf infoSubmitJob src req).stream.val = some x := (ht.reads (f := fun s => s.stream? _) fun _ => rfl).trans hx
    have hk' := (ht.reads (f := fun s => s.jobCode x (jobAsk req.payload)) fun s => jobCode_quiet s _ _).trans hk
    rw [hx']
    dsimp only
    rw [if_neg (by simp [hl]), if_neg (by simp [hr]), hk']
    exact hP t ht

end Submit

theorem drawerOf_quiet (s : State) (x : Stream) (a : JobAsk) : s.quiet.drawerOf x a = s.drawerOf x a := by
  rw [State.drawerOf, State.drawerOf, jobSlot_quiet]

theorem slot?_of_drawerOf (h : s.drawerOf x a = some n) : (s.slot? x.cab n).isSome = true := by
  unfold State.drawerOf at h
  split at h
  next hj => exact slot?_of_jobSlot (h ▸ hj)
  · cases h

theorem jobsAreAccepted : JobsAreAccepted := by
  intro s src req x h hx
  refine ⟨submitJob_badLength h hx, fun hl => ⟨submitJob_reserved h hx hl, fun hr => ⟨fun ho => ?_, fun ho hc => ?_, fun ho hc hq => ?_,
    fun k => submitJob_refused h hx hl hr, fun hk => (jobCode_none hk).1, fun hk hpin huniq => ?_⟩⟩⟩
  · exact submitJob_refused h hx hl hr (if_pos ho)
  · exact submitJob_refused h hx hl hr ((if_neg ho).trans (if_pos hc))
  · exact submitJob_refused h hx hl hr ((if_neg ho).trans ((if_neg (by simp [hc])).trans (if_pos hq)))
  · refine submitJob_accepts h hx hl hr hk fun t ht => ?_
    have hid : x.id.val = req.stream.val := stream?_id hx
    have hd : t.drawerOf x (jobAsk req.payload) = s.drawerOf x (jobAsk req.payload) :=
      ht.reads (f := fun s => s.drawerOf x (jobAsk req.payload)) fun s => drawerOf_quiet s _ _
    have hg : t.jobGroups x.cab (jobAsk req.payload).dies = s.jobGroups x.cab (jobAsk req.payload).dies :=
      ht.reads (f := fun s => s.jobGroups x.cab _) fun _ => rfl
    have hres : ∀ n g, t.residency? x.cab n g = s.residency? x.cab n g := fun n g => ht.reads (f := fun s => s.residency? x.cab n g) fun _ => rfl
    have hfree : ∀ d, t.freeOnDie d = s.freeOnDie d := fun d => ht.reads (f := fun s => s.freeOnDie d) fun _ => rfl
    have hacc := accepted_acceptJob (s := t) (r := replyOf infoSubmitJob src req) (x := x) (a := jobAsk req.payload)
      (by rw [hid]; exact (ht.reads (f := fun s => s.stream? _) fun _ => rfl).trans hx) ht.holds (fun n hn => slot?_of_drawerOf hn)
      (fun n hn g hg' => by rw [hres]; exact hpin n (hd.symm.trans hn) g (hg ▸ hg')) (fun y hy => huniq y ((quiet_jobs ht.quiet : t.jobs = s.jobs) ▸ hy))
    obtain ⟨h1, h2, ⟨gs, h3⟩, h4, h5, h6, h7, h8⟩ := hacc
    refine ⟨h1, h2, ⟨_, h3.trans (congrArg (fun l => l ++ _) (quiet_jobs ht.quiet)), rfl, rfl, rfl, rfl, rfl, rfl, rfl, rfl, hd, rfl, rfl⟩,
      fun b hb hb1 d hd' => ?_, fun n hn g hg' y hy => ?_, h6.trans (quiet_mem ht.quiet), h7.trans (quiet_cabs ht.quiet),
      h8.trans (quiet_dies ht.quiet)⟩
    · rw [h4]
      exact withTensors_make (fun d' hd'' => (hfree d').symm ▸ (jobCode_none hk).2 d' hd'') hb hb1 hd'
    · exact h5 n (hd.trans hn) g (hg.symm ▸ hg') y ((hres n g).trans hy)

end Sys2Proof.Machine
end
section
/-!
PROOF. Jobs start in order, and a halted stream is resumed (R63, R71, R85, R178, R239).
-/

namespace Sys2Proof.Machine

variable {s t u : State} {r : Reply} {src : Src} {req : Req} {x : Stream} {j : Job} {st : Fin 4096} {q : BitVec 32} {c : Cab} {n : Nat}

/-! ## A job that has its pins -/

theorem pinJob_pinned {g : Die} (hj : s.job? st q = some j) (hg : g ∈ j.pins) : s.pinJob st q c n g = s := by
  unfold State.pinJob
  split
  next h =>
    cases hj.symm.trans h
    exact if_pos (by simp [hg])
  · rfl

theorem pinAll_pinned (hj : s.job? j.stream j.seq = some j) (hp : j.slot.isSome = true → ∀ g ∈ s.jobGroups c j.dies, g ∈ j.pins) :
    s.pinAll c j = s := by
  unfold State.pinAll
  split
  · rfl
  next n hn =>
    have h : ∀ l : List Die, (∀ g ∈ l, g ∈ j.pins) → l.foldl (fun (s : State) g => s.pinJob j.stream j.seq c n g) s = s := by
      intro l
      induction l with
      | nil => exact fun _ => rfl
      | cons g l ih =>
        intro hl
        rw [List.foldl_cons, pinJob_pinned hj (hl g (by simp))]
        exact ih fun g' hg' => hl g' (by simp [hg'])
    exact h _ (hp (by simp [hn]))

/-! ## Tiles for a job -/

/-- A grant of a stream on an engine with at least `n` tiles. -/
def State.Grants (s : State) (st : Fin 4096) (n : Nat) (p : Die × Phys × Fin 8) : Prop :=
  ∃ g ∈ s.grants, g.stream = st ∧ g.die = p.1 ∧ g.cl = p.2.1 ∧ g.engine = p.2.2 ∧ n ≤ g.tiles.length

/-- What the grant of tiles on one engine leaves. -/
theorem grantOne?_some {p : Die × Phys × Fin 8} (h : s.grantOne? st n p.1 p.2.1 p.2.2 = some t) :
    t.untiled = s.untiled ∧ (n ≠ 0 → t.Grants st n p) ∧ ∀ p', s.Grants st n p' → t.Grants st n p' := by
  unfold State.grantOne? at h
  extract_lets have_ more at h
  split at h
  next hle =>
    cases h
    refine ⟨rfl, fun h0 => ?_, fun _ h => h⟩
    cases hg : s.grant? st p.1 p.2.1 p.2.2 with
    | none => exact absurd hle (by simp [have_, hg]; omega)
    | some g =>
      have hp := List.find?_some hg
      simp only [Bool.and_eq_true, beq_iff_eq] at hp
      exact ⟨g, List.mem_of_find?_eq_some hg, hp.1.1.1, hp.1.1.2, hp.1.2, hp.2, by simpa [have_, hg] using hle⟩
  · split at h
    · cases h
    next hle =>
      have hf : ∀ {β : Type} (f : State → β), (∀ (s : State) x, f (s.setTile x) = f s) →
          f (more.foldl (fun (s : State) pt => s.setTile { Tile.fresh p.1 p.2.1 p.2.2 pt with owner := some st }) s) = f s :=
        fun f hf => foldl_keeps (g := f) (fun s pt => hf s _) more s
      have hu := hf State.untiled fun _ _ => rfl
      have hgr := hf State.grants fun _ _ => rfl
      cases h
      have hown : n ≤ (have_ ++ more).length := by simp only [List.length_append]; omega
      refine ⟨hu, fun _ => ⟨_, List.mem_append_right _ (List.mem_singleton_self _), rfl, rfl, rfl, rfl, hown⟩, ?_⟩
      rintro p' ⟨g, hg, h1, h2, h3, h4, h5⟩
      by_cases hp : p' = p
      · exact ⟨_, List.mem_append_right _ (List.mem_singleton_self _), rfl, by rw [hp], by rw [hp], by rw [hp], hown⟩
      · refine ⟨g, List.mem_append_left _ (List.mem_filter.2 ⟨hgr ▸ hg, ?_⟩), h1, h2, h3, h4, h5⟩
        rw [Bool.not_eq_true', ← Bool.not_eq_true]
        intro he
        simp only [Bool.and_eq_true, beq_iff_eq] at he
        exact hp (Prod.ext (h2.symm.trans he.1.1.2) (Prod.ext (h3.symm.trans he.1.2) (h4.symm.trans he.2)))

theorem foldl_bind_none {α β : Type} (f : α → β → Option α) (l : List β) : l.foldl (fun acc p => acc.bind fun s => f s p) none = none := by
  induction l with
  | nil => rfl
  | cons a l ih => exact ih

/-- What the grants of a job leave: tiles and grants, one grant for each of its engines. -/
theorem grantJob?_some (h : s.grantJob? j = some u) :
    u.untiled = s.untiled ∧ ∀ p ∈ s.jobEngines j, j.tiles ≠ 0 → u.Grants j.stream j.tiles p := by
  have hall : ∀ (l : List (Die × Phys × Fin 8)) (s : State),
      l.foldl (fun (acc : Option State) p => acc.bind fun s => s.grantOne? j.stream j.tiles p.1 p.2.1 p.2.2) (some s) = some u →
      u.untiled = s.untiled ∧ ∀ p, (p ∈ l ∧ j.tiles ≠ 0) ∨ s.Grants j.stream j.tiles p → u.Grants j.stream j.tiles p := by
    intro l
    induction l with
    | nil => exact fun s h => by cases h; exact ⟨rfl, fun p hp => hp.resolve_left (by simp)⟩
    | cons a l ih =>
      intro s h
      rw [List.foldl_cons, Option.bind_some] at h
      cases hv : s.grantOne? j.stream j.tiles a.1 a.2.1 a.2.2 with
      | none =>
        rw [hv, foldl_bind_none] at h
        cases h
      | some v =>
        rw [hv] at h
        obtain ⟨hu, hown, hkeep⟩ := grantOne?_some (p := a) hv
        obtain ⟨hu', hall⟩ := ih v h
        refine ⟨hu'.trans hu, fun p hp => hall p ?_⟩
        rcases hp with ⟨hp, h0⟩ | hp
        · rcases List.mem_cons.1 hp with rfl | hp
          · exact .inr (hown h0)
          · exact .inl ⟨hp, h0⟩
        · exact .inr (hkeep p hp)
  obtain ⟨hu, hg⟩ := hall _ s h
  exact ⟨hu, fun p hp h0 => hg p (.inl ⟨hp, h0⟩)⟩

/-! ## A job ends, its stream looked at -/

/-- A stream is looked at: it goes, or stays. -/
theorem settleStream_cases (s : State) (i : Fin 4096) : s.settleStream i = s ∨ s.StreamGone (s.settleStream i) i := by
  cases hx : s.stream? i.val with
  | none => exact .inl (settleStream_stays fun x h => absurd (hx.symm.trans h) nofun)
  | some x =>
    by_cases hc : x.isClosing = true ∧ ∀ j ∈ s.jobs, j.stream ≠ i
    · rw [settleStream_goes hx hc.1 hc.2]
      exact .inr (streamGone_releaseStream i hx)
    · refine .inl (settleStream_stays fun y hy hyc => ?_)
      cases hx.symm.trans hy
      by_contra hno
      exact hc ⟨hyc, fun j hj e => hno ⟨j, hj, e⟩⟩

theorem after_settleStream (s : State) (i : Fin 4096) : s.After (s.settleStream i) := by
  rcases settleStream_cases s i with h | h
  · rw [h]; exact .refl s
  · exact h.after

theorem jobs_settleStream (s : State) (i : Fin 4096) : (s.settleStream i).jobs = s.jobs := by
  rcases settleStream_cases s i with h | h
  · rw [h]
  · exact h.jobs

theorem stream?_settleStream (s : State) (i : Fin 4096) (k : Nat) :
    (s.settleStream i).stream? k = none ∨ (s.settleStream i).stream? k = s.stream? k := by
  rcases settleStream_cases s i with h | h
  · rw [h]; exact .inr rfl
  · by_cases hk : k = i.val
    · rw [hk]; exact .inl (stream?_filter_same h.streams)
    · exact .inr (stream?_filter_ne h.streams hk)

theorem after_endJob (s : State) (st : Fin 4096) (q : BitVec 32) (code : Nat) : s.After (s.endJob st q code) := by
  cases hj : s.job? st q with
  | none => rw [endJob_absent code hj]; exact .refl s
  | some j => rw [endJob_eq code hj]; exact (after_settleStream ..).after (jobGone_retireJob s j st q code).after

theorem jobs_endJob (s : State) (st : Fin 4096) (q : BitVec 32) (code : Nat) :
    (s.endJob st q code).jobs = s.jobs.filter fun x => !(x.stream == st && x.seq == q) := by
  cases hj : s.job? st q with
  | none =>
    rw [endJob_absent code hj, List.filter_eq_self.2 fun x hx => by simpa [imp_iff_not_or] using List.find?_eq_none.1 hj x hx]
  | some j => rw [endJob_eq code hj, jobs_settleStream]; exact (jobGone_retireJob s j st q code).jobs

theorem stream?_endJob (s : State) (st : Fin 4096) (q : BitVec 32) (code k : Nat) :
    (s.endJob st q code).stream? k = none ∨ (s.endJob st q code).stream? k = s.stream? k := by
  cases hj : s.job? st q with
  | none => rw [endJob_absent code hj]; exact .inr rfl
  | some j =>
    rw [endJob_eq code hj]
    have hs : (s.retireJob j st q code).stream? k = s.stream? k :=
      congrArg (List.find? fun x : Stream => x.id.val == k) (jobGone_retireJob s j st q code).streams
    exact (stream?_settleStream _ st k).imp_right fun h => h.trans hs

/-- The answer of a job that ends. -/
theorem answered_endJob (hj : s.job? st q = some j) (code : Nat) (ha : s.awaits j.reply = true) (hb : ∀ k, j.reply.src ≠ .session k) :
    (s.endJob st q code).answered j.reply q.toNat code (if code = Code.nanTrap then j.record else []) = true := by
  obtain ⟨hafter, -, -, hans⟩ := jobGone_retireJob s j st q code
  have hl : (s.chan (chanKey j.reply.src)).length ≤ 1024 := by
    rw [State.awaits, Bool.and_eq_true, decide_eq_true_eq] at ha
    exact ha.2
  rw [endJob_eq code hj]
  refine ((after_settleStream ..).laterBox hb).answered ?_ (hans ha hb)
  exact ((hafter.laterBox hb).short hl).length_eq ▸ hl

/-! ## JOB_START -/

/-- A job that has its pins starts once its fetches are there and its tiles can be had. -/
def State.startJob (s : State) (x : Stream) (j : Job) : State :=
  if !s.fetched x.cab j then s
  else match s.grantJob? j with
    | some u => u.modJob j.stream j.seq fun y => { y with phase := 1 }
    | none => s

theorem startJob_waits (h : s.fetched x.cab j = false ∨ s.grantJob? j = none) : s.startJob x j = s := by
  unfold State.startJob
  rcases h with h | h
  · exact if_pos (by simp [h])
  · rw [h]
    exact ite_self _

theorem startJob_starts (h : s.fetched x.cab j = true) (hu : s.grantJob? j = some u) :
    s.startJob x j = u.modJob j.stream j.seq fun y => { y with phase := 1 } := by
  unfold State.startJob
  rw [hu]
  exact if_neg (by simp [h])

section Start

variable (hj : s.job? j.stream j.seq = some j) (hx : s.stream? j.stream.val = some x)

/-- What keeps a job from its start. -/
def State.keepsJob (s : State) (x : Stream) (j : Job) : Bool :=
  j.phase != 0 || x.halted || !s.firstOf j || (diesOf j.dies).any s.resetHolds || (s.jobEngines j).any fun p => s.scopeHolds p.1 p.2.1

theorem keepsJob_iff : s.keepsJob x j = true ↔ (j.phase ≠ 0 ∨ x.halted = true ∨ s.firstOf j = false ∨ (∃ d ∈ diesOf j.dies, s.resetHolds d = true) ∨
      (∃ p ∈ s.jobEngines j, s.scopeHolds p.1 p.2.1 = true)) := by
  simp [State.keepsJob, or_assoc]

include hj hx

theorem jobStart_kept (h : s.keepsJob x j = true) : Answers (.jobStart j.stream j.seq) s fun t => t = s := by
  refine ⟨_, rfl, ?_⟩
  rw [hj, hx]
  exact if_pos h

variable (hk : s.keepsJob x j = false)

include hk

theorem jobStart_noShelf (hp : s.program? x.cab j.program = none) :
    Answers (.jobStart j.stream j.seq) s fun t => t = s.endJob j.stream j.seq Code.noShelf := by
  refine ⟨_, rfl, ?_⟩
  rw [hj, hx]
  exact (if_neg (by rw [Bool.not_eq_true]; exact hk)).trans (if_pos (by simp [hp]))

variable (hp : (s.program? x.cab j.program).isSome = true)

include hp

theorem jobStart_unbound (hb : s.unboundFor x.cab j = true) :
    Answers (.jobStart j.stream j.seq) s fun t => t = s.endJob j.stream j.seq Code.slotNotBound := by
  refine ⟨_, rfl, ?_⟩
  rw [hj, hx]
  exact (if_neg (by rw [Bool.not_eq_true]; exact hk)).trans ((if_neg (by simp [Option.isSome_iff_ne_none.1 hp])).trans (if_pos hb))

/-- A job whose program and binding are there takes the pins that it can, and starts where its drawer and its tiles are. -/
theorem jobStart_pins (hb : s.unboundFor x.cab j = false) (hpins : j.slot.isSome = true → ∀ g ∈ s.jobGroups x.cab j.dies, g ∈ j.pins) :
    Answers (.jobStart j.stream j.seq) s fun t => t = s.startJob x j := by
  refine ⟨_, rfl, ?_⟩
  rw [hj, hx]
  refine (if_neg (by rw [Bool.not_eq_true]; exact hk)).trans ((if_neg (by simp [Option.isSome_iff_ne_none.1 hp])).trans
    ((if_neg (by simp [hb])).trans ?_))
  dsimp only
  rw [pinAll_pinned hj hpins, hj]
  rfl

end Start

theorem jobsStartInOrder : JobsStartInOrder := by
  intro s j x hj hx
  refine ⟨fun hb => jobStart_kept hj hx (keepsJob_iff.2 hb), fun hb hp hub hpins => ⟨fun hw => ?_, fun hf u hu => ?_⟩, fun code hb hc => ?_⟩
  all_goals
    have hk : s.keepsJob x j = false := by rw [← Bool.not_eq_true]; exact fun h => hb (keepsJob_iff.1 h)
  · obtain ⟨t, he, ht⟩ := jobStart_pins hj hx hk hp hub hpins
    exact ⟨t, he, ht.trans (startJob_waits hw)⟩
  · obtain ⟨t, he, ht⟩ := jobStart_pins hj hx hk hp hub hpins
    rw [startJob_starts hf hu] at ht
    obtain ⟨hun, hgr⟩ := grantJob?_some hu
    refine ⟨t, he, ht, fun p hpe h0 => ht ▸ hgr p hpe h0, ?_⟩
    rw [ht]
    exact congrArg (fun v : State => { v with jobs := s.jobs, grants := s.grants, tiles := s.tiles }) hun
  · have hend : Answers (.jobStart j.stream j.seq) s fun t => t = s.endJob j.stream j.seq code := by
      rcases hc with ⟨hp, rfl⟩ | ⟨hp, hub, rfl⟩
      · exact jobStart_noShelf hj hx hk hp
      · exact jobStart_unbound hj hx hk hp hub
    have hcode : code ≠ Code.nanTrap := by
      rcases hc with ⟨-, rfl⟩ | ⟨-, -, rfl⟩ <;> decide
    obtain ⟨t, he, rfl⟩ := hend
    refine ⟨_, he, fun y hy e => ?_, fun ha hbox => ?_⟩
    · rw [jobs_endJob, List.mem_filter] at hy
      simp [e.1, e.2] at hy
    · have h := answered_endJob hj code ha hbox
      rwa [if_neg hcode] at h

/-! ## RESUME_STREAM -/

theorem endGrant_quiet (s : State) (g : Grant) : s.quiet.endGrant g = (s.endGrant g).quiet := by
  have h : g.tiles.foldl (fun (s : State) p => s.setTile (Tile.fresh g.die g.cl g.engine p)) s.quiet =
      (g.tiles.foldl (fun (s : State) p => s.setTile (Tile.fresh g.die g.cl g.engine p)) s).quiet :=
    List.foldl_hom State.quiet (g₁ := fun (s : State) p => s.setTile (Tile.fresh g.die g.cl g.engine p)) fun _ _ => rfl
  unfold State.endGrant
  rw [h]
  rfl

theorem settleGrants_quiet (s : State) (i : Fin 4096) : s.quiet.settleGrants i = (s.settleGrants i).quiet := by
  unfold State.settleGrants
  refine Eq.trans ?_ (apply_ite State.quiet _ _ _).symm
  refine if_congr Iff.rfl rfl ?_
  exact List.foldl_hom State.quiet fun s g => endGrant_quiet s g

/-- The channel of a key is not a draining session's. -/
def State.KeepsChan (s : State) (k : Nat) : Prop := ∀ x ∈ s.rot.sessions, x.draining = true → 4096 + x.n.val ≠ k

theorem State.KeepsChan.of_quiet {k : Nat} (h : s.KeepsChan k) (hq : t.quiet = s.quiet) : t.KeepsChan k := by
  intro x hx hd
  have he : t.rot.sessions.map Session.quiet = s.rot.sessions.map Session.quiet := congrArg (fun u => u.rot.sessions) hq
  have hm : x.quiet ∈ s.rot.sessions.map Session.quiet := he ▸ List.mem_map_of_mem hx
  obtain ⟨y, hy, e⟩ := List.mem_map.1 hm
  have hyd : y.quiet.draining = x.quiet.draining := by rw [e]
  have hyn : y.quiet.n = x.quiet.n := by rw [e]
  have hyn' : y.n = x.n := hyn
  exact hyn' ▸ h y hy (Eq.trans hyd hd)

/-- A session that drains sends no request. -/
theorem keepsChan_of_admits {info : CmdInfo} (h : s.admits info src req = true) (hu : s.idsUnique) : s.KeepsChan (chanKey src) := by
  intro x hx hd e
  cases src with
  | pigeon c n => simp only [chanKey] at e; omega
  | tray c n => simp only [chanKey] at e; omega
  | session n =>
    have hn : x.n = n := Fin.ext (by simp only [chanKey] at e; omega)
    have hroute : s.routeCode info (.session n) req = none := by
      rw [State.admits] at h
      simp only [Bool.and_eq_true, Option.isNone_iff_eq_none] at h
      exact h.1.2
    have hxs : s.session? n.val = some x := by
      obtain ⟨y, hy⟩ : ∃ y, s.session? n.val = some y := by
        rw [← Option.isSome_iff_exists, State.session?, List.find?_isSome]
        exact ⟨x, hx, by simp [hn]⟩
      have hyn : y.n = n := Fin.ext (by simpa using List.find?_some hy)
      have hym : y ∈ s.rot.sessions := List.mem_of_find?_eq_some hy
      rw [hy, List.inj_on_of_nodup_map hu.2.2.2 hym hx (hyn.trans hn.symm)]
    unfold State.routeCode at hroute
    simp only [hxs, State.sessStreamCode, hd, if_true] at hroute
    split at hroute
    · cases hroute
    · cases hroute

/-- A stream that is halted no more. -/
def State.unhalt (s : State) (i : Fin 4096) : State := s.modStream i.val fun y => { y with halted := false }

section Resume

variable (h : s.admits infoResumeStream src req = true) (hx : s.stream? req.stream.val = some x)

include h hx

theorem resumeStream_notHalted (hh : x.halted = false) :
    Completes (.resumeStream src req) s infoResumeStream src req Code.streamNotHalted [] s :=
  completes_of_admits h rfl fun t ht => by
    have hx' : t.stream? (replyOf infoResumeStream src req).stream.val = some x := (ht.reads (f := fun s => s.stream? _) fun _ => rfl).trans hx
    refine ⟨t, ht, ?_⟩
    rw [hx']
    exact if_pos (by simp [hh])

variable (hh : x.halted = true)

include hh

theorem resumeStream_goesOn (hf : bitAt (wordAt req.payload 0) 0 = false) :
    Completes (.resumeStream src req) s infoResumeStream src req Code.ok []
      ((s.modStream x.id.val fun y => { y with halted := false }).settleGrants x.id) :=
  completes_of_admits h rfl fun t ht => by
    have hx' : t.stream? (replyOf infoResumeStream src req).stream.val = some x := (ht.reads (f := fun s => s.stream? _) fun _ => rfl).trans hx
    refine ⟨_, ht.congr (F := fun s => (s.unhalt x.id).settleGrants x.id)
      (fun s => settleGrants_quiet (s.unhalt x.id) x.id) ?_, ?_⟩
    · have hc := eq_of_untiled (f := fun s => s.cp.chans) (fun _ => rfl) (untiled_settleGrants (t.unhalt x.id) x.id)
      exact hc
    · rw [hx']
      dsimp only
      rw [if_neg (by simp [hh]), if_neg (by simp [hf])]
      rfl

theorem resumeStream_flushes {P : State → Prop} (hf : bitAt (wordAt req.payload 0) 0 = true)
    (hP : ∀ t, s.Took (replyOf infoResumeStream src req) t →
      P ((((t.unhalt x.id).endJobs (fun j => j.stream == x.id && j.phase == 0)
        Code.cancelledAfterTrap).settleGrants x.id).complete (replyOf infoResumeStream src req) Code.ok [])) :
    Answers (.resumeStream src req) s P :=
  answers_of_admits h rfl fun t ht => by
    have hx' : t.stream? (replyOf infoResumeStream src req).stream.val = some x := (ht.reads (f := fun s => s.stream? _) fun _ => rfl).trans hx
    rw [hx']
    dsimp only
    rw [if_neg (by simp [hh]), if_pos hf]
    exact hP t ht

end Resume

/-- What the end of several jobs leaves. -/
theorem endJobs_leaves (p : Job → Bool) (code : Nat) : s.After (s.endJobs p code) ∧ (∀ j ∈ (s.endJobs p code).jobs, p j = false) ∧
    ∀ k, (s.endJobs p code).stream? k = none ∨ (s.endJobs p code).stream? k = s.stream? k := by
  have hall : ∀ (l : List Job) (v : State), (∀ j ∈ v.jobs, p j = true → j ∈ l) → (∀ k, v.stream? k = none ∨ v.stream? k = s.stream? k) →
      (∀ j ∈ (l.foldl (fun s j => s.endJob j.stream j.seq code) v).jobs, p j = false) ∧
        ∀ k, (l.foldl (fun s j => s.endJob j.stream j.seq code) v).stream? k = none ∨
          (l.foldl (fun s j => s.endJob j.stream j.seq code) v).stream? k = s.stream? k := by
    intro l
    induction l with
    | nil => exact fun v hj hs => ⟨fun j hm => by rw [← Bool.not_eq_true]; exact fun hp => absurd (hj j hm hp) (by simp), hs⟩
    | cons a l ih =>
      refine fun v hj hs => ih _ (fun j hm hp => ?_) fun k => ?_
      · rw [jobs_endJob, List.mem_filter] at hm
        refine (List.mem_cons.1 (hj j hm.1 hp)).resolve_left fun e => ?_
        simp [e] at hm
      · rcases stream?_endJob v a.stream a.seq code k with h | h
        · exact .inl h
        · exact (hs k).imp h.trans h.trans
  obtain ⟨h1, h2⟩ := hall (s.jobs.filter p) s (fun j hm hp => List.mem_filter.2 ⟨hm, hp⟩) fun _ => .inr rfl
  exact ⟨.foldl (fun s (j : Job) => after_endJob s j.stream j.seq code) _ s, h1, h2⟩

theorem streamIsResumed : StreamIsResumed := by
  intro s src req x h hx
  refine ⟨resumeStream_notHalted h hx, resumeStream_goesOn h hx, fun hh hf hu => resumeStream_flushes h hx hh hf fun t ht => ?_⟩
  have hid : x.id.val = req.stream.val := stream?_id hx
  have hx' : t.stream? x.id.val = some x := hid ▸ (ht.reads (f := fun s => s.stream? _) fun _ => rfl).trans hx
  obtain ⟨ha, hjobs, hstr⟩ := endJobs_leaves (s := t.unhalt x.id)
    (fun j => j.stream == x.id && j.phase == 0) Code.cancelledAfterTrap
  generalize (t.unhalt x.id).endJobs (fun j => j.stream == x.id && j.phase == 0)
    Code.cancelledAfterTrap = v at *
  have hv : t.After (v.settleGrants x.id) := (after_of_untiled (untiled_settleGrants ..)).after (ha.after (.same rfl rfl rfl))
  have hun := untiled_settleGrants v x.id
  have hq := quiet_complete (v.settleGrants x.id) (replyOf infoResumeStream src req) Code.ok []
  have hn : (v.settleGrants x.id).Newest (replyOf infoResumeStream src req) :=
    ht.holds.newest.later (hv.later _ ((keepsChan_of_admits h hu).of_quiet ht.quiet))
  refine ⟨(done_finish hn 0 Code.ok []).ended, fun j hj hjx => ?_, fun y hy => ?_, ?_⟩
  · have hj' : j ∈ v.jobs := eq_of_untiled (f := State.jobs) (fun _ => rfl) hun ▸ (quiet_jobs hq ▸ hj)
    simpa [hjx] using hjobs j hj'
  · have hy' : v.stream? x.id.val = some y := by
      rw [← hy, State.stream?, State.stream?, quiet_streams hq, eq_of_untiled (f := State.streams) (fun _ => rfl) hun]
    rcases hstr x.id.val with e | e
    · exact absurd (hy'.symm.trans e) nofun
    · have hm : (t.unhalt x.id).stream? x.id.val = some { x with halted := false } :=
        find?_updFirst hx' (by simp)
      cases hy'.symm.trans (e.trans hm)
      rfl
  · exact (quiet_mem hq).trans (hv.mem.trans (quiet_mem ht.quiet))

/-- Settles O20: jobs are accepted, start, and go on when their stream is resumed. -/
theorem jobsRunInOrder : Obligations.JobsRunInOrder := ⟨jobsAreAccepted, jobsStartInOrder, streamIsResumed⟩

end Sys2Proof.Machine
end
section
/-!
SUPPORT. What leaves HBM and the policies alone: reports while no policy acts, ends of requests, of steps and of runs, and the bodies of the
vector library (R128, R195, R219 to R225, R285).
-/

namespace Sys2Proof.Machine

variable {s t u : State} {r : Reply}

/-- HBM and the policies. -/
def State.memPolicies (s : State) : Mem × List Policy := (s.mem, s.cp.policies)

theorem memPolicies_of_quiet (h : t.quiet = s.quiet) : t.memPolicies = s.memPolicies :=
  eq_of_quiet (f := State.memPolicies) (fun _ => rfl) h

theorem memPolicies_of_calm (h : t.calm = s.calm) : t.memPolicies = s.memPolicies :=
  eq_of_calm (f := State.memPolicies) (fun _ => rfl) h

theorem memPolicies_of_still (h : t.still = s.still) : t.memPolicies = s.memPolicies := by
  have := congrArg State.memPolicies h
  exact this

theorem policiesOff_of_memPolicies (h : PoliciesOff s) (he : t.memPolicies = s.memPolicies) : PoliciesOff t := by
  have hp : t.cp.policies = s.cp.policies := congrArg Prod.snd he
  simpa only [PoliciesOff, State.policy, hp] using h

/-! ## Reports -/

theorem memPolicies_noticeOne (s : State) (e : LogEntry) (x : Touch) : (s.noticeOne e x).memPolicies = s.memPolicies := by
  refine memPolicies_of_quiet ?_
  unfold State.noticeOne
  dsimp only
  split
  · split
    · exact quiet_postSession ..
    · rfl
  · split
    · split
      · split
        · exact quiet_postTenant ..
        · exact quiet_postStream ..
      · rfl
    · exact quiet_postStream ..

theorem memPolicies_logReport (s : State) (r : Report) (policy action : Nat) : (s.logReport r policy action).memPolicies = s.memPolicies := by
  unfold State.logReport
  extract_lets e step
  have hstep : ∀ acc c, (step acc c).1.memPolicies = acc.1.memPolicies := fun acc c => by
    simp only [step]
    split <;> rfl
  have hlog : ([(0 : Ct), 1].foldl step (s, false)).1.memPolicies = s.memPolicies := (hstep _ _).trans (hstep _ _)
  rcases hw : [(0 : Ct), 1].foldl step (s, false) with ⟨v, written⟩
  rw [hw] at hlog
  dsimp only
  refine (foldl_keeps (g := State.memPolicies) (fun _ _ => memPolicies_noticeOne ..) _ _).trans ?_
  refine Eq.trans ?_ hlog
  have hpost : ∀ (x : State) (k : Nat) (p : List Word), (x.postEvent k 0 p).memPolicies = x.memPolicies := fun x k p =>
    memPolicies_of_quiet (quiet_postEvent ..)
  have hmc : (if written then v.modPower fun p =>
      { p with mcLog := p.mcLog ++ [[r.cls, r.severity.val, r.block.val, r.unit.val, r.die.val, v.now]] } else v).memPolicies = v.memPolicies := by
    split <;> rfl
  refine Eq.trans ?_ hmc
  split
  · exact hpost ..
  · split
    · exact hpost ..
    · split
      · rfl
      · exact hpost ..

theorem memPolicies_policyAct (s : State) (p o : Nat) : (s.policyAct p o).memPolicies = s.memPolicies := memPolicies_logReport ..

theorem memPolicies_unless {on due : Bool} (h : on = false) : (if on && due then t else s).memPolicies = s.memPolicies := by
  simp [h]

/-- A report while the policies that retire blocks are off. -/
theorem memPolicies_report (h : PoliciesOff s) (r : Report) : (s.report r).memPolicies = s.memPolicies := by
  have hl := memPolicies_logReport s r 0xff 0
  have hoff := policiesOff_of_memPolicies h hl
  unfold State.report
  dsimp only
  split
  · exact hl
  · have hcl : ((s.logReport r 0xff 0).policyCluster r).memPolicies = s.memPolicies := by
      refine Eq.trans ?_ hl
      unfold State.policyCluster
      split
      · rfl
      · dsimp only
        have hn : ∀ x : State, x.memPolicies = (s.logReport r 0xff 0).memPolicies → (x.policy 1).on = false := fun x hx =>
          (policiesOff_of_memPolicies hoff hx).1
        split <;> exact (memPolicies_unless (hn _ (by rfl))).trans rfl
    generalize (s.logReport r 0xff 0).policyCluster r = v at *
    have hdie : ∀ a b, (v.policyDie r a b).memPolicies = s.memPolicies := fun a b => by
      refine Eq.trans ?_ hcl
      unfold State.policyDie
      dsimp only
      have hn : ∀ x : State, x.memPolicies = v.memPolicies → (x.policy 2).on = false := fun x hx => (policiesOff_of_memPolicies h (hx.trans hcl)).2.1
      split <;> exact (memPolicies_unless (hn _ (by rfl))).trans rfl
    generalize hw : v.policyDie r _ _ = w
    have hwm : w.memPolicies = s.memPolicies := hw ▸ hdie _ _
    refine Eq.trans ?_ hwm
    unfold State.policyStack
    dsimp only
    have hn : ∀ x : State, x.memPolicies = w.memPolicies → (x.policy 6).on = false := fun x hx => (policiesOff_of_memPolicies h (hx.trans hwm)).2.2
    split
    · rfl
    · split
      · exact (memPolicies_unless (hn _ (by rfl))).trans rfl
      · exact (memPolicies_unless (hn _ (by rfl))).trans rfl

/-! ## Ends of requests and steps -/

theorem memPolicies_settleUnmount (s : State) (c : Cab) : (s.settleUnmount c).memPolicies = s.memPolicies :=
  memPolicies_of_still (still_settleUnmount s c)

theorem memPolicies_endRequest (s : State) (i code : Nat) : (s.endRequest i code).memPolicies = s.memPolicies := by
  unfold State.endRequest State.closeRequest
  split
  · rfl
  · split
    · rfl
    · dsimp only
      refine (memPolicies_settleUnmount ..).trans ?_
      have hf : ∀ x : State, ∀ p, (x.freePages p).memPolicies = x.memPolicies := fun x p => memPolicies_of_calm (calm_freePages ..)
      split
      · exact (memPolicies_of_calm (calm_unpin ..)).trans (hf _ _)
      · exact hf _ _

theorem memPolicies_completeStop (s : State) (id : BitVec 32) : (s.completeStop id).memPolicies = s.memPolicies := by
  unfold State.completeStop
  split
  · exact (memPolicies_of_quiet (quiet_complete ..)).trans rfl
  · rfl

theorem memPolicies_tell (s : State) (c : Cab) (n code : Nat) : (s.tell c n code).memPolicies = s.memPolicies := by
  unfold State.tell
  split <;> rfl

theorem memPolicies_unpinStep (s : State) (x : Run) : (s.unpinStep x).memPolicies = s.memPolicies :=
  memPolicies_of_calm (calm_foldl (fun _ _ => calm_unpin ..) _ s)

theorem memPolicies_discardStep (s : State) (id : BitVec 32) (cause : Nat) (st : Fin 8) :
    (s.discardStep id cause st).memPolicies = s.memPolicies := by
  unfold State.discardStep
  split
  · rfl
  · exact (memPolicies_tell ..).trans (memPolicies_unpinStep ..)

/-- The slot of a run is freed. -/
def State.freeRunSlot (s : State) (x : Run) (id : BitVec 32) : State :=
  match s.slot? x.cab x.slot with
  | some y => if y.run = some id then s.freeSlot x.cab x.slot else s
  | none => s

/-- The slot that a run re-makes is STALE again. -/
def State.endRemaking (s : State) (x : Run) : State :=
  match x.remakeOf with
  | some n => s.modSlot x.cab n fun y => if y.state = SState.remaking then { y with state := SState.stale } else y
  | none => s

/-- A run leaves the lists that hold it. -/
def State.dropRun (s : State) (id : BitVec 32) : State :=
  let s := s.modCp fun c => { c with vcs := c.vcs.map fun v => if v = some id then none else v }
  { s with runs := s.runs.filter fun x => x.id != id, fetches := s.fetches.filter fun f => f.run != some id,
           reductions := s.reductions.filter fun x => x.run != id }

theorem releaseRun_eq {id : BitVec 32} {x : Run} (h : s.run? id = some x) :
    s.releaseRun id = (((s.freeRunPages id).freeRunSlot x id).endRemaking x).dropRun id := by
  rw [State.releaseRun, h]
  rfl

theorem calm_freeRunPages (s : State) (id : BitVec 32) : (s.freeRunPages id).calm = s.calm := calm_freePages ..

theorem calm_freeRunSlot (s : State) (x : Run) (id : BitVec 32) : (s.freeRunSlot x id).calm = s.calm := by
  unfold State.freeRunSlot
  split
  · split
    · exact calm_freeSlot ..
    · rfl
  · rfl

theorem calm_endRemaking (s : State) (x : Run) : (s.endRemaking x).calm = s.calm := by
  unfold State.endRemaking
  split <;> rfl

theorem memPolicies_releaseRun (s : State) (id : BitVec 32) : (s.releaseRun id).memPolicies = s.memPolicies := by
  cases h : s.run? id with
  | none => rw [State.releaseRun, h]
  | some x =>
    rw [releaseRun_eq h]
    have hc := (calm_endRemaking _ x).trans ((calm_freeRunSlot _ x id).trans (calm_freeRunPages s id))
    exact Eq.trans (b := State.memPolicies (State.endRemaking _ x)) rfl (memPolicies_of_calm hc)

theorem memPolicies_remakeFail (s : State) (id : BitVec 32) (code : Nat) : (s.remakeFail id code).memPolicies = s.memPolicies := by
  unfold State.remakeFail
  split
  · exact (memPolicies_releaseRun ..).trans (memPolicies_tell ..)
  · rfl

theorem memPolicies_publish (s : State) (x : Run) (q : Option Reply) : (s.publish x q).memPolicies = s.memPolicies := by
  unfold State.publish
  split
  · rfl
  · exact (memPolicies_of_quiet (quiet_postEvent ..)).trans rfl

theorem memPolicies_remakeDone (s : State) (id : BitVec 32) : (s.remakeDone id).memPolicies = s.memPolicies := by
  unfold State.remakeDone
  split
  · split
    · rfl
    · split
      · exact memPolicies_remakeFail ..
      · exact memPolicies_publish ..
  · rfl

/-! ## The start of a step -/

theorem memPolicies_bumpRed (s : State) : s.bumpRed.memPolicies = s.memPolicies := rfl

theorem memPolicies_makeReductions (s : State) (x : Run) (img : DrawerImage) : (s.makeReductions x img).memPolicies = s.memPolicies := by
  have hadd : ∀ (v : State) p ch o k f e b, (v.addReduction x p ch o k f e b).memPolicies = v.memPolicies := fun _ _ _ _ _ _ _ _ => rfl
  refine Eq.trans (b := ((List.range (s.spanOf x)).foldl _ s).memPolicies) rfl ?_
  refine foldl_keeps (g := State.memPolicies) (fun v p => ?_) _ s
  have h1 : ∀ (l : List Nat) (w : State), (l.foldl (fun (s : State) d =>
      (cutBuckets x.settings.bucket (s.shardParams x img p d).length).zipIdx.foldl (fun (s' : State) b =>
        s'.addReduction x p (v.chainOf x p) d b.2 ((s.shardParams x img p d).getD b.1.1 0) b.1.2 false) s) w).memPolicies = w.memPolicies :=
    fun l w => foldl_keeps (g := State.memPolicies) (fun s d => foldl_keeps (g := State.memPolicies) (fun _ _ => hadd ..) _ s) l w
  dsimp only
  split
  · exact h1 _ _
  · exact (foldl_keeps (g := State.memPolicies) (fun _ _ => hadd ..) _ _).trans (h1 _ _)

/-- A step that starts: the run as it is then, its pins, its reductions. -/
def State.enterStep (s : State) (id : BitVec 32) (x x' : Run) : State :=
  let s := s.modRun id fun _ => x'
  let s := (stepGroups x').foldl (fun (s : State) g => s.pin x.cab x.slot g) s
  match (s.slot? x.cab x.slot).bind Slot.image with
  | some img => s.makeReductions x' img
  | none => s

theorem memPolicies_enterStep (s : State) (id : BitVec 32) (x x' : Run) : (s.enterStep id x x').memPolicies = s.memPolicies := by
  have hp : ∀ v : State, ((stepGroups x').foldl (fun (s : State) g => s.pin x.cab x.slot g) v).memPolicies = v.memPolicies :=
    fun v => foldl_keeps (g := State.memPolicies) (f := fun (s : State) g => s.pin x.cab x.slot g) (fun _ _ => rfl) _ v
  unfold State.enterStep
  dsimp only
  split
  · exact (memPolicies_makeReductions ..).trans (hp _)
  · exact hp _

theorem memPolicies_startStep (id : BitVec 32) (n : Nat) : ∀ s : State, (s.startStep id n).memPolicies = s.memPolicies := by
  induction n with
  | zero => exact fun _ => rfl
  | succ n ih =>
    intro s
    unfold State.startStep
    split
    · rfl
    next x _ =>
      split
      · rfl
      · dsimp only
        split
        · exact memPolicies_remakeDone ..
        · split
          · exact ih _
          · exact memPolicies_enterStep ..

theorem memPolicies_runFail (s : State) (id : BitVec 32) (code : Nat) : (s.runFail id code).memPolicies = s.memPolicies := by
  unfold State.runFail
  split
  · rfl
  next x _ =>
    dsimp only
    refine (memPolicies_settleUnmount ..).trans ((memPolicies_remakeFail ..).trans ((memPolicies_completeStop ..).trans ?_))
    have hd : (if x.inStep then s.discardStep id code RunSt.failed else s).memPolicies = s.memPolicies := by
      split
      · exact memPolicies_discardStep ..
      · rfl
    split
    · exact (memPolicies_of_quiet (quiet_complete ..)).trans hd
    · exact hd

theorem memPolicies_rerunStep (s : State) (id : BitVec 32) : (s.rerunStep id).memPolicies = s.memPolicies := by
  unfold State.rerunStep
  split
  · rfl
  · split
    · split
      · exact memPolicies_runFail ..
      · exact (memPolicies_startStep ..).trans (memPolicies_policyAct ..)
    · exact memPolicies_settleUnmount ..

theorem memPolicies_loseStep (s : State) (id : BitVec 32) : (s.loseStep id).memPolicies = s.memPolicies := by
  have hdrop : ∀ (v : State) cause, (v.dropStep id cause).memPolicies = v.memPolicies := fun v cause => by
    unfold State.dropStep
    split
    · rfl
    · split
      · rfl
      · split
        · exact (memPolicies_settleUnmount ..).trans ((memPolicies_completeStop ..).trans (memPolicies_discardStep ..))
        · exact (memPolicies_rerunStep ..).trans (memPolicies_discardStep ..)
  exact hdrop _ _

/-! ## The end of an engine's descriptor -/

theorem memPolicies_modCluster (s : State) (d : Die) (c : Phys) (f : ClusterSt → ClusterSt) :
    (s.modCluster d c f).memPolicies = s.memPolicies := by
  unfold State.modCluster
  split <;> rfl

theorem memPolicies_putBack (s : State) (v : VEngine) (x : Replaced) : (s.putBack v x).memPolicies = s.memPolicies := by
  cases x with
  | rows => exact memPolicies_modCluster ..
  | tensor => rfl
  | prog => rfl
  | tile => rfl

theorem memPolicies_vIsolate (s : State) (v : VEngine) (code : Nat) : (s.vIsolate v code).memPolicies = s.memPolicies := by
  have hw : (s.vWithhold v).memPolicies = s.memPolicies :=
    foldl_keeps (g := State.memPolicies) (fun s (x : VEngine) => foldl_keeps (g := State.memPolicies) (fun _ _ => memPolicies_putBack ..) x.undo s) _ s
  refine Eq.trans ?_ hw
  unfold State.vIsolate State.vReseat
  split <;> rfl

theorem memPolicies_vLose (s : State) (v : VEngine) (m : Mark) : (s.vLose v m).memPolicies = s.memPolicies := by
  unfold State.vLose
  split
  · rfl
  · refine (foldl_keeps (g := State.memPolicies) (fun s k => ?_) _ _).trans ?_
    · split
      · exact memPolicies_endRequest ..
      · exact memPolicies_loseStep ..
      · rfl
    · unfold State.vReseat
      split <;> rfl

theorem memPolicies_trapJob (s : State) (x : Issue) (q : BitVec 32) (ts : List Trap) : (s.trapJob x q ts).memPolicies = s.memPolicies := by
  unfold State.trapJob
  split
  · rfl
  · refine foldl_keeps (g := State.memPolicies) (fun s k => ?_) ts s
    split <;> rfl

/-- What an engine's end leaves alone, where the effect it comes to does. -/
theorem memPolicies_vFinish (h : PoliciesOff s) (v : VEngine) (w : Word) (src : Nat) {e : VEnd} (he : ∀ s' v' evs m, e ≠ .ok s' v' evs m) :
    (s.vFinish v w src e).memPolicies = s.memPolicies := by
  cases e with
  | wait => rfl
  | iso tag => exact (memPolicies_vIsolate ..).trans (memPolicies_report h _)
  | tile => exact (memPolicies_vIsolate ..).trans (memPolicies_report h _)
  | bad m => exact (memPolicies_vLose ..).trans (memPolicies_logReport ..)
  | ok s' v' evs m => exact absurd rfl (he s' v' evs m)

/-! ## The bodies of the library -/

/-- An effect that leaves HBM and the policies as they were. -/
def VEnd.Keeps (c : Mem × List Policy) : VEnd → Prop
  | .ok s _ _ _ => s.memPolicies = c
  | _ => True

section Bodies

variable {c : Mem × List Policy} {v : VEngine} {d : VDesc}

theorem memPolicies_storeBytes {p : VPlace} {m : Mark} {bs : List (Option Byte)} (h : s.storeBytes v d p m bs = some t) :
    t.memPolicies = s.memPolicies := by
  cases p with
  | rows a => cases h; exact memPolicies_modCluster ..
  | prog x off =>
    simp only [State.storeBytes] at h
    split at h
    · cases h
    · cases h; rfl
  | tensor x off =>
    simp only [State.storeBytes] at h
    split at h
    · cases h
    · cases h; rfl

theorem keeps_vLoadAt {as n : Nat} {off : Int} {k : List Byte → Mark → VEnd} (hk : ∀ bs m, (k bs m).Keeps c) :
    (vLoadAt s v d as off n k).Keeps c := by
  unfold vLoadAt
  split
  · trivial
  · split
    · trivial
    · split
      · trivial
      · exact hk _ _

theorem keeps_vStoreAt {as : Nat} {off : Int} {m : Mark} {bs : List (Option Byte)} {k : State → VEngine → VEnd} (hs : s.memPolicies = c)
    (hk : ∀ t v, t.memPolicies = c → (k t v).Keeps c) : (vStoreAt s v d as off m bs k).Keeps c := by
  unfold vStoreAt
  split
  · trivial
  · split
    · trivial
    · split
      · trivial
      next h => exact hk _ _ ((memPolicies_storeBytes h).trans hs)

theorem keeps_withMarks {o : Nat} {ms : List Mark} {k : Mark → VEnd} (hk : ∀ m, (k m).Keeps c) : (withMarks o ms k).Keeps c := by
  unfold withMarks
  split
  · exact hk _
  · trivial

/-- A row of a library body that leaves HBM and the policies alone. -/
def LibRow.Keeps (row : LibRow) : Prop := ∀ o (s : State) v d c, s.memPolicies = c → (row o s v d).Keeps c

theorem keeps_libSoftmax : LibRow.Keeps libSoftmax := fun _ _ _ _ _ hs => by
  unfold libSoftmax
  refine keeps_vLoadAt fun _ _ => ?_
  refine keeps_withMarks fun _ => ?_
  refine keeps_vStoreAt hs fun _ _ ht => ?_
  exact ht

theorem keeps_libAttn : LibRow.Keeps libAttn := fun o s v d c hs => by
  unfold libAttn
  dsimp only
  split
  · trivial
  · split
    · trivial
    · exact keeps_withMarks fun _ => keeps_vStoreAt hs fun _ _ ht => id ht

theorem memPolicies_chooseToken (s : State) (v : VEngine) (o id : Nat) : (s.chooseToken v o id).memPolicies = s.memPolicies := by
  unfold State.chooseToken
  split <;> rfl

theorem keeps_libGreedy : LibRow.Keeps libGreedy := fun _ _ _ _ _ hs => by
  unfold libGreedy
  refine keeps_vLoadAt fun _ _ => ?_
  refine keeps_withMarks fun _ => ?_
  refine keeps_vStoreAt hs fun _ _ ht => ?_
  exact (memPolicies_chooseToken ..).trans ht

theorem keeps_libPack : LibRow.Keeps libPack := fun _ _ _ _ _ hs => by
  unfold libPack
  refine keeps_vLoadAt fun _ _ => ?_
  refine keeps_withMarks fun _ => ?_
  refine keeps_vStoreAt hs fun _ _ ht => ?_
  exact ht

theorem keeps_libUnpack : LibRow.Keeps libUnpack := fun o s v d c hs => by
  unfold libUnpack
  dsimp only
  split
  · trivial
  · split
    · trivial
    · exact keeps_vLoadAt fun _ _ => keeps_withMarks fun _ => keeps_vStoreAt hs fun _ _ ht => id ht

theorem keeps_libOptimiser (adamw : Bool) : LibRow.Keeps (libOptimiser adamw) := fun o s v d c hs => by
  unfold libOptimiser
  extract_lets n at_ pb fill
  have hfill : ∀ k : State → VEngine → VEnd, (∀ t w, t.memPolicies = c → (k t w).Keeps c) → (fill k).Keeps c := fun k hk => by
    simp only [fill]
    split
    · exact keeps_vStoreAt hs hk
    · exact hk _ _ hs
  refine hfill _ fun t w ht => keeps_vLoadAt fun _ _ => keeps_vLoadAt fun _ _ => keeps_vLoadAt fun _ _ => keeps_vLoadAt fun _ _ =>
    keeps_vLoadAt fun _ _ => ?_
  extract_lets second
  have hsecond : ∀ k : List Byte → Mark → VEnd, (∀ b m, (k b m).Keeps c) → (second k).Keeps c := fun k hk => by
    simp only [second]
    split
    · exact keeps_vLoadAt hk
    · exact hk _ _
  refine hsecond _ fun _ _ => ?_
  refine keeps_withMarks fun _ => keeps_vStoreAt ht fun _ _ h1 => keeps_vStoreAt h1 fun _ _ h2 => keeps_vStoreAt h2 fun _ _ h3 => ?_
  split
  · exact keeps_vStoreAt h3 fun _ _ h4 => h4
  · exact h3

theorem keeps_libBody {start : Nat} {row : LibRow} (h : libBody start = some row) : row.Keeps := by
  unfold libBody at h
  split at h
  · cases h; exact keeps_libSoftmax
  · cases h; exact keeps_libAttn
  · cases h; exact keeps_libOptimiser true
  · cases h; exact keeps_libOptimiser false
  · cases h; exact keeps_libGreedy
  · cases h; exact keeps_libPack
  · cases h; exact keeps_libUnpack
  · cases h

theorem keeps_libRows {row : LibRow} (hrow : row.Keeps) (l : List Nat) : ∀ (s : State) (v : VEngine), s.memPolicies = c →
    (libRows row l s v).Keeps c := by
  induction l with
  | nil => exact fun _ _ hs => hs
  | cons o os ih =>
    intro s v hs
    unfold libRows
    split
    · exact hs
    · have hr := hrow o s v (vdesc v.desc) c hs
      split
      next e => rw [e] at hr; exact ih _ _ hr
      · exact hr

/-- An effect of a library body settled. -/
theorem memPolicies_libEnd (h : PoliciesOff s) {k : State → VEngine → State} (hk : ∀ (x : State) w, (k x w).memPolicies = x.memPolicies)
    {e : VEnd} (he : e.Keeps s.memPolicies) (ht : s.libEnd v k e = some t) : t.memPolicies = s.memPolicies := by
  cases e with
  | wait =>
    rw [State.libEnd, Option.ite_none_left_eq_some] at ht
    obtain ⟨-, ht⟩ := ht
    cases ht
    exact memPolicies_vIsolate ..
  | ok x w evs m => cases ht; exact (hk x w).trans he
  | iso tag => cases ht; exact memPolicies_vFinish h v 0 3 (by simp)
  | tile => cases ht; exact memPolicies_vFinish h v 0 3 (by simp)
  | bad m => cases ht; exact memPolicies_vFinish h v 0 3 (by simp)

theorem memPolicies_libRun (h : PoliciesOff s) (ht : s.libRun v = some t) : t.memPolicies = s.memPolicies := by
  unfold State.libRun at ht
  split at ht
  · cases ht; rfl
  next row hb =>
    exact memPolicies_libEnd h (fun x w => (memPolicies_trapJob (x.setVEngine w) ..).trans rfl) (keeps_libRows (keeps_libBody hb) _ s v rfl) ht

theorem keeps_strictStage (s : State) (v : VEngine) : (s.strictStage v).Keeps s.memPolicies := by
  unfold State.strictStage
  refine keeps_vLoadAt fun _ _ => keeps_vLoadAt fun _ _ => keeps_withMarks fun _ => ?_
  have hst : ∀ (x : State) n m bs, (x.stageRows v n m bs).memPolicies = x.memPolicies := fun _ _ _ _ => memPolicies_modCluster ..
  dsimp only [VEnd.Keeps]
  split
  · exact (hst ..).trans ((hst ..).trans (hst ..))
  · exact (hst ..).trans (hst ..)

theorem memPolicies_strictStep (h : PoliciesOff s) (ht : s.strictStep v true = some t) : t.memPolicies = s.memPolicies :=
  memPolicies_libEnd h (k := fun s x => s.setVEngine x) (fun _ _ => rfl) (keeps_strictStage s v) ht

end Bodies

end Sys2Proof.Machine
end
section
/-!
PROOF. Vector descriptors start (R104, R192, R198, R215, R219).
-/

namespace Sys2Proof.Machine

variable {s t u : State} {die : Die} {q : BitVec 32} {op : BitVec 20} {words : List Word} {x : Issue} {cs : List (Nat × Phys)}

/-! ## Gloves for a descriptor -/

theorem unworn_wearFor (s : State) (x : Issue) (die : Die) (cs : List (Nat × Phys)) : (s.wearFor x die cs).unworn = s.unworn := by
  have hone : ∀ (s : State) c g, (s.wearOnce die c g).unworn = s.unworn := fun s c g => by
    unfold State.wearOnce
    split
    · rfl
    · exact unworn_wear ..
  unfold State.wearFor
  split
  · split
    · exact foldl_keeps (g := State.unworn) (fun s (c : Nat × Phys) => hone s c.2 _) cs s
    · rfl
  · rfl

/-! ## Engines that start -/

/-- An engine as it starts a descriptor. -/
def State.newEngine (s : State) (die : Die) (words : List Word) (q : BitVec 32) (op : BitVec 20) (c : Nat × Phys) : VEngine :=
  let v := { VEngine.load ⟨die, c.2⟩ words q op with seed := s.vectorSeed die c.1 (vdesc words) }
  if (vdesc words).library then { v with emitted := words, finished := false } else v

/-- The engines of a descriptor's clusters hold it. -/
def State.loadEngines (s : State) (die : Die) (cs : List (Nat × Phys)) (words : List Word) (q : BitVec 32) (op : BitVec 20) : State :=
  { s with vengines := (s.vengines.filter fun v => !((cs.map (s.newEngine die words q op)).any fun n => n.u == v.u)) ++
      cs.map (s.newEngine die words q op) }

theorem u_newEngine (s : State) (die : Die) (words : List Word) (q : BitVec 32) (op : BitVec 20) (c : Nat × Phys) :
    (s.newEngine die words q op c).u = ⟨die, c.2⟩ := by
  unfold State.newEngine
  dsimp only
  split <;> rfl

theorem newEngine_program (h : (vdesc words).library = false) (c : Nat × Phys) :
    s.newEngine die words q op c = { VEngine.load ⟨die, c.2⟩ words q op with seed := s.vectorSeed die c.1 (vdesc words) } := by
  unfold State.newEngine
  rw [h]
  rfl

/-- A library descriptor's engines run their body one after another. -/
def State.runLibrary (s : State) (start : Nat) (l : List VEngine) : Option State :=
  l.foldl (fun (acc : Option State) v => acc.bind fun s => if start = 0xf0001 then s.strictStep v true else s.libRun v) (some s)

theorem startVector_eq (s : State) (die : Die) (cs : List (Nat × Phys)) (words : List Word) (q : BitVec 32) (op : BitVec 20) :
    s.startVector die cs words q op = if !(vdesc words).library then some (s.loadEngines die cs words q op)
      else (s.loadEngines die cs words q op).runLibrary (vdesc words).bodyStart (cs.map (s.newEngine die words q op)) := rfl

theorem startVector_program (h : (vdesc words).library = false) : s.startVector die cs words q op = some (s.loadEngines die cs words q op) :=
  (startVector_eq ..).trans (if_pos (by simp [h]))

theorem startVector_library (h : (vdesc words).library = true) : s.startVector die cs words q op =
    (s.loadEngines die cs words q op).runLibrary (vdesc words).bodyStart (cs.map (s.newEngine die words q op)) :=
  (startVector_eq ..).trans (if_neg (by simp [h]))

theorem memPolicies_runLibrary {start : Nat} (l : List VEngine) : ∀ s : State, PoliciesOff s → s.runLibrary start l = some t →
    t.memPolicies = s.memPolicies := by
  induction l with
  | nil => exact fun s _ h => by cases h; rfl
  | cons v l ih =>
    intro s hoff h
    rw [State.runLibrary, List.foldl_cons, Option.bind_some] at h
    cases hv : (if start = 0xf0001 then s.strictStep v true else s.libRun v) with
    | none =>
      rw [hv, foldl_bind_none] at h
      cases h
    | some w =>
      rw [hv] at h
      have hw : w.memPolicies = s.memPolicies := by
        split at hv
        · exact memPolicies_strictStep hoff hv
        · exact memPolicies_libRun hoff hv
      exact (ih w (policiesOff_of_memPolicies hoff hw) h).trans hw

/-! ## VECTOR_DESCRIPTOR -/

/-- A descriptor that is none, or none that can run. -/
def badVector (words : List Word) : Bool :=
  words.length != 12 || (vdesc words).op != 0x10 || (vdesc words).inner = 0 || (vdesc words).outer = 0 ||
    decide ((vdesc words).bodyLen < (vdesc words).opro + (vdesc words).pro + (vdesc words).epi + (vdesc words).oepi)

theorem badVector_iff : badVector words = false ↔ words.length = 12 ∧ (vdesc words).op = 0x10 ∧ (vdesc words).inner ≠ 0 ∧
    (vdesc words).outer ≠ 0 ∧ (vdesc words).opro + (vdesc words).pro + (vdesc words).epi + (vdesc words).oepi ≤ (vdesc words).bodyLen := by
  simp [badVector, and_assoc]

/-- The engines of a vector descriptor start, or it waits. -/
def State.vectorStarts (s : State) (x : Issue) (die : Die) (q : BitVec 32) (op : BitVec 20) (words : List Word) : State :=
  let cs := s.namedClusters die (vdesc words).clusterMask
  if cs.any fun c => (s.vengine? ⟨die, c.2⟩).isSome then s
  else ((s.wearFor x die cs).startVector die cs words q op).getD s

theorem vectorDescriptor_waits (h : badVector words = true ∨ s.issue? die q op words (vdesc words).clusterMask none = none) :
    Answers (.vectorDescriptor die q op words) s fun t => t = s := by
  refine ⟨_, rfl, ?_⟩
  by_cases hb : badVector words = true
  · exact if_pos hb
  · refine (if_neg hb).trans ?_
    rw [h.resolve_left hb]

theorem vectorDescriptor_starts {P : State → Prop} (hb : badVector words = false)
    (hx : s.issue? die q op words (vdesc words).clusterMask none = some x) (hm : Nat.log2 (vdesc words).clusterMask < (s.die die).map.length)
    (hP : P (s.vectorStarts x die q op words)) : Answers (.vectorDescriptor die q op words) s P := by
  refine ⟨_, rfl, ?_⟩
  have e : (if badVector words then s
      else match s.issue? die q op words (vdesc words).clusterMask none with
        | none => s
        | some x =>
          if (s.die die).map.length < Nat.log2 (vdesc words).clusterMask + 1 then s.endJob x.st q Code.resetAborted
          else s.vectorStarts x die q op words) = s.vectorStarts x die q op words := by
    rw [hb, hx]
    exact (if_neg Bool.false_ne_true).trans (if_neg (by omega))
  exact e ▸ hP

theorem vectorStarts_busy (h : ∃ c ∈ s.namedClusters die (vdesc words).clusterMask, (s.vengine? ⟨die, c.2⟩).isSome = true) :
    s.vectorStarts x die q op words = s := if_pos (List.any_eq_true.2 h)

theorem vectorStarts_free (h : ∀ c ∈ s.namedClusters die (vdesc words).clusterMask, s.vengine? ⟨die, c.2⟩ = none) :
    s.vectorStarts x die q op words = ((s.wearFor x die (s.namedClusters die (vdesc words).clusterMask)).startVector die
      (s.namedClusters die (vdesc words).clusterMask) words q op).getD s :=
  if_neg fun hb => by
    obtain ⟨c, hc, hv⟩ := List.any_eq_true.1 hb
    rw [h c hc] at hv
    cases hv

/-- What the start of a program's descriptor leaves. -/
structure State.EnginesLoaded (s t : State) (die : Die) (cs : List (Nat × Phys)) (words : List Word) (q : BitVec 32) (op : BitVec 20) : Prop where
  frame : ({ t with vengines := s.vengines, clusters := s.clusters, useClock := s.useClock } : State) = s
  others : ∀ v ∈ s.vengines, (∀ c ∈ cs, v.u ≠ ⟨die, c.2⟩) → v ∈ t.vengines
  loaded : ∀ c ∈ cs, ∃ v ∈ t.vengines, ∃ seed, v = { VEngine.load ⟨die, c.2⟩ words q op with seed := seed }

theorem enginesLoaded (h : (vdesc words).library = false) (hu : u.unworn = s.unworn) :
    s.EnginesLoaded (u.loadEngines die cs words q op) die cs words q op := by
  have hv : u.vengines = s.vengines := eq_of_unworn (f := State.vengines) (fun _ => rfl) hu
  refine ⟨?_, fun v hvm hne => List.mem_append_left _ (List.mem_filter.2 ⟨hv ▸ hvm, ?_⟩), fun c hc => ?_⟩
  · exact congrArg (fun v : State => { v with vengines := s.vengines, clusters := s.clusters, useClock := s.useClock }) hu
  · rw [Bool.not_eq_true', List.any_eq_false]
    intro n hn
    obtain ⟨c, hc, rfl⟩ := List.mem_map.1 hn
    rw [u_newEngine]
    simpa using fun e => hne c hc e.symm
  · exact ⟨_, List.mem_append_right _ (List.mem_map_of_mem hc), _, newEngine_program h c⟩

theorem vectorDescriptorsStart : VectorDescriptorsStart := by
  intro s die q op words
  have hok : ∀ {P : Prop}, (words.length = 12 ∧ (vdesc words).op = 0x10 ∧ (vdesc words).inner ≠ 0 ∧
    (vdesc words).outer ≠ 0 ∧ (vdesc words).opro + (vdesc words).pro + (vdesc words).epi + (vdesc words).oepi ≤ (vdesc words).bodyLen) →
    (badVector words = false → P) → P := fun hv h => h (badVector_iff.2 hv)
  refine ⟨fun h => vectorDescriptor_waits (h.imp_left fun hv => ?_), fun x hx hm hbusy => ?_, fun x hv hx hm hl hfree => ⟨fun hn => ?_, fun hoff => ?_⟩,
    fun x hv hx hm hl hfree => ?_⟩
  · rw [← Bool.not_eq_false]
    exact fun hb => hv (badVector_iff.1 hb)
  · by_cases hb : badVector words = true
    · exact vectorDescriptor_waits (.inl hb)
    · exact vectorDescriptor_starts (Bool.not_eq_true _ ▸ hb) hx hm (vectorStarts_busy hbusy)
  · refine vectorDescriptor_starts (badVector_iff.2 hv) hx hm ?_
    rw [vectorStarts_free hfree, hn]
    rfl
  · refine vectorDescriptor_starts (badVector_iff.2 hv) hx hm ?_
    rw [vectorStarts_free hfree]
    have hw : (s.wearFor x die (s.namedClusters die (vdesc words).clusterMask)).memPolicies = s.memPolicies :=
      eq_of_unworn (f := State.memPolicies) (fun _ => rfl) (unworn_wearFor ..)
    generalize s.wearFor x die (s.namedClusters die (vdesc words).clusterMask) = w at *
    rw [startVector_library hl]
    cases ht : State.runLibrary _ _ _ with
    | none => rfl
    | some t =>
      have h := memPolicies_runLibrary _ (w.loadEngines die _ words q op) (policiesOff_of_memPolicies hoff hw) ht
      exact congrArg Prod.fst (h.trans hw)
  · refine vectorDescriptor_starts (badVector_iff.2 hv) hx hm ?_
    rw [vectorStarts_free hfree, startVector_program hl]
    obtain ⟨hframe, hothers, hloaded⟩ := enginesLoaded (die := die) (cs := s.namedClusters die (vdesc words).clusterMask) (q := q) (op := op) hl
      (unworn_wearFor s x die (s.namedClusters die (vdesc words).clusterMask))
    refine ⟨hframe, hothers, fun c hc => ?_⟩
    obtain ⟨v, hv, seed, rfl⟩ := hloaded c hc
    refine ⟨_, hv, rfl, rfl, rfl, rfl, rfl, fun r hr => (List.mem_replicate.1 hr).2, rfl, fun r hr => (List.mem_replicate.1 hr).2, rfl,
      fun _ _ => rfl, fun k hk => (List.mem_replicate.1 hk).2, rfl, rfl⟩

end Sys2Proof.Machine
end
section
/-!
PROOF. Descriptors retire (R63, R71, R115, R136, R137, R188, R214, R220).
-/

namespace Sys2Proof.Machine

variable {s t u : State} {die : Die} {st : Fin 4096} {q : BitVec 32} {op : BitVec 20} {f : Flight} {j : Job} {k : Machine.Counts} {n : Nat}

/-! ## Pass 2 -/

theorem getElem?_updFirst {α : Type} {p : α → Bool} {g : α → α} {l : List α} {n : Nat} {a : α} (h : l[n]? = some a) :
    (updFirst p g l)[n]? = some a ∨ (l.find? p = some a ∧ (updFirst p g l)[n]? = some (g a)) := by
  induction l generalizing n with
  | nil => simp at h
  | cons b l ih =>
    by_cases hp : p b = true
    · cases n with
      | zero =>
        cases h
        exact .inr (by simp [updFirst, hp])
      | succ n => exact .inl (by simpa [updFirst, hp] using h)
    · cases n with
      | zero => exact .inl (by simpa [updFirst, hp] using h)
      | succ n =>
        have h' : l[n]? = some a := by simpa using h
        simpa [updFirst, hp] using ih h'

/-- Rows written out change tensors alone. -/
theorem writeOut_tensors (s : State) (x : Issue) (d : MDesc) (clusters : Nat) (exps : List Int) (rows : List RowOut) (k : Machine.Counts) :
    ({ (s.writeOut x d die clusters exps rows k).1 with tensors := [] } : State) = { s with tensors := [] } := by
  unfold State.writeOut State.outTensor
  split
  · rfl
  · dsimp only
    split <;> rfl

/-- The descriptor of a stream's job on a die. -/
def Flight.isOp (f : Flight) (die : Die) (st : Fin 4096) (q : BitVec 32) (op : BitVec 20) : Bool :=
  f.die == die && f.stream == st && f.issue.jobSeq == q && f.issue.opIndex == op

theorem Flight.isOp_iff : f.isOp die st q op = true ↔ f.die = die ∧ f.stream = st ∧ f.issue.jobSeq = q ∧ f.issue.opIndex = op := by
  simp [Flight.isOp, and_assoc]

theorem isOp_of_find (hf : s.flights.find? (fun f => f.isOp die st q op) = some f) :
    f.die = die ∧ f.stream = st ∧ f.issue.jobSeq = q ∧ f.issue.opIndex = op := by
  have h := List.find?_some hf
  exact Flight.isOp_iff.1 h

theorem scalePass2_waits (h : s.flights.find? (fun f => f.isOp die st q op && f.phase == 1) = none ∨ s.cabOfDie die = none) :
    Answers (.scalePass2 die st q op) s fun t => t = s := by
  refine ⟨_, rfl, ?_⟩
  change s.flights.find? (fun f => f.die == die && f.stream == st && f.issue.jobSeq == q && f.issue.opIndex == op && f.phase == 1) = none ∨ _ at h
  rcases h with h | h
  · simp only [h]
  · simp only [h]
    split
    next hc => cases hc
    · rfl

theorem scalePass2_runs {c : Cab} (hf : s.flights.find? (fun f => f.isOp die st q op && f.phase == 1) = some f) (hc : s.cabOfDie die = some c) :
    Answers (.scalePass2 die st q op) s fun t => ∃ (v : State) (k : Machine.Counts), ({ v with tensors := [] } : State) = { s with tensors := [] } ∧
      t = { v with flights := updFirst (fun f => f.isOp die st q op && f.phase == 1) (fun f => { f with phase := 2, counts := k }) v.flights } := by
  change s.flights.find? (fun f => f.die == die && f.stream == st && f.issue.jobSeq == q && f.issue.opIndex == op && f.phase == 1) = _ at hf
  refine ⟨_, rfl, ?_⟩
  simp only [hf, hc]
  exact ⟨_, _, writeOut_tensors .., rfl⟩

/-! ## Retirement -/

/-- The state without clusters. -/
def State.unclustered (s : State) : State := { s with clusters := [] }

theorem unclustered_modCluster (s : State) (d : Die) (c : Phys) (f : ClusterSt → ClusterSt) : (s.modCluster d c f).unclustered = s.unclustered := by
  unfold State.modCluster
  split <;> rfl

theorem unclustered_freeBufs (s : State) (d : Die) (m : MDesc) : (s.freeBufs d m).unclustered = s.unclustered := by
  unfold State.freeBufs
  split
  · rfl
  · exact foldl_keeps (g := State.unclustered) (fun _ _ => unclustered_modCluster ..) _ s

theorem eq_of_unclustered {α : Type} {f : State → α} (hf : ∀ s : State, f s.unclustered = f s) (h : t.unclustered = s.unclustered) :
    f t = f s := by
  rw [← hf t, ← hf s, h]

/-- A descriptor of a job is noted as retired: its status record, its place in the die's queue, its job's count. -/
def State.noteDesc (s : State) (d : Die) (st : Fin 4096) (q : BitVec 32) (op : BitVec 20) (k : Machine.Counts) (clusters : Nat) (j : Job) : State :=
  ((s.modTensor st j.status d fun t => t.write (64 * (op.toNat - j.entry)) (wordsToBytes (statusWords st q op k clusters s.now))).modDie d
    fun x => { x with queue := x.queue ++ [(st, q, op)] }).modJob st q fun j => { j with retired := j.retired + 1 }

theorem retireDesc_none {clusters : Nat} (hj : s.job? st q = none) : s.retireDesc die st q op k clusters = s := by
  rw [State.retireDesc, hj]

theorem retireDesc_eq {clusters : Nat} (hj : s.job? st q = some j) (h2 : j.phase ≠ 2) : s.retireDesc die st q op k clusters =
    if j.count * (diesOf j.dies).length ≤ j.retired + 1 then (s.noteDesc die st q op k clusters j).endJob st q Code.ok
    else s.noteDesc die st q op k clusters j := by
  rw [State.retireDesc, hj]
  exact if_neg h2

theorem job?_stream_seq (hj : s.job? st q = some j) : j.stream = st ∧ j.seq = q := by
  simpa using List.find?_some hj

theorem job?_noteDesc {clusters : Nat} (hj : s.job? st q = some j) :
    (s.noteDesc die st q op k clusters j).job? st q = some { j with retired := j.retired + 1 } := by
  refine find?_updFirst hj ?_
  simpa using job?_stream_seq hj

theorem tensor?_noteDesc {clusters : Nat} {b : Tensor} (hb : s.tensor? st j.status die = some b) :
    (s.noteDesc die st q op k clusters j).tensor? st j.status die =
      some (b.write (64 * (op.toNat - j.entry)) (wordsToBytes (statusWords st q op k clusters s.now))) := by
  have hp := List.find?_some hb
  exact find?_updFirst hb hp

theorem queue_noteDesc {clusters : Nat} (hd : s.dies.length = 16) :
    ((s.noteDesc die st q op k clusters j).die die).queue = (s.die die).queue ++ [(st, q, op)] := by
  have hlt : die.val < s.dies.length := by rw [hd]; exact die.isLt
  change ((updAt die.val (fun x : DieSt => { x with queue := x.queue ++ [(st, q, op)] }) s.dies).getD die.val DieSt.reset).queue = _
  rw [getD_updAt, if_pos ⟨rfl, hlt⟩]
  rfl

/-- A matrix descriptor leaves the scoreboard and its buffers. -/
def State.leaveBoard (s : State) (f : Flight) : State := ({ s with flights := s.flights.erase f } : State).freeBufs f.die (mdesc f.issue.words)

theorem leaveBoard_leaves (s : State) (f : Flight) :
    (s.leaveBoard f).unclustered = ({ s with flights := s.flights.erase f } : State).unclustered := unclustered_freeBufs ..

/-- What reads neither clusters nor the scoreboard reads the same. -/
theorem kept_by_leaveBoard {α : Type} (g : State → α) (hc : ∀ s : State, g s.unclustered = g s)
    (hl : ∀ (s : State) l, g { s with flights := l } = g s) : g (s.leaveBoard f) = g s :=
  (eq_of_unclustered hc (leaveBoard_leaves s f)).trans (hl s _)

theorem retireMatrix_eq (ht : f.traps = []) : s.retireMatrix f =
    (s.leaveBoard f).retireDesc f.die f.stream f.issue.jobSeq f.issue.opIndex f.counts f.clusters.toNat := by
  unfold State.retireMatrix State.leaveBoard
  rw [ht]
  exact congrArg (fun v : State => v.retireDesc _ _ _ _ _ _) (ite_self _)

section Retire

variable (hr : s.cpRuns = true)

include hr

theorem descriptorRetire_flight {P : State → Prop} (hf : s.flights.find? (fun f => f.isOp die st q op) = some f)
    (hP : P (if f.phase = 2 then s.retireMatrix f else s)) : Answers (.descriptorRetire die st q op) s P := by
  change s.flights.find? (fun f => f.die == die && f.stream == st && f.issue.jobSeq == q && f.issue.opIndex == op) = _ at hf
  refine ⟨_, rfl, ?_⟩
  simp only [hr, hf]
  exact hP

theorem descriptorRetire_vector {P : State → Prop} (hf : s.flights.find? (fun f => f.isOp die st q op) = none)
    (hs : s.strictGoesOn die st q op = some s) (hP : P (s.retireVector die st q op)) : Answers (.descriptorRetire die st q op) s P := by
  change s.flights.find? (fun f => f.die == die && f.stream == st && f.issue.jobSeq == q && f.issue.opIndex == op) = _ at hf
  refine ⟨_, rfl, ?_⟩
  simp only [hr, hf, hs]
  exact hP

end Retire

/-! ## Vector descriptors -/

theorem strictGoesOn_stays (h : ∀ v ∈ s.vengines.filter fun v => v.isOp die st q op, v.body = []) : s.strictGoesOn die st q op = some s := by
  unfold State.strictGoesOn
  extract_lets vs more
  split
  · rfl
  · have hm : more = [] := List.filter_eq_nil_iff.2 fun v hv => by simp [h v hv]
    rw [hm]
    rfl

theorem strictGoesOn_runs {v : VEngine} (hv : v ∈ s.vengines.filter fun v => v.isOp die st q op) (h : v.finished = false ∧ v.stopped = false) :
    s.strictGoesOn die st q op = some s := by
  unfold State.strictGoesOn
  refine if_pos ?_
  rw [Bool.not_eq_true', List.all_eq_false]
  exact ⟨v, hv, by simp [h]⟩

/-- An engine that has retired a descriptor holds none. -/
def VEngine.retired (v : VEngine) (die : Die) (st : Fin 4096) (q : BitVec 32) (op : BitVec 20) : VEngine :=
  if v.isOp die st q op then { v with desc := [], emitted := [], body := [], undo := [] } else v

theorem VEngine.isOp_retired (v : VEngine) (die : Die) (st : Fin 4096) (q : BitVec 32) (op : BitVec 20) :
    (v.retired die st q op).isOp die st q op = false := by
  unfold VEngine.retired
  split
  · simp [VEngine.isOp, VEngine.holds]
  next h => simpa using h

/-- The engines of a descriptor hold it no more. -/
def State.clearEngines (s : State) (die : Die) (st : Fin 4096) (q : BitVec 32) (op : BitVec 20) : State :=
  { s with vengines := s.vengines.map fun v => v.retired die st q op }

theorem retireVector_stays (h : (s.vengines.filter fun v => v.isOp die st q op) = [] ∨
    ∃ v ∈ s.vengines.filter fun v => v.isOp die st q op, v.finished = false ∧ v.stopped = false) : s.retireVector die st q op = s := by
  refine if_pos ?_
  rcases h with h | ⟨v, hv, h⟩
  · simp [h]
  · have hall : ((s.vengines.filter fun v => v.isOp die st q op).all fun v => v.finished || v.stopped) = false :=
      List.all_eq_false.2 ⟨v, hv, by simp [h]⟩
    simp [hall]

theorem retireVector_job (hne : (s.vengines.filter fun v => v.isOp die st q op) ≠ [])
    (hall : ∀ v ∈ s.vengines.filter fun v => v.isOp die st q op, v.finished = true ∨ v.stopped = true) (hj : s.job? st q = some j) :
    ∃ k clusters, s.retireVector die st q op = (s.clearEngines die st q op).retireDesc die st q op k clusters := by
  have hall' : ((s.vengines.filter fun v => v.isOp die st q op).all fun v => v.finished || v.stopped) = true :=
    List.all_eq_true.2 fun v hv => by simpa using hall v hv
  refine ⟨_, _, (if_neg (by simp [hne, hall'])).trans (congrArg (fun v : State => v.retireDesc _ _ _ _ _ _) (if_pos ?_))⟩
  have hj' : (s.clearEngines die st q op).job? st q = some j := hj
  exact Option.isSome_iff_exists.2 ⟨j, hj'⟩

/-! ## A descriptor of a job -/

/-- What a matrix descriptor leaves that retires without ending its job. -/
structure State.Noted (s t : State) (f : Flight) (j : Job) : Prop where
  queue : (t.die f.die).queue = (s.die f.die).queue ++ [(f.stream, f.issue.jobSeq, f.issue.opIndex)]
  record : ∀ b, s.tensor? f.stream j.status f.die = some b → t.tensor? f.stream j.status f.die =
    some (b.write (64 * (f.issue.opIndex.toNat - j.entry))
      (wordsToBytes (statusWords f.stream f.issue.jobSeq f.issue.opIndex f.counts f.clusters.toNat s.now)))
  job : t.job? f.stream f.issue.jobSeq = some { j with retired := j.retired + 1 }
  mem : t.mem = s.mem
  tiles : t.tiles = s.tiles
  grants : t.grants = s.grants
  requests : t.requests = s.requests
  rot : t.rot = s.rot
  cp : t.cp = s.cp

theorem noted_noteDesc (hj : s.job? f.stream f.issue.jobSeq = some j) (hd : s.dies.length = 16) :
    s.Noted (s.noteDesc f.die f.stream f.issue.jobSeq f.issue.opIndex f.counts f.clusters.toNat j) f j :=
  ⟨queue_noteDesc hd, fun _ hb => tensor?_noteDesc hb, job?_noteDesc hj, rfl, rfl, rfl, rfl, rfl, rfl⟩

section Board

variable (hj : s.job? f.stream f.issue.jobSeq = some j)

include hj

theorem job?_leaveBoard : (s.leaveBoard f).job? f.stream f.issue.jobSeq = some j :=
  (kept_by_leaveBoard (fun s => s.job? f.stream f.issue.jobSeq) (fun _ => rfl) fun _ _ => rfl).trans hj

variable (ht : f.traps = []) (h2 : j.phase ≠ 2)

include ht h2

theorem retireMatrix_goesOn (hd : s.dies.length = 16) (hl : ¬j.count * (diesOf j.dies).length ≤ j.retired + 1) :
    (s.retireMatrix f).flights = s.flights.erase f ∧ s.Noted (s.retireMatrix f) f j := by
  have hj' := job?_leaveBoard hj
  rw [retireMatrix_eq ht, retireDesc_eq hj' h2, if_neg hl]
  have hdies : (s.leaveBoard f).dies = s.dies := kept_by_leaveBoard State.dies (fun _ => rfl) fun _ _ => rfl
  have hnow : (s.leaveBoard f).now = s.now := kept_by_leaveBoard State.now (fun _ => rfl) fun _ _ => rfl
  have hten : ∀ h, (s.leaveBoard f).tensor? f.stream h f.die = s.tensor? f.stream h f.die := fun h =>
    kept_by_leaveBoard (fun s => s.tensor? f.stream h f.die) (fun _ => rfl) fun _ _ => rfl
  have hmem : (s.leaveBoard f).mem = s.mem := kept_by_leaveBoard State.mem (fun _ => rfl) fun _ _ => rfl
  have htiles : (s.leaveBoard f).tiles = s.tiles := kept_by_leaveBoard State.tiles (fun _ => rfl) fun _ _ => rfl
  have hgrants : (s.leaveBoard f).grants = s.grants := kept_by_leaveBoard State.grants (fun _ => rfl) fun _ _ => rfl
  have hreq : (s.leaveBoard f).requests = s.requests := kept_by_leaveBoard State.requests (fun _ => rfl) fun _ _ => rfl
  have hrot : (s.leaveBoard f).rot = s.rot := kept_by_leaveBoard State.rot (fun _ => rfl) fun _ _ => rfl
  have hcp : (s.leaveBoard f).cp = s.cp := kept_by_leaveBoard State.cp (fun _ => rfl) fun _ _ => rfl
  have hfl : (s.leaveBoard f).flights = s.flights.erase f := eq_of_unclustered (f := State.flights) (fun _ => rfl) (leaveBoard_leaves s f)
  generalize s.leaveBoard f = v at *
  obtain ⟨n1, n2, n3, n4, n5, n6, n7, n8, n9⟩ := noted_noteDesc hj' (by rw [hdies]; exact hd)
  refine ⟨hfl, ?_, fun b hb => ?_, n3, n4.trans hmem, n5.trans htiles, n6.trans hgrants, n7.trans hreq, n8.trans hrot, n9.trans hcp⟩
  · rw [n1, State.die, hdies, State.die]
  · rw [n2 b ((hten _).trans hb), hnow]

theorem retireMatrix_last (hl : j.count * (diesOf j.dies).length ≤ j.retired + 1) (ha : s.awaits j.reply = true)
    (hb : ∀ k, j.reply.src ≠ .session k) : (s.retireMatrix f).job? f.stream f.issue.jobSeq = none ∧
      (s.retireMatrix f).answered j.reply f.issue.jobSeq.toNat Code.ok [] = true := by
  have hj' := job?_leaveBoard hj
  rw [retireMatrix_eq ht, retireDesc_eq hj' h2, if_pos hl]
  have hn := job?_noteDesc (die := f.die) (op := f.issue.opIndex) (k := f.counts) (clusters := f.clusters.toNat) hj'
  have hc : (s.leaveBoard f).cp.chans = s.cp.chans := kept_by_leaveBoard (fun s => s.cp.chans) (fun _ => rfl) fun _ _ => rfl
  generalize s.leaveBoard f = v at *
  have ha' : (v.noteDesc f.die f.stream f.issue.jobSeq f.issue.opIndex f.counts f.clusters.toNat j).awaits j.reply = true :=
    (awaits_of_chan (chan_of_chans hc _)).trans ha
  refine ⟨?_, answered_endJob hn Code.ok ha' hb⟩
  rw [State.job?, jobs_endJob, List.find?_eq_none]
  intro y hy
  have := (List.mem_filter.1 hy).2
  simpa [imp_iff_not_or] using this

end Board

theorem retireMatrix_noJob (ht : f.traps = []) (hj : s.job? f.stream f.issue.jobSeq = none) : s.retireMatrix f = s.leaveBoard f := by
  rw [retireMatrix_eq ht, retireDesc_none]
  exact (kept_by_leaveBoard (fun s => s.job? f.stream f.issue.jobSeq) (fun _ => rfl) fun _ _ => rfl).trans hj

theorem leaveBoard_frame (s : State) (f : Flight) : (s.leaveBoard f).flights = s.flights.erase f ∧
    ({ s.leaveBoard f with flights := s.flights, clusters := s.clusters } : State) = s := by
  have hl := leaveBoard_leaves s f
  have h := congrArg (fun v : State => ({ v with flights := s.flights, clusters := s.clusters } : State)) hl
  exact ⟨eq_of_unclustered (f := State.flights) (fun _ => rfl) hl, h⟩

theorem scalePass2_tensors (hd : s.flights.find? (fun f => f.isOp die st q op && f.phase == 1) ≠ none) (hc : s.cabOfDie die ≠ none) :
    Answers (.scalePass2 die st q op) s fun t => ({ t with flights := s.flights, tensors := s.tensors } : State) = s ∧
      t.flights.length = s.flights.length ∧ ∀ (n : Nat) (f : Flight), s.flights[n]? = some f → ∃ g : Flight, t.flights[n]? = some g ∧
        (g = f ∨ (some f = s.flights.find? (fun f => f.isOp die st q op && f.phase == 1) ∧ g.phase = 2 ∧
          ({ g with phase := f.phase, counts := f.counts } : Flight) = f)) := by
  obtain ⟨f, hf⟩ := Option.ne_none_iff_exists'.1 hd
  obtain ⟨c, hc⟩ := Option.ne_none_iff_exists'.1 hc
  obtain ⟨t, he, v, k, hv, rfl⟩ := scalePass2_runs hf hc
  have hfl : v.flights = s.flights := by
    have h := congrArg State.flights hv
    exact h
  refine ⟨_, he, ?_, ?_, fun n g hg => ?_⟩
  · have h := congrArg (fun v : State => ({ v with flights := s.flights, tensors := s.tensors } : State)) hv
    exact h
  · rw [hfl]
    exact length_updFirst ..
  · have hset := getElem?_updFirst (p := fun f => f.isOp die st q op && f.phase == 1) (g := fun f => { f with phase := 2, counts := k }) hg
    rw [hfl]
    rcases hset with hset | ⟨hdue, hset⟩
    · exact ⟨g, hset, .inl rfl⟩
    · exact ⟨_, hset, .inr ⟨hdue.symm, rfl, rfl⟩⟩

theorem descriptorsRetire : DescriptorsRetire := by
  intro s die st q op hr
  refine ⟨scalePass2_waits, scalePass2_tensors, fun f hf h2 => ?_, fun hf hv => ?_, fun f hf h2 ht hj => ?_, fun j hj h2 hlen =>
    ⟨fun f hf hp ht => ⟨fun hl => ?_, fun hl ha hb _ => ?_⟩, fun hf hne hall hl => ?_⟩⟩
  · exact descriptorRetire_flight hr hf (if_neg h2)
  · have hs : s.strictGoesOn die st q op = some s := by
      rcases hv with hv | ⟨v, hv, h⟩
      · exact strictGoesOn_stays fun v hm => absurd (hv ▸ hm) (by simp)
      · exact strictGoesOn_runs hv h
    exact descriptorRetire_vector hr hf hs (retireVector_stays hv)
  · refine descriptorRetire_flight hr hf ?_
    obtain ⟨rfl, rfl, rfl, rfl⟩ := isOp_of_find (die := die) (st := st) (q := q) (op := op) hf
    rw [if_pos h2, retireMatrix_noJob ht hj]
    exact leaveBoard_frame s f
  · refine descriptorRetire_flight hr hf ?_
    obtain ⟨rfl, rfl, rfl, rfl⟩ := isOp_of_find (die := die) (st := st) (q := q) (op := op) hf
    rw [if_pos hp]
    obtain ⟨n0, n1, n2, n3, n4, n5, n6, n7, n8, n9⟩ := retireMatrix_goesOn hj ht h2 hlen hl
    exact ⟨n0, n1, n2, ⟨_, n3, rfl⟩, n4, n5, n6, n7, n8, n9⟩
  · refine descriptorRetire_flight hr hf ?_
    obtain ⟨rfl, rfl, rfl, rfl⟩ := isOp_of_find (die := die) (st := st) (q := q) (op := op) hf
    rw [if_pos hp]
    exact retireMatrix_last hj ht h2 hl ha hb
  · refine descriptorRetire_vector hr hf (strictGoesOn_stays fun v hv => (hall v hv).1) ?_
    obtain ⟨k, clusters, he⟩ := retireVector_job hne (fun v hv => (hall v hv).2) hj
    have hj' : (s.clearEngines die st q op).job? st q = some j := hj
    rw [he, retireDesc_eq hj' h2, if_neg hl]
    refine ⟨fun v hv => ?_, ⟨_, job?_noteDesc hj', rfl⟩, rfl, rfl, rfl, rfl⟩
    obtain ⟨w, -, rfl⟩ := List.mem_map.1 (show v ∈ s.vengines.map fun v => v.retired die st q op from hv)
    exact w.isOp_retired die st q op

/-- Settles O54: vector descriptors start, then descriptors retire. -/
theorem descriptorsStartAndRetire : Obligations.DescriptorsStartAndRetire := ⟨vectorDescriptorsStart, descriptorsRetire⟩

end Sys2Proof.Machine
end
section
/-!
PROOF. The commands that read a record complete with it (R74, R364, R393, R405, R428, R434, R462, R489).
-/

namespace Sys2Proof.Machine

variable {s t u v : State} {r : Reply} {info : CmdInfo} {src : Src} {req : Req} {i : Instr} {off len code : Nat} {words : List Word}

/-- The state in which a command that goes through runs, for a record that is read there. -/
theorem exists_took (h : s.admits info src req = true) : ∃ t : State, s.Took (replyOf info src req) t ∧ t.edges = s.edges ∧
    ∀ body, s.ilnil info src req body = body (replyOf info src req) req.payload t := by
  obtain ⟨t, hrun, hq, hh, he, -⟩ := ilnil_runs h
  exact ⟨t, ⟨hq, hh⟩, he, hrun⟩

/-- A command that answers at once, on a state made of the one in which it was taken. -/
theorem State.Took.completes {body : Reply → List Word → State → State} (hv : u.Took (replyOf info src req) v)
    (hi : exec i s = .next (s.ilnil info src req body))
    (hrun : s.ilnil info src req body = v.complete (replyOf info src req) code words) : Completes i s info src req code words u :=
  ⟨_, hi, by rw [hrun, answered_complete code words hv.holds], by rw [hrun, quiet_complete, hv.quiet]⟩

/-! ## Records of the module -/

theorem bits_word (n hi lo : Nat) (h : hi < 64) : bits (word n) hi lo = n / 2 ^ lo % 2 ^ (hi + 1 - lo) := by
  rw [bits, fieldOf, word, BitVec.toNat_ofNat, Nat.shiftRight_eq_div_pow]
  by_cases hl : hi + 1 ≤ lo
  · rw [Nat.sub_eq_zero_of_le hl, pow_zero, Nat.mod_one, Nat.mod_one]
  · have hlo : lo ≤ hi := by omega
    rw [show 64 = lo + (64 - lo) by omega, Nat.pow_add, Nat.mod_mul_right_div_self]
    exact Nat.mod_mod_of_dvd _ (Nat.pow_dvd_pow 2 (by omega))

theorem queryCaps_completes (h : s.admits infoQueryCaps src req = true) : ∃ l,
    Completes (.queryCaps src req) s infoQueryCaps src req Code.ok l s ∧ l.length = 8 ∧
      bits (wordAt l 0) 31 0 = 0x93216 ∧ bits (wordAt l 2) 15 0 = s.activeClusters % 2 ^ 16 := by
  obtain ⟨t, ht, -, hrun⟩ := exists_took h
  refine ⟨t.caps, ht.completes rfl (hrun _), rfl, (bits_word _ _ _ (by decide)).trans rfl, ?_⟩
  have hw : wordAt t.caps 2 = word (put t.stacksInService 32 + put 64 16 + t.activeClusters) := rfl
  rw [hw, bits_word _ _ _ (by decide), ht.reads (f := State.activeClusters) fun _ => rfl]
  simp only [put, Nat.shiftLeft_eq]
  omega

theorem memoryStatus_completes (h : s.admits infoMemoryStatus src req = true) : ∃ l,
    Completes (.memoryStatus src req) s infoMemoryStatus src req Code.ok l s ∧
      let x := s.stk (Fin.ofNat 32 (bits (wordAt req.payload 0) 63 59))
      l.length = 4 ∧ (x.corrected < 2 ^ 32 → bits (wordAt l 0) 63 32 = x.corrected) ∧
        (x.uncorrectable < 2 ^ 32 → bits (wordAt l 0) 31 0 = x.uncorrectable) ∧ wordAt l 3 = BitVec.ofNat 64 x.patrolTime := by
  obtain ⟨t, ht, -, hrun⟩ := exists_took h
  have hw : t.memoryWords (Fin.ofNat 32 (bits (wordAt req.payload 0) 63 59)) =
      s.memoryWords (Fin.ofNat 32 (bits (wordAt req.payload 0) 63 59)) :=
    ht.reads (f := fun s => s.memoryWords (Fin.ofNat 32 (bits (wordAt req.payload 0) 63 59))) fun _ => rfl
  refine ⟨_, ht.completes rfl (hrun _), ?_⟩
  rw [hw]
  generalize Fin.ofNat 32 (bits (wordAt req.payload 0) 63 59) = k
  have h0 : wordAt (s.memoryWords k) 0 =
      word (put (min (s.stk k).corrected (2 ^ 32 - 1)) 32 + min (s.stk k).uncorrectable (2 ^ 32 - 1)) := rfl
  refine ⟨rfl, fun hc => ?_, fun hu => ?_, rfl⟩ <;>
    · rw [h0, bits_word _ _ _ (by decide), put, Nat.shiftLeft_eq]
      omega

/-- Sessions numbered without repetition: those of an edge die are no more than its share of the numbers. -/
theorem sessionsAt_le (h : (s.rot.sessions.map Session.n).Nodup) (e : Edge) :
    (s.rot.sessions.filter fun y => edgeOf y.n == e).length ≤ 2048 := by
  have hnd : ((s.rot.sessions.filter fun y => edgeOf y.n == e).map fun y => y.n.val).Nodup := by
    have := (h.sublist (List.filter_sublist (p := fun y => edgeOf y.n == e) |>.map Session.n)).map Fin.val_injective
    rwa [List.map_map] at this
  have hsub : ((s.rot.sessions.filter fun y => edgeOf y.n == e).map fun y => y.n.val) ⊆ List.range' (2048 * e.val) 2048 := by
    intro n hn
    obtain ⟨y, hy, rfl⟩ := List.mem_map.1 hn
    have he : edgeOf y.n = e := by simpa using (List.mem_filter.1 hy).2
    have hd : y.n.val / 2048 % 4 = e.val := by rw [← he]; rfl
    have := y.n.isLt
    rw [List.mem_range'_1]
    omega
  simpa using hnd.length_le_of_subset hsub

theorem getLsbD_word_top (n : Nat) : (word n).getLsbD 63 = decide (n / 2 ^ 63 % 2 = 1) := by
  rw [word, BitVec.getLsbD_ofNat, Nat.testBit_eq_decide_div_mod_eq]
  rfl

theorem edgeStatus_completes (h : s.admits infoEdgeStatus src req = true) (hids : s.idsUnique) : ∃ l,
    Completes (.edgeStatus src req) s infoEdgeStatus src req Code.ok l s ∧
      let x := s.edge (Fin.ofNat 4 (bits (wordAt req.payload 0) 63 62))
      l.length = 4 ∧ (wordAt l 0).getLsbD 63 = x.linkUp ∧ bits (wordAt l 0) 60 59 = x.attach.toNat := by
  obtain ⟨-, -, -, hs⟩ := hids
  obtain ⟨t, ht, hed, hrun⟩ := exists_took h
  refine ⟨_, ht.completes rfl (hrun _), ?_⟩
  generalize Fin.ofNat 4 (bits (wordAt req.payload 0) 63 62) = e
  have he : t.edge e = s.edge e := by rw [State.edge, State.edge, hed]
  have hn : t.rot.sessions.map Session.n = s.rot.sessions.map Session.n :=
    ht.reads (f := fun s => s.rot.sessions.map Session.n) fun s => by
      simp only [State.quiet, Rot.quiet, List.map_map]
      rfl
  have hle := sessionsAt_le (s := t) (by rw [hn]; exact hs) e
  have h0 : wordAt (t.edgeWords e) 0 = word (put (b2n (s.edge e).linkUp) 63 + put (s.edge e).pmd.val 61 + put (s.edge e).attach.toNat 59 +
      put ((t.rot.sessions.filter fun y => edgeOf y.n == e).length / 64 * 64) 47) := by rw [← he]; rfl
  generalize (t.rot.sessions.filter fun y => edgeOf y.n == e).length = k at hle h0
  have hp := (s.edge e).pmd.isLt
  have ha := (s.edge e).attach.isLt
  simp only [put, Nat.shiftLeft_eq] at h0
  refine ⟨rfl, ?_, ?_⟩
  · have hb : b2n (s.edge e).linkUp ≤ 1 := by cases (s.edge e).linkUp <;> decide
    rw [h0, getLsbD_word_top, show ∀ a b c d : Nat, a ≤ 1 → b < 3 → c < 4 → d ≤ 2048 →
      (a * 2 ^ 63 + b * 2 ^ 61 + c * 2 ^ 59 + d / 64 * 64 * 2 ^ 47) / 2 ^ 63 % 2 = a from fun a b c d _ _ _ _ => by omega]
    · cases (s.edge e).linkUp <;> rfl
    all_goals assumption
  · rw [h0, bits_word _ _ _ (by decide)]
    omega

theorem telemetryRead_completes (h : s.admits infoTelemetryRead src req = true) : ∃ l,
    Completes (.telemetryRead src req) s infoTelemetryRead src req Code.ok l s ∧
      l.length = 13 ∧ wordAt l 0 = BitVec.ofNat 64 s.telem.powerTime ∧ wordAt l 2 = BitVec.ofNat 64 s.telem.tempTime := by
  obtain ⟨t, ht, -, hrun⟩ := exists_took h
  have htel : t.telem = s.telem := ht.reads (f := State.telem) fun _ => rfl
  exact ⟨_, ht.completes rfl (hrun _), rfl, by rw [← htel]; rfl, by rw [← htel]; rfl⟩

/-! ## Records in control memory -/

/-- The entries that ERROR_LOG_READ writes, at most `n` from an ENTRY_SEQ (R462). -/
def CtDie.readPart (x : CtDie) (from_ : BitVec 32) (n : Nat) : List LogEntry := (x.log.drop (x.logStart from_)).take n

/-- What a read of `n` entries makes of the mark of the entries read (R462). -/
def CtDie.readMark (x : CtDie) (from_ : BitVec 32) (n : Nat) (old : BitVec 32) : BitVec 32 :=
  let after := x.oldestSeq + BitVec.ofNat 32 (x.logStart from_ + (x.readPart from_ n).length)
  if !(x.readPart from_ n).isEmpty && decide ((after - x.logRead).toNat < 2 ^ 31) then after else old

theorem modCt_congr {c : Ct} {f g : CtDie → CtDie} (h : f (s.ct c) = g (s.ct c)) : s.modCt c f = s.modCt c g :=
  congrArg (fun l => ({ s with cts := l } : State)) (updAt_congr h)

theorem State.Took.setLogRead (h : s.Took r t) {c : Ct} {n : BitVec 32} :
    (s.modCt c fun y => { y with logRead := n }).Took r (t.modCt c fun y => { y with logRead := n }) := h.modCt fun _ => rfl

theorem errorLogRead_completes (h : s.admits infoErrorLogRead src req = true)
    (hb : s.buffer? src (wordAt req.payload 0).toNat (wordAt req.payload 1).toNat = some off) :
    let c : Ct := Fin.ofNat 2 (b2n (bitAt (wordAt req.payload 2) 63))
    let part := (s.ct c).readPart (BitVec.ofNat 32 (bits (wordAt req.payload 2) 31 0)) ((wordAt req.payload 1).toNat / 64)
    ∃ n : BitVec 32, Completes (.errorLogRead src req) s infoErrorLogRead src req Code.ok
      [word (part.length * 2 ^ 32 + (s.ct c).oldestSeq.toNat)]
      ((s.writeCtl off (part.flatMap wordsToBytes)).modCt c fun y => { y with logRead := n }) := by
  intro c part
  obtain ⟨t, ht, -, hrun⟩ := exists_took h
  have hpart : (t.ct c).readPart _ _ = part := ht.ctField (f := fun x => x.readPart _ _) (fun _ => rfl) c
  have hold : (t.ct c).oldestSeq = (s.ct c).oldestSeq := ht.ctField (f := CtDie.oldestSeq) (fun _ => rfl) c
  have hw := ht.writeCtl (off := off) (bs := part.flatMap wordsToBytes)
  refine ⟨(t.ct c).readMark (BitVec.ofNat 32 (bits (wordAt req.payload 2) 31 0)) ((wordAt req.payload 1).toNat / 64)
    ((t.writeCtl off (part.flatMap wordsToBytes)).ct c).logRead, hw.setLogRead.completes rfl ((hrun _).trans ?_)⟩
  have hbuf : t.buffer? src (wordAt req.payload 0).toNat (wordAt req.payload 1).toNat = some off := ht.buffer.trans hb
  simp only [replyOf, hbuf]
  rw [← hold, ← hpart, ← Nat.shiftLeft_eq, modCt_congr (s := t.writeCtl off _) (c := c)]
  · rfl
  · rfl

theorem leBytes_length (n x : Nat) : (leBytes n x).length = n := by
  induction n generalizing x with
  | zero => rfl
  | succ n ih => rw [leBytes, List.length_cons, ih]

theorem length_wordsToBytes (ws : List Word) : (wordsToBytes ws).length = 8 * ws.length := by
  induction ws with
  | nil => rfl
  | cons w ws ih =>
    rw [wordsToBytes, List.flatMap_cons, List.length_append, leBytes_length, ← wordsToBytes, ih, List.length_cons]
    ring

/-- RESYNC on stream 0 writes a summary that is no longer than its buffer, and answers its size (R434). -/
theorem resync_completes (h : s.admits infoResync src req = true) (hsrc : ∀ n, src ≠ .session n)
    (hb : s.buffer? src (wordAt req.payload 0).toNat (wordAt req.payload 1).toNat = some off) :
    ∃ bs : List Byte,
      (bs.length ≤ (wordAt req.payload 1).toNat →
        Completes (.resync src req) s infoResync src req Code.ok [word bs.length] (s.writeCtl off bs)) ∧
      ((wordAt req.payload 1).toNat < bs.length →
        Completes (.resync src req) s infoResync src req Code.bufferTooSmall [word bs.length] s) := by
  obtain ⟨t, ht, -, hrun⟩ := exists_took h
  have hbuf : t.buffer? src (wordAt req.payload 0).toNat (wordAt req.payload 1).toNat = some off := ht.buffer.trans hb
  let all := t.summaryHead (t.ctOf src) (t.sections none (replyOf infoResync src req)) 0 ++
    (t.sections none (replyOf infoResync src req)).flatten.flatten
  have hmod : t.resyncModule (replyOf infoResync src req) req.payload =
      if (wordAt req.payload 1).toNat < 8 * all.length then
        t.complete (replyOf infoResync src req) Code.bufferTooSmall [word (8 * all.length)]
      else (t.writeCtl off (wordsToBytes all)).complete (replyOf infoResync src req) Code.ok [word (8 * all.length)] := by
    rw [State.resyncModule, show (replyOf infoResync src req).src = src from rfl, hbuf]
  obtain ⟨body, hexec, hbody⟩ : ∃ body, exec (.resync src req) s = .next (s.ilnil infoResync src req body) ∧
      body (replyOf infoResync src req) req.payload t = t.resyncModule (replyOf infoResync src req) req.payload := by
    refine ⟨_, rfl, ?_⟩
    cases src with
    | session n => exact absurd rfl (hsrc n)
    | _ => rfl
  refine ⟨wordsToBytes all, fun hl => ?_, fun hl => ?_⟩ <;> rw [length_wordsToBytes] at hl ⊢
  · exact ht.writeCtl.completes hexec ((hrun body).trans (hbody.trans (hmod.trans (if_neg (Nat.not_lt.2 hl)))))
  · exact ht.completes hexec ((hrun body).trans (hbody.trans (hmod.trans (if_pos hl))))

/-! ## Attestation -/

/-- Eight bytes of a word are read back as that word. -/
theorem bytesToWords_leBytes (n x : Nat) (bs : List Byte) : bytesToWords (n + 1) (leBytes 8 x ++ bs) = word x :: bytesToWords n bs := by
  have hne : leBytes 8 x ++ bs = BitVec.ofNat 8 x :: (leBytes 7 (x >>> 8) ++ bs) := rfl
  have hx : word (x % 256 ^ 8) = word x := BitVec.eq_of_toNat_eq (by simp [word])
  rw [hne, bytesToWords, ← hne, List.take_left' (leBytes_length 8 x), List.drop_left' (leBytes_length 8 x), ofLe_leBytes, hx]
  simp

theorem le_length_bytesToWords (n : Nat) (bs : List Byte) : min (8 * n) bs.length ≤ 8 * (bytesToWords n bs).length := by
  induction n generalizing bs with
  | zero => simp
  | succ n ih =>
    cases bs with
    | nil => simp
    | cons b bs =>
      have := ih ((b :: bs).drop 8)
      rw [List.length_drop] at this
      have hl : (bytesToWords (n + 1) (b :: bs)).length = (bytesToWords n ((b :: bs).drop 8)).length + 1 := rfl
      omega

/-- The third word of bytes that begin with words. -/
theorem wordAt_bytesToWords_two (n : Nat) (a b c : Word) (ws : List Word) (bs : List Byte) :
    wordAt (bytesToWords (n + 3) (wordsToBytes (a :: b :: c :: ws) ++ bs)) 2 = c := by
  simp only [wordsToBytes, List.flatMap_cons, List.append_assoc, bytesToWords_leBytes]
  exact BitVec.eq_of_toNat_eq (by simp [wordAt, word])

/-- The bytes of a report before its cabinet records are 1440 with the tables between (R393). -/
theorem le_length_reportBody (s : State) (ct : Ct) (nonce : BitVec 256) (scope : Option Cab) (tenant : Option Glove) :
    1440 ≤ (s.reportBody ct nonce scope tenant).length := by
  simp only [State.reportBody, List.length_append, length_wordsToBytes, bytes256, bytes512, leBytes_length, List.length_cons,
    List.length_nil]
  omega

theorem attest_completes (h : s.admits infoAttest src req = true) (hw : bitAt (wordAt req.payload 0) 58 = false) : ∃ l,
    Completes (.attest src req) s infoAttest src req Code.ok l { s with freeCtr := s.freeCtr + 1 } ∧
      1440 + 3309 ≤ 8 * l.length ∧ wordAt l 2 = BitVec.ofNat 64 s.now := by
  obtain ⟨t, ht, -, hrun⟩ := exists_took h
  let nonce := wide256 ((req.payload.drop 1).take 4)
  let scope := if bitAt (wordAt req.payload 0) 59 then some (cabOf (wordAt req.payload 0)) else none
  let bs := t.reportBody t.cp.active nonce scope none ++ leBytes 3309 (Config.signature t.freeCtr)
  have hu : ({ s with freeCtr := s.freeCtr + 1 } : State).Took (replyOf infoAttest src req) { t with freeCtr := t.freeCtr + 1 } :=
    ht.congr (F := fun s => { s with freeCtr := s.freeCtr + 1 }) (fun _ => rfl) rfl
  refine ⟨bytesToWords 16000 bs, hu.completes rfl ((hrun _).trans ?_), ?_, ?_⟩
  · simp only [hw, Bool.false_and]
    rfl
  · have hb : 1440 + 3309 ≤ bs.length := by
      rw [List.length_append, leBytes_length]
      exact Nat.add_le_add_right (le_length_reportBody ..) _
    have := le_length_bytesToWords 16000 bs
    omega
  · have : wordAt (bytesToWords 16000 bs) 2 = word t.now := by
      simp only [bs, State.reportBody, List.append_assoc]
      exact wordAt_bytesToWords_two ..
    exact this.trans (congrArg word ht.now)

/-- The commands that read a record complete with it. -/
theorem recordCommandsComplete : RecordCommandsComplete := by
  intro s src req
  refine ⟨queryCaps_completes, memoryStatus_completes, edgeStatus_completes, telemetryRead_completes, fun off h hb => ?_,
    fun off h hsrc hb => resync_completes h hsrc hb, attest_completes⟩
  exact errorLogRead_completes h hb

end Sys2Proof.Machine
end
section
/-!
SUPPORT. The table of fetches and the drawer table while gloves step, pages are freed and residencies are released (R244, R246, R248, R388).
-/

namespace Sys2Proof.Machine

variable {s t u : State} {r : Reply} {c : Cab} {n : Nat}

/-! ## What the steps of gloves leave unchanged -/

/-- The state without what a glove's steps change: messages, gloves, the clusters and stacks that wear them. -/
def State.swept (s : State) : State := { s.quiet with rot := Rot.reset, clusters := [], hbm := [] }

theorem swept_of_quiet (h : t.quiet = s.quiet) : t.swept = s.swept := by
  rw [State.swept, State.swept, h]

theorem eq_of_swept {α : Type} {f : State → α} (hf : ∀ s : State, f s.swept = f s) (h : t.swept = s.swept) : f t = f s := by
  rw [← hf t, ← hf s, h]

theorem swept_complete (s : State) (r : Reply) (c : Nat) (p : List Word) : (s.complete r c p).swept = s.swept :=
  swept_of_quiet (quiet_complete ..)

theorem swept_completeAll (s : State) (rs : List Reply) (c : Nat) (p : List Word) : (s.completeAll rs c p).swept = s.swept :=
  swept_of_quiet (quiet_completeAll ..)

theorem swept_modRot (s : State) (f : Rot → Rot) : (s.modRot f).swept = s.swept := rfl

theorem swept_dropSession (s : State) (n : Nat) (tell : Bool) : (s.dropSession n tell).swept = s.swept := by
  unfold State.dropSession
  split
  · rfl
  · dsimp only
    rw [swept_modRot]
    refine (swept_of_quiet (quiet_modCp _ _ fun _ => rfl)).trans ((swept_of_quiet (quiet_setChan ..)).trans ?_)
    split
    · exact swept_of_quiet (quiet_sendRecord ..)
    · rfl

theorem swept_unwear (s : State) (g : BitVec 16) (b : GBlock) : (s.unwear g b).swept = s.swept := by
  cases b <;> rfl

theorem swept_eraseGlove (s : State) (g : Glove) : (s.eraseGlove g).swept = s.swept :=
  (foldl_keeps (fun s (x : Session) => swept_dropSession s x.n.val true) _ _).trans <| (swept_completeAll ..).trans <|
    Eq.trans (b := State.swept ((s.wearers g).foldl (fun (s : State) b => s.unwear g.id b) s)) rfl
      (foldl_keeps (fun s b => swept_unwear s g.id b) _ s)

theorem swept_gloveStep (s : State) (id : BitVec 16) (fuel : Nat) : (s.gloveStep id fuel).swept = s.swept := by
  induction fuel generalizing s with
  | zero => rfl
  | succ n ih =>
    unfold State.gloveStep
    split
    · rfl
    next g _ =>
      split
      · rfl
      · split
        · exact ih _
        · split
          · exact ih _
          · split
            · exact ih _
            · split
              · exact swept_completeAll ..
              · split
                · exact swept_eraseGlove ..
                · rfl

theorem swept_settleSweeps (s : State) : s.settleSweeps.swept = s.swept := foldl_keeps (fun s (g : Glove) => swept_gloveStep s g.id 6) _ s

/-- The pages freed, nothing else changes but gloves and messages. -/
theorem swept_freePages (s : State) (p : Page → Bool) : (s.freePages p).swept =
    ({ s with pages := s.pages.filter fun x => !(x.kind != 0 && x.kind != PKind.withdrawn && p x) } : State).swept :=
  swept_settleSweeps _

/-! ## Fetches that go, and replies that they lose -/

/-- A fetch without the commands that wait for it. -/
def Fetch.bare (f : Fetch) : Fetch := { f with replies := [] }

/-- A later state with no fetch that was not there before, but for the commands that wait. -/
structure State.Sheds (s t : State) : Prop where
  fetch : ∀ f ∈ t.fetches, ∃ g ∈ s.fetches, g.bare = f.bare

namespace State.Sheds

theorem same (h : t.fetches = s.fetches) : s.Sheds t := ⟨fun f hf => ⟨f, h ▸ hf, rfl⟩⟩
theorem refl (s : State) : s.Sheds s := same rfl

theorem after (h' : t.Sheds u) (h : s.Sheds t) : s.Sheds u where
  fetch f hf := by
    obtain ⟨g, hg, e⟩ := h'.fetch f hf
    obtain ⟨k, hk, e'⟩ := h.fetch g hg
    exact ⟨k, hk, e'.trans e⟩

theorem ite {p : Prop} [Decidable p] (ht : s.Sheds t) (hu : s.Sheds u) : s.Sheds (if p then t else u) := by
  split
  · exact ht
  · exact hu

theorem foldl {α : Type} {f : State → α → State} (hf : ∀ (s : State) a, s.Sheds (f s a)) (l : List α) (s : State) : s.Sheds (l.foldl f s) := by
  induction l generalizing s with
  | nil => exact refl s
  | cons a l ih => exact (ih _).after (hf s a)

/-- What holds of every fetch, its replies apart, still does. -/
theorem all {p : Fetch → Prop} (hp : ∀ f : Fetch, p f ↔ p f.bare) (h : s.Sheds t) (hs : ∀ f ∈ s.fetches, p f) : ∀ f ∈ t.fetches, p f := by
  intro f hf
  obtain ⟨g, hg, e⟩ := h.fetch f hf
  rw [hp, ← e, ← hp]
  exact hs g hg

end State.Sheds

theorem sheds_filter (s : State) (p : Fetch → Bool) : s.Sheds { s with fetches := s.fetches.filter p } :=
  ⟨fun f hf => ⟨f, (List.mem_filter.1 hf).1, rfl⟩⟩

theorem sheds_completeAll (s : State) (rs : List Reply) (k : Nat) (p : List Word) : s.Sheds (s.completeAll rs k p) :=
  .same (quiet_fetches (quiet_completeAll ..))

theorem sheds_answerFetch (s : State) (rs : List Reply) (code : Nat) : s.Sheds (s.answerFetch rs code) := by
  refine .foldl (fun s r => .ite (.refl s) (State.Sheds.after (.same (quiet_fetches (quiet_complete ..))) ⟨fun f hf => ?_⟩)) _ s
  obtain ⟨g, hg, rfl⟩ := List.mem_map.1 hf
  exact ⟨g, hg, rfl⟩

theorem sheds_freePages (s : State) (p : Page → Bool) : s.Sheds (s.freePages p) :=
  .same ((eq_of_swept (f := State.fetches) (fun _ => rfl) (swept_freePages s p)).trans rfl)

theorem sheds_dropClaims (s : State) (c : Cab) (n : Nat) : s.Sheds (s.dropClaims c n) := .ite (.same rfl) (.refl s)

theorem sheds_releaseResidency (s : State) (c : Cab) (n : Nat) (g : Die) : s.Sheds (s.releaseResidency c n g) := by
  unfold State.releaseResidency
  dsimp only
  refine (sheds_dropClaims ..).after (State.Sheds.after (t := State.freePages _ _) (.same rfl) ((sheds_freePages ..).after ?_))
  split
  · exact .ite (.refl s) (.same rfl)
  · exact .refl s

theorem sheds_freeSlot (s : State) (c : Cab) (n : Nat) : s.Sheds (s.freeSlot c n) :=
  (sheds_answerFetch ..).after <| (sheds_completeAll ..).after <| (sheds_dropClaims ..).after <|
    State.Sheds.after (t := State.freePages _ _) (.same rfl) <| (sheds_freePages ..).after <|
      State.Sheds.after (.foldl (fun _ _ => sheds_releaseResidency ..) _ _) (sheds_filter s _)

theorem sheds_settleCache (s : State) (c : Cab) : s.Sheds (s.settleCache c) :=
  .ite ((sheds_completeAll ..).after (.same rfl)) (.refl s)

theorem sheds_evictOne (s : State) (c : Cab) (n : Nat) (g : Die) : s.Sheds (s.evictOne c n g) := by
  unfold State.evictOne
  split
  · exact .refl s
  · exact .ite ((sheds_releaseResidency ..).after ((sheds_answerFetch ..).after (sheds_filter s _))) (.same rfl)

/-! ## Fetches that are queued (R246) -/

/-- No fetch waits for a place. -/
def State.Unqueued (s : State) : Prop := ∀ f ∈ s.fetches, f.step ≠ FStep.queued

theorem State.Sheds.unqueued (h : s.Sheds t) (hs : s.Unqueued) : t.Unqueued := h.all (p := fun f => f.step ≠ FStep.queued) (fun _ => Iff.rfl) hs

theorem promote_unqueued (h : s.Unqueued) (c : Cab) (g : Die) (k : Nat) : s.promote c g k = s := by
  cases k with
  | zero => rfl
  | succ k =>
    have hn : (s.fetches.find? fun f => f.cab == c && f.group == g && f.step == FStep.queued) = none :=
      List.find?_eq_none.2 fun f hf => by simp [h f hf]
    rw [State.promote, hn]
    exact ite_self _

theorem promoteAll_unqueued (h : s.Unqueued) (c : Cab) : s.promoteAll c = s := by
  rw [State.promoteAll]
  induction (s.cab c).groups with
  | nil => rfl
  | cons g l ih => rw [List.foldl_cons, promote_unqueued h, ih]

/-! ## Residencies that are evicted (R248) -/

theorem residency?_eq_none {g : Die} : s.residency? c n g = none ↔ ∀ y ∈ s.residencies, ¬(y.cab = c ∧ y.slot = n ∧ y.group = g) := by
  simp [State.residency?, List.find?_eq_none, and_imp]

theorem residency?_some {g : Die} {y : Residency} (h : s.residency? c n g = some y) : y ∈ s.residencies ∧ y.cab = c ∧ y.slot = n ∧ y.group = g := by
  refine ⟨List.mem_of_find?_eq_some h, ?_⟩
  simpa [and_assoc] using List.find?_some h

/-- No residency of a slot is pinned. -/
def State.Unpinned (s : State) (c : Cab) (n : Nat) : Prop := ∀ y ∈ s.residencies, y.cab = c → y.slot = n → y.pins = 0

/-- A residency that nothing pins is gone once it is evicted, and no other comes. -/
theorem evictOne_unpinned (h : s.Unpinned c n) (g : Die) :
    (∀ y ∈ (s.evictOne c n g).residencies, y ∈ s.residencies) ∧ (s.evictOne c n g).residency? c n g = none := by
  unfold State.evictOne
  split
  next hn => exact ⟨fun _ hy => hy, hn⟩
  next y hy =>
    obtain ⟨hm, hc, hs, -⟩ := residency?_some hy
    rw [if_pos (h y hm hc hs)]
    exact ⟨fun z hz => ((eased_releaseResidency ..).after ((eased_answerFetch ..).after (eased_filterFetches s _))).residencies z hz,
      residency?_eq_none.2 fun z hz => not_mem_releaseResidency hz⟩

/-- Residencies that nothing pins are gone once they are evicted, and no other comes. -/
theorem evictAll_unpinned (l : List Residency) : s.Unpinned c n →
    (∀ y ∈ (l.foldl (fun (s : State) y => s.evictOne c n y.group) s).residencies, y ∈ s.residencies) ∧
      ∀ y ∈ l, (l.foldl (fun (s : State) y => s.evictOne c n y.group) s).residency? c n y.group = none := by
  induction l generalizing s with
  | nil => exact fun _ => ⟨fun _ h => h, by simp⟩
  | cons a l ih =>
    intro h
    obtain ⟨hsub, hgone⟩ := evictOne_unpinned h a.group
    obtain ⟨hsub', hgone'⟩ := ih fun y hy => h y (hsub y hy)
    refine ⟨fun y hy => hsub y (hsub' y hy), fun y hy => ?_⟩
    rcases List.mem_cons.1 hy with rfl | hy
    · exact residency?_eq_none.2 fun z hz => residency?_eq_none.1 hgone z (hsub' z hz)
    · exact hgone' y hy

end Sys2Proof.Machine
end
section
/-!
PROOF. The commands on drawers complete: binding, unbinding and eviction (R238, R239, R248, R257).
-/

namespace Sys2Proof.Machine

variable {s t u v : State} {r : Reply} {src : Src} {req : Req} {c : Cab} {n : Nat} {x : Slot}

/-! ## A slot is bound -/

theorem assocGet_assocPut {κ α : Type} [DecidableEq κ] (k : κ) (a : α) (l : List (κ × α)) : assocGet k (assocPut k a l) = some a := by
  induction l with
  | nil => simp [assocPut, assocGet]
  | cons p l ih => by_cases hp : p.1 = k <;> simp [assocPut, assocGet, hp, ih]

/-- The slot that a binding makes (R239). -/
def State.newSlot (s : State) (c : Cab) (n : Nat) (handle : Word) (version : BitVec 32) (owner run : Option (BitVec 32)) : Slot :=
  { cab := c, slot := n, gen := s.slotGen c n + 1, state := SState.bound, handle := handle, version := version,
    tenant := owner.getD 0, known := owner.isSome, rank := 0, experts := 0, sharePages := 0, lastCode := 0, lastUse := s.useClock + 1,
    run := run, unbind := false, evictReplies := [], lastDies := 0, image := none }

theorem bindSlot_eq (s : State) (c : Cab) (n : Nat) (h : Word) (version : BitVec 32) (owner run : Option (BitVec 32)) :
    s.bindSlot c n h version owner run =
      { s with useClock := s.useClock + 1, slotGens := assocPut (c.val, n) (s.slotGen c n + 1) s.slotGens,
               slots := s.slots ++ [s.newSlot c n h version owner run] } := rfl

theorem slot?_bindSlot {h : Word} {version : BitVec 32} {owner run : Option (BitVec 32)} (hn : s.slot? c n = none) :
    (s.bindSlot c n h version owner run).slot? c n = some (s.newSlot c n h version owner run) := by
  have hn' : s.slots.find? (fun x => x.cab == c && x.slot == n) = none := hn
  simp [State.slot?, bindSlot_eq, List.find?_append, hn', State.newSlot]

/-- The first slot that is free. -/
theorem slot?_of_firstFree (h : firstFree (fun n => (s.slot? c n).isSome) 16384 0 = some n) : s.slot? c n = none := by
  simpa using (firstFree_some h).1

theorem takeSlot_of_firstFree (h : firstFree (fun n => (s.slot? c n).isSome) 16384 0 = some n) : s.takeSlot c = some (n, s) := by
  rw [State.takeSlot, h]

/-- A handle that is bound nowhere takes the first free slot. -/
theorem bindHandle_binds {h : Word} {asked : BitVec 32} (hs : s.slotOf c h = none)
    (hn : firstFree (fun n => (s.slot? c n).isSome) 16384 0 = some n) : ∃ version owner, s.bindHandle r c h asked =
      (s.bindSlot c n h version owner none).complete r Code.ok [bindWord (s.newSlot c n h version owner none)] := by
  refine ⟨if asked = 0 then ((s.resolve c h).map CatObj.version).getD 0 else asked, (s.ownerOf h).orElse fun _ => s.tenantOf r, ?_⟩
  rw [State.bindHandle, hs]
  simp only [takeSlot_of_firstFree hn, State.bound, slot?_bindSlot (slot?_of_firstFree hn)]
  rfl

theorem bindDrawer_completes (h : s.admits infoBindDrawer src req = true) (hw : wordAt req.payload 0 ≠ 0)
    (hf : s.foreign (replyOf infoBindDrawer src req) (s.ownerOf (wordAt req.payload 0)) = false)
    (hs : s.slotOf (cabOf (wordAt req.payload 1)) (wordAt req.payload 0) = none)
    (hn : firstFree (fun n => (s.slot? (cabOf (wordAt req.payload 1)) n).isSome) 16384 0 = some n) :
    let c := cabOf (wordAt req.payload 1)
    Answers (.bindDrawer src req) s fun t =>
      t.answered (replyOf infoBindDrawer src req) 0 Code.ok [word (n * 2 ^ 48 + (s.slotGen c n + 1).toNat * 2 ^ 32)] = true ∧
      (∃ x, t.slot? c n = some x ∧ x.state = SState.bound ∧ x.handle = wordAt req.payload 0 ∧ x.gen = s.slotGen c n + 1 ∧ x.run = none ∧
        t.slots = s.slots ++ [x]) ∧
      t.slotGen c n = s.slotGen c n + 1 ∧ t.residencies = s.residencies ∧ t.pages = s.pages ∧ t.mem = s.mem := by
  refine answers_of_admits h rfl fun t ht => ?_
  have hs' : t.slotOf (cabOf (wordAt req.payload 1)) (wordAt req.payload 0) = none := (ht.reads (f := fun s => s.slotOf _ _) fun _ => rfl).trans hs
  have hslots : t.slots = s.slots := ht.reads (f := State.slots) fun _ => rfl
  have hn' : firstFree (fun n => (t.slot? (cabOf (wordAt req.payload 1)) n).isSome) 16384 0 = some n := by
    simpa only [State.slot?, hslots] using hn
  have hgen : t.slotGen (cabOf (wordAt req.payload 1)) n = s.slotGen (cabOf (wordAt req.payload 1)) n :=
    ht.reads (f := fun s => s.slotGen _ _) fun _ => rfl
  obtain ⟨version, owner, he⟩ := bindHandle_binds (r := replyOf infoBindDrawer src req)
    (asked := BitVec.ofNat 32 (bits (wordAt req.payload 2) 63 32)) hs' hn'
  have hf' : ¬t.foreign (replyOf infoBindDrawer src req) (t.ownerOf (wordAt req.payload 0)) = true := by rw [ht.foreignHandle, hf]; decide
  dsimp only
  rw [if_neg hw, if_neg hf', he]
  generalize hv : t.bindSlot (cabOf (wordAt req.payload 1)) n (wordAt req.payload 0) version owner none = v
  have hq := quiet_complete v (replyOf infoBindDrawer src req) Code.ok
    [bindWord (t.newSlot (cabOf (wordAt req.payload 1)) n (wordAt req.payload 0) version owner none)]
  have hh : v.Holds (replyOf infoBindDrawer src req) := ht.holds.of_chans (by rw [← hv, bindSlot_eq])
  have hword : bindWord (t.newSlot (cabOf (wordAt req.payload 1)) n (wordAt req.payload 0) version owner none) =
      word (n * 2 ^ 48 + (s.slotGen (cabOf (wordAt req.payload 1)) n + 1).toNat * 2 ^ 32) := by
    rw [← hgen, ← Nat.shiftLeft_eq, ← Nat.shiftLeft_eq]
    rfl
  refine ⟨hword ▸ answered_complete Code.ok _ hh, ⟨t.newSlot (cabOf (wordAt req.payload 1)) n (wordAt req.payload 0) version owner none, ?_, rfl, rfl,
    congrArg (· + 1) hgen, rfl, ?_⟩, ?_, ?_, ?_, ?_⟩
  · rw [eq_of_quiet (f := fun s => s.slot? _ _) (fun _ => rfl) hq, ← hv, slot?_bindSlot (slot?_of_firstFree hn')]
  · rw [eq_of_quiet (f := State.slots) (fun _ => rfl) hq, ← hv, ← hslots]
    rfl
  · rw [eq_of_quiet (f := fun s => s.slotGen _ _) (fun _ => rfl) hq, ← hv, ← hgen, bindSlot_eq]
    exact congrArg (fun o : Option (BitVec 16) => o.getD 0) (assocGet_assocPut (κ := Nat × Nat) ..)
  · rw [quiet_residencies hq, ← hv]
    exact ht.reads (f := State.residencies) fun _ => rfl
  · rw [eq_of_quiet (f := State.pages) (fun _ => rfl) hq, ← hv]
    exact ht.reads (f := State.pages) fun _ => rfl
  · rw [quiet_mem hq, ← hv]
    exact ht.reads (f := State.mem) fun _ => rfl

/-! ## A slot's residencies are evicted -/

/-- The residencies that an eviction names, evicted one by one. -/
def State.evicts (s : State) (x : Slot) (m : BitVec 16) (unbind : Bool) : State :=
  ((s.residenciesOf x.cab x.slot).filter fun y => unbind || (s.groupOfCab x.cab y.group).any fun d => hasDie m d.val).foldl
    (fun (s : State) y => s.evictOne x.cab x.slot y.group) s

theorem mem_residenciesOf {y : Residency} : y ∈ s.residenciesOf c n ↔ y ∈ s.residencies ∧ y.cab = c ∧ y.slot = n := by
  simp [State.residenciesOf]

/-- What an eviction names and nothing pins is gone, and no other residency comes. -/
theorem evicts_unpinned (h : s.Unpinned x.cab x.slot) (m : BitVec 16) (unbind : Bool) :
    ∀ y ∈ (s.evicts x m unbind).residenciesOf x.cab x.slot,
      y ∈ s.residencies ∧ (unbind || (s.groupOfCab x.cab y.group).any fun d => hasDie m d.val) = false := by
  intro y hy
  obtain ⟨hy, hc, hn⟩ := mem_residenciesOf.1 hy
  obtain ⟨hsub, hgone⟩ := evictAll_unpinned
    ((s.residenciesOf x.cab x.slot).filter fun y => unbind || (s.groupOfCab x.cab y.group).any fun d => hasDie m d.val) h
  have hys := hsub y hy
  refine ⟨hys, Bool.eq_false_of_not_eq_true fun hm => ?_⟩
  exact residency?_eq_none.1 (hgone y (List.mem_filter.2 ⟨mem_residenciesOf.2 ⟨hys, hc, hn⟩, hm⟩)) y hy ⟨hc, hn, rfl⟩

/-- An eviction of what nothing pins ends at once. -/
theorem evictSlot_unpinned (h : s.Unpinned x.cab x.slot) (m : BitVec 16) (unbind : Bool) : s.evictSlot r x m unbind =
    (if unbind then ((s.evicts x m unbind).freeSlot x.cab x.slot).complete r Code.ok []
      else ((s.evicts x m unbind).complete r Code.ok []).settleCache x.cab).promoteAll x.cab := by
  have hopen : ((s.evicts x m unbind).residenciesOf x.cab x.slot).any
      (fun y => y.state == 2 && (unbind || (s.groupOfCab x.cab y.group).any fun d => hasDie m d.val)) = false := by
    rw [List.any_eq_false]
    intro y hy
    simp [(evicts_unpinned h m unbind y hy).2]
  exact congrArg (fun v => State.promoteAll v x.cab) (if_neg (ne_true_of_eq_false hopen))

theorem after_evicts (s : State) (x : Slot) (m : BitVec 16) (unbind : Bool) : s.After (s.evicts x m unbind) :=
  .foldl (fun _ _ => after_evictOne ..) _ s

theorem sheds_evicts (s : State) (x : Slot) (m : BitVec 16) (unbind : Bool) : s.Sheds (s.evicts x m unbind) :=
  .foldl (fun _ _ => sheds_evictOne ..) _ s

theorem slots_answerFetch (s : State) (rs : List Reply) (code : Nat) : (s.answerFetch rs code).slots = s.slots := by
  refine foldl_keeps (g := State.slots) (fun s r => ?_) _ s
  split
  · rfl
  · exact (eq_of_quiet (f := State.slots) (fun _ => rfl) (quiet_complete ..)).trans rfl

theorem slots_dropClaims (s : State) (c : Cab) (n : Nat) : (s.dropClaims c n).slots = s.slots := by
  unfold State.dropClaims
  split <;> rfl

/-- A slot that is freed is not there. -/
theorem slot?_freeSlot (s : State) (c : Cab) (n : Nat) : (s.freeSlot c n).slot? c n = none := by
  rw [State.slot?, State.freeSlot]
  simp only [slots_answerFetch, eq_of_quiet (f := State.slots) (fun _ => rfl) (quiet_completeAll ..), slots_dropClaims]
  exact List.find?_eq_none.2 fun x hx => by simpa [Classical.or_iff_not_imp_left] using (List.mem_filter.1 hx).2

section Evict

variable (hx : s.slot? (cabOf (wordAt req.payload 1)) (slotField req.payload) = some x) (hrun : x.run = none)
  (hst : x.state = SState.bound) (hidle : s.Unqueued) (hu : s.idsUnique) (hpins : ∀ y ∈ s.residenciesOf x.cab x.slot, y.pins = 0)

/-- The state in which an eviction runs: what it reads is as it was, and its request is the newest of its channel. -/
structure State.Evictable (s : State) (r : Reply) (x : Slot) (v : State) : Prop where
  quiet : v.quiet = s.quiet
  newest : v.Newest r
  keeps : v.KeepsChan (chanKey r.src)
  unpinned : v.Unpinned x.cab x.slot
  unqueued : v.Unqueued

include hidle hu hpins in
theorem evictable_of_admits {info : CmdInfo} (h : s.admits info src req = true) (ht : s.Took (replyOf info src req) t) :
    s.Evictable (replyOf info src req) x (t.accept (replyOf info src req) 0) := by
  have hq : (t.accept (replyOf info src req) 0).quiet = s.quiet := by rw [quiet_accept, ht.quiet]
  refine ⟨hq, (holds_accept 0 ht.holds).newest, (keepsChan_of_admits h hu).of_quiet hq, fun y hy hc hn => ?_, fun f hf => ?_⟩
  · exact hpins y (mem_residenciesOf.2 ⟨quiet_residencies hq ▸ hy, hc, hn⟩)
  · exact hidle f (quiet_fetches hq ▸ hf)

/-- A slot that is unbound is free, with nothing that was resident, and the command ends. -/
theorem State.Evictable.unbinds (h : s.Evictable r x v) {m : BitVec 16} : (v.evictSlot r x m true).ended r = true ∧
    (v.evictSlot r x m true).slot? x.cab x.slot = none ∧ (v.evictSlot r x m true).residenciesOf x.cab x.slot = [] ∧
      (v.evictSlot r x m true).mem = s.mem := by
  have hf := eased_freeSlot (v.evicts x m true) x.cab x.slot
  have ha := (after_evicts v x m true).trans hf.toAfter
  have hc := quiet_complete ((v.evicts x m true).freeSlot x.cab x.slot) r Code.ok []
  have hd : (((v.evicts x m true).freeSlot x.cab x.slot).complete r Code.ok []).Done r :=
    done_finish (h.newest.later (ha.later _ h.keeps)) 0 Code.ok []
  have hun : (((v.evicts x m true).freeSlot x.cab x.slot).complete r Code.ok []).Unqueued :=
    (State.Sheds.after (.same (quiet_fetches hc)) ((sheds_freeSlot ..).after (sheds_evicts v x m true))).unqueued h.unqueued
  rw [evictSlot_unpinned h.unpinned, if_pos rfl, promoteAll_unqueued hun]
  refine ⟨hd.ended, ?_, ?_, ?_⟩
  · rw [eq_of_quiet (f := fun s => s.slot? _ _) (fun _ => rfl) hc, slot?_freeSlot]
  · rw [List.eq_nil_iff_forall_not_mem]
    intro y hy
    obtain ⟨hy, hyc, hyn⟩ := mem_residenciesOf.1 hy
    have hy' := hf.residencies y (quiet_residencies hc ▸ hy)
    simpa using (evicts_unpinned h.unpinned m true y (mem_residenciesOf.2 ⟨hy', hyc, hyn⟩)).2
  · rw [quiet_mem hc, ha.mem, quiet_mem h.quiet]

theorem residencies_settleCache (s : State) (c : Cab) : (s.settleCache c).residencies = s.residencies := by
  unfold State.settleCache
  dsimp only
  split
  · exact (quiet_residencies (quiet_completeAll ..)).trans rfl
  · rfl

/-- What an eviction names is gone, and the command ends. -/
theorem State.Evictable.evicts (h : s.Evictable r x v) {m : BitVec 16} : (v.evictSlot r x m false).ended r = true ∧
    (v.evictSlot r x m false).mem = s.mem ∧ ∀ y ∈ (v.evictSlot r x m false).residenciesOf x.cab x.slot,
      ∀ d ∈ s.groupOfCab x.cab y.group, hasDie m d.val = false := by
  have ha := after_evicts v x m false
  have hc := quiet_complete (v.evicts x m false) r Code.ok []
  have hset := after_settleCache ((v.evicts x m false).complete r Code.ok []) x.cab
  have hac := ha.trans (after_complete (v.evicts x m false) r Code.ok [])
  have hd : (((v.evicts x m false).complete r Code.ok []).settleCache x.cab).Done r := by
    refine State.Done.later (done_finish (h.newest.later (ha.later _ h.keeps)) 0 Code.ok []) (hset.later _ fun y hy hyd => ?_)
    obtain ⟨z, hz, hzd, e⟩ := hac.drains y hy hyd
    exact e ▸ h.keeps z hz hzd
  have hun : (((v.evicts x m false).complete r Code.ok []).settleCache x.cab).Unqueued :=
    ((sheds_settleCache ..).after (State.Sheds.after (.same (quiet_fetches hc)) (sheds_evicts v x m false))).unqueued h.unqueued
  rw [evictSlot_unpinned h.unpinned, if_neg (by decide), promoteAll_unqueued hun]
  refine ⟨hd.ended, (hac.trans hset).mem.trans (quiet_mem h.quiet), fun y hy d hdg => ?_⟩
  obtain ⟨hy, hyc, hyn⟩ := mem_residenciesOf.1 hy
  rw [residencies_settleCache, quiet_residencies hc] at hy
  have hm := (evicts_unpinned h.unpinned m false y (mem_residenciesOf.2 ⟨hy, hyc, hyn⟩)).2
  rw [Bool.false_or, List.any_eq_false] at hm
  exact Bool.eq_false_of_not_eq_true (hm d (eq_of_quiet (f := fun s => s.groupOfCab x.cab y.group) (fun _ => rfl) h.quiet ▸ hdg))

theorem State.Took.namedSlot_eq {info : CmdInfo} (ht : s.Took (replyOf info src req) t)
    (hx : s.slot? (cabOf (wordAt req.payload 1)) (slotField req.payload) = some x)
    (hf : s.foreign (replyOf info src req) x.owner? = false) : t.namedSlot (replyOf info src req) req.payload = .inr x := by
  rw [ht.namedSlot, State.namedSlot, hx]
  exact if_neg (ne_true_of_eq_false hf)

include hx hrun hst hidle hu hpins

theorem unbindDrawer_completes (h : s.admits infoUnbindDrawer src req = true)
    (hf : s.foreign (replyOf infoUnbindDrawer src req) x.owner? = false) :
    Answers (.unbindDrawer src req) s fun t => t.ended (replyOf infoUnbindDrawer src req) = true ∧ t.slot? x.cab x.slot = none ∧
      t.residenciesOf x.cab x.slot = [] ∧ t.mem = s.mem := by
  refine answers_of_admits h rfl fun t ht => ?_
  have hn : ¬(x.state = SState.remaking || x.run.isSome) = true := by rw [hst, hrun]; decide
  simp only [ht.namedSlot_eq hx hf]
  rw [if_neg hn]
  exact (evictable_of_admits hidle hu hpins h ht).unbinds

theorem evictDrawer_completes (h : s.admits infoEvictDrawer src req = true)
    (hf : s.foreign (replyOf infoEvictDrawer src req) x.owner? = false) (ho : s.outside x.cab (diesField req.payload) = false)
    (hb : bitAt (wordAt req.payload 1) 27 = false) :
    Answers (.evictDrawer src req) s fun t => t.ended (replyOf infoEvictDrawer src req) = true ∧ t.mem = s.mem ∧
      ∀ y ∈ t.residenciesOf x.cab x.slot, ∀ d ∈ s.groupOfCab x.cab y.group, hasDie (diesField req.payload) d.val = false := by
  refine answers_of_admits h rfl fun t ht => ?_
  have hn : ¬(x.run.isSome || (x.state = SState.remaking && bitAt (wordAt req.payload 1) 27)) = true := by simp [hst, hrun, hb]
  have ho' : ¬t.outside x.cab (diesField req.payload) = true := by
    rw [ht.reads (f := fun s => s.outside x.cab (diesField req.payload)) fun _ => rfl, ho]
    decide
  simp only [ht.namedSlot_eq hx hf]
  rw [if_neg ho', if_neg hn, hb]
  exact (evictable_of_admits hidle hu hpins h ht).evicts

end Evict

end Sys2Proof.Machine
end
section
/-!
SUPPORT. How fetches begin (R234, R235, R244, R245, R269): what a fetch finds in the cache, and what it leaves unchanged while it begins.
-/

namespace Sys2Proof.Machine

variable {s t u v : State} {r : Reply} {c : Cab} {n : Nat} {g : Die} {handle : Word} {version : BitVec 32} {run : Option (BitVec 32)}
  {ds : Bool} {replies : List Reply} {f : Fetch} {o : CatObj}

/-! ## The object of a fetch (R232) -/

theorem mem_of_minBy {α : Type} {key : α → Nat} {l : List α} {a : α} (h : minBy key l = some a) : a ∈ l := by
  induction l generalizing a with
  | nil => cases h
  | cons b l ih =>
    rw [minBy] at h
    split at h
    · cases h
      simp
    next d hd =>
      split at h
      · cases h
        simp
      · cases h
        exact List.mem_cons_of_mem _ (ih hd)

theorem mem_catalog_of_resolve (h : s.resolve c handle = some o) : o ∈ s.catalog ∧ o.handle = handle := by
  have hall : ∀ {l : List CatObj}, l ⊆ s.catalog.filter (fun o => o.handle == handle) → o ∈ l → o ∈ s.catalog ∧ o.handle = handle :=
    fun hl ho => by simpa using List.mem_filter.1 (hl ho)
  simp only [State.resolve] at h
  split at h
  next k hk =>
    cases h
    exact hall (fun _ hx => (List.mem_filter.1 hx).1) (mem_of_minBy hk)
  · exact hall (List.Subset.refl _) (mem_of_minBy h)

/-- The object of a fetch is one of its handle that the cache holds. -/
theorem mem_catalog_of_objOf (h : s.objOf f = some o) : o ∈ s.catalog ∧ o.handle = f.handle := by
  simp only [State.objOf] at h
  split at h
  · exact mem_catalog_of_resolve h
  · refine ⟨List.mem_of_find?_eq_some h, ?_⟩
    have := List.find?_some h
    simp only [Bool.and_eq_true, beq_iff_eq] at this
    exact this.1

/-! ## What a fetch changes while it begins -/

/-- A control die without its channels and its cache. -/
def CtDie.uncached (x : CtDie) : CtDie := { x.quiet with catalog := [] }

/-- The state without what a fetch changes while it begins: messages, the table of fetches, the cache, residencies on their way. -/
def State.unfetched (s : State) : State :=
  { s.quiet with fetches := [], nextFetch := 0, freeCtr := 0, residencies := [], cts := s.cts.map CtDie.uncached }

theorem unfetched_of_quiet (h : t.quiet = s.quiet) : t.unfetched = s.unfetched := by
  have hc : t.cts.map CtDie.quiet = s.cts.map CtDie.quiet := congrArg State.cts h
  have hu : t.cts.map CtDie.uncached = s.cts.map CtDie.uncached := by
    have := congrArg (List.map CtDie.uncached) hc
    rwa [List.map_map, List.map_map] at this
  rw [State.unfetched, State.unfetched, h, hu]

theorem eq_of_unfetched {α : Type} {f : State → α} (hf : ∀ s : State, f s.unfetched = f s) (h : t.unfetched = s.unfetched) : f t = f s := by
  rw [← hf t, ← hf s, h]

/-- Fetches that have begun, last in the table, with numbers that were free; nothing else has changed but messages and the order of the cache. -/
structure State.Begun (s : State) (fs : List Fetch) (t : State) : Prop where
  fetches : t.fetches = s.fetches ++ fs
  next : t.nextFetch.toNat = s.nextFetch.toNat + fs.length
  ids : ∀ f ∈ fs, f.id.toNat < t.nextFetch.toNat
  rest : t.unfetched = s.unfetched
  chans : t.cp.chans = s.cp.chans
  catalog : ∀ o ∈ t.catalog, o ∈ s.catalog

theorem State.Begun.refl (s : State) : s.Begun [] s := ⟨by simp, rfl, by simp, rfl, rfl, fun _ h => h⟩

theorem State.Begun.trans {fs fs' : List Fetch} (h : s.Begun fs t) (h' : t.Begun fs' u) : s.Begun (fs ++ fs') u where
  fetches := by rw [h'.fetches, h.fetches, List.append_assoc]
  next := by rw [h'.next, h.next, List.length_append, Nat.add_assoc]
  ids f hf := by
    rcases List.mem_append.1 hf with hf | hf
    · exact Nat.lt_of_lt_of_le (h.ids f hf) (h'.next ▸ Nat.le_add_right ..)
    · exact h'.ids f hf
  rest := h'.rest.trans h.rest
  chans := h'.chans.trans h.chans
  catalog o ho := h.catalog o (h'.catalog o ho)

/-- What a fetch was asked for. -/
structure Fetch.Asked (f : Fetch) (c : Cab) (n : Nat) (g : Die) (handle : Word) (run : Option (BitVec 32)) (ds : Bool)
    (replies : List Reply) : Prop where
  cab : f.cab = c
  slot : f.slot = n
  group : f.group = g
  handle : f.handle = handle
  run : f.run = run
  dataset : f.dataset = ds
  replies : f.replies = replies

/-- What the cache holds of a handle can be fetched without a refusal: it is no larger than an image may be, and the fetch is a run's. -/
def State.Fetchable (s : State) (c : Cab) (n : Nat) (handle : Word) (run : Option (BitVec 32)) (ds : Bool) : Prop :=
  ∀ o ∈ s.catalog, o.handle = handle → o.bytes ≤ maxImage ∧
    (ds = true ∨ (run.isSome = true ∧ ∀ y, s.slot? c n = some y → y.run.isSome = true))

theorem chans_postEvent (s : State) (op st : Nat) (pl : List Word) : (s.postEvent op st pl).cp.chans = s.cp.chans := by
  unfold State.postEvent
  split
  · rfl
  · exact chans_emit ..

theorem updFirst_append_single {α : Type} {p : α → Bool} {F : α → α} {l : List α} {a : α} (hl : ∀ b ∈ l, p b = false) (ha : p a = true) :
    updFirst p F (l ++ [a]) = l ++ [F a] := by
  induction l with
  | nil => simp [updFirst, ha]
  | cons b l ih => simp_all [updFirst]

/-- A search that finds an element that a change leaves as it is changes nothing. -/
theorem updFirst_eq_self {α : Type} {p : α → Bool} {F : α → α} {l : List α} (h : ∀ a, l.find? p = some a → F a = a) : updFirst p F l = l := by
  induction l with
  | nil => rfl
  | cons b l ih =>
    by_cases hb : p b = true
    · rw [updFirst, if_pos hb, h b (by simp [hb])]
    · rw [updFirst, if_neg hb, ih fun a ha => h a (by simp [hb, ha])]

theorem modSlot_eq_self {F : Slot → Slot} (h : ∀ y, s.slot? c n = some y → F y = y) : s.modSlot c n F = s := by
  rw [State.modSlot, updFirst_eq_self h]

/-- A fetch of a run or of a dataset goes on from the cache: its pieces are due. -/
theorem fromCache_run (hb : o.bytes ≤ maxImage) (hf : f.dataset = true ∨ (f.run.isSome = true ∧ ∀ y, s.slot? f.cab f.slot = some y → y.run.isSome = true)) :
    s.fromCache f o = s.modFetch f.id fun x => { x with step := FStep.pieces, version := o.version } := by
  have hm : (s.modSlot f.cab f.slot fun x =>
      if f.dataset || x.run.isSome then x else { x with version := o.version, tenant := x.owner?.getD o.tenant, known := true }) = s := by
    refine modSlot_eq_self fun y hy => if_pos ?_
    rcases hf with h | ⟨-, h⟩
    · simp [h]
    · simp [h y hy]
  have hr : (f.dataset || f.run.isSome) = true := by
    rcases hf with h | ⟨h, -⟩ <;> simp [h]
  rw [State.fromCache, if_neg (Nat.not_lt.2 hb)]
  simp only [hm, if_pos hr]

theorem cts_useObj (s : State) (o : CatObj) : (s.useObj o).cts.map CtDie.uncached = s.cts.map CtDie.uncached :=
  map_updAt_of CtDie.uncached (fun x => { x with catalog := (x.catalog.filter fun y => y != o) ++ [o] }) (fun _ => rfl) _ _

theorem unfetched_useObj (s : State) (o : CatObj) : (s.useObj o).unfetched = s.unfetched := by
  have hq : (s.useObj o).cts.map CtDie.uncached = s.cts.map CtDie.uncached := cts_useObj s o
  rw [State.unfetched, State.unfetched, hq]
  rfl

/-- The cache holds the same objects, in another order. -/
theorem mem_catalog_useObj (ho : o ∈ s.catalog) {k : CatObj} (hk : k ∈ (s.useObj o).catalog) : k ∈ s.catalog := by
  rw [State.catalog, State.useObj, State.ct, State.modCt_cts] at hk
  rw [State.catalog, State.ct]
  change k ∈ ((updAt s.cp.active.val _ s.cts).getD s.cp.active.val CtDie.reset).catalog at hk
  rw [getD_updAt] at hk
  split at hk
  · simp only [List.mem_append, List.mem_singleton] at hk
    rcases hk with hk | rfl
    · exact (List.mem_filter.1 hk).1
    · exact ho
  · exact hk

/-! ## A fetch begins -/

/-- A fetch that was not in the table, as it stands last in it. -/
theorem fetch?_new {fs : List Fetch} (hs : s.fetches = fs ++ [f]) (hn : ∀ x ∈ fs, x.id ≠ f.id) : s.fetch? f.id = some f := by
  have h0 : fs.find? (fun x => x.id == f.id) = none := List.find?_eq_none.2 fun x hx => by simpa using hn x hx
  simp [State.fetch?, hs, List.find?_append, h0]

theorem fetches_modFetch_new {fs : List Fetch} {F : Fetch → Fetch} (hs : s.fetches = fs ++ [f]) (hn : ∀ x ∈ fs, x.id ≠ f.id) :
    (s.modFetch f.id F).fetches = fs ++ [F f] := by
  rw [State.modFetch, hs, updFirst_append_single (fun b hb => by simpa using hn b hb) (by simp)]

/-- The fetch that stands last in the table runs: from the cache, or to the catalog. -/
theorem runFetch_new {fs : List Fetch} (hs : s.fetches = fs ++ [f]) (hn : ∀ x ∈ fs, x.id ≠ f.id)
    (hobj : s.Fetchable f.cab f.slot f.handle f.run f.dataset) :
    ∃ step version, (s.runFetch f.id).fetches = fs ++ [{ f with step := step, version := version }] ∧
      (s.runFetch f.id).nextFetch = s.nextFetch ∧ (s.runFetch f.id).unfetched = s.unfetched ∧
      (s.runFetch f.id).cp.chans = s.cp.chans ∧ ∀ o ∈ (s.runFetch f.id).catalog, o ∈ s.catalog := by
  cases ho : s.objOf f with
  | some o =>
    obtain ⟨hoc, hoh⟩ := mem_catalog_of_objOf ho
    obtain ⟨hb, hr⟩ := hobj o hoc hoh
    have he : s.runFetch f.id = (s.useObj o).modFetch f.id fun x => { x with step := FStep.pieces, version := o.version } := by
      simp only [State.runFetch, fetch?_new hs hn, ho]
      exact fromCache_run hb hr
    rw [he]
    exact ⟨_, _, fetches_modFetch_new (F := fun x => { x with step := FStep.pieces, version := o.version }) hs hn, rfl,
      unfetched_useObj s o, rfl, fun k hk => mem_catalog_useObj hoc hk⟩
  | none =>
    let w := { s with freeCtr := s.freeCtr + 1 }.modFetch f.id fun x => { x with step := FStep.catalog, version := s.fetchVersion f }
    have he : s.runFetch f.id = w.postEvent Event.catalogFetch 0
        [f.handle, word (put (s.fetchVersion f).toNat 32 + f.id.toNat), Config.stageAddr s.freeCtr] := by
      simp only [State.runFetch, fetch?_new hs hn, ho]
      rfl
    rw [he]
    have hq := quiet_postEvent w Event.catalogFetch 0
      [f.handle, word (put (s.fetchVersion f).toNat 32 + f.id.toNat), Config.stageAddr s.freeCtr]
    refine ⟨_, _, (quiet_fetches hq).trans (fetches_modFetch_new (F := fun x => { x with step := FStep.catalog, version := s.fetchVersion f }) hs hn),
      (eq_of_quiet (f := State.nextFetch) (fun _ => rfl) hq).trans rfl, (unfetched_of_quiet hq).trans rfl, (chans_postEvent ..).trans rfl,
      fun k hk => ?_⟩
    rw [eq_of_quiet catalog_quiet hq] at hk
    exact hk

/-- The fetch that a command asks for. -/
def State.newFetch (s : State) (c : Cab) (n : Nat) (g : Die) (handle : Word) (version : BitVec 32) (run : Option (BitVec 32)) (ds : Bool)
    (replies : List Reply) : Fetch :=
  { id := s.nextFetch, cab := c, slot := n, group := g, handle := handle, version := version,
    step := if decide (4 ≤ s.runningFetches c g) || s.fetches.any (fun f => f.cab == c && f.group == g && f.step == FStep.queued)
      then FStep.queued else FStep.catalog,
    order := 0, dataset := ds, run := run, replies := replies }

/-- The fetch stands last in the table, with its residency where it is a drawer's. -/
def State.enterFetch (s : State) (f : Fetch) : State :=
  let s := { s with fetches := s.fetches ++ [f], nextFetch := f.id + 1 }
  if f.dataset || f.run.isSome then s else s.addResidency f.cab f.slot f.group

theorem startFetch_eq (hnew : ∀ f ∈ s.fetches, ¬(f.cab = c ∧ f.slot = n ∧ f.group = g ∧ f.dataset = ds)) :
    s.startFetch c n g handle version run ds replies =
      if decide (4 ≤ s.runningFetches c g) || s.fetches.any (fun f => f.cab == c && f.group == g && f.step == FStep.queued) then
        s.enterFetch (s.newFetch c n g handle version run ds replies)
      else (s.enterFetch (s.newFetch c n g handle version run ds replies)).runFetch s.nextFetch := by
  have hn : (s.fetches.find? fun f => f.cab == c && f.slot == n && f.group == g && f.dataset == ds) = none :=
    List.find?_eq_none.2 fun f hf => by simpa [and_assoc] using hnew f hf
  rw [State.startFetch, hn]
  rfl

theorem unfetched_addResidency (s : State) (c : Cab) (n : Nat) (g : Die) : (s.addResidency c n g).unfetched = s.unfetched := by
  unfold State.addResidency
  split <;> rfl

/-- What an element of the state reads that no residency is. -/
theorem kept_by_addResidency {α : Type} {f : State → α} (hf : ∀ (s : State) l, f { s with residencies := l } = f s) (s : State) (c : Cab)
    (n : Nat) (g : Die) : f (s.addResidency c n g) = f s := by
  unfold State.addResidency
  split
  · rfl
  · exact hf ..

theorem kept_by_enterFetch {α : Type} {F : State → α} (hf : ∀ (s : State) l, F { s with residencies := l } = F s) (s : State) (f : Fetch) :
    F (s.enterFetch f) = F { s with fetches := s.fetches ++ [f], nextFetch := f.id + 1 } := by
  unfold State.enterFetch
  dsimp only
  split
  · rfl
  · exact kept_by_addResidency hf ..

/-- A fetch that no other is like begins. -/
theorem startFetch_begins (hids : ∀ f ∈ s.fetches, f.id.toNat < s.nextFetch.toNat) (hroom : s.nextFetch.toNat + 1 < 2 ^ 32)
    (hnew : ∀ f ∈ s.fetches, ¬(f.cab = c ∧ f.slot = n ∧ f.group = g ∧ f.dataset = ds)) (hobj : s.Fetchable c n handle run ds) :
    ∃ f : Fetch, s.Begun [f] (s.startFetch c n g handle version run ds replies) ∧ f.Asked c n g handle run ds replies := by
  generalize hf : s.newFetch c n g handle version run ds replies = f
  have hask : f.Asked c n g handle run ds replies := by
    subst hf
    exact ⟨rfl, rfl, rfl, rfl, rfl, rfl, rfl⟩
  have hid : f.id = s.nextFetch := by rw [← hf]; rfl
  have hnext : (f.id + 1).toNat = s.nextFetch.toNat + 1 := by
    rw [hid, BitVec.toNat_add]
    exact Nat.mod_eq_of_lt hroom
  have hfs : (s.enterFetch f).fetches = s.fetches ++ [f] := kept_by_enterFetch (F := State.fetches) (fun _ _ => rfl) s f
  have hent : s.Begun [f] (s.enterFetch f) := by
    refine ⟨hfs, ?_, fun x hx => ?_, ?_, ?_, fun o ho => ?_⟩
    · rw [kept_by_enterFetch (F := State.nextFetch) (fun _ _ => rfl)]
      exact hnext
    · rw [kept_by_enterFetch (F := State.nextFetch) (fun _ _ => rfl), List.mem_singleton.1 hx]
      exact Nat.lt_of_lt_of_eq (hid ▸ Nat.lt_succ_self _) hnext.symm
    · exact (kept_by_enterFetch (F := State.unfetched) (fun _ _ => rfl) s f).trans rfl
    · exact (kept_by_enterFetch (F := fun s => s.cp.chans) (fun _ _ => rfl) s f).trans rfl
    · rw [kept_by_enterFetch (F := State.catalog) (fun _ _ => rfl)] at ho
      exact ho
  rw [startFetch_eq hnew, hf]
  split
  · exact ⟨f, hent, hask⟩
  · have hne : ∀ x ∈ s.fetches, x.id ≠ f.id := fun x hx e => by
      have := hids x hx
      rw [e, hid] at this
      exact Nat.lt_irrefl _ this
    have hobj' : (s.enterFetch f).Fetchable f.cab f.slot f.handle f.run f.dataset := by
      obtain ⟨rfl, rfl, rfl, rfl, rfl, rfl, rfl⟩ := hask
      intro o ho he
      have hslot : (s.enterFetch f).slots = s.slots := kept_by_enterFetch (F := State.slots) (fun _ _ => rfl) s f
      obtain ⟨hb, hr⟩ := hobj o (hent.catalog o ho) he
      exact ⟨hb, hr.imp_right fun ⟨h1, h2⟩ => ⟨h1, fun y hy => h2 y (by rwa [State.slot?, hslot] at hy)⟩⟩
    obtain ⟨step, version', h1, h2, h3, h4, h5⟩ := runFetch_new hfs hne hobj'
    rw [← hid]
    refine ⟨{ f with step := step, version := version' }, ⟨h1, ?_, fun x hx => ?_, h3.trans hent.rest, h4.trans hent.chans,
      fun o ho => hent.catalog o (h5 o ho)⟩, ?_⟩
    · rw [h2]
      exact hent.next
    · rw [h2, List.mem_singleton.1 hx]
      exact hent.ids f (List.mem_singleton.2 rfl)
    · obtain ⟨rfl, rfl, rfl, rfl, rfl, rfl, rfl⟩ := hask
      exact ⟨rfl, rfl, rfl, rfl, rfl, rfl, rfl⟩

/-- Fetches of one slot to several span groups begin one after another. -/
theorem startFetches_begin {F : State → Die → State} (hF : ∀ v g, v.unfetched = s.unfetched → F v g = v.startFetch c n g handle version run ds replies)
    (l : List Die) : l.Nodup → ∀ v : State, v.unfetched = s.unfetched → (∀ f ∈ v.fetches, f.id.toNat < v.nextFetch.toNat) →
      v.nextFetch.toNat + l.length < 2 ^ 32 → (∀ f ∈ v.fetches, ∀ g ∈ l, ¬(f.cab = c ∧ f.slot = n ∧ f.group = g ∧ f.dataset = ds)) →
      v.Fetchable c n handle run ds →
      ∃ fs : List Fetch, v.Begun fs (l.foldl F v) ∧ (∀ f ∈ fs, ∃ g ∈ l, f.Asked c n g handle run ds replies) ∧
        fs.length = l.length ∧ ∀ g ∈ l, ∃ f ∈ fs, f.Asked c n g handle run ds replies := by
  induction l with
  | nil => exact fun _ v _ _ _ _ _ => ⟨[], .refl v, by simp, rfl, by simp⟩
  | cons a l ih =>
    intro hnd v hv hids hroom hnew hobj
    rw [List.length_cons] at hroom
    obtain ⟨f, hb, hask⟩ := startFetch_begins (version := version) (replies := replies) hids (by omega)
      (fun f hf => hnew f hf a (List.mem_cons_self ..)) hobj
    rw [List.foldl_cons, hF v a hv]
    generalize v.startFetch c n a handle version run ds replies = w at hb
    have hslots : w.slots = v.slots := eq_of_unfetched (f := State.slots) (fun _ => rfl) hb.rest
    have hids' : ∀ x ∈ w.fetches, x.id.toNat < w.nextFetch.toNat := fun x hx => by
      rw [hb.fetches] at hx
      rcases List.mem_append.1 hx with hx | hx
      · exact Nat.lt_of_lt_of_le (hids x hx) (hb.next ▸ Nat.le_add_right ..)
      · exact hb.ids x hx
    have hnew' : ∀ x ∈ w.fetches, ∀ g ∈ l, ¬(x.cab = c ∧ x.slot = n ∧ x.group = g ∧ x.dataset = ds) := fun x hx g hg => by
      rw [hb.fetches] at hx
      rcases List.mem_append.1 hx with hx | hx
      · exact hnew x hx g (List.mem_cons_of_mem _ hg)
      · rw [List.mem_singleton.1 hx]
        rintro ⟨-, -, e, -⟩
        exact (List.nodup_cons.1 hnd).1 (hask.group.symm.trans e ▸ hg)
    have hobj' : w.Fetchable c n handle run ds := fun o ho he => by
      obtain ⟨h1, h2⟩ := hobj o (hb.catalog o ho) he
      exact ⟨h1, h2.imp_right fun ⟨h3, h4⟩ => ⟨h3, fun y hy => h4 y (by rwa [State.slot?, hslots] at hy)⟩⟩
    obtain ⟨fs, hb', hfrom, hlen, hall⟩ := ih (List.nodup_cons.1 hnd).2 w (hb.rest.trans hv) hids'
      (by rw [hb.next, List.length_singleton]; omega) hnew' hobj'
    refine ⟨f :: fs, hb.trans hb', fun x hx => ?_, congrArg (· + 1) hlen, fun g hg => ?_⟩
    · rcases List.mem_cons.1 hx with rfl | hx
      · exact ⟨a, List.mem_cons_self .., hask⟩
      · obtain ⟨g, hg, h⟩ := hfrom x hx
        exact ⟨g, List.mem_cons_of_mem _ hg, h⟩
    · rcases List.mem_cons.1 hg with rfl | hg
      · exact ⟨f, List.mem_cons_self .., hask⟩
      · obtain ⟨x, hx, h⟩ := hall g hg
        exact ⟨x, List.mem_cons_of_mem _ hx, h⟩

end Sys2Proof.Machine
end
section
/-!
PROOF. The commands on drawers, and the steps of a fetch, complete: prefetches, deliveries, pages and the end of a fetch (R235, R239,
R244, R245, R250).
-/

namespace Sys2Proof.Machine

variable {s t u v : State} {r : Reply} {src : Src} {req : Req} {c : Cab} {n : Nat} {x : Slot} {f : Fetch} {o : CatObj} {img : DrawerImage}

/-! ## PREFETCH_DRAWER -/

theorem acceptedReq_of_chans (h : t.cp.chans = s.cp.chans) {q : Nat} (ha : s.acceptedReq r q = true) : t.acceptedReq r q = true := by
  rw [State.acceptedReq, chan_of_chans h]
  exact ha

theorem answered_of_chans (h : t.cp.chans = s.cp.chans) {q k : Nat} {p : List Word} (ha : s.answered r q k p = true) :
    t.answered r q k p = true := by
  rw [State.answered, chan_of_chans h]
  exact ha

theorem slot?_key (h : s.slot? c n = some x) : x.cab = c ∧ x.slot = n := by
  simpa using List.find?_some h

theorem length_diesOf_le (m : BitVec 16) : (diesOf m).length ≤ 16 :=
  (List.length_filter_le ..).trans (by simp)

/-- The span groups to which a prefetch brings a drawer (R244). -/
def State.prefetchGroups (s : State) (x : Slot) (m : BitVec 16) : List Die :=
  ((s.cab x.cab).groups.filter fun g => (s.groupOfCab x.cab g).any fun d => hasDie m d.val).filter fun g =>
    ((s.residency? x.cab x.slot g).map fun y => y.state == 0).getD true

theorem nodup_prefetchGroups (s : State) (x : Slot) (m : BitVec 16) : (s.prefetchGroups x m).Nodup :=
  (((nodup_diesOf _).filter _).filter _).filter _

theorem length_prefetchGroups_le (s : State) (x : Slot) (m : BitVec 16) : (s.prefetchGroups x m).length ≤ 16 :=
  (List.length_filter_le ..).trans ((List.length_filter_le ..).trans ((List.length_filter_le ..).trans (length_diesOf_le _)))

theorem mem_prefetchGroups {g : Die} {m : BitVec 16} (hg : g ∈ (s.cab x.cab).groups) (hd : ∃ d ∈ s.groupOfCab x.cab g, hasDie m d.val = true)
    (hr : s.residency? x.cab x.slot g = none) : g ∈ s.prefetchGroups x m :=
  List.mem_filter.2 ⟨List.mem_filter.2 ⟨hg, List.any_eq_true.2 hd⟩, by rw [hr]; rfl⟩

/-- The fetches that a prefetch asks for, one after another. -/
def State.prefetches (s : State) (r : Reply) (x : Slot) (gs : List Die) : State :=
  gs.foldl (fun (s : State) g =>
    if (s.slot? x.cab x.slot).any fun y => (prefetchCode y).isNone then s.startFetch x.cab x.slot g x.handle x.version none false [r] else s) s

theorem prefetches_begin (hx : s.slot? x.cab x.slot = some x) (hcode : prefetchCode x = none) (hcat : ∀ o ∈ s.catalog, o.handle ≠ x.handle)
    (hnone : ∀ f ∈ s.fetches, ¬(f.cab = x.cab ∧ f.slot = x.slot)) (hids : FetchIdsAreNew s) {gs : List Die} (hnd : gs.Nodup)
    (hlen : gs.length ≤ 16) : (s.prefetches r x gs).cp.chans = s.cp.chans ∧
      ∀ g ∈ gs, ∃ f ∈ (s.prefetches r x gs).fetches, f.Asked x.cab x.slot g x.handle none false [r] := by
  obtain ⟨hids, hroom⟩ := hids
  obtain ⟨fs, hb, -, -, hall⟩ := startFetches_begin (s := s) (c := x.cab) (n := x.slot) (handle := x.handle) (version := x.version) (run := none)
    (ds := false) (replies := [r])
    (F := fun s g => if (s.slot? x.cab x.slot).any fun y => (prefetchCode y).isNone then
      s.startFetch x.cab x.slot g x.handle x.version none false [r] else s)
    (fun v g hv => if_pos (by rw [eq_of_unfetched (f := fun s => s.slot? x.cab x.slot) (fun _ => rfl) hv, hx]; simp [hcode]))
    gs hnd s rfl hids (by omega) (fun f hf g _ h => hnone f hf ⟨h.1, h.2.1⟩) fun o ho he => absurd he (hcat o ho)
  refine ⟨hb.chans, fun g hg => ?_⟩
  obtain ⟨f, hf, h⟩ := hall g hg
  exact ⟨f, by rw [State.prefetches, hb.fetches]; exact List.mem_append_right _ hf, h⟩

theorem prefetchDrawer_completes {g : Die} (h : s.admits infoPrefetchDrawer src req = true)
    (hx : s.slot? (cabOf (wordAt req.payload 1)) (slotField req.payload) = some x)
    (hf : s.foreign (replyOf infoPrefetchDrawer src req) x.owner? = false) (ho : s.outside x.cab (diesField req.payload) = false)
    (hcode : prefetchCode x = none) (hcat : ∀ o ∈ s.catalog, o.handle ≠ x.handle)
    (hnone : ∀ f ∈ s.fetches, ¬(f.cab = x.cab ∧ f.slot = x.slot)) (hids : FetchIdsAreNew s) (hg : g ∈ s.prefetchGroups x (diesField req.payload)) :
    Answers (.prefetchDrawer src req) s fun t => t.acceptedReq (replyOf infoPrefetchDrawer src req) 0 = true ∧
      ∃ f ∈ t.fetches, f.cab = x.cab ∧ f.slot = x.slot ∧ f.group = g ∧ f.handle = x.handle ∧
        replyOf infoPrefetchDrawer src req ∈ f.replies := by
  refine answers_of_admits h rfl fun t ht => ?_
  have hout : ¬t.outside x.cab (diesField req.payload) = true := by
    rw [ht.reads (f := fun s => s.outside x.cab (diesField req.payload)) fun _ => rfl, ho]
    decide
  have hgs : t.prefetchGroups x (diesField req.payload) = s.prefetchGroups x (diesField req.payload) :=
    ht.reads (f := fun s => s.prefetchGroups x (diesField req.payload)) fun _ => rfl
  have hne : ¬(t.prefetchGroups x (diesField req.payload)).isEmpty = true := by
    rw [hgs, List.isEmpty_iff]
    exact List.ne_nil_of_mem hg
  have hq : (t.accept (replyOf infoPrefetchDrawer src req) 0).quiet = s.quiet := by rw [quiet_accept, ht.quiet]
  obtain ⟨hc, hn⟩ := slot?_key hx
  have hx' : s.slot? x.cab x.slot = some x := by rw [hc, hn, hx]
  have hfet := quiet_fetches hq
  have hnext : (t.accept (replyOf infoPrefetchDrawer src req) 0).nextFetch = s.nextFetch := eq_of_quiet (f := State.nextFetch) (fun _ => rfl) hq
  have hids' : FetchIdsAreNew (t.accept (replyOf infoPrefetchDrawer src req) 0) := by
    rw [FetchIdsAreNew, hfet, hnext]
    exact hids
  obtain ⟨hch, hall⟩ := prefetches_begin (r := replyOf infoPrefetchDrawer src req) ((eq_of_quiet (f := fun s => s.slot? _ _) (fun _ => rfl) hq).trans hx')
    hcode (by rw [eq_of_quiet catalog_quiet hq]; exact hcat) (by rw [hfet]; exact hnone) hids'
    (nodup_prefetchGroups t x (diesField req.payload)) (length_prefetchGroups_le ..)
  obtain ⟨f, hfm, hask⟩ := hall g (hgs ▸ hg)
  simp only [ht.namedSlot_eq hx hf, hcode]
  rw [State.prefetchGroups] at hne
  rw [if_neg hout, if_neg hne]
  exact ⟨acceptedReq_of_chans hch (acceptedReq_accept 0 ht.holds), f, hfm, hask.cab, hask.slot, hask.group, hask.handle,
    hask.replies ▸ List.mem_singleton.2 rfl⟩

/-! ## CATALOG_DELIVER -/

theorem mem_trimCatalog {l : List CatObj} {o : CatObj} (h : o ∈ trimCatalog l) : o ∈ l := by
  induction l with
  | nil => exact h
  | cons a l ih =>
    rw [trimCatalog] at h
    split at h
    · exact h
    · exact List.mem_cons_of_mem _ (ih h)

/-- What the cache holds once an object of a handle that it did not hold is written: that object and what it held. -/
theorem mem_catalog_cacheObj (hnew : ∀ y ∈ s.catalog, y.handle ≠ o.handle) {k : CatObj} (hk : k ∈ (s.cacheObj o).catalog) :
    k = o ∨ k ∈ s.catalog := by
  have hnone : (s.ct s.cp.active).catalog.find? (fun y => y.handle == o.handle && y.version == o.version && y.tagsOk) = none :=
    List.find?_eq_none.2 fun y hy => by simp [show ¬y.handle = o.handle from hnew y hy]
  rw [State.catalog, State.cacheObj, State.ct, State.modCt_cts] at hk
  change k ∈ ((updAt s.cp.active.val _ s.cts).getD s.cp.active.val CtDie.reset).catalog at hk
  rw [getD_updAt] at hk
  split at hk
  · have hk' := mem_trimCatalog hk
    change k ∈ List.filter _ (s.ct s.cp.active).catalog ++ [((s.ct s.cp.active).catalog.find? fun y => _).getD o] at hk'
    rw [hnone, List.mem_append] at hk'
    rcases hk' with hk' | hk'
    · exact .inr (List.mem_filter.1 hk').1
    · exact .inl (by simpa using hk')
  · exact .inr hk

theorem unfetched_cacheObj (s : State) (o : CatObj) : (s.cacheObj o).unfetched = s.unfetched := by
  have hq : (s.cacheObj o).cts.map CtDie.uncached = s.cts.map CtDie.uncached :=
    map_updAt_of CtDie.uncached (fun x =>
      { x with catalog := trimCatalog ((x.catalog.filter fun y => !(y.handle == o.handle && y.version == o.version)) ++
        [(x.catalog.find? fun y => y.handle == o.handle && y.version == o.version && y.tagsOk).getD o]) }) (fun _ => rfl) _ _
  rw [State.unfetched, State.unfetched, hq]
  rfl

/-- What a delivery does with the object that arrived (R235). -/
def State.takeObj (s : State) (f : Fetch) (o : CatObj) : State :=
  match (s.cacheObj o).objOf f with
  | some k => ((s.cacheObj o).fromCache f k).nextFetches f
  | none => (if (s.cacheObj o).fetchVersion f = 0 || (s.cacheObj o).fetchVersion f = o.version then (s.cacheObj o).fromCache f o
      else (s.cacheObj o).runFetch f.id).nextFetches f

/-- The object of a dataset's fetch that arrives goes into the cache, and the fetch goes on to its pieces. -/
theorem takeObj_dataset (hd : f.dataset = true) (hf : s.fetch? f.id = some f) (hun : s.Unqueued) (hb : o.bytes ≤ maxImage)
    (hh : o.handle = f.handle) (hver : f.version = 0 ∨ f.version = o.version) (hnew : ∀ y ∈ s.catalog, y.handle ≠ o.handle) :
    ∃ k : CatObj, s.takeObj f o = (s.cacheObj o).modFetch f.id fun x => { x with step := FStep.pieces, version := k.version } := by
  have hk : ∃ k : CatObj, k.bytes ≤ maxImage ∧ s.takeObj f o = ((s.cacheObj o).fromCache f k).nextFetches f := by
    cases hobj : (s.cacheObj o).objOf f with
    | some k =>
      obtain ⟨hk, hkh⟩ := mem_catalog_of_objOf hobj
      refine ⟨k, ?_, by rw [State.takeObj, hobj]⟩
      rcases mem_catalog_cacheObj hnew hk with rfl | hk
      · exact hb
      · exact absurd (hkh.trans hh.symm) (hnew k hk)
    | none =>
      have hv : (s.cacheObj o).fetchVersion f = f.version := by rw [State.fetchVersion]; simp [hd]
      refine ⟨o, hb, ?_⟩
      simp only [State.takeObj, hobj, hv]
      rw [if_pos (by simpa using hver)]
  obtain ⟨k, hkb, he⟩ := hk
  have hm : ((s.cacheObj o).fromCache f k) = (s.cacheObj o).modFetch f.id fun x => { x with step := FStep.pieces, version := k.version } :=
    fromCache_run hkb (.inl hd)
  refine ⟨k, ?_⟩
  rw [he, hm, State.nextFetches, promote_unqueued]
  intro y hy
  rcases eq_or_mem_of_mem_updFirst hf hy with rfl | hy
  · exact show FStep.pieces ≠ FStep.queued by decide
  · exact hun y hy

theorem stagedObj_version (f : Fetch) (len : Nat) (o : CatObj) : f.version = 0 ∨ f.version = (stagedObj f len (some o)).version := by
  by_cases hv : f.version = 0
  · exact .inl hv
  · exact .inr (if_neg hv).symm

theorem catalogDeliver_takes {P : State → Prop} (hs : s.fetch? f.id = some f) (h : s.admits infoCatalogDeliver src req = true)
    (hid : bits (wordAt req.payload 0) 31 0 = f.id.toNat) (h0 : bits (wordAt req.payload 0) 63 56 = 0) (hstep : f.step = FStep.catalog)
    (hP : ∀ t, s.Took (replyOf infoCatalogDeliver src req) t →
      P ((t.complete (replyOf infoCatalogDeliver src req) Code.ok []).takeObj f (stagedObj f (wordAt req.payload 1).toNat (some o)))) :
    Answers (.catalogDeliver src req (some o)) s P := by
  refine answers_of_admits h rfl fun t ht => ?_
  have hfid : t.fetch? (BitVec.ofNat 32 (bits (wordAt req.payload 0) 31 0)) = some f := by
    rw [hid, BitVec.ofNat_toNat, BitVec.setWidth_eq, ht.reads (f := fun s => s.fetch? f.id) fun _ => rfl, hs]
  have hgo : ¬(f.step != FStep.catalog || decide (2 < 0) || (0 != 0 && wordAt req.payload 1 != 0)) = true := by simp [hstep]
  simp only [hfid, h0, if_neg hgo, if_true]
  exact hP t ht

theorem catalogDeliver_completes (hs : s.fetch? f.id = some f) (hun : s.Unqueued) (h : s.admits infoCatalogDeliver src req = true)
    (hid : bits (wordAt req.payload 0) 31 0 = f.id.toNat) (h0 : bits (wordAt req.payload 0) 63 56 = 0)
    (hstep : f.step = FStep.catalog) (hd : f.dataset = true) (hb : o.bytes ≤ maxImage)
    (hnew : ∀ y ∈ s.catalog, y.handle ≠ f.handle) :
    Answers (.catalogDeliver src req (some o)) s fun t =>
      t.answered (replyOf infoCatalogDeliver src req) 0 Code.ok [] = true ∧ t.mem = s.mem ∧ t.pages = s.pages ∧
        ∃ g, t.fetch? f.id = some g ∧ g.step = FStep.pieces ∧ g.handle = f.handle := by
  refine catalogDeliver_takes hs h hid h0 hstep fun t ht => ?_
  generalize replyOf infoCatalogDeliver src req = r at ht
  have hq : (t.complete r Code.ok []).quiet = s.quiet := by rw [quiet_complete, ht.quiet]
  generalize hw : t.complete r Code.ok [] = w at hq
  have hans : w.answered r 0 Code.ok [] = true := hw ▸ answered_complete Code.ok [] ht.holds
  have hwf : w.fetch? f.id = some f := (eq_of_quiet (f := fun s => s.fetch? f.id) (fun _ => rfl) hq).trans hs
  obtain ⟨k, he⟩ := takeObj_dataset (o := stagedObj f (wordAt req.payload 1).toNat (some o)) hd hwf
    (by rw [State.Unqueued, quiet_fetches hq]; exact hun) hb rfl (stagedObj_version ..) (by rw [eq_of_quiet catalog_quiet hq]; exact hnew)
  rw [he]
  have hu := unfetched_cacheObj w (stagedObj f (wordAt req.payload 1).toNat (some o))
  refine ⟨answered_of_chans rfl hans, ?_, ?_, { f with step := FStep.pieces, version := k.version }, ?_, rfl, rfl⟩
  · exact (eq_of_unfetched (f := State.mem) (fun _ => rfl) hu).trans (quiet_mem hq)
  · exact (eq_of_unfetched (f := State.pages) (fun _ => rfl) hu).trans (eq_of_quiet (f := State.pages) (fun _ => rfl) hq)
  · exact find?_updFirst (f := fun x => { x with step := FStep.pieces, version := k.version }) hwf (by simp)

/-! ## FETCH_RESUME -/

/-- A slot that a fetch has bound to the version that it found (R256). -/
def Slot.fetched (o : CatObj) (x : Slot) : Slot :=
  if x.run.isSome then x else { x with version := o.version, tenant := x.owner?.getD o.tenant, known := true }

/-- A drawer's fetch that waits for pages, with none before it, goes on to its pieces once the pages are there. -/
theorem fromCache_pages (hstep : f.step = FStep.pages) (hd : f.dataset = false) (hr : f.run = none) (hb : o.bytes ≤ maxImage)
    (himg : o.image = some img) (hc : (s.cab f.cab).cacheReplies = [])
    (hfirst : ∀ x ∈ s.fetches, x.step = FStep.pages → x.id ≠ f.id → ¬(x.cab = f.cab ∧ x.group = f.group))
    (hu : (s.modSlot f.cab f.slot (Slot.fetched o)).reserve? f.cab f.slot f.group img (((s.tenantGlove? o.tenant).map Glove.id).getD 0) = some u) :
    s.fromCache f o = u.modFetch f.id fun x => { x with step := FStep.pieces, version := o.version } := by
  have hahead : (s.fetches.any fun x =>
      x.step == FStep.pages && x.cab == f.cab && x.group == f.group && decide (x.order < f.order) && x.id != f.id) = false := by
    rw [List.any_eq_false]
    intro x hx
    have := hfirst x hx
    simp only [Bool.and_eq_true, beq_iff_eq, bne_iff_ne, decide_eq_true_eq, not_and, and_imp]
    exact fun h1 h2 h3 _ h5 => this h1 h5 ⟨h2, h3⟩
  have hmod : (s.modSlot f.cab f.slot fun x =>
      if f.dataset || x.run.isSome then x else { x with version := o.version, tenant := x.owner?.getD o.tenant, known := true }) =
      s.modSlot f.cab f.slot (Slot.fetched o) := by
    simp only [hd, Bool.false_or]
    rfl
  have hkind : ¬(f.dataset || f.run.isSome) = true := by simp [hd, hr]
  have hwait : ¬(false && f.step == FStep.pages || (f.step != FStep.pages && (s.modSlot f.cab f.slot (Slot.fetched o)).fetches.any fun x =>
      x.step == FStep.pages && x.cab == f.cab && x.group == f.group) ||
        !((s.modSlot f.cab f.slot (Slot.fetched o)).cab f.cab).cacheReplies.isEmpty) = true := by
    have hc' : ((s.modSlot f.cab f.slot (Slot.fetched o)).cab f.cab).cacheReplies = [] := hc
    simp [hc', hstep]
  have hahead' : ((s.modSlot f.cab f.slot (Slot.fetched o)).fetches.any fun x =>
      x.step == FStep.pages && x.cab == f.cab && x.group == f.group && decide (x.order < f.order) && x.id != f.id) = false := hahead
  have hu' : (s.modSlot f.cab f.slot (Slot.fetched o)).reserve? f.cab f.slot f.group img
      ((((s.modSlot f.cab f.slot (Slot.fetched o)).tenantGlove? o.tenant).map Glove.id).getD 0) = some u := hu
  rw [State.fromCache, if_neg (Nat.not_lt.2 hb)]
  simp only [hmod, if_neg hkind, hahead', if_neg hwait, himg, hu']

theorem fetchResume_completes (hs : s.fetch? f.id = some f) (hun : s.Unqueued) (hd : f.dataset = false) (hr : f.run = none)
    (hobj : s.objOf f = some o) (himg : o.image = some img) (hstep : f.step = FStep.pages) (hb : o.bytes ≤ maxImage)
    (hc : (s.cab f.cab).cacheReplies = [])
    (hfirst : ∀ x ∈ s.fetches, x.step = FStep.pages → x.id ≠ f.id → ¬(x.cab = f.cab ∧ x.group = f.group))
    (hu : (s.modSlot f.cab f.slot (Slot.fetched o)).reserve? f.cab f.slot f.group img (((s.tenantGlove? o.tenant).map Glove.id).getD 0) = some u)
    (huf : u.fetches = s.fetches) :
    Answers (.fetchResume f.id) s fun t =>
      (∃ g, t.fetch? f.id = some g ∧ g.step = FStep.pieces ∧ g.version = o.version) ∧ t.pages = u.pages ∧ t.mem = u.mem := by
  have hq : ¬f.step = FStep.queued := by rw [hstep]; decide
  have hp : ¬(f.step != FStep.pages) = true := by simp [hstep]
  have hfu : u.fetch? f.id = some f := by rw [State.fetch?, huf]; exact hs
  have hnext : (u.modFetch f.id fun x => { x with step := FStep.pieces, version := o.version }).nextFetches f =
      u.modFetch f.id fun x => { x with step := FStep.pieces, version := o.version } := by
    refine promote_unqueued (fun y hy => ?_) ..
    rcases eq_or_mem_of_mem_updFirst hfu hy with rfl | hy
    · exact show FStep.pieces ≠ FStep.queued by decide
    · exact hun y (huf ▸ hy)
  refine ⟨u.modFetch f.id fun x => { x with step := FStep.pieces, version := o.version }, ?_,
    ⟨{ f with step := FStep.pieces, version := o.version }, ?_, rfl, rfl⟩, rfl, rfl⟩
  · simp only [exec, execFetchResume, hs, if_neg hq, if_neg hp, hobj, fromCache_pages hstep hd hr hb himg hc hfirst hu, hnext]
  · exact find?_updFirst (f := fun x => { x with step := FStep.pieces, version := o.version }) hfu (by simp)

/-! ## FETCH_COMPLETE -/

/-- Pages of the serving share on the largest die (R242). -/
def State.shareOf (s : State) (f : Fetch) (img : DrawerImage) : Nat := ((s.groupOfCab f.cab f.group).map fun d => s.sharePagesOn f.cab img d).foldl max 0

/-- A drawer that is there on a span group: its slot and its residency hold it. -/
def State.arrives (s : State) (f : Fetch) (img : DrawerImage) (share : Nat) : State :=
  let s := s.modSlot f.cab f.slot fun x =>
    { x with image := some img, rank := rankOf img, experts := img.expertTable.length, sharePages := max x.sharePages share }
  let s := { s with fetches := s.fetches.filter fun x => x.id != f.id }
  let s := s.modResidency f.cab f.slot f.group fun x => { x with state := if x.state = 0 then 1 else x.state, pages := share, image := some img }
  s.answerFetch f.replies Code.ok

theorem fetchArrived_drawer (hd : f.dataset = false) (hr : f.run = none) (himg : o.image = some img) (hk : s.intakeCode f o false = none) :
    s.fetchArrived f o = ((s.claim f.cab f.slot img).writeShare f.cab f.slot f.group img).arrives f img (s.shareOf f img) := by
  simp only [State.fetchArrived, hd, hr, hk, himg]
  rfl

/-- What writing a drawer's share leaves unchanged. -/
theorem unwritten_writeShare (s : State) (c : Cab) (n : Nat) (g : Die) (img : DrawerImage) : (s.writeShare c n g img).unwritten = s.unwritten :=
  foldl_keeps (g := State.unwritten) (fun s d => unwritten_fillPages (s.turnPages d _) (shareData img _ _) s) _ s

theorem residencies_answerFetch (s : State) (rs : List Reply) (code : Nat) : (s.answerFetch rs code).residencies = s.residencies := by
  refine foldl_keeps (g := State.residencies) (fun s r => ?_) _ s
  split
  · rfl
  · exact (quiet_residencies (quiet_complete ..)).trans rfl

theorem cab_modCab_keeps {α : Type} {G : Cabinet → α} {F : Cabinet → Cabinet} (h : ∀ x, G (F x) = G x) (s : State) (c d : Cab) :
    G ((s.modCab c F).cab d) = G (s.cab d) := by
  rw [State.cab, State.cab, State.modCab_cabs, getD_updAt]
  split
  · exact h _
  · rfl

/-- A cabinet that counts one fetch more. -/
def Cabinet.countFetch (x : Cabinet) : Cabinet := { x with counters := { x.counters with fetches := x.counters.fetches + 1 } }

/-- The state in which a drawer's fetch is counted. -/
def State.countFetch (s : State) (c : Cab) : State := s.modCab c Cabinet.countFetch

theorem intakeCode_countFetch (s : State) (f : Fetch) (o : CatObj) (b : Bool) : (s.countFetch f.cab).intakeCode f o b = s.intakeCode f o b := by
  have h : ((s.countFetch f.cab).cab f.cab).shelf = (s.cab f.cab).shelf := cab_modCab_keeps (G := Cabinet.shelf) (F := Cabinet.countFetch) (fun _ => rfl) ..
  simp only [State.intakeCode, h]
  rfl

theorem exec_fetchComplete (hs : s.fetch? f.id = some f) (hd : f.dataset = false) (hobj : s.objOf f = some o) (hstep : f.step = FStep.pieces) :
    exec (.fetchComplete f.id) s = .next (((s.countFetch f.cab).fetchArrived f o).nextFetches f) := by
  have hp : ¬(f.step != FStep.pieces) = true := by simp [hstep]
  simp only [exec, execFetchComplete, hs, if_neg hp, hobj, hd, Bool.false_eq_true, if_false]
  rfl

theorem fetchComplete_completes {y : Residency} (hs : s.fetch? f.id = some f) (hun : s.Unqueued) (hd : f.dataset = false) (hr : f.run = none)
    (hobj : s.objOf f = some o) (himg : o.image = some img) (hstep : f.step = FStep.pieces) (hk : s.intakeCode f o false = none)
    (hx : s.slot? f.cab f.slot = some x) (hy : s.residency? f.cab f.slot f.group = some y) (h0 : y.state = 0) :
    Answers (.fetchComplete f.id) s fun t =>
      (∃ z, t.residency? f.cab f.slot f.group = some z ∧ z.state = 1 ∧ z.image = some img) ∧ (∀ k ∈ t.fetches, k.id ≠ f.id) ∧
        (∃ z, t.slot? f.cab f.slot = some z ∧ z.image = some img ∧ z.rank = rankOf img ∧ z.gen = x.gen) := by
  have hw := unwritten_writeShare ((s.countFetch f.cab).claim f.cab f.slot img) f.cab f.slot f.group img
  have he := fetchArrived_drawer hd hr himg ((intakeCode_countFetch s f o false).trans hk)
  generalize ((s.countFetch f.cab).claim f.cab f.slot img).writeShare f.cab f.slot f.group img = w at hw he
  generalize (s.countFetch f.cab).shareOf f img = share at he
  have hwf : w.fetches = s.fetches := (eq_of_unwritten (f := State.fetches) (fun _ => rfl) hw).trans rfl
  have hwx : w.slot? f.cab f.slot = some x := (eq_of_unwritten (f := fun s => s.slot? f.cab f.slot) (fun _ => rfl) hw).trans hx
  have hwy : w.residency? f.cab f.slot f.group = some y :=
    (eq_of_unwritten (f := fun s => s.residency? f.cab f.slot f.group) (fun _ => rfl) hw).trans hy
  have hsheds : ({ w with fetches := w.fetches.filter fun x => x.id != f.id } : State).Sheds (w.arrives f img share) :=
    (sheds_answerFetch ..).after (.same rfl)
  have hshed : w.Sheds (w.arrives f img share) := hsheds.after (sheds_filter w _)
  have hnext : (w.arrives f img share).nextFetches f = w.arrives f img share :=
    promote_unqueued (hshed.unqueued fun k hk => hun k (hwf ▸ hk)) ..
  refine ⟨_, (exec_fetchComplete hs hd hobj hstep).trans (by rw [he, hnext]), ⟨{ y with state := 1, pages := share, image := some img }, ?_, rfl, rfl⟩,
    hsheds.all (p := fun k => k.id ≠ f.id) (fun _ => Iff.rfl) fun k hk => ?_, ⟨{ x with
      image := some img, rank := rankOf img, experts := img.expertTable.length, sharePages := max x.sharePages share }, ?_, rfl, rfl, rfl⟩⟩
  · rw [State.residency?, State.arrives, residencies_answerFetch]
    refine (find?_updFirst hwy ?_).trans ?_
    · simpa [and_assoc] using (residency?_some hwy).2
    · rw [h0]
      rfl
  · simpa using (List.mem_filter.1 hk).2
  · rw [State.slot?, State.arrives, slots_answerFetch]
    exact find?_updFirst (f := fun x => { x with
      image := some img, rank := rankOf img, experts := img.expertTable.length, sharePages := max x.sharePages share }) hwx (by simpa using slot?_key hwx)

/-- The commands on drawers, and the steps of a fetch, complete. -/
theorem drawerCommandsComplete : DrawerCommandsComplete := by
  refine ⟨fun s src req => ⟨fun n h hw hf hs hn => bindDrawer_completes h hw hf hs hn, fun x hx hrun hst hidle hu hpins => ⟨?_, ?_⟩,
    fun x g hx h hf ho hcode hcat hnone hids hg hd hr => ?_, fun f o hs hidle h _ hid h0 hstep hd _ hb hnew => ?_⟩,
    fun s f o img _ hs hidle hd hr hobj himg => ⟨fun u glove hstep hb hg hc hfirst hu huf => ?_, fun x y hstep hk hx hy h0 => ?_⟩⟩
  · exact fun h hf => unbindDrawer_completes hx hrun hst hidle hu hpins h hf
  · exact fun h hf ho hb _ => evictDrawer_completes hx hrun hst hidle hu hpins h hf ho hb
  · exact prefetchDrawer_completes h hx hf ho hcode hcat hnone hids (mem_prefetchGroups hg hd hr)
  · exact catalogDeliver_completes hs hidle h hid h0 hstep hd hb hnew
  · subst hg
    exact fetchResume_completes hs hidle hd hr hobj himg hstep hb hc hfirst hu huf
  · exact fetchComplete_completes hs hidle hd hr hobj himg hstep hk hx hy h0

end Sys2Proof.Machine
end
section
/-!
SUPPORT. The vector engine's registers and masks, read after they are written, and the engine after an instruction (R190, R191, R199, R203).
-/

namespace Sys2Proof.Machine

variable {s : State} {u : VUnit} {w : Word} {v x y : VEngine} {m : Mark} {ty n e : Nat}

/-! ## Fields side by side -/

theorem packBits_lt (k : Nat) (l : List Nat) : packBits k l < 2 ^ (k * l.length) := by
  induction l with
  | nil => simp [packBits]
  | cons a l ih =>
    rw [packBits, List.length_cons, Nat.mul_succ, Nat.pow_add, Nat.shiftLeft_eq]
    have ha := Nat.mod_lt a (Nat.two_pow_pos k)
    calc a % 2 ^ k + packBits k l * 2 ^ k < (packBits k l + 1) * 2 ^ k := by rw [Nat.add_mul, Nat.one_mul]; omega
      _ ≤ 2 ^ (k * l.length) * 2 ^ k := Nat.mul_le_mul_right _ ih

/-- Each field is read back. -/
theorem packBits_field (k : Nat) (l : List Nat) (i : Nat) : (packBits k l >>> (k * i)) % 2 ^ k = l.getD i 0 % 2 ^ k := by
  induction l generalizing i with
  | nil => simp [packBits]
  | cons a l ih =>
    have ha : a % 2 ^ k < 2 ^ k := Nat.mod_lt a (Nat.two_pow_pos k)
    rw [packBits, Nat.shiftLeft_eq]
    cases i with
    | zero => simp
    | succ i =>
      rw [Nat.mul_succ, Nat.add_comm (k * i), Nat.shiftRight_add, Nat.shiftRight_eq_div_pow _ k, Nat.add_mul_div_right _ _ (Nat.two_pow_pos k),
        Nat.div_eq_of_lt ha, Nat.zero_add, ih]
      rfl

/-! ## Registers -/

theorem reg_putReg_same (h : n < v.regs.length) (a : Nat) : (v.putReg n a).reg n = (BitVec.ofNat 4096 a).toNat := by
  have hr : (v.putReg n a).regs.getD n 0 = BitVec.ofNat 4096 a := by rw [VEngine.putReg, getD_updAt, if_pos ⟨rfl, h⟩]
  exact congrArg BitVec.toNat hr

theorem reg_putReg_ne {k : Nat} (h : k ≠ n) (a : Nat) : (v.putReg n a).reg k = v.reg k := by
  rw [VEngine.reg, VEngine.putReg, getD_updAt, if_neg fun hk => h hk.1.symm]
  rfl

theorem length_putReg (a : Nat) : (v.putReg n a).regs.length = v.regs.length := length_updAt ..

theorem elem_lt : v.elem ty n e < 2 ^ vElemBits ty := by
  unfold VEngine.elem
  split
  next h =>
    subst h
    have h1 := Nat.mod_lt (v.reg n >>> (32 * e)) (Nat.two_pow_pos 32)
    have h2 := Nat.mod_lt (v.reg (n + 1) >>> (32 * e)) (Nat.two_pow_pos 32)
    rw [Nat.shiftLeft_eq]
    simp only [vElemBits]
    omega
  · exact Nat.mod_lt _ (Nat.two_pow_pos _)

theorem elemBits_count (h : ty ≠ 3) : vElemBits ty * vCount ty = 4096 := by
  unfold vElemBits vCount
  split <;> simp_all

theorem reg_putReg_lt (h : n < v.regs.length) {a k : Nat} (ha : a < 2 ^ k) (hk : k ≤ 4096) : (v.putReg n a).reg n = a := by
  rw [reg_putReg_same h, BitVec.toNat_ofNat, Nat.mod_eq_of_lt (Nat.lt_of_lt_of_le ha (Nat.pow_le_pow_right (by decide) hk))]

/-- A register written with elements of a type holds them. -/
theorem reg_field (h : n < v.regs.length) {k : Nat} {l : List Nat} (hk : k * l.length ≤ 4096) (i : Nat) :
    ((v.putReg n (packBits k l)).reg n >>> (k * i)) % 2 ^ k = l.getD i 0 % 2 ^ k := by
  rw [reg_putReg_lt h (packBits_lt k l) hk, packBits_field]

/-- The registers that a write of a type needs: one, or a pair for W. -/
def VEngine.Fits (v : VEngine) (ty n : Nat) : Prop := n < v.regs.length ∧ (ty = 3 → n + 1 < v.regs.length)

theorem elem_putElems (h : v.Fits ty n) {l : List Nat} (hl : l.length = vCount ty) (e : Nat) :
    (v.putElems ty n l).elem ty n e = l.getD e 0 % 2 ^ vElemBits ty := by
  obtain ⟨hn, hn1⟩ := h
  by_cases h3 : ty = 3
  · subst h3
    have hc : l.length = 128 := hl
    have hlo := reg_field (v := v) hn (k := 32) (l := l) (by omega) e
    have hhi := reg_field (v := v.putReg n (packBits 32 l)) (n := n + 1) (by rw [length_putReg]; exact hn1 rfl) (k := 32)
      (l := l.map fun e => e >>> 32) (by rw [List.length_map]; omega) e
    have hg : (l.map fun e => e >>> 32).getD e 0 = l.getD e 0 >>> 32 := by
      simp only [List.getD_eq_getElem?_getD, List.getElem?_map]
      cases l[e]? <;> rfl
    rw [VEngine.elem, VEngine.putElems, if_pos rfl, if_pos rfl, hhi, reg_putReg_ne (Nat.ne_of_lt (Nat.lt_succ_self n)), hlo, hg]
    generalize l.getD e 0 = a
    rw [Nat.shiftLeft_eq, Nat.shiftRight_eq_div_pow]
    simp only [vElemBits]
    omega
  · rw [VEngine.elem, VEngine.putElems, if_neg h3, if_neg h3, reg_field hn (by rw [hl, elemBits_count h3])]

theorem elem_writeElems (h : v.Fits ty n) (f : Nat → Option Nat) (he : e < vCount ty) :
    (v.writeElems ty n f).elem ty n e = (f e).getD (v.elem ty n e) % 2 ^ vElemBits ty := by
  rw [VEngine.writeElems, elem_putElems h (by simp [VEngine.elems])]
  congr 1
  simp [VEngine.elems, List.getD_eq_getElem?_getD, he]

/-- A register that a write does not name keeps its elements. -/
theorem reg_writeElems_ne {k : Nat} (h : k ≠ n) (h3 : ty ≠ 3) (f : Nat → Option Nat) : (v.writeElems ty n f).reg k = v.reg k := by
  rw [VEngine.writeElems, VEngine.putElems, if_neg h3, reg_putReg_ne h]

/-! ## Masks and marks -/

/-- A mask without predication is the bits of each element (R191). -/
theorem maskBit_writeMask {p : Pred} (hp : p.men = false) (h : n < v.masks.length) (res : Nat → Bool) {k : Nat} (hk : k < 512) :
    (v.writeMask p ty n res).maskBit n k = res (k / vMaskStep ty) := by
  have hact : ∀ j, v.active p ty j = true := fun j => by simp [VEngine.active, hp]
  have hm : (v.writeMask p ty n res).masks.getD n 0 =
      BitVec.ofNat 512 (packBits 1 ((List.range 512).map fun k => b2n (res (k / vMaskStep ty)))) := by
    rw [VEngine.writeMask, getD_updAt, if_pos ⟨rfl, h⟩]
    simp only [hact, if_true]
  have hbit : ∀ b : Bool, (b2n b % 2 ^ 1 == 1) = b := by decide
  rw [VEngine.maskBit, hm, BitVec.getLsbD_ofNat, decide_eq_true hk, Bool.true_and, Nat.testBit_eq_decide_div_mod_eq,
    ← Nat.shiftRight_eq_div_pow]
  have hf := packBits_field 1 ((List.range 512).map fun k => b2n (res (k / vMaskStep ty))) k
  rw [Nat.one_mul] at hf
  have hd : ((List.range 512).map fun k => b2n (res (k / vMaskStep ty))).getD k 0 = b2n (res (k / vMaskStep ty)) := by
    simp [List.getD_eq_getElem?_getD, hk]
  rw [hd] at hf
  rw [show 2 = 2 ^ 1 from rfl, hf]
  cases res (k / vMaskStep ty) <;> rfl

theorem regMark_setMark (h : n < v.regMarks.length) (m : Mark) : (v.setMark ty n m).regMark n = m := by
  have h1 : ∀ w : VEngine, w.regMarks.length = v.regMarks.length → (updAt n (fun _ => m) w.regMarks).getD n Mark.neutral = m := fun w hw => by
    rw [getD_updAt, if_pos ⟨rfl, hw ▸ h⟩]
  unfold VEngine.setMark VEngine.regMark
  dsimp only
  split
  · rw [getD_updAt, if_neg fun hk => Nat.succ_ne_self n hk.1]
    exact h1 v rfl
  · exact h1 v rfl

theorem regMark_setMark_ne {k : Nat} (h3 : ty ≠ 3) (h : k ≠ n) (m : Mark) : (v.setMark ty n m).regMark k = v.regMark k := by
  unfold VEngine.setMark VEngine.regMark
  dsimp only
  rw [if_neg h3, getD_updAt, if_neg fun hk => h hk.1.symm]

theorem maskMark_setMaskMark (h : n < v.maskMarks.length) (m : Mark) : (v.setMaskMark n m).maskMark n = m := by
  rw [VEngine.maskMark, VEngine.setMaskMark, getD_updAt, if_pos ⟨rfl, h⟩]

/-- No flag raised, nothing changes. -/
theorem raise_eq_self {fs : List (Nat × Nat)} (h : ∀ f ∈ fs, f.2 = 0) : v.raise n fs = v := by
  have hall : ∀ l : List (Nat × Nat), (∀ f ∈ l, f.2 = 0) → l.foldl (fun a f => a ||| f.2) 0 = 0 := by
    intro l hl
    induction l with
    | nil => rfl
    | cons a l ih =>
      rw [List.foldl_cons, hl a (List.mem_cons_self ..)]
      exact ih fun f hf => hl f (List.mem_cons_of_mem _ hf)
  rw [VEngine.raise, hall fs h]
  rfl

/-! ## The engine after an instruction -/

/-- Two engines with the same registers, masks, marks and flags. -/
structure VEngine.Agrees (x y : VEngine) : Prop where
  regs : x.regs = y.regs
  regMarks : x.regMarks = y.regMarks
  masks : x.masks = y.masks
  maskMarks : x.maskMarks = y.maskMarks
  flags : x.flags = y.flags

namespace VEngine.Agrees

theorem reg (h : x.Agrees y) : x.reg n = y.reg n := by rw [VEngine.reg, VEngine.reg, h.regs]
theorem elem (h : x.Agrees y) : x.elem ty n e = y.elem ty n e := by simp only [VEngine.elem, h.reg]
theorem regMark (h : x.Agrees y) : x.regMark n = y.regMark n := by rw [VEngine.regMark, VEngine.regMark, h.regMarks]
theorem maskBit (h : x.Agrees y) : x.maskBit n e = y.maskBit n e := by rw [VEngine.maskBit, VEngine.maskBit, h.masks]
theorem maskMark (h : x.Agrees y) : x.maskMark n = y.maskMark n := by rw [VEngine.maskMark, VEngine.maskMark, h.maskMarks]
theorem flag (h : x.Agrees y) : x.flag n e = y.flag n e := by rw [VEngine.flag, VEngine.flag, h.flags]

end VEngine.Agrees

/-- An engine as an instruction leaves it where it stood: its registers apart, the work that it holds. -/
structure VEngine.Stands (x v : VEngine) : Prop where
  u : x.u = v.u
  desc : x.desc = v.desc
  pos : x.pos = v.pos
  outer : x.outer = v.outer
  inner : x.inner = v.inner

theorem vReady_engine (h : s.vReady u w = some v) : s.vengine? u = some v ∧ vFormOk w = true := by
  unfold State.vReady at h
  split at h
  · cases h
  next v' hv =>
    split at h
    · cases h
    next hgo =>
      have hform : vFormOk w = true := by
        simp only [Bool.or_eq_true, Bool.not_eq_true', not_or] at hgo
        simpa using hgo.2
      split at h
      · split at h
        · cases h
          exact ⟨hv, hform⟩
        · cases h
      · cases h
        exact ⟨hv, hform⟩

/-- The engine of a cluster, after it is replaced. -/
theorem vengine?_setVEngine (hv : s.vengine? u = some v) (hu : (s.vengines.map VEngine.u).Nodup) (hx : x.u = v.u) (hd : x.desc = v.desc) :
    (s.setVEngine x).vengine? u = some x := by
  have hp := List.find?_some hv
  simp only [Bool.and_eq_true, beq_iff_eq] at hp
  have hmem := List.mem_of_find?_eq_some hv
  have hfirst : s.vengines.find? (fun y => y.u == x.u) = some v := by
    obtain ⟨y, hy⟩ : ∃ y, s.vengines.find? (fun y => y.u == x.u) = some y := by
      rw [← Option.isSome_iff_exists, List.find?_isSome]
      exact ⟨v, hmem, by simp [hx]⟩
    have hyu : y.u = x.u := by simpa using List.find?_some hy
    rw [hy, List.inj_on_of_nodup_map hu (List.mem_of_find?_eq_some hy) hmem (hyu.trans hx)]
  obtain ⟨as, bs, -, has, hset⟩ := updFirst_of_find? hfirst
  rw [State.vengine?, State.setVEngine, hset, List.find?_append]
  have hnone : as.find? (fun y => y.u == u && !y.desc.isEmpty) = none := List.find?_eq_none.2 fun y hy => by
    have := has y hy
    rw [hx, hp.1] at this
    simp [this]
  have hxu : x.u = u := hx.trans hp.1
  simp [hnone, hxu, hd, hp.2]

/-- A trap changes no more than a job. -/
theorem trapJob_jobs (s : State) (i : Issue) (q : BitVec 32) (ts : List Trap) (l : List Job) :
    ({ s.trapJob i q ts with jobs := l } : State) = { s with jobs := l } := by
  unfold State.trapJob
  split
  · rfl
  · refine foldl_keeps (g := fun s => ({ s with jobs := l } : State)) (fun s t => ?_) ts s
    split <;> rfl

/-- An instruction that comes to its end: the engine has its result and stands at the next place of its body. -/
theorem vRun_ok {src : Nat} {F : State → VEngine → VDesc → VEnd} {evs : List VEv} (h : VecRuns s u w v)
    (hF : F s v (vdesc v.desc) = .ok s y evs m) (hy : y.Stands v) :
    ∃ x, (s.vRun u w src F).vengine? u = some x ∧ VecGoesOn s (s.vRun u w src F) v x ∧ x.Agrees y := by
  obtain ⟨hr, hu, -⟩ := h
  obtain ⟨hv, -⟩ := vReady_engine hr
  have hrun : ∃ (ts : List Trap) (c : Counts), s.vRun u w src F =
      (s.setVEngine (({ y with traps := ts.foldl addTrap y.traps, counts := c } : VEngine).advance (vdesc v.desc))).trapJob
        (s.vIssue v) v.jobSeq ts := by
    rw [State.vRun, hr]
    simp only [hF]
    exact ⟨_, _, rfl⟩
  obtain ⟨ts, c, hrun⟩ := hrun
  rw [hrun]
  generalize hx : (({ y with traps := ts.foldl addTrap y.traps, counts := c } : VEngine).advance (vdesc v.desc)) = x
  have hj := trapJob_jobs (s.setVEngine x) (s.vIssue v) v.jobSeq ts s.jobs
  have hxu : x.u = v.u := by rw [← hx]; exact hy.u
  have hxd : x.desc = v.desc := by rw [← hx]; exact hy.desc
  refine ⟨x, ?_, ⟨hxd, ?_, ?_⟩, ?_⟩
  · have he := congrArg (fun t : State => t.vengine? u) hj
    exact Eq.trans he (vengine?_setVEngine hv hu hxu hxd)
  · rw [← hx, ← hy.pos, ← hy.outer, ← hy.inner]
    rfl
  · exact congrArg (fun t : State => ({ t with vengines := s.vengines } : State)) hj
  · rw [← hx]
    exact ⟨rfl, rfl, rfl, rfl, rfl⟩

/-! ## Words -/

theorem opcode_wordR {opc : Nat} (h : opc < 256) (f : RFields) :
    bits (wordR opc f) 63 56 = opc ∧ vType (wordR opc f) = f.type.val ∧ vVD (wordR opc f) = f.vd.val := by
  have h1 := f.type.isLt
  have h2 := f.vd.isLt
  have h3 := f.va.isLt
  have h4 := f.vb.isLt
  have h5 := f.vc.isLt
  have h6 := f.xf.isLt
  have h7 := f.lane.isLt
  have h8 := f.ms.isLt
  have hb : ∀ b : Bool, b2n b ≤ 1 := by decide
  have b1 := hb f.men
  have b2 := hb f.zm
  have b3 := hb f.sr
  have b4 := hb f.ba
  have b5 := hb f.half
  simp only [wordR, vType, vVD, vHead, predR, put, Nat.shiftLeft_eq]
  refine ⟨?_, ?_, ?_⟩
  all_goals
    rw [bits_word _ _ _ (by decide)]
    omega

theorem opcode_wordI {opc : Nat} (h : opc < 256) (f : IFields) :
    bits (wordI opc f) 63 56 = opc ∧ vType (wordI opc f) = f.type.val ∧ vVD (wordI opc f) = f.vd.val := by
  have h1 := f.type.isLt
  have h2 := f.vd.isLt
  have h3 := f.imm.isLt
  have h8 := f.ms.isLt
  have hb : ∀ b : Bool, b2n b ≤ 1 := by decide
  have b1 := hb f.men
  have b2 := hb f.zm
  simp only [wordI, vType, vVD, vHead, predI, put, Nat.shiftLeft_eq]
  refine ⟨?_, ?_, ?_⟩
  all_goals
    rw [bits_word _ _ _ (by decide)]
    omega

/-- An instruction in W that writes a register names an even one (R190, R201). -/
theorem even_of_formOk {o : VOp} (h : vFormOk w = true) (ho : vopOf w = some o) (hm : o.maskDst = false) (h22 : o.opc ≠ 0x22)
    (hst : isStore o.opc = false) : o.lo ≤ vType w ∧ vType w ≤ o.hi ∧ (vType w = 3 → vVD w % 2 = 0) := by
  unfold vFormOk at h
  rw [ho] at h
  simp only [Bool.and_eq_true] at h
  obtain ⟨⟨⟨⟨⟨⟨⟨⟨⟨hr, -⟩, -⟩, he⟩, -⟩, -⟩, -⟩, -⟩, -⟩, -⟩ := h
  simp only [vFormOk.within, Bool.and_eq_true, decide_eq_true_eq] at hr
  refine ⟨hr.1, hr.2, fun h3 => ?_⟩
  simpa [h3, hm, h22, hst] using he

end Sys2Proof.Machine
end
section
/-!
PROOF. The mask, selection, bit, reduction, plane and flag instructions complete (R191, R203, R204, R206, R208, R211, R213).
-/

namespace Sys2Proof.Machine

variable {s : State} {u : VUnit} {w : Word} {v x y : VEngine} {m : Mark} {ty n e src : Nat} {i : Instr} {p : Pred}
  {F : State → VEngine → VDesc → VEnd}

/-! ## Engines that stand -/

theorem VEngine.Stands.trans (h : x.Stands y) (h' : y.Stands v) : x.Stands v :=
  ⟨h.u.trans h'.u, h.desc.trans h'.desc, h.pos.trans h'.pos, h.outer.trans h'.outer, h.inner.trans h'.inner⟩

theorem stands_writeElems (v : VEngine) (ty n : Nat) (f : Nat → Option Nat) : (v.writeElems ty n f).Stands v := by
  unfold VEngine.writeElems VEngine.putElems
  split <;> exact ⟨rfl, rfl, rfl, rfl, rfl⟩

theorem stands_setMark (v : VEngine) (ty n : Nat) (m : Mark) : (v.setMark ty n m).Stands v := by
  unfold VEngine.setMark
  dsimp only
  split <;> exact ⟨rfl, rfl, rfl, rfl, rfl⟩

theorem masks_writeElems (v : VEngine) (ty n : Nat) (f : Nat → Option Nat) : (v.writeElems ty n f).masks = v.masks := by
  unfold VEngine.writeElems VEngine.putElems
  split <;> rfl

theorem regMarks_writeElems (v : VEngine) (ty n : Nat) (f : Nat → Option Nat) : (v.writeElems ty n f).regMarks = v.regMarks := by
  unfold VEngine.writeElems VEngine.putElems
  split <;> rfl

theorem masks_setMark (v : VEngine) (ty n : Nat) (m : Mark) : (v.setMark ty n m).masks = v.masks := by
  unfold VEngine.setMark
  dsimp only
  split <;> rfl

theorem regs_setMark (v : VEngine) (ty n : Nat) (m : Mark) : (v.setMark ty n m).regs = v.regs := by
  unfold VEngine.setMark
  dsimp only
  split <;> rfl

theorem elem_setMark (v : VEngine) (ty n : Nat) (m : Mark) (ty' n' : Nat) : (v.setMark ty n m).elem ty' n' e = v.elem ty' n' e := by
  have hr : ∀ k, (v.setMark ty n m).reg k = v.reg k := fun k => by rw [VEngine.reg, VEngine.reg, regs_setMark]
  rw [VEngine.elem, VEngine.elem, hr, hr]

/-! ## What an instruction without a mask to govern it does -/

theorem result_unmasked (hp : p.men = false) (ty e a : Nat) : v.result p ty e a = some a := by
  rw [VEngine.result, VEngine.active, hp]
  rfl

theorem withMarks_some {owner : Nat} {ms : List Mark} (h : joinMarks owner ms = some m) (k : Mark → VEnd) : withMarks owner ms k = k m := by
  rw [withMarks, h]

/-- An instruction that writes a mask. -/
theorem mask_completes {res : Nat → Bool} (h : VecRuns s u w v) (hi : exec i s = .next (s.vRun u w src F)) (hp : p.men = false)
    (hF : F s v (vdesc v.desc) = .ok s ((v.writeMask p ty (n % 8) res).setMaskMark (n % 8) m) [] m) :
    Answers i s fun t => ∃ x, t.vengine? u = some x ∧ VecGoesOn s t v x ∧
      (∀ k, k < 512 → x.maskBit (n % 8) k = res (k / vMaskStep ty)) ∧ x.maskMark (n % 8) = m ∧ x.regs = v.regs := by
  obtain ⟨x, hx, hgo, ha⟩ := vRun_ok (src := src) h hF ⟨rfl, rfl, rfl, rfl, rfl⟩
  obtain ⟨-, -, -, hm, -, hmm⟩ := h
  refine ⟨_, hi, x, hx, hgo, fun k hk => ?_, ?_, ha.regs⟩
  · have hn : n % 8 < v.masks.length := by rw [hm]; exact Nat.mod_lt _ (by decide)
    have hb : (v.writeMask p ty (n % 8) res).maskBit (n % 8) k = res (k / vMaskStep ty) := maskBit_writeMask hp hn res hk
    rw [ha.maskBit, ← hb]
    rfl
  · rw [ha.maskMark]
    exact maskMark_setMaskMark (v := v.writeMask p ty (n % 8) res) (show n % 8 < v.maskMarks.length by rw [hmm]; exact Nat.mod_lt _ (by decide)) m

theorem fits_of_runs (h : VecRuns s u w v) (hn : n < 32) (he : ty = 3 → n + 1 < 32) : v.Fits ty n := by
  obtain ⟨-, -, hr, -⟩ := h
  exact ⟨hr ▸ hn, fun h3 => hr ▸ he h3⟩

/-- An instruction that writes a register, or a pair for W. -/
theorem reg_completes {val res : Nat → Nat} {evs : List VEv} (h : VecRuns s u w v) (hi : exec i s = .next (s.vRun u w src F)) (hp : p.men = false)
    (hn : n < 32) (hw : ty = 3 → n + 1 < 32)
    (hF : F s v (vdesc v.desc) = .ok s ((v.writeElems ty n fun e => v.result p ty e (val e)).setMark ty n m) evs m)
    (hval : ∀ e, val e % 2 ^ vElemBits ty = res e) :
    Answers i s fun t => ∃ x, t.vengine? u = some x ∧ VecGoesOn s t v x ∧
      (∀ e, e < vCount ty → x.elem ty n e = res e) ∧ x.regMark n = m ∧ x.masks = v.masks := by
  obtain ⟨x, hx, hgo, ha⟩ := vRun_ok (src := src) h hF ((stands_setMark ..).trans (stands_writeElems ..))
  have hfits := fits_of_runs h hn hw
  obtain ⟨-, -, -, -, hrm, -⟩ := h
  refine ⟨_, hi, x, hx, hgo, fun e he => ?_, ?_, ?_⟩
  · rw [ha.elem, elem_setMark, elem_writeElems hfits _ he, result_unmasked hp, Option.getD_some, hval]
  · rw [ha.regMark]
    exact regMark_setMark (by rw [regMarks_writeElems, hrm]; exact hn) m
  · rw [ha.masks, masks_setMark, masks_writeElems]

/-! ## Class R instructions -/

variable {f : RFields}

theorem opA_code (hb : f.ba = false) (st j : Nat) : (v.opA f st j) = ⟨st, v.elem st f.va.val j⟩ := by
  simp [VEngine.opA, hb]

/-- The even register that an instruction in W names, and the one after it. -/
theorem pair_lt {o : VOp} {opc : Nat} (h : VecRuns s u (wordR opc f) v) (hlt : opc < 256) (ho : vops.find? (fun o => o.opc == opc) = some o)
    (hm : o.maskDst = false) (h22 : o.opc ≠ 0x22) (hst : isStore o.opc = false) :
    o.lo ≤ f.type.val ∧ f.type.val ≤ o.hi ∧ (f.type.val = 3 → f.vd.val + 1 < 32) := by
  obtain ⟨hr, -⟩ := h
  obtain ⟨hopc, hty, hvd⟩ := opcode_wordR hlt f
  have hvop : vopOf (wordR opc f) = some o := by rw [vopOf, hopc, ho]
  obtain ⟨h1, h2, h3⟩ := even_of_formOk (vReady_engine hr).2 hvop hm h22 hst
  rw [hty] at h1 h2 h3
  rw [hvd] at h3
  refine ⟨h1, h2, fun h => ?_⟩
  have := h3 h
  have := f.vd.isLt
  omega

section Masks

variable (hmen : f.men = false) {ms : List Mark} (hms : joinMarks (vdesc v.desc).owner ms = some m)
include hmen hms

theorem vMaskOut_unmasked {res : Nat → Bool} : vMaskOut f v (vdesc v.desc) ms res [] s =
    .ok s ((v.writeMask (predR f) f.type.val (f.vd.val % 8) res).setMaskMark (f.vd.val % 8) m) [] m := by
  have hp : (predR f).men = false := hmen
  rw [vMaskOut]
  simp only [VEngine.predMarks, hp, Bool.false_and, Bool.false_eq_true, if_false, List.append_nil]
  rw [withMarks_some hms, raise_eq_self (by simp)]
  rfl

theorem vPlain_unmasked {val : Nat → Nat} : vPlain ty n (predR f) v (vdesc v.desc) ms val s =
    .ok s ((v.writeElems ty n fun e => v.result (predR f) ty e (val e)).setMark ty n m) [] m := by
  have hp : (predR f).men = false := hmen
  rw [vPlain]
  simp only [VEngine.predMarks, VEngine.keptMarks, hp, Bool.false_and, Bool.not_true, Bool.or_self, Bool.false_eq_true, if_false, List.append_nil]
  rw [withMarks_some hms]

end Masks

/-! ## Integers as values -/

theorem leMag_zero (a b : Nat) : leMag a 0 b 0 = decide (a ≤ b) := by
  simp [leMag]

theorem eqv_intVal (a b : Int) : (intVal a).eqv (intVal b) = decide (a = b) := by
  simp only [intVal, FV.eqv, FV.isZero, FV.neg, FV.leAbs, leMag_zero]
  rw [Bool.eq_iff_iff]
  simp only [Bool.or_eq_true, Bool.and_eq_true, beq_iff_eq, decide_eq_true_eq, decide_eq_decide]
  omega

theorem lt_intVal (a b : Int) : (intVal a).lt (intVal b) = decide (a < b) := by
  simp only [intVal, FV.lt, FV.ltTotal, FV.isZero, FV.neg, FV.leAbs, leMag_zero]
  rw [Bool.eq_iff_iff]
  by_cases ha : a < 0 <;> by_cases hb : b < 0 <;>
    simp only [ha, hb, decide_true, decide_false, Bool.and_eq_true, Bool.not_eq_true', Bool.and_eq_false_iff, beq_eq_false_iff_ne,
      decide_eq_true_eq, decide_eq_false_iff_not, and_true, Bool.false_eq_true, and_false, false_iff] <;> omega

theorem val_of_int (h : 4 ≤ ty) (a : Nat) : (⟨ty, a⟩ : VNum).val = intVal (signed (vElemBits ty) a) := by
  rw [VNum.val, isInt, decide_eq_true h, if_pos rfl]
  rfl

theorem eqv_int (h : 4 ≤ ty) (a b : Nat) : (⟨ty, a⟩ : VNum).val.eqv (⟨ty, b⟩ : VNum).val =
    decide (signed (vElemBits ty) a = signed (vElemBits ty) b) := by
  rw [val_of_int h, val_of_int h, eqv_intVal]

theorem lt_int (h : 4 ≤ ty) (a b : Nat) : (⟨ty, a⟩ : VNum).val.lt (⟨ty, b⟩ : VNum).val =
    decide (signed (vElemBits ty) a < signed (vElemBits ty) b) := by
  rw [val_of_int h, val_of_int h, lt_intVal]

theorem le_int (h : 4 ≤ ty) (a b : Nat) : ((⟨ty, a⟩ : VNum).val.lt (⟨ty, b⟩ : VNum).val || (⟨ty, a⟩ : VNum).val.eqv (⟨ty, b⟩ : VNum).val) =
    decide (signed (vElemBits ty) a ≤ signed (vElemBits ty) b) := by
  rw [lt_int h, eqv_int h, ← Bool.decide_or, decide_eq_decide]
  omega

/-- A comparison of integers (R204). -/
theorem vCompare_int (h : 4 ≤ ty) (k : Fin 8) (a b : Nat) : vCompare k.val ⟨ty, a⟩ ⟨ty, b⟩ =
    [decide (signed (vElemBits ty) a = signed (vElemBits ty) b), decide (signed (vElemBits ty) a ≠ signed (vElemBits ty) b),
      decide (signed (vElemBits ty) a < signed (vElemBits ty) b), decide (signed (vElemBits ty) a ≤ signed (vElemBits ty) b),
      decide (signed (vElemBits ty) b < signed (vElemBits ty) a), decide (signed (vElemBits ty) b ≤ signed (vElemBits ty) a)].getD
        k.val false := by
  match k with
  | 0 => exact eqv_int h a b
  | 1 => exact (congrArg (!·) (eqv_int h a b)).trans decide_not.symm
  | 2 => exact lt_int h a b
  | 3 => exact le_int h a b
  | 4 => exact lt_int h b a
  | 5 => exact (show ((⟨ty, b⟩ : VNum).val.lt (⟨ty, a⟩ : VNum).val || (⟨ty, a⟩ : VNum).val.eqv (⟨ty, b⟩ : VNum).val) = _ by
      rw [lt_int h, eqv_int h, ← Bool.decide_or]
      exact decide_eq_decide.2 (by omega))
  | 6 => exact (show ((⟨ty, a⟩ : VNum).val.isNan || (⟨ty, b⟩ : VNum).val.isNan) = _ by rw [val_of_int h, val_of_int h]; rfl)
  | 7 => exact (show (⟨ty, a⟩ : VNum).val.isInf = _ by rw [val_of_int h]; rfl)

theorem badW_int (h : 4 ≤ ty) (a : Nat) : badW ty a = false := by
  have h3 : ty ≠ 3 := by omega
  simp [badW, h3]

/-! ## Comparisons and masks -/

section Operands

variable (hmen : f.men = false) (hba : f.ba = false)
include hmen hba

theorem vcmp_completes (h : VecRuns s u (wordR 0x10 f) v) (h4 : 4 ≤ f.type.val)
    (hms : joinMarks (vdesc v.desc).owner (v.marksOf f.type.val f.va.val ++ v.marksOf f.type.val f.vb.val) = some m) :
    Answers (.vcmp u f) s fun t => ∃ x, t.vengine? u = some x ∧ VecGoesOn s t v x ∧
      (∀ k, k < 512 → x.maskBit (f.vd.val % 8) k = vCompare f.xf.val ⟨f.type.val, v.elem f.type.val f.va.val (k / vMaskStep f.type.val)⟩
        ⟨f.type.val, v.elem f.type.val f.vb.val (k / vMaskStep f.type.val)⟩) ∧ x.maskMark (f.vd.val % 8) = m ∧ x.regs = v.regs := by
  refine mask_completes (p := predR f) (ty := f.type.val) (res := fun e =>
    vCompare f.xf.val ⟨f.type.val, v.elem f.type.val f.va.val e⟩ ⟨f.type.val, v.elem f.type.val f.vb.val e⟩) h rfl hmen ?_
  have h2 : decide (f.type.val ≤ 2) = false := by simpa using by omega
  simp only [opA_code hba, badW_int h4, h2, Bool.or_self, Bool.and_false, Bool.false_eq_true, if_false]
  rw [if_neg (by simp)]
  exact vMaskOut_unmasked hmen hms

omit hba in
/-- A mask operation on the bits that govern elements. -/
theorem maskOp_completes {opc : Nat} {two : Bool} {op : Bool → Bool → Bool} (h : VecRuns s u (wordR opc f) v)
    (hi : exec i s = vMaskOp opc two op u f s)
    (hms : joinMarks (vdesc v.desc).owner
      ([v.maskMark (f.va.val % 8)] ++ if two then [v.maskMark (f.vb.val % 8)] else []) = some m) :
    Answers i s fun t => ∃ x, t.vengine? u = some x ∧ VecGoesOn s t v x ∧
      (∀ k, k < 512 → x.maskBit (f.vd.val % 8) k =
        op (v.maskBit (f.va.val % 8) (vMaskStep f.type.val * (k / vMaskStep f.type.val)))
          (v.maskBit (f.vb.val % 8) (vMaskStep f.type.val * (k / vMaskStep f.type.val)))) ∧ x.maskMark (f.vd.val % 8) = m ∧ x.regs = v.regs :=
  mask_completes (p := predR f) (ty := f.type.val) (res := fun j =>
    op (v.maskBit (f.va.val % 8) (vMaskStep f.type.val * j)) (v.maskBit (f.vb.val % 8) (vMaskStep f.type.val * j))) h hi hmen
    (vMaskOut_unmasked hmen hms)

/-! ## Selection and bits -/

theorem vsel_completes (h : VecRuns s u (wordR 0x15 f) v)
    (hms : joinMarks (vdesc v.desc).owner
      (v.marksOf f.type.val f.va.val ++ v.marksOf f.type.val f.vb.val ++ [v.maskMark (f.vc.val % 8)]) = some m) :
    Answers (.vsel u f) s fun t => ∃ x, t.vengine? u = some x ∧ VecGoesOn s t v x ∧
      (∀ e, e < vCount f.type.val → x.elem f.type.val f.vd.val e = if v.maskBit (f.vc.val % 8) (vMaskStep f.type.val * e) then
        v.elem f.type.val f.va.val e else v.elem f.type.val f.vb.val e) ∧ x.regMark f.vd.val = m ∧ x.masks = v.masks := by
  obtain ⟨-, -, hpair⟩ := pair_lt h (by decide) (o := ⟨0x15, .r, 0, 6, true, true, false, false, false, false⟩) (by decide) rfl (by decide)
    (by decide)
  refine reg_completes (p := predR f) h rfl hmen f.vd.isLt hpair (vPlain_unmasked hmen hms) fun e => ?_
  simp only [opA_code hba, maskNo]
  split
  · exact Nat.mod_eq_of_lt elem_lt
  · exact Nat.mod_eq_of_lt elem_lt

/-- A bit operation on integer elements. -/
theorem bitOp_completes {opc : Nat} {op : Nat → Nat → Nat → Nat} {res : Nat → Nat} (h : VecRuns s u (wordR opc f) v) (hlt : opc < 256)
    (ho : vops.find? (fun o => o.opc == opc) = some ⟨opc, .r, 4, 6, true, false, false, false, false, false⟩) (h22 : opc ≠ 0x22)
    (hst : isStore opc = false) (hi : exec i s = vBitOp opc op u f s)
    (hms : joinMarks (vdesc v.desc).owner (v.marksOf f.type.val f.va.val ++ v.marksOf f.type.val f.vb.val) = some m)
    (hres : ∀ e, op (vElemBits f.type.val) (v.elem f.type.val f.va.val e) (v.elem f.type.val f.vb.val e) % 2 ^ vElemBits f.type.val = res e) :
    Answers i s fun t => ∃ x, t.vengine? u = some x ∧ VecGoesOn s t v x ∧
      (∀ e, e < vCount f.type.val → x.elem f.type.val f.vd.val e = res e) ∧ x.regMark f.vd.val = m ∧ x.masks = v.masks := by
  obtain ⟨-, -, hpair⟩ := pair_lt h hlt ho rfl h22 hst
  refine reg_completes (p := predR f) h hi hmen f.vd.isLt hpair (vPlain_unmasked hmen hms) fun e => ?_
  rw [opA_code hba, ← hres, Nat.mod_mod]

end Operands

end Sys2Proof.Machine
end
section
/-!
PROOF. Reductions, remainder planes, flags and the immediates complete (R204, R208, R211, R213).
-/

namespace Sys2Proof.Machine

variable {s : State} {u : VUnit} {w : Word} {v x y : VEngine} {m : Mark} {ty n e : Nat} {f : RFields}

/-- An instruction that comes to its end with an engine of a family, whose members differ in what no register shows. -/
theorem vec_completes {i : Instr} {src : Nat} {F : State → VEngine → VDesc → VEnd} {P : State → Prop} {Y : Counts → VEngine}
    (h : VecRuns s u w v) (hi : exec i s = .next (s.vRun u w src F)) (hF : ∃ k evs, F s v (vdesc v.desc) = .ok s (Y k) evs m)
    (hy : ∀ k, (Y k).Stands v) (hP : ∀ t x k, t.vengine? u = some x → VecGoesOn s t v x → x.Agrees (Y k) → P t) : Answers i s P := by
  obtain ⟨k, evs, hF⟩ := hF
  obtain ⟨x, hx, hgo, ha⟩ := vRun_ok (src := src) h hF (hy k)
  exact ⟨_, hi, hP _ x k hx hgo ha⟩

/-! ## Reductions -/

/-- The sum of integers (R208). -/
theorem vReduce_sum (h : 4 ≤ ty) {strict : Bool} {mode : RMode} {es : List (Nat × VNum)} {places : List (Option VRes)}
    (hes : ∀ e ∈ es, e.2.ty = ty) (hne : es ≠ []) :
    vReduce 0 strict ty mode es places = ⟨unsigned 32 (es.map fun e => e.2.int).sum, 0, 0, 0, false⟩ := by
  have hnan : es.find? (fun e => e.2.val.isNan) = none := List.find?_eq_none.2 fun e he => by
    obtain ⟨k, t, a⟩ := e
    have ht : t = ty := hes _ he
    subst ht
    rw [val_of_int h]
    simp [intVal, FV.isNan]
  have hempty : es.isEmpty = false := by simpa using hne
  have hint : isInt ty = true := decide_eq_true h
  simp only [vReduce, hnan, hint, if_true, hempty]
  rfl

theorem unsigned_lt (k : Nat) (z : Int) : unsigned k z < 2 ^ k := by
  have hp : (0 : Int) < ((2 ^ k : Nat) : Int) := by exact_mod_cast Nat.two_pow_pos k
  have := Int.emod_lt_of_pos z hp
  have := Int.emod_nonneg z hp.ne'
  rw [unsigned]
  omega

theorem vCount_pos (ty : Nat) : 0 < vCount ty := by
  unfold vCount
  split <;> decide

/-- The elements that a reduction without a mask takes. -/
theorem live_unmasked {p : Pred} (hp : p.men = false) (l : List (Nat × VNum)) : (l.filter fun e => v.active p ty e.1) = l :=
  List.filter_eq_self.2 fun e _ => by rw [VEngine.active, hp]; rfl

/-- An engine with the sum of a register's elements in a register. -/
def VEngine.reduced (v : VEngine) (n z : Nat) (k : Counts) : VEngine :=
  { v.putReg n (packBits 32 [z % 2 ^ 32, 0, 0]) with counts := k }

theorem vred_completes (hmen : f.men = false) (hba : f.ba = false) (h : VecRuns s u (wordR 0x21 f) v) (h4 : 4 ≤ f.type.val) (hxf : f.xf.val = 0)
    (hms : joinMarks (vdesc v.desc).owner (v.marksOf f.type.val f.va.val) = some m) :
    Answers (.vred u f) s fun t => ∃ x, t.vengine? u = some x ∧ VecGoesOn s t v x ∧
      x.reg f.vd.val = unsigned 32 ((List.range (vCount f.type.val)).map fun e => signed (vElemBits f.type.val)
        (v.elem f.type.val f.va.val e)).sum ∧ x.regMark f.vd.val = m ∧ x.masks = v.masks := by
  generalize hz : unsigned 32 ((List.range (vCount f.type.val)).map fun e => signed (vElemBits f.type.val)
    (v.elem f.type.val f.va.val e)).sum = z
  have hzlt : z < 2 ^ 32 := hz ▸ unsigned_lt ..
  have h3 : ¬f.type.val = 3 := by omega
  have hp : (predR f).men = false := hmen
  have hlen := h.2.2.1
  have hrm := h.2.2.2.2.1
  have hred : ∀ (strict : Bool) (mode : RMode) (places : List (Option VRes)),
      vReduce 0 strict f.type.val mode ((List.range (vCount f.type.val)).map fun j => (j, v.opA f f.type.val j)) places = ⟨z, 0, 0, 0, false⟩ := by
    intro strict mode places
    rw [vReduce_sum h4, ← hz, List.map_map]
    · congr 3
      exact List.map_congr_left fun e _ => by simp only [Function.comp, opA_code hba]; rfl
    · intro e he
      obtain ⟨j, -, rfl⟩ := List.mem_map.1 he
      rw [opA_code hba]
    · have := vCount_pos f.type.val
      simp only [ne_eq, List.map_eq_nil_iff, List.range_eq_nil]
      omega
  refine vec_completes (Y := fun k => (v.reduced f.vd.val z k).setMark f.type.val f.vd.val m) (m := m) h rfl ?_
    (fun k => (stands_setMark ..).trans ⟨rfl, rfl, rfl, rfl, rfl⟩) fun t x k hx hgo ha => ⟨x, hx, hgo, ?_, ?_, ?_⟩
  · have hbad : ∀ a, badW f.type.val a = false := badW_int h4
    refine ⟨?counts, ?evs, ?ends⟩
    case ends =>
    simp only [live_unmasked hp, hbad, hxf, hred, VEngine.predMarks, hp, Bool.false_eq_true, if_false, List.append_nil]
    rw [if_neg (by simp), withMarks_some hms, if_neg h3, raise_eq_self (by simp)]
    rfl
  · have hpack : packBits 32 [z % 2 ^ 32, 0, 0] = z := by
      simp only [packBits, Nat.zero_mod, Nat.zero_shiftLeft, Nat.add_zero, Nat.mod_mod]
      exact Nat.mod_eq_of_lt hzlt
    rw [ha.reg, VEngine.reg, regs_setMark]
    refine Eq.trans (reg_putReg_lt (v := v) (by rw [hlen]; exact f.vd.isLt) (k := 32) ?_ (by decide)) hpack
    rw [hpack]
    exact hzlt
  · rw [ha.regMark]
    exact regMark_setMark (v := v.reduced f.vd.val z k) (show f.vd.val < v.regMarks.length by rw [hrm]; exact f.vd.isLt) m
  · rw [ha.masks, masks_setMark]
    rfl

/-! ## Remainder planes -/

/-- What stands under a number among the results of a range. -/
theorem find?_map_range {α : Type} (g : Nat → α) {k e : Nat} (he : e < k) :
    ((List.range k).map fun j => (j, g j)).find? (fun r => r.1 == e) = some (e, g e) := by
  rw [List.find?_map]
  have hf : (List.range k).find? ((fun r : Nat × α => r.1 == e) ∘ fun j => (j, g j)) = some e := by
    refine List.find?_range_eq_some.2 ⟨by simp, List.mem_range.2 he, fun j hj => ?_⟩
    simp
    omega
  rw [hf]
  rfl

/-- A plane of a register's W elements. -/
def VEngine.plane (v : VEngine) (va : Nat) (pick : Nat × Nat × Counts → Nat) (e : Nat) : Option Nat :=
  if e < 128 then some (pick (splitW (fAF42.dec (v.elem 3 va e)) Counts.zero)) else none

/-- The planes of a register's W elements: weights in one register, remainders in the next. -/
def VEngine.split (v : VEngine) (va vd : Nat) (m : Mark) (k : Counts) : VEngine :=
  (({ (v.writeElems 2 vd (v.plane va fun r => r.1)).writeElems 6 (vd + 1) (v.plane va fun r => r.2.1) with
    counts := k } : VEngine).setMark 2 vd m).setMark 6 (vd + 1) m

theorem plane_eq {p : Pred} (hp : p.men = false) (v : VEngine) (va : Nat) (pick : Nat × Nat × Counts → Nat) :
    (fun e => if (decide (128 * b2n false ≤ e) && decide (e < 128 * b2n false + 128)) = true then
      v.result p 3 (e - 128 * b2n false) (((((List.range 128).map fun j => (j, (⟨3, v.elem 3 va j⟩ : VNum),
        splitW (⟨3, v.elem 3 va j⟩ : VNum).val Counts.zero)).find? fun r => r.1 == e - 128 * b2n false).map fun r => pick r.2.2).getD 0)
      else none) = v.plane va pick := by
  funext e
  have h0 : 128 * b2n false = 0 := rfl
  rw [h0, Nat.sub_zero, VEngine.plane]
  by_cases he : e < 128
  · rw [if_pos (by simpa using he), if_pos he, result_unmasked hp, find?_map_range (fun j => ((⟨3, v.elem 3 va j⟩ : VNum),
      splitW (⟨3, v.elem 3 va j⟩ : VNum).val Counts.zero)) he]
    rfl
  · rw [if_neg (by simpa using he), if_neg he]

theorem stands_split (v : VEngine) (va vd : Nat) (m : Mark) (k : Counts) : (v.split va vd m k).Stands v := by
  have hw := (stands_writeElems (v.writeElems 2 vd (v.plane va fun r => r.1)) 6 (vd + 1) (v.plane va fun r => r.2.1)).trans
    (stands_writeElems v 2 vd (v.plane va fun r => r.1))
  exact (stands_setMark ..).trans ((stands_setMark ..).trans ⟨hw.u, hw.desc, hw.pos, hw.outer, hw.inner⟩)

/-- What the planes' registers hold. -/
theorem elem_split {va vd : Nat} {k : Counts} (hlen : v.regs.length = 32) (hvd : vd < 31) :
    (∀ e, e < 256 → (v.split va vd m k).elem 2 vd e = (v.plane va (fun r => r.1) e).getD (v.elem 2 vd e) % 2 ^ 16) ∧
    (∀ e, e < 512 → (v.split va vd m k).elem 6 (vd + 1) e = (v.plane va (fun r => r.2.1) e).getD (v.elem 6 (vd + 1) e) % 2 ^ 8) := by
  have hf : v.Fits 2 vd := ⟨by omega, fun h => absurd h (by decide)⟩
  have hw : (v.writeElems 2 vd (v.plane va fun r => r.1)).regs.length = 32 := hlen ▸ length_putReg ..
  have hf' : (v.writeElems 2 vd (v.plane va fun r => r.1)).Fits 6 (vd + 1) := ⟨by omega, fun h => absurd h (by decide)⟩
  refine ⟨fun e he => ?_, fun e he => ?_⟩
  · refine (elem_setMark ..).trans ((elem_setMark ..).trans ?_)
    have hr := reg_writeElems_ne (v := v.writeElems 2 vd (v.plane va fun r => r.1)) (ty := 6) (k := vd) (n := vd + 1)
      (Nat.ne_of_lt (Nat.lt_succ_self _)) (by decide) (v.plane va fun r => r.2.1)
    refine Eq.trans ?_ (elem_writeElems hf (v.plane va fun r => r.1) he)
    exact congrArg (fun a => (a >>> (16 * e)) % 2 ^ 16) hr
  · refine (elem_setMark ..).trans ((elem_setMark ..).trans ?_)
    refine Eq.trans (elem_writeElems hf' (v.plane va fun r => r.2.1) he) ?_
    have hr := reg_writeElems_ne (v := v) (ty := 2) (k := vd + 1) (n := vd) (Nat.succ_ne_self _) (by decide) (v.plane va fun r => r.1)
    have he' : (v.writeElems 2 vd (v.plane va fun r => r.1)).elem 6 (vd + 1) e = v.elem 6 (vd + 1) e :=
      congrArg (fun a => (a >>> (8 * e)) % 2 ^ 8) hr
    rw [he']
    rfl

theorem vsplit_completes (hmen : f.men = false) (hba : f.ba = false) (h : VecRuns s u (wordR 0x22 f) v) (hvd : f.vd.val < 31) (hhalf : f.half = false)
    (hsmall : ∀ e, e < 128 → v.elem 3 f.va.val e < 2 ^ 42)
    (hms : joinMarks (vdesc v.desc).owner (v.marksOf 3 f.va.val ++ v.marksOf 2 f.vd.val ++ v.marksOf 6 (f.vd.val + 1)) = some m) :
    Answers (.vsplit u f) s fun t => ∃ x, t.vengine? u = some x ∧ VecGoesOn s t v x ∧
      (∀ e, e < 128 → let p := splitW (fAF42.dec (v.elem 3 f.va.val e)) Counts.zero
        x.elem 2 f.vd.val e = p.1 % 2 ^ 16 ∧ x.elem 6 (f.vd.val + 1) e = p.2.1 % 2 ^ 8) ∧
      (∀ e, 128 ≤ e → e < 256 → x.elem 2 f.vd.val e = v.elem 2 f.vd.val e) ∧
      x.regMark f.vd.val = m ∧ x.regMark (f.vd.val + 1) = m ∧ x.masks = v.masks := by
  have hp : (predR f).men = false := hmen
  obtain ⟨-, -, hlen, -, hrm, -⟩ := id h
  refine vec_completes (Y := fun k => v.split f.va.val f.vd.val m k) (m := m) h rfl ?_ (fun k => ?_) fun t x k hx hgo ha => ⟨x, hx, hgo, ?_, ?_, ?_, ?_, ?_⟩
  · have hlive : ((List.range 128).filter fun j => v.active (predR f) 3 j) = List.range 128 :=
      List.filter_eq_self.2 fun e _ => by rw [VEngine.active, hp]; rfl
    have hbad : ∀ e ∈ List.range 128, ¬(badW 3 (v.elem 3 f.va.val e) = true) := fun e he => by
      rw [badW, decide_eq_false (Nat.not_le.2 (hsmall e (List.mem_range.1 he)))]
      decide
    refine ⟨?counts, ?evs, ?ends⟩
    case ends =>
    simp only [hlive, opA_code hba, VEngine.predMarks, hp, Bool.false_eq_true, if_false, List.append_nil, hhalf]
    rw [if_neg (by simpa using hbad), withMarks_some hms]
    have h1 := plane_eq hp v f.va.val fun r => r.1
    have h2 := plane_eq hp v f.va.val fun r => r.2.1
    simp only [h1, h2]
    rfl
  · exact stands_split ..
  · intro e he
    have hpl : ∀ pick : Nat × Nat × Counts → Nat, v.plane f.va.val pick e = some (pick (splitW (fAF42.dec (v.elem 3 f.va.val e)) Counts.zero)) :=
      fun pick => if_pos he
    obtain ⟨h2, h6⟩ := elem_split (va := f.va.val) (m := m) (k := k) hlen hvd
    refine ⟨?_, ?_⟩
    · rw [ha.elem, h2 e (by omega), hpl]
      rfl
    · rw [ha.elem, h6 e (by omega), hpl]
      rfl
  · intro e he he'
    have hpl : v.plane f.va.val (fun r => r.1) e = none := if_neg (Nat.not_lt.2 he)
    rw [ha.elem, (elem_split hlen hvd).1 e he', hpl]
    exact Nat.mod_eq_of_lt (elem_lt (ty := 2))
  · rw [ha.regMark]
    refine (regMark_setMark_ne (by decide) (Nat.ne_of_lt (Nat.lt_succ_self _)) m).trans (regMark_setMark ?_ m)
    exact show f.vd.val < v.regMarks.length by rw [hrm]; exact f.vd.isLt
  · rw [ha.regMark]
    refine regMark_setMark ?_ m
    exact show f.vd.val + 1 < (updAt f.vd.val (fun _ => m) v.regMarks).length by rw [length_updAt, hrm]; omega
  · rw [ha.masks]
    rfl

theorem vjoin_completes (hmen : f.men = false) (hba : f.ba = false) (h : VecRuns s u (wordR 0x23 f) v) (hhalf : f.half = false)
    (hms : joinMarks (vdesc v.desc).owner (v.marksOf 2 f.va.val ++ v.marksOf 6 f.vb.val) = some m) :
    Answers (.vjoin u f) s fun t => ∃ x, t.vengine? u = some x ∧ VecGoesOn s t v x ∧
      (∀ e, e < 128 → x.elem 3 f.vd.val e = afExact (joinWR (v.elem 2 f.va.val e) (v.elem 6 f.vb.val e)) % 2 ^ 64) ∧
      x.regMark f.vd.val = m ∧ x.masks = v.masks := by
  have hp : (predR f).men = false := hmen
  obtain ⟨hlo, hhi, hpair⟩ := pair_lt h (by decide) (o := ⟨0x23, .r, 3, 3, true, false, false, true, false, false⟩) (by decide) rfl (by decide)
    (by decide)
  have hw : f.vd.val + 1 < 32 := hpair (Nat.le_antisymm hhi hlo)
  have hfits := fits_of_runs h f.vd.isLt (ty := 3) fun _ => hw
  obtain ⟨-, -, -, -, hrm, -⟩ := id h
  refine vec_completes (Y := fun _ => (v.writeElems 3 f.vd.val fun e => v.result (predR f) 3 e
      (afExact (joinWR (v.elem 2 f.va.val e) (v.elem 6 f.vb.val e)))).setMark 3 f.vd.val m) (m := m) h rfl ?_
    (fun _ => (stands_setMark ..).trans (stands_writeElems ..)) fun t x k hx hgo ha => ⟨x, hx, hgo, fun e he => ?_, ?_, ?_⟩
  · refine ⟨Counts.zero, ?evs, ?ends⟩
    case ends =>
    have h0 : 128 * b2n false = 0 := rfl
    simp only [opA_code hba, VEngine.predMarks, VEngine.keptMarks, hp, Bool.false_and, Bool.not_true, Bool.or_self, Bool.false_eq_true,
      if_false, List.append_nil, hhalf, h0, Nat.zero_add]
    rw [withMarks_some hms]
  · rw [ha.elem, elem_setMark, elem_writeElems hfits _ he, result_unmasked hp]
    rfl
  · rw [ha.regMark]
    exact regMark_setMark (by rw [regMarks_writeElems, hrm]; exact f.vd.isLt) m
  · rw [ha.masks, masks_setMark, masks_writeElems]

/-! ## Sticky flags -/

theorem assocGet_eq_none {κ α : Type} [DecidableEq κ] {k : κ} {l : List (κ × α)} (h : ∀ p ∈ l, p.1 ≠ k) : assocGet k l = none := by
  induction l with
  | nil => rfl
  | cons p l ih =>
    rw [assocGet, if_neg (h p (List.mem_cons_self ..)), ih fun q hq => h q (List.mem_cons_of_mem _ hq)]

/-- An engine with the flags of a register's elements in a register, and those flags cleared. -/
def VEngine.gotFlags (v : VEngine) (p : Pred) (va vd : Nat) : VEngine :=
  { v.writeElems 6 vd (fun e => if e < 512 then v.result p 6 e (v.flag va e).toNat else none) with
    flags := v.flags.filter fun x => !(x.1.1 == va && decide (x.1.2 < 512) && v.active p 6 x.1.2) }

theorem elem_gotFlags {p : Pred} (hp : p.men = false) {va vd : Nat} (hf : v.Fits 6 vd) (he : e < 512) :
    (v.gotFlags p va vd).elem 6 vd e = (v.flag va e).toNat := by
  have hw := elem_writeElems hf (fun e => if e < 512 then v.result p 6 e (v.flag va e).toNat else none) (e := e) he
  rw [if_pos he, result_unmasked hp, Option.getD_some] at hw
  refine Eq.trans ?_ (hw.trans (Nat.mod_eq_of_lt (v.flag va e).isLt))
  rfl

theorem flag_gotFlags {p : Pred} (hp : p.men = false) {va vd : Nat} (he : e < 512) : (v.gotFlags p va vd).flag va e = 0 := by
  have hnone : assocGet (va, e) (v.gotFlags p va vd).flags = none := by
    refine assocGet_eq_none fun q hq hk => ?_
    have hact : v.active p 6 e = true := by rw [VEngine.active, hp]; rfl
    have hq' := (List.mem_filter.1 hq).2
    rw [hk] at hq'
    simp [he, hact] at hq'
  rw [VEngine.flag, hnone]
  rfl

theorem flag_setMark (v : VEngine) (ty n : Nat) (m : Mark) (k e : Nat) : (v.setMark ty n m).flag k e = v.flag k e := by
  unfold VEngine.setMark
  dsimp only
  split <;> rfl

theorem vgetf_completes (hmen : f.men = false) (h : VecRuns s u (wordR 0x28 f) v) (hxf : f.xf.val = 6)
    (hms : joinMarks (vdesc v.desc).owner (v.marksOf 6 f.va.val) = some m) :
    Answers (.vgetf u f) s fun t => ∃ x, t.vengine? u = some x ∧ VecGoesOn s t v x ∧
      (∀ e, e < 512 → x.elem 6 f.vd.val e = (v.flag f.va.val e).toNat ∧ x.flag f.va.val e = 0) ∧ x.regMark f.vd.val = m ∧
      x.masks = v.masks := by
  have hp : (predR f).men = false := hmen
  have hsrc : srcType f = 6 := by rw [srcType, hxf]; rfl
  have hfits := fits_of_runs h f.vd.isLt (ty := 6) fun h3 => absurd h3 (by decide)
  obtain ⟨-, -, -, -, hrm, -⟩ := id h
  refine vec_completes (Y := fun _ => (v.gotFlags (predR f) f.va.val f.vd.val).setMark 6 f.vd.val m)
    (m := m) h rfl ?_ (fun _ => (stands_setMark ..).trans ⟨rfl, rfl, rfl, rfl, rfl⟩)
    fun t x k hx hgo ha => ⟨x, hx, hgo, fun e he => ⟨?_, ?_⟩, ?_, ?_⟩
  · refine ⟨Counts.zero, ?evs, ?ends⟩
    case ends =>
    have hc : (vCount 6 == 512) = true := by decide
    simp only [hsrc, hc, VEngine.predMarks, VEngine.keptMarks, hp, Bool.false_and, Bool.not_true, Bool.or_self, Bool.false_eq_true,
      if_false, List.append_nil]
    rw [withMarks_some hms]
    rfl
  · rw [ha.elem, elem_setMark, elem_gotFlags hp hfits he]
  · rw [ha.flag, flag_setMark, flag_gotFlags hp he]
  · rw [ha.regMark]
    exact regMark_setMark (v := v.gotFlags (predR f) f.va.val f.vd.val) (show f.vd.val < v.regMarks.length by rw [hrm]; exact f.vd.isLt) m
  · rw [ha.masks, masks_setMark]
    rfl

/-! ## Immediates -/

variable {g : IFields}

theorem mrange_completes (hmen : g.men = false) (hms : joinMarks (vdesc v.desc).owner [] = some m) (h : VecRuns s u (wordI 0x14 g) v) :
    Answers (.mrange u g) s fun t => ∃ x, t.vengine? u = some x ∧ VecGoesOn s t v x ∧
      (∀ k, k < 512 → x.maskBit (g.vd.val % 8) k =
        (decide (g.imm.toNat % 2 ^ 16 ≤ k / vMaskStep g.type.val) && decide (k / vMaskStep g.type.val < g.imm.toNat / 2 ^ 16))) ∧
      x.maskMark (g.vd.val % 8) = m ∧ x.regs = v.regs := by
  have hp : (predI g).men = false := hmen
  refine mask_completes (p := predI g) (ty := g.type.val)
    (res := fun j => decide (g.imm.toNat % 2 ^ 16 ≤ j) && decide (j < g.imm.toNat / 2 ^ 16)) h rfl hmen ?_
  simp only [VEngine.predMarks, hp, Bool.false_and, Bool.false_eq_true, if_false, List.append_nil]
  rw [withMarks_some hms]
  rfl

theorem vbcast_completes (hmen : g.men = false) (hms : joinMarks (vdesc v.desc).owner [] = some m) (h : VecRuns s u (wordI 0x16 g) v) :
    Answers (.vbcast u g) s fun t => ∃ x, t.vengine? u = some x ∧ VecGoesOn s t v x ∧
      (∀ e, e < vCount g.type.val → x.elem g.type.val g.vd.val e = if g.type.val = 3 then g.imm.toNat + g.imm.toNat * 2 ^ 32 else
        g.imm.toNat / 2 ^ (vElemBits g.type.val * e % 32) % 2 ^ vElemBits g.type.val) ∧
      x.regMark g.vd.val = m ∧ x.masks = v.masks := by
  have hp : (predI g).men = false := hmen
  have hpair : g.type.val = 3 → g.vd.val + 1 < 32 := by
    obtain ⟨hopc, hty, hvd⟩ := opcode_wordI (opc := 0x16) (by decide) g
    have hvop : vopOf (wordI 0x16 g) = some ⟨0x16, .i, 0, 6, false, false, false, false, false, false⟩ := by rw [vopOf, hopc]; decide
    obtain ⟨-, -, he⟩ := even_of_formOk (vReady_engine h.1).2 hvop rfl (by decide) (by decide)
    rw [hty, hvd] at he
    intro h3
    have := he h3
    have := g.vd.isLt
    omega
  refine reg_completes (p := predI g) h rfl hmen g.vd.isLt hpair (val := fun j => if g.type.val = 3 then g.imm.toNat + g.imm.toNat <<< 32
    else (g.imm.toNat >>> (vElemBits g.type.val * j % 32)) % 2 ^ vElemBits g.type.val) (evs := []) ?_ fun e => ?_
  · rw [vPlain]
    simp only [VEngine.predMarks, VEngine.keptMarks, hp, Bool.false_and, Bool.not_true, Bool.or_self, Bool.false_eq_true, if_false,
      List.append_nil]
    rw [withMarks_some hms]
  · have := g.imm.isLt
    by_cases h3 : g.type.val = 3
    · simp only [if_pos h3, Nat.shiftLeft_eq]
      exact Nat.mod_eq_of_lt (by rw [h3]; simp only [vElemBits]; omega)
    · simp only [if_neg h3, Nat.shiftRight_eq_div_pow, Nat.mod_mod]

/-! ## The table -/

/-- The mask, selection, bit, reduction, plane and flag instructions complete. -/
theorem maskCommandsComplete : MaskCommandsComplete := by
  intro s u v m
  refine ⟨fun f hmen hba => ⟨fun h h4 hms => ?_, fun h hms => ?_, fun h hms => ?_, fun h hms => ?_, fun h hms => vsel_completes hmen hba h hms,
    fun h hms => ?_, fun h hms => ?_, fun h hms => ?_, fun h hms => ?_, fun h hms => ?_, fun h hms => ?_,
    fun h h4 hxf hms => vred_completes hmen hba h h4 hxf hms, fun h hvd hhalf hsmall hms => vsplit_completes hmen hba h hvd hhalf hsmall hms,
    fun h hhalf hms => vjoin_completes hmen hba h hhalf hms, fun h hxf hms => vgetf_completes hmen h hxf hms⟩,
    fun g hmen hms => ⟨mrange_completes hmen hms, vbcast_completes hmen hms⟩⟩
  · obtain ⟨t, hi, x, hx, hgo, hbits, hrest⟩ := vcmp_completes hmen hba h h4 hms
    exact ⟨t, hi, x, hx, hgo, fun k hk => (hbits k hk).trans (vCompare_int h4 ..), hrest⟩
  · exact maskOp_completes (two := true) hmen h rfl hms
  · exact maskOp_completes (two := true) hmen h rfl hms
  · exact maskOp_completes (two := false) (op := fun a _ => !a) hmen h rfl hms
  · exact bitOp_completes (op := fun _ a b => a &&& b) hmen hba h (by decide) (by decide) (by decide) (by decide) rfl hms
      fun e => Nat.mod_eq_of_lt (Nat.and_lt_two_pow _ elem_lt)
  · exact bitOp_completes (op := fun _ a b => a ||| b) hmen hba h (by decide) (by decide) (by decide) (by decide) rfl hms
      fun e => Nat.mod_eq_of_lt (Nat.or_lt_two_pow elem_lt elem_lt)
  · exact bitOp_completes (op := fun _ a b => a ^^^ b) hmen hba h (by decide) (by decide) (by decide) (by decide) rfl hms
      fun e => Nat.mod_eq_of_lt (Nat.xor_lt_two_pow elem_lt elem_lt)
  · exact bitOp_completes (op := fun k a b => a <<< (b % k)) hmen hba h (by decide) (by decide) (by decide) (by decide) rfl hms fun e => by rw [Nat.shiftLeft_eq]
  · exact bitOp_completes (op := fun k a b => a >>> (b % k)) hmen hba h (by decide) (by decide) (by decide) (by decide) rfl hms fun e => by
      rw [Nat.shiftRight_eq_div_pow]
      exact Nat.mod_eq_of_lt (Nat.lt_of_le_of_lt (Nat.div_le_self ..) elem_lt)
  · exact bitOp_completes (op := fun k a b => unsigned k (signed k a / (2 ^ (b % k) : Nat))) hmen hba h (by decide) (by decide) (by decide) (by decide) rfl hms
      fun e => Nat.mod_eq_of_lt (unsigned_lt ..)

/-- Settles O45: the commands that read records, those on drawers, and the mask and plane instructions, each by a lemma of its own. -/
theorem commandsComplete : Obligations.CommandsComplete := ⟨recordCommandsComplete, drawerCommandsComplete, maskCommandsComplete⟩

end Sys2Proof.Machine
end
section
/-!
SUPPORT. What only goes (R41, R71, R247, R248, R264, R285): the ends of fetches, residencies, jobs, streams, requests, steps and runs leave no
run, no page of a run, no claim of a channel, no reduction and no fetch that was not there.
-/

namespace Sys2Proof.Machine

variable {s t u : State}

/-- A later state in which of runs, of their pages and channels, of reductions and of fetches nothing is new. -/
structure State.Wanes (s t : State) : Prop extends s.After t where
  runs : ∀ y ∈ t.runs, ∃ x ∈ s.runs, x.id = y.id
  pages : ∀ p ∈ t.pages, p.kind = PKind.run ∨ p.kind = PKind.saved → p ∈ s.pages
  vcs : ∀ v ∈ t.cp.vcs, v = none ∨ v ∈ s.cp.vcs
  reductions : ∀ z ∈ t.reductions, ∃ y ∈ s.reductions, y.run = z.run
  fetches : ∀ f ∈ t.fetches, ∃ g ∈ s.fetches, g.run = f.run

namespace State.Wanes

theorem same (h : s.After t) (hr : t.runs = s.runs) (hp : t.pages = s.pages) (hv : t.cp.vcs = s.cp.vcs) (hd : t.reductions = s.reductions)
    (hf : t.fetches = s.fetches) : s.Wanes t where
  toAfter := h
  runs y hy := ⟨y, hr ▸ hy, rfl⟩
  pages _ hm _ := hp ▸ hm
  vcs _ hm := .inr (hv ▸ hm)
  reductions z hz := ⟨z, hd ▸ hz, rfl⟩
  fetches f hm := ⟨f, hf ▸ hm, rfl⟩

theorem refl (s : State) : s.Wanes s := same (.refl s) rfl rfl rfl rfl rfl

/-- A change of what no field of these reads. -/
theorem frame (hm : t.mem = s.mem) (hs : t.rot.sessions = s.rot.sessions) (hc : t.cp.chans = s.cp.chans) (hr : t.runs = s.runs)
    (hp : t.pages = s.pages) (hv : t.cp.vcs = s.cp.vcs) (hd : t.reductions = s.reductions) (hf : t.fetches = s.fetches) : s.Wanes t :=
  same (.same hm hs hc) hr hp hv hd hf

theorem after (h' : t.Wanes u) (h : s.Wanes t) : s.Wanes u where
  toAfter := h'.toAfter.after h.toAfter
  runs y hy := by
    obtain ⟨x, hx, e⟩ := h'.runs y hy
    obtain ⟨w, hw, e'⟩ := h.runs x hx
    exact ⟨w, hw, e'.trans e⟩
  pages p hp hk := h.pages p (h'.pages p hp hk) hk
  vcs v hv := (h'.vcs v hv).elim .inl (h.vcs v)
  reductions z hz := by
    obtain ⟨x, hx, e⟩ := h'.reductions z hz
    obtain ⟨w, hw, e'⟩ := h.reductions x hx
    exact ⟨w, hw, e'.trans e⟩
  fetches f hf := by
    obtain ⟨x, hx, e⟩ := h'.fetches f hf
    obtain ⟨w, hw, e'⟩ := h.fetches x hx
    exact ⟨w, hw, e'.trans e⟩

theorem foldl {α : Type} {f : State → α → State} (hf : ∀ (s : State) a, s.Wanes (f s a)) (l : List α) (s : State) : s.Wanes (l.foldl f s) := by
  induction l generalizing s with
  | nil => exact refl s
  | cons a l ih => exact (ih _).after (hf s a)

theorem ite {p : Prop} [Decidable p] (ht : s.Wanes t) (hu : s.Wanes u) : s.Wanes (if p then t else u) := by
  split
  · exact ht
  · exact hu

/-- Messages and gloves. -/
theorem of_swept (h : s.After t) (hs : t.swept = s.swept) : s.Wanes t :=
  same h (eq_of_swept (f := State.runs) (fun _ => rfl) hs) (eq_of_swept (f := State.pages) (fun _ => rfl) hs)
    (eq_of_swept (f := fun s => s.cp.vcs) (fun _ => rfl) hs) (eq_of_swept (f := State.reductions) (fun _ => rfl) hs)
    (eq_of_swept (f := State.fetches) (fun _ => rfl) hs)

theorem of_quiet (h : s.After t) (hq : t.quiet = s.quiet) : s.Wanes t := of_swept h (swept_of_quiet hq)

/-- Tiles and grants. -/
theorem of_untiled (h : t.untiled = s.untiled) : s.Wanes t :=
  same (after_of_untiled h) (eq_of_untiled (f := State.runs) (fun _ => rfl) h) (eq_of_untiled (f := State.pages) (fun _ => rfl) h)
    (eq_of_untiled (f := fun s => s.cp.vcs) (fun _ => rfl) h) (eq_of_untiled (f := State.reductions) (fun _ => rfl) h)
    (eq_of_untiled (f := State.fetches) (fun _ => rfl) h)

end State.Wanes

/-! ## Messages, gloves and pages -/

theorem wanes_complete (s : State) (r : Reply) (c : Nat) (p : List Word) : s.Wanes (s.complete r c p) :=
  .of_quiet (after_complete ..) (quiet_complete ..)

theorem wanes_completeAll (s : State) (rs : List Reply) (c : Nat) (p : List Word) : s.Wanes (s.completeAll rs c p) :=
  .of_quiet (after_completeAll ..) (quiet_completeAll ..)

theorem wanes_modCab (s : State) (c : Cab) (f : Cabinet → Cabinet) : s.Wanes (s.modCab c f) := .frame rfl rfl rfl rfl rfl rfl rfl rfl

theorem wanes_modSlot (s : State) (c : Cab) (n : Nat) (f : Slot → Slot) : s.Wanes (s.modSlot c n f) := .frame rfl rfl rfl rfl rfl rfl rfl rfl

theorem wanes_filterFetches (s : State) (p : Fetch → Bool) : s.Wanes { s with fetches := s.fetches.filter p } :=
  { State.Wanes.refl s with
    fetches := fun f hf => ⟨f, (List.mem_filter.1 hf).1, rfl⟩
    drains := (State.After.refl s).drains
    later := (State.After.refl s).later }

theorem wanes_freePages (s : State) (p : Page → Bool) : s.Wanes (s.freePages p) := by
  have h := calm_freePages s p
  have hpages : (s.freePages p).pages = s.pages.filter fun x => !(x.kind != 0 && x.kind != PKind.withdrawn && p x) :=
    eq_of_swept (f := State.pages) (fun _ => rfl) (swept_freePages s p)
  exact
    { toAfter := (eased_freePages s p).toAfter
      runs := fun y hy => ⟨y, eq_of_calm (f := State.runs) (fun _ => rfl) h ▸ hy, rfl⟩
      pages := fun x hx _ => (List.mem_filter.1 (hpages ▸ hx)).1
      vcs := fun v hv => .inr (eq_of_calm (f := fun s => s.cp.vcs) (fun _ => rfl) h ▸ hv)
      reductions := fun z hz => ⟨z, eq_of_calm (f := State.reductions) (fun _ => rfl) h ▸ hz, rfl⟩
      fetches := fun f hf => by
        obtain ⟨g, hg, e⟩ := (sheds_freePages s p).fetch f hf
        have hrun : g.bare.run = f.bare.run := congrArg Fetch.run e
        exact ⟨g, hg, hrun⟩ }

theorem wanes_discardGlove (s : State) (id : BitVec 16) : s.Wanes (s.discardGlove id) := by
  refine .of_swept (eased_discardGlove ..).toAfter ?_
  unfold State.discardGlove
  split
  · rfl
  · exact (swept_completeAll ..).trans (swept_eraseGlove ..)

theorem wanes_beginErase (s : State) (id : BitVec 16) : s.Wanes (s.beginErase id) := by
  refine .of_swept (eased_beginErase ..).toAfter ?_
  unfold State.beginErase
  split
  · rfl
  · exact (swept_gloveStep ..).trans rfl

/-! ## Residencies and slots -/

theorem wanes_dropClaims (s : State) (c : Cab) (n : Nat) : s.Wanes (s.dropClaims c n) := .ite (.frame rfl rfl rfl rfl rfl rfl rfl rfl) (.refl s)

theorem wanes_answerFetch (s : State) (rs : List Reply) (code : Nat) : s.Wanes (s.answerFetch rs code) := by
  refine .foldl (fun s r => .ite (.refl s) ((wanes_complete ..).after ?_)) _ s
  exact
    { State.Wanes.refl s with
      fetches := fun f hf => by
        obtain ⟨g, hg, rfl⟩ := List.mem_map.1 hf
        exact ⟨g, hg, rfl⟩
      drains := (State.After.refl s).drains
      later := (State.After.refl s).later }

theorem wanes_releaseResidency (s : State) (c : Cab) (n : Nat) (g : Die) : s.Wanes (s.releaseResidency c n g) := by
  unfold State.releaseResidency
  dsimp only
  refine (wanes_dropClaims ..).after (State.Wanes.after (t := State.freePages _ _) (.frame rfl rfl rfl rfl rfl rfl rfl rfl) ((wanes_freePages ..).after ?_))
  split
  · exact .ite (.refl s) (wanes_modSlot ..)
  · exact .refl s

theorem wanes_freeSlot (s : State) (c : Cab) (n : Nat) : s.Wanes (s.freeSlot c n) := by
  refine (wanes_answerFetch ..).after ((wanes_completeAll ..).after ((wanes_dropClaims ..).after ?_))
  refine State.Wanes.after (t := State.freePages _ _) (.frame rfl rfl rfl rfl rfl rfl rfl rfl) ((wanes_freePages ..).after ?_)
  exact (State.Wanes.foldl (fun _ _ => wanes_releaseResidency ..) _ _).after (wanes_filterFetches s _)

theorem wanes_settleEvict (s : State) (c : Cab) (n : Nat) : s.Wanes (s.settleEvict c n) := by
  unfold State.settleEvict
  split
  · exact .refl s
  · exact .ite (wanes_freeSlot ..) ((wanes_completeAll ..).after (wanes_modSlot ..))

theorem wanes_settleCache (s : State) (c : Cab) : s.Wanes (s.settleCache c) := .ite ((wanes_completeAll ..).after (wanes_modCab ..)) (.refl s)

theorem wanes_modResidency (s : State) (c : Cab) (n : Nat) (g : Die) (f : Residency → Residency) : s.Wanes (s.modResidency c n g f) :=
  .frame rfl rfl rfl rfl rfl rfl rfl rfl

theorem wanes_evictOne (s : State) (c : Cab) (n : Nat) (g : Die) : s.Wanes (s.evictOne c n g) := by
  unfold State.evictOne
  split
  · exact .refl s
  · exact .ite ((wanes_releaseResidency ..).after ((wanes_answerFetch ..).after (wanes_filterFetches s _))) (wanes_modResidency ..)

theorem wanes_unpin (s : State) (c : Cab) (n : Nat) (g : Die) : s.Wanes (s.unpin c n g) := by
  unfold State.unpin
  dsimp only
  split
  · refine (wanes_settleCache ..).after ((wanes_settleEvict ..).after ?_)
    exact .ite ((wanes_evictOne ..).after (wanes_modResidency ..)) (wanes_modResidency ..)
  · exact wanes_modResidency ..

/-! ## Shelves and requests -/

theorem wanes_dropDrawers (s : State) (c : Cab) : s.Wanes (s.dropDrawers c) :=
  State.Wanes.after (.foldl (fun _ _ => wanes_settleEvict ..) _ _) <|
    State.Wanes.after (.foldl (fun _ _ => wanes_releaseResidency ..) _ _) <|
      (wanes_answerFetch ..).after (wanes_filterFetches s _)

theorem wanes_emptyDies (s : State) (m : BitVec 16) : s.Wanes (s.emptyDies m) :=
  .foldl (f := fun (s : State) d => s.modDie d DieSt.emptied) (fun _ _ => .frame rfl rfl rfl rfl rfl rfl rfl rfl) _ s

theorem wanes_releaseShelf (s : State) (c : Cab) : s.Wanes (s.releaseShelf c) := by
  rw [releaseShelf_eq]
  refine (wanes_completeAll ..).after ((wanes_modCab ..).after ((wanes_discardGlove ..).after ((wanes_freePages ..).after ?_)))
  exact State.Wanes.after (t := State.emptyDies _ _) (.frame rfl rfl rfl rfl rfl rfl rfl rfl) ((wanes_emptyDies ..).after (wanes_dropDrawers s c))

theorem wanes_settleUnmount (s : State) (c : Cab) : s.Wanes (s.settleUnmount c) := .ite (wanes_releaseShelf ..) (.refl s)

theorem wanes_endRequest (s : State) (i code : Nat) : s.Wanes (s.endRequest i code) := by
  unfold State.endRequest State.closeRequest
  split
  · exact .refl s
  · refine .ite (.refl s) ((wanes_settleUnmount ..).after ?_)
    have hf : ∀ f p, s.Wanes ((s.modRequest i f).freePages p) := fun f p => (wanes_freePages ..).after (.frame rfl rfl rfl rfl rfl rfl rfl rfl)
    split
    · exact (wanes_unpin ..).after (hf _ _)
    · exact hf _ _

theorem wanes_endRequests (s : State) (p : Request → Bool) (code : Nat) : s.Wanes (s.endRequests p code) :=
  .foldl (fun _ _ => wanes_endRequest ..) _ s

/-! ## Streams and jobs -/

theorem wanes_freeTensors (s : State) (p : Tensor → Bool) : s.Wanes (s.freeTensors p) :=
  State.Wanes.after (t := State.freePages s _) (.frame rfl rfl rfl rfl rfl rfl rfl rfl) (wanes_freePages ..)

theorem wanes_settleClose (s : State) (n : BitVec 32) : s.Wanes (s.settleClose n) := by
  unfold State.settleClose
  split
  · exact .refl s
  · exact .ite (.refl s) ((wanes_beginErase ..).after ((wanes_freePages ..).after (.foldl (fun _ _ => wanes_freeSlot ..) _ s)))

theorem wanes_dropStream (s : State) (i : Fin 4096) : s.Wanes (s.dropStream i) :=
  State.Wanes.after (t := State.freeTensors _ _) (.frame rfl rfl rfl rfl rfl rfl rfl rfl)
    ((wanes_freeTensors ..).after (.of_untiled (untiled_foldl_endGrant _ s)))

theorem wanes_settleStream (s : State) (i : Fin 4096) : s.Wanes (s.settleStream i) := by
  unfold State.settleStream
  split
  next x hx =>
    rw [releaseStream_eq s i hx]
    have h := (wanes_completeAll (s.dropStream i) x.closing Code.ok []).after (wanes_dropStream s i)
    exact .ite (.ite ((wanes_settleClose ..).after h) h) (.refl s)
  · exact .refl s

theorem wanes_afterJob (s : State) (j : Job) (cab : Cab) (st : Fin 4096) : s.Wanes (s.afterJob j cab st) := by
  refine (State.Wanes.of_untiled (untiled_settleGrants ..)).after ?_
  split
  · exact (State.Wanes.foldl (fun _ _ => wanes_unpin ..) _ _).after (wanes_freeTensors ..)
  · exact wanes_freeTensors ..

theorem wanes_endJob (s : State) (st : Fin 4096) (q : BitVec 32) (code : Nat) : s.Wanes (s.endJob st q code) := by
  cases hj : s.job? st q with
  | none => rw [endJob_absent code hj]; exact .refl s
  | some j =>
    rw [endJob_eq code hj, retireJob_eq]
    refine (wanes_settleStream ..).after ((wanes_afterJob ..).after ?_)
    exact (State.Wanes.of_quiet (after_finish ..) (quiet_finish ..)).after (t := s.dropJob st q) (.frame rfl rfl rfl rfl rfl rfl rfl rfl)

theorem wanes_endJobs (s : State) (p : Job → Bool) (code : Nat) : s.Wanes (s.endJobs p code) :=
  .foldl (fun s (j : Job) => wanes_endJob s j.stream j.seq code) _ s

end Sys2Proof.Machine
end
section
/-!
SUPPORT. The ends of steps and runs, and fetches that take a place that became free (R246, R247, R264, R266, R285): nothing of a run is new
after them.
-/

namespace Sys2Proof.Machine

variable {s t u : State}

/-! ## The lists of a step -/

/-- What the change of the first element of a search leaves in a list. -/
theorem mem_updFirst {α : Type} {p : α → Bool} {f : α → α} {l : List α} {b : α} (h : b ∈ updFirst p f l) : b ∈ l ∨ ∃ a ∈ l, b = f a := by
  induction l with
  | nil => exact .inl h
  | cons a l ih =>
    by_cases hp : p a = true
    · rw [updFirst, if_pos hp] at h
      rcases List.mem_cons.1 h with rfl | h
      · exact .inr ⟨a, List.mem_cons_self .., rfl⟩
      · exact .inl (List.mem_cons_of_mem _ h)
    · rw [updFirst, if_neg hp] at h
      rcases List.mem_cons.1 h with rfl | h
      · exact .inl (List.mem_cons_self ..)
      · rcases ih h with h | ⟨x, hx, e⟩
        · exact .inl (List.mem_cons_of_mem _ h)
        · exact .inr ⟨x, List.mem_cons_of_mem _ hx, e⟩

theorem wanes_modRun {id : BitVec 32} {f : Run → Run} (hf : ∀ x, (f x).id = x.id) (s : State) : s.Wanes (s.modRun id f) where
  toAfter := .same rfl rfl rfl
  runs y hy := by
    rcases mem_updFirst hy with h | ⟨x, hx, rfl⟩
    · exact ⟨y, h, rfl⟩
    · exact ⟨x, hx, (hf x).symm⟩
  pages _ h _ := h
  vcs _ h := .inr h
  reductions z hz := ⟨z, hz, rfl⟩
  fetches f hf := ⟨f, hf, rfl⟩

theorem wanes_modFetch {id : BitVec 32} {f : Fetch → Fetch} (hf : ∀ x, (f x).run = x.run) (s : State) : s.Wanes (s.modFetch id f) where
  toAfter := .same rfl rfl rfl
  runs y hy := ⟨y, hy, rfl⟩
  pages _ h _ := h
  vcs _ h := .inr h
  reductions z hz := ⟨z, hz, rfl⟩
  fetches y hy := by
    rcases mem_updFirst hy with h | ⟨x, hx, rfl⟩
    · exact ⟨y, h, rfl⟩
    · exact ⟨x, hx, (hf x).symm⟩

/-- The run and the era of a reduction, which its opening does not change. -/
def Reduction.place (x : Reduction) : BitVec 32 × Fin 3 := (x.run, x.era)

/-- Reductions that are those of an earlier state, their run and era with them. -/
def State.RedsFrom (s t : State) : Prop := ∀ z ∈ t.reductions, ∃ y ∈ s.reductions, y.place = z.place

/-- Opening reductions changes nothing but the reductions. -/
theorem openReductions_eq (s : State) : s.openReductions = { s with reductions := s.openReductions.reductions } := rfl

theorem mem_foldl_marks {α : Type} {c : List α → α → Bool} {f : α → α} {z : α} (l acc : List α)
    (h : z ∈ l.foldl (fun acc x => if c acc x then acc ++ [f x] else acc ++ [x]) acc) : z ∈ acc ∨ ∃ x ∈ l, z = x ∨ z = f x := by
  induction l generalizing acc with
  | nil => exact .inl h
  | cons a l ih =>
    rcases ih _ h with h | ⟨x, hx, e⟩
    · dsimp only at h
      split at h
      · rcases List.mem_append.1 h with h | h
        · exact .inl h
        · exact .inr ⟨a, List.mem_cons_self .., .inr (List.mem_singleton.1 h)⟩
      · rcases List.mem_append.1 h with h | h
        · exact .inl h
        · exact .inr ⟨a, List.mem_cons_self .., .inl (List.mem_singleton.1 h)⟩
    · exact .inr ⟨x, List.mem_cons_of_mem _ hx, e⟩

theorem redsFrom_openReductions (s : State) : s.RedsFrom s.openReductions := by
  intro z hz
  obtain ⟨y, hy, rfl⟩ := List.mem_map.1 hz
  have hfrom : ∃ x ∈ s.reductions, x.place = y.place := by
    rcases mem_foldl_marks (f := fun x : Reduction => { x with opened := true }) _ _ hy with h | ⟨x, hx, rfl | rfl⟩
    · cases h
    · exact ⟨_, hx, rfl⟩
    · exact ⟨x, hx, rfl⟩
  obtain ⟨x, hx, e⟩ := hfrom
  refine ⟨x, hx, e.trans ?_⟩
  dsimp only
  split <;> rfl

theorem wanes_of_redsFrom (h : s.RedsFrom t) (he : t = { s with reductions := t.reductions }) : s.Wanes t := by
  rw [he] at h ⊢
  exact
    { toAfter := .same rfl rfl rfl
      runs := fun y hy => ⟨y, hy, rfl⟩
      pages := fun _ hp _ => hp
      vcs := fun _ hv => .inr hv
      reductions := fun z hz => by
        obtain ⟨y, hy, e⟩ := h z hz
        exact ⟨y, hy, congrArg Prod.fst e⟩
      fetches := fun f hf => ⟨f, hf, rfl⟩ }

theorem wanes_openReductions (s : State) : s.Wanes s.openReductions := wanes_of_redsFrom (redsFrom_openReductions s) (openReductions_eq s)

/-! ## Ends of steps and runs -/

/-- The reductions of a step that ends, before others open. -/
def State.abandoned (s : State) (id : BitVec 32) : State :=
  let mine := fun (x : Reduction) => x.run == id && x.era == 0
  { s with
    reductions := (s.reductions.filter fun x => !(x.run == id && x.era == 2 && s.reductions.any mine)).map fun x =>
      if mine x then
        { x with era := 2, items := [], state := if x.state = 0 then 3 else x.state,
                 cause := if x.state = 0 then Code.reductionAbandoned else x.cause,
                 closeTime := if x.state = 0 then s.now else x.closeTime }
      else x }

theorem abandon_eq (s : State) (id : BitVec 32) : s.abandon id = (s.abandoned id).openReductions := rfl

/-- Of the step that ended no reduction is left open. -/
theorem era_abandoned {id : BitVec 32} {z : Reduction} (hz : z ∈ (s.abandoned id).reductions) : z.run = id → z.era ≠ 0 := by
  obtain ⟨y, -, rfl⟩ := List.mem_map.1 hz
  dsimp only
  split
  · exact fun _ => show (2 : Fin 3) ≠ 0 by decide
  next h =>
    intro hr he
    exact h (by simp [hr, he])

theorem era_abandon {id : BitVec 32} {z : Reduction} (hz : z ∈ (s.abandon id).reductions) : z.run = id → z.era ≠ 0 := by
  obtain ⟨y, hy, e⟩ := redsFrom_openReductions (s.abandoned id) z hz
  obtain ⟨hr, he⟩ := Prod.mk.inj e
  exact fun h => he ▸ era_abandoned hy (hr.trans h)

theorem wanes_abandon (s : State) (id : BitVec 32) : s.Wanes (s.abandon id) := by
  refine (wanes_openReductions _).after (t := s.abandoned id) ?_
  exact
    { toAfter := .same rfl rfl rfl
      runs := fun y hy => ⟨y, hy, rfl⟩
      pages := fun _ hp _ => hp
      vcs := fun _ hv => .inr hv
      reductions := fun z hz => by
        obtain ⟨y, hy, rfl⟩ := List.mem_map.1 hz
        refine ⟨y, (List.mem_filter.1 hy).1, ?_⟩
        dsimp only
        split <;> rfl
      fetches := fun f hf => ⟨f, hf, rfl⟩ }

theorem wanes_unpinStep (s : State) (x : Run) : s.Wanes (s.unpinStep x) := .foldl (fun _ _ => wanes_unpin ..) _ s

theorem wanes_dropRows (s : State) (id : BitVec 32) : s.Wanes (s.dropRows id) := .frame rfl rfl rfl rfl rfl rfl rfl rfl

theorem wanes_tell (s : State) (c : Cab) (n code : Nat) : s.Wanes (s.tell c n code) := by
  unfold State.tell
  split
  · exact .frame rfl rfl rfl rfl rfl rfl rfl rfl
  · exact .refl s

theorem wanes_discardStep (s : State) (id : BitVec 32) (cause : Nat) (st : Fin 8) : s.Wanes (s.discardStep id cause st) := by
  unfold State.discardStep
  split
  · exact .refl s
  · exact (wanes_modRun (fun _ => by rfl) _).after
      ((wanes_tell ..).after ((wanes_dropRows ..).after ((wanes_unpinStep ..).after (wanes_abandon s id))))

theorem wanes_completeStop (s : State) (id : BitVec 32) : s.Wanes (s.completeStop id) := by
  unfold State.completeStop
  split
  · exact (wanes_complete ..).after (wanes_modRun (fun _ => by rfl) s)
  · exact wanes_modRun (fun _ => by rfl) s

theorem wanes_dropRun (s : State) (id : BitVec 32) : s.Wanes (s.dropRun id) where
  toAfter := .same rfl rfl rfl
  runs y hy := ⟨y, (List.mem_filter.1 hy).1, rfl⟩
  pages _ hp _ := hp
  vcs v hv := by
    obtain ⟨w, hw, rfl⟩ := List.mem_map.1 hv
    by_cases h : w = some id
    · exact .inl (if_pos h)
    · rw [if_neg h]
      exact .inr hw
  reductions z hz := ⟨z, (List.mem_filter.1 hz).1, rfl⟩
  fetches f hf := ⟨f, (List.mem_filter.1 hf).1, rfl⟩

theorem wanes_freeRunSlot (s : State) (x : Run) (id : BitVec 32) : s.Wanes (s.freeRunSlot x id) := by
  unfold State.freeRunSlot
  split
  · exact .ite (wanes_freeSlot ..) (.refl s)
  · exact .refl s

theorem wanes_endRemaking (s : State) (x : Run) : s.Wanes (s.endRemaking x) := by
  unfold State.endRemaking
  split
  · exact wanes_modSlot ..
  · exact .refl s

theorem wanes_releaseRun (s : State) (id : BitVec 32) : s.Wanes (s.releaseRun id) := by
  cases h : s.run? id with
  | none => rw [State.releaseRun, h]; exact .refl s
  | some x =>
    rw [releaseRun_eq h]
    exact (wanes_dropRun ..).after ((wanes_endRemaking ..).after ((wanes_freeRunSlot ..).after (wanes_freePages s _)))

theorem wanes_remakeFail (s : State) (id : BitVec 32) (code : Nat) : s.Wanes (s.remakeFail id code) := by
  unfold State.remakeFail
  split
  · exact (wanes_releaseRun ..).after (wanes_tell ..)
  · exact .refl s

theorem wanes_runFail (s : State) (id : BitVec 32) (code : Nat) : s.Wanes (s.runFail id code) := by
  unfold State.runFail
  split
  · exact .refl s
  next x _ =>
    dsimp only
    refine (wanes_settleUnmount ..).after ((wanes_remakeFail ..).after ((wanes_completeStop ..).after ?_))
    have hd : s.Wanes ((if x.inStep then s.discardStep id code RunSt.failed else s).modRun id fun r =>
        { r with state := RunSt.failed, lastCode := code, reply := none, inStep := false }) :=
      (wanes_modRun (fun _ => by rfl) _).after (.ite (wanes_discardStep ..) (.refl s))
    split
    · exact (wanes_complete ..).after hd
    · exact hd

/-! ## Fetches go on -/

/-- A fetch that failed leaves the table, and the commands that waited for it are answered. -/
def State.dropLoad (s : State) (f : Fetch) (code : Nat) : State :=
  ({ s with fetches := s.fetches.filter fun x => x.id != f.id } : State).answerFetch f.replies code

theorem wanes_dropLoad (s : State) (f : Fetch) (code : Nat) : s.Wanes (s.dropLoad f code) :=
  (wanes_answerFetch ..).after (wanes_filterFetches s _)

theorem loadFailed_run {f : Fetch} {i : BitVec 32} (hr : f.run = some i) (code : Nat) :
    s.loadFailed f code = (if f.dataset then s.dropLoad f code
      else (s.dropLoad f code).releaseResidency f.cab f.slot f.group).runFail i code := by
  rw [State.loadFailed, apply_ite (fun v : State => v.runFail i code)]
  simp only [hr]
  rfl

theorem loadFailed_dataset {f : Fetch} (hd : f.dataset = true) (hr : f.run = none) (code : Nat) : s.loadFailed f code = s.dropLoad f code := by
  rw [State.loadFailed, hd, hr]
  rfl

theorem wanes_remakeQ (s : State) (q : List (Cab × Nat)) : s.Wanes { s with remakeQ := q } := .frame rfl rfl rfl rfl rfl rfl rfl rfl

theorem wanes_loadFailed (s : State) (f : Fetch) (code : Nat) : s.Wanes (s.loadFailed f code) := by
  have h0 := wanes_dropLoad s f code
  cases hr : f.run with
  | some i =>
    rw [loadFailed_run hr]
    exact (wanes_runFail ..).after (.ite h0 ((wanes_releaseResidency ..).after h0))
  | none =>
    cases hd : f.dataset with
    | true => rw [loadFailed_dataset hd hr]; exact h0
    | false =>
      rw [State.loadFailed, hd, hr]
      extract_lets st ds marked ended waits jobless released v
      have hv : s.Wanes v := (wanes_settleEvict ..).after ((wanes_releaseResidency ..).after ((wanes_endJobs ..).after
        ((wanes_endRequests ..).after ((wanes_modSlot ..).after h0))))
      clear_value v
      rw [if_neg Bool.false_ne_true]
      dsimp only
      split
      · exact .ite hv (.ite ((wanes_remakeQ v _).after hv) ((wanes_tell ..).after hv))
      · exact hv

/-! ## Pages for a drawer -/

/-- Steps that may fail, one after another. -/
theorem State.Wanes.foldl_bind {α : Type} {f : State → α → Option State} (hf : ∀ (s t : State) a, f s a = some t → s.Wanes t) {l : List α} :
    ∀ {s t : State}, l.foldl (fun acc a => acc.bind fun s => f s a) (some s) = some t → s.Wanes t := by
  induction l with
  | nil =>
    intro s t h
    cases h
    exact .refl s
  | cons a l ih =>
    intro s t h
    rw [List.foldl_cons, Option.bind_some] at h
    cases hv : f s a with
    | none =>
      rw [hv, foldl_bind_none] at h
      cases h
    | some v =>
      rw [hv] at h
      exact (ih h).after (hf s v a hv)

theorem wanes_allocOn {kind : Fin 16} (hk : kind ≠ PKind.run ∧ kind ≠ PKind.saved) (s : State) (h : Stack) (n : Nat) (g : BitVec 16) (c : Cab)
    (o : BitVec 32) : s.Wanes (s.allocOn h n kind g c o).1 :=
  { State.Wanes.same (t := { s with pages := s.pages }) (.same rfl rfl rfl) rfl rfl rfl rfl rfl with
    drains := (State.After.refl s).drains
    later := (State.After.refl s).later
    pages := fun p hp hkind => by
      rw [pages_allocOn] at hp
      rcases List.mem_append.1 hp with hp | hp
      · exact (List.mem_filter.1 hp).1
      · obtain ⟨m, -, rfl⟩ := List.mem_map.1 hp
        exact absurd hkind (not_or.2 hk) }

theorem wanes_alloc? {kind : Fin 16} (hk : kind ≠ PKind.run ∧ kind ≠ PKind.saved) {d : Die} {n : Nat} {g : BitVec 16} {c : Cab} {o : BitVec 32}
    (h : (s.alloc? d n kind g c o).map Prod.fst = some t) : s.Wanes t := by
  unfold State.alloc? at h
  split at h
  · cases h
  · cases h
    exact (wanes_allocOn hk ..).after (wanes_allocOn hk ..)

theorem wanes_allocAll? {kind : Fin 16} (hk : kind ≠ PKind.run ∧ kind ≠ PKind.saved) {l : List (Die × Nat)} {g : BitVec 16} {c : Cab}
    {o : BitVec 32} (h : s.allocAll? l kind g c o = some t) : s.Wanes t :=
  .foldl_bind (fun _ _ _ => wanes_alloc? hk) h

theorem wanes_makeRoom {c : Cab} {d : Die} {n : Nat} (h : s.makeRoom c d n = some t) : s.Wanes t := by
  unfold State.makeRoom at h
  have hfold : ∀ (l : List Residency) (acc : State × Bool), s.Wanes acc.1 → s.Wanes (l.foldl (fun (acc : State × Bool) x =>
      if acc.2 then acc
      else
        let s := (acc.1.releaseResidency c x.slot x.group).settleEvict c x.slot
        (s, s.roomOn c d n)) acc).1 := by
    intro l
    induction l with
    | nil => exact fun _ h => h
    | cons a l ih =>
      refine fun acc hacc => ih _ ?_
      dsimp only
      split
      · exact hacc
      · exact (wanes_settleEvict ..).after ((wanes_releaseResidency ..).after hacc)
  dsimp only at h
  split at h
  · cases h
    exact hfold _ _ (.refl s)
  · cases h

theorem wanes_reserve? {c : Cab} {n : Nat} {g : Die} {img : DrawerImage} {glove : BitVec 16} (h : s.reserve? c n g img glove = some t) :
    s.Wanes t := by
  unfold State.reserve? at h
  obtain ⟨v, hv, ht⟩ := Option.bind_eq_some_iff.1 h
  exact (wanes_allocAll? (by decide) ht).after (.foldl_bind (fun _ _ _ => wanes_makeRoom) hv)

/-! ## Fetches go on -/

theorem wanes_useObj (s : State) (o : CatObj) : s.Wanes (s.useObj o) := .frame rfl rfl rfl rfl rfl rfl rfl rfl

/-- The slot of a drawer's fetch binds the version found. -/
def State.noteVersion (s : State) (f : Fetch) (o : CatObj) : State :=
  s.modSlot f.cab f.slot fun x =>
    if f.dataset || x.run.isSome then x else { x with version := o.version, tenant := x.owner?.getD o.tenant, known := true }

theorem wanes_fromCache (s : State) (f : Fetch) (o : CatObj) : s.Wanes (s.fromCache f o) := by
  have h0 : s.Wanes (s.noteVersion f o) := wanes_modSlot ..
  unfold State.fromCache
  refine .ite (wanes_loadFailed ..) (.ite ((wanes_modFetch (fun _ => by rfl) _).after h0) ?_)
  dsimp only
  split
  next v hv =>
    refine (wanes_modFetch (fun _ => by rfl) _).after (State.Wanes.after ?_ h0)
    split at hv
    · cases hv
    · split at hv
      · exact wanes_reserve? hv
      · cases hv
        exact .refl _
  · exact (wanes_modFetch (fun _ => by rfl) _).after (State.Wanes.after (t := s.noteVersion f o) (.frame rfl rfl rfl rfl rfl rfl rfl rfl) h0)

theorem wanes_postEvent (s : State) (op st : Nat) (pl : List Word) : s.Wanes (s.postEvent op st pl) := by
  have hq := quiet_postEvent s op st pl
  refine .of_quiet (.of_quiet hq fun k => ?_) hq
  rw [State.chan, State.chan, chans_postEvent]
  exact .refl _

theorem wanes_runFetch (s : State) (id : BitVec 32) : s.Wanes (s.runFetch id) := by
  unfold State.runFetch
  split
  · exact .refl s
  · split
    · exact (wanes_fromCache ..).after (wanes_useObj s _)
    · exact (wanes_postEvent ..).after ((wanes_modFetch (fun _ => by rfl) _).after (.frame rfl rfl rfl rfl rfl rfl rfl rfl))

theorem wanes_promote (c : Cab) (g : Die) (n : Nat) : ∀ s : State, s.Wanes (s.promote c g n) := by
  induction n with
  | zero => exact .refl
  | succ n ih =>
    intro s
    rw [State.promote]
    refine .ite (.refl s) ?_
    split
    · exact (ih _).after ((wanes_runFetch ..).after (wanes_modFetch (fun _ => by rfl) s))
    · exact .refl s

theorem wanes_promoteAll (s : State) (c : Cab) : s.Wanes (s.promoteAll c) := .foldl (fun s g => wanes_promote c g 4 s) _ s

end Sys2Proof.Machine
end
section
/-!
PROOF. The commands on a run: it is stopped, ended, published and resumed (R266, R270, R276, R285, R290, R291).
-/

namespace Sys2Proof.Machine

variable {s t u v : State} {r : Reply} {info : CmdInfo} {src : Src} {req : Req} {i : Instr} {id : BitVec 32} {x : Run}

/-! ## The table of runs -/

theorem run?_id (h : s.run? id = some x) : x.id = id := by simpa using List.find?_some h

theorem run?_of_runs (h : t.runs = s.runs) : t.run? id = s.run? id := by rw [State.run?, h, State.run?]

theorem run?_modRun {f : Run → Run} (h : s.run? id = some x) (hf : (f x).id = x.id) : (s.modRun id f).run? id = some (f x) :=
  find?_updFirst h (by simp [hf, run?_id h])

theorem modRun_modRun {f g : Run → Run} (hf : ∀ y, (f y).id = y.id) : (s.modRun id f).modRun id g = s.modRun id fun y => g (f y) := by
  rw [State.modRun, State.modRun, State.modRun]
  dsimp only
  rw [updFirst_comp fun y => by rw [hf]]

/-- A command on a run that is there, the tenant's own and in one of the states that the command is accepted in. -/
theorem runCommand_answers {states : List (Fin 8)} {P : State → Prop} {g : Reply → List Word → State → Run → State}
    (h : s.admits info src req = true)
    (hi : exec i s = .next (s.ilnil info src req fun r ws s =>
      match s.namedRun r ws states with | .inl k => s.complete r k [] | .inr x => g r ws s x))
    (hx : s.run? (BitVec.ofNat 32 (bits (wordAt req.payload 0) 63 32)) = some x)
    (hf : s.foreign (replyOf info src req) x.tenant = false) (hst : x.state ∈ states)
    (hg : ∀ t, s.Took (replyOf info src req) t → t.run? x.id = some x → P (g (replyOf info src req) req.payload t x)) : Answers i s P :=
  answers_of_admits h hi fun t ht => by
    have hn : s.namedRun (replyOf info src req) req.payload states = .inr x :=
      (namedRun_some hx).trans ((if_neg (by simp [hf])).trans (if_pos (by simpa using hst)))
    have hx' : t.run? x.id = some x := run?_id hx ▸ (ht.reads (f := fun s => s.run? _) fun _ => rfl).trans hx
    simpa only [ht.namedRun, hn] using hg t ht hx'

/-- What the answer to a command leaves. -/
theorem State.Took.completed {w : State} {code : Nat} {ws : List Word} (hv : u.Took r v) (he : w = v.complete r code ws) :
    w.answered r 0 code ws = true ∧ w.quiet = u.quiet := by
  rw [he]
  exact ⟨answered_complete code ws hv.holds, by rw [quiet_complete, hv.quiet]⟩

/-! ## STOP_RUN -/

/-- A run that a command has asked to stop. -/
def Run.asked (r : Reply) (y : Run) : Run := { y with stopReply := some r, stopping := true }

/-- A run whose stop has been answered. -/
def Run.settled (y : Run) : Run := { y with stopReply := none, stopping := false }

/-- A run whose step in flight is discarded (R285). -/
def Run.discarded (cause : Nat) (st : Fin 8) (y : Run) : Run :=
  { y with state := st, inStep := false, cursor := y.stepStart, step := [], shadow := [],
           perDie := y.perDie.map fun d => { d with gbuf := [], feedbackNext := [], tokens := 0, isReady := false, switched := true },
           retries := satAdd 0xffff y.retries 1, consecutive := y.consecutive + 1, lastCode := cause }

theorem completeStop_asked (h : s.run? id = some x) (hr : x.stopReply = some r) :
    s.completeStop id = (s.modRun id Run.settled).complete r Code.ok [] := by
  rw [State.completeStop, h, Option.bind_some, hr]
  rfl

/-- What the discard of a step leaves but for the run itself. -/
def State.leaveStep (s : State) (id : BitVec 32) (x : Run) : State :=
  (((s.abandon id).unpinStep x).dropRows id).tell x.cab x.slot Code.stepDiscarded

theorem discardStep_eq (h : s.run? id = some x) (cause : Nat) (st : Fin 8) :
    s.discardStep id cause st = (s.leaveStep id x).modRun id (Run.discarded cause st) := by
  rw [State.discardStep, h]
  rfl

theorem wanes_leaveStep (s : State) (id : BitVec 32) (x : Run) : s.Wanes (s.leaveStep id x) :=
  (wanes_tell ..).after ((wanes_dropRows ..).after ((wanes_unpinStep ..).after (wanes_abandon s id)))

/-- Words to a tenant are notes alone. -/
theorem tell_eq (s : State) (c : Cab) (n code : Nat) : s.tell c n code = { s with notes := (s.tell c n code).notes } := by
  unfold State.tell
  split <;> rfl

/-- The discard of a step changes no run, and of reductions only what the end of the step does. -/
theorem kept_by_leaveStep {α : Type} {f : State → α} (hc : ∀ s : State, f s.calm = f s) (hd : ∀ (s : State) l, f { s with dies := l } = f s)
    (hn : ∀ (s : State) l, f { s with notes := l } = f s) : f (s.leaveStep id x) = f (s.abandon id) := by
  rw [State.leaveStep, tell_eq, hn]
  refine Eq.trans (b := f ((s.abandon id).unpinStep x)) ?_ (eq_of_calm hc (calm_foldl (fun _ _ => calm_unpin ..) _ _))
  exact (hd _ _).trans (hd _ _)

theorem runs_leaveStep : (s.leaveStep id x).runs = s.runs :=
  (kept_by_leaveStep (f := State.runs) (fun _ => rfl) (fun _ _ => rfl) fun _ _ => rfl).trans rfl

theorem reductions_leaveStep : (s.leaveStep id x).reductions = (s.abandon id).reductions :=
  kept_by_leaveStep (f := State.reductions) (fun _ => rfl) (fun _ _ => rfl) fun _ _ => rfl

/-! ### The drawer of the run's slot -/

/-- A slot holds a tenant's drawer, bound and not to be unbound. -/
def State.HoldsDrawer (s : State) (c : Cab) (n : Nat) (tenant : BitVec 32) (handle : Word) : Prop :=
  ∃ y, s.slot? c n = some y ∧ y.state = SState.bound ∧ y.unbind = false ∧ y.tenant = tenant ∧ y.handle = handle

section Drawer

variable {c : Cab} {n : Nat} {tenant : BitVec 32} {handle : Word} {g : Die}

theorem State.HoldsDrawer.of_slots (h : s.HoldsDrawer c n tenant handle) (hs : t.slots = s.slots) : t.HoldsDrawer c n tenant handle := by
  obtain ⟨y, hy, hrest⟩ := h
  exact ⟨y, by rwa [State.slot?, hs], hrest⟩

theorem slot?_modSlot {f : Slot → Slot} {y : Slot} (hy : s.slot? c n = some y) (hf : (f y).cab = y.cab ∧ (f y).slot = y.slot) :
    (s.modSlot c n f).slot? c n = some (f y) := by
  obtain ⟨hc, hn⟩ := slot?_key hy
  exact find?_updFirst hy (by rw [hf.1, hf.2, hc, hn]; simp)

theorem slots_freePages (s : State) (p : Page → Bool) : (s.freePages p).slots = s.slots :=
  (eq_of_swept (f := State.slots) (fun _ => rfl) (swept_freePages s p)).trans rfl

theorem State.HoldsDrawer.releaseResidency (h : s.HoldsDrawer c n tenant handle) : (s.releaseResidency c n g).HoldsDrawer c n tenant handle := by
  obtain ⟨y, hy, h1, h2, h3, h4⟩ := h
  unfold State.releaseResidency
  dsimp only
  refine State.HoldsDrawer.of_slots ?_ ((slots_dropClaims ..).trans (slots_freePages ..))
  split
  · split
    · exact ⟨y, hy, h1, h2, h3, h4⟩
    · exact ⟨_, slot?_modSlot hy ⟨rfl, rfl⟩, h1, h2, h3, h4⟩
  · exact ⟨y, hy, h1, h2, h3, h4⟩

theorem State.HoldsDrawer.ite {p : Prop} [Decidable p] (ht : t.HoldsDrawer c n tenant handle) (hu : u.HoldsDrawer c n tenant handle) :
    (if p then t else u).HoldsDrawer c n tenant handle := by
  split
  · exact ht
  · exact hu

theorem State.HoldsDrawer.evictOne (h : s.HoldsDrawer c n tenant handle) : (s.evictOne c n g).HoldsDrawer c n tenant handle := by
  unfold State.evictOne
  split
  · exact h
  · exact .ite (State.HoldsDrawer.releaseResidency (h.of_slots (slots_answerFetch ..))) (h.of_slots rfl)

theorem State.HoldsDrawer.settleEvict (h : s.HoldsDrawer c n tenant handle) : (s.settleEvict c n).HoldsDrawer c n tenant handle := by
  obtain ⟨y, hy, h1, h2, h3, h4⟩ := h
  have hno : ¬SState.bound = SState.retiring := by decide
  have hne : (SState.bound == SState.evictPending) = false := by decide
  rw [State.settleEvict, hy]
  simp only [h1, h2, hno, decide_false, Bool.or_self, Bool.false_and, Bool.false_eq_true, if_false]
  refine State.HoldsDrawer.of_slots ?_ (quiet_slots (quiet_completeAll ..))
  exact ⟨_, slot?_modSlot hy ⟨rfl, rfl⟩, by simp only [h1, hne, Bool.and_false, Bool.false_eq_true, if_false], h2, h3, h4⟩

theorem State.HoldsDrawer.settleCache {c' : Cab} (h : s.HoldsDrawer c n tenant handle) : (s.settleCache c').HoldsDrawer c n tenant handle := by
  unfold State.settleCache
  exact .ite (h.of_slots ((quiet_slots (quiet_completeAll ..)).trans rfl)) h

theorem State.HoldsDrawer.unpin (h : s.HoldsDrawer c n tenant handle) : (s.unpin c n g).HoldsDrawer c n tenant handle := by
  have h0 : (s.modResidency c n g fun r => { r with pins := r.pins - 1 }).HoldsDrawer c n tenant handle := h.of_slots rfl
  unfold State.unpin
  dsimp only
  split
  · exact State.HoldsDrawer.settleCache (State.HoldsDrawer.settleEvict (.ite h0.evictOne h0))
  · exact h0

theorem State.HoldsDrawer.foldl_unpin (l : List Die) :
    ∀ {s : State}, s.HoldsDrawer c n tenant handle → (l.foldl (fun (s : State) g => s.unpin c n g) s).HoldsDrawer c n tenant handle := by
  induction l with
  | nil => exact id
  | cons a l ih => exact fun h => ih h.unpin

end Drawer

/-- The tenant of a drawer that stays bound is told of the discard. -/
theorem note_leaveStep {tenant : BitVec 32} {handle : Word} (h : s.HoldsDrawer x.cab x.slot tenant handle) :
    ∃ n ∈ (s.leaveStep id x).notes, n.tenant = tenant ∧ n.handle = handle ∧ n.code = Code.stepDiscarded := by
  have h0 : (s.abandon id).HoldsDrawer x.cab x.slot tenant handle := h.of_slots rfl
  have h1 : (((s.abandon id).unpinStep x).dropRows id).HoldsDrawer x.cab x.slot tenant handle :=
    State.HoldsDrawer.of_slots (State.HoldsDrawer.foldl_unpin (stepGroups x) h0) rfl
  obtain ⟨y, hy, -, -, rfl, rfl⟩ := h1
  rw [State.leaveStep, State.tell, hy]
  exact ⟨_, List.mem_append_right _ (List.mem_singleton.2 rfl), rfl, rfl, rfl⟩

section Stop

variable (h : s.admits infoStopRun src req = true) (hx : s.run? (BitVec.ofNat 32 (bits (wordAt req.payload 0) 63 32)) = some x)
  (hf : s.foreign (replyOf infoStopRun src req) x.tenant = false) (hst : x.state ∈ [RunSt.running, RunSt.committing, RunSt.trapped])

include h hx hf hst

theorem stopRun_idle (hin : x.inStep = false) : Answers (.stopRun src req) s fun t =>
    t.answered (replyOf infoStopRun src req) 0 Code.ok [] = true ∧
      t.quiet = (s.modRun x.id fun y => { y with state := RunSt.stopped, stopReply := none, stopping := false }).quiet := by
  refine runCommand_answers h rfl hx hf hst fun t ht htx => ?_
  have hv := ht.accept (q := 0)
  have hvx : (t.accept (replyOf infoStopRun src req) 0).run? x.id = some x := (run?_of_runs (quiet_runs (quiet_accept ..))).trans htx
  generalize t.accept (replyOf infoStopRun src req) 0 = v at hv hvx
  have he : (v.modRun x.id (Run.asked (replyOf infoStopRun src req))).stopNow x.id =
      (v.modRun x.id fun y => { y with state := RunSt.stopped, stopReply := none, stopping := false }).complete
        (replyOf infoStopRun src req) Code.ok [] := by
    rw [State.stopNow, modRun_modRun (by exact fun _ => rfl), completeStop_asked (run?_modRun hvx rfl) rfl,
      modRun_modRun (by exact fun _ => rfl)]
    rfl
  have hin' : (!x.inStep) = true := by rw [hin]; rfl
  have hm := hv.modRun (i := x.id) (f := fun y => { y with state := RunSt.stopped, stopReply := none, stopping := false })
  rw [if_pos hin']
  exact hm.completed he

theorem stopRun_inStep (hin : x.inStep = true) (hno : bitAt (wordAt req.payload 0) 0 = false ∨ x.uncommitted = false) :
    Answers (.stopRun src req) s fun t => t.acceptedReq (replyOf infoStopRun src req) 0 = true ∧
      t.quiet = (s.modRun x.id fun y => { y with stopReply := some (replyOf infoStopRun src req), stopping := true,
                                                 state := if y.state = RunSt.running then RunSt.stopping else y.state }).quiet := by
  refine runCommand_answers h rfl hx hf hst fun t ht _ => ?_
  have hin' : ¬(!x.inStep) = true := by rw [hin]; decide
  have hno' : ¬(bitAt (wordAt req.payload 0) 0 && x.uncommitted) = true := by rcases hno with h | h <;> simp [h]
  rw [if_neg hin', if_neg hno', modRun_modRun (by exact fun _ => rfl)]
  exact ⟨acceptedReq_of_chans rfl (acceptedReq_accept 0 ht.holds), ht.accept.modRun.quiet⟩

/-- The step of a run is discarded, and the stop answered. -/
structure State.Aborted (s t : State) (r : Reply) (x : Run) : Prop where
  ended : t.ended r = true
  run : ∃ y, t.run? x.id = some y ∧ y.state = RunSt.stopped ∧ y.inStep = false ∧ y.cursor = x.stepStart ∧ y.epoch = x.epoch ∧
    y.current = x.current ∧ y.lastCode = Code.stepDiscarded
  reductions : ∀ z ∈ t.reductions, z.run = x.id → z.era ≠ 0
  mem : t.mem = s.mem
  told : ∀ y, s.slot? x.cab x.slot = some y → y.state = SState.bound → y.unbind = false →
    ∃ n ∈ t.notes, n.tenant = y.tenant ∧ n.handle = y.handle ∧ n.code = Code.stepDiscarded

omit h hx hf hst in
theorem aborted_of_took {w : State} (hw : (s.modRun x.id (Run.asked r)).Took r w) (hk : w.KeepsChan (chanKey r.src))
    (hx : w.run? x.id = some (x.asked r)) :
    s.Aborted ((w.discardStep x.id Code.stepDiscarded RunSt.stopped).completeStop x.id) r x := by
  have hl := wanes_leaveStep w x.id (x.asked r)
  have hux : (w.leaveStep x.id (x.asked r)).run? x.id = some (x.asked r) := (run?_of_runs runs_leaveStep).trans hx
  have hred : (w.leaveStep x.id (x.asked r)).reductions = (w.abandon x.id).reductions := reductions_leaveStep
  have hslots : w.slots = s.slots := (hw.reads (f := State.slots) fun _ => rfl).trans rfl
  have htold := fun y (hy : s.slot? x.cab x.slot = some y) (hb : y.state = SState.bound) (hu : y.unbind = false) =>
    note_leaveStep (id := x.id) (x := x.asked r) (tenant := y.tenant) (handle := y.handle)
      (s := w) ⟨y, by rw [State.slot?, hslots]; exact hy, hb, hu, rfl, rfl⟩
  rw [discardStep_eq hx]
  generalize w.leaveStep x.id (x.asked r) = u at hl hux hred htold
  rw [completeStop_asked (run?_modRun hux rfl) rfl, modRun_modRun (by exact fun _ => rfl)]
  have hn : (u.modRun x.id fun y => (y.discarded Code.stepDiscarded RunSt.stopped).settled).Newest r :=
    hw.holds.newest.later ((hl.later _ hk).trans (.refl _))
  have hq := quiet_complete (u.modRun x.id fun y => (y.discarded Code.stepDiscarded RunSt.stopped).settled) r Code.ok []
  refine ⟨(done_finish hn 0 Code.ok []).ended, ⟨_, (run?_of_runs (quiet_runs hq)).trans (run?_modRun hux rfl), rfl, rfl, rfl, rfl, rfl, rfl⟩,
    fun z hz => ?_, ?_, fun y hy hb hu => ?_⟩
  · rw [quiet_reductions hq] at hz
    exact era_abandon (hred ▸ hz)
  · exact (quiet_mem hq).trans (hl.mem.trans ((hw.reads (f := State.mem) fun _ => rfl).trans rfl))
  · rw [eq_of_quiet (f := State.notes) (fun _ => rfl) hq]
    exact htold y hy hb hu

theorem stopRun_aborts (hin : x.inStep = true) (hflag : bitAt (wordAt req.payload 0) 0 = true) (hun : x.uncommitted = true)
    (hu : s.idsUnique) : Answers (.stopRun src req) s fun t => s.Aborted t (replyOf infoStopRun src req) x := by
  refine runCommand_answers h rfl hx hf hst fun t ht htx => ?_
  have hin' : ¬(!x.inStep) = true := by rw [hin]; decide
  have hyes : (bitAt (wordAt req.payload 0) 0 && x.uncommitted) = true := by rw [hflag, hun]; rfl
  have hvx : (t.accept (replyOf infoStopRun src req) 0).run? x.id = some x := (run?_of_runs (quiet_runs (quiet_accept ..))).trans htx
  have hk : (t.accept (replyOf infoStopRun src req) 0).KeepsChan (chanKey src) :=
    (keepsChan_of_admits h hu).of_quiet ht.accept.quiet
  rw [if_neg hin', if_pos hyes]
  exact aborted_of_took (ht.accept (q := 0)).modRun hk (run?_modRun (f := Run.asked (replyOf infoStopRun src req)) hvx rfl)

end Stop

/-! ## END_RUN -/

/-- What the end of a run leaves. -/
structure State.RunGone (t : State) (id : BitVec 32) : Prop where
  runs : ∀ y ∈ t.runs, y.id ≠ id
  pages : ∀ p ∈ t.pages, p.kind = PKind.run ∨ p.kind = PKind.saved → p.ownerRef ≠ id
  vcs : ∀ v ∈ t.cp.vcs, v ≠ some id
  reductions : ∀ z ∈ t.reductions, z.run ≠ id
  fetches : ∀ f ∈ t.fetches, f.run ≠ some id

/-- What is gone does not come back. -/
theorem State.RunGone.wanes (h : s.RunGone id) (hw : s.Wanes t) : t.RunGone id where
  runs y hy := by
    obtain ⟨x, hx, e⟩ := hw.runs y hy
    exact e ▸ h.runs x hx
  pages p hp hk := h.pages p (hw.pages p hp hk) hk
  vcs v hv := by
    rcases hw.vcs v hv with rfl | hv
    · exact nofun
    · exact h.vcs v hv
  reductions z hz := by
    obtain ⟨y, hy, e⟩ := hw.reductions z hz
    exact e ▸ h.reductions y hy
  fetches f hf := by
    obtain ⟨g, hg, e⟩ := hw.fetches f hf
    exact e ▸ h.fetches g hg

theorem pages_freeRunPages {p : Page} (hp : p ∈ (s.freeRunPages id).pages) (hk : p.kind = PKind.run ∨ p.kind = PKind.saved) :
    p.ownerRef ≠ id := by
  have hpages : (s.freeRunPages id).pages = s.pages.filter _ := eq_of_swept (f := State.pages) (fun _ => rfl) (swept_freePages s _)
  intro he
  have hkind : (PKind.run != 0 && PKind.run != PKind.withdrawn && PKind.saved != 0 && PKind.saved != PKind.withdrawn) = true := by decide
  have := (List.mem_filter.1 (hpages ▸ hp)).2
  rcases hk with hk | hk <;> simp_all

theorem runGone_releaseRun (h : s.run? id = some x) : (s.releaseRun id).RunGone id := by
  rw [releaseRun_eq h]
  have hw : (s.freeRunPages id).Wanes (((s.freeRunPages id).freeRunSlot x id).endRemaking x) :=
    (wanes_endRemaking ..).after (wanes_freeRunSlot ..)
  generalize ((s.freeRunPages id).freeRunSlot x id).endRemaking x = v at hw
  refine ⟨fun y hy => ?_, fun p hp hk => pages_freeRunPages (hw.pages p hp hk) hk, fun c hc => ?_, fun z hz => ?_, fun f hf => ?_⟩
  · simpa using (List.mem_filter.1 hy).2
  · obtain ⟨d, -, rfl⟩ := List.mem_map.1 hc
    split
    · exact nofun
    · assumption
  · simpa using (List.mem_filter.1 hz).2
  · simpa using (List.mem_filter.1 hf).2

theorem endRun_ends (h : s.admits infoEndRun src req = true) (hx : s.run? (BitVec.ofNat 32 (bits (wordAt req.payload 0) 63 32)) = some x)
    (hf : s.foreign (replyOf infoEndRun src req) x.tenant = false) (hst : x.state ∈ [RunSt.stopped, RunSt.done, RunSt.failed])
    (hu : s.idsUnique) : Answers (.endRun src req) s fun t =>
      t.ended (replyOf infoEndRun src req) = true ∧ t.RunGone x.id ∧ t.mem = s.mem := by
  refine runCommand_answers h rfl hx hf hst fun t ht htx => ?_
  have hw : t.Wanes ((t.releaseRun x.id).promoteAll x.cab) := (wanes_promoteAll ..).after (wanes_releaseRun ..)
  have hgone : ((t.releaseRun x.id).promoteAll x.cab).RunGone x.id := (runGone_releaseRun htx).wanes (wanes_promoteAll ..)
  generalize (t.releaseRun x.id).promoteAll x.cab = v at hw hgone
  have hn : v.Newest (replyOf infoEndRun src req) := ht.holds.newest.later (hw.later _ ((keepsChan_of_admits h hu).of_quiet ht.quiet))
  exact ⟨(done_finish hn 0 Code.ok []).ended, hgone.wanes (wanes_complete ..),
    (quiet_mem (quiet_complete ..)).trans (hw.mem.trans (quiet_mem ht.quiet))⟩

/-! ## PUBLISH_RUN -/

theorem knownVersion_quiet (s : State) (h : Word) : s.quiet.knownVersion h = s.knownVersion h := by
  rw [State.knownVersion, State.knownVersion, catalog_quiet]
  rfl

/-- The CATALOG_STORE of the next version of a run. -/
def State.storeOf (s : State) (x : Run) (q : Option Reply) : Store :=
  { id := s.nextStore, handle := x.outHandle, version := BitVec.ofNat 32 (s.knownVersion x.outHandle + 1), cab := x.cab, run := x.id,
    tenant := x.tenant, reply := q }

/-- What the publication of a run leaves. -/
structure State.Published (s t : State) (x : Run) (q : Option Reply) : Prop where
  stores : t.stores = s.stores ++ [s.storeOf x q]
  next : t.nextStore = s.nextStore + 1
  versions : t.versions = assocPut x.outHandle (BitVec.ofNat 32 (s.knownVersion x.outHandle + 1)) s.versions
  runs : t.runs = s.runs
  slots : t.slots = s.slots
  mem : t.mem = s.mem

theorem published_publish {img : DrawerImage} (himg : (s.slot? x.cab x.slot).bind Slot.image = some img) (q : Option Reply) :
    s.Published (s.publish x q) x q ∧ (s.publish x q).cp.chans = s.cp.chans := by
  unfold State.publish
  rw [himg]
  extract_lets
  have hread : ∀ {α : Type} {f : State → α}, (∀ s : State, f s.quiet = f s) → ∀ k op n l, f (State.postEvent k op n l) = f k :=
    fun hf k op n l => eq_of_quiet hf (quiet_postEvent ..)
  exact ⟨⟨hread (f := State.stores) (fun _ => rfl) .., hread (f := State.nextStore) (fun _ => rfl) .., hread (f := State.versions) (fun _ => rfl) ..,
    hread (f := State.runs) (fun _ => rfl) .., hread (f := State.slots) (fun _ => rfl) .., hread (f := State.mem) (fun _ => rfl) ..⟩,
    chans_postEvent ..⟩

section Publish

variable (h : s.admits infoPublishRun src req = true) (hx : s.run? (BitVec.ofNat 32 (bits (wordAt req.payload 0) 63 32)) = some x)
  (hf : s.foreign (replyOf infoPublishRun src req) x.tenant = false)
  (hst : x.state ∈ [RunSt.running, RunSt.stopped, RunSt.done, RunSt.failed])

include h hx hf hst

theorem publishRun_lost (hl : x.lastCode = Code.runStateLost) : Completes (.publishRun src req) s infoPublishRun src req Code.runStateLost [] s :=
  runCommand_completes h rfl hx hf hst fun t ht => ⟨t, ht, if_pos hl⟩

variable (hl : x.lastCode ≠ Code.runStateLost)

include hl

theorem publishRun_empty (himg : (s.slot? x.cab x.slot).bind Slot.image = none) :
    Completes (.publishRun src req) s infoPublishRun src req Code.runState [] s :=
  runCommand_completes h rfl hx hf hst fun t ht => ⟨t, ht, by
    have hs : t.slot? x.cab x.slot = s.slot? x.cab x.slot := ht.reads (f := fun s => s.slot? _ _) fun _ => rfl
    rw [if_neg hl, hs, himg]
    rfl⟩

theorem publishRun_publishes (himg : ((s.slot? x.cab x.slot).bind Slot.image).isSome = true) : Answers (.publishRun src req) s fun t =>
    t.acceptedReq (replyOf infoPublishRun src req) 0 = true ∧ s.Published t x (some (replyOf infoPublishRun src req)) := by
  refine runCommand_answers h rfl hx hf hst fun t ht _ => ?_
  obtain ⟨img, himg⟩ := Option.isSome_iff_exists.1 himg
  have hs : t.slot? x.cab x.slot = s.slot? x.cab x.slot := ht.reads (f := fun s => s.slot? _ _) fun _ => rfl
  have hv := ht.accept (q := 0)
  have hvs : ((t.accept (replyOf infoPublishRun src req) 0).slot? x.cab x.slot).bind Slot.image = some img := by
    rw [hv.reads (f := fun s => (s.slot? x.cab x.slot).bind Slot.image) fun _ => rfl, himg]
  have hver : (t.accept (replyOf infoPublishRun src req) 0).knownVersion x.outHandle = s.knownVersion x.outHandle :=
    hv.reads (f := fun s => s.knownVersion x.outHandle) fun s => knownVersion_quiet s _
  have hsome : ¬((t.slot? x.cab x.slot).bind Slot.image).isNone = true := by simp [hs, himg]
  obtain ⟨hp, hchans⟩ := published_publish hvs (some (replyOf infoPublishRun src req))
  rw [if_neg hl, if_neg hsome]
  have hread : ∀ {α : Type} {f : State → α}, (∀ s : State, f s.quiet = f s) → f (t.accept (replyOf infoPublishRun src req) 0) = f s :=
    fun hf => hv.reads hf
  refine ⟨acceptedReq_of_chans hchans (acceptedReq_accept 0 ht.holds), ⟨?_, ?_, ?_, ?_, ?_, ?_⟩⟩
  · rw [hp.stores, State.storeOf, State.storeOf, hver, hread (f := State.stores) fun _ => rfl, hread (f := State.nextStore) fun _ => rfl]
  · exact hp.next.trans (congrArg (· + 1) (hread (f := State.nextStore) fun _ => rfl))
  · exact hp.versions.trans (by rw [hver, hread (f := State.versions) fun _ => rfl])
  · exact hp.runs.trans (hread (f := State.runs) fun _ => rfl)
  · exact hp.slots.trans (hread (f := State.slots) fun _ => rfl)
  · exact hp.mem.trans (hread (f := State.mem) fun _ => rfl)

end Publish

end Sys2Proof.Machine
end
section
/-!
PROOF. RESUME_RUN: a run goes on with the step at its cursor, or ends (R270, R276, R291); the commands on a run together.
-/

namespace Sys2Proof.Machine

variable {s t u v : State} {r : Reply} {src : Src} {req : Req} {id : BitVec 32} {x : Run}

/-! ## The sequences of a step (R270) -/

theorem takeSeqs_end {n cur sk : Nat} {acc : List (Nat × Nat × Nat)} (h : x.seqs.length ≤ cur) : s.takeSeqs x n cur sk acc = (acc, cur, sk) := by
  cases n with
  | zero => rfl
  | succ n =>
    rw [State.takeSeqs, List.getElem?_eq_none h]
    split <;> rfl

/-- Sequences taken are kept, and the cursor does not go back. -/
theorem takeSeqs_grows (n : Nat) : ∀ (cur sk : Nat) (acc : List (Nat × Nat × Nat)),
    (∃ l, (s.takeSeqs x n cur sk acc).1 = acc ++ l) ∧ cur ≤ (s.takeSeqs x n cur sk acc).2.1 := by
  induction n with
  | zero => exact fun cur sk acc => ⟨⟨[], (List.append_nil _).symm⟩, Nat.le_refl _⟩
  | succ n ih =>
    intro cur sk acc
    have hstay : (∃ l, acc = acc ++ l) ∧ cur ≤ cur := ⟨⟨[], (List.append_nil _).symm⟩, Nat.le_refl _⟩
    rw [State.takeSeqs]
    split
    · exact hstay
    · split
      · exact hstay
      next q _ =>
        split
        · obtain ⟨hl, hc⟩ := ih (cur + 1) (sk + 1) acc
          exact ⟨hl, Nat.le_of_succ_le hc⟩
        · obtain ⟨⟨l, hl⟩, hc⟩ := ih (cur + 1) sk (acc ++ [(cur, q.1, q.2)])
          exact ⟨⟨(cur, q.1, q.2) :: l, by rw [hl, List.append_assoc]; rfl⟩, Nat.le_of_succ_le hc⟩

/-- A sequence at the cursor that is not skipped is the step's first. -/
theorem takeSeqs_first {cur : Nat} {q : Nat × Nat} (hq : x.seqs[cur]? = some q) (hs : s.skipSeq x q = false) (h0 : x.seqsPerStep ≠ 0) :
    (∃ l, (s.takeSeqs x x.seqs.length cur 0 []).1 = (cur, q.1, q.2) :: l) ∧ cur < (s.takeSeqs x x.seqs.length cur 0 []).2.1 := by
  obtain ⟨n, hn⟩ : ∃ n, x.seqs.length = n + 1 := Nat.exists_eq_succ_of_ne_zero (by
    have := (List.getElem?_eq_some_iff.1 hq).1
    omega)
  have h0' : ¬([] : List (Nat × Nat × Nat)).length = x.seqsPerStep := h0.symm
  rw [hn, State.takeSeqs, if_neg h0', hq]
  simp only [hs, Bool.false_eq_true, if_false]
  obtain ⟨⟨l, hl⟩, hc⟩ := takeSeqs_grows (s := s) (x := x) n (cur + 1) 0 ([] ++ [(cur, q.1, q.2)])
  exact ⟨⟨l, hl⟩, hc⟩

/-! ## The start of a step (R266, R276) -/

/-- A run as the start of a step leaves it: its sequences placed, its settings in effect. -/
def State.stepped (s : State) (x : Run) (qs : List (Nat × Nat × Nat)) (cur sk : Nat) : Run :=
  let y := { x with
    settings := x.settingsNext.getD x.settings, settingsNext := none, thin := x.thinNext, lr := x.lrNext.getD x.lr, lrNext := none,
    stepStart := x.cursor, cursor := cur, skipped := satAdd (2 ^ 32 - 1) x.skipped sk, step := placeSeqs (s.runGroups x) qs, inStep := true,
    noOffDie := s.noOffDie x, shadow := [] }
  { y with perDie := s.stepDies x y.step }

/-- A run that ends with its dataset. -/
def Run.atEnd (cur sk : Nat) (y : Run) : Run :=
  { y with cursor := cur, skipped := sk, state := RunSt.done }

section Start

variable (hx : s.run? id = some x) (hst : x.state = RunSt.running) (hin : x.inStep = false)

include hx hst hin

theorem startStep_done {n cur sk : Nat} (hq : s.takeSeqs x x.seqs.length x.cursor 0 [] = ([], cur, sk)) (hr : x.remakeOf = none) :
    s.startStep id (n + 1) = s.modRun id (Run.atEnd cur (satAdd (2 ^ 32 - 1) x.skipped sk)) := by
  have hne : ¬(x.state != RunSt.running || x.inStep) = true := by simp [hst, hin]
  have hx' := run?_modRun (f := Run.atEnd cur (satAdd (2 ^ 32 - 1) x.skipped sk)) hx rfl
  have hd : (s.modRun id (Run.atEnd cur (satAdd (2 ^ 32 - 1) x.skipped sk))).remakeDone id =
      s.modRun id (Run.atEnd cur (satAdd (2 ^ 32 - 1) x.skipped sk)) := by
    rw [State.remakeDone, hx']
    exact if_pos (by simp [Run.atEnd, hr])
  rw [State.startStep, hx]
  dsimp only
  rw [if_neg hne, hq]
  exact hd

theorem startStep_enters {n cur sk : Nat} {q : Nat × Nat × Nat} {qs : List (Nat × Nat × Nat)}
    (hq : s.takeSeqs x x.seqs.length x.cursor 0 [] = (q :: qs, cur, sk)) (h0 : q.2.2 ≠ 0) :
    s.startStep id (n + 1) = s.enterStep id x (s.stepped x (q :: qs) cur sk) := by
  have hne : ¬(x.state != RunSt.running || x.inStep) = true := by simp [hst, hin]
  have hsum : ¬((q :: qs).map fun q => q.2.2).sum = 0 := by
    rw [List.map_cons, List.sum_cons]
    omega
  rw [State.startStep, hx]
  dsimp only
  rw [if_neg hne, hq]
  dsimp only
  rw [if_neg (by simp), if_neg hsum]
  rfl

end Start

/-- The reductions of a step are new, nothing else. -/
theorem kept_by_makeReductions {α : Type} {f : State → α} (hf : ∀ (s : State) l n, f { s with reductions := l, nextRed := n } = f s)
    (s : State) (x : Run) (img : DrawerImage) : f (s.makeReductions x img) = f s := by
  have hadd : ∀ (v : State) p ch o k a e b, f (v.addReduction x p ch o k a e b) = f v := fun v _ _ _ _ _ _ _ => hf v _ _
  refine Eq.trans (b := f ((List.range (s.spanOf x)).foldl _ s)) (hf _ _ _) ?_
  refine foldl_keeps (g := f) (fun v p => ?_) _ s
  have h1 : ∀ (l : List Nat) (w : State), f (l.foldl (fun (s : State) d =>
      (cutBuckets x.settings.bucket (s.shardParams x img p d).length).zipIdx.foldl (fun (s' : State) b =>
        s'.addReduction x p (v.chainOf x p) d b.2 ((s.shardParams x img p d).getD b.1.1 0) b.1.2 false) s) w) = f w :=
    fun l w => foldl_keeps (g := f) (fun s d => foldl_keeps (g := f) (fun _ _ => hadd ..) _ s) l w
  dsimp only
  split
  · exact h1 _ _
  · exact (foldl_keeps (g := f) (fun _ _ => hadd ..) _ _).trans (h1 _ _)

/-- A step that starts changes its run, pins and reductions. -/
theorem kept_by_enterStep {α : Type} {f : State → α} (hf : ∀ (s : State) l n, f { s with reductions := l, nextRed := n } = f s)
    (hp : ∀ (s : State) l, f { s with residencies := l } = f s) (s : State) (id : BitVec 32) (x y : Run) :
    f (s.enterStep id x y) = f (s.modRun id fun _ => y) := by
  have hpins : ∀ v : State, f ((stepGroups y).foldl (fun (s : State) g => s.pin x.cab x.slot g) v) = f v :=
    fun v => foldl_keeps (g := f) (f := fun (s : State) g => s.pin x.cab x.slot g) (fun _ _ => hp ..) _ v
  unfold State.enterStep
  dsimp only
  split
  · exact (kept_by_makeReductions hf ..).trans (hpins _)
  · exact hpins _

section Resume

variable (h : s.admits infoResumeRun src req = true) (hx : s.run? (BitVec.ofNat 32 (bits (wordAt req.payload 0) 63 32)) = some x)
  (hf : s.foreign (replyOf infoResumeRun src req) x.tenant = false) (hst : x.state ∈ [RunSt.trapped, RunSt.stopped])

include h hx hf hst

theorem resumeRun_unmounted (hu : x.unmounted = true) : Completes (.resumeRun src req) s infoResumeRun src req Code.runState [] s :=
  runCommand_completes h rfl hx hf hst fun t ht => ⟨t, ht, if_pos hu⟩

variable (hu : x.unmounted = false)

include hu

theorem resumeRun_full (hfull : x.state = RunSt.stopped ∧ 1024 ≤ s.openRuns) :
    Completes (.resumeRun src req) s infoResumeRun src req Code.runLimit [] s :=
  runCommand_completes h rfl hx hf hst fun t ht => ⟨t, ht, by
    have ho : t.openRuns = s.openRuns := ht.reads (f := State.openRuns) fun _ => rfl
    rw [if_neg (by simp [hu]), ho, if_pos hfull]⟩

/-- A run that goes on from its cursor. -/
def Run.resumed (x y : Run) : Run :=
  { y with state := RunSt.running, cursor := x.cursor, skipped := satAdd (2 ^ 32 - 1) y.skipped 0, consecutive := 0 }

variable (hfull : ¬(x.state = RunSt.stopped ∧ 1024 ≤ s.openRuns)) (hflag : bitAt (wordAt req.payload 0) 0 = false)

include hfull hflag

/-- A run that may go on is answered, and its step begins. -/
theorem resumeRun_begins {P : State → Prop} (hP : ∀ w : State, w.answered (replyOf infoResumeRun src req) 0 Code.ok [] = true →
    w.run? x.id = some (x.resumed x) → w.quiet = (s.modRun x.id x.resumed).quiet → P (w.beginStep x.id)) :
    Answers (.resumeRun src req) s P := by
  refine runCommand_answers h rfl hx hf hst fun t ht htx => ?_
  have ho : t.openRuns = s.openRuns := ht.reads (f := State.openRuns) fun _ => rfl
  have hflag' : ¬bitAt (wordAt req.payload 0) 0 = true := by simp [hflag]
  have hm := ht.modRun (i := x.id) (f := x.resumed)
  rw [if_neg (by simp [hu]), ho, if_neg hfull, if_neg hflag']
  have hq := quiet_complete (t.modRun x.id x.resumed) (replyOf infoResumeRun src req) Code.ok []
  exact hP _ (answered_complete Code.ok [] hm.holds) ((run?_of_runs (quiet_runs hq)).trans (run?_modRun htx rfl)) (hq.trans hm.quiet)

variable (hin : x.inStep = false)

include hin

/-- At the end of the dataset the run is DONE. -/
theorem resumeRun_done (hend : x.seqs.length ≤ x.cursor) (hr : x.remakeOf = none) : Answers (.resumeRun src req) s fun t =>
    t.answered (replyOf infoResumeRun src req) 0 Code.ok [] = true ∧
      ∃ y, t.run? x.id = some y ∧ y.state = RunSt.done ∧ y.cursor = x.cursor ∧ y.consecutive = 0 := by
  refine resumeRun_begins h hx hf hst hu hfull hflag fun w ha hw _ => ?_
  have hq : w.takeSeqs (x.resumed x) (x.resumed x).seqs.length (x.resumed x).cursor 0 [] = ([], x.cursor, 0) := takeSeqs_end hend
  rw [State.beginStep, hw, startStep_done hw rfl hin hq hr]
  exact ⟨answered_of_chans rfl ha, _, run?_modRun hw rfl, rfl, rfl, rfl⟩

/-- Else the step at the cursor starts. -/
theorem resumeRun_steps {q : Nat × Nat} (hq : x.seqs[x.cursor]? = some q) (hs : s.skipSeq x q = false) (hloss : q.2 ≠ 0)
    (h0 : x.seqsPerStep ≠ 0) : Answers (.resumeRun src req) s fun t =>
      t.answered (replyOf infoResumeRun src req) 0 Code.ok [] = true ∧
        ∃ y, t.run? x.id = some y ∧ y.state = RunSt.running ∧ y.inStep = true ∧ y.stepStart = x.cursor ∧ x.cursor < y.cursor ∧
          y.epoch = x.epoch ∧ y.lr = x.lrNext.getD x.lr ∧ y.settings = x.settingsNext.getD x.settings := by
  refine resumeRun_begins h hx hf hst hu hfull hflag fun w ha hw hwq => ?_
  have hs' : w.skipSeq (x.resumed x) q = false :=
    (eq_of_quiet (f := fun s => s.skipSeq (x.resumed x) q) (fun _ => rfl) hwq).trans hs
  obtain ⟨⟨l, hl⟩, hc⟩ := takeSeqs_first (x := x.resumed x) hq hs' h0
  generalize hz : w.takeSeqs (x.resumed x) (x.resumed x).seqs.length x.cursor 0 [] = z at hl hc
  obtain ⟨qs, cur, sk⟩ := z
  obtain rfl : qs = (x.cursor, q.1, q.2) :: l := hl
  have he : w.beginStep x.id = w.enterStep x.id (x.resumed x) (w.stepped (x.resumed x) ((x.cursor, q.1, q.2) :: l) cur sk) := by
    rw [State.beginStep, hw]
    exact startStep_enters hw rfl hin hz hloss
  rw [he]
  refine ⟨answered_of_chans ?_ ha, w.stepped (x.resumed x) ((x.cursor, q.1, q.2) :: l) cur sk, ?_, rfl, rfl, rfl, hc, rfl, rfl, rfl⟩
  · exact (kept_by_enterStep (f := fun s => s.cp.chans) (fun _ _ _ => rfl) (fun _ _ => rfl) ..).trans rfl
  · exact (kept_by_enterStep (f := fun s => s.run? x.id) (fun _ _ _ => rfl) (fun _ _ => rfl) ..).trans
      (run?_modRun hw rfl)

end Resume

theorem runsAreCommanded : RunsAreCommanded := by
  intro s src req x hx flag mine
  refine ⟨fun ⟨h, hf⟩ hst => ⟨stopRun_idle h hx hf hst, stopRun_inStep h hx hf hst, fun hin hflag hun hu => ?_⟩, fun ⟨h, hf⟩ hst hu => ?_,
    fun ⟨h, hf⟩ hst => ⟨publishRun_lost h hx hf hst, publishRun_empty h hx hf hst, fun hl himg => ?_⟩,
    fun ⟨h, hf⟩ hst => ⟨resumeRun_unmounted h hx hf hst, resumeRun_full h hx hf hst, fun hu hfull hin hflag _ =>
      ⟨resumeRun_done h hx hf hst hu hfull hflag hin, fun q => resumeRun_steps h hx hf hst hu hfull hflag hin⟩⟩⟩
  · refine (stopRun_aborts h hx hf hst hin hflag hun hu).imp fun t ⟨ht, ha⟩ => ⟨ht, ?_⟩
    exact ⟨ha.ended, ha.run, ha.reductions, ha.mem, ha.told⟩
  · refine (endRun_ends h hx hf hst hu).imp fun t ⟨ht, he, hg, hm⟩ => ⟨ht, ?_⟩
    exact ⟨he, hg.runs, hg.pages, hg.vcs, hg.reductions, hg.fetches, hm⟩
  · refine (publishRun_publishes h hx hf hst hl himg).imp fun t ⟨ht, ha, hp⟩ => ⟨ht, ?_⟩
    exact ⟨ha, hp.stores, hp.next, hp.versions, hp.runs, hp.slots, hp.mem⟩

end Sys2Proof.Machine
end
section
/-!
PROOF. What a run has stored is bound, or leaves the cache (R256, R290).
-/

namespace Sys2Proof.Machine

variable {s t u v : State} {r : Reply} {src : Src} {req : Req} {x : Store} {c : Cab} {n : Nat}

/-! ## An answer stays -/

/-- The answer to the newest request of its channel stays as it was given. -/
theorem answered_after_complete {code : Nat} {p : List Word} (h : s.Holds r)
    (hl : Later ((s.complete r code p).chan (chanKey r.src)) (t.chan (chanKey r.src))) : t.answered r 0 code p = true := by
  have ho := h.open
  obtain ⟨l, j, e, hno, hm, hop, hst, hp⟩ := h
  obtain ⟨l', e', -⟩ := chan_modReq (s := s.tick.2)
    (fun j => { j with phase := 2, completion := r.msgs Kind.completion 0 code p, doneAt := s.tick.1 }) e hno hm hp
  have hc : (s.complete r code p).chan (chanKey r.src) =
      l' ++ [{ j with phase := 2, completion := r.msgs Kind.completion 0 code p, doneAt := s.tick.1 }] := by
    rw [State.complete, State.finish, if_pos ho]
    exact (chan_of_chans (chans_emitAll ..) _).trans e'
  obtain ⟨a, k, ha, hf, -⟩ := hl.newest _ _ hc
  cases hf.2.2.2 rfl
  simp [State.answered, ha, hm, hop, hst]

/-! ## A stored version is bound (R256) -/

/-- A stored version is bound in one cabinet. -/
def State.bindStoredAt (s : State) (x : Store) (c : Cab) : State :=
  match s.slotOf c x.handle with
  | some old =>
    if old.version < x.version then
      match s.rebind c old x.version (some x.tenant) with
      | some (_, s) => s
      | none => s
    else s
  | none =>
    if c = x.cab then
      match s.takeSlot c with
      | some (n, s) => s.bindSlot c n x.handle x.version (some x.tenant) none
      | none => s
    else s

theorem bindStored_eq (s : State) (x : Store) : s.bindStored x = (List.finRange 16).foldl (fun s c => s.bindStoredAt x c) s := rfl

/-- What no change of a slot touches, the binding of a stored version does not. -/
theorem bindStored_keeps {P : State → Prop} (hfree : ∀ v c n, P v → P (v.freeSlot c n))
    (hbind : ∀ v c n h ver o, P v → P (v.bindSlot c n h ver o none)) (hmod : ∀ v c n f, P v → P (v.modSlot c n f))
    (hevict : ∀ v c n, P v → P (v.settleEvict c n)) (h : P s) : P (s.bindStored x) := by
  have htake : ∀ {v : State} {c : Cab} {p : Nat × State}, v.takeSlot c = some p → P v → P p.2 := by
    intro v c p hp hv
    unfold State.takeSlot at hp
    split at hp
    · cases hp
      exact hv
    · obtain ⟨y, -, rfl⟩ := Option.map_eq_some_iff.1 hp
      exact hfree _ _ _ hv
  have hone : ∀ (v : State) (c : Cab), P v → P (v.bindStoredAt x c) := by
    intro v c hv
    unfold State.bindStoredAt
    split
    · split
      · split
        next hp =>
          obtain ⟨p, hp', e⟩ := Option.map_eq_some_iff.1 hp
          cases e
          exact hevict _ _ _ (hbind _ _ _ _ _ _ (hmod _ _ _ _ (htake hp' hv)))
        · exact hv
      · exact hv
    · split
      · split
        next hp => exact hbind _ _ _ _ _ _ (htake hp hv)
        · exact hv
      · exact hv
  rw [bindStored_eq]
  generalize List.finRange 16 = l
  induction l generalizing s with
  | nil => exact h
  | cons a l ih => exact ih (hone s a h)

theorem after_bindStored (s : State) (x : Store) : s.After (s.bindStored x) :=
  bindStored_keeps (P := fun v => s.After v) (fun _ _ _ h => (eased_freeSlot ..).toAfter.after h)
    (fun _ _ _ _ _ _ h => h.trans (.same rfl rfl rfl)) (fun _ _ _ _ h => h.trans (.same rfl rfl rfl))
    (fun _ _ _ h => (eased_settleEvict ..).toAfter.after h) (.refl s)

theorem stores_bindStored (s : State) (x : Store) : (s.bindStored x).stores = s.stores :=
  bindStored_keeps (P := fun v => v.stores = s.stores) (fun v c n h => (eq_of_calm (f := State.stores) (fun _ => rfl) (calm_freeSlot v c n)).trans h)
    (fun _ _ _ _ _ _ h => h) (fun _ _ _ _ h => h)
    (fun v c n h => (eq_of_calm (f := State.stores) (fun _ => rfl) (calm_settleEvict v c n)).trans h) rfl

theorem bindStoredAt_other (hs : s.slotOf c x.handle = none) (hc : c ≠ x.cab) : s.bindStoredAt x c = s := by
  rw [State.bindStoredAt, hs]
  exact if_neg hc

theorem bindStoredAt_same (hs : s.slotOf x.cab x.handle = none) (hn : firstFree (fun n => (s.slot? x.cab n).isSome) 16384 0 = some n) :
    s.bindStoredAt x x.cab = s.bindSlot x.cab n x.handle x.version (some x.tenant) none := by
  rw [State.bindStoredAt, hs]
  dsimp only
  rw [if_pos rfl, takeSlot_of_firstFree hn]

/-- A slot bound in one cabinet is none of another's. -/
theorem slotOf_bindSlot_ne {d : Cab} {h k : Word} {version : BitVec 32} {owner run : Option (BitVec 32)} (hd : d ≠ c)
    (hs : s.slotOf d k = none) : (s.bindSlot c n h version owner run).slotOf d k = none := by
  rw [bindSlot_eq]
  unfold State.slotOf at hs ⊢
  rw [List.find?_append, hs]
  simp [State.newSlot, hd.symm]

/-- A version of a handle that is bound nowhere takes the lowest free slot of the run's cabinet. -/
theorem bindStored_binds (hs : ∀ c, s.slotOf c x.handle = none) (hn : firstFree (fun n => (s.slot? x.cab n).isSome) 16384 0 = some n) :
    s.bindStored x = s.bindSlot x.cab n x.handle x.version (some x.tenant) none := by
  have hstay : ∀ (l : List Cab) (v : State), x.cab ∉ l → (∀ c ∈ l, v.slotOf c x.handle = none) →
      l.foldl (fun s c => s.bindStoredAt x c) v = v := by
    intro l v hx hv
    induction l with
    | nil => rfl
    | cons a l ih =>
      rw [List.foldl_cons, bindStoredAt_other (hv a (List.mem_cons_self ..)) fun e => hx (e ▸ List.mem_cons_self ..)]
      exact ih (fun h => hx (List.mem_cons_of_mem _ h)) fun c hc => hv c (List.mem_cons_of_mem _ hc)
  obtain ⟨as, bs, e⟩ := List.append_of_mem (List.mem_finRange x.cab)
  have hnd := e ▸ List.nodup_finRange 16
  have hna : x.cab ∉ as := fun h => (List.nodup_append.1 hnd).2.2 _ h _ (List.mem_cons_self ..) rfl
  have hnb : x.cab ∉ bs := (List.nodup_cons.1 (List.nodup_append.1 hnd).2.1).1
  rw [bindStored_eq, e, List.foldl_append, hstay as s hna fun c _ => hs c, List.foldl_cons, bindStoredAt_same (hs _) hn]
  exact hstay bs _ hnb fun c hc => slotOf_bindSlot_ne (fun e => hnb (e ▸ hc)) (hs c)

/-! ## CATALOG_STORED -/

/-- The state in which a CATALOG_STORED has been taken off the list of stores. -/
def State.dropStore (s : State) (x : Store) : State := { s with stores := s.stores.filter fun y => y.id != x.id }

/-- An object of the cache that could not be stored leaves it. -/
def State.dropVersion (s : State) (x : Store) : State :=
  s.modCt s.cp.active fun k => { k with catalog := k.catalog.filter fun o => !(o.handle == x.handle && o.version == x.version) }

theorem catalog_dropVersion (hlen : s.cp.active.val < s.cts.length) :
    (s.dropVersion x).catalog = s.catalog.filter fun o => !(o.handle == x.handle && o.version == x.version) := by
  rw [State.catalog, State.dropVersion]
  exact (congrArg CtDie.catalog (State.modCt_ct s _ _ _ hlen)).trans (by rw [if_pos rfl, State.catalog])

/-- A stored version is bound, or leaves the cache, and the command that published it is answered. -/
def State.settleStore (s : State) (x : Store) (q : Reply) (res : Nat) : State :=
  if res = 0 then (s.bindStored x).complete q Code.ok [] else (s.dropVersion x).complete q Code.storeFailed []

theorem settleStore_leaves (s : State) (x : Store) (q : Reply) (res : Nat) :
    s.After (s.settleStore x q res) ∧ (s.settleStore x q res).stores = s.stores := by
  unfold State.settleStore
  split
  · exact ⟨(after_complete ..).after (after_bindStored s x), (quiet_stores (quiet_complete ..)).trans (stores_bindStored s x)⟩
  · exact ⟨(after_complete ..).after (.same rfl rfl rfl), (quiet_stores (quiet_complete ..)).trans rfl⟩

section Stored

variable (h : s.admits infoCatalogStored src req = true)

include h

theorem catalogStored_refuses (hbad : (s.stores.find? fun x => x.id.toNat == bits (wordAt req.payload 0) 31 0) = none ∨
    bits (wordAt req.payload 0) 63 56 ∉ [0, 2]) :
    Completes (.catalogStored src req) s infoCatalogStored src req Code.valueOutOfRange [] s :=
  completes_of_admits h rfl fun t ht => ⟨t, ht, by
    have hst : t.stores = s.stores := ht.reads (f := State.stores) fun _ => rfl
    dsimp only
    rw [hst]
    rcases hbad with hno | hres
    · rw [hno]
    · have hres' : (bits (wordAt req.payload 0) 63 56 != 0 && bits (wordAt req.payload 0) 63 56 != 2) = true := by
        simpa using hres
      split
      · rfl
      · rw [if_pos hres']⟩

variable (hx : (s.stores.find? fun x => x.id.toNat == bits (wordAt req.payload 0) 31 0) = some x) {q : Reply} (hq : x.reply = some q)

include hx hq

theorem catalogStored_runs {P : State → Prop} (hres : bits (wordAt req.payload 0) 63 56 ∈ [0, 2])
    (hP : ∀ t, s.Took (replyOf infoCatalogStored src req) t →
      P (((t.dropStore x).complete (replyOf infoCatalogStored src req) Code.ok []).settleStore x q (bits (wordAt req.payload 0) 63 56))) :
    Answers (.catalogStored src req) s P := by
  refine answers_of_admits h rfl fun t ht => ?_
  have hx' : (t.stores.find? fun x => x.id.toNat == bits (wordAt req.payload 0) 31 0) = some x := by
    rw [ht.reads (f := State.stores) fun _ => rfl, hx]
  have hgo : ¬(bits (wordAt req.payload 0) 63 56 != 0 && bits (wordAt req.payload 0) 63 56 != 2) = true := by simpa [imp_iff_not_or] using hres
  have hgoal := hP t ht
  unfold State.settleStore at hgoal
  dsimp only
  rw [hx']
  dsimp only
  rw [if_neg hgo, hq]
  exact hgoal

/-- The first answer of a CATALOG_STORED stays, and its store is off the list. -/
theorem catalogStored_answers (hsrc : ∀ k, src ≠ .session k) {Q : State → Prop} (hres : bits (wordAt req.payload 0) 63 56 ∈ [0, 2])
    (hQ : ∀ w : State, w.quiet = (s.dropStore x).quiet → Q (w.settleStore x q (bits (wordAt req.payload 0) 63 56))) :
    Answers (.catalogStored src req) s fun t =>
      t.answered (replyOf infoCatalogStored src req) 0 Code.ok [] = true ∧ (∀ y ∈ t.stores, y.id ≠ x.id) ∧ Q t := by
  refine catalogStored_runs h hx hq hres fun t ht => ?_
  have hd : (s.dropStore x).Took (replyOf infoCatalogStored src req) (t.dropStore x) := ht.congr (F := fun s => s.dropStore x) (fun _ => rfl) rfl
  have hw := (quiet_complete (t.dropStore x) (replyOf infoCatalogStored src req) Code.ok []).trans hd.quiet
  generalize hwe : (t.dropStore x).complete (replyOf infoCatalogStored src req) Code.ok [] = w at hw
  obtain ⟨hafter, hstores⟩ := settleStore_leaves w x q (bits (wordAt req.payload 0) 63 56)
  refine ⟨answered_after_complete hd.holds (hwe ▸ hafter.laterBox hsrc), fun y hy => ?_, hQ w hw⟩
  rw [hstores, eq_of_quiet (f := State.stores) (fun _ => rfl) hw] at hy
  simpa using (List.mem_filter.1 hy).2

theorem catalogStored_binds (hsrc : ∀ k, src ≠ .session k) (h0 : bits (wordAt req.payload 0) 63 56 = 0) : Answers (.catalogStored src req) s fun t =>
    t.answered (replyOf infoCatalogStored src req) 0 Code.ok [] = true ∧ (∀ y ∈ t.stores, y.id ≠ x.id) ∧
      (∀ n, x.handle ≠ 0 → (∀ c : Cab, s.slotOf c x.handle = none) → firstFree (fun n => (s.slot? x.cab n).isSome) 16384 0 = some n →
        ∃ y, t.slot? x.cab n = some y ∧ y.handle = x.handle ∧ y.version = x.version ∧ y.tenant = x.tenant ∧ y.state = SState.bound) := by
  refine catalogStored_answers h hx hq hsrc (by simp [h0]) fun w hw n _ hno hn => ?_
  have hslots : ∀ c, w.slotOf c x.handle = none := fun c => (eq_of_quiet (f := fun s => s.slotOf c x.handle) (fun _ => rfl) hw).trans (hno c)
  have hn' : firstFree (fun n => (w.slot? x.cab n).isSome) 16384 0 = some n :=
    (eq_of_quiet (f := fun s => firstFree (fun n => (s.slot? x.cab n).isSome) 16384 0) (fun _ => rfl) hw).trans hn
  rw [State.settleStore, if_pos h0, State.slot?, quiet_slots (quiet_complete ..), bindStored_binds hslots hn', ← State.slot?]
  exact ⟨_, slot?_bindSlot (slot?_of_firstFree hn'), rfl, rfl, rfl, rfl⟩

theorem catalogStored_drops (hsrc : ∀ k, src ≠ .session k) (hshape : s.shape = true) (h2 : bits (wordAt req.payload 0) 63 56 = 2) :
    Answers (.catalogStored src req) s fun t =>
      t.answered (replyOf infoCatalogStored src req) 0 Code.ok [] = true ∧ (∀ y ∈ t.stores, y.id ≠ x.id) ∧
        t.catalog = s.catalog.filter fun o => !(o.handle == x.handle && o.version == x.version) := by
  refine catalogStored_answers h hx hq hsrc (by simp [h2]) fun w hw => ?_
  have hlen : w.cp.active.val < w.cts.length := by
    have hl : w.cts.length = s.cts.length := by
      have := congrArg (fun v : State => v.cts.length) hw
      simpa [State.quiet, State.dropStore] using this
    rw [hl, (State.shape_lengths hshape).1]
    exact w.cp.active.isLt
  rw [State.settleStore, if_neg (by rw [h2]; decide), eq_of_quiet catalog_quiet (quiet_complete ..), catalog_dropVersion hlen,
    eq_of_quiet catalog_quiet hw]
  rfl

end Stored

end Sys2Proof.Machine
end
section
/-!
SUPPORT. A run is created (R263 to R267, R269, R289): its slot, its channel, its pages, and the fetches of its source and dataset.
-/

namespace Sys2Proof.Machine

variable {s t u v w : State} {r : Reply} {c : Cab} {n : Nat} {id : BitVec 32} {x : Run} {sh : ShelfImage} {tenant : BitVec 32} {stream : Fin 4096}
  {ws : List Word} {remakeOf : Option Nat} {reply : Option Reply}

/-! ## The span groups of a run (R265) -/

theorem val_groupOf {span : Nat} (h : span ≠ 0) (d : Die) : (groupOf span d).val = d.val / span * span := by
  have hle : d.val / span * span ≤ d.val := Nat.div_mul_le_self ..
  rw [groupOf, if_neg h]
  exact Nat.mod_eq_of_lt (by omega)

theorem groupOf_groupOf {span : Nat} (d : Die) : groupOf span (groupOf span d) = groupOf span d := by
  by_cases h : span = 0
  · simp [groupOf, h]
  · refine Fin.ext ?_
    rw [val_groupOf h, val_groupOf h, Nat.mul_div_cancel _ (Nat.pos_of_ne_zero h)]

theorem groupOf_mem_groupDies {span : Nat} (h : span ≠ 0) (d : Die) : groupOf span d ∈ groupDies span (groupOf span d) := by
  refine List.mem_map.2 ⟨0, List.mem_range.2 (Nat.pos_of_ne_zero h), ?_⟩
  simp

/-- A bitmap of whole span groups has one. -/
theorem groups_ne_nil {m : BitVec 16} (h : s.wholeGroups c m = true) :
    (diesOf m).filter (fun d => groupOf (s.cab c).span d == d) ≠ [] := by
  simp only [State.wholeGroups, Bool.and_eq_true, List.all_eq_true, bne_iff_ne] at h
  obtain ⟨h0, hall⟩ := h
  obtain ⟨d, hd⟩ := List.exists_mem_of_ne_nil _ fun e => h0 (diesOf_isEmpty.1 (List.isEmpty_iff.2 e))
  by_cases hspan : (s.cab c).span = 0
  · exact List.ne_nil_of_mem (List.mem_filter.2 ⟨hd, by simp [groupOf, hspan]⟩)
  · have hg : hasDie m (groupOf (s.cab c).span d).val = true := (hall d hd).2 _ (groupOf_mem_groupDies hspan d)
    exact List.ne_nil_of_mem (List.mem_filter.2 ⟨mem_diesOf.2 hg, by rw [groupOf_groupOf]; exact beq_self_eq_true _⟩)

/-- What START_RUN's refusals leave to a run that may be created. -/
theorem wholeGroups_of_runCode (h : s.runCode tenant ws = none) :
    s.wholeGroups (cabOf (wordAt ws 4)) (BitVec.ofNat 16 (bits (wordAt ws 4) 59 44)) = true := by
  unfold State.runCode at h
  obtain ⟨-, h⟩ := refusal_none.1 h
  obtain ⟨-, h⟩ := refusal_none.1 h
  obtain ⟨h, -⟩ := refusal_none.1 h
  simpa using h

/-! ## The run enters the tables -/

/-- The channel that a run of several span groups claims. -/
def State.vcFor (s : State) (ws : List Word) : Option (Fin 8) :=
  if decide (1 < ((diesOf (BitVec.ofNat 16 (bits (wordAt ws 4) 59 44))).filter fun d =>
      groupOf (s.cab (cabOf (wordAt ws 4))).span d == d).length) then s.freeVc.map fun v => Fin.ofNat 8 v else none

/-- A run claims a channel. -/
def State.claimVc (s : State) (id : BitVec 32) : Option (Fin 8) → State
  | some v => s.modCp fun k => { k with vcs := updAt v.val (fun _ => some id) k.vcs }
  | none => s

/-- The run that a START_RUN makes in a slot. -/
def State.newRun (s : State) (sh : ShelfImage) (tenant : BitVec 32) (stream : Fin 4096) (ws : List Word) (n : Nat) (remakeOf : Option Nat)
    (reply : Option Reply) : Run :=
  runOf s.nextRun tenant stream ws n (s.vcFor ws) sh.meas remakeOf reply

/-- A run in its slot, with its channel and last in the table. -/
def State.enterRun (s : State) (x : Run) : State :=
  let v := (s.bindSlot x.cab x.slot 0 0 (some x.tenant) (some x.id)).claimVc x.id x.vc
  { v with nextRun := x.id + 1, runs := v.runs ++ [x] }

/-- The fresh drawer of a run (R267). -/
def Run.fresh (x : Run) (sh : ShelfImage) : DrawerImage := freshImage sh x.rank x.alpha.toNat x.seed.toNat x.tenant.toNat

/-- The space of a fresh drawer; a source takes its own when it arrives. -/
def State.runRoom (s : State) (x : Run) (sh : ShelfImage) : Option State := if x.source = 0 then s.allocRun? x (x.fresh sh) else some s

/-- ACCEPTED, where a command waits. -/
def State.acceptFor (s : State) : Option Reply → State
  | some q => s.accept q 0
  | none => s

theorem createRun_eq (hsh : (s.cab (cabOf (wordAt ws 4))).shelf = some sh)
    (hn : firstFree (fun n => (s.slot? (cabOf (wordAt ws 4)) n).isSome) 16384 0 = some n) :
    s.createRun tenant stream ws remakeOf reply =
      ((s.enterRun (s.newRun sh tenant stream ws n remakeOf reply)).runRoom (s.newRun sh tenant stream ws n remakeOf reply) sh).elim
        (.inl Code.runNoSpace) fun v => .inr (((v.acceptFor reply).sourceRun (s.newRun sh tenant stream ws n remakeOf reply) sh).fetchDataset
          (s.newRun sh tenant stream ws n remakeOf reply)) := by
  unfold State.createRun
  extract_lets c
  split
  next sh' n' s' hsh' hn' =>
    cases hsh.symm.trans hsh'
    cases (takeSlot_of_firstFree hn).symm.trans hn'
    extract_lets id big vc v1 v2 y v3 room
    have h2 : v2 = v1.claimVc id (s.vcFor ws) := by
      change _ = v1.claimVc id vc
      clear_value vc
      cases vc <;> rfl
    have h3 : v3 = s.enterRun y := by
      change { v2 with nextRun := id + 1, runs := v2.runs ++ [y] } = s.enterRun y
      rw [h2]
      rfl
    have hroom : room = (s.enterRun y).runRoom y sh := by
      rw [← h3]
      rfl
    change _ = ((s.enterRun y).runRoom y sh).elim _ _
    rw [← hroom]
    clear_value room
    cases room with
    | none => rfl
    | some v => cases reply <;> rfl
  next hno => exact absurd (hsh.symm.trans hno) nofun
  next hno => exact absurd ((takeSlot_of_firstFree hn).symm.trans hno) nofun

/-! ## Before and after a request is taken alike -/

/-- The state without its slots and the clock of their use. -/
def State.slotless (s : State) : State := { s with slots := [], useClock := 0 }

theorem State.Took.claimVc (h : s.Took r t) {k : Option (Fin 8)} : (s.claimVc id k).Took r (t.claimVc id k) := by
  cases k with
  | none => exact h
  | some v => exact h.modCp (f := fun k => { k with vcs := updAt v.val (fun _ => some id) k.vcs }) (fun _ => rfl) fun _ => rfl

theorem State.Took.enterRun (h : s.Took r t) : (s.enterRun x).slotless.Took r (t.enterRun x).slotless := by
  have hb : (s.bindSlot x.cab x.slot 0 0 (some x.tenant) (some x.id)).slotless.Took r
      (t.bindSlot x.cab x.slot 0 0 (some x.tenant) (some x.id)).slotless :=
    h.congr (F := fun s => (s.bindSlot x.cab x.slot 0 0 (some x.tenant) (some x.id)).slotless) (fun _ => rfl) rfl
  have he : ∀ s : State, (s.enterRun x).slotless = (let v := ((s.bindSlot x.cab x.slot 0 0 (some x.tenant) (some x.id)).slotless).claimVc x.id x.vc
      { v with nextRun := x.id + 1, runs := v.runs ++ [x] }) := fun s => by
    unfold State.enterRun
    cases x.vc <;> rfl
  rw [he, he]
  exact (hb.claimVc (id := x.id) (k := x.vc)).congr (F := fun v => { v with nextRun := x.id + 1, runs := v.runs ++ [x] }) (fun _ => rfl) rfl

theorem State.Took.allocRun? (h : s.Took r t) {img : DrawerImage} :
    Option.Rel (fun a b => a.Took r b) (s.allocRun? x img) (t.allocRun? x img) := by
  have hg : ((t.tenantGlove? x.tenant).map Glove.id).getD 0 = ((s.tenantGlove? x.tenant).map Glove.id).getD 0 :=
    h.reads (f := fun s => ((s.tenantGlove? x.tenant).map Glove.id).getD 0) fun _ => rfl
  have hp : t.runPages x img = s.runPages x img := h.reads (f := fun s => s.runPages x img) fun _ => rfl
  rw [State.allocRun?, State.allocRun?, hg, hp]
  obtain ⟨ha, hb⟩ | ⟨a, b, ha, hb, hab⟩ := rel_iff.1 (h.allocAll? (l := s.runPages x img) (kind := PKind.run)
    (g := ((s.tenantGlove? x.tenant).map Glove.id).getD 0) (c := x.cab) (o := x.id))
  · rw [ha, hb]
    exact .none
  · rw [ha, hb]
    exact hab.allocAll?

theorem State.Took.runRoom (h : s.Took r t) : Option.Rel (fun a b => a.Took r b) (s.runRoom x sh) (t.runRoom x sh) := by
  unfold State.runRoom
  split
  · exact h.allocRun?
  · exact .some h

theorem allocAll?_slotless {l : List (Die × Nat)} {kind : Fin 16} {g : BitVec 16} {o : BitVec 32} :
    s.slotless.allocAll? l kind g c o = (s.allocAll? l kind g c o).map State.slotless := by
  have hone : ∀ (v : State) (d : Die) (n : Nat), (v.slotless.alloc? d n kind g c o).map Prod.fst =
      ((v.alloc? d n kind g c o).map Prod.fst).map State.slotless := fun v d n => by
    unfold State.alloc?
    by_cases h : v.freeOnDie d < n
    · rw [if_pos h, if_pos (show v.slotless.freeOnDie d < n from h)]
      rfl
    · rw [if_neg h, if_neg (show ¬v.slotless.freeOnDie d < n from h)]
      rfl
  unfold State.allocAll?
  have hall : ∀ a : Option State, l.foldl (fun acc p => acc.bind fun s => (s.alloc? p.1 p.2 kind g c o).map Prod.fst) (a.map State.slotless) =
      (l.foldl (fun acc p => acc.bind fun s => (s.alloc? p.1 p.2 kind g c o).map Prod.fst) a).map State.slotless := by
    induction l with
    | nil => exact fun _ => rfl
    | cons p l ih =>
      intro a
      rw [List.foldl_cons, List.foldl_cons, ← ih]
      cases a with
      | none => rfl
      | some v => simp only [Option.map_some, Option.bind_some, hone]
  exact hall (some s)

theorem runRoom_slotless : s.slotless.runRoom x sh = (s.runRoom x sh).map State.slotless := by
  unfold State.runRoom
  split
  · unfold State.allocRun?
    have h1 : s.slotless.runPages x (x.fresh sh) = s.runPages x (x.fresh sh) := rfl
    have h2 : s.slotless.tenantGlove? x.tenant = s.tenantGlove? x.tenant := rfl
    rw [h1, h2]
    dsimp only
    rw [allocAll?_slotless]
    cases s.allocAll? (s.runPages x (x.fresh sh)) PKind.run (((s.tenantGlove? x.tenant).map Glove.id).getD 0) x.cab x.id with
    | none => rfl
    | some v => exact allocAll?_slotless
  · rfl

/-- There is room for a run once its command is taken where there was before. -/
theorem State.Took.hasRoom (h : s.Took r t) (hs : ((s.enterRun x).runRoom x sh).isSome = true) : ((t.enterRun x).runRoom x sh).isSome = true := by
  have hrel := (h.enterRun (x := x)).runRoom (x := x) (sh := sh)
  rw [runRoom_slotless, runRoom_slotless] at hrel
  obtain ⟨ha, -⟩ | ⟨-, b, -, hb, -⟩ := rel_iff.1 hrel
  · rw [Option.map_eq_none_iff.1 ha] at hs
    cases hs
  · obtain ⟨v, hv, -⟩ := Option.map_eq_some_iff.1 hb
    rw [hv]
    rfl

theorem runRoom_pages (h : s.runRoom x sh = some t) : t = { s with pages := t.pages } := by
  unfold State.runRoom at h
  split at h
  · unfold State.allocRun? at h
    obtain ⟨v, hv, ht⟩ := Option.bind_eq_some_iff.1 h
    rw [allocAll?_pages ht, allocAll?_pages hv]
  · cases h
    rfl

/-- A run that can be created once its command is taken could be before. -/
theorem State.Took.createRun (h : s.Took r t) (hn : firstFree (fun n => (s.slot? (cabOf (wordAt ws 4)) n).isSome) 16384 0 = some n)
    (hc : ∃ u, s.createRun tenant stream ws remakeOf reply = .inr u) : ∃ u, t.createRun tenant stream ws remakeOf reply = .inr u := by
  obtain ⟨u, hu⟩ := hc
  cases hsh : (s.cab (cabOf (wordAt ws 4))).shelf with
  | none =>
    rw [State.createRun, hsh] at hu
    cases hu
  | some sh =>
    have hsh' : (t.cab (cabOf (wordAt ws 4))).shelf = some sh := (h.reads (f := fun s => (s.cab _).shelf) fun _ => rfl).trans hsh
    have hn' : firstFree (fun n => (t.slot? (cabOf (wordAt ws 4)) n).isSome) 16384 0 = some n :=
      (h.reads (f := fun s => firstFree (fun n => (s.slot? (cabOf (wordAt ws 4)) n).isSome) 16384 0) fun _ => rfl).trans hn
    have hnew : t.newRun sh tenant stream ws n remakeOf reply = s.newRun sh tenant stream ws n remakeOf reply :=
      h.reads (f := fun s => s.newRun sh tenant stream ws n remakeOf reply) fun _ => rfl
    rw [createRun_eq hsh hn] at hu
    rw [createRun_eq hsh' hn', hnew]
    cases hr : (s.enterRun (s.newRun sh tenant stream ws n remakeOf reply)).runRoom (s.newRun sh tenant stream ws n remakeOf reply) sh with
    | none =>
      rw [hr] at hu
      cases hu
    | some v =>
      obtain ⟨w, hw⟩ := Option.isSome_iff_exists.1 (h.hasRoom (by rw [hr]; rfl))
      rw [hw]
      exact ⟨_, rfl⟩

/-! ## The source and the dataset are fetched (R267, R269) -/

/-- A change of a slot that leaves what it is bound to. -/
def KeepsBinding (F : Slot → Slot) : Prop := ∀ y, (F y).cab = y.cab ∧ (F y).slot = y.slot ∧ (F y).run = y.run ∧ (F y).state = y.state

/-- What a run's source leaves: fetches of drawers, or the fresh drawer in the slot. -/
structure State.Sourced (s t : State) (x : Run) : Prop where
  fetches : ∀ f ∈ t.fetches, f ∈ s.fetches ∨ f.dataset = false
  ids : ∀ f ∈ t.fetches, f.id.toNat < t.nextFetch.toNat
  next : t.nextFetch.toNat ≤ s.nextFetch.toNat + 16
  rest : ∃ F, KeepsBinding F ∧ t.unfetched = (s.modSlot x.cab x.slot F).unfetched
  chans : t.cp.chans = s.cp.chans
  catalog : ∀ o ∈ t.catalog, o ∈ s.catalog

theorem length_runGroups_le : (s.runGroups x).length ≤ 16 := (List.length_filter_le ..).trans (length_diesOf_le _)

theorem nodup_runGroups : (s.runGroups x).Nodup := (nodup_diesOf _).filter _

variable (hrun : (s.run? x.id).isSome = true) (hids : ∀ f ∈ s.fetches, f.id.toNat < s.nextFetch.toNat)
  (hroom : s.nextFetch.toNat + 17 < 2 ^ 32) (hfree : ∀ f ∈ s.fetches, ¬(f.cab = x.cab ∧ f.slot = x.slot))

include hrun hids hroom hfree

theorem sourceRun_leaves (hcat : ∀ o ∈ s.catalog, o.handle = x.source → o.bytes ≤ maxImage)
    (hslot : ∀ y, s.slot? x.cab x.slot = some y → y.run.isSome = true) : s.Sourced (s.sourceRun x sh) x := by
  unfold State.sourceRun
  split
  · exact ⟨fun f hf => .inl hf, hids, Nat.le_add_right .., ⟨fun y => { y with image := some (x.fresh sh), rank := x.rank },
      fun y => ⟨rfl, rfl, rfl, rfl⟩, rfl⟩, rfl, fun _ h => h⟩
  · extract_lets version
    obtain ⟨fs, hb, hfrom, hlen, -⟩ := startFetches_begin (s := s) (c := x.cab) (n := x.slot) (handle := x.source) (version := version)
      (run := some x.id) (ds := false) (replies := [])
      (F := fun (s : State) g => if (s.run? x.id).isSome then s.startFetch x.cab x.slot g x.source version (some x.id) false [] else s)
      (fun v g hv => if_pos (by rw [eq_of_unfetched (f := fun s => s.run? x.id) (fun _ => rfl) hv]; exact hrun))
      (s.runGroups x) nodup_runGroups s rfl hids (by have := length_runGroups_le (s := s) (x := x); omega)
      (fun f hf g _ h => hfree f hf ⟨h.1, h.2.1⟩) (fun o ho he => ⟨hcat o ho he, .inr ⟨rfl, hslot⟩⟩)
    refine ⟨fun f hf => ?_, fun f hf => ?_, ?_, ⟨fun y => y, fun y => ⟨rfl, rfl, rfl, rfl⟩, ?_⟩, hb.chans, hb.catalog⟩
    · rw [hb.fetches] at hf
      rcases List.mem_append.1 hf with hf | hf
      · exact .inl hf
      · obtain ⟨g, -, ha⟩ := hfrom f hf
        exact .inr ha.dataset
    · rw [hb.fetches] at hf
      rcases List.mem_append.1 hf with hf | hf
      · exact Nat.lt_of_lt_of_le (hids f hf) (hb.next ▸ Nat.le_add_right ..)
      · exact hb.ids f hf
    · have := length_runGroups_le (s := s) (x := x)
      rw [hb.next, hlen]
      omega
    · rw [modSlot_eq_self fun _ _ => rfl]
      exact hb.rest

/-- What the creation of a run's fetches leaves. -/
structure State.RunFetched (s t : State) (x : Run) : Prop where
  fetch : ∃ f ∈ t.fetches, f.run = some x.id ∧ f.dataset = true ∧ f.handle = x.dataset
  rest : ∃ F, KeepsBinding F ∧ t.unfetched = (s.modSlot x.cab x.slot F).unfetched
  chans : t.cp.chans = s.cp.chans

theorem fetches_leave (hg : s.runGroups x ≠ []) (hcat : ∀ o ∈ s.catalog, o.handle = x.source ∨ o.handle = x.dataset → o.bytes ≤ maxImage)
    (hslot : ∀ y, s.slot? x.cab x.slot = some y → y.run.isSome = true) : s.RunFetched ((s.sourceRun x sh).fetchDataset x) x := by
  have h := sourceRun_leaves (sh := sh) hrun hids hroom hfree (fun o ho he => hcat o ho (.inl he)) hslot
  generalize s.sourceRun x sh = v at h
  obtain ⟨F, hF, hrest⟩ := h.rest
  obtain ⟨y, hy⟩ : ∃ y, v.run? x.id = some y := by
    rw [← Option.isSome_iff_exists, eq_of_unfetched (f := fun s => s.run? x.id) (fun _ => rfl) hrest]
    exact hrun
  have hgroups : v.runGroups x = s.runGroups x := (eq_of_unfetched (f := fun s => s.runGroups x) (fun _ => rfl) hrest).trans rfl
  obtain ⟨g, l, hl⟩ := List.exists_cons_of_ne_nil hg
  have he : v.fetchDataset x = v.startFetch x.cab x.slot g x.dataset 0 (some x.id) true [] := by
    simp only [State.fetchDataset, hy, hgroups, hl]
  obtain ⟨f, hb, hask⟩ := startFetch_begins (s := v) (c := x.cab) (n := x.slot) (g := g) (handle := x.dataset) (version := 0) (run := some x.id)
    (ds := true) (replies := []) h.ids (by have := h.next; omega)
    (fun f hf ⟨h1, h2, _, h4⟩ => by
      rcases h.fetches f hf with hf | hf
      · exact hfree f hf ⟨h1, h2⟩
      · exact absurd (hf.symm.trans h4) (by decide))
    fun o ho ho' => ⟨hcat o (h.catalog o ho) (.inr ho'), .inl rfl⟩
  rw [he]
  refine ⟨⟨f, ?_, hask.run, hask.dataset, hask.handle⟩, ⟨F, hF, hb.rest.trans hrest⟩, hb.chans.trans h.chans⟩
  rw [hb.fetches]
  exact List.mem_append_right _ (List.mem_singleton.2 rfl)

end Sys2Proof.Machine
end
section
/-!
PROOF. Runs are started and remade (R62, R255, R263 to R269, R292); the runs' obligation.
-/

namespace Sys2Proof.Machine

variable {s t u v w : State} {r : Reply} {src : Src} {req : Req} {c : Cab} {n : Nat} {x : Run} {sh : ShelfImage} {tenant : BitVec 32}
  {stream : Fin 4096} {ws : List Word} {remakeOf : Option Nat} {reply : Option Reply}

/-! ## A run that was created -/

theorem enterRun_eq (s : State) (x : Run) : s.enterRun x =
    { s with useClock := s.useClock + 1, slotGens := assocPut (x.cab.val, x.slot) (s.slotGen x.cab x.slot + 1) s.slotGens,
             slots := s.slots ++ [s.newSlot x.cab x.slot 0 0 (some x.tenant) (some x.id)],
             cp := (s.claimVc x.id x.vc).cp, nextRun := x.id + 1, runs := s.runs ++ [x] } := by
  unfold State.enterRun
  cases x.vc <;> rfl

theorem chans_claimVc (s : State) (id : BitVec 32) (k : Option (Fin 8)) : (s.claimVc id k).cp.chans = s.cp.chans := by
  cases k <;> rfl

theorem active_claimVc (s : State) (id : BitVec 32) (k : Option (Fin 8)) : (s.claimVc id k).cp.active = s.cp.active := by
  cases k <;> rfl

theorem quiet_acceptFor (s : State) (q : Option Reply) : (s.acceptFor q).quiet = s.quiet := by
  cases q with
  | none => rfl
  | some q => exact quiet_accept ..

theorem acceptedReq_acceptFor {q : Reply} (h : s.Holds q) : (s.acceptFor (some q)).acceptedReq q 0 = true := acceptedReq_accept 0 h

theorem slot?_modSlot_ne {d : Cab} {k : Nat} {F : Slot → Slot} (hF : KeepsBinding F) (h : ¬(d = c ∧ k = n)) :
    (s.modSlot c n F).slot? d k = s.slot? d k := by
  refine find?_updFirst_ne (fun y hy => ?_) s.slots
  obtain ⟨h1, h2, -, -⟩ := hF y
  rw [Bool.and_eq_true, beq_iff_eq, beq_iff_eq] at hy
  have hne : (y.cab == d && y.slot == k) = false := by
    rw [hy.1, hy.2, Bool.eq_false_iff]
    intro he
    rw [Bool.and_eq_true, beq_iff_eq, beq_iff_eq] at he
    exact h ⟨he.1.symm, he.2.symm⟩
  exact ⟨hne, by rw [h1, h2]; exact hne⟩

/-- A run stands last in the table, in a slot of its own, its dataset on the way. -/
structure State.RunMade (s t : State) (x : Run) (reply : Option Reply) : Prop where
  runs : t.runs = s.runs ++ [x]
  next : t.nextRun = x.id + 1
  slot : ∃ y, t.slot? x.cab x.slot = some y ∧ y.run = some x.id ∧ y.state = SState.bound
  others : ∀ d k, (s.slot? d k).isSome = true → t.slot? d k = s.slot? d k
  fetch : ∃ f ∈ t.fetches, f.run = some x.id ∧ f.dataset = true ∧ f.handle = x.dataset
  mem : t.mem = s.mem
  accepted : ∀ q, reply = some q → s.Holds q → t.acceptedReq q 0 = true

/-- The state in which the fetches of a run begin. -/
structure State.RunEntered (s z : State) (x : Run) : Prop where
  runs : z.runs = s.runs ++ [x]
  next : z.nextRun = x.id + 1
  slots : ∃ y : Slot, z.slots = s.slots ++ [y] ∧ y.cab = x.cab ∧ y.slot = x.slot ∧ y.run = some x.id ∧ y.state = SState.bound
  fetches : z.fetches = s.fetches
  nextFetch : z.nextFetch = s.nextFetch
  cabs : z.cabs = s.cabs
  catalog : z.catalog = s.catalog
  mem : z.mem = s.mem

theorem runEntered_of_room (hw : (s.enterRun x).runRoom x sh = some w) : s.RunEntered (w.acceptFor reply) x ∧ w.cp.chans = s.cp.chans := by
  have hp := runRoom_pages hw
  rw [enterRun_eq] at hp
  have hq := quiet_acceptFor w reply
  have hcat : w.catalog = s.catalog := by
    rw [hp, State.catalog]
    change (s.ct (s.claimVc x.id x.vc).cp.active).catalog = _
    rw [active_claimVc, State.catalog]
  have hread : ∀ {α : Type} {f : State → α}, (∀ s : State, f s.quiet = f s) → f (w.acceptFor reply) = f w := fun hf => eq_of_quiet hf hq
  refine ⟨⟨?_, ?_, ⟨s.newSlot x.cab x.slot 0 0 (some x.tenant) (some x.id), ?_, rfl, rfl, rfl, rfl⟩, ?_, ?_, ?_, (hread catalog_quiet).trans hcat, ?_⟩, ?_⟩
  · exact (hread (f := State.runs) fun _ => rfl).trans (by rw [hp])
  · exact (hread (f := State.nextRun) fun _ => rfl).trans (by rw [hp])
  · exact (hread (f := State.slots) fun _ => rfl).trans (congrArg State.slots hp)
  · exact (hread (f := State.fetches) fun _ => rfl).trans (by rw [hp])
  · exact (hread (f := State.nextFetch) fun _ => rfl).trans (by rw [hp])
  · exact (hread (f := State.cabs) fun _ => rfl).trans (by rw [hp])
  · exact (hread (f := State.mem) fun _ => rfl).trans (by rw [hp])
  · rw [hp]
    exact chans_claimVc ..

section Created

variable (hfree : s.slot? x.cab x.slot = none) (hgroups : s.runGroups x ≠ [])
  (hcat : ∀ o ∈ s.catalog, o.handle = x.source ∨ o.handle = x.dataset → o.bytes ≤ maxImage)
  (hslots : ∀ f ∈ s.fetches, (s.slot? f.cab f.slot).isSome = true) (hids : FetchIdsAreNew s)

include hfree hgroups hcat hslots hids

theorem runMade_of_room (hw : (s.enterRun x).runRoom x sh = some w) :
    s.RunMade (((w.acceptFor reply).sourceRun x sh).fetchDataset x) x reply := by
  obtain ⟨hz, hchans⟩ := runEntered_of_room (reply := reply) hw
  have hacc : ∀ q, reply = some q → s.Holds q → (w.acceptFor reply).acceptedReq q 0 = true := by
    rintro q rfl hq
    exact acceptedReq_acceptFor (hq.of_chans hchans)
  generalize w.acceptFor reply = z at hz hacc
  obtain ⟨y, hys, hyc, hyn, hyr, hyst⟩ := hz.slots
  have hfree' : s.slots.find? (fun k => k.cab == x.cab && k.slot == x.slot) = none := hfree
  have hzy : z.slot? x.cab x.slot = some y := by
    rw [State.slot?, hys, List.find?_append, hfree']
    simp [hyc, hyn]
  have hzo : ∀ d k, (s.slot? d k).isSome = true → z.slot? d k = s.slot? d k := by
    intro d k h
    obtain ⟨a, ha⟩ := Option.isSome_iff_exists.1 h
    have ha' : s.slots.find? (fun y => y.cab == d && y.slot == k) = some a := ha
    rw [State.slot?, hys, List.find?_append, ha', ha]
    rfl
  have hzrun : (z.run? x.id).isSome = true := by
    rw [State.run?, List.find?_isSome]
    exact ⟨x, by rw [hz.runs]; exact List.mem_append_right _ (List.mem_singleton.2 rfl), beq_self_eq_true _⟩
  have hzfree : ∀ f ∈ z.fetches, ¬(f.cab = x.cab ∧ f.slot = x.slot) := by
    rintro f hf ⟨h1, h2⟩
    have := hslots f (hz.fetches ▸ hf)
    rw [h1, h2, hfree] at this
    cases this
  have hzgroups : z.runGroups x ≠ [] := by
    have he : z.runGroups x = s.runGroups x := by
      simp only [State.runGroups, State.spanOf, State.cab, hz.cabs]
    rw [he]
    exact hgroups
  obtain ⟨hidl, hidr⟩ := hids
  have hf := fetches_leave (s := z) (sh := sh) hzrun (by rw [hz.fetches, hz.nextFetch]; exact hidl) (by rw [hz.nextFetch]; omega) hzfree hzgroups
    (by rw [hz.catalog]; exact hcat) (fun k hk => by rw [hzy] at hk; cases hk; rw [hyr]; rfl)
  generalize (z.sourceRun x sh).fetchDataset x = v at hf
  obtain ⟨F, hF, hrest⟩ := hf.rest
  have hslot? : v.slot? = (z.modSlot x.cab x.slot F).slot? := eq_of_unfetched (f := State.slot?) (fun _ => rfl) hrest
  obtain ⟨hFc, hFn, hFr, hFs⟩ := hF y
  refine ⟨?_, ?_, ⟨F y, ?_, hFr.trans hyr, hFs.trans hyst⟩, fun d k h => ?_, hf.fetch, ?_, fun q hq hh => acceptedReq_of_chans hf.chans (hacc q hq hh)⟩
  · exact (eq_of_unfetched (f := State.runs) (fun _ => rfl) hrest).trans hz.runs
  · exact (eq_of_unfetched (f := State.nextRun) (fun _ => rfl) hrest).trans hz.next
  · rw [hslot?]
    exact slot?_modSlot hzy ⟨hFc, hFn⟩
  · rw [hslot?, slot?_modSlot_ne hF, hzo d k h]
    rintro ⟨rfl, rfl⟩
    rw [hfree] at h
    cases h
  · exact (eq_of_unfetched (f := State.mem) (fun _ => rfl) hrest).trans hz.mem

end Created

/-- What the creation of a run leaves. -/
theorem createRun_makes (hc : s.createRun tenant stream ws remakeOf reply = .inr v) (hcode : s.runCode tenant ws = none)
    (hcat : ∀ o ∈ s.catalog, o.handle = wordAt ws 0 ∨ o.handle = wordAt ws 3 → o.bytes ≤ maxImage)
    (hn : firstFree (fun n => (s.slot? (cabOf (wordAt ws 4)) n).isSome) 16384 0 ≠ none)
    (hslots : ∀ f ∈ s.fetches, (s.slot? f.cab f.slot).isSome = true) (hids : FetchIdsAreNew s) :
    ∃ sh n, s.RunMade v (s.newRun sh tenant stream ws n remakeOf reply) reply := by
  obtain ⟨n, hn⟩ := Option.ne_none_iff_exists'.1 hn
  cases hsh : (s.cab (cabOf (wordAt ws 4))).shelf with
  | none =>
    rw [State.createRun, hsh] at hc
    cases hc
  | some sh =>
    rw [createRun_eq hsh hn] at hc
    cases hr : (s.enterRun (s.newRun sh tenant stream ws n remakeOf reply)).runRoom (s.newRun sh tenant stream ws n remakeOf reply) sh with
    | none =>
      rw [hr] at hc
      cases hc
    | some w =>
      rw [hr] at hc
      cases hc
      exact ⟨sh, n, runMade_of_room (slot?_of_firstFree hn) (groups_ne_nil (wholeGroups_of_runCode hcode)) hcat hslots hids hr⟩

/-! ## START_RUN (R292) -/

theorem runCode_quiet (s : State) (n : BitVec 32) (ws : List Word) : s.quiet.runCode n ws = s.runCode n ws := by
  have h : ∀ k, s.quiet.othersHandle n k = s.othersHandle n k := fun k => by
    rw [State.othersHandle, State.othersHandle, ownerOf_quiet]
  rw [State.runCode, State.runCode, h, h, h]
  rfl

theorem startRun_refuses (h : s.admits infoStartRun src req = true) {code : Nat}
    (hk : s.runCode ((s.tenantOf (replyOf infoStartRun src req)).getD 0) req.payload = some code) :
    Completes (.startRun src req) s infoStartRun src req code [] s :=
  completes_of_admits h rfl fun t ht => ⟨t, ht, by
    have hk' : t.runCode ((t.tenantOf (replyOf infoStartRun src req)).getD 0) req.payload = some code := by
      rw [ht.tenantOf, ht.reads (f := fun s => s.runCode _ _) fun s => runCode_quiet s _ _, hk]
    simp only [hk']⟩

/-- The run of a START_RUN. -/
theorem startRun_creates (h : s.admits infoStartRun src req = true)
    (hk : s.runCode ((s.tenantOf (replyOf infoStartRun src req)).getD 0) req.payload = none)
    (hc : ∃ u, s.createRun ((s.tenantOf (replyOf infoStartRun src req)).getD 0) req.stream req.payload none
      (some (replyOf infoStartRun src req)) = .inr u)
    (hcat : ∀ o ∈ s.catalog, o.handle = wordAt req.payload 0 ∨ o.handle = wordAt req.payload 3 → o.bytes ≤ maxImage)
    (hn : firstFree (fun n => (s.slot? (cabOf (wordAt req.payload 4)) n).isSome) 16384 0 ≠ none)
    (hslots : ∀ f ∈ s.fetches, (s.slot? f.cab f.slot).isSome = true) (hids : FetchIdsAreNew s) :
    Answers (.startRun src req) s fun v => ∃ sh n t, s.Took (replyOf infoStartRun src req) t ∧
      t.RunMade v (s.newRun sh ((s.tenantOf (replyOf infoStartRun src req)).getD 0) req.stream req.payload n none
        (some (replyOf infoStartRun src req))) (some (replyOf infoStartRun src req)) := by
  refine answers_of_admits h rfl fun t ht => ?_
  have htenant : t.tenantOf (replyOf infoStartRun src req) = s.tenantOf (replyOf infoStartRun src req) := ht.tenantOf
  have hk' : t.runCode ((s.tenantOf (replyOf infoStartRun src req)).getD 0) req.payload = none := by
    rw [ht.reads (f := fun s => s.runCode _ _) fun s => runCode_quiet s _ _, hk]
  obtain ⟨n, hn'⟩ := Option.ne_none_iff_exists'.1 hn
  obtain ⟨v, hv⟩ := ht.createRun hn' hc
  have hfet := quiet_fetches ht.quiet
  obtain ⟨sh, m, hm⟩ := createRun_makes hv hk' (by rw [ht.reads catalog_quiet]; exact hcat)
    (by rw [ht.reads (f := fun s => firstFree (fun n => (s.slot? (cabOf (wordAt req.payload 4)) n).isSome) 16384 0) fun _ => rfl]; exact hn)
    (by rw [hfet, ht.reads (f := State.slot?) fun _ => rfl]; exact hslots)
    (by rw [FetchIdsAreNew, hfet, ht.reads (f := State.nextFetch) fun _ => rfl]; exact hids)
  have hstream : (replyOf infoStartRun src req).stream = req.stream := rfl
  dsimp only
  rw [htenant, hk']
  dsimp only
  rw [hstream, hv]
  refine ⟨sh, m, t, ht, ?_⟩
  rw [ht.reads (f := fun s => s.newRun sh _ _ _ _ _ _) fun _ => rfl] at hm
  exact hm

theorem runStarts : RunStarts := by
  intro s src req h ws w r i tenant c ends others groups program
  have hends : ∀ code, s.runCode tenant ws = some code → ends code := fun code hk => startRun_refuses h hk
  have hothers : (s.othersHandle tenant (w 0) || s.othersHandle tenant (w 2) || s.othersHandle tenant (w 3)) = true ↔ others := by
    simp only [Bool.or_eq_true, or_assoc, others]
  have hstate : ((s.cab c).state != 3) = true ↔ (s.cab c).state ≠ 3 := bne_iff_ne
  refine ⟨fun ho => hends _ ?_, fun ho hst => hends _ ?_, fun ho hst hg => hends _ ?_, fun ho hst hg hp => hends _ ?_,
    fun ho hst hg hp hw => hends _ ?_, fun ho hst hg hp hw hl => hends _ ?_, hends, fun hk hc hcat hn hslots hids => ?_⟩
  · exact if_pos (hothers.2 ho)
  · exact (if_neg (hothers.not.2 ho)).trans (if_pos (hstate.2 hst))
  · exact (if_neg (hothers.not.2 ho)).trans ((if_neg (hstate.not.2 (not_not.2 hst))).trans (if_pos (by simpa [groups] using hg)))
  · exact (if_neg (hothers.not.2 ho)).trans ((if_neg (hstate.not.2 (not_not.2 hst))).trans ((if_neg (by simpa [groups] using hg)).trans
      (if_pos (by simpa [program] using hp))))
  · exact (if_neg (hothers.not.2 ho)).trans ((if_neg (hstate.not.2 (not_not.2 hst))).trans ((if_neg (by simpa [groups] using hg)).trans
      ((if_neg (by simpa [program] using hp)).trans (if_pos (by simpa [ws] using hw)))))
  · exact (if_neg (hothers.not.2 ho)).trans ((if_neg (hstate.not.2 (not_not.2 hst))).trans ((if_neg (by simpa [groups] using hg)).trans
      ((if_neg (by simpa [program] using hp)).trans ((if_neg (by simpa [ws] using hw)).trans (if_pos hl)))))
  · refine (startRun_creates h hk hc hcat hn hslots hids).imp fun v ⟨hv, sh, n, t, ht, hm⟩ => ⟨hv, ?_⟩
    have hruns : t.runs = s.runs := quiet_runs ht.quiet
    refine ⟨hm.accepted _ rfl ht.holds, hm.next, ⟨_, hruns ▸ hm.runs, rfl, rfl, rfl, rfl, rfl, rfl, rfl, rfl, rfl, rfl, rfl, rfl, rfl, rfl,
      hm.slot, hm.fetch⟩, hm.mem.trans (quiet_mem ht.quiet)⟩

/-! ## REMAKE_START (R255, R268) -/

theorem cabOf_word (d : BitVec 16) (w : Word) :
    cabOf (word (put c.val 60 + put d.toNat 44 + put (bits w 35 32) 32 + put (bits w 31 16) 16)) = c := by
  have h1 := d.isLt
  have h2 := bits_lt w 35 32
  have h3 := bits_lt w 31 16
  have h4 := c.isLt
  refine Fin.ext ?_
  rw [cabOf, bits_word _ _ _ (by decide), Fin.val_ofNat]
  simp only [put, Nat.shiftLeft_eq]
  omega

/-- A remake runs in the cabinet of its slot. -/
theorem cabOf_remakeWords {y : Slot} {k : RemakeConsent} : cabOf (wordAt (s.remakeWords c y k) 4) = c := cabOf_word _ _

theorem maxSteps_remakeWords {y : Slot} {k : RemakeConsent} : bits (wordAt (s.remakeWords c y k) 5) 31 0 = k.maxSteps % 2 ^ 32 := by
  change bits (word (put _ 32 + k.maxSteps)) 31 0 = _
  rw [bits_word _ _ _ (by decide), put, Nat.shiftLeft_eq]
  omega

/-- A slot has left the remake queue. -/
def State.unqueue (s : State) (c : Cab) (n : Nat) : State := { s with remakeQ := s.remakeQ.eraseP fun q => q == (c, n) }

/-- A stale slot stands in REMAKING. -/
def Slot.remade (y : Slot) : Slot := if y.state = SState.stale then { y with state := SState.remaking } else y

/-- What becomes of a slot that has left the remake queue. -/
def State.remakeSlot (u : State) (c : Cab) (n : Nat) : State :=
  match u.slot? c n with
  | none => u
  | some x =>
    match u.consentFor x.tenant c with
    | none => u
    | some k =>
      if x.state != SState.stale then u
      else
        match (match u.runCode x.tenant (u.remakeWords c x k) with
          | some code => (.inl code : Nat ⊕ State)
          | none => u.createRun x.tenant 0 (u.remakeWords c x k) (some n) none) with
        | .inl code => u.tell c n code
        | .inr v => v.modSlot c n Slot.remade

theorem remakeStart_idle (h : (s.cab c).state ≠ 3 ∨ (s.remakeQ.find? fun p => p.1 == c) = none) :
    Answers (.remakeStart c) s fun t => t = s := by
  refine ⟨_, rfl, ?_⟩
  rcases h with h | h
  · exact if_pos (by simpa using h)
  · rw [h]
    exact ite_self _

theorem exec_remakeStart (hst : (s.cab c).state = 3) (hp : (s.remakeQ.find? fun p => p.1 == c) = some (c, n)) :
    exec (.remakeStart c) s = .next ((s.unqueue c n).remakeSlot c n) := by
  have hst' : ¬((s.cab c).state != 3) = true := by simp [hst]
  change execRemakeStart c s = _
  rw [execRemakeStart, if_neg hst', hp]
  rfl

section RemakeSlot

variable {u : State} {x : Slot} {k : RemakeConsent}

theorem remakeSlot_unbound (hx : u.slot? c n = none) : u.remakeSlot c n = u := by
  rw [State.remakeSlot, hx]

variable (hx : u.slot? c n = some x)

include hx

theorem remakeSlot_fresh (h : u.consentFor x.tenant c = none ∨ x.state ≠ SState.stale) : u.remakeSlot c n = u := by
  rw [State.remakeSlot, hx]
  cases hk : u.consentFor x.tenant c with
  | none => simp only [hk]
  | some k =>
    have hst : x.state ≠ SState.stale := h.resolve_left (by simp [hk])
    simp only [hk]
    exact if_pos (by simpa using hst)

variable (hk : u.consentFor x.tenant c = some k) (hst : x.state = SState.stale)

include hk hst

theorem remakeSlot_refused {code : Nat} (hcode : u.runCode x.tenant (u.remakeWords c x k) = some code) :
    u.remakeSlot c n = u.tell c n code := by
  rw [State.remakeSlot, hx]
  simp only [hk, hcode]
  exact if_neg (by simp [hst])

theorem remakeSlot_creates {v : State} (hcode : u.runCode x.tenant (u.remakeWords c x k) = none)
    (hv : u.createRun x.tenant 0 (u.remakeWords c x k) (some n) none = .inr v) :
    u.remakeSlot c n = v.modSlot c n Slot.remade := by
  rw [State.remakeSlot, hx]
  simp only [hk, hcode, hv]
  exact if_neg (by simp [hst])

/-- A remake takes its stale slot into REMAKING and enters its run. -/
theorem remakeSlot_makes {v : State} (hcode : u.runCode x.tenant (u.remakeWords c x k) = none)
    (hv : u.createRun x.tenant 0 (u.remakeWords c x k) (some n) none = .inr v)
    (hcat : ∀ o ∈ u.catalog, o.handle = x.handle ∨ o.handle = k.dataset → o.bytes ≤ maxImage)
    (hn : firstFree (fun n => (u.slot? c n).isSome) 16384 0 ≠ none)
    (hslots : ∀ f ∈ u.fetches, (u.slot? f.cab f.slot).isSome = true) (hids : FetchIdsAreNew u) :
    (∃ y, (u.remakeSlot c n).slot? c n = some y ∧ y.state = SState.remaking ∧ y.handle = x.handle) ∧
      ∃ z, (u.remakeSlot c n).runs = u.runs ++ [z] ∧ z.id = u.nextRun ∧ z.remakeOf = some n ∧ z.source = x.handle ∧
        z.outHandle = x.handle ∧ z.dataset = k.dataset ∧ z.maxSteps = k.maxSteps % 2 ^ 32 ∧ z.stream = 0 ∧ z.tenant = x.tenant ∧
        z.cab = c := by
  rw [← cabOf_remakeWords (s := u) (c := c) (y := x) (k := k)] at hn
  obtain ⟨sh, m, hm⟩ := createRun_makes hv hcode hcat hn hslots hids
  have hslot : v.slot? c n = some x := (hm.others c n (by rw [hx]; rfl)).trans hx
  have hr : x.remade = { x with state := SState.remaking } := if_pos hst
  rw [remakeSlot_creates hx hk hst hcode hv]
  refine ⟨⟨x.remade, slot?_modSlot hslot (by rw [hr]; exact ⟨rfl, rfl⟩), by rw [hr], by rw [hr]⟩, _, hm.runs, rfl, rfl, rfl, rfl, rfl,
    maxSteps_remakeWords, rfl, rfl, cabOf_remakeWords⟩

end RemakeSlot

theorem storesAndRemakes : StoresAndRemakes := by
  refine ⟨?_, ?_⟩
  · intro s src req h hsrc w r i store
    exact ⟨catalogStored_refuses h, fun x q hx hq => ⟨catalogStored_binds h hx hq hsrc, catalogStored_drops h hx hq hsrc⟩⟩
  · intro s c p
    refine ⟨remakeStart_idle, fun n hst hp => ?_⟩
    have hexec := exec_remakeStart hst hp
    refine ⟨fun hx => ⟨_, hexec, remakeSlot_unbound hx⟩, fun x hx => ⟨fun h => ⟨_, hexec, ?_⟩, fun k code hk hs hc => ⟨_, hexec, ?_⟩, ?_⟩⟩
    · exact remakeSlot_fresh (u := s.unqueue c n) hx h
    · exact remakeSlot_refused (u := s.unqueue c n) hx hk hs hc
    · intro k v hk hs ws hc hv hcat hn hslots hids
      exact ⟨_, hexec, remakeSlot_makes (u := s.unqueue c n) hx hk hs hc hv hcat hn hslots hids⟩

/-- Settles O22: a started run is the one that `createRun` enters in STARTING, with its fetches begun; a command on a run either leaves
the run as it was or lets it wane; a stored version is bound or dropped, and a stale slot with a consent becomes a run's source. -/
theorem runsAreStartedAndCommanded : Obligations.RunsAreStartedAndCommanded := ⟨runStarts, runsAreCommanded, storesAndRemakes⟩

end Sys2Proof.Machine
end
